-- ==== Sys2Proof/Word.lean ====
section
/-! DEFINITION. The word types of the CX9: bytes, 64-bit registers and words, 64-byte lines. -/

namespace Sys2Proof

/-- One byte of the store, of a packet or of a message. -/
abbrev Byte := BitVec 8

/-- One register or one 64-bit field. -/
abbrev Word := BitVec 64

/-- One 64-byte line, or one 64-byte command packet; byte i is bits 8i+7 to 8i (R8, R9). -/
abbrev Line := BitVec 512

end Sys2Proof
end

