-- ==== Sys2Proof/Syntax.lean ====
section
/-! DEFINITION. The commands of the CX9 as a block: one constructor of `Instr` for each row of spec/opcode_table.json,
with the operands that the row's rule gives it, and the messages and transfers those operands carry. -/

namespace Sys2Proof

/-- Who issued a command packet: a command queue (R64), the unit-scope path (R82), the mailbox (R518), or Easel firmware
acting by itself with the packet given (R510 step 8). -/
inductive Req where
  | q (n : Fin 512)
  | unit
  | mbox
  | fw (pkt : Line)
deriving DecidableEq, Repr

/-- Symbol errors that a stack read meets: pairs of a symbol number of R94 and the pattern XORed onto the symbol. -/
abbrev SymErrs := List (Nat × Byte)

/-- A Talku message: header fields of R257, 16-byte units and 64-byte data units (R258). -/
structure TMsg where
  type : Nat := 0
  len : Nat := 0
  bulk : Bool := false
  tag : Nat := 0
  addr : Nat := 0
  credit : Option Nat := none
  load : Nat := 0
  status : Nat := 0
  detail : Nat := 0
  poison : Bool := false
  units : List (BitVec 128) := []
  data : List Line := []
deriving DecidableEq, Repr

/-- A Talku message as it arrives at a port: the virtual channel it came on, whether one of its reserved fields is non-zero, what its access finds in the
cells of the line it names (symbol errors, R100; on-die ECC reports, R109), and the message. -/
structure TIn where
  vc : Nat := 0
  rsv : Bool := false
  errs : SymErrs := []
  m : TMsg
deriving DecidableEq, Repr

/-- A Dorrus message: header fields of R296 and 64-byte units (R297). -/
structure DMsg where
  type : Nat := 0
  len : Nat := 0
  retx : Bool := false
  dst : Nat := 0
  src : Nat := 0
  order : Nat := 0
  neg : Nat := 0
  detour : Bool := false
  dateline : Bool := false
  srcDomain : Nat := 0
  cls : Nat := 0
  credit : Option Nat := none
  poison : Bool := false
  tag : Nat := 0
  win : Nat := 0
  atag : Nat := 0
  srcBoot : Nat := 0
  woff : Nat := 0
  status : Nat := 0
  detail : Nat := 0
  hops : Nat := 0
  failNode : Nat := 0
  failDir : Nat := 0
  units : List Line := []
deriving DecidableEq, Repr

/-- A Dorrus message as it arrives at a port: the class of the virtual channel it came on, whether a reserved field is non-zero,
what its access finds in the cells of the line it names (symbol errors, R100; on-die ECC reports, R109), and the message. -/
structure DIn where
  cls : Nat := 0
  rsv : Bool := false
  errs : SymErrs := []
  m : DMsg
deriving DecidableEq, Repr

/-- A flit as received on a link: what the FEC decoder said of its codeword (number of corrected symbols, or uncorrectable),
its 32-byte header and its 608-byte body (R252, R253, R290). -/
structure Flit where
  uncorrectable : Bool := false
  corrected : Nat := 0
  hdr : BitVec 256 := 0
  body : List Byte := []
deriving DecidableEq, Repr

/-- What a link control exchange at the end of a training brings (R255, R291): which lanes trained, whether full training or
retrain failed otherwise, the partner's node number and SPAN_ID, its receive buffers in 16-byte units per virtual channel,
and the lane inversions and reversal found (R564, R575). -/
structure TrainResult where
  lanes : BitVec 8 := 0xff
  ok : Bool := true
  node : Nat := 0
  span : Nat := 0
  buffers : List Nat := []
  inverted : BitVec 8 := 0
  reversed : Bool := false
deriving DecidableEq, Repr

/-- The commands and events of the CX9: one constructor for each row of spec/opcode_table.json. -/
inductive Instr where
  | nop (r : Req)
  | csrRead (r : Req)
  | csrWrite (r : Req)
  | stage (r : Req)
  | check (r : Req)
  | commit (r : Req)
  | commitEdge
  | commitDone
  | abandon (r : Req)
  | stageExpire
  | domainCreate (r : Req)
  | domainDestroy (r : Req)
  | destroyStep (d : Fin 32)
  | keyLoad (r : Req)
  | sanitise (r : Req)
  | gessoTake
  | gessoExtentDone
  | segLoad (r : Req)
  | rangeInvalidate (r : Req)
  | invalAck (agent : Fin 658)
  | ackTimeout
  | missTimeout (tag : Fin 128)
  | windowOpen (r : Req)
  | windowClose (r : Req)
  | leaseGrant (r : Req)
  | leaseRenew (r : Req)
  | leaseRevoke (r : Req)
  | leaseExpiryScan (tick : Nat)
  | publish (r : Req)
  | ownTransfer (r : Req)
  | ownAccept (r : Req)
  | ownReclaimTimer (region : Fin 196608)
  | ownReleaseTimeout (region : Fin 196608)
  | ownAcceptTimeout (node : Fin 16384) (region : Nat)
  | copy (r : Req)
  | fill (r : Req)
  | observe (r : Req)
  | matmul (r : Req)
  | route (r : Req)
  | streamWindow (r : Req)
  | stagingFillDone (tile : Fin 64)
  | slotBind (r : Req)
  | gatherPool (r : Req)
  | rowReplace (r : Req)
  | replaceApply (key : Nat)
  | rowMigrate (r : Req)
  | migrateGraceEnd (key : Nat)
  | prefetchIndices (r : Req)
  | search (r : Req)
  | sideAppend (r : Req)
  | sideDelete (r : Req)
  | merge (r : Req)
  | mergeBuildDone (r : Req)
  | mergeDrainEnd (r : Req)
  | bitwise (r : Req)
  | powerState (r : Req)
  | p2Entry
  | p2ExitDone
  | p3Entry
  | p3EntryDone
  | p3ExitVddReady
  | p3ExitPllLock
  | p3ExitDone
  | clockSet (r : Req)
  | clockRelockDone
  | shadowBegin (r : Req)
  | shadowCompare (r : Req)
  | expelVote (r : Req)
  | voteTimeout
  | voteLapse (i : Fin 5)
  | attest (r : Req)
  | attestTimeout
  | fwStage (r : Req)
  | fwActivate (r : Req)
  | fwActivateReset
  | cx6Nop (q : Fin 512)
  | cx6Copy (q : Fin 512)
  | cx6Fill (q : Fin 512)
  | cx6GatherPool (q : Fin 512)
  | cmdQDb (q : Fin 512) (prod : BitVec 16)
  | cmdQCqDb (q : Fin 512) (head : BitVec 16)
  | queueEnable (q : Fin 512)
  | queueDisable (q : Fin 512)
  | queueReset (q : Fin 512)
  | commandAccept
  | commandStart (r : Req)
  | completionWrite (r : Req)
  | tileWakeDone (tile : Fin 64)
  | tileGate (tile : Fin 64)
  | unitCmd (p : Fin 12) (i : DIn)
  | unitAck (p : Fin 12) (i : DIn)
  | unitCpl (p : Fin 12) (i : DIn)
  | unitAckTimeout (node : Fin 16384)
  | unitCplTimeout (node : Fin 16384)
  | homeRead (offset : Nat) (domain : Fin 32) (cls : Option Bool) (errs : SymErrs)
  | homeWrite (offset : Nat) (domain : Fin 32) (cls : Option Bool) (mask : BitVec 64) (data : Line)
  | homeAtomic (offset : Nat) (domain : Fin 32) (cls : Option Bool) (operand : Line)
  | scrubRead (k : Fin 8) (errs : SymErrs)
  | stkRepair (k : Fin 8) (pc : Fin 64) (pin : Fin 64)
  | repairDone (k : Fin 8)
  | stkTempRead (temps : List Nat)
  | stkParityError (k : Fin 8) (second : Bool)
  | stkTrainDone (k : Fin 8) (trained kat : Bool)
  | stkInitDone (k : Fin 8)
  | creditHoldExpire (k : Fin 8)
  | snoopTimeout (p : Fin 4) (line : Nat)
  | walkDone (p : Fin 4)
  | rdS (p : Fin 4) (i : TIn)
  | rdO (p : Fin 4) (i : TIn)
  | rdU (p : Fin 4) (i : TIn)
  | wrU (p : Fin 4) (i : TIn)
  | wrUp (p : Fin 4) (i : TIn)
  | tlkAtom (p : Fin 4) (i : TIn)
  | wb (p : Fin 4) (i : TIn)
  | evict (p : Fin 4) (i : TIn)
  | snpAck (p : Fin 4) (i : TIn)
  | snpData (p : Fin 4) (i : TIn)
  | mwRead (p : Fin 4) (i : TIn)
  | mwWrite (p : Fin 4) (i : TIn)
  | missReply (p : Fin 4) (i : TIn)
  | tlkFlit (p : Fin 4) (f : Flit)
  | violWindowClose (port : Fin 16)
  | lostTimeExpire (p : Fin 4)
  | tlkRetrain (p : Fin 4)
  | tlkRelease (p : Fin 4)
  | declareLost (p : Fin 4)
  | linkTrainDone (port : Fin 16) (t : TrainResult)
  | linkDown (port : Fin 16)
  | linkIdle (port : Fin 16)
  | linkWakeDone (port : Fin 16)
  | drsFlit (p : Fin 12) (f : Flit)
  | drsRetrain (p : Fin 12)
  | drsRelease (p : Fin 12)
  | holdDownEnd (trunk : Fin 6)
  | forward (p : Fin 12) (i : DIn)
  | rd (p : Fin 12) (i : DIn)
  | wr (p : Fin 12) (i : DIn)
  | wrp (p : Fin 12) (i : DIn)
  | drsAtom (p : Fin 12) (i : DIn)
  | drsData (p : Fin 12) (i : DIn)
  | drsCmp (p : Fin 12) (i : DIn)
  | ares (p : Fin 12) (i : DIn)
  | drsRetry (p : Fin 12) (i : DIn)
  | drsCreditReady (p : Fin 12) (i : DIn)
  | noroute (p : Fin 12) (i : DIn)
  | drsNak (p : Fin 12) (i : DIn)
  | routeFenceRelease (node : Fin 16384)
  | deadEntryAgeOut (i : Fin 64)
  | rspTimeout (tag : Nat)
  | atomResendTimer (tag : Nat)
  | replayEntryExpire (src : Fin 16384) (atag : Nat) (age : Nat)
  | coalesceExpire
  | gatewayShip
  | bulkWr (p : Fin 12) (i : DIn)
  | bulkAck (p : Fin 12) (i : DIn)
  | pmsg (p : Fin 12) (i : DIn)
  | ownOffer (p : Fin 12) (i : DIn)
  | accept (p : Fin 12) (i : DIn)
  | ownRelease (p : Fin 12) (i : DIn)
  | released (p : Fin 12) (i : DIn)
  | ownReclaim (p : Fin 12) (i : DIn)
  | ownAnswer (p : Fin 12) (i : DIn)
  | tokenGrant (p : Fin 12) (i : DIn)
  | tokenAck (p : Fin 12) (i : DIn)
  | tokenRenew (tick : Nat)
  | tokenExpire
  | beatTimer (tick : Nat)
  | leadTimeout
  | beat (p : Fin 12) (i : DIn)
  | claim (p : Fin 12) (i : DIn)
  | quorumGrant (p : Fin 12) (i : DIn)
  | vote (p : Fin 12) (i : DIn)
  | expel (p : Fin 12) (i : DIn)
  | shadow (p : Fin 12) (i : DIn)
  | clean (p : Fin 12) (i : DIn)
  | admitMember (p : Fin 12) (i : DIn)
  | quorumAck (p : Fin 12) (i : DIn)
  | attestRequest (p : Fin 12) (i : DIn)
  | attestAnswer (p : Fin 12) (i : DIn)
  | engineWdtExpire (engine : Nat)
  | easelWdtExpire (east : Bool)
  | easelCoreRestarted (east : Bool)
  | petW
  | petE
  | shaperRefill (tick : Nat)
  | egressSend (port : Fin 16)
  | ingressTake (east : Bool)
  | trfSampleTick (tick : Nat)
  | trfClear
  | recordEntry
  | evqPop (x : Fin 3) (flips : List (BitVec 72))
  | flushEvent
  | flushFault
  | flushTrace
  | evqTraceMark (value : Word)
  | topFatalStickyClear
  | registerWrite (addr : Nat) (value mask : Word)
  | pwrOkRise (tick : Nat)
  | pwrOkFall (tick : Nat)
  | devResetNFall (tick : Nat)
  | devResetNRise (tick : Nat)
  | wakeNFall (tick : Nat)
  | wakeNRise (tick : Nat)
  | inputStuckTimeout (i : Fin 3)
  | inputOverrunEnd (i : Fin 3) (edges : Nat) (level : Bool)
  | unmask (i : Fin 3)
  | pwrCtrlWake
  | flashReadDone (image : List Byte) (broke : Bool)
  | startTimeoutExpire
  | startOk
  | clearFails
  | bootCtrlReset
  | imgBegin
  | bootImgData (value : Word)
  | imgEnd
  | mboxGo
  | i3cPrivateWrite (addr : BitVec 7) (bytes : List Byte) (parityOk : Bool)
  | i3cPrivateRead (addr : BitVec 7)
  | entdaa (addr : BitVec 7)
  | setdasa (static dynamic : BitVec 7)
  | setnewda (addr new : BitVec 7)
  | rstdaa
  | getpid (addr : BitVec 7)
  | getbcr (addr : BitVec 7)
  | getdcr (addr : BitVec 7)
  | getstatus (addr : BitVec 7)
  | getmwl (addr : BitVec 7)
  | getmrl (addr : BitVec 7)
  | jctSensorRead (temps : List Nat)
  | thermalRestart
  | stackTempHoldRead (temps : List Nat)
  | avsFrameDone (ok : Bool) (value : Nat)
  | avsReadbackTimer
  | avsMonitorPoll (current temp : Nat)
  | avsRetryTimer
  | halfReset (east : Bool)
  | halfResetRelease (east : Bool)
  | portEnable (port : Fin 16) (on : Bool)
  | pcPowerDown (k : Fin 8) (pc : Fin 64)
  | refpb (k : Fin 8) (pc : Fin 64) (bank : Fin 48)
  | flashWriteDone (ok : Bool)
  | jtagBypass
  | jtagIdcode
  | jtagSamplePreload
  | jtagExtest
  | jtagClamp
  | jtagHighz
  | startPllLock
  | hostWaitExpire
  | imageVerifyDone
  | easelStart
deriving DecidableEq, Repr

end Sys2Proof
end

