-- ==== Sys2Proof/Config.lean ====
section
/-! DEFINITION. What one CX9 part or installation fixes and what the spec leaves open: the fixed numbers that many
definitions share, the free values (constants without a body) and the cryptographic primitives the spec names but takes
from other standards (constants without a body). -/

namespace Sys2Proof.Config

/-- A free value: the n-th value the spec leaves open. Nothing in the model constrains it (assumption log 3). -/
opaque freeValue : Nat → BitVec 64

/-- SHA-384 of a byte string, as a number (FIPS 180-4; R27, R508, R520). No body: the model proves nothing about a digest
(assumption log 4). -/
opaque sha384 : List (BitVec 8) → BitVec 384

/-- AES-256 encryption of one 16-byte block under a 256-bit key (FIPS 197; R143). No body (log 4). -/
opaque aes256Encrypt : BitVec 256 → BitVec 128 → BitVec 128

/-- AES-256 decryption of one 16-byte block under a 256-bit key (FIPS 197; R143). No body (log 4). -/
opaque aes256Decrypt : BitVec 256 → BitVec 128 → BitVec 128

/-- The activations of a bank after which a stack's advertised RFM thresholds require an RFM command (R113): a property of the stack part. No
body (assumption log 122). -/
opaque rfmThreshold : Nat → Nat

/-- The local offset at which a window of another device starts there (TGT_OFF of its STN_WIN, R177, R304): no register or message of this
device holds it. No body (log 18). -/
opaque windowBase : Nat → Nat → Nat

/-- Bits of TOP_ROLE that a span-scope CHECK finds committed or staged at another device of the span: by a number that each such check takes anew,
and by node. No body (log 32). -/
opaque roleFound : Nat → Nat → BitVec 32

/-- HKDF-SHA-384 of RFC 5869 with an empty salt: input key, info string, output of `n` bytes (R140). No body (log 4). -/
opaque hkdfSha384 : BitVec 384 → List (BitVec 8) → Nat → List (BitVec 8)

/-- AES Key Wrap unwrapping of RFC 3394: `none` where the integrity check fails (R140, R141). No body (log 4). -/
opaque aesKwUnwrap : List (BitVec 8) → List (BitVec 8) → Option (List (BitVec 8))

/-- The x-coordinate of the ECDH exchange of the device's key-transport key with a P-384 point (R140). No body (log 4). -/
opaque ecdhP384X : BitVec 384 → BitVec 384 → BitVec 384

/-- Whether (x, y) is a point of P-384 other than the point at infinity (R141 order 6). No body (log 4). -/
opaque onP384 : BitVec 384 → BitVec 384 → Bool

/-- Whether an ECDSA P-384 signature over a digest verifies under a public key, all as byte strings (R508). No body (log 4). -/
opaque ecdsaVerify : List (BitVec 8) → BitVec 384 → List (BitVec 8) → Bool

/-- The signature of the attestation key over a digest (R520). No body (log 4). -/
opaque ecdsaSign : BitVec 384 → List (BitVec 8)

/-- The three certificates of the device in the order of R526. No body (log 4). -/
opaque certChain : List (List (BitVec 8))

/-- The fused 384-bit hash of the firmware-signing key (BOOT_KEY_HASH, R532): set per part. No body (log 5). -/
opaque fusedKeyHash : BitVec 384

/-- The security version floor that the fuses hold at power-up (BOOT_FUSE.SVN_FLOOR): set per part. No body (log 5). -/
opaque fusedSvnFloor : Nat

/-- The fused voltage of an operating point in mV (CLK_OP_VID[op].VID_MV, R543, R552): set per part. No body (log 5). -/
opaque fusedVid : Nat → Nat

/-- The levels that the board puts on STRAP_SA[2:0] (R566, R569). No body (log 5). -/
opaque strapSa : BitVec 3

/-- Whether the fuses read without an uncorrectable error (R515, R516). No body (log 5). -/
opaque fuseOk : Bool

/-- BOOT_FUSE.SRC: true when the fuses name the host as the only source (R511). No body (log 5). -/
opaque fuseHostOnly : Bool

/-- What the SFDP tables of the board's flash advertise (R512): `none` for no signature; log2 of its bytes, whether 1-4-4 and 1-1-4 reads are
advertised, and log2 of the largest erase type of 64 KiB or less. No body (log 5). -/
opaque flashSfdp : Option (Nat × Bool × Bool × Nat)

/-- The 48-bit I3C provisioned identifier of the part (GETPID): set per part. No body (log 5). -/
opaque provisionedId : BitVec 48

/-- Ocloth's manufacturer identity in bits 11:1 of IDCODE, which OCL-CX9-BM gives (R571). No body (log 5). -/
opaque jtagManufacturer : BitVec 11

/-- Whether a link control flit's LCTL reports a reset of the host: the spec does not state how it is coded. No body (log 38). -/
opaque lctlHostReset : BitVec 128 → Bool

/-- The node of the span manager with an index, as the installation has placed it (R34): no register of the device holds it. No body
(assumption log 31). -/
opaque spanManager : Nat → BitVec 14

/-- The node of the manager of a group of the span, as the installation has placed it (R29): no register of the device holds it. No
body (log 31). -/
opaque groupManager : Nat → BitVec 14

end Sys2Proof.Config
end

