-- ==== Sys2Proof/Machine/State.lean ====
section
/-! DEFINITION. The state of the CX9 as plain data. Registers whose contents software can read at an address live at that
address in `csr` (one home each); everything the spec gives the device beside its registers stands in the structures below. -/

namespace Sys2Proof.Machine

/-- A sparse table: keys strictly rising, no entry equal to the table's default. -/
abbrev Tbl (α : Type) := List (Nat × α)

/-! ## Records and stops -/

/-- Why a step stops with a fault. -/
inductive Fault where
  /-- Raised by `exec` for a command whose operands are outside what its row of the table can carry (a packet or message of
  the wrong length, an index outside its range): no such command can be given to the hardware. Safe. -/
  | illFormed
deriving DecidableEq, Repr

/-- Why a step is refused. -/
inductive Refusal where
  /-- Raised by an arm of `exec` for a row of the opcode table that has no meaning yet. Safe. -/
  | notModelled (mnemonic : String)
deriving DecidableEq, Repr

/-- A completion: STATUS, DETAIL, COUNT_A, COUNT_B and result of a completion record (R62); of a command that the leading span manager carried
out, the bytes of that manager's record, which is returned unchanged (R39). -/
structure Cpl where
  status : Nat := 0
  detail : Nat := 0
  a : Nat := 0
  b : Nat := 0
  result : Nat := 0
  raw : List Byte := []
deriving DecidableEq, Repr

/-- Who issued a command (R82): a command queue, the unit-scope path, the mailbox, or firmware by itself; `bg` stands for a background
fetch of a queue's stream engines or Curd engine (R395, R410). -/
inductive Iss where
  | q (n : Nat)
  | unit
  | mbox
  | fw
  | bg (queue : Nat)
deriving DecidableEq, Repr

/-! ## Event, fault and trace queues (R468 to R483) -/

/-- A record of R470 without the fields that its entry into a queue adds. -/
structure Rec where
  code : Nat
  cls : Nat
  inst : Nat
  dom : Option Nat
  detail : Nat
  countA : Nat
  addr : Nat
  tick : Nat
deriving DecidableEq, Repr

/-- A record waiting at its source: the source's row of R472 and instance, and the queue it is for (0 event, 1 fault, 2 trace). -/
structure Held where
  row : Nat
  srcInst : Nat
  x : Nat
  r : Rec
deriving DecidableEq, Repr

/-- A record in its queue: sequence number, PRIOR_DROP and the record. -/
structure QRec where
  seq : Nat
  prior : Bool
  r : Rec
deriving DecidableEq, Repr

/-- The EVQ block beside its registers: the three queues (oldest first), the records waiting at their sources (in the order
raised), the sources that owe a PRIOR_DROP mark, the next bank of each queue, and the AON cycle of the next record entry where it lies ahead
of the AON counter. -/
structure EvqSt where
  event : List QRec := []
  fault : List QRec := []
  trace : List QRec := []
  held : List Held := []
  owed : List (Nat × Nat × Nat) := []
  bankEvent : Nat := 0
  bankFault : Nat := 0
  bankTrace : Nat := 0
  entryAt : Nat := 0
deriving DecidableEq, Repr

/-! ## The store (R92 to R123) -/

/-- What is stored beside a line's data: POISON, PCAUSE and DIR of META (R95). -/
structure Meta where
  poison : Bool := false
  pcause : Nat := 0
  dir : Nat := 0
deriving DecidableEq, Repr

/-- A lane repair in progress (R107). -/
structure Repair where
  stack : Nat
  pc : Nat
  pin : Nat
deriving DecidableEq, Repr

/-- The eight stacks beside their registers: line metadata by line number, per-pin tallies (R106; key (stack × 64 + pc) × 64 +
pin), repairs in progress, the pseudo-channels in power-down (R116), the tick of the last access of each pseudo-channel, the tick of the
last refresh of each bank (per bank R112, and all banks of a stack R117), the key RAM of the Rind engines (R141), the symbol errors that
stand in stored lines (R100), the open row of each bank (row + 1) and its activations since its last RFM command (R113, keys as the refresh
ticks'), and the tick of each stack's last scrub read (R110). -/
structure StoreSt where
  lines : Tbl Meta := []
  tally : Tbl Nat := []
  repairs : List Repair := []
  down : List Nat := []
  lastUse : Tbl Nat := []
  lastRef : Tbl Nat := []
  keys : List (Nat × BitVec 256 × BitVec 256) := []
  errs : Tbl SymErrs := []
  lastRefAll : Tbl Nat := []
  openRow : Tbl Nat := []
  acts : Tbl Nat := []
  lastScrub : Tbl Nat := []
deriving DecidableEq, Repr

/-! ## Home agent (R216 to R250) -/

/-- Where the answer to a line request goes: a Talku port (with the tag, the BULK bit and the type of the request), a Dorrus
source (the request message), a running command (its sequence number), the gateway's landing path (the BULK_WR message), the record line
of a landing (R312, the same message), or nowhere. -/
inductive Src where
  | tlk (p : Nat) (m : TMsg)
  | drs (m : DMsg)
  | run (seq : Nat)
  | land (m : DMsg)
  | landed (m : DMsg)
  | nowhere
deriving DecidableEq, Repr

/-- What a line request does at its home slice (R187, R228). -/
inductive HOp where
  | rdS
  | rdO
  | rdU (tracked : Bool)
  | wr (mask : BitVec 64) (data : Line) (pcause : Nat)
  | atom (off : Nat) (op size : Nat) (a b : BitVec 128)
  | wb (data : Line)
  | evict
  | rdE
deriving DecidableEq, Repr

/-- A request for one line at its home slice: its group (for a running command the key of the access), its index in the group, its
source, what it does, the line number, the requester domain (`none`: exempt, R131) and the class carried. -/
structure HReq where
  grp : Nat
  idx : Nat
  src : Src
  op : HOp
  line : Nat
  dom : Option Nat
  cls : Option Nat
deriving DecidableEq, Repr

/-- The answer to one line request. -/
structure HAns where
  idx : Nat
  status : Nat := 0
  detail : Nat := 0
  poison : Bool := false
  shared : Bool := false
  data : Line := 0
deriving DecidableEq, Repr

/-- A multi-line request whose lines are being served (R260): how many lines it has and the answers so far. -/
structure HGrp where
  id : Nat
  src : Src
  need : Nat
  got : List HAns
deriving DecidableEq, Repr

/-- A snoop outstanding to a port for a line (R228): whether it is a recall, and when it times out (R230). -/
structure Snoop where
  line : Nat
  port : Nat
  isRecall : Bool
  due : Nat
deriving DecidableEq, Repr

/-- A credit of a slice (R218): its number, who holds it (Talku port, or 16 + node), the tag and domain of the request it was given to, and
when a reserved entry for it lapses. -/
structure Credit where
  slc : Nat
  num : Nat
  holder : Nat
  tag : Nat
  due : Option Nat
  dom : Option Nat := none
deriving DecidableEq, Repr

/-- An entry of a slice's directory cache, most recently used first (R224): line number and DIR. -/
structure DirEnt where
  line : Nat
  dir : Nat
deriving DecidableEq, Repr

/-- The ownership record of a region (R232). STATE 0 HOME, 1 GRANTED, 2 OWNED. -/
structure OwnRec where
  st : Nat := 0
  owner : Nat := 0
  pend : Nat := 0
  epoch : Nat := 0
  stateful : Bool := false
  reclaimed : Bool := false
deriving DecidableEq, Repr

/-- An OWN_TRANSFER in progress (R235): its command, region, new owner, STATEFUL, the deadline of the awaited release or of the
awaited ACCEPT, and whether the former owner did not release. -/
structure Xfer where
  seq : Nat
  region : Nat
  newOwner : Nat
  stateful : Bool
  releaseDue : Option Nat
  acceptDue : Option Nat
  noRel : Bool
deriving DecidableEq, Repr

/-- An OWN_ACCEPT waiting for the home's answer (R237). -/
structure Accepting where
  seq : Nat
  node : Nat
  off : Nat
  epoch : Nat
  due : Nat
deriving DecidableEq, Repr

/-- A retained staging copy of a line (R194): the tile and queue that hold it, its kind (0 stream window, 1 Curd prefetch, 2
owned region), the queue's domain, the node and line it copies, its data and poison
detail (0: none), the layer it belongs to, the tick of its fill, and for a stream window the tile of the layer that it belongs to. -/
structure Ret where
  tile : Nat
  queue : Nat
  kind : Nat
  dom : Nat
  node : Nat
  line : Nat
  data : Line
  poison : Nat
  layer : Nat
  tick : Nat
  idx : Nat := 0
deriving DecidableEq, Repr

/-- The home agent beside its registers: requests waiting at the slices in order of arrival, groups being answered, snoops,
credits, the directory caches, walks in progress (port and lines poisoned so far), recalls answered by a crossing message whose own answer is still to come (R229), uncorrectable
lines whose owner is being recalled, with their data bits as read (R102), the requests whose own read found its line uncorrectable as
(request, line) (R103), the next group number, the holder that each
credit number was last issued to (key slice × 65,536 + number; holder + 1), and the whole-line writes whose snoops over a poisoned line have
been sent, as (request, line) (R226). -/
structure HomeSt where
  waiting : List HReq := []
  groups : List HGrp := []
  snoops : List Snoop := []
  credits : List Credit := []
  dc : List DirEnt := []
  walks : List (Nat × Nat) := []
  ghosts : List (Nat × Nat) := []
  ue : List (Nat × Line) := []
  found : List (Nat × Nat) := []
  nextGrp : Nat := 0
  issued : Tbl Nat := []
  inv : List (Nat × Nat) := []
deriving DecidableEq, Repr

/-- Region ownership and staging copies: the records (R232), transfers and accepts in progress, the owned table of this device
as (node, offset, epoch) (R237), and the retained copies (R194). -/
structure OwnSt where
  recs : Tbl OwnRec := []
  xfers : List Xfer := []
  accepting : List Accepting := []
  ownedHere : List (Nat × Nat × Nat) := []
  ret : List Ret := []
deriving DecidableEq, Repr

/-! ## Stencil (R159 to R186) -/

/-- A host miss (R168): context, VA[47:21], the virtual address that missed first, miss tag (`none` while it waits for one of the 128
entries), generation of the last send, tick of the first send, and whether only a prefetch translation waits for it (R172). -/
structure Miss where
  ctx : Nat
  gran : Nat
  va : Nat
  tag : Option Nat
  gen : Nat
  start : Nat
  ahead : Bool := false
deriving DecidableEq, Repr

/-- An invalidation in progress (R173): its command, context, range, entries invalidated, whether it is a RELEASE, the agents
that have acknowledged, the tick of step 2 and the first agent reset. -/
structure Inval where
  seq : Nat
  ctx : Nat
  lo : Nat
  hi : Nat
  count : Nat
  release : Bool
  acked : List Nat
  due : Nat
  reset : Option Nat
deriving DecidableEq, Repr

/-- Stencil beside its registers: misses in order of arrival, invalidations in order of arrival (the first one runs), and the
translation caches of the agents (R165; key the agent's number of R173: 0 to 511 cells, 512 to 575 tiles, 576 to 639 the look-ahead of stream
engines, 640 to 655 Curd engines, 656 search array control, 657 router): device-table entries, most recently used first. -/
structure StnSt where
  misses : List Miss := []
  invals : List Inval := []
  caches : Tbl (List Nat) := []
deriving DecidableEq, Repr

/-! ## Ports, links and traffic (R251 to R337) -/

/-- A message for the wire. -/
inductive OMsg where
  | t (m : TMsg)
  | d (m : DMsg)
deriving DecidableEq, Repr

/-- A message flit kept for a link (R254): its SEQ, its FIRST_MSG, its body, and for a failover flit the SEQ it carried on the failed link
(R293). -/
structure TxFlit where
  seq : Nat
  first : Nat
  body : List Byte
  oseq : Option Nat := none
deriving DecidableEq, Repr

/-- The link of a port: SEQ of the next flit sent and of the last flit received in order, the replay buffer (oldest first), consecutive
replays of its first flit, a NAKF owed, credits held per virtual channel in 16-byte units, bytes of a message that spans flits, whole messages
received and not yet handled, the end of the violation window and the violations in it, the deadline of LOST_TIME, the link's own state while
the port is QUARANTINED (R269), failover flits that wait for room in the replay buffer (R293), and per virtual channel the 16-byte units of
the port's own receive buffer that messages occupy and those freed whose credits have not been returned yet (R256, R295). -/
structure Link where
  txSeq : Nat := 0
  rxSeq : Nat := 4095
  replay : List TxFlit := []
  replays : Nat := 0
  nakOwed : Bool := false
  cred : List Nat := []
  rxBuf : List Byte := []
  inbox : List OMsg := []
  winEnd : Option Nat := none
  viol : Nat := 0
  lostDue : Option Nat := none
  phys : Nat := 0
  fover : List TxFlit := []
  rxUsed : List Nat := []
  rxOwed : List Nat := []
deriving DecidableEq, Repr

/-- A message waiting for egress: port, class (0 MG, 1 HOST, 2 ENG, 3 BULK, 4 FWD), virtual channel, the domain whose shaper it
passes, whether it has already waited for tokens at its queue head, its tick of arrival, and the message. -/
structure Egr where
  port : Nat
  cls : Nat
  vc : Nat
  dom : Option Nat
  held : Bool
  tick : Nat
  msg : OMsg
deriving DecidableEq, Repr

/-- A request at an ingress arbiter (R331): half (true east), source (Talku port, or 16 + node), class (1 HOST, 2 ENG, 3 BULK),
colour (0 green, 1 yellow, 2 red), size in bytes, whether it came on VC1, its tick, the message, the line requests it stands for, and the port
and virtual channel whose receive buffer it still occupies (R256, R305). -/
structure Ing where
  east : Bool
  source : Nat
  cls : Nat
  colour : Nat
  size : Nat
  vc1 : Bool
  tick : Nat
  src : Src
  reqs : List HReq
  buf : Option (Nat × Nat) := none
deriving DecidableEq, Repr

/-- A two-rate three-colour meter (R329): its token counts and the tick they are valid at. -/
structure Meter where
  tc : Nat
  tp : Nat
  tick : Nat
deriving DecidableEq, Repr

/-- Scheduling and shaping beside the registers: messages in shaper queues and in class queues in arrival order, the deficits
(key port × 5 + class; ingress arbiters 80 and up), the ring position of each port, the class whose turn is in progress, the
round-robin positions, requests at the ingress arbiters, green requests taken since the last yellow one (key half × 4 +
class), the meters that are not full (key Talku port, or 16 + node), the domains whose shaper is limited, the refill period in effect,
the last change of each rate register as (address, tick, value before it) (R326, R329), and what has left on the wires, newest first: messages
(port and message) and flits (port, header and body; R253, R290). -/
structure TrfSt where
  shaper : List Egr := []
  classq : List Egr := []
  deficit : Tbl Nat := []
  ringPos : Tbl Nat := []
  turn : Tbl Nat := []
  rr : Tbl Nat := []
  ing : List Ing := []
  guard : Tbl Nat := []
  meters : Tbl (Option Meter) := []
  limited : List Nat := []
  period : Nat := 50
  changed : List (Nat × Nat × BitVec 64) := []
  sent : List (Nat × OMsg) := []
  flits : List (Nat × BitVec 256 × List Byte) := []
deriving DecidableEq, Repr

/-- A remote request of this device that has no response yet (R303, R306, R308): the message as sent, the command it serves, its
deadline, whether it waits for a credit, whether it came back as NOROUTE, whether it is held
by a fence and was never sent, and for an atomic the number of copies sent. -/
structure Outst where
  m : DMsg
  seq : Nat
  key : Nat
  due : Nat
  credWait : Option Nat
  returned : Bool
  heldBack : Bool
  copies : Nat
  atomStart : Nat
deriving DecidableEq, Repr

/-- An entry of the atomics' replay table (R309). -/
structure Replay where
  src : Nat
  atag : Nat
  slc : Nat
  ans : DMsg
  tick : Nat
deriving DecidableEq, Repr

/-- A dirty tile of a gateway's OUT region (R312): channel, tile index in OUT, tick it became dirty, lines written since. -/
structure Dirty where
  chan : Nat
  tile : Nat
  since : Nat
  lines : BitVec 64
deriving DecidableEq, Repr

/-- The fabric beside its registers: outstanding requests in issue order, the next tag, the next ATAG per destination, the request
route per destination (1 + order × 8 + NEG; 0: none chosen yet), destinations under a route fence, dead-list entries in order of age as (slot, trunk),
replay table, aged and boot per source, the tick at which each trunk became unavailable, dirty tiles, BULK_WR in flight as
(tag, tick), and copies of atomics whose first copy has not been answered yet (R206). -/
structure FabSt where
  out : List Outst := []
  nextTag : Nat := 0
  atags : Tbl Nat := []
  routes : Tbl Nat := []
  fences : List Nat := []
  dead : List (Nat × Nat × Nat) := []
  replay : List Replay := []
  aged : Tbl Nat := []
  boot : Tbl Nat := []
  trunkDown : Tbl Nat := []
  dirty : List Dirty := []
  bulk : List (Nat × Nat) := []
  dups : List DMsg := []
deriving DecidableEq, Repr

/-! ## Commands (R57 to R91) -/

/-- A command accepted and not started (R67): issuer, accept sequence number, packet and the trace kinds selected at acceptance
(R476). -/
structure Acc where
  iss : Iss
  seq : Nat
  pkt : Line
  trace : Nat
deriving DecidableEq, Repr

/-- What a remote access, an atomic or a host miss returned to a running command: the key under which it was asked, its status and
DETAIL (the poison DETAIL where lines are poisoned), one bit for each poisoned line, the data, a tick, and whether the lines may be retained
as copies of an owned region (R239). -/
structure Got where
  key : Nat
  status : Nat := 0
  detail : Nat := 0
  poison : Nat := 0
  data : List Line := []
  tick : Nat := 0
  keep : Bool := false
deriving DecidableEq, Repr

/-- A command that has started (R68): issuer, accept sequence number, packet, parameter block, tick of the start, trace kinds,
phase and words of its own between the steps it takes, line writes and remote requests not yet ordered or answered, remote
data received, its completion once decided, the keys of what it has asked for, whether it runs in a backfill context (R353), the settings
that commit edges since its start have changed, as (address, bits, their values before), under which it completes (R85), and the pooled rows
that stand as transient copies in the staging SRAM of its Curd engine's tiles, as (tile, row) (R19, R194). -/
structure Run where
  iss : Iss
  seq : Nat
  pkt : Line
  blk : List Byte := []
  tick : Nat := 0
  trace : Nat := 0
  phase : Nat := 0
  aux : List Nat := []
  outs : Nat := 0
  got : List Got := []
  cpl : Option Cpl := none
  asked : List Nat := []
  bf : Bool := false
  kept : List (Nat × BitVec 64 × BitVec 64) := []
  pooled : List (Nat × List Byte) := []
deriving DecidableEq, Repr

/-- A doorbell not yet worked off (R67): queue and pointer range. -/
structure Bell where
  q : Nat
  next : Nat
  last : Nat
deriving DecidableEq, Repr

/-- A member of a unit-scope command in progress (R38, R41): its node, whether it stands for its group, whether it has
acknowledged, its deadline, and its completion once known. -/
structure Member where
  node : Nat
  mgr : Bool
  acked : Bool
  due : Nat
  cpl : Option Cpl
deriving DecidableEq, Repr

/-- A unit-scope command in progress at a manager (R38, R39): its command, the TAG of its messages, whether it was only passed on to the
leading span manager, and its members. -/
structure Fan where
  seq : Nat
  tag : Nat
  fwd : Bool
  members : List Member
deriving DecidableEq, Repr

/-- The CMD block beside its registers: doorbells in order of arrival, accepted commands in order of acceptance, running commands,
the round-robin positions among MGMT queues of PRIORITY 0 and of PRIORITY 1 (R71), members' answers, the internal management queue (senders of the accepted commands
of the unit-scope path, by sequence number), and the completion of firmware's own last command. -/
structure CmdSt where
  bells : List Bell := []
  acc : List Acc := []
  runs : List Run := []
  rr : Nat := 0
  rrHi : Nat := 0
  fans : List Fan := []
  senders : List (Nat × Nat × Nat) := []
  fwCpl : Option Cpl := none
  waking : List Nat := []
deriving DecidableEq, Repr

/-- The staged set beside CMD_STAGE_STATUS (R81): entries as address to (value, mask), the tick of the last STAGE, CHECK or STAGED
command (R87), and a COMMIT that has passed R82: the tick of its commit edge, its command's sequence number and whether the
edge has been taken; and whether a CHECK that clears GROUP_MGR or SPAN_MGR has passed (R44). -/
structure StagedSt where
  entries : Tbl (BitVec 64 × BitVec 64) := []
  touch : Nat := 0
  edge : Option Nat := none
  edgeSeq : Nat := 0
  edgeDone : Bool := false
  rolePend : Bool := false
deriving DecidableEq, Repr

/-- A sanitisation waiting for or running in Gesso (R150): the command it serves, the extents left, target domain and class, extents
made CLEAN, whether it is the step 5 work of a teardown, whether it has been taken, whether its issuer has ALL_DOMAINS, the
issuer's domain, FIRST_EXT and COUNT as given, and the tick at which the extent being written was begun. -/
structure GJob where
  seq : Nat
  exts : List Nat
  dom : Nat
  cls : Nat
  done : Nat
  teardown : Option Nat
  taken : Bool
  allDom : Bool
  issDom : Nat
  first : Nat
  count : Nat
  since : Nat
deriving DecidableEq, Repr

/-- A teardown in progress (R135): domain, the command that waits for it (`none` for a staged destroy), extents sanitised and
commands ended. -/
structure Teardown where
  dom : Nat
  seq : Option Nat
  sanitised : Nat
  aborted : Nat
  queued : Bool
deriving DecidableEq, Repr

/-- Palette and Gesso beside their registers. -/
structure DomSt where
  jobs : List GJob := []
  teardowns : List Teardown := []
deriving DecidableEq, Repr

/-- The job of a queue that has sent STREAM_WINDOW with MODE ADMIT (R397, R398): state 1 ADMITTED, 2 REFUSED, and its reservation. -/
structure Job where
  queue : Nat
  st : Nat
  first : Nat
  count : Nat
  dom : Nat
  stage : Nat
  near : Nat
  far : Nat
  slots : Nat
deriving DecidableEq, Repr

/-- An open stream window (R401, R402): queue and tile set, the domain and context of its OPEN, the layers as (VA, tiles), W, the
current layer, its need, and the tile fetches that have ended as (layer, tile index, status, DETAIL). -/
structure Window where
  queue : Nat
  first : Nat
  count : Nat
  dom : Nat
  ctx : Nat
  layers : List (Nat × Nat)
  w : Nat
  cur : Nat
  need : Nat
  done : List (Nat × Nat × Nat × Nat)
deriving DecidableEq, Repr

/-- A key of a prefetch set whose background fetch has not ended (R426): the bytes to fetch, and for a mapped row the address of its
map entry, the entry, and the tick its read was issued. -/
structure PfItem where
  va : Nat
  len : Nat
  entry : Option (Nat × Nat × Nat)
deriving DecidableEq, Repr

/-- The prefetch set of a queue (R427): its names, domain and context, the fetches still to end, and the GATHER_POOL that consumes it. -/
structure PfSet where
  queue : Nat
  dom : Nat
  ctx : Nat
  tableVa : Nat
  indexVa : Nat
  items : List PfItem
  consumer : Option Nat
deriving DecidableEq, Repr

/-- A waiting replace of a row (R431): its command, its index in the command's list, its image, and the row stride. -/
structure Repl where
  seq : Nat
  idx : Nat
  src : Nat
  rb : Nat
deriving DecidableEq, Repr

/-- An entry of the replace unit (R431, R433): the local offset of the row's map entry, its virtual address, the waiting replaces in order of
arrival, the migration under way, the tick of the last switch, whether the pair's other slot has never been in use, and the
step of the replace being applied (0 none, 1 image to be read, 2 image being written, 3 map entry to be written, 4 map entry
being written). -/
structure Rpl where
  key : Nat
  mapVa : Nat
  waiting : List Repl
  migr : Option Nat
  last : Option Nat
  fresh : Bool
  step : Nat
  cur : Option Repl
deriving DecidableEq, Repr

/-- The engines beside their registers: jobs, open windows, prefetch sets, the replace unit, and the next number of a background fetch. -/
structure EngSt where
  jobs : List Job := []
  wins : List Window := []
  pf : List PfSet := []
  rpl : List Rpl := []
  nextId : Nat := 0
deriving DecidableEq, Repr

/-! ## Resilience, power, start-up and package signals (R484 to R576) -/

/-- A device that this one issues lease tokens to (R490): its node, the half and EPOCH of the last GRANT (EPOCH 0: none sent), and, once an
ACK has come, the halves it showed up and its EPOCH. -/
structure Served where
  node : Nat
  half : Nat
  epoch : Nat
  ack : Option (Bool × Bool × Nat)
deriving DecidableEq, Repr

/-- Resilience beside its registers: when the current token expires, the devices served with tokens, the last pets of MGMT_W and MGMT_E,
when a reset core runs again, the quorum's voted term, highest term seen and GRANTs counted (R494), the tick at which each manager was
last heard (plus 1) and a BEAT of a leader last arrived, the ticks at which the held votes were cast, RUN_LEN of the shadow's run,
whether a fallback row of R491 set LEADER last and a token has ever been current, and the SET_ID whose commit the leading span manager
completes on every member, with the sequence number of the COMMIT that it has given for it (R89). -/
structure ResSt where
  tokenDue : Option Nat := none
  served : List Served := []
  petW : Nat := 0
  petE : Nat := 0
  backW : Option Nat := none
  backE : Option Nat := none
  voted : Nat := 0
  maxTerm : Nat := 0
  grants : Nat := 0
  heard : Tbl Nat := []
  leadBeat : Option Nat := none
  votedAt : Tbl Nat := []
  runLen : Nat := 0
  fallback : Bool := false
  had : Bool := false
  redo : Option (Nat × Nat) := none
deriving DecidableEq, Repr

/-- A discrete input (R549, R550): the tick of its last taken level, the levels refused since, its true level, and since when it has been
low. -/
structure Inp where
  taken : Option Nat := none
  refused : Nat := 0
  high : Bool := false
  lowAt : Option Nat := none
deriving DecidableEq, Repr

/-- A change of VDD_CORE over AVSBus (R559, R560): its occasion (0 step 3 of the start, 1 CLOCK_SET, 2 P3 entry, 3 P3 exit, 4 step 7 of the start), the voltage in mV, sendings that
have failed, whether the write has been acknowledged and its read-back is awaited, and the tick at which the frame was sent. -/
structure Avs where
  occ : Nat
  mv : Nat
  failed : Nat
  readBack : Bool
  sent : Nat
deriving DecidableEq, Repr

/-- A CLOCK_SET under way (R544): its command (`none` for a staged one), operating point, margin, and whether the PLL is relocking. -/
structure Relock where
  seq : Option Nat
  op : Nat
  margin : Nat
  locking : Bool
deriving DecidableEq, Repr

/-- Power, clocks, inputs and package signals beside their registers: the request for P2 or P3 that waits for its completion to be written as
(STATE, command), the step of a P3 entry or exit (0 none, 1 entry, 2 voltage rising, 3 PLLs starting, 4 waiting for the stacks), the wake
event held or being followed, the halves that ran at a P3 entry, whether stacks are held back until cool (R548), the stacks that train in
full on a P3 exit, the voltage change and the clock change under way, the three inputs (0 DEV_RESET_N, 1 PWR_OK, 2
WAKE_N), the trip awaited as (tick, by a stack), a DEV_RESET_N held during cooling, THERMTRIP_N asserted, since when throttling is
counted, the I3C read address, protocol error and last bytes returned, the JTAG instruction, preloaded boundary and last data, and per event
crossing the AON cycles in which its pending events are delivered (R545). -/
structure PwrSt where
  req : Option (Nat × Nat) := none
  p3 : Nat := 0
  wakeAt : Option Nat := none
  halves : Nat := 0
  holdTemp : Bool := false
  slow : List Nat := []
  avs : Option Avs := none
  relock : Option Relock := none
  ins : List Inp := List.replicate 3 {}
  trip : Option (Nat × Bool) := none
  rstHeld : Bool := false
  thermtrip : Bool := false
  thrSince : Nat := 0
  i3cAddr : Option Nat := none
  i3cErr : Bool := false
  i3cOut : List Byte := []
  jtagIr : Nat := 1
  jtagOut : Nat := 0
  cdc : Tbl (List Nat) := []
deriving DecidableEq, Repr

/-- A verification under way (R515): of the image buffer (1), of flash (2), of a host image at start (3), of a host image while
firmware or the ROM of minimal mode runs (4), or for an FW_STAGE (5) with its command. -/
structure Verify where
  src : Nat
  seq : Option Nat
deriving DecidableEq, Repr

/-- Start-up and firmware beside their registers: whether the start sequence runs (0 held in reset, 1 fuses and PLLs, 2 from step 4
on), the image buffer and the FW_DIGEST of its image, the verification under way, whether flash is being read, the flash write of an
FW_ACTIVATE as (command, MODE), the reset that an FW_ACTIVATE arms and its command, whether the last one had MODE RESET_ONLY, the
deadlines of the START timer and of the host source, the halves reset by their watchdogs since step 7, the SVN floor blown into the
fuses by this part itself, and the remote ATTESTs that wait as (command, TAG, deadline). -/
structure BootSt where
  phase : Nat := 0
  img : List Byte := []
  digest : BitVec 384 := 0
  verify : Option Verify := none
  reading : Bool := false
  act : Option (Nat × Nat) := none
  resetDue : Option Nat := none
  resetSeq : Option Nat := none
  resetOnly : Bool := false
  startDue : Option Nat := none
  hostDue : Option Nat := none
  wdHalves : Nat := 0
  blown : Nat := 0
  asks : List (Nat × Nat × Nat) := []
deriving DecidableEq, Repr

/-- The system blocks beside their registers. -/
structure SysSt where
  res : ResSt := {}
  pwr : PwrSt := {}
  boot : BootSt := {}
deriving DecidableEq, Repr

/-! ## The device -/

/-- The device: the AON counter (R471), the number of free values drawn so far (the model's own field, assumption log 3), the
registers (entries that differ from their reset values only), the bytes of the store (entries that are not zero only), and
the structures above. -/
structure Dev where
  now : Nat := 0
  free : Nat := 0
  csr : Tbl (BitVec 64) := []
  mem : List Host.Cell := []
  store : StoreSt := {}
  evq : EvqSt := {}
  home : HomeSt := {}
  own : OwnSt := {}
  stn : StnSt := {}
  trf : TrfSt := {}
  fab : FabSt := {}
  links : List Link := List.replicate 16 {}
  cmd : CmdSt := {}
  staged : StagedSt := {}
  dom : DomSt := {}
  eng : EngSt := {}
  sys : SysSt := {}
deriving DecidableEq, Repr

/-- The state of the block: the device and the commands that wait, first in, first out. -/
structure State where
  dev : Dev := {}
  pending : List Instr := []
deriving DecidableEq, Repr

/-- The device right after AON power is applied, before PWR_OK is taken high: every register at its Reset value (or, for a field
whose Reset entry is a dash, at its AON power-up value), a store of zeros, every queue empty (R119, R482, assumption log 2). -/
def State.reset : State := {}

/-- One primitive change of the device. Every command changes the device by a list of these and in no other way, so what every
one of them keeps every step keeps. -/
inductive Upd where
  | now (t : Nat)
  | nowSet (t : Nat)
  | free
  | csr (a : Nat) (v : BitVec 64)
  | csrReset (keep : List Nat)
  | csrBlock (lo hi : Nat)
  | mem (a : Nat) (b : BitVec 8)
  | memClear (lo hi : Nat)
  | store (x : StoreSt)
  | evq (x : EvqSt)
  | home (x : HomeSt)
  | own (x : OwnSt)
  | stn (x : StnSt)
  | trf (x : TrfSt)
  | fab (x : FabSt)
  | links (x : List Link)
  | cmd (x : CmdSt)
  | staged (x : StagedSt)
  | dom (x : DomSt)
  | eng (x : EngSt)
  | sys (x : SysSt)
deriving DecidableEq, Repr

/-- What a command works on: the device as it stands now, for its reads, and the changes made so far, newest first. -/
structure Work where
  dev : Dev
  log : List Upd
deriving DecidableEq, Repr

end Sys2Proof.Machine
end

