-- ==== Sys2Proof/Machine/Flags.lean ====
section
/-! DEFINITION. Status codes (R16), classes and sources of records (R468, R472, R474), and power and port states by number. -/

namespace Sys2Proof.Machine

/-! ## Status codes of R16 -/

namespace Sc
abbrev ok : Nat := 0x00
abbrev retry : Nat := 0x01
abbrev malformed : Nat := 0x02
abbrev unsupported : Nat := 0x03
abbrev rights : Nat := 0x04
abbrev hole : Nat := 0x05
abbrev limit : Nat := 0x06
abbrev poisoned : Nat := 0x07
abbrev revoked : Nat := 0x08
abbrev stale : Nat := 0x09
abbrev indeterminate : Nat := 0x0A
abbrev aborted : Nat := 0x0B
abbrev checkFailed : Nat := 0x0C
abbrev timeout : Nat := 0x0D
abbrev reclaimed : Nat := 0x0E
abbrev quarantined : Nat := 0x0F
end Sc

/-- A completion with a status and a detail and nothing else. -/
def fail (status detail : Nat) : Cpl := { status := status, detail := detail }

/-- A completion OK. -/
def okCpl (a b result : Nat) : Cpl := { a := a, b := b, result := result }

/-! ## Record codes of R474 and R475 -/

namespace Ev
abbrev cmdQHalted : Nat := 0x0101
abbrev stageExpired : Nat := 0x0102
abbrev deviceReset : Nat := 0x0103
abbrev stkUe : Nat := 0x0201
abbrev pinErased : Nat := 0x0202
abbrev pinLost : Nat := 0x0203
abbrev pinSpared : Nat := 0x0204
abbrev stkThrottle : Nat := 0x0205
abbrev stkThrottleEnd : Nat := 0x0206
abbrev stkThermTrip : Nat := 0x0207
abbrev stkFailed : Nat := 0x0208
abbrev stkSlowWake : Nat := 0x0209
abbrev missTimeout : Nat := 0x0301
abbrev badFill : Nat := 0x0302
abbrev ackTimeout : Nat := 0x0303
abbrev snoopTimeout : Nat := 0x0401
abbrev hostLost : Nat := 0x0402
abbrev noRelease : Nat := 0x0403
abbrev ownOffer : Nat := 0x0404
abbrev ownReclaimed : Nat := 0x0405
abbrev ownLost : Nat := 0x0406
abbrev tlkViolation : Nat := 0x0501
abbrev tlkQuarantine : Nat := 0x0502
abbrev tlkPortLost : Nat := 0x0503
abbrev lseExpired : Nat := 0x0601
abbrev drsViolation : Nat := 0x0701
abbrev drsMiswire : Nat := 0x0702
abbrev drsQuarantine : Nat := 0x0703
abbrev badLanding : Nat := 0x0704
abbrev wdtEngine : Nat := 0x0801
abbrev wdtEasel : Nat := 0x0802
abbrev halfConflict : Nat := 0x0803
abbrev shadowMismatch : Nat := 0x0804
abbrev reqStateLost : Nat := 0x0805
abbrev jctThrottle : Nat := 0x0901
abbrev jctThrottleEnd : Nat := 0x0902
abbrev jctTrip : Nat := 0x0903
abbrev stuckInput : Nat := 0x0904
abbrev inputOverrun : Nat := 0x0905
abbrev cdcOverrun : Nat := 0x0906
abbrev fwVerifyFail : Nat := 0x0A01
abbrev minimalMode : Nat := 0x0A02
abbrev trcAccept : Nat := 0x0F01
abbrev trcStart : Nat := 0x0F02
abbrev trcDone : Nat := 0x0F03
abbrev trcMark : Nat := 0x0F10
end Ev

/-- CLASS of a record code: 0 INFO, 1 CORRECTED, 2 DEGRADED, 3 FATAL (R474). -/
def recClass (code : Nat) : Nat :=
  if code ∈ [Ev.pinErased, Ev.pinSpared] then 1
  else if code ∈ [Ev.stkThermTrip, Ev.stkFailed, Ev.jctTrip, Ev.minimalMode] then 3
  else if code ∈ [Ev.cmdQHalted, Ev.stageExpired, Ev.deviceReset, Ev.stkThrottleEnd, Ev.stkSlowWake, Ev.ownOffer,
      Ev.ownReclaimed, Ev.ownLost, Ev.tlkViolation, Ev.drsViolation, Ev.jctThrottleEnd, Ev.inputOverrun,
      Ev.trcAccept, Ev.trcStart, Ev.trcDone, Ev.trcMark] then 0
  else 2

/-- The row of R472 that raises a record code. -/
def recRow (code : Nat) : Nat :=
  if code ∈ [Ev.cmdQHalted, Ev.stageExpired] then 1
  else if code ∈ [Ev.deviceReset, Ev.fwVerifyFail, Ev.minimalMode] then 2
  else if code ∈ [Ev.stkThermTrip, Ev.jctThrottle, Ev.jctThrottleEnd, Ev.jctTrip] then 4
  else if 0x0201 ≤ code ∧ code ≤ 0x0209 then 3
  else if 0x0301 ≤ code ∧ code ≤ 0x0303 then 5
  else if code ∈ [Ev.snoopTimeout, Ev.noRelease, Ev.reqStateLost] then 6
  else if code = Ev.hostLost then 7
  else if code ∈ [Ev.ownOffer, Ev.ownReclaimed, Ev.ownLost] then 8
  else if 0x0501 ≤ code ∧ code ≤ 0x0503 then 9
  else if code = Ev.lseExpired then 10
  else if 0x0701 ≤ code ∧ code ≤ 0x0703 then 11
  else if code = Ev.badLanding then 12
  else if 0x0801 ≤ code ∧ code ≤ 0x0803 then 13
  else if code = Ev.shadowMismatch then 14
  else if 0x0904 ≤ code ∧ code ≤ 0x0906 then 15
  else if code ∈ [Ev.trcAccept, Ev.trcStart, Ev.trcDone] then 16
  else 17

/-- Whether the source of a row of R472 lies in the AON domain. -/
def rowInAon (row : Nat) : Bool := row ∈ [2, 4, 13, 15, 17]

/-! ## States of queues, ports and stacks by number -/

namespace Qs
abbrev disabled : Nat := 0
abbrev running : Nat := 1
abbrev halted : Nat := 2
abbrev draining : Nat := 3
end Qs

namespace Ps
abbrev disabled : Nat := 0
abbrev training : Nat := 1
abbrev up : Nat := 2
abbrev retrain : Nat := 3
abbrev down : Nat := 4
abbrev quarantined : Nat := 5
abbrev lowPower : Nat := 6
abbrev off : Nat := 7
end Ps

namespace Ks
abbrev off : Nat := 0
abbrev training : Nat := 1
abbrev init : Nat := 2
abbrev ready : Nat := 3
abbrev powerDown : Nat := 4
abbrev selfRefresh : Nat := 5
abbrev failed : Nat := 6
end Ks

/-! States of an extent tag (R127). -/
namespace Xs
abbrev clean : Nat := 0
abbrev assigned : Nat := 1
abbrev fenced : Nat := 2
abbrev sanitising : Nat := 3
end Xs

end Sys2Proof.Machine
end

