-- ==== Sys2Proof/Machine/RegMap.lean ====
section
/-! DEFINITION. The CSR map: the address of every register (R46 to R48 and the address tables of R90, R91, R122,
R155 to R157, R184, R185, R214, R249, R286, R287, R316, R317, R337, R370 to R372, R389, R407, R408, R437, R438, R465,
R466, R483, R506, R532, R551, R552, R574, R575), the place of every field, and the table of access types and reset
values from which a CSR access is decided (R10, R11, R13). -/

namespace Sys2Proof.Machine

/-- A field of a register: its lowest bit and its width. -/
structure Fld where
  lo : Nat
  w : Nat
deriving DecidableEq, Repr

/-- One register or one array of registers of the CSR map. `n1`, `s1`, `n2`, `s2` are the counts and strides of its two
index ranges (count 1 where an index is absent); `halfDiv` is how many of the first index lie in the west half (0: the
register lies in the spine, R17, R46); the masks hold the RW, W1C and WO bits and the bits that read as stored (R10);
`staged`: changed only by staged change (R30, R577 order 5); `rst` is the value of the Reset column. -/
structure RegDef where
  base : Nat
  n1 : Nat
  s1 : Nat
  n2 : Nat
  s2 : Nat
  halfDiv : Nat
  staged : Bool
  rw : Nat
  w1c : Nat
  wo : Nat
  rd : Nat
  rst : Nat
deriving DecidableEq, Repr

namespace A

abbrev TOP_ID : Nat := 0x0
abbrev TOP_ROLE : Nat := 0x8
abbrev TOP_NODE : Nat := 0x10
abbrev TOP_SPAN_DIM : Nat := 0x18
abbrev TOP_GROUP_MEMBERS : Nat := 0x20
abbrev TOP_HALF_STATUS : Nat := 0x28
abbrev TOP_UNIT_CFG : Nat := 0x30
abbrev TOP_UNIT_LATE_CNT : Nat := 0x38
abbrev TOP_FATAL_STICKY : Nat := 0x100
abbrev TOP_WDT_CFG : Nat := 0x200
abbrev TOP_WDT_PET : Nat := 0x208
abbrev TOP_WDT_CNT : Nat := 0x210
abbrev TOP_TOKEN : Nat := 0x218
abbrev TOP_TOKEN_CFG : Nat := 0x220
abbrev TOP_TOKEN_LEFT : Nat := 0x228
abbrev TOP_QUORUM_CFG : Nat := 0x230
abbrev TOP_QUORUM_STATUS : Nat := 0x238
abbrev TOP_RES_STATUS : Nat := 0x240
abbrev TOP_EXPEL_CNT : Nat := 0x248
abbrev TOP_VOTE (i : Nat) : Nat := 0x300 + 0x8 * i
abbrev TOP_EXPEL_MAP (i : Nat) : Nat := 0x1000 + 0x8 * i
abbrev TOP_SHADOW_MAP (i : Nat) : Nat := 0x1800 + 0x8 * i
abbrev PWR_STATUS : Nat := 0x10000
abbrev PWR_CFG : Nat := 0x10008
abbrev PWR_CTRL : Nat := 0x10010
abbrev PWR_TILE_GATED : Nat := 0x10018
abbrev PWR_THERM_CFG : Nat := 0x10020
abbrev PWR_THERM_STATUS : Nat := 0x10028
abbrev PWR_IN_STATUS : Nat := 0x10030
abbrev PWR_IN_CTRL : Nat := 0x10038
abbrev PWR_IN_OVR_CNT : Nat := 0x10040
abbrev PWR_THROTTLE_CNT : Nat := 0x10048
abbrev PWR_ENTRY_CNT : Nat := 0x10060
abbrev PWR_AVS_STATUS : Nat := 0x10200
abbrev PWR_AVS_ERR_CNT : Nat := 0x10208
abbrev PWR_I3C_STATUS : Nat := 0x10210
abbrev PWR_CDC_OVR (i : Nat) : Nat := 0x10050 + 0x8 * i
abbrev PWR_SENS (i : Nat) : Nat := 0x10100 + 0x8 * i
abbrev CLK_STATUS : Nat := 0x20000
abbrev CLK_CFG : Nat := 0x20008
abbrev CLK_AON_TICK : Nat := 0x20010
abbrev CLK_CHANGE_CNT : Nat := 0x20038
abbrev CLK_OP_VID (i : Nat) : Nat := 0x20018 + 0x8 * i
abbrev BOOT_STATUS : Nat := 0x30000
abbrev BOOT_CFG : Nat := 0x30008
abbrev BOOT_CTRL : Nat := 0x30010
abbrev BOOT_FUSE : Nat := 0x30018
abbrev BOOT_FW_INFO : Nat := 0x300b0
abbrev BOOT_FW_VERSION : Nat := 0x300b8
abbrev BOOT_IMG_STATUS : Nat := 0x300c0
abbrev BOOT_IMG_DATA : Nat := 0x300c8
abbrev BOOT_IMG_CTRL : Nat := 0x300d0
abbrev BOOT_SPI_INFO : Nat := 0x300e0
abbrev BOOT_START_CNT : Nat := 0x300e8
abbrev BOOT_MBOX_DB : Nat := 0x30140
abbrev BOOT_MBOX_STATUS : Nat := 0x30148
abbrev BOOT_KEY_HASH (i : Nat) : Nat := 0x30020 + 0x8 * i
abbrev BOOT_FW_DIGEST (i : Nat) : Nat := 0x30050 + 0x8 * i
abbrev BOOT_CFG_DIGEST (i : Nat) : Nat := 0x30080 + 0x8 * i
abbrev BOOT_MBOX_CMD (i : Nat) : Nat := 0x30100 + 0x8 * i
abbrev BOOT_MBOX_CPL (i : Nat) : Nat := 0x30180 + 0x8 * i
abbrev EVQ_X_POP (i : Nat) : Nat := 0x40000 + 0x1000 * i
abbrev EVQ_X_COUNT (i : Nat) : Nat := 0x40010 + 0x1000 * i
abbrev EVQ_X_LOST_CNT (i : Nat) : Nat := 0x40018 + 0x1000 * i
abbrev EVQ_X_CE_CNT (i : Nat) : Nat := 0x40020 + 0x1000 * i
abbrev EVQ_X_UE_CNT (i : Nat) : Nat := 0x40028 + 0x1000 * i
abbrev EVQ_X_DROP_CNT (i : Nat) : Nat := 0x40030 + 0x1000 * i
abbrev EVQ_X_BANK_SEQ (i j : Nat) : Nat := 0x40800 + 0x1000 * i + 0x20 * j
abbrev EVQ_X_BANK1 (i j : Nat) : Nat := 0x40808 + 0x1000 * i + 0x20 * j
abbrev EVQ_X_BANK2 (i j : Nat) : Nat := 0x40810 + 0x1000 * i + 0x20 * j
abbrev EVQ_X_BANK3 (i j : Nat) : Nat := 0x40818 + 0x1000 * i + 0x20 * j
abbrev EVQ_CTRL : Nat := 0x44000
abbrev EVQ_SEQ : Nat := 0x44008
abbrev EVQ_TRACE_CFG : Nat := 0x44010
abbrev EVQ_TRACE_MARK : Nat := 0x44018
abbrev CMD_Q_CFG (i : Nat) : Nat := 0x50000 + 0x40 * i
abbrev CMD_Q_RING (i : Nat) : Nat := 0x50008 + 0x40 * i
abbrev CMD_Q_CQ (i : Nat) : Nat := 0x50010 + 0x40 * i
abbrev CMD_Q_DB (i : Nat) : Nat := 0x50018 + 0x40 * i
abbrev CMD_Q_CQ_DB (i : Nat) : Nat := 0x50020 + 0x40 * i
abbrev CMD_Q_PTR (i : Nat) : Nat := 0x50028 + 0x40 * i
abbrev CMD_Q_STATE (i : Nat) : Nat := 0x50030 + 0x40 * i
abbrev CMD_Q_DONE_CNT (i : Nat) : Nat := 0x50038 + 0x40 * i
abbrev CMD_STAGE_STATUS : Nat := 0x58000
abbrev CMD_STAGE_LAST : Nat := 0x58008
abbrev CMD_COMMIT_TICK : Nat := 0x58010
abbrev CMD_SEQ : Nat := 0x58018
abbrev CMD_WIN_REJ_CNT : Nat := 0x58020
abbrev CMD_STAGE_EXPIRE_CNT : Nat := 0x58028
abbrev DOM_CFG (i : Nat) : Nat := 0x60000 + 0x40 * i
abbrev DOM_IDENT (i j : Nat) : Nat := 0x60008 + 0x40 * i + 0x8 * j
abbrev DOM_BW (i : Nat) : Nat := 0x60028 + 0x40 * i
abbrev DOM_USE (i : Nat) : Nat := 0x60030 + 0x40 * i
abbrev DOM_RIGHTS_CNT (i : Nat) : Nat := 0x60038 + 0x40 * i
abbrev DOM_EXT_TAG (i : Nat) : Nat := 0x61000 + 0x8 * i
abbrev DOM_STATUS : Nat := 0x62000
abbrev STN_CFG : Nat := 0x70000
abbrev STN_STATUS : Nat := 0x70008
abbrev STN_MISS_CNT : Nat := 0x70010
abbrev STN_MISS_TO_CNT : Nat := 0x70018
abbrev STN_STALE_CNT : Nat := 0x70020
abbrev STN_INV_CNT : Nat := 0x70028
abbrev STN_WIN_REJ_CNT : Nat := 0x70030
abbrev STN_CTX_CFG (i : Nat) : Nat := 0x71000 + 0x10 * i
abbrev STN_CTX_BASE (i : Nat) : Nat := 0x71008 + 0x10 * i
abbrev STN_WIN (i : Nat) : Nat := 0x72000 + 0x8 * i
abbrev STN_SEG0 (i j : Nat) : Nat := 0x78000 + 0x80 * i + 0x10 * j
abbrev STN_SEG1 (i j : Nat) : Nat := 0x78008 + 0x80 * i + 0x10 * j
abbrev HOM_CFG : Nat := 0x80000
abbrev HOM_STATUS : Nat := 0x80008
abbrev HOM_SL_STATUS (i : Nat) : Nat := 0x81000 + 0x100 * i
abbrev HOM_SL_CREDIT (i : Nat) : Nat := 0x81008 + 0x100 * i
abbrev HOM_RETRY_CNT (i : Nat) : Nat := 0x81010 + 0x100 * i
abbrev HOM_CREDIT_EXP_CNT (i : Nat) : Nat := 0x81018 + 0x100 * i
abbrev HOM_BACKINV_CNT (i : Nat) : Nat := 0x81020 + 0x100 * i
abbrev HOM_SPILL_CNT (i : Nat) : Nat := 0x81028 + 0x100 * i
abbrev HOM_SNOOP_TO_CNT (i : Nat) : Nat := 0x81030 + 0x100 * i
abbrev HOM_DC_USE (i : Nat) : Nat := 0x81038 + 0x100 * i
abbrev HOM_OWN_SEL : Nat := 0x82000
abbrev HOM_OWN_REC : Nat := 0x82008
abbrev HOM_OWN_STATUS : Nat := 0x82010
abbrev HOM_RECLAIM_CNT : Nat := 0x82018
abbrev HOM_NOREL_CNT : Nat := 0x82020
abbrev HOM_PUB_CFG (i : Nat) : Nat := 0x84000 + 0x20 * i
abbrev HOM_PUB_VER (i : Nat) : Nat := 0x84008 + 0x20 * i
abbrev HOM_PUB_CUR (i : Nat) : Nat := 0x84010 + 0x20 * i
abbrev LSE_MODE : Nat := 0x90000
abbrev LSE_CFG : Nat := 0x90008
abbrev LSE_STATUS : Nat := 0x90010
abbrev LSE_GRANT_CNT : Nat := 0x90018
abbrev LSE_REVOKE_CNT : Nat := 0x90020
abbrev LSE_EXPIRE_CNT : Nat := 0x90028
abbrev LSE_EXT (i : Nat) : Nat := 0x91000 + 0x8 * i
abbrev LSE_EXPIRY (i : Nat) : Nat := 0x92000 + 0x8 * i
abbrev TLK_CFG (i : Nat) : Nat := 0xa0000 + 0x4000 * i
abbrev TLK_STATUS (i : Nat) : Nat := 0xa0008 + 0x4000 * i
abbrev TLK_LIMIT (i : Nat) : Nat := 0xa0010 + 0x4000 * i
abbrev TLK_VIOL_CFG (i : Nat) : Nat := 0xa0018 + 0x4000 * i
abbrev TLK_CTRL (i : Nat) : Nat := 0xa0020 + 0x4000 * i
abbrev TLK_LAST_VIOL (i : Nat) : Nat := 0xa0028 + 0x4000 * i
abbrev TLK_FEC_CE_CNT (i : Nat) : Nat := 0xa0030 + 0x4000 * i
abbrev TLK_FEC_UE_CNT (i : Nat) : Nat := 0xa0038 + 0x4000 * i
abbrev TLK_REPLAY_CNT (i : Nat) : Nat := 0xa0040 + 0x4000 * i
abbrev TLK_RETRAIN_CNT (i : Nat) : Nat := 0xa0048 + 0x4000 * i
abbrev TLK_VIOL_CNT (i : Nat) : Nat := 0xa0050 + 0x4000 * i
abbrev TLK_WIN_DENY_CNT (i : Nat) : Nat := 0xa0058 + 0x4000 * i
abbrev TLK_QUAR_CNT (i : Nat) : Nat := 0xa0060 + 0x4000 * i
abbrev TLK_NOTICE_DROP_CNT (i : Nat) : Nat := 0xa0068 + 0x4000 * i
abbrev TLK_LEASE_MAP (i j : Nat) : Nat := 0xa0100 + 0x4000 * i + 0x8 * j
abbrev TLK_LANE_STATUS (i : Nat) : Nat := 0xa0200 + 0x4000 * i
abbrev DRS_CFG (i : Nat) : Nat := 0xb0000 + 0x1000 * i
abbrev DRS_STATUS (i : Nat) : Nat := 0xb0008 + 0x1000 * i
abbrev DRS_VIOL_CFG (i : Nat) : Nat := 0xb0010 + 0x1000 * i
abbrev DRS_CTRL (i : Nat) : Nat := 0xb0018 + 0x1000 * i
abbrev DRS_LAST_VIOL (i : Nat) : Nat := 0xb0020 + 0x1000 * i
abbrev DRS_FEC_CE_CNT (i : Nat) : Nat := 0xb0028 + 0x1000 * i
abbrev DRS_FEC_UE_CNT (i : Nat) : Nat := 0xb0030 + 0x1000 * i
abbrev DRS_REPLAY_CNT (i : Nat) : Nat := 0xb0038 + 0x1000 * i
abbrev DRS_RETRAIN_CNT (i : Nat) : Nat := 0xb0040 + 0x1000 * i
abbrev DRS_FAILOVER_CNT (i : Nat) : Nat := 0xb0048 + 0x1000 * i
abbrev DRS_VIOL_CNT (i : Nat) : Nat := 0xb0050 + 0x1000 * i
abbrev DRS_QUAR_CNT (i : Nat) : Nat := 0xb0058 + 0x1000 * i
abbrev DRS_LANE_STATUS (i : Nat) : Nat := 0xb0100 + 0x1000 * i
abbrev GWY_SW_CFG : Nat := 0xc0000
abbrev GWY_SW_STATUS : Nat := 0xc0008
abbrev GWY_SRC_BOOT : Nat := 0xc0010
abbrev GWY_NOROUTE_CNT : Nat := 0xc0018
abbrev GWY_RSP_TO_CNT : Nat := 0xc0020
abbrev GWY_RETX_CNT : Nat := 0xc0028
abbrev GWY_REPLAY_HIT_CNT : Nat := 0xc0030
abbrev GWY_INDET_CNT : Nat := 0xc0038
abbrev GWY_PMSG_DROP_CNT : Nat := 0xc0040
abbrev GWY_DEAD (i : Nat) : Nat := 0xc0100 + 0x8 * i
abbrev GWY_CFG : Nat := 0xc1000
abbrev GWY_STATUS : Nat := 0xc1008
abbrev GWY_SHIP_CNT : Nat := 0xc1010
abbrev GWY_LAND_CNT : Nat := 0xc1018
abbrev GWY_SPAN_RT (i : Nat) : Nat := 0xc1100 + 0x8 * i
abbrev GWY_CHAN0 (i : Nat) : Nat := 0xc2000 + 0x20 * i
abbrev GWY_CHAN1 (i : Nat) : Nat := 0xc2008 + 0x20 * i
abbrev GWY_CHAN2 (i : Nat) : Nat := 0xc2010 + 0x20 * i
abbrev TRF_CFG : Nat := 0xd0000
abbrev TRF_TLK_Q : Nat := 0xd0008
abbrev TRF_DRS_Q : Nat := 0xd0010
abbrev TRF_ING_Q : Nat := 0xd0018
abbrev TRF_NODE_METER : Nat := 0xd0020
abbrev TRF_SAMPLE : Nat := 0xd0028
abbrev TRF_NODE_LAST_RED : Nat := 0xd0040
abbrev TRF_NODE_YELLOW_CNT : Nat := 0xd0030
abbrev TRF_NODE_RED_CNT : Nat := 0xd0038
abbrev TRF_TLK_YELLOW_CNT (i : Nat) : Nat := 0xd0100 + 0x10 * i
abbrev TRF_TLK_RED_CNT (i : Nat) : Nat := 0xd0108 + 0x10 * i
abbrev TRF_SHP_STAT (i : Nat) : Nat := 0xd0200 + 0x8 * i
abbrev TRF_SHP_HELD_CNT (i : Nat) : Nat := 0xd0300 + 0x8 * i
abbrev TRF_Q_NOW (i : Nat) : Nat := 0xd0400 + 0x8 * i
abbrev TRF_HIST_DEPTH (i j : Nat) : Nat := 0xd8000 + 0x100 * i + 0x8 * j
abbrev TRF_HIST_DELAY (i j : Nat) : Nat := 0xd8080 + 0x100 * i + 0x8 * j
abbrev STK_CFG (i : Nat) : Nat := 0xe0000 + 0x2000 * i
abbrev STK_STATUS (i : Nat) : Nat := 0xe0008 + 0x2000 * i
abbrev STK_SCRUB_CFG (i : Nat) : Nat := 0xe0010 + 0x2000 * i
abbrev STK_SCRUB_POS (i : Nat) : Nat := 0xe0018 + 0x2000 * i
abbrev STK_SCRUB_PASS_CNT (i : Nat) : Nat := 0xe0020 + 0x2000 * i
abbrev STK_CE_CNT (i : Nat) : Nat := 0xe0028 + 0x2000 * i
abbrev STK_ERASE_CNT (i : Nat) : Nat := 0xe0030 + 0x2000 * i
abbrev STK_UE_CNT (i : Nat) : Nat := 0xe0038 + 0x2000 * i
abbrev STK_ODECC_CNT (i : Nat) : Nat := 0xe0040 + 0x2000 * i
abbrev STK_RFM_CNT (i : Nat) : Nat := 0xe0048 + 0x2000 * i
abbrev STK_POISON_WR_CNT (i : Nat) : Nat := 0xe0050 + 0x2000 * i
abbrev STK_LAST_ERR (i : Nat) : Nat := 0xe0058 + 0x2000 * i
abbrev STK_REPAIR (i : Nat) : Nat := 0xe0060 + 0x2000 * i
abbrev STK_REPAIR_STAT (i : Nat) : Nat := 0xe0068 + 0x2000 * i
abbrev STK_PC_ERASE (i j : Nat) : Nat := 0xe0200 + 0x2000 * i + 0x8 * j
abbrev STK_PC_CE_CNT (i j : Nat) : Nat := 0xe0400 + 0x2000 * i + 0x8 * j
abbrev RIND_STATUS (i : Nat) : Nat := 0xe1000 + 0x2000 * i
abbrev RIND_ENC_CNT (i : Nat) : Nat := 0xe1008 + 0x2000 * i
abbrev RIND_DEC_CNT (i : Nat) : Nat := 0xe1010 + 0x2000 * i
abbrev TCP_BACKFILL (i : Nat) : Nat := 0x100100 + 0x10000 * i
abbrev MTX_STATUS (i j : Nat) : Nat := 0x102000 + 0x10000 * i + 0x400 * j
abbrev MTX_ACTIVE_CNT (i j : Nat) : Nat := 0x102008 + 0x10000 * i + 0x400 * j
abbrev MTX_SKIP_CNT (i j : Nat) : Nat := 0x102010 + 0x10000 * i + 0x400 * j
abbrev MTX_BF_CNT (i j : Nat) : Nat := 0x102018 + 0x10000 * i + 0x400 * j
abbrev MTX_WLOAD_CNT (i j : Nat) : Nat := 0x102020 + 0x10000 * i + 0x400 * j
abbrev MTX_SAT_CNT (i j : Nat) : Nat := 0x102028 + 0x10000 * i + 0x400 * j
abbrev MTX_NAN_CNT (i j : Nat) : Nat := 0x102030 + 0x10000 * i + 0x400 * j
abbrev XPD_STATUS (i : Nat) : Nat := 0x104000 + 0x10000 * i
abbrev XPD_STRIP_CNT (i : Nat) : Nat := 0x104008 + 0x10000 * i
abbrev XPD_STALL_CNT (i : Nat) : Nat := 0x104010 + 0x10000 * i
abbrev XPD_SAT_CNT (i : Nat) : Nat := 0x104018 + 0x10000 * i
abbrev XPD_NAN_CNT (i : Nat) : Nat := 0x104020 + 0x10000 * i
abbrev XPD_SEALED_CNT (i : Nat) : Nat := 0x104028 + 0x10000 * i
abbrev STR_STATUS (i : Nat) : Nat := 0x105000 + 0x10000 * i
abbrev STR_JOB_CFG (i : Nat) : Nat := 0x105008 + 0x10000 * i
abbrev STR_JOB_STAGE (i : Nat) : Nat := 0x105010 + 0x10000 * i
abbrev STR_JOB_NEAR (i : Nat) : Nat := 0x105018 + 0x10000 * i
abbrev STR_JOB_FAR (i : Nat) : Nat := 0x105020 + 0x10000 * i
abbrev STR_WIN (i : Nat) : Nat := 0x105028 + 0x10000 * i
abbrev STR_WIN_NEED (i : Nat) : Nat := 0x105030 + 0x10000 * i
abbrev STR_FILL_CNT (i : Nat) : Nat := 0x105038 + 0x10000 * i
abbrev STR_ADV_WAIT_CNT (i : Nat) : Nat := 0x105040 + 0x10000 * i
abbrev STR_FILL_FAIL_CNT (i : Nat) : Nat := 0x105048 + 0x10000 * i
abbrev STR_RELEASE_CNT (i : Nat) : Nat := 0x105050 + 0x10000 * i
abbrev STG_CFG (i : Nat) : Nat := 0x106000 + 0x10000 * i
abbrev STG_RSV (i : Nat) : Nat := 0x106008 + 0x10000 * i
abbrev STG_NORSV_CNT (i : Nat) : Nat := 0x106010 + 0x10000 * i
abbrev STG_RET_LINES (i : Nat) : Nat := 0x106f00 + 0x10000 * i
abbrev STG_OBS_DROP_CNT (i : Nat) : Nat := 0x106f08 + 0x10000 * i
abbrev TSR_STATUS (i : Nat) : Nat := 0x107000 + 0x10000 * i
abbrev TSR_CMP_CNT (i : Nat) : Nat := 0x107008 + 0x10000 * i
abbrev TSR_BIT_CNT (i : Nat) : Nat := 0x107010 + 0x10000 * i
abbrev TTC_HIT_CNT (i : Nat) : Nat := 0x108000 + 0x10000 * i
abbrev TTC_MISS_CNT (i : Nat) : Nat := 0x108008 + 0x10000 * i
abbrev TTC_CELL_MISS_CNT (i : Nat) : Nat := 0x108010 + 0x10000 * i
abbrev TTC_PF_CNT (i : Nat) : Nat := 0x108018 + 0x10000 * i
abbrev TTC_STALL_CNT (i : Nat) : Nat := 0x108020 + 0x10000 * i
abbrev CRD_CFG : Nat := 0x500000
abbrev CRD_RPL_STATUS : Nat := 0x500008
abbrev CRD_RPL_CNT : Nat := 0x500010
abbrev CRD_SUPERSEDE_CNT : Nat := 0x500018
abbrev CRD_MIG_CNT : Nat := 0x500020
abbrev CRD_RPL_RETRY_CNT : Nat := 0x500028
abbrev CRD_STATUS (i : Nat) : Nat := 0x508000 + 0x800 * i
abbrev CRD_ROW_FETCH_CNT (i : Nat) : Nat := 0x508008 + 0x800 * i
abbrev CRD_COAL_HIT_CNT (i : Nat) : Nat := 0x508010 + 0x800 * i
abbrev CRD_WINDOW_CNT (i : Nat) : Nat := 0x508018 + 0x800 * i
abbrev CRD_REFETCH_CNT (i : Nat) : Nat := 0x508020 + 0x800 * i
abbrev CRD_EMPTY_CNT (i : Nat) : Nat := 0x508028 + 0x800 * i
abbrev CRD_PF_ROW_CNT (i : Nat) : Nat := 0x508030 + 0x800 * i
abbrev CRD_DROP_CNT (i j : Nat) : Nat := 0x508040 + 0x800 * i + 0x8 * j
abbrev SRH_STATUS : Nat := 0x510000
abbrev SRH_SEARCH_CNT : Nat := 0x510008
abbrev SRH_VISIT_CNT : Nat := 0x510010
abbrev SRH_LIMIT_CNT : Nat := 0x510018
abbrev SRH_SIDE_CNT : Nat := 0x510020
abbrev SRH_MERGE_CNT : Nat := 0x510028
abbrev SRH_MISS_PART_CNT : Nat := 0x510030
abbrev RTE_STATUS : Nat := 0x520000
abbrev RTE_PAIR_CNT : Nat := 0x520008
abbrev RTE_OVERFLOW_CNT : Nat := 0x520010
abbrev RTE_NAN_CNT : Nat := 0x520018
abbrev RTE_EXIT_CNT : Nat := 0x520020
abbrev RTE_SKIP_CNT : Nat := 0x520028
abbrev RTE_SLOT_CFG (i : Nat) : Nat := 0x521000 + 0x40 * i
abbrev RTE_SLOT_STATE (i : Nat) : Nat := 0x521008 + 0x40 * i
abbrev RTE_SLOT_MASK (i j : Nat) : Nat := 0x521010 + 0x40 * i + 0x8 * j
abbrev GES_CFG : Nat := 0x530000
abbrev GES_STATUS : Nat := 0x530008
abbrev GES_EXT_CNT : Nat := 0x530010
abbrev GES_ABORT_CNT : Nat := 0x530018

end A

namespace F

abbrev TOP_ID_STEPPING : Fld := ⟨0, 8⟩
abbrev TOP_ID_TILES : Fld := ⟨8, 8⟩
abbrev TOP_ID_STACKS : Fld := ⟨16, 8⟩
abbrev TOP_ID_PART : Fld := ⟨32, 16⟩
abbrev TOP_ID_VENDOR : Fld := ⟨48, 16⟩
abbrev TOP_ROLE_GROUP_MGR : Fld := ⟨0, 1⟩
abbrev TOP_ROLE_SPAN_MGR : Fld := ⟨1, 1⟩
abbrev TOP_ROLE_GATEWAY : Fld := ⟨2, 1⟩
abbrev TOP_ROLE_SPAN_MGR_IDX : Fld := ⟨8, 3⟩
abbrev TOP_ROLE_LEAD_SPAN_MGR : Fld := ⟨11, 1⟩
abbrev TOP_NODE_Z : Fld := ⟨0, 5⟩
abbrev TOP_NODE_Y : Fld := ⟨5, 5⟩
abbrev TOP_NODE_X : Fld := ⟨10, 4⟩
abbrev TOP_NODE_GROUP : Fld := ⟨16, 8⟩
abbrev TOP_NODE_POS : Fld := ⟨24, 6⟩
abbrev TOP_SPAN_DIM_DIM_X_M1 : Fld := ⟨0, 4⟩
abbrev TOP_SPAN_DIM_DIM_Y_M1 : Fld := ⟨8, 5⟩
abbrev TOP_SPAN_DIM_DIM_Z_M1 : Fld := ⟨16, 5⟩
abbrev TOP_SPAN_DIM_SPAN_ID : Fld := ⟨32, 16⟩
abbrev TOP_GROUP_MEMBERS_MEMBER : Fld := ⟨0, 64⟩
abbrev TOP_HALF_STATUS_W_UP : Fld := ⟨0, 1⟩
abbrev TOP_HALF_STATUS_E_UP : Fld := ⟨1, 1⟩
abbrev TOP_HALF_STATUS_W_TOKEN : Fld := ⟨2, 1⟩
abbrev TOP_HALF_STATUS_E_TOKEN : Fld := ⟨3, 1⟩
abbrev TOP_HALF_STATUS_LEADER : Fld := ⟨4, 2⟩
abbrev TOP_HALF_STATUS_W_RESET : Fld := ⟨6, 1⟩
abbrev TOP_HALF_STATUS_E_RESET : Fld := ⟨7, 1⟩
abbrev TOP_UNIT_CFG_DONE_MS : Fld := ⟨0, 32⟩
abbrev TOP_UNIT_LATE_CNT_COUNT : Fld := ⟨0, 32⟩
abbrev TOP_FATAL_STICKY_FIRST_CODE : Fld := ⟨0, 16⟩
abbrev TOP_FATAL_STICKY_ANY : Fld := ⟨16, 1⟩
abbrev TOP_FATAL_STICKY_COUNT : Fld := ⟨24, 8⟩
abbrev TOP_FATAL_STICKY_FIRST_INST : Fld := ⟨32, 8⟩
abbrev TOP_FATAL_STICKY_FIRST_TICK : Fld := ⟨40, 24⟩
abbrev TOP_WDT_CFG_ENG_TIMEOUT : Fld := ⟨0, 24⟩
abbrev TOP_WDT_CFG_EASEL_TIMEOUT : Fld := ⟨32, 24⟩
abbrev TOP_WDT_PET_PET_W : Fld := ⟨0, 1⟩
abbrev TOP_WDT_PET_PET_E : Fld := ⟨1, 1⟩
abbrev TOP_WDT_CNT_ENG : Fld := ⟨0, 32⟩
abbrev TOP_WDT_CNT_W : Fld := ⟨32, 16⟩
abbrev TOP_WDT_CNT_E : Fld := ⟨48, 16⟩
abbrev TOP_TOKEN_EPOCH : Fld := ⟨0, 32⟩
abbrev TOP_TOKEN_HALF : Fld := ⟨32, 1⟩
abbrev TOP_TOKEN_VALID : Fld := ⟨33, 1⟩
abbrev TOP_TOKEN_ISSUER : Fld := ⟨34, 14⟩
abbrev TOP_TOKEN_CFG_RENEW : Fld := ⟨0, 24⟩
abbrev TOP_TOKEN_CFG_TERM : Fld := ⟨32, 24⟩
abbrev TOP_TOKEN_LEFT_LEFT : Fld := ⟨0, 32⟩
abbrev TOP_QUORUM_CFG_BEAT : Fld := ⟨0, 24⟩
abbrev TOP_QUORUM_CFG_DEAD_BEATS : Fld := ⟨24, 4⟩
abbrev TOP_QUORUM_CFG_VOTE_TTL : Fld := ⟨32, 32⟩
abbrev TOP_QUORUM_STATUS_LIVE : Fld := ⟨0, 5⟩
abbrev TOP_QUORUM_STATUS_LEADER : Fld := ⟨5, 3⟩
abbrev TOP_QUORUM_STATUS_TERM : Fld := ⟨32, 32⟩
abbrev TOP_RES_STATUS_STATE : Fld := ⟨0, 2⟩
abbrev TOP_RES_STATUS_PRIMARY : Fld := ⟨16, 14⟩
abbrev TOP_RES_STATUS_RUN : Fld := ⟨32, 21⟩
abbrev TOP_EXPEL_CNT_COUNT : Fld := ⟨0, 32⟩
abbrev TOP_VOTE_TARGET : Fld := ⟨0, 14⟩
abbrev TOP_VOTE_VALID : Fld := ⟨14, 1⟩
abbrev TOP_VOTE_REASON : Fld := ⟨16, 7⟩
abbrev TOP_EXPEL_MAP_MAP : Fld := ⟨0, 64⟩
abbrev TOP_SHADOW_MAP_MAP : Fld := ⟨0, 64⟩
abbrev PWR_STATUS_STATE : Fld := ⟨0, 2⟩
abbrev PWR_STATUS_TRANS : Fld := ⟨2, 1⟩
abbrev PWR_STATUS_WAKE_SRC : Fld := ⟨4, 3⟩
abbrev PWR_STATUS_THROTTLED : Fld := ⟨8, 1⟩
abbrev PWR_STATUS_COOLING : Fld := ⟨9, 1⟩
abbrev PWR_CFG_GATE_IDLE : Fld := ⟨0, 16⟩
abbrev PWR_CFG_TRIP_RESTART : Fld := ⟨16, 1⟩
abbrev PWR_CTRL_WAKE : Fld := ⟨0, 1⟩
abbrev PWR_TILE_GATED_GATED : Fld := ⟨0, 64⟩
abbrev PWR_THERM_CFG_THROTTLE_C : Fld := ⟨0, 8⟩
abbrev PWR_THERM_STATUS_MAX_C : Fld := ⟨0, 8⟩
abbrev PWR_THERM_STATUS_MAX_SENS : Fld := ⟨8, 5⟩
abbrev PWR_IN_STATUS_LEVEL : Fld := ⟨0, 3⟩
abbrev PWR_IN_STATUS_MASKED : Fld := ⟨4, 3⟩
abbrev PWR_IN_STATUS_OVR : Fld := ⟨8, 3⟩
abbrev PWR_IN_CTRL_UNMASK : Fld := ⟨4, 3⟩
abbrev PWR_IN_OVR_CNT_RST : Fld := ⟨0, 16⟩
abbrev PWR_IN_OVR_CNT_POK : Fld := ⟨16, 16⟩
abbrev PWR_IN_OVR_CNT_WAKE : Fld := ⟨32, 16⟩
abbrev PWR_THROTTLE_CNT_COUNT : Fld := ⟨0, 48⟩
abbrev PWR_ENTRY_CNT_P2 : Fld := ⟨0, 32⟩
abbrev PWR_ENTRY_CNT_P3 : Fld := ⟨32, 32⟩
abbrev PWR_AVS_STATUS_VOUT_MV : Fld := ⟨0, 10⟩
abbrev PWR_AVS_STATUS_IOUT_A : Fld := ⟨16, 10⟩
abbrev PWR_AVS_STATUS_TEMP_C : Fld := ⟨32, 8⟩
abbrev PWR_AVS_STATUS_FAIL : Fld := ⟨40, 1⟩
abbrev PWR_AVS_STATUS_VERSION : Fld := ⟨41, 3⟩
abbrev PWR_AVS_ERR_CNT_COUNT : Fld := ⟨0, 32⟩
abbrev PWR_I3C_STATUS_DYN_ADDR : Fld := ⟨0, 7⟩
abbrev PWR_I3C_STATUS_DA_VALID : Fld := ⟨7, 1⟩
abbrev PWR_I3C_STATUS_STATIC_ADDR : Fld := ⟨8, 7⟩
abbrev PWR_I3C_STATUS_ERR : Fld := ⟨32, 16⟩
abbrev PWR_CDC_OVR_OVR : Fld := ⟨0, 64⟩
abbrev PWR_SENS_TEMP : Fld := ⟨0, 8⟩
abbrev CLK_STATUS_OP : Fld := ⟨0, 2⟩
abbrev CLK_STATUS_LOCK : Fld := ⟨2, 5⟩
abbrev CLK_STATUS_CHANGING : Fld := ⟨7, 1⟩
abbrev CLK_STATUS_VDD_MV : Fld := ⟨16, 10⟩
abbrev CLK_CFG_OP : Fld := ⟨0, 2⟩
abbrev CLK_CFG_VMARGIN : Fld := ⟨8, 7⟩
abbrev CLK_AON_TICK_TICK : Fld := ⟨0, 64⟩
abbrev CLK_CHANGE_CNT_COUNT : Fld := ⟨0, 32⟩
abbrev CLK_OP_VID_VID_MV : Fld := ⟨0, 10⟩
abbrev CLK_OP_VID_FREQ_MHZ : Fld := ⟨16, 16⟩
abbrev BOOT_STATUS_STAGE : Fld := ⟨0, 4⟩
abbrev BOOT_STATUS_SOURCE : Fld := ⟨4, 2⟩
abbrev BOOT_STATUS_FAILS : Fld := ⟨8, 4⟩
abbrev BOOT_STATUS_LAST_REASON : Fld := ⟨12, 4⟩
abbrev BOOT_STATUS_CAUSE : Fld := ⟨16, 3⟩
abbrev BOOT_STATUS_FLASH : Fld := ⟨19, 1⟩
abbrev BOOT_CFG_START_TIMEOUT : Fld := ⟨0, 32⟩
abbrev BOOT_CFG_HOST_WAIT_MS : Fld := ⟨32, 16⟩
abbrev BOOT_CFG_SPI_SINGLE : Fld := ⟨48, 1⟩
abbrev BOOT_CTRL_START_OK : Fld := ⟨0, 1⟩
abbrev BOOT_CTRL_CLEAR_FAILS : Fld := ⟨1, 1⟩
abbrev BOOT_CTRL_RESET : Fld := ⟨2, 1⟩
abbrev BOOT_FUSE_SRC : Fld := ⟨0, 1⟩
abbrev BOOT_FUSE_FUSE_ERR : Fld := ⟨1, 1⟩
abbrev BOOT_FUSE_SVN_FLOOR : Fld := ⟨8, 8⟩
abbrev BOOT_FW_INFO_SVN : Fld := ⟨0, 32⟩
abbrev BOOT_FW_INFO_BODY_LEN : Fld := ⟨32, 32⟩
abbrev BOOT_FW_VERSION_VERSION : Fld := ⟨0, 64⟩
abbrev BOOT_IMG_STATUS_STATE : Fld := ⟨0, 2⟩
abbrev BOOT_IMG_STATUS_OVER : Fld := ⟨2, 1⟩
abbrev BOOT_IMG_STATUS_BUSY_REJ : Fld := ⟨3, 1⟩
abbrev BOOT_IMG_STATUS_CAUSE : Fld := ⟨4, 8⟩
abbrev BOOT_IMG_STATUS_LENGTH : Fld := ⟨32, 24⟩
abbrev BOOT_IMG_DATA_DATA : Fld := ⟨0, 64⟩
abbrev BOOT_IMG_CTRL_BEGIN : Fld := ⟨0, 1⟩
abbrev BOOT_IMG_CTRL_END : Fld := ⟨1, 1⟩
abbrev BOOT_SPI_INFO_DENSITY : Fld := ⟨0, 6⟩
abbrev BOOT_SPI_INFO_MODE : Fld := ⟨6, 2⟩
abbrev BOOT_SPI_INFO_ADDR4 : Fld := ⟨8, 1⟩
abbrev BOOT_SPI_INFO_ERASE : Fld := ⟨16, 5⟩
abbrev BOOT_START_CNT_COUNT : Fld := ⟨0, 32⟩
abbrev BOOT_MBOX_DB_GO : Fld := ⟨0, 1⟩
abbrev BOOT_MBOX_STATUS_BUSY : Fld := ⟨0, 1⟩
abbrev BOOT_MBOX_STATUS_DONE : Fld := ⟨1, 1⟩
abbrev BOOT_KEY_HASH_BYTES : Fld := ⟨0, 64⟩
abbrev BOOT_FW_DIGEST_BYTES : Fld := ⟨0, 64⟩
abbrev BOOT_CFG_DIGEST_BYTES : Fld := ⟨0, 64⟩
abbrev BOOT_MBOX_CMD_BYTES : Fld := ⟨0, 64⟩
abbrev BOOT_MBOX_CPL_BYTES : Fld := ⟨0, 64⟩
abbrev EVQ_X_POP_WORD0 : Fld := ⟨0, 64⟩
abbrev EVQ_X_COUNT_COUNT : Fld := ⟨0, 14⟩
abbrev EVQ_X_LOST_CNT_COUNT : Fld := ⟨0, 32⟩
abbrev EVQ_X_CE_CNT_COUNT : Fld := ⟨0, 32⟩
abbrev EVQ_X_UE_CNT_COUNT : Fld := ⟨0, 32⟩
abbrev EVQ_X_DROP_CNT_COUNT : Fld := ⟨0, 32⟩
abbrev EVQ_X_BANK_SEQ_SEQ : Fld := ⟨0, 32⟩
abbrev EVQ_X_BANK1_WORD : Fld := ⟨0, 64⟩
abbrev EVQ_X_BANK2_WORD : Fld := ⟨0, 64⟩
abbrev EVQ_X_BANK3_WORD : Fld := ⟨0, 64⟩
abbrev EVQ_CTRL_FLUSH_EVENT : Fld := ⟨0, 1⟩
abbrev EVQ_CTRL_FLUSH_FAULT : Fld := ⟨1, 1⟩
abbrev EVQ_CTRL_FLUSH_TRACE : Fld := ⟨2, 1⟩
abbrev EVQ_SEQ_NEXT : Fld := ⟨0, 32⟩
abbrev EVQ_SEQ_TRACE_NEXT : Fld := ⟨32, 32⟩
abbrev EVQ_TRACE_CFG_EN : Fld := ⟨0, 1⟩
abbrev EVQ_TRACE_CFG_KINDS : Fld := ⟨1, 3⟩
abbrev EVQ_TRACE_CFG_SAMPLE : Fld := ⟨4, 4⟩
abbrev EVQ_TRACE_CFG_QLO : Fld := ⟨8, 9⟩
abbrev EVQ_TRACE_CFG_QHI : Fld := ⟨24, 9⟩
abbrev EVQ_TRACE_MARK_VALUE : Fld := ⟨0, 64⟩
abbrev CMD_Q_CFG_ENABLE : Fld := ⟨0, 1⟩
abbrev CMD_Q_CFG_KIND : Fld := ⟨1, 1⟩
abbrev CMD_Q_CFG_PRIORITY : Fld := ⟨2, 1⟩
abbrev CMD_Q_CFG_CX6_ALLOW : Fld := ⟨3, 1⟩
abbrev CMD_Q_CFG_PORT : Fld := ⟨4, 2⟩
abbrev CMD_Q_CFG_ALL_DOMAINS : Fld := ⟨6, 1⟩
abbrev CMD_Q_CFG_FENCE_GROUP : Fld := ⟨8, 6⟩
abbrev CMD_Q_CFG_DOMAIN : Fld := ⟨16, 5⟩
abbrev CMD_Q_CFG_TILE_FIRST : Fld := ⟨24, 6⟩
abbrev CMD_Q_CFG_TILE_COUNT_M1 : Fld := ⟨32, 6⟩
abbrev CMD_Q_CFG_CX6_CONTEXT : Fld := ⟨40, 8⟩
abbrev CMD_Q_RING_LOG2_SIZE : Fld := ⟨0, 4⟩
abbrev CMD_Q_RING_BASE : Fld := ⟨12, 27⟩
abbrev CMD_Q_CQ_LOG2_SIZE : Fld := ⟨0, 4⟩
abbrev CMD_Q_CQ_BASE : Fld := ⟨12, 27⟩
abbrev CMD_Q_DB_PROD_DB_or_CQ_HEAD_CQ_DB : Fld := ⟨0, 16⟩
abbrev CMD_Q_CQ_DB_PROD_DB_or_CQ_HEAD_CQ_DB : Fld := ⟨0, 16⟩
abbrev CMD_Q_PTR_PROD : Fld := ⟨0, 16⟩
abbrev CMD_Q_PTR_CONS : Fld := ⟨16, 16⟩
abbrev CMD_Q_PTR_CQ_TAIL : Fld := ⟨32, 16⟩
abbrev CMD_Q_PTR_CQ_HEAD : Fld := ⟨48, 16⟩
abbrev CMD_Q_STATE_STATE : Fld := ⟨0, 2⟩
abbrev CMD_Q_STATE_ERR : Fld := ⟨4, 4⟩
abbrev CMD_Q_STATE_RESET : Fld := ⟨8, 1⟩
abbrev CMD_Q_STATE_IN_FLIGHT : Fld := ⟨9, 1⟩
abbrev CMD_Q_DONE_CNT_DONE : Fld := ⟨0, 48⟩
abbrev CMD_STAGE_STATUS_STATE : Fld := ⟨0, 3⟩
abbrev CMD_STAGE_STATUS_ENTRIES : Fld := ⟨4, 9⟩
abbrev CMD_STAGE_STATUS_OWNER : Fld := ⟨16, 10⟩
abbrev CMD_STAGE_STATUS_SET_ID : Fld := ⟨32, 32⟩
abbrev CMD_STAGE_LAST_LAST_SET_ID : Fld := ⟨0, 32⟩
abbrev CMD_COMMIT_TICK_TICK : Fld := ⟨0, 64⟩
abbrev CMD_SEQ_SEQ : Fld := ⟨0, 32⟩
abbrev CMD_WIN_REJ_CNT_COUNT : Fld := ⟨0, 32⟩
abbrev CMD_STAGE_EXPIRE_CNT_COUNT : Fld := ⟨0, 32⟩
abbrev DOM_CFG_STATE : Fld := ⟨0, 2⟩
abbrev DOM_CFG_KEYED : Fld := ⟨2, 1⟩
abbrev DOM_CFG_STALLED : Fld := ⟨3, 1⟩
abbrev DOM_CFG_STEP : Fld := ⟨4, 3⟩
abbrev DOM_CFG_SLOT_QUOTA : Fld := ⟨8, 9⟩
abbrev DOM_CFG_WIN_QUOTA : Fld := ⟨17, 7⟩
abbrev DOM_CFG_GEN : Fld := ⟨32, 16⟩
abbrev DOM_IDENT_IDENT : Fld := ⟨0, 64⟩
abbrev DOM_BW_EGRESS_RATE : Fld := ⟨0, 16⟩
abbrev DOM_BW_BURST : Fld := ⟨16, 16⟩
abbrev DOM_BW_KEY_ID : Fld := ⟨32, 32⟩
abbrev DOM_USE_SLOTS_BOUND : Fld := ⟨0, 9⟩
abbrev DOM_USE_WINDOWS_OPEN : Fld := ⟨16, 7⟩
abbrev DOM_USE_QUEUES : Fld := ⟨32, 10⟩
abbrev DOM_USE_EXTENTS : Fld := ⟨42, 9⟩
abbrev DOM_RIGHTS_CNT_COUNT : Fld := ⟨0, 32⟩
abbrev DOM_EXT_TAG_DOMAIN : Fld := ⟨0, 5⟩
abbrev DOM_EXT_TAG_CLASS : Fld := ⟨8, 1⟩
abbrev DOM_EXT_TAG_STATE : Fld := ⟨12, 2⟩
abbrev DOM_STATUS_ACTIVE : Fld := ⟨0, 6⟩
abbrev DOM_STATUS_KEYED : Fld := ⟨8, 6⟩
abbrev DOM_STATUS_SEALED_EXT : Fld := ⟨16, 9⟩
abbrev STN_CFG_MISS_TIMEOUT : Fld := ⟨0, 24⟩
abbrev STN_CFG_PF_EN : Fld := ⟨24, 1⟩
abbrev STN_CFG_ACK_TIMEOUT : Fld := ⟨32, 20⟩
abbrev STN_STATUS_MISS_OUT : Fld := ⟨0, 8⟩
abbrev STN_STATUS_INV_BUSY : Fld := ⟨8, 1⟩
abbrev STN_STATUS_CTX_BOUND : Fld := ⟨16, 9⟩
abbrev STN_MISS_CNT_COUNT : Fld := ⟨0, 32⟩
abbrev STN_MISS_TO_CNT_COUNT : Fld := ⟨0, 32⟩
abbrev STN_STALE_CNT_COUNT : Fld := ⟨0, 32⟩
abbrev STN_INV_CNT_COUNT : Fld := ⟨0, 32⟩
abbrev STN_WIN_REJ_CNT_COUNT : Fld := ⟨0, 32⟩
abbrev STN_CTX_CFG_STATE : Fld := ⟨0, 1⟩
abbrev STN_CTX_CFG_DOMAIN : Fld := ⟨4, 5⟩
abbrev STN_CTX_CFG_PORT : Fld := ⟨12, 2⟩
abbrev STN_CTX_CFG_VALID_SEGS : Fld := ⟨16, 8⟩
abbrev STN_CTX_CFG_INV_GEN : Fld := ⟨32, 16⟩
abbrev STN_CTX_BASE_HOST_BASE : Fld := ⟨0, 64⟩
abbrev STN_WIN_VALID : Fld := ⟨0, 1⟩
abbrev STN_WIN_R : Fld := ⟨1, 1⟩
abbrev STN_WIN_W : Fld := ⟨2, 1⟩
abbrev STN_WIN_A : Fld := ⟨3, 1⟩
abbrev STN_WIN_CLASS : Fld := ⟨4, 1⟩
abbrev STN_WIN_SRC_ANY : Fld := ⟨5, 1⟩
abbrev STN_WIN_SRC_DOMAIN : Fld := ⟨6, 5⟩
abbrev STN_WIN_SRC_NODE : Fld := ⟨11, 14⟩
abbrev STN_WIN_TGT_OFF : Fld := ⟨25, 18⟩
abbrev STN_WIN_LEN_M1 : Fld := ⟨43, 18⟩
abbrev STN_SEG0_VALID : Fld := ⟨0, 1⟩
abbrev STN_SEG0_R : Fld := ⟨1, 1⟩
abbrev STN_SEG0_W : Fld := ⟨2, 1⟩
abbrev STN_SEG0_A : Fld := ⟨3, 1⟩
abbrev STN_SEG0_CLASS : Fld := ⟨4, 1⟩
abbrev STN_SEG0_REMOTE : Fld := ⟨5, 1⟩
abbrev STN_SEG0_BASE : Fld := ⟨21, 27⟩
abbrev STN_SEG1_LEN_M1 : Fld := ⟨0, 18⟩
abbrev STN_SEG1_TGT_OFF : Fld := ⟨21, 18⟩
abbrev STN_SEG1_WIN : Fld := ⟨39, 11⟩
abbrev STN_SEG1_NODE : Fld := ⟨50, 14⟩
abbrev HOM_CFG_CREDIT_HOLD : Fld := ⟨0, 16⟩
abbrev HOM_CFG_SNOOP_TIMEOUT : Fld := ⟨16, 16⟩
abbrev HOM_STATUS_WALK : Fld := ⟨0, 4⟩
abbrev HOM_SL_STATUS_TRK_USED : Fld := ⟨0, 10⟩
abbrev HOM_SL_STATUS_QUEUE_USED : Fld := ⟨16, 14⟩
abbrev HOM_SL_STATUS_CREDITS_OUT : Fld := ⟨32, 16⟩
abbrev HOM_SL_STATUS_LOAD : Fld := ⟨48, 3⟩
abbrev HOM_SL_CREDIT_NEXT : Fld := ⟨0, 16⟩
abbrev HOM_SL_CREDIT_OLDEST : Fld := ⟨16, 16⟩
abbrev HOM_RETRY_CNT_COUNT : Fld := ⟨0, 32⟩
abbrev HOM_CREDIT_EXP_CNT_COUNT : Fld := ⟨0, 32⟩
abbrev HOM_BACKINV_CNT_COUNT : Fld := ⟨0, 32⟩
abbrev HOM_SPILL_CNT_COUNT : Fld := ⟨0, 32⟩
abbrev HOM_SNOOP_TO_CNT_COUNT : Fld := ⟨0, 32⟩
abbrev HOM_DC_USE_OWNED : Fld := ⟨0, 19⟩
abbrev HOM_DC_USE_SHARED : Fld := ⟨20, 19⟩
abbrev HOM_OWN_SEL_REGION : Fld := ⟨0, 18⟩
abbrev HOM_OWN_REC_STATE : Fld := ⟨0, 2⟩
abbrev HOM_OWN_REC_STATEFUL : Fld := ⟨2, 1⟩
abbrev HOM_OWN_REC_RECLAIMED : Fld := ⟨3, 1⟩
abbrev HOM_OWN_REC_OWNER : Fld := ⟨4, 14⟩
abbrev HOM_OWN_REC_PEND : Fld := ⟨18, 14⟩
abbrev HOM_OWN_REC_EPOCH : Fld := ⟨32, 16⟩
abbrev HOM_OWN_STATUS_GRANTED : Fld := ⟨0, 18⟩
abbrev HOM_OWN_STATUS_OWNED_HERE : Fld := ⟨20, 13⟩
abbrev HOM_RECLAIM_CNT_COUNT : Fld := ⟨0, 32⟩
abbrev HOM_NOREL_CNT_COUNT : Fld := ⟨0, 32⟩
abbrev HOM_PUB_CFG_VALID : Fld := ⟨0, 1⟩
abbrev HOM_PUB_CFG_DOMAIN : Fld := ⟨1, 5⟩
abbrev HOM_PUB_CFG_LEN_M1 : Fld := ⟨8, 6⟩
abbrev HOM_PUB_CFG_RECORD : Fld := ⟨16, 33⟩
abbrev HOM_PUB_VER_VERSION : Fld := ⟨0, 32⟩
abbrev HOM_PUB_CUR_CUR : Fld := ⟨0, 18⟩
abbrev HOM_PUB_CUR_PREV : Fld := ⟨32, 18⟩
abbrev HOM_PUB_CUR_PREV_VALID : Fld := ⟨62, 1⟩
abbrev HOM_PUB_CUR_CUR_VALID : Fld := ⟨63, 1⟩
abbrev LSE_MODE_MODE : Fld := ⟨0, 1⟩
abbrev LSE_CFG_DEFAULT_TERM_MS : Fld := ⟨0, 16⟩
abbrev LSE_STATUS_ASSIGNED : Fld := ⟨0, 9⟩
abbrev LSE_STATUS_FENCED : Fld := ⟨16, 9⟩
abbrev LSE_STATUS_MULTI : Fld := ⟨32, 9⟩
abbrev LSE_STATUS_NEXT_ID : Fld := ⟨48, 16⟩
abbrev LSE_GRANT_CNT_COUNT : Fld := ⟨0, 32⟩
abbrev LSE_REVOKE_CNT_COUNT : Fld := ⟨0, 32⟩
abbrev LSE_EXPIRE_CNT_COUNT : Fld := ⟨0, 32⟩
abbrev LSE_EXT_HOLDERS : Fld := ⟨0, 4⟩
abbrev LSE_EXT_LEASE_ID : Fld := ⟨16, 16⟩
abbrev LSE_EXT_TERM_MS : Fld := ⟨32, 16⟩
abbrev LSE_EXPIRY_TICK : Fld := ⟨0, 48⟩
abbrev TLK_CFG_ENABLE : Fld := ⟨0, 1⟩
abbrev TLK_CFG_WIN_FULL : Fld := ⟨1, 1⟩
abbrev TLK_CFG_X4_OK : Fld := ⟨2, 1⟩
abbrev TLK_CFG_LOST_TIME : Fld := ⟨16, 24⟩
abbrev TLK_STATUS_STATE : Fld := ⟨0, 3⟩
abbrev TLK_STATUS_WIDTH : Fld := ⟨3, 1⟩
abbrev TLK_STATUS_LOST : Fld := ⟨4, 1⟩
abbrev TLK_STATUS_RETRY_HOLD : Fld := ⟨5, 1⟩
abbrev TLK_STATUS_LANES_OK : Fld := ⟨8, 8⟩
abbrev TLK_STATUS_WIN_VIOL : Fld := ⟨16, 8⟩
abbrev TLK_LIMIT_RATE : Fld := ⟨0, 16⟩
abbrev TLK_LIMIT_BURST : Fld := ⟨16, 16⟩
abbrev TLK_LIMIT_PEAK : Fld := ⟨32, 16⟩
abbrev TLK_VIOL_CFG_THRESH : Fld := ⟨0, 8⟩
abbrev TLK_VIOL_CFG_WINDOW : Fld := ⟨8, 32⟩
abbrev TLK_CTRL_RETRAIN : Fld := ⟨0, 1⟩
abbrev TLK_CTRL_RELEASE : Fld := ⟨1, 1⟩
abbrev TLK_CTRL_DECLARE_LOST : Fld := ⟨2, 1⟩
abbrev TLK_LAST_VIOL_REASON : Fld := ⟨0, 8⟩
abbrev TLK_LAST_VIOL_TYPE : Fld := ⟨8, 8⟩
abbrev TLK_LAST_VIOL_TAG : Fld := ⟨16, 16⟩
abbrev TLK_LAST_VIOL_TICK : Fld := ⟨32, 32⟩
abbrev TLK_FEC_CE_CNT_COUNT : Fld := ⟨0, 32⟩
abbrev TLK_FEC_UE_CNT_COUNT : Fld := ⟨0, 32⟩
abbrev TLK_REPLAY_CNT_COUNT : Fld := ⟨0, 32⟩
abbrev TLK_RETRAIN_CNT_COUNT : Fld := ⟨0, 32⟩
abbrev TLK_VIOL_CNT_COUNT : Fld := ⟨0, 32⟩
abbrev TLK_WIN_DENY_CNT_COUNT : Fld := ⟨0, 32⟩
abbrev TLK_QUAR_CNT_COUNT : Fld := ⟨0, 32⟩
abbrev TLK_NOTICE_DROP_CNT_COUNT : Fld := ⟨0, 32⟩
abbrev TLK_LEASE_MAP_MAP : Fld := ⟨0, 64⟩
abbrev TLK_LANE_STATUS_INVERTED : Fld := ⟨0, 8⟩
abbrev TLK_LANE_STATUS_RX_REVERSED : Fld := ⟨8, 1⟩
abbrev DRS_CFG_ENABLE : Fld := ⟨0, 1⟩
abbrev DRS_CFG_X4_OK : Fld := ⟨1, 1⟩
abbrev DRS_STATUS_STATE : Fld := ⟨0, 3⟩
abbrev DRS_STATUS_WIDTH : Fld := ⟨3, 1⟩
abbrev DRS_STATUS_EXT : Fld := ⟨4, 1⟩
abbrev DRS_STATUS_HOLD : Fld := ⟨5, 1⟩
abbrev DRS_STATUS_LANES_OK : Fld := ⟨8, 8⟩
abbrev DRS_STATUS_WIN_VIOL : Fld := ⟨16, 8⟩
abbrev DRS_STATUS_PEER_NODE : Fld := ⟨24, 14⟩
abbrev DRS_VIOL_CFG_THRESH : Fld := ⟨0, 8⟩
abbrev DRS_VIOL_CFG_WINDOW : Fld := ⟨8, 32⟩
abbrev DRS_CTRL_RETRAIN : Fld := ⟨0, 1⟩
abbrev DRS_CTRL_RELEASE : Fld := ⟨1, 1⟩
abbrev DRS_LAST_VIOL_REASON : Fld := ⟨0, 8⟩
abbrev DRS_LAST_VIOL_TYPE : Fld := ⟨8, 8⟩
abbrev DRS_LAST_VIOL_SRC : Fld := ⟨16, 14⟩
abbrev DRS_LAST_VIOL_TICK : Fld := ⟨32, 32⟩
abbrev DRS_FEC_CE_CNT_COUNT : Fld := ⟨0, 32⟩
abbrev DRS_FEC_UE_CNT_COUNT : Fld := ⟨0, 32⟩
abbrev DRS_REPLAY_CNT_COUNT : Fld := ⟨0, 32⟩
abbrev DRS_RETRAIN_CNT_COUNT : Fld := ⟨0, 32⟩
abbrev DRS_FAILOVER_CNT_COUNT : Fld := ⟨0, 32⟩
abbrev DRS_VIOL_CNT_COUNT : Fld := ⟨0, 32⟩
abbrev DRS_QUAR_CNT_COUNT : Fld := ⟨0, 32⟩
abbrev DRS_LANE_STATUS_INVERTED : Fld := ⟨0, 8⟩
abbrev DRS_LANE_STATUS_RX_REVERSED : Fld := ⟨8, 1⟩
abbrev GWY_SW_CFG_RSP_TIMEOUT : Fld := ⟨0, 16⟩
abbrev GWY_SW_CFG_HOLD_DOWN : Fld := ⟨16, 24⟩
abbrev GWY_SW_CFG_DEAD_AGE : Fld := ⟨40, 24⟩
abbrev GWY_SW_STATUS_DEAD_USED : Fld := ⟨0, 7⟩
abbrev GWY_SW_STATUS_FENCED : Fld := ⟨8, 15⟩
abbrev GWY_SW_STATUS_REPLAY_USED : Fld := ⟨32, 18⟩
abbrev GWY_SRC_BOOT_BOOT : Fld := ⟨0, 8⟩
abbrev GWY_NOROUTE_CNT_COUNT : Fld := ⟨0, 32⟩
abbrev GWY_RSP_TO_CNT_COUNT : Fld := ⟨0, 32⟩
abbrev GWY_RETX_CNT_COUNT : Fld := ⟨0, 32⟩
abbrev GWY_REPLAY_HIT_CNT_COUNT : Fld := ⟨0, 32⟩
abbrev GWY_INDET_CNT_COUNT : Fld := ⟨0, 32⟩
abbrev GWY_PMSG_DROP_CNT_COUNT : Fld := ⟨0, 32⟩
abbrev GWY_DEAD_VALID : Fld := ⟨0, 1⟩
abbrev GWY_DEAD_DIR : Fld := ⟨1, 3⟩
abbrev GWY_DEAD_NODE : Fld := ⟨4, 14⟩
abbrev GWY_DEAD_TICK : Fld := ⟨32, 32⟩
abbrev GWY_CFG_EXT_PORT : Fld := ⟨0, 4⟩
abbrev GWY_CFG_EXT_EN : Fld := ⟨4, 1⟩
abbrev GWY_CFG_MAX_STAGES : Fld := ⟨8, 4⟩
abbrev GWY_CFG_PEER_SPAN : Fld := ⟨16, 16⟩
abbrev GWY_CFG_COALESCE : Fld := ⟨32, 16⟩
abbrev GWY_STATUS_EXT_UP : Fld := ⟨0, 1⟩
abbrev GWY_STATUS_PEER_SEEN : Fld := ⟨16, 16⟩
abbrev GWY_STATUS_QUEUED : Fld := ⟨32, 17⟩
abbrev GWY_SHIP_CNT_COUNT : Fld := ⟨0, 48⟩
abbrev GWY_LAND_CNT_COUNT : Fld := ⟨0, 48⟩
abbrev GWY_SPAN_RT_VALID : Fld := ⟨0, 1⟩
abbrev GWY_SPAN_RT_SPAN : Fld := ⟨16, 16⟩
abbrev GWY_SPAN_RT_VIA_NODE : Fld := ⟨32, 14⟩
abbrev GWY_CHAN0_VALID : Fld := ⟨0, 1⟩
abbrev GWY_CHAN0_DOMAIN : Fld := ⟨1, 5⟩
abbrev GWY_CHAN0_LEN_M1 : Fld := ⟨8, 6⟩
abbrev GWY_CHAN0_PEER_CHAN : Fld := ⟨16, 6⟩
abbrev GWY_CHAN1_OUT : Fld := ⟨0, 18⟩
abbrev GWY_CHAN1_IN : Fld := ⟨32, 18⟩
abbrev GWY_CHAN2_RECORD : Fld := ⟨0, 33⟩
abbrev TRF_CFG_REFILL : Fld := ⟨0, 10⟩
abbrev TRF_CFG_YEL_GUARD : Fld := ⟨16, 5⟩
abbrev TRF_TLK_Q_HOST_Q : Fld := ⟨0, 16⟩
abbrev TRF_TLK_Q_ENG_Q : Fld := ⟨16, 16⟩
abbrev TRF_TLK_Q_BULK_Q : Fld := ⟨32, 16⟩
abbrev TRF_DRS_Q_ENG_Q : Fld := ⟨0, 16⟩
abbrev TRF_DRS_Q_BULK_Q : Fld := ⟨16, 16⟩
abbrev TRF_DRS_Q_FWD_Q : Fld := ⟨32, 16⟩
abbrev TRF_ING_Q_HOST_Q : Fld := ⟨0, 16⟩
abbrev TRF_ING_Q_ENG_Q : Fld := ⟨16, 16⟩
abbrev TRF_ING_Q_BULK_Q : Fld := ⟨32, 16⟩
abbrev TRF_NODE_METER_CIR : Fld := ⟨0, 16⟩
abbrev TRF_NODE_METER_PIR : Fld := ⟨16, 16⟩
abbrev TRF_NODE_METER_CBS : Fld := ⟨32, 16⟩
abbrev TRF_NODE_METER_PBS : Fld := ⟨48, 16⟩
abbrev TRF_SAMPLE_PERIOD : Fld := ⟨0, 16⟩
abbrev TRF_SAMPLE_RUN : Fld := ⟨16, 1⟩
abbrev TRF_SAMPLE_CLEAR : Fld := ⟨17, 1⟩
abbrev TRF_NODE_LAST_RED_NODE : Fld := ⟨0, 14⟩
abbrev TRF_NODE_LAST_RED_VALID : Fld := ⟨14, 1⟩
abbrev TRF_NODE_YELLOW_CNT_COUNT : Fld := ⟨0, 32⟩
abbrev TRF_NODE_RED_CNT_COUNT : Fld := ⟨0, 32⟩
abbrev TRF_TLK_YELLOW_CNT_COUNT : Fld := ⟨0, 32⟩
abbrev TRF_TLK_RED_CNT_COUNT : Fld := ⟨0, 32⟩
abbrev TRF_SHP_STAT_TOKENS : Fld := ⟨0, 32⟩
abbrev TRF_SHP_STAT_RATE_NOW : Fld := ⟨32, 16⟩
abbrev TRF_SHP_STAT_HELD : Fld := ⟨48, 16⟩
abbrev TRF_SHP_HELD_CNT_COUNT : Fld := ⟨0, 32⟩
abbrev TRF_Q_NOW_DEPTH : Fld := ⟨0, 24⟩
abbrev TRF_Q_NOW_HOL : Fld := ⟨32, 24⟩
abbrev TRF_HIST_DEPTH_COUNT : Fld := ⟨0, 32⟩
abbrev TRF_HIST_DELAY_COUNT : Fld := ⟨0, 32⟩
abbrev STK_CFG_SCRUB_EN : Fld := ⟨0, 1⟩
abbrev STK_CFG_AUTO_REPAIR : Fld := ⟨1, 1⟩
abbrev STK_CFG_THROTTLE_C : Fld := ⟨8, 8⟩
abbrev STK_CFG_PIN_THRESH : Fld := ⟨16, 8⟩
abbrev STK_STATUS_STATE : Fld := ⟨0, 3⟩
abbrev STK_STATUS_THROTTLED : Fld := ⟨3, 1⟩
abbrev STK_STATUS_REFRESH_2X : Fld := ⟨4, 1⟩
abbrev STK_STATUS_TEMP : Fld := ⟨8, 8⟩
abbrev STK_STATUS_SPARES_USED : Fld := ⟨16, 7⟩
abbrev STK_STATUS_ERASED_PINS : Fld := ⟨24, 7⟩
abbrev STK_SCRUB_CFG_INTERVAL : Fld := ⟨0, 24⟩
abbrev STK_SCRUB_POS_LINE : Fld := ⟨0, 30⟩
abbrev STK_SCRUB_PASS_CNT_COUNT : Fld := ⟨0, 32⟩
abbrev STK_CE_CNT_COUNT : Fld := ⟨0, 32⟩
abbrev STK_ERASE_CNT_COUNT : Fld := ⟨0, 32⟩
abbrev STK_UE_CNT_COUNT : Fld := ⟨0, 32⟩
abbrev STK_ODECC_CNT_COUNT : Fld := ⟨0, 32⟩
abbrev STK_RFM_CNT_COUNT : Fld := ⟨0, 32⟩
abbrev STK_POISON_WR_CNT_COUNT : Fld := ⟨0, 32⟩
abbrev STK_LAST_ERR_OFFSET : Fld := ⟨0, 39⟩
abbrev STK_LAST_ERR_KIND : Fld := ⟨40, 2⟩
abbrev STK_LAST_ERR_BY_SCRUB : Fld := ⟨42, 1⟩
abbrev STK_LAST_ERR_SYMBOLS : Fld := ⟨43, 3⟩
abbrev STK_REPAIR_PC : Fld := ⟨0, 6⟩
abbrev STK_REPAIR_PIN : Fld := ⟨8, 6⟩
abbrev STK_REPAIR_GO : Fld := ⟨16, 1⟩
abbrev STK_REPAIR_STAT_RESULT : Fld := ⟨0, 2⟩
abbrev STK_REPAIR_STAT_REASON : Fld := ⟨2, 2⟩
abbrev STK_REPAIR_STAT_PC : Fld := ⟨4, 6⟩
abbrev STK_REPAIR_STAT_PIN : Fld := ⟨10, 6⟩
abbrev STK_PC_ERASE_PIN : Fld := ⟨0, 6⟩
abbrev STK_PC_ERASE_ERASED : Fld := ⟨6, 1⟩
abbrev STK_PC_ERASE_SPARED : Fld := ⟨7, 1⟩
abbrev STK_PC_ERASE_SPARE_PIN : Fld := ⟨8, 6⟩
abbrev STK_PC_CE_CNT_COUNT : Fld := ⟨0, 32⟩
abbrev RIND_STATUS_KEYS : Fld := ⟨0, 32⟩
abbrev RIND_STATUS_KAT_FAIL : Fld := ⟨32, 1⟩
abbrev RIND_ENC_CNT_COUNT : Fld := ⟨0, 48⟩
abbrev RIND_DEC_CNT_COUNT : Fld := ⟨0, 48⟩
abbrev TCP_BACKFILL_QUEUE : Fld := ⟨0, 9⟩
abbrev TCP_BACKFILL_EN : Fld := ⟨9, 1⟩
abbrev TCP_BACKFILL_BF_OK : Fld := ⟨10, 1⟩
abbrev MTX_STATUS_BUSY : Fld := ⟨0, 1⟩
abbrev MTX_STATUS_BF_BUSY : Fld := ⟨1, 1⟩
abbrev MTX_STATUS_A_FMT : Fld := ⟨2, 4⟩
abbrev MTX_STATUS_W_FMT : Fld := ⟨6, 4⟩
abbrev MTX_STATUS_SPARSE : Fld := ⟨10, 2⟩
abbrev MTX_ACTIVE_CNT_COUNT : Fld := ⟨0, 48⟩
abbrev MTX_SKIP_CNT_COUNT : Fld := ⟨0, 48⟩
abbrev MTX_BF_CNT_COUNT : Fld := ⟨0, 48⟩
abbrev MTX_WLOAD_CNT_COUNT : Fld := ⟨0, 48⟩
abbrev MTX_SAT_CNT_COUNT : Fld := ⟨0, 32⟩
abbrev MTX_NAN_CNT_COUNT : Fld := ⟨0, 32⟩
abbrev XPD_STATUS_BUSY : Fld := ⟨0, 1⟩
abbrev XPD_STATUS_BF_BUSY : Fld := ⟨1, 1⟩
abbrev XPD_STATUS_RATIO : Fld := ⟨2, 2⟩
abbrev XPD_STATUS_RANK : Fld := ⟨4, 5⟩
abbrev XPD_STATUS_W_FMT : Fld := ⟨9, 4⟩
abbrev XPD_STATUS_BUFFERED : Fld := ⟨16, 5⟩
abbrev XPD_STRIP_CNT_COUNT : Fld := ⟨0, 48⟩
abbrev XPD_STALL_CNT_COUNT : Fld := ⟨0, 48⟩
abbrev XPD_SAT_CNT_COUNT : Fld := ⟨0, 32⟩
abbrev XPD_NAN_CNT_COUNT : Fld := ⟨0, 32⟩
abbrev XPD_SEALED_CNT_COUNT : Fld := ⟨0, 32⟩
abbrev STR_STATUS_OUTSTANDING : Fld := ⟨0, 7⟩
abbrev STR_STATUS_FETCHING : Fld := ⟨7, 1⟩
abbrev STR_JOB_CFG_STATE : Fld := ⟨0, 2⟩
abbrev STR_JOB_CFG_QUEUE : Fld := ⟨8, 9⟩
abbrev STR_JOB_CFG_DOMAIN : Fld := ⟨24, 5⟩
abbrev STR_JOB_CFG_SLOTS : Fld := ⟨32, 9⟩
abbrev STR_JOB_STAGE_BYTES : Fld := ⟨0, 23⟩
abbrev STR_JOB_NEAR_BYTES : Fld := ⟨0, 39⟩
abbrev STR_JOB_FAR_BYTES : Fld := ⟨0, 43⟩
abbrev STR_WIN_OPEN : Fld := ⟨0, 1⟩
abbrev STR_WIN_W : Fld := ⟨1, 4⟩
abbrev STR_WIN_LAYERS : Fld := ⟨8, 9⟩
abbrev STR_WIN_CURRENT : Fld := ⟨24, 8⟩
abbrev STR_WIN_FETCH_LAYER : Fld := ⟨32, 8⟩
abbrev STR_WIN_RESIDENT : Fld := ⟨40, 4⟩
abbrev STR_WIN_NEED_BYTES : Fld := ⟨0, 23⟩
abbrev STR_FILL_CNT_COUNT : Fld := ⟨0, 48⟩
abbrev STR_ADV_WAIT_CNT_COUNT : Fld := ⟨0, 48⟩
abbrev STR_FILL_FAIL_CNT_COUNT : Fld := ⟨0, 32⟩
abbrev STR_RELEASE_CNT_COUNT : Fld := ⟨0, 32⟩
abbrev STG_CFG_FLOOR : Fld := ⟨0, 4⟩
abbrev STG_RSV_RESERVED : Fld := ⟨0, 23⟩
abbrev STG_RSV_JOBS : Fld := ⟨32, 7⟩
abbrev STG_NORSV_CNT_COUNT : Fld := ⟨0, 32⟩
abbrev STG_RET_LINES_LINES : Fld := ⟨0, 17⟩
abbrev STG_OBS_DROP_CNT_COUNT : Fld := ⟨0, 48⟩
abbrev TSR_STATUS_BUSY : Fld := ⟨0, 1⟩
abbrev TSR_STATUS_QUERIES : Fld := ⟨8, 6⟩
abbrev TSR_CMP_CNT_COUNT : Fld := ⟨0, 48⟩
abbrev TSR_BIT_CNT_COUNT : Fld := ⟨0, 48⟩
abbrev TTC_HIT_CNT_COUNT : Fld := ⟨0, 48⟩
abbrev TTC_MISS_CNT_COUNT : Fld := ⟨0, 48⟩
abbrev TTC_CELL_MISS_CNT_COUNT : Fld := ⟨0, 48⟩
abbrev TTC_PF_CNT_COUNT : Fld := ⟨0, 48⟩
abbrev TTC_STALL_CNT_COUNT : Fld := ⟨0, 48⟩
abbrev CRD_CFG_GRACE : Fld := ⟨0, 24⟩
abbrev CRD_RPL_STATUS_ROWS : Fld := ⟨0, 13⟩
abbrev CRD_RPL_STATUS_QUEUED : Fld := ⟨16, 15⟩
abbrev CRD_RPL_STATUS_MIGRATING : Fld := ⟨32, 13⟩
abbrev CRD_RPL_CNT_COUNT : Fld := ⟨0, 48⟩
abbrev CRD_SUPERSEDE_CNT_COUNT : Fld := ⟨0, 32⟩
abbrev CRD_MIG_CNT_COUNT : Fld := ⟨0, 32⟩
abbrev CRD_RPL_RETRY_CNT_COUNT : Fld := ⟨0, 32⟩
abbrev CRD_STATUS_BUSY : Fld := ⟨0, 1⟩
abbrev CRD_STATUS_PF_BUSY : Fld := ⟨1, 1⟩
abbrev CRD_STATUS_OUTSTANDING : Fld := ⟨8, 10⟩
abbrev CRD_STATUS_COAL_USED : Fld := ⟨32, 13⟩
abbrev CRD_ROW_FETCH_CNT_COUNT : Fld := ⟨0, 48⟩
abbrev CRD_COAL_HIT_CNT_COUNT : Fld := ⟨0, 48⟩
abbrev CRD_WINDOW_CNT_COUNT : Fld := ⟨0, 32⟩
abbrev CRD_REFETCH_CNT_COUNT : Fld := ⟨0, 32⟩
abbrev CRD_EMPTY_CNT_COUNT : Fld := ⟨0, 32⟩
abbrev CRD_PF_ROW_CNT_COUNT : Fld := ⟨0, 32⟩
abbrev CRD_DROP_CNT_COUNT : Fld := ⟨0, 32⟩
abbrev SRH_STATUS_INDICES : Fld := ⟨0, 9⟩
abbrev SRH_STATUS_SEARCHES : Fld := ⟨16, 9⟩
abbrev SRH_STATUS_SIDE_BUSY : Fld := ⟨32, 9⟩
abbrev SRH_STATUS_MERGING : Fld := ⟨48, 9⟩
abbrev SRH_SEARCH_CNT_COUNT : Fld := ⟨0, 48⟩
abbrev SRH_VISIT_CNT_COUNT : Fld := ⟨0, 48⟩
abbrev SRH_LIMIT_CNT_COUNT : Fld := ⟨0, 32⟩
abbrev SRH_SIDE_CNT_COUNT : Fld := ⟨0, 48⟩
abbrev SRH_MERGE_CNT_COUNT : Fld := ⟨0, 32⟩
abbrev SRH_MISS_PART_CNT_COUNT : Fld := ⟨0, 32⟩
abbrev RTE_STATUS_BUSY : Fld := ⟨0, 1⟩
abbrev RTE_STATUS_SLOTS_BOUND : Fld := ⟨16, 9⟩
abbrev RTE_PAIR_CNT_COUNT : Fld := ⟨0, 48⟩
abbrev RTE_OVERFLOW_CNT_COUNT : Fld := ⟨0, 32⟩
abbrev RTE_NAN_CNT_COUNT : Fld := ⟨0, 32⟩
abbrev RTE_EXIT_CNT_COUNT : Fld := ⟨0, 32⟩
abbrev RTE_SKIP_CNT_COUNT : Fld := ⟨0, 32⟩
abbrev RTE_SLOT_CFG_STATE : Fld := ⟨0, 1⟩
abbrev RTE_SLOT_CFG_DOMAIN : Fld := ⟨4, 5⟩
abbrev RTE_SLOT_CFG_CONTEXT : Fld := ⟨16, 8⟩
abbrev RTE_SLOT_STATE_STATE_VA : Fld := ⟨0, 64⟩
abbrev RTE_SLOT_MASK_MASK : Fld := ⟨0, 64⟩
abbrev GES_CFG_RATE : Fld := ⟨0, 14⟩
abbrev GES_STATUS_BUSY : Fld := ⟨0, 1⟩
abbrev GES_STATUS_EXTENT : Fld := ⟨8, 9⟩
abbrev GES_STATUS_LINE : Fld := ⟨32, 25⟩
abbrev GES_EXT_CNT_COUNT : Fld := ⟨0, 32⟩
abbrev GES_ABORT_CNT_COUNT : Fld := ⟨0, 32⟩

end F

/-- The registers of block TOP. -/
def regsTOP : List RegDef := [
  ⟨0x0, 1, 0x0, 1, 0x0, 0, false, 0x0, 0x0, 0x0, 0xffffffff00ffffff, 0x4f430c900008400b⟩,
  ⟨0x8, 1, 0x0, 1, 0x0, 0, true, 0x707, 0x0, 0x0, 0xf07, 0x0⟩,
  ⟨0x10, 1, 0x0, 1, 0x0, 0, true, 0x3fff, 0x0, 0x0, 0x3fff3fff, 0x0⟩,
  ⟨0x18, 1, 0x0, 1, 0x0, 0, true, 0xffff001f1f0f, 0x0, 0x0, 0xffff001f1f0f, 0x0⟩,
  ⟨0x20, 1, 0x0, 1, 0x0, 0, true, 0xffffffffffffffff, 0x0, 0x0, 0xffffffffffffffff, 0x0⟩,
  ⟨0x28, 1, 0x0, 1, 0x0, 0, false, 0x0, 0x0, 0x0, 0xff, 0x0⟩,
  ⟨0x30, 1, 0x0, 1, 0x0, 0, false, 0xffffffff, 0x0, 0x0, 0xffffffff, 0x2710⟩,
  ⟨0x38, 1, 0x0, 1, 0x0, 0, false, 0x0, 0xffffffff, 0x0, 0xffffffff, 0x0⟩,
  ⟨0x100, 1, 0x0, 1, 0x0, 0, false, 0x0, 0x10000, 0x0, 0xffffffffff01ffff, 0x0⟩,
  ⟨0x200, 1, 0x0, 1, 0x0, 0, false, 0xffffff00ffffff, 0x0, 0x0, 0xffffff00ffffff, 0x4c4b400007a120⟩,
  ⟨0x208, 1, 0x0, 1, 0x0, 0, false, 0x0, 0x0, 0x3, 0x0, 0x0⟩,
  ⟨0x210, 1, 0x0, 1, 0x0, 0, false, 0x0, 0xffffffffffffffff, 0x0, 0xffffffffffffffff, 0x0⟩,
  ⟨0x218, 1, 0x0, 1, 0x0, 0, false, 0x0, 0x0, 0x0, 0xffffffffffff, 0x0⟩,
  ⟨0x220, 1, 0x0, 1, 0x0, 0, false, 0xffffff00ffffff, 0x0, 0x0, 0xffffff00ffffff, 0x4c4b40001312d0⟩,
  ⟨0x228, 1, 0x0, 1, 0x0, 0, false, 0x0, 0x0, 0x0, 0xffffffff, 0x0⟩,
  ⟨0x230, 1, 0x0, 1, 0x0, 0, false, 0xffffffff0fffffff, 0x0, 0x0, 0xffffffff0fffffff, 0x2faf0800307a120⟩,
  ⟨0x238, 1, 0x0, 1, 0x0, 0, false, 0x0, 0x0, 0x0, 0xffffffff000000ff, 0xe0⟩,
  ⟨0x240, 1, 0x0, 1, 0x0, 0, false, 0x0, 0x0, 0x0, 0x1fffff3fff0003, 0x0⟩,
  ⟨0x248, 1, 0x0, 1, 0x0, 0, false, 0x0, 0xffffffff, 0x0, 0xffffffff, 0x0⟩,
  ⟨0x300, 5, 0x8, 1, 0x0, 0, false, 0x0, 0x0, 0x0, 0x7f7fff, 0x0⟩,
  ⟨0x1000, 256, 0x8, 1, 0x0, 0, false, 0x0, 0x0, 0x0, 0xffffffffffffffff, 0x0⟩,
  ⟨0x1800, 256, 0x8, 1, 0x0, 0, false, 0x0, 0x0, 0x0, 0xffffffffffffffff, 0x0⟩]

/-- The registers of block PWR. -/
def regsPWR : List RegDef := [
  ⟨0x10000, 1, 0x0, 1, 0x0, 0, false, 0x0, 0x0, 0x0, 0x377, 0x0⟩,
  ⟨0x10008, 1, 0x0, 1, 0x0, 0, false, 0x1ffff, 0x0, 0x0, 0x1ffff, 0x101f4⟩,
  ⟨0x10010, 1, 0x0, 1, 0x0, 0, false, 0x0, 0x0, 0x1, 0x0, 0x0⟩,
  ⟨0x10018, 1, 0x0, 1, 0x0, 0, false, 0x0, 0x0, 0x0, 0xffffffffffffffff, 0xffffffffffffffff⟩,
  ⟨0x10020, 1, 0x0, 1, 0x0, 0, false, 0xff, 0x0, 0x0, 0xff, 0x64⟩,
  ⟨0x10028, 1, 0x0, 1, 0x0, 0, false, 0x0, 0x0, 0x0, 0x1fff, 0x0⟩,
  ⟨0x10030, 1, 0x0, 1, 0x0, 0, false, 0x0, 0x700, 0x0, 0x777, 0x0⟩,
  ⟨0x10038, 1, 0x0, 1, 0x0, 0, false, 0x0, 0x0, 0x70, 0x0, 0x0⟩,
  ⟨0x10040, 1, 0x0, 1, 0x0, 0, false, 0x0, 0xffffffffffff, 0x0, 0xffffffffffff, 0x0⟩,
  ⟨0x10048, 1, 0x0, 1, 0x0, 0, false, 0x0, 0xffffffffffff, 0x0, 0xffffffffffff, 0x0⟩,
  ⟨0x10060, 1, 0x0, 1, 0x0, 0, false, 0x0, 0xffffffffffffffff, 0x0, 0xffffffffffffffff, 0x0⟩,
  ⟨0x10200, 1, 0x0, 1, 0x0, 0, false, 0x0, 0x0, 0x0, 0xfff03ff03ff, 0x0⟩,
  ⟨0x10208, 1, 0x0, 1, 0x0, 0, false, 0x0, 0xffffffff, 0x0, 0xffffffff, 0x0⟩,
  ⟨0x10210, 1, 0x0, 1, 0x0, 0, false, 0x0, 0xffff00000000, 0x0, 0xffff00007fff, 0x5800⟩,
  ⟨0x10050, 2, 0x8, 1, 0x0, 0, false, 0x0, 0xffffffffffffffff, 0x0, 0xffffffffffffffff, 0x0⟩,
  ⟨0x10100, 18, 0x8, 1, 0x0, 0, false, 0x0, 0x0, 0x0, 0xff, 0x0⟩]

/-- The registers of block CLK. -/
def regsCLK : List RegDef := [
  ⟨0x20000, 1, 0x0, 1, 0x0, 0, false, 0x0, 0x0, 0x0, 0x3ff00ff, 0x2ee0000⟩,
  ⟨0x20008, 1, 0x0, 1, 0x0, 0, true, 0x7f03, 0x0, 0x0, 0x7f03, 0x0⟩,
  ⟨0x20010, 1, 0x0, 1, 0x0, 0, false, 0x0, 0x0, 0x0, 0xffffffffffffffff, 0x0⟩,
  ⟨0x20038, 1, 0x0, 1, 0x0, 0, false, 0x0, 0xffffffff, 0x0, 0xffffffff, 0x0⟩,
  ⟨0x20018, 4, 0x8, 1, 0x0, 0, false, 0x0, 0x0, 0x0, 0xffff03ff, 0x0⟩]

/-- The registers of block BOOT. -/
def regsBOOT : List RegDef := [
  ⟨0x30000, 1, 0x0, 1, 0x0, 0, false, 0x0, 0x0, 0x0, 0xfff3f, 0x0⟩,
  ⟨0x30008, 1, 0x0, 1, 0x0, 0, false, 0x1ffffffffffff, 0x0, 0x0, 0x1ffffffffffff, 0x271005f5e100⟩,
  ⟨0x30010, 1, 0x0, 1, 0x0, 0, false, 0x0, 0x0, 0x7, 0x0, 0x0⟩,
  ⟨0x30018, 1, 0x0, 1, 0x0, 0, false, 0x0, 0x0, 0x0, 0xff03, 0x0⟩,
  ⟨0x300b0, 1, 0x0, 1, 0x0, 0, false, 0x0, 0x0, 0x0, 0xffffffffffffffff, 0x0⟩,
  ⟨0x300b8, 1, 0x0, 1, 0x0, 0, false, 0x0, 0x0, 0x0, 0xffffffffffffffff, 0x0⟩,
  ⟨0x300c0, 1, 0x0, 1, 0x0, 0, false, 0x0, 0x0, 0x0, 0xffffff00000fff, 0x0⟩,
  ⟨0x300c8, 1, 0x0, 1, 0x0, 0, false, 0x0, 0x0, 0xffffffffffffffff, 0x0, 0x0⟩,
  ⟨0x300d0, 1, 0x0, 1, 0x0, 0, false, 0x0, 0x0, 0x3, 0x0, 0x0⟩,
  ⟨0x300e0, 1, 0x0, 1, 0x0, 0, false, 0x0, 0x0, 0x0, 0x1f01ff, 0x0⟩,
  ⟨0x300e8, 1, 0x0, 1, 0x0, 0, false, 0x0, 0xffffffff, 0x0, 0xffffffff, 0x0⟩,
  ⟨0x30140, 1, 0x0, 1, 0x0, 0, false, 0x0, 0x0, 0x1, 0x0, 0x0⟩,
  ⟨0x30148, 1, 0x0, 1, 0x0, 0, false, 0x0, 0x0, 0x0, 0x3, 0x0⟩,
  ⟨0x30020, 6, 0x8, 1, 0x0, 0, false, 0x0, 0x0, 0x0, 0xffffffffffffffff, 0x0⟩,
  ⟨0x30050, 6, 0x8, 1, 0x0, 0, false, 0x0, 0x0, 0x0, 0xffffffffffffffff, 0x0⟩,
  ⟨0x30080, 6, 0x8, 1, 0x0, 0, false, 0x0, 0x0, 0x0, 0xffffffffffffffff, 0x0⟩,
  ⟨0x30100, 8, 0x8, 1, 0x0, 0, false, 0xffffffffffffffff, 0x0, 0x0, 0xffffffffffffffff, 0x0⟩,
  ⟨0x30180, 4, 0x8, 1, 0x0, 0, false, 0x0, 0x0, 0x0, 0xffffffffffffffff, 0x0⟩]

/-- The registers of block EVQ. -/
def regsEVQ : List RegDef := [
  ⟨0x40000, 3, 0x1000, 1, 0x0, 0, false, 0x0, 0x0, 0x0, 0xffffffffffffffff, 0x0⟩,
  ⟨0x40010, 3, 0x1000, 1, 0x0, 0, false, 0x0, 0x0, 0x0, 0x3fff, 0x0⟩,
  ⟨0x40018, 3, 0x1000, 1, 0x0, 0, false, 0x0, 0xffffffff, 0x0, 0xffffffff, 0x0⟩,
  ⟨0x40020, 3, 0x1000, 1, 0x0, 0, false, 0x0, 0xffffffff, 0x0, 0xffffffff, 0x0⟩,
  ⟨0x40028, 3, 0x1000, 1, 0x0, 0, false, 0x0, 0xffffffff, 0x0, 0xffffffff, 0x0⟩,
  ⟨0x40030, 3, 0x1000, 1, 0x0, 0, false, 0x0, 0xffffffff, 0x0, 0xffffffff, 0x0⟩,
  ⟨0x40800, 3, 0x1000, 16, 0x20, 0, false, 0x0, 0x0, 0x0, 0xffffffff, 0x0⟩,
  ⟨0x40808, 3, 0x1000, 16, 0x20, 0, false, 0x0, 0x0, 0x0, 0xffffffffffffffff, 0x0⟩,
  ⟨0x40810, 3, 0x1000, 16, 0x20, 0, false, 0x0, 0x0, 0x0, 0xffffffffffffffff, 0x0⟩,
  ⟨0x40818, 3, 0x1000, 16, 0x20, 0, false, 0x0, 0x0, 0x0, 0xffffffffffffffff, 0x0⟩,
  ⟨0x44000, 1, 0x0, 1, 0x0, 0, false, 0x0, 0x0, 0x7, 0x0, 0x0⟩,
  ⟨0x44008, 1, 0x0, 1, 0x0, 0, false, 0x0, 0x0, 0x0, 0xffffffffffffffff, 0x0⟩,
  ⟨0x44010, 1, 0x0, 1, 0x0, 0, false, 0x1ff01ffff, 0x0, 0x0, 0x1ff01ffff, 0x0⟩,
  ⟨0x44018, 1, 0x0, 1, 0x0, 0, false, 0x0, 0x0, 0xffffffffffffffff, 0x0, 0x0⟩]

/-- The registers of block CMD. -/
def regsCMD : List RegDef := [
  ⟨0x50000, 512, 0x40, 1, 0x0, 0, false, 0xff3f3f1f3f7f, 0x0, 0x0, 0xff3f3f1f3f7f, 0x0⟩,
  ⟨0x50008, 512, 0x40, 1, 0x0, 0, false, 0x7ffffff00f, 0x0, 0x0, 0x7ffffff00f, 0x6⟩,
  ⟨0x50010, 512, 0x40, 1, 0x0, 0, false, 0x7ffffff00f, 0x0, 0x0, 0x7ffffff00f, 0x6⟩,
  ⟨0x50018, 512, 0x40, 1, 0x0, 0, false, 0x0, 0x0, 0xffff, 0x0, 0x0⟩,
  ⟨0x50020, 512, 0x40, 1, 0x0, 0, false, 0x0, 0x0, 0xffff, 0x0, 0x0⟩,
  ⟨0x50028, 512, 0x40, 1, 0x0, 0, false, 0x0, 0x0, 0x0, 0xffffffffffffffff, 0x0⟩,
  ⟨0x50030, 512, 0x40, 1, 0x0, 0, false, 0x0, 0x0, 0x100, 0x2f3, 0x0⟩,
  ⟨0x50038, 512, 0x40, 1, 0x0, 0, false, 0xffffffffffff, 0x0, 0x0, 0xffffffffffff, 0x0⟩,
  ⟨0x58000, 1, 0x0, 1, 0x0, 0, false, 0x0, 0x0, 0x0, 0xffffffff03ff1ff7, 0x0⟩,
  ⟨0x58008, 1, 0x0, 1, 0x0, 0, false, 0x0, 0x0, 0x0, 0xffffffff, 0x0⟩,
  ⟨0x58010, 1, 0x0, 1, 0x0, 0, false, 0x0, 0x0, 0x0, 0xffffffffffffffff, 0x0⟩,
  ⟨0x58018, 1, 0x0, 1, 0x0, 0, false, 0x0, 0x0, 0x0, 0xffffffff, 0x0⟩,
  ⟨0x58020, 1, 0x0, 1, 0x0, 0, false, 0x0, 0xffffffff, 0x0, 0xffffffff, 0x0⟩,
  ⟨0x58028, 1, 0x0, 1, 0x0, 0, false, 0x0, 0xffffffff, 0x0, 0xffffffff, 0x0⟩]

/-- The registers of block DOM. -/
def regsDOM : List RegDef := [
  ⟨0x60000, 32, 0x40, 1, 0x0, 0, false, 0x0, 0x0, 0x0, 0xffff00ffff7f, 0x1⟩,
  ⟨0x60008, 32, 0x40, 4, 0x8, 0, false, 0x0, 0x0, 0x0, 0xffffffffffffffff, 0x0⟩,
  ⟨0x60028, 32, 0x40, 1, 0x0, 0, false, 0xffffffff, 0x0, 0x0, 0xffffffffffffffff, 0x0⟩,
  ⟨0x60030, 32, 0x40, 1, 0x0, 0, false, 0x0, 0x0, 0x0, 0x7ffff007f01ff, 0x6000000000000⟩,
  ⟨0x60038, 32, 0x40, 1, 0x0, 0, false, 0x0, 0xffffffff, 0x0, 0xffffffff, 0x0⟩,
  ⟨0x61000, 384, 0x8, 1, 0x0, 0, false, 0x0, 0x0, 0x0, 0x311f, 0x0⟩,
  ⟨0x62000, 1, 0x0, 1, 0x0, 0, false, 0x0, 0x0, 0x0, 0x1ff3f3f, 0x1⟩]

/-- The registers of block STN. -/
def regsSTN : List RegDef := [
  ⟨0x70000, 1, 0x0, 1, 0x0, 0, false, 0xfffff01ffffff, 0x0, 0x0, 0xfffff01ffffff, 0x13880100c350⟩,
  ⟨0x70008, 1, 0x0, 1, 0x0, 0, false, 0x0, 0x0, 0x0, 0x1ff01ff, 0x0⟩,
  ⟨0x70010, 1, 0x0, 1, 0x0, 0, false, 0x0, 0xffffffff, 0x0, 0xffffffff, 0x0⟩,
  ⟨0x70018, 1, 0x0, 1, 0x0, 0, false, 0x0, 0xffffffff, 0x0, 0xffffffff, 0x0⟩,
  ⟨0x70020, 1, 0x0, 1, 0x0, 0, false, 0x0, 0xffffffff, 0x0, 0xffffffff, 0x0⟩,
  ⟨0x70028, 1, 0x0, 1, 0x0, 0, false, 0x0, 0xffffffff, 0x0, 0xffffffff, 0x0⟩,
  ⟨0x70030, 1, 0x0, 1, 0x0, 0, false, 0x0, 0xffffffff, 0x0, 0xffffffff, 0x0⟩,
  ⟨0x71000, 256, 0x10, 1, 0x0, 0, false, 0x0, 0x0, 0x0, 0xffff00ff31f1, 0x0⟩,
  ⟨0x71008, 256, 0x10, 1, 0x0, 0, false, 0x0, 0x0, 0x0, 0xffffffffffffffff, 0x0⟩,
  ⟨0x72000, 2048, 0x8, 1, 0x0, 0, false, 0x0, 0x0, 0x0, 0x1fffffffffffffff, 0x0⟩,
  ⟨0x78000, 256, 0x80, 8, 0x10, 0, false, 0x0, 0x0, 0x0, 0xffffffe0003f, 0x0⟩,
  ⟨0x78008, 256, 0x80, 8, 0x10, 0, false, 0x0, 0x0, 0x0, 0xffffffffffe3ffff, 0x0⟩]

/-- The registers of block HOM. -/
def regsHOM : List RegDef := [
  ⟨0x80000, 1, 0x0, 1, 0x0, 0, false, 0xffffffff, 0x0, 0x0, 0xffffffff, 0x9c403e8⟩,
  ⟨0x80008, 1, 0x0, 1, 0x0, 0, false, 0x0, 0x0, 0x0, 0xf, 0x0⟩,
  ⟨0x81000, 8, 0x100, 1, 0x0, 4, false, 0x0, 0x0, 0x0, 0x7ffff3fff03ff, 0x0⟩,
  ⟨0x81008, 8, 0x100, 1, 0x0, 4, false, 0x0, 0x0, 0x0, 0xffffffff, 0x0⟩,
  ⟨0x81010, 8, 0x100, 1, 0x0, 4, false, 0x0, 0xffffffff, 0x0, 0xffffffff, 0x0⟩,
  ⟨0x81018, 8, 0x100, 1, 0x0, 4, false, 0x0, 0xffffffff, 0x0, 0xffffffff, 0x0⟩,
  ⟨0x81020, 8, 0x100, 1, 0x0, 4, false, 0x0, 0xffffffff, 0x0, 0xffffffff, 0x0⟩,
  ⟨0x81028, 8, 0x100, 1, 0x0, 4, false, 0x0, 0xffffffff, 0x0, 0xffffffff, 0x0⟩,
  ⟨0x81030, 8, 0x100, 1, 0x0, 4, false, 0x0, 0xffffffff, 0x0, 0xffffffff, 0x0⟩,
  ⟨0x81038, 8, 0x100, 1, 0x0, 4, false, 0x0, 0x0, 0x0, 0x7ffff7ffff, 0x0⟩,
  ⟨0x82000, 1, 0x0, 1, 0x0, 0, false, 0x3ffff, 0x0, 0x0, 0x3ffff, 0x0⟩,
  ⟨0x82008, 1, 0x0, 1, 0x0, 0, false, 0x0, 0x0, 0x0, 0xffffffffffff, 0x0⟩,
  ⟨0x82010, 1, 0x0, 1, 0x0, 0, false, 0x0, 0x0, 0x0, 0x1fff3ffff, 0x0⟩,
  ⟨0x82018, 1, 0x0, 1, 0x0, 0, false, 0x0, 0xffffffff, 0x0, 0xffffffff, 0x0⟩,
  ⟨0x82020, 1, 0x0, 1, 0x0, 0, false, 0x0, 0xffffffff, 0x0, 0xffffffff, 0x0⟩,
  ⟨0x84000, 64, 0x20, 1, 0x0, 0, true, 0x1ffffffff3f3f, 0x0, 0x0, 0x1ffffffff3f3f, 0x0⟩,
  ⟨0x84008, 64, 0x20, 1, 0x0, 0, false, 0x0, 0x0, 0x0, 0xffffffff, 0x0⟩,
  ⟨0x84010, 64, 0x20, 1, 0x0, 0, false, 0x0, 0x0, 0x0, 0xc003ffff0003ffff, 0x0⟩]

/-- The registers of block LSE. -/
def regsLSE : List RegDef := [
  ⟨0x90000, 1, 0x0, 1, 0x0, 0, true, 0x1, 0x0, 0x0, 0x1, 0x1⟩,
  ⟨0x90008, 1, 0x0, 1, 0x0, 0, false, 0xffff, 0x0, 0x0, 0xffff, 0x7d0⟩,
  ⟨0x90010, 1, 0x0, 1, 0x0, 0, false, 0x0, 0x0, 0x0, 0xffff01ff01ff01ff, 0x1000000000000⟩,
  ⟨0x90018, 1, 0x0, 1, 0x0, 0, false, 0x0, 0xffffffff, 0x0, 0xffffffff, 0x0⟩,
  ⟨0x90020, 1, 0x0, 1, 0x0, 0, false, 0x0, 0xffffffff, 0x0, 0xffffffff, 0x0⟩,
  ⟨0x90028, 1, 0x0, 1, 0x0, 0, false, 0x0, 0xffffffff, 0x0, 0xffffffff, 0x0⟩,
  ⟨0x91000, 384, 0x8, 1, 0x0, 0, false, 0x0, 0x0, 0x0, 0xffffffff000f, 0x0⟩,
  ⟨0x92000, 384, 0x8, 1, 0x0, 0, false, 0x0, 0x0, 0x0, 0xffffffffffff, 0x0⟩]

/-- The registers of block TLK. -/
def regsTLK : List RegDef := [
  ⟨0xa0000, 4, 0x4000, 1, 0x0, 2, false, 0xffffff0007, 0x0, 0x0, 0xffffff0007, 0xc3500005⟩,
  ⟨0xa0008, 4, 0x4000, 1, 0x0, 2, false, 0x0, 0x0, 0x0, 0xffff3f, 0x0⟩,
  ⟨0xa0010, 4, 0x4000, 1, 0x0, 2, false, 0xffffffffffff, 0x0, 0x0, 0xffffffffffff, 0x400000⟩,
  ⟨0xa0018, 4, 0x4000, 1, 0x0, 2, false, 0xffffffffff, 0x0, 0x0, 0xffffffffff, 0x2faf08010⟩,
  ⟨0xa0020, 4, 0x4000, 1, 0x0, 2, false, 0x0, 0x0, 0x7, 0x0, 0x0⟩,
  ⟨0xa0028, 4, 0x4000, 1, 0x0, 2, false, 0x0, 0x0, 0x0, 0xffffffffffffffff, 0x0⟩,
  ⟨0xa0030, 4, 0x4000, 1, 0x0, 2, false, 0x0, 0xffffffff, 0x0, 0xffffffff, 0x0⟩,
  ⟨0xa0038, 4, 0x4000, 1, 0x0, 2, false, 0x0, 0xffffffff, 0x0, 0xffffffff, 0x0⟩,
  ⟨0xa0040, 4, 0x4000, 1, 0x0, 2, false, 0x0, 0xffffffff, 0x0, 0xffffffff, 0x0⟩,
  ⟨0xa0048, 4, 0x4000, 1, 0x0, 2, false, 0x0, 0xffffffff, 0x0, 0xffffffff, 0x0⟩,
  ⟨0xa0050, 4, 0x4000, 1, 0x0, 2, false, 0x0, 0xffffffff, 0x0, 0xffffffff, 0x0⟩,
  ⟨0xa0058, 4, 0x4000, 1, 0x0, 2, false, 0x0, 0xffffffff, 0x0, 0xffffffff, 0x0⟩,
  ⟨0xa0060, 4, 0x4000, 1, 0x0, 2, false, 0x0, 0xffffffff, 0x0, 0xffffffff, 0x0⟩,
  ⟨0xa0068, 4, 0x4000, 1, 0x0, 2, false, 0x0, 0xffffffff, 0x0, 0xffffffff, 0x0⟩,
  ⟨0xa0100, 4, 0x4000, 6, 0x8, 2, false, 0x0, 0x0, 0x0, 0xffffffffffffffff, 0x0⟩,
  ⟨0xa0200, 4, 0x4000, 1, 0x0, 2, false, 0x0, 0x0, 0x0, 0x1ff, 0x0⟩]

/-- The registers of block DRS. -/
def regsDRS : List RegDef := [
  ⟨0xb0000, 12, 0x1000, 1, 0x0, 6, false, 0x3, 0x0, 0x0, 0x3, 0x3⟩,
  ⟨0xb0008, 12, 0x1000, 1, 0x0, 6, false, 0x0, 0x0, 0x0, 0x3fffffff3f, 0x0⟩,
  ⟨0xb0010, 12, 0x1000, 1, 0x0, 6, false, 0xffffffffff, 0x0, 0x0, 0xffffffffff, 0x2faf08010⟩,
  ⟨0xb0018, 12, 0x1000, 1, 0x0, 6, false, 0x0, 0x0, 0x3, 0x0, 0x0⟩,
  ⟨0xb0020, 12, 0x1000, 1, 0x0, 6, false, 0x0, 0x0, 0x0, 0xffffffff3fffffff, 0x0⟩,
  ⟨0xb0028, 12, 0x1000, 1, 0x0, 6, false, 0x0, 0xffffffff, 0x0, 0xffffffff, 0x0⟩,
  ⟨0xb0030, 12, 0x1000, 1, 0x0, 6, false, 0x0, 0xffffffff, 0x0, 0xffffffff, 0x0⟩,
  ⟨0xb0038, 12, 0x1000, 1, 0x0, 6, false, 0x0, 0xffffffff, 0x0, 0xffffffff, 0x0⟩,
  ⟨0xb0040, 12, 0x1000, 1, 0x0, 6, false, 0x0, 0xffffffff, 0x0, 0xffffffff, 0x0⟩,
  ⟨0xb0048, 12, 0x1000, 1, 0x0, 6, false, 0x0, 0xffffffff, 0x0, 0xffffffff, 0x0⟩,
  ⟨0xb0050, 12, 0x1000, 1, 0x0, 6, false, 0x0, 0xffffffff, 0x0, 0xffffffff, 0x0⟩,
  ⟨0xb0058, 12, 0x1000, 1, 0x0, 6, false, 0x0, 0xffffffff, 0x0, 0xffffffff, 0x0⟩,
  ⟨0xb0100, 12, 0x1000, 1, 0x0, 6, false, 0x0, 0x0, 0x0, 0x1ff, 0x0⟩]

/-- The registers of block GWY. -/
def regsGWY : List RegDef := [
  ⟨0xc0000, 1, 0x0, 1, 0x0, 0, false, 0xffffffffffffffff, 0x0, 0x0, 0xffffffffffffffff, 0x7a12000c3501388⟩,
  ⟨0xc0008, 1, 0x0, 1, 0x0, 0, false, 0x0, 0x0, 0x0, 0x3ffff007fff7f, 0x0⟩,
  ⟨0xc0010, 1, 0x0, 1, 0x0, 0, false, 0x0, 0x0, 0x0, 0xff, 0x0⟩,
  ⟨0xc0018, 1, 0x0, 1, 0x0, 0, false, 0x0, 0xffffffff, 0x0, 0xffffffff, 0x0⟩,
  ⟨0xc0020, 1, 0x0, 1, 0x0, 0, false, 0x0, 0xffffffff, 0x0, 0xffffffff, 0x0⟩,
  ⟨0xc0028, 1, 0x0, 1, 0x0, 0, false, 0x0, 0xffffffff, 0x0, 0xffffffff, 0x0⟩,
  ⟨0xc0030, 1, 0x0, 1, 0x0, 0, false, 0x0, 0xffffffff, 0x0, 0xffffffff, 0x0⟩,
  ⟨0xc0038, 1, 0x0, 1, 0x0, 0, false, 0x0, 0xffffffff, 0x0, 0xffffffff, 0x0⟩,
  ⟨0xc0040, 1, 0x0, 1, 0x0, 0, false, 0x0, 0xffffffff, 0x0, 0xffffffff, 0x0⟩,
  ⟨0xc0100, 64, 0x8, 1, 0x0, 0, false, 0x0, 0x0, 0x0, 0xffffffff0003ffff, 0x0⟩,
  ⟨0xc1000, 1, 0x0, 1, 0x0, 0, true, 0xffffffff0f1f, 0x0, 0x0, 0xffffffff0f1f, 0x3200000800⟩,
  ⟨0xc1008, 1, 0x0, 1, 0x0, 0, false, 0x0, 0x0, 0x0, 0x1ffffffff0001, 0x0⟩,
  ⟨0xc1010, 1, 0x0, 1, 0x0, 0, false, 0x0, 0xffffffffffff, 0x0, 0xffffffffffff, 0x0⟩,
  ⟨0xc1018, 1, 0x0, 1, 0x0, 0, false, 0x0, 0xffffffffffff, 0x0, 0xffffffffffff, 0x0⟩,
  ⟨0xc1100, 64, 0x8, 1, 0x0, 0, false, 0x3fffffff0001, 0x0, 0x0, 0x3fffffff0001, 0x0⟩,
  ⟨0xc2060, 61, 0x20, 1, 0x0, 0, true, 0x3f3f3f, 0x0, 0x0, 0x3f3f3f, 0x0⟩,
  ⟨0xc2068, 61, 0x20, 1, 0x0, 0, true, 0x3ffff0003ffff, 0x0, 0x0, 0x3ffff0003ffff, 0x0⟩,
  ⟨0xc2070, 61, 0x20, 1, 0x0, 0, true, 0x1ffffffff, 0x0, 0x0, 0x1ffffffff, 0x0⟩]

/-- The registers of block TRF. -/
def regsTRF : List RegDef := [
  ⟨0xd0000, 1, 0x0, 1, 0x0, 0, false, 0x1f03ff, 0x0, 0x0, 0x1f03ff, 0x100032⟩,
  ⟨0xd0008, 1, 0x0, 1, 0x0, 0, false, 0xffffffffffff, 0x0, 0x0, 0xffffffffffff, 0x80010002000⟩,
  ⟨0xd0010, 1, 0x0, 1, 0x0, 0, false, 0xffffffffffff, 0x0, 0x0, 0xffffffffffff, 0x200008002000⟩,
  ⟨0xd0018, 1, 0x0, 1, 0x0, 0, false, 0xffffffffffff, 0x0, 0x0, 0xffffffffffff, 0x80020002000⟩,
  ⟨0xd0020, 1, 0x0, 1, 0x0, 0, false, 0xffffffffffffffff, 0x0, 0x0, 0xffffffffffffffff, 0x80004000000000⟩,
  ⟨0xd0028, 1, 0x0, 1, 0x0, 0, false, 0x1ffff, 0x0, 0x20000, 0x1ffff, 0x10032⟩,
  ⟨0xd0040, 1, 0x0, 1, 0x0, 0, false, 0x0, 0x0, 0x0, 0x7fff, 0x0⟩,
  ⟨0xd0030, 1, 0x0, 1, 0x0, 0, false, 0x0, 0xffffffff, 0x0, 0xffffffff, 0x0⟩,
  ⟨0xd0038, 1, 0x0, 1, 0x0, 0, false, 0x0, 0xffffffff, 0x0, 0xffffffff, 0x0⟩,
  ⟨0xd0100, 4, 0x10, 1, 0x0, 0, false, 0x0, 0xffffffff, 0x0, 0xffffffff, 0x0⟩,
  ⟨0xd0108, 4, 0x10, 1, 0x0, 0, false, 0x0, 0xffffffff, 0x0, 0xffffffff, 0x0⟩,
  ⟨0xd0200, 32, 0x8, 1, 0x0, 0, false, 0x0, 0x0, 0x0, 0xffffffffffffffff, 0x0⟩,
  ⟨0xd0300, 32, 0x8, 1, 0x0, 0, false, 0x0, 0xffffffff, 0x0, 0xffffffff, 0x0⟩,
  ⟨0xd0400, 86, 0x8, 1, 0x0, 0, false, 0x0, 0x0, 0x0, 0xffffff00ffffff, 0x0⟩,
  ⟨0xd8000, 86, 0x100, 16, 0x8, 0, false, 0x0, 0xffffffff, 0x0, 0xffffffff, 0x0⟩,
  ⟨0xd8080, 86, 0x100, 16, 0x8, 0, false, 0x0, 0xffffffff, 0x0, 0xffffffff, 0x0⟩]

/-- The registers of block STK. -/
def regsSTK : List RegDef := [
  ⟨0xe0000, 8, 0x2000, 1, 0x0, 4, false, 0xffff03, 0x0, 0x0, 0xffff03, 0x105f03⟩,
  ⟨0xe0008, 8, 0x2000, 1, 0x0, 4, false, 0x0, 0x0, 0x0, 0x7f7fff1f, 0x0⟩,
  ⟨0xe0010, 8, 0x2000, 1, 0x0, 4, false, 0xffffff, 0x0, 0x0, 0xffffff, 0x14f5⟩,
  ⟨0xe0018, 8, 0x2000, 1, 0x0, 4, false, 0x0, 0x0, 0x0, 0x3fffffff, 0x0⟩,
  ⟨0xe0020, 8, 0x2000, 1, 0x0, 4, false, 0x0, 0xffffffff, 0x0, 0xffffffff, 0x0⟩,
  ⟨0xe0028, 8, 0x2000, 1, 0x0, 4, false, 0x0, 0xffffffff, 0x0, 0xffffffff, 0x0⟩,
  ⟨0xe0030, 8, 0x2000, 1, 0x0, 4, false, 0x0, 0xffffffff, 0x0, 0xffffffff, 0x0⟩,
  ⟨0xe0038, 8, 0x2000, 1, 0x0, 4, false, 0x0, 0xffffffff, 0x0, 0xffffffff, 0x0⟩,
  ⟨0xe0040, 8, 0x2000, 1, 0x0, 4, false, 0x0, 0xffffffff, 0x0, 0xffffffff, 0x0⟩,
  ⟨0xe0048, 8, 0x2000, 1, 0x0, 4, false, 0x0, 0xffffffff, 0x0, 0xffffffff, 0x0⟩,
  ⟨0xe0050, 8, 0x2000, 1, 0x0, 4, false, 0x0, 0xffffffff, 0x0, 0xffffffff, 0x0⟩,
  ⟨0xe0058, 8, 0x2000, 1, 0x0, 4, false, 0x0, 0x0, 0x0, 0x3f7fffffffff, 0x0⟩,
  ⟨0xe0060, 8, 0x2000, 1, 0x0, 4, false, 0x0, 0x0, 0x13f3f, 0x0, 0x0⟩,
  ⟨0xe0068, 8, 0x2000, 1, 0x0, 4, false, 0x0, 0x0, 0x0, 0xffff, 0x0⟩,
  ⟨0xe0200, 8, 0x2000, 64, 0x8, 4, false, 0x0, 0x0, 0x0, 0x3fff, 0x0⟩,
  ⟨0xe0400, 8, 0x2000, 64, 0x8, 4, false, 0x0, 0xffffffff, 0x0, 0xffffffff, 0x0⟩]

/-- The registers of block RIND. -/
def regsRIND : List RegDef := [
  ⟨0xe1000, 8, 0x2000, 1, 0x0, 4, false, 0x0, 0x0, 0x0, 0x1ffffffff, 0x0⟩,
  ⟨0xe1008, 8, 0x2000, 1, 0x0, 4, false, 0x0, 0xffffffffffff, 0x0, 0xffffffffffff, 0x0⟩,
  ⟨0xe1010, 8, 0x2000, 1, 0x0, 4, false, 0x0, 0xffffffffffff, 0x0, 0xffffffffffff, 0x0⟩]

/-- The registers of block TCP. -/
def regsTCP : List RegDef := [
  ⟨0x100100, 64, 0x10000, 1, 0x0, 32, false, 0x3ff, 0x0, 0x0, 0x7ff, 0x0⟩]

/-- The registers of block MTX. -/
def regsMTX : List RegDef := [
  ⟨0x102000, 64, 0x10000, 8, 0x400, 32, false, 0x0, 0x0, 0x0, 0xfff, 0x0⟩,
  ⟨0x102008, 64, 0x10000, 8, 0x400, 32, false, 0x0, 0xffffffffffff, 0x0, 0xffffffffffff, 0x0⟩,
  ⟨0x102010, 64, 0x10000, 8, 0x400, 32, false, 0x0, 0xffffffffffff, 0x0, 0xffffffffffff, 0x0⟩,
  ⟨0x102018, 64, 0x10000, 8, 0x400, 32, false, 0x0, 0xffffffffffff, 0x0, 0xffffffffffff, 0x0⟩,
  ⟨0x102020, 64, 0x10000, 8, 0x400, 32, false, 0x0, 0xffffffffffff, 0x0, 0xffffffffffff, 0x0⟩,
  ⟨0x102028, 64, 0x10000, 8, 0x400, 32, false, 0x0, 0xffffffff, 0x0, 0xffffffff, 0x0⟩,
  ⟨0x102030, 64, 0x10000, 8, 0x400, 32, false, 0x0, 0xffffffff, 0x0, 0xffffffff, 0x0⟩]

/-- The registers of block XPD. -/
def regsXPD : List RegDef := [
  ⟨0x104000, 64, 0x10000, 1, 0x0, 32, false, 0x0, 0x0, 0x0, 0x1f1fff, 0x0⟩,
  ⟨0x104008, 64, 0x10000, 1, 0x0, 32, false, 0x0, 0xffffffffffff, 0x0, 0xffffffffffff, 0x0⟩,
  ⟨0x104010, 64, 0x10000, 1, 0x0, 32, false, 0x0, 0xffffffffffff, 0x0, 0xffffffffffff, 0x0⟩,
  ⟨0x104018, 64, 0x10000, 1, 0x0, 32, false, 0x0, 0xffffffff, 0x0, 0xffffffff, 0x0⟩,
  ⟨0x104020, 64, 0x10000, 1, 0x0, 32, false, 0x0, 0xffffffff, 0x0, 0xffffffff, 0x0⟩,
  ⟨0x104028, 64, 0x10000, 1, 0x0, 32, false, 0x0, 0xffffffff, 0x0, 0xffffffff, 0x0⟩]

/-- The registers of block STR. -/
def regsSTR : List RegDef := [
  ⟨0x105000, 64, 0x10000, 1, 0x0, 32, false, 0x0, 0x0, 0x0, 0xff, 0x0⟩,
  ⟨0x105008, 64, 0x10000, 1, 0x0, 32, false, 0x0, 0x0, 0x0, 0x1ff1f01ff03, 0x0⟩,
  ⟨0x105010, 64, 0x10000, 1, 0x0, 32, false, 0x0, 0x0, 0x0, 0x7fffff, 0x0⟩,
  ⟨0x105018, 64, 0x10000, 1, 0x0, 32, false, 0x0, 0x0, 0x0, 0x7fffffffff, 0x0⟩,
  ⟨0x105020, 64, 0x10000, 1, 0x0, 32, false, 0x0, 0x0, 0x0, 0x7ffffffffff, 0x0⟩,
  ⟨0x105028, 64, 0x10000, 1, 0x0, 32, false, 0x0, 0x0, 0x0, 0xfffff01ff1f, 0x0⟩,
  ⟨0x105030, 64, 0x10000, 1, 0x0, 32, false, 0x0, 0x0, 0x0, 0x7fffff, 0x0⟩,
  ⟨0x105038, 64, 0x10000, 1, 0x0, 32, false, 0x0, 0xffffffffffff, 0x0, 0xffffffffffff, 0x0⟩,
  ⟨0x105040, 64, 0x10000, 1, 0x0, 32, false, 0x0, 0xffffffffffff, 0x0, 0xffffffffffff, 0x0⟩,
  ⟨0x105048, 64, 0x10000, 1, 0x0, 32, false, 0x0, 0xffffffff, 0x0, 0xffffffff, 0x0⟩,
  ⟨0x105050, 64, 0x10000, 1, 0x0, 32, false, 0x0, 0xffffffff, 0x0, 0xffffffff, 0x0⟩]

/-- The registers of block STG. -/
def regsSTG : List RegDef := [
  ⟨0x106000, 64, 0x10000, 1, 0x0, 32, true, 0xf, 0x0, 0x0, 0xf, 0x4⟩,
  ⟨0x106008, 64, 0x10000, 1, 0x0, 32, false, 0x0, 0x0, 0x0, 0x7f007fffff, 0x0⟩,
  ⟨0x106010, 64, 0x10000, 1, 0x0, 32, false, 0x0, 0xffffffff, 0x0, 0xffffffff, 0x0⟩,
  ⟨0x106f00, 64, 0x10000, 1, 0x0, 32, false, 0x0, 0x0, 0x0, 0x1ffff, 0x0⟩,
  ⟨0x106f08, 64, 0x10000, 1, 0x0, 32, false, 0x0, 0xffffffffffff, 0x0, 0xffffffffffff, 0x0⟩]

/-- The registers of block TSR. -/
def regsTSR : List RegDef := [
  ⟨0x107000, 64, 0x10000, 1, 0x0, 32, false, 0x0, 0x0, 0x0, 0x3f01, 0x0⟩,
  ⟨0x107008, 64, 0x10000, 1, 0x0, 32, false, 0x0, 0xffffffffffff, 0x0, 0xffffffffffff, 0x0⟩,
  ⟨0x107010, 64, 0x10000, 1, 0x0, 32, false, 0x0, 0xffffffffffff, 0x0, 0xffffffffffff, 0x0⟩]

/-- The registers of block TTC. -/
def regsTTC : List RegDef := [
  ⟨0x108000, 64, 0x10000, 1, 0x0, 32, false, 0x0, 0xffffffffffff, 0x0, 0xffffffffffff, 0x0⟩,
  ⟨0x108008, 64, 0x10000, 1, 0x0, 32, false, 0x0, 0xffffffffffff, 0x0, 0xffffffffffff, 0x0⟩,
  ⟨0x108010, 64, 0x10000, 1, 0x0, 32, false, 0x0, 0xffffffffffff, 0x0, 0xffffffffffff, 0x0⟩,
  ⟨0x108018, 64, 0x10000, 1, 0x0, 32, false, 0x0, 0xffffffffffff, 0x0, 0xffffffffffff, 0x0⟩,
  ⟨0x108020, 64, 0x10000, 1, 0x0, 32, false, 0x0, 0xffffffffffff, 0x0, 0xffffffffffff, 0x0⟩]

/-- The registers of block CRD. -/
def regsCRD : List RegDef := [
  ⟨0x500000, 1, 0x0, 1, 0x0, 0, false, 0xffffff, 0x0, 0x0, 0xffffff, 0x9c4⟩,
  ⟨0x500008, 1, 0x0, 1, 0x0, 0, false, 0x0, 0x0, 0x0, 0x1fff7fff1fff, 0x0⟩,
  ⟨0x500010, 1, 0x0, 1, 0x0, 0, false, 0x0, 0xffffffffffff, 0x0, 0xffffffffffff, 0x0⟩,
  ⟨0x500018, 1, 0x0, 1, 0x0, 0, false, 0x0, 0xffffffff, 0x0, 0xffffffff, 0x0⟩,
  ⟨0x500020, 1, 0x0, 1, 0x0, 0, false, 0x0, 0xffffffff, 0x0, 0xffffffff, 0x0⟩,
  ⟨0x500028, 1, 0x0, 1, 0x0, 0, false, 0x0, 0xffffffff, 0x0, 0xffffffff, 0x0⟩,
  ⟨0x508000, 16, 0x800, 1, 0x0, 8, false, 0x0, 0x0, 0x0, 0x1fff0003ff03, 0x0⟩,
  ⟨0x508008, 16, 0x800, 1, 0x0, 8, false, 0x0, 0xffffffffffff, 0x0, 0xffffffffffff, 0x0⟩,
  ⟨0x508010, 16, 0x800, 1, 0x0, 8, false, 0x0, 0xffffffffffff, 0x0, 0xffffffffffff, 0x0⟩,
  ⟨0x508018, 16, 0x800, 1, 0x0, 8, false, 0x0, 0xffffffff, 0x0, 0xffffffff, 0x0⟩,
  ⟨0x508020, 16, 0x800, 1, 0x0, 8, false, 0x0, 0xffffffff, 0x0, 0xffffffff, 0x0⟩,
  ⟨0x508028, 16, 0x800, 1, 0x0, 8, false, 0x0, 0xffffffff, 0x0, 0xffffffff, 0x0⟩,
  ⟨0x508030, 16, 0x800, 1, 0x0, 8, false, 0x0, 0xffffffff, 0x0, 0xffffffff, 0x0⟩,
  ⟨0x508040, 16, 0x800, 4, 0x8, 8, false, 0x0, 0xffffffff, 0x0, 0xffffffff, 0x0⟩]

/-- The registers of block SRH. -/
def regsSRH : List RegDef := [
  ⟨0x510000, 1, 0x0, 1, 0x0, 0, false, 0x0, 0x0, 0x0, 0x1ff01ff01ff01ff, 0x0⟩,
  ⟨0x510008, 1, 0x0, 1, 0x0, 0, false, 0x0, 0xffffffffffff, 0x0, 0xffffffffffff, 0x0⟩,
  ⟨0x510010, 1, 0x0, 1, 0x0, 0, false, 0x0, 0xffffffffffff, 0x0, 0xffffffffffff, 0x0⟩,
  ⟨0x510018, 1, 0x0, 1, 0x0, 0, false, 0x0, 0xffffffff, 0x0, 0xffffffff, 0x0⟩,
  ⟨0x510020, 1, 0x0, 1, 0x0, 0, false, 0x0, 0xffffffffffff, 0x0, 0xffffffffffff, 0x0⟩,
  ⟨0x510028, 1, 0x0, 1, 0x0, 0, false, 0x0, 0xffffffff, 0x0, 0xffffffff, 0x0⟩,
  ⟨0x510030, 1, 0x0, 1, 0x0, 0, false, 0x0, 0xffffffff, 0x0, 0xffffffff, 0x0⟩]

/-- The registers of block RTE. -/
def regsRTE : List RegDef := [
  ⟨0x520000, 1, 0x0, 1, 0x0, 0, false, 0x0, 0x0, 0x0, 0x1ff0001, 0x0⟩,
  ⟨0x520008, 1, 0x0, 1, 0x0, 0, false, 0x0, 0xffffffffffff, 0x0, 0xffffffffffff, 0x0⟩,
  ⟨0x520010, 1, 0x0, 1, 0x0, 0, false, 0x0, 0xffffffff, 0x0, 0xffffffff, 0x0⟩,
  ⟨0x520018, 1, 0x0, 1, 0x0, 0, false, 0x0, 0xffffffff, 0x0, 0xffffffff, 0x0⟩,
  ⟨0x520020, 1, 0x0, 1, 0x0, 0, false, 0x0, 0xffffffff, 0x0, 0xffffffff, 0x0⟩,
  ⟨0x520028, 1, 0x0, 1, 0x0, 0, false, 0x0, 0xffffffff, 0x0, 0xffffffff, 0x0⟩,
  ⟨0x521000, 256, 0x40, 1, 0x0, 0, false, 0x0, 0x0, 0x0, 0xff01f1, 0x0⟩,
  ⟨0x521008, 256, 0x40, 1, 0x0, 0, false, 0x0, 0x0, 0x0, 0xffffffffffffffff, 0x0⟩,
  ⟨0x521010, 256, 0x40, 4, 0x8, 0, false, 0x0, 0x0, 0x0, 0xffffffffffffffff, 0x0⟩]

/-- The registers of block GES. -/
def regsGES : List RegDef := [
  ⟨0x530000, 1, 0x0, 1, 0x0, 0, false, 0x3fff, 0x0, 0x0, 0x3fff, 0xfa0⟩,
  ⟨0x530008, 1, 0x0, 1, 0x0, 0, false, 0x0, 0x0, 0x0, 0x1ffffff0001ff01, 0x0⟩,
  ⟨0x530010, 1, 0x0, 1, 0x0, 0, false, 0x0, 0xffffffff, 0x0, 0xffffffff, 0x0⟩,
  ⟨0x530018, 1, 0x0, 1, 0x0, 0, false, 0x0, 0xffffffff, 0x0, 0xffffffff, 0x0⟩]

/-- Every register of the CX9. -/
def regDefs : List RegDef :=
  [regsTOP, regsPWR, regsCLK, regsBOOT, regsEVQ, regsCMD, regsDOM, regsSTN, regsHOM,
    regsLSE, regsTLK, regsDRS, regsGWY, regsTRF, regsSTK, regsRIND, regsTCP, regsMTX,
    regsXPD, regsSTR, regsSTG, regsTSR, regsTTC, regsCRD, regsSRH, regsRTE, regsGES].flatten

/-- The highest address of an instance of a register definition. -/
def RegDef.last (d : RegDef) : Nat := d.base + (d.n1 - 1) * d.s1 + (d.n2 - 1) * d.s2

/-- Whether an address names an instance of a register definition. -/
def RegDef.hits (d : RegDef) (a : Nat) : Bool :=
  Nat.ble d.base a && Nat.ble a d.last &&
    (let off := a - d.base
     let i := if d.s1 = 0 then 0 else min (off / d.s1) (d.n1 - 1)
     let rest := off - i * d.s1
     let j := if d.s2 = 0 then 0 else min (rest / d.s2) (d.n2 - 1)
     rest == j * d.s2)

/-- The first index of the instance that an address names. -/
def RegDef.inst (d : RegDef) (a : Nat) : Nat :=
  if d.s1 = 0 then 0 else min ((a - d.base) / d.s1) (d.n1 - 1)

/-- The register definition an address is assigned to, if any (R13). -/
def regAt (a : Nat) : Option RegDef := regDefs.find? (fun d => d.hits a)

/-- Whether an address is assigned to a register (R13, R577 order 4). -/
def assigned (a : Nat) : Bool := (regAt a).isSome

/-- The bits of a register that read as stored; every other bit reads as zero (R10, R11). -/
def readMask (a : Nat) : BitVec 64 :=
  match regAt a with
  | some d => BitVec.ofNat 64 d.rd
  | none => 0

/-- The value of the Reset column of a register, with the values that depend on the instance: `DOM_CFG[0]` is ACTIVE and
`DOM_USE[0]` counts all 384 extents (R155). -/
def rstVal (a : Nat) : BitVec 64 :=
  if a = A.DOM_CFG 0 then 1
  else if a = A.DOM_USE 0 then 0x180#64 <<< 42
  else match regAt a with
    | some d => if d.base = A.DOM_CFG 0 then 0 else if d.base = A.DOM_USE 0 then 0 else BitVec.ofNat 64 d.rst
    | none => 0

/-- Which half a register's block lies in: `some false` west, `some true` east, `none` the spine (R17, R46, assumption log 130). -/
def regHalf (a : Nat) : Option Bool :=
  match regAt a with
  | some d => if d.halfDiv = 0 then none else some (decide (d.halfDiv ≤ d.inst a))
  | none => none

end Sys2Proof.Machine
end

