-- ==== Sys2Proof/Machine/Ops.lean ====
section
/-! DEFINITION. The named operations over the registers, the store and the structures of the device, the monad in which the
meanings are written, and how a meaning becomes a step. -/

namespace Sys2Proof.Machine

/-! ## Bit fields and byte order (R7, R8) -/

/-- Bits lo+w−1 to lo of a bit vector, as a number. -/
def bits {n : Nat} (v : BitVec n) (lo w : Nat) : Nat := (v.toNat >>> lo) % 2 ^ w

/-- One bit of a bit vector. -/
def bit {n : Nat} (v : BitVec n) (i : Nat) : Bool := v.getLsbD i

/-- A register with a field replaced; bits of the number beyond the field are dropped. -/
def putBits {n : Nat} (v : BitVec n) (lo w x : Nat) : BitVec n :=
  (v &&& ~~~(BitVec.ofNat n ((2 ^ w - 1) <<< lo))) ||| BitVec.ofNat n ((x % 2 ^ w) <<< lo)

/-- A field of a register value. -/
def Fld.of (f : Fld) (v : BitVec 64) : Nat := bits v f.lo f.w

/-- A register value with a field replaced. -/
def Fld.put (f : Fld) (v : BitVec 64) (x : Nat) : BitVec 64 := putBits v f.lo f.w x

/-- The largest value of a field. -/
def Fld.max (f : Fld) : Nat := 2 ^ f.w - 1

/-- Field of `w` bytes at byte `o` of a packet or line, little-endian (R8). -/
def le (p : Line) (o w : Nat) : Nat := bits p (8 * o) (8 * w)

/-- A line with `w` bytes at byte `o` replaced, little-endian. -/
def putLe (p : Line) (o w x : Nat) : Line := putBits p (8 * o) (8 * w) x

/-- Byte `o` of a line. -/
def byteOf (p : Line) (o : Nat) : Byte := BitVec.ofNat 8 (le p o 1)

/-- The little-endian number held by a list of bytes. -/
def leBytes (l : List Byte) : Nat := l.foldr (fun b acc => b.toNat + 256 * acc) 0

/-- Field of `w` bytes at byte `o` of a byte string. -/
def leAt (l : List Byte) (o w : Nat) : Nat := leBytes ((l.drop o).take w)

/-- The `w` little-endian bytes of a number. -/
def toLe : Nat → Nat → List Byte
  | 0, _ => []
  | w + 1, x => BitVec.ofNat 8 x :: toLe w (x / 256)

/-- The 64 bytes of a line. -/
def lineBytes (p : Line) : List Byte := toLe 64 p.toNat

/-- A line from its first 64 bytes; missing bytes are zero. -/
def lineOf (l : List Byte) : Line := BitVec.ofNat 512 (leBytes (l.take 64))

/-- The bytes of a byte string cut into lines; the last line is filled with zeros. -/
def linesOf (n : Nat) (l : List Byte) : List Line := (List.range n).map fun i => lineOf (l.drop (64 * i))

/-- A number as a signed number of `w` bits. -/
def sgn (w x : Nat) : Int := if 2 ^ (w - 1) ≤ x % 2 ^ w then (x % 2 ^ w : Int) - 2 ^ w else (x % 2 ^ w : Int)

/-- Whether a Nat has a bit set. -/
def tb (x i : Nat) : Bool := x.testBit i

/-- 1 for true, 0 for false. -/
def b2n (b : Bool) : Nat := if b then 1 else 0

/-! ## Sparse tables -/

/-- The entry of a sparse table. -/
def tget {α : Type} (d : α) : Tbl α → Nat → α
  | [], _ => d
  | (k, v) :: t, a => if k = a then v else tget d t a

/-- A sparse table with a key's entry put in, keeping the keys rising. -/
def tins {α : Type} (a : Nat) (v : α) : Tbl α → Tbl α
  | [] => [(a, v)]
  | (k, w) :: t => if a < k then (a, v) :: (k, w) :: t else if a = k then (a, v) :: t else (k, w) :: tins a v t

/-- A sparse table without a key. -/
def tdel {α : Type} (a : Nat) (t : Tbl α) : Tbl α := t.filter fun e => e.1 != a

/-- A sparse table with an entry set; an entry equal to the default is not listed. -/
def tset {α : Type} [DecidableEq α] (d : α) (t : Tbl α) (a : Nat) (v : α) : Tbl α :=
  if v = d then tdel a t else tins a v t

/-- Replace the i-th element of a list. -/
def lset {α : Type} (l : List α) (i : Nat) (v : α) : List α := l.set i v

/-! ## Registers and store of the device -/

/-- The stored value of a register. -/
def Dev.reg (d : Dev) (a : Nat) : BitVec 64 := tget (rstVal a) d.csr a

/-- A field of a stored register. -/
def Dev.fld (d : Dev) (a : Nat) (f : Fld) : Nat := f.of (d.reg a)

/-- A byte of the store; a byte that nothing has written reads zero (R119, R128). -/
def Dev.byte (d : Dev) (a : Nat) : Byte := tget 0 d.mem a

/-- Line number `n` of the store: 64 bytes from offset 64 × n. -/
def Dev.line (d : Dev) (n : Nat) : Line := lineOf ((List.range 64).map fun i => d.byte (64 * n + i))

/-- The metadata of a line. -/
def Dev.meta_ (d : Dev) (n : Nat) : Meta := tget {} d.store.lines n

/-- One primitive change applied to the device. A register takes only the bits its definition says read as stored (R11), and an
address not assigned to a register takes nothing (R13); a byte beyond the store takes nothing (R96). -/
def Upd.apply (u : Upd) (d : Dev) : Dev :=
  match u with
  | .now t => { d with now := max d.now t }
  | .nowSet t => { d with now := t }
  | .free => { d with free := d.free + 1 }
  | .csr a v =>
    if assigned a then
      { d with csr := if v &&& readMask a = rstVal a then tdel a d.csr else tins a (v &&& readMask a) d.csr }
    else d
  | .csrReset keep => { d with csr := d.csr.filter fun e => keep.contains e.1 }
  | .csrBlock lo hi => { d with csr := d.csr.filter fun e => decide (e.1 < lo) || decide (hi ≤ e.1) }
  | .mem a b => if a < 0x6000000000 then { d with mem := tset 0 d.mem a b } else d
  | .memClear lo hi => { d with mem := d.mem.filter fun e => decide (e.1 < lo) || decide (hi ≤ e.1) }
  | .store x => { d with store := x }
  | .evq x => { d with evq := x }
  | .home x => { d with home := x }
  | .own x => { d with own := x }
  | .stn x => { d with stn := x }
  | .trf x => { d with trf := x }
  | .fab x => { d with fab := x }
  | .links x => { d with links := x }
  | .cmd x => { d with cmd := x }
  | .staged x => { d with staged := x }
  | .dom x => { d with dom := x }
  | .eng x => { d with eng := x }
  | .sys x => { d with sys := x }

/-- A list of primitive changes applied to the device, the last of the list first (the log of a command is newest first). -/
def Dev.replay (d : Dev) (log : List Upd) : Dev := log.foldr Upd.apply d

/-! ## The monad of the meanings -/

/-- A meaning reads the device as it stands and adds primitive changes to its log. -/
abbrev M := StateM Work

/-- What a meaning makes of the device: the changes in its log, applied. -/
def Dev.run (d : Dev) (m : M Unit) : Dev := d.replay (m.run ⟨d, []⟩).2.log

/-- The outcome of a meaning: a next state, the queue of commands untouched. -/
def State.run (s : State) (m : M Unit) : Host.Outcome State Fault Refusal :=
  .next { s with dev := s.dev.run m }

/-- The outcome of a meaning whose operands must be well-formed. -/
def State.runIf (ok : Bool) (s : State) (m : M Unit) : Host.Outcome State Fault Refusal :=
  if ok then s.run m else .fault .illFormed

/-- Make one primitive change. -/
def emit (u : Upd) : M Unit := modify fun w => ⟨u.apply w.dev, u :: w.log⟩

/-- The device as it stands. -/
def dev : M Dev := do return (← get).dev

/-- Read something off the device. -/
def look {α : Type} (f : Dev → α) : M α := do return f (← get).dev

/-- The stored value of a register. -/
def rd (a : Nat) : M Word := look fun d => d.reg a

/-- Store a register. -/
def wr (a : Nat) (v : Word) : M Unit := emit (.csr a v)

/-- A field of a register. -/
def fget (a : Nat) (f : Fld) : M Nat := look fun d => d.fld a f

/-- Set a field of a register. -/
def fset (a : Nat) (f : Fld) (x : Nat) : M Unit := do
  let v ← rd a
  wr a (f.put v x)

/-- Add to a field that holds at its maximum (R12). -/
def fadd (a : Nat) (f : Fld) (n : Nat) : M Unit := do
  let x ← fget a f
  fset a f (min (x + n) f.max)

/-- Count one in bits 31:0 of a counter register (R12). -/
def bump (a : Nat) : M Unit := fadd a ⟨0, 32⟩ 1

/-- Count `n` in bits 47:0 of a wide counter register (R12). -/
def bump48 (a n : Nat) : M Unit := fadd a ⟨0, 48⟩ n

/-- The AON counter (R471). -/
def now : M Nat := look fun d => d.now

/-- Let time pass until a tick, if it has not passed already (assumption log 6). -/
def passTo (t : Nat) : M Unit := emit (.now t)

/-- Draw the next free value (assumption log 3). -/
def freeWord : M Word := do
  let v ← look fun d => Config.freeValue d.free
  emit .free
  return v

/-- A free value below a bound (zero where the bound is zero). -/
def freeBelow (n : Nat) : M Nat := do
  let v ← freeWord
  return v.toNat % max n 1

/-- Store one byte. -/
def wrByte (a : Nat) (b : Byte) : M Unit := emit (.mem a b)

/-- Store consecutive bytes. -/
def wrBytes : Nat → List Byte → M Unit
  | _, [] => pure ()
  | a, b :: t => do wrByte a b; wrBytes (a + 1) t

/-- Store a whole line. -/
def wrLine (n : Nat) (v : Line) : M Unit := wrBytes (64 * n) (lineBytes v)

/-- Set the metadata of a line. -/
def wrMeta (n : Nat) (m : Meta) : M Unit := do
  let s ← look (·.store)
  emit (.store { s with lines := tset {} s.lines n m })

/-- Run an action for each element of a list, in order. -/
def each {α : Type} (l : List α) (f : α → M Unit) : M Unit := l.forM f

/-- Run an action when a condition holds. -/
def on (c : Bool) (m : M Unit) : M Unit := if c then m else pure ()

/-! ## Updates of one structure -/

def modStore (f : StoreSt → StoreSt) : M Unit := do emit (.store (f (← look (·.store))))
def modEvq (f : EvqSt → EvqSt) : M Unit := do emit (.evq (f (← look (·.evq))))
def modHome (f : HomeSt → HomeSt) : M Unit := do emit (.home (f (← look (·.home))))
def modOwn (f : OwnSt → OwnSt) : M Unit := do emit (.own (f (← look (·.own))))
def modStn (f : StnSt → StnSt) : M Unit := do emit (.stn (f (← look (·.stn))))
def modTrf (f : TrfSt → TrfSt) : M Unit := do emit (.trf (f (← look (·.trf))))
def modFab (f : FabSt → FabSt) : M Unit := do emit (.fab (f (← look (·.fab))))
def modCmd (f : CmdSt → CmdSt) : M Unit := do emit (.cmd (f (← look (·.cmd))))
def modStaged (f : StagedSt → StagedSt) : M Unit := do emit (.staged (f (← look (·.staged))))
def modDom (f : DomSt → DomSt) : M Unit := do emit (.dom (f (← look (·.dom))))
def modEng (f : EngSt → EngSt) : M Unit := do emit (.eng (f (← look (·.eng))))
def modSys (f : SysSt → SysSt) : M Unit := do emit (.sys (f (← look (·.sys))))

def modRes (f : ResSt → ResSt) : M Unit := modSys fun s => { s with res := f s.res }
def modPwr (f : PwrSt → PwrSt) : M Unit := modSys fun s => { s with pwr := f s.pwr }
def modBoot (f : BootSt → BootSt) : M Unit := modSys fun s => { s with boot := f s.boot }

/-- The link of a port (0 to 3 Talku, 4 to 15 Dorrus). -/
def Dev.link (d : Dev) (port : Nat) : Link := d.links.getD port {}

def modLink (port : Nat) (f : Link → Link) : M Unit := do
  let d ← dev
  emit (.links (d.links.set port (f (d.link port))))

/-! ## Often-read settings -/

/-- The device's own node number (R27, R52). -/
def Dev.node (d : Dev) : Nat := bits (d.reg A.TOP_NODE) 0 14

/-- SPAN_ID of the device's span (R53). -/
def Dev.span (d : Dev) : Nat := d.fld A.TOP_SPAN_DIM F.TOP_SPAN_DIM_SPAN_ID

/-- The three dimensions of the span (R53). -/
def Dev.dims (d : Dev) : Nat × Nat × Nat :=
  (d.fld A.TOP_SPAN_DIM F.TOP_SPAN_DIM_DIM_X_M1 + 1, d.fld A.TOP_SPAN_DIM F.TOP_SPAN_DIM_DIM_Y_M1 + 1,
    d.fld A.TOP_SPAN_DIM F.TOP_SPAN_DIM_DIM_Z_M1 + 1)

/-- Whether the device stands alone (R26). -/
def Dev.standalone (d : Dev) : Bool := d.dims == (1, 1, 1)

/-- Coordinates of a node number (R27). -/
def nodeX (n : Nat) : Nat := (n >>> 10) % 16
def nodeY (n : Nat) : Nat := (n >>> 5) % 32
def nodeZ (n : Nat) : Nat := n % 32

/-- The node number of coordinates (R27). -/
def nodeAt (x y z : Nat) : Nat := (x <<< 10) ||| (y <<< 5) ||| z

/-- Group number and position in the group of a node (R28). -/
def groupOf (n : Nat) : Nat := ((nodeX n >>> 2) <<< 6) ||| ((nodeY n >>> 2) <<< 3) ||| (nodeZ n >>> 2)
def posOf (n : Nat) : Nat := ((nodeX n % 4) <<< 4) ||| ((nodeY n % 4) <<< 2) ||| (nodeZ n % 4)

/-- Whether a node number matches a coordinate of the span (R27). -/
def Dev.inSpan (d : Dev) (n : Nat) : Bool :=
  let (dx, dy, dz) := d.dims
  decide (n < 16384) && decide (nodeX n < dx) && decide (nodeY n < dy) && decide (nodeZ n < dz)

/-- The power state, 0 to 3 (R551). -/
def Dev.power (d : Dev) : Nat := d.fld A.PWR_STATUS F.PWR_STATUS_STATE

/-- Whether a half is held in reset (R55). -/
def Dev.halfDown (d : Dev) (east : Bool) : Bool :=
  d.fld A.TOP_HALF_STATUS (if east then F.TOP_HALF_STATUS_E_RESET else F.TOP_HALF_STATUS_W_RESET) == 1

/-- Whether the block of a register lies in a half held in reset (R49). -/
def Dev.inDownHalf (d : Dev) (a : Nat) : Bool :=
  match regHalf a with
  | some e => d.halfDown e
  | none => false

/-- STATE of a port (0 to 3 Talku, 4 to 15 Dorrus) and where it stands. -/
def portStatusAddr (port : Nat) : Nat := if port < 4 then A.TLK_STATUS port else A.DRS_STATUS (port - 4)
def Dev.portState (d : Dev) (port : Nat) : Nat := bits (d.reg (portStatusAddr port)) 0 3
def setPortState (port st : Nat) : M Unit := fset (portStatusAddr port) ⟨0, 3⟩ st

/-- Extent of a local offset (R127). -/
def extentOf (off : Nat) : Nat := off >>> 30

/-- The tag of an extent (R127). -/
def Dev.extDom (d : Dev) (e : Nat) : Nat := d.fld (A.DOM_EXT_TAG e) F.DOM_EXT_TAG_DOMAIN
def Dev.extCls (d : Dev) (e : Nat) : Nat := d.fld (A.DOM_EXT_TAG e) F.DOM_EXT_TAG_CLASS
def Dev.extState (d : Dev) (e : Nat) : Nat := d.fld (A.DOM_EXT_TAG e) F.DOM_EXT_TAG_STATE

/-- State of a domain: 0 FREE, 1 ACTIVE, 2 DESTROYING (R124). -/
def Dev.domState (d : Dev) (n : Nat) : Nat := d.fld (A.DOM_CFG n) F.DOM_CFG_STATE

/-- The size of the store: local offsets from here to 512 GiB are the hole (R96). -/
abbrev storeEnd : Nat := 0x6000000000

end Sys2Proof.Machine
end

