-- ==== Sys2Proof/Machine/Evq.lean ====
section
/-! DEFINITION. Event, fault and trace queues: raising a record at its source, its entry into a queue, the pop, the flushes, the
trace mark and the sticky fatal register (R468 to R483). -/

namespace Sys2Proof.Machine

/-- Capacity of a queue (R469). -/
def evqCap (x : Nat) : Nat := if x = 0 then 4096 else if x = 1 then 2048 else 8192

/-- The records of a queue, oldest first. -/
def EvqSt.queue (e : EvqSt) (x : Nat) : List QRec := if x = 0 then e.event else if x = 1 then e.fault else e.trace

/-- A queue replaced. -/
def EvqSt.setQueue (e : EvqSt) (x : Nat) (l : List QRec) : EvqSt :=
  if x = 0 then { e with event := l } else if x = 1 then { e with fault := l } else { e with trace := l }

/-- The next bank of a queue (R478). -/
def EvqSt.bank (e : EvqSt) (x : Nat) : Nat := if x = 0 then e.bankEvent else if x = 1 then e.bankFault else e.bankTrace

/-- The next bank of a queue replaced. -/
def EvqSt.setBank (e : EvqSt) (x b : Nat) : EvqSt :=
  if x = 0 then { e with bankEvent := b } else if x = 1 then { e with bankFault := b } else { e with bankTrace := b }

/-- The queue that takes a record: the trace queue for trace codes, else the event queue for INFO and the fault queue for the
rest (R468). -/
def recQueue (code : Nat) : Nat := if 0x0F00 ≤ code then 2 else if recClass code = 0 then 0 else 1

/-- Word 0 of a record as stored (R470): SEQ, CODE, CLASS and PRIOR_DROP. -/
def QRec.word0 (q : QRec) : Word :=
  BitVec.ofNat 64 (q.seq % 2 ^ 32 + q.r.code % 65536 * 2 ^ 32 + q.r.cls % 4 * 2 ^ 48 + b2n q.prior * 2 ^ 50)

/-- Word 1 of a record: TICK. -/
def QRec.word1 (q : QRec) : Word := BitVec.ofNat 64 q.r.tick

/-- Word 2 of a record: INST, DOMAIN with DOM_VALID, DETAIL and COUNT_A. -/
def QRec.word2 (q : QRec) : Word :=
  BitVec.ofNat 64 (q.r.inst % 65536 + (match q.r.dom with | some n => (n % 32 + 128) * 2 ^ 16 | none => 0)
    + q.r.detail % 256 * 2 ^ 24 + q.r.countA % 2 ^ 32 * 2 ^ 32)

/-- Word 3 of a record: ADDR. -/
def QRec.word3 (q : QRec) : Word := BitVec.ofNat 64 q.r.addr

/-- A FATAL record latches into TOP_FATAL_STICKY when its source raises it (R473). -/
def latchFatal (r : Rec) : M Unit := do
  let any ← fget A.TOP_FATAL_STICKY F.TOP_FATAL_STICKY_ANY
  if any = 0 then
    wr A.TOP_FATAL_STICKY (BitVec.ofNat 64
      (r.code % 65536 + 2 ^ 16 + 2 ^ 24 + r.inst % 256 * 2 ^ 32 + r.tick / 256 % 2 ^ 24 * 2 ^ 40))
  else fadd A.TOP_FATAL_STICKY F.TOP_FATAL_STICKY_COUNT 1

/-- Hold a record at its source, or discard it when the source already holds 8 for that queue (R472). -/
def holdRec (srcInst x : Nat) (r : Rec) : M Unit := do
  let e ← look (·.evq)
  let row := recRow r.code
  let mine := e.held.filter fun h => h.row == row && h.srcInst == srcInst && h.x == x
  if 8 ≤ mine.length then
    bump (A.EVQ_X_DROP_CNT x)
    modEvq fun e => { e with owed := if e.owed.contains (row, srcInst, x) then e.owed else e.owed ++ [(row, srcInst, x)] }
  else modEvq fun e => { e with held := e.held ++ [⟨row, srcInst, x, r⟩] }

/-- A source raises a record (R472, R473, R474). -/
def raise (code srcInst inst : Nat) (dom : Option Nat := none) (detail countA addr : Nat := 0) : M Unit := do
  let t ← now
  let r : Rec := ⟨code, recClass code, inst, dom, detail, countA, addr, t⟩
  on (r.cls == 3) (latchFatal r)
  holdRec srcInst (recQueue code) r

/-- Whether the record offered by one source enters before that of another: by CODE, then INST, then row, then instance (R472). -/
def Held.before (a b : Held) : Bool :=
  if a.r.code ≠ b.r.code then decide (a.r.code < b.r.code)
  else if a.r.inst ≠ b.r.inst then decide (a.r.inst < b.r.inst)
  else if a.row ≠ b.row then decide (a.row < b.row)
  else decide (a.srcInst < b.srcInst)

/-- The records that the sources offer for a queue: the oldest of each source (R472); of the records one source raised on one
cycle the one with the lower CODE, then INST, comes first. -/
def EvqSt.offers (e : EvqSt) (x : Nat) : List Held :=
  (e.held.filter (·.x == x)).foldl (fun acc h =>
    match acc.find? (fun g => g.row == h.row && g.srcInst == h.srcInst) with
    | none => acc ++ [h]
    | some g => if g.r.tick == h.r.tick && h.before g then acc.map (fun k => if k == g then h else k) else acc) []

/-- The record that enters a queue next (R472). -/
def EvqSt.pick (e : EvqSt) (x : Nat) : Option Held :=
  (e.offers x).foldl (fun acc h => match acc with | none => some h | some g => if h.before g then some h else some g) none

/-- The next sequence number of a queue's series (R471), taken. -/
def takeSeq (x : Nat) : M Nat := do
  let f : Fld := if x = 2 then F.EVQ_SEQ_TRACE_NEXT else F.EVQ_SEQ_NEXT
  let n ← fget A.EVQ_SEQ f
  fset A.EVQ_SEQ f ((n + 1) % 2 ^ 32)
  return n

/-- A record leaves its source and enters its queue, overwriting the oldest record of a full queue (R471, R472, R477). -/
def enterQueue (h : Held) : M Unit := do
  let n ← takeSeq h.x
  let e ← look (·.evq)
  let key := (h.row, h.srcInst, h.x)
  let q : QRec := ⟨n, e.owed.contains key, h.r⟩
  let old := e.queue h.x
  let full := decide (evqCap h.x ≤ old.length)
  on full (bump (A.EVQ_X_LOST_CNT h.x))
  let kept := if full then old.drop 1 else old
  modEvq fun e => { e.setQueue h.x (kept ++ [q]) with held := e.held.erase h, owed := e.owed.erase key }

/-! ## Event crossings (R545) -/

/-- The crossing that the strobe of a source's record takes into AON: none for a source that lies there (R472, R545). -/
def Held.crossing (h : Held) : Option Nat :=
  if h.row = 3 then some h.srcInst
  else if h.row = 9 then some (8 + h.srcInst)
  else if h.row = 11 then some (12 + h.srcInst)
  else if h.row ∈ [2, 4, 13, 15, 17] then none
  else some 88

/-- An event enters a crossing in an AON cycle: true when it is carried. A crossing holds 4 pending events and delivers one every 2 cycles; a
fifth is lost and sets the crossing's bit (R545, assumption log 129). -/
def crossEvent (x cycle : Nat) : M Bool := do
  let pend ← look fun d => (tget [] d.sys.pwr.cdc x).filter fun t => decide (cycle < t)
  if 4 ≤ pend.length then do
    let v ← rd (A.PWR_CDC_OVR (x / 64))
    wr (A.PWR_CDC_OVR (x / 64)) (v ||| BitVec.ofNat 64 (2 ^ (x % 64)))
    on (!(bit v (x % 64))) (raise Ev.cdcOverrun 0 x)
    return false
  else do
    modPwr fun p => { p with cdc := tset [] p.cdc x (pend ++ [pend.getLastD cycle + 2]) }
    return true

/-- A record enters its queue when its strobe has been carried; one whose strobe is lost leaves its source and does not enter. -/
def strobeIn (cycle : Nat) (h : Held) : M Unit := do
  let ok ← match h.crossing with
    | none => pure true
    | some x => crossEvent x cycle
  if ok then enterQueue h else modEvq fun e => { e with held := e.held.erase h }

/-- One AON cycle of record entry: each queue takes one offered record; the event and the fault queue share a series, so of their
two records the one that comes first in the order of R472 takes the lower number (R471). Rows given at one tick are cycles that follow one
another. -/
def recordEntry : M Unit := do
  let e ← look (·.evq)
  let t ← now
  let cycle := max t e.entryAt
  match e.pick 0, e.pick 1 with
  | some a, some b => if a.before b then strobeIn cycle a; strobeIn cycle b else strobeIn cycle b; strobeIn cycle a
  | some a, none => strobeIn cycle a
  | none, some b => strobeIn cycle b
  | none, none => pure ()
  match e.pick 2 with
  | some c => strobeIn cycle c
  | none => pure ()
  modEvq fun e => { e with entryAt := cycle + 1 }

/-- Number of bits set in a 72-bit pattern. -/
def pop72 (v : BitVec 72) : Nat := ((List.range 72).filter fun i => v.getLsbD i).length

/-- A stored word as the SECDED decoder returns it, given the bits in error among its 64 data and 8 check bits: corrected with one
bit in error, as stored with two (R480). The spec states nothing for more: then the word is a free value, and so is
whether it counts as corrected, as uncorrectable or as neither (assumption log 9). The flags say corrected and uncorrectable. -/
def secded (w : Word) (e : BitVec 72) : M (Word × Bool × Bool) := do
  let n := pop72 e
  if n = 0 then return (w, false, false)
  else if n = 1 then return (w, true, false)
  else if n = 2 then return (w ^^^ e.setWidth 64, false, true)
  else
    let f ← freeWord
    let o ← freeBelow 3
    return (f, o == 1, o == 2)

/-- A pop of a queue: the oldest record leaves it, words 1 to 3 go to the next bank, and word 0 is returned with VALID, BANK and
ECC_UE; an empty queue returns zero and takes no bank (R478, R480). `flips` are the bits in error of the four stored words. -/
def popQueue (x : Nat) (flips : List (BitVec 72)) : M Word := do
  let e ← look (·.evq)
  match e.queue x with
  | [] => return 0
  | q :: rest =>
    let b := e.bank x
    let (w0, c0, u0) ← secded q.word0 (flips.getD 0 0)
    let (w1, c1, u1) ← secded q.word1 (flips.getD 1 0)
    let (w2, c2, u2) ← secded q.word2 (flips.getD 2 0)
    let (w3, c3, u3) ← secded q.word3 (flips.getD 3 0)
    fadd (A.EVQ_X_CE_CNT x) ⟨0, 32⟩ (b2n c0 + b2n c1 + b2n c2 + b2n c3)
    fadd (A.EVQ_X_UE_CNT x) ⟨0, 32⟩ (b2n u0 + b2n u1 + b2n u2 + b2n u3)
    modEvq fun e => (e.setQueue x rest).setBank x ((b + 1) % 16)
    wr (A.EVQ_X_BANK_SEQ x b) (BitVec.ofNat 64 (bits w0 0 32))
    wr (A.EVQ_X_BANK1 x b) w1
    wr (A.EVQ_X_BANK2 x b) w2
    wr (A.EVQ_X_BANK3 x b) w3
    return putBits (putBits (putBits w0 56 4 b) 62 1 (b2n (u0 || u1 || u2 || u3))) 63 1 1

/-- A flush empties a queue with its banks and leaves its counters and series (R482). -/
def flushQueue (x : Nat) : M Unit := do
  modEvq fun e => (e.setQueue x []).setBank x 0
  each (List.range 16) fun b => do
    wr (A.EVQ_X_BANK_SEQ x b) 0
    wr (A.EVQ_X_BANK1 x b) 0
    wr (A.EVQ_X_BANK2 x b) 0
    wr (A.EVQ_X_BANK3 x b) 0

/-- A write of EVQ_TRACE_MARK raises TRC_MARK while trace runs (R475). -/
def traceMark (v : Word) : M Unit := do
  let en ← fget A.EVQ_TRACE_CFG F.EVQ_TRACE_CFG_EN
  on (en == 1) (raise Ev.trcMark 0 0x3FF none 0 0 v.toNat)

/-- Writing 1 to TOP_FATAL_STICKY.ANY clears it with the fields it guards (R473). -/
def clearSticky : M Unit := wr A.TOP_FATAL_STICKY 0

/-- The records that a reset source holds are discarded: each is counted in its queue's drop counter, and no later record of the
source owes a mark for them (R482). -/
def dropHeld (hit : Held → Bool) : M Unit := do
  let e ← look (·.evq)
  each (e.held.filter hit) fun h => bump (A.EVQ_X_DROP_CNT h.x)
  modEvq fun e => { e with held := e.held.filter fun h => !hit h }

/-- Every source outside the AON domain drops what it holds (R482). -/
def dropNonAon : M Unit := dropHeld fun h => !rowInAon h.row

/-! ## The rows -/

def execRecordEntry (s : State) : Host.Outcome State Fault Refusal := s.run recordEntry

def execEvqPop (x : Fin 3) (flips : List (BitVec 72)) (s : State) : Host.Outcome State Fault Refusal :=
  s.runIf (decide (flips.length ≤ 4)) (do let _ ← popQueue x.val flips; pure ())

def execFlushEvent (s : State) : Host.Outcome State Fault Refusal := s.run (flushQueue 0)

def execFlushFault (s : State) : Host.Outcome State Fault Refusal := s.run (flushQueue 1)

def execFlushTrace (s : State) : Host.Outcome State Fault Refusal := s.run (flushQueue 2)

def execEvqTraceMark (v : Word) (s : State) : Host.Outcome State Fault Refusal := s.run (traceMark v)

def execTopFatalStickyClear (s : State) : Host.Outcome State Fault Refusal := s.run clearSticky

end Sys2Proof.Machine
end

