-- ==== Sys2Proof/Machine/Store.lean ====
section
/-! DEFINITION. The in-package store: the offset map, the line code, poison, the decoded read with its write-back, pins, repair,
scrub, temperature and the states of a stack (R92 to R123), and Rind's ciphertext (R143). -/

namespace Sys2Proof.Machine

/-! ## The offset map (R97) -/

/-- Chunk slot of a local offset. -/
def slotOf (o : Nat) : Nat := o >>> 17

/-- Stack of a local offset. -/
def stackOf (o : Nat) : Nat := ((o >>> 8) ^^^ (o >>> 17) ^^^ (o >>> 26)) % 8

/-- Pseudo-channel of a local offset. -/
def pcOf (o : Nat) : Nat := ((o >>> 11) ^^^ (o >>> 20) ^^^ (o >>> 29)) % 64

/-- Stack-local line number of a local offset. -/
def localLine (o : Nat) : Nat := (slotOf o <<< 8) ||| (pcOf o <<< 2) ||| ((o >>> 6) % 4)

/-- The local offset of a line from its stack and stack-local line number: the inverse of `stackOf` and `localLine` (R97). -/
def offsetOf (stack n : Nat) : Nat :=
  let r := n >>> 8
  let pc := (n >>> 2) % 64
  let line := n % 4
  let s := (stack ^^^ r ^^^ (r >>> 9)) % 8
  let p := (pc ^^^ (r >>> 3) ^^^ (r >>> 12)) % 64
  (r <<< 17) ||| (p <<< 11) ||| (s <<< 8) ||| (line <<< 6)

/-- Lines per stack. -/
abbrev linesPerStack : Nat := 805306368

/-- Bank of a local offset within its pseudo-channel: stack ID, bank group and bank, 0 to 47. -/
def bankOf (o : Nat) : Nat :=
  let r := slotOf o
  (r >>> 20) * 16 + ((r >>> 2) % 4) * 4 + (r >>> 4) % 4

/-- Row of a local offset within its bank (R97). -/
def rowOf (o : Nat) : Nat := (slotOf o >>> 6) % 16384

/-- Line number of a local offset. -/
def lineNo (o : Nat) : Nat := o >>> 6

/-! ## The line code (R94, R99) -/

/-- Multiplication in GF(2^8) modulo x^8 + x^4 + x^3 + x^2 + 1: `n` steps of shift and add. -/
def gfMulAux : Nat → Nat → Nat → Nat → Nat
  | 0, _, _, acc => acc
  | n + 1, a, b, acc =>
    let acc := if b % 2 = 1 then acc ^^^ a else acc
    let a2 := a * 2
    gfMulAux n (if 256 ≤ a2 then a2 ^^^ 0x11D else a2) (b / 2) acc

/-- Product in GF(2^8). -/
def gfMul (a b : Nat) : Nat := gfMulAux 8 a b 0

/-- Powers of α = 2. -/
def gfPow : Nat → Nat
  | 0 => 1
  | n + 1 => gfMul (gfPow n) 2

/-- Power of an element. -/
def gfExp (a : Nat) : Nat → Nat
  | 0 => 1
  | n + 1 => gfMul (gfExp a n) a

/-- Inverse of a non-zero element: a^254. -/
def gfInv (a : Nat) : Nat := gfExp a 254

/-- Data symbol j of a line: bit k is line bit 256 × b + 32 × k + p (R94). -/
def dataSymbol (v : Line) (j : Nat) : Nat :=
  ((List.range 8).map fun k => if v.getLsbD (256 * (j / 32) + 32 * k + j % 32) then 2 ^ k else 0).sum

/-- META as stored: POISON, DIR and PCAUSE (R95). -/
def Meta.word (m : Meta) : Nat := b2n m.poison + m.dir % 128 * 2 + m.pcause % 8 * 256

/-- The 66 symbols that the writer fixes, as (position, symbol): data, and META in symbols 64 and 68. -/
def fixedSymbols (v : Line) (m : Meta) : List (Nat × Nat) :=
  ((List.range 64).map fun j => (j, dataSymbol v j)) ++ [(64, m.word % 256), (68, m.word / 256 % 256)]

/-- The syndrome of weight i of the fixed symbols. -/
def syndrome (l : List (Nat × Nat)) (i : Nat) : Nat :=
  l.foldl (fun acc e => acc ^^^ gfMul e.2 (gfExp (gfPow i) e.1)) 0

/-- Positions of the six check symbols (R94). -/
def checkPos : List Nat := [65, 66, 67, 69, 70, 71]

/-- One row of a linear system over GF(2^8): coefficients and right-hand side. -/
abbrev GfRow := List Nat × Nat

/-- Add a multiple of a row to another. -/
def gfAddMul (r s : GfRow) (c : Nat) : GfRow :=
  ((r.1.zip s.1).map fun e => e.1 ^^^ gfMul c e.2, r.2 ^^^ gfMul c s.2)

/-- Solve a linear system over GF(2^8) by elimination on the first unknown, with `n` unknowns left. -/
def gfSolve : Nat → List GfRow → List Nat
  | 0, _ => []
  | n + 1, rows =>
    match rows.find? (fun r => r.1.headD 0 ≠ 0) with
    | none => 0 :: gfSolve n (rows.map fun r => (r.1.drop 1, r.2))
    | some piv =>
      let inv := gfInv (piv.1.headD 0)
      let others := (rows.erase piv).map fun r =>
        let r' := gfAddMul r piv (gfMul (r.1.headD 0) inv)
        ((r'.1.drop 1, r'.2) : GfRow)
      let rest := gfSolve n others
      let known := ((piv.1.drop 1).zip rest).foldl (fun acc e => acc ^^^ gfMul e.1 e.2) piv.2
      gfMul known inv :: rest

/-- The six check symbols of a line, at the positions of `checkPos` (R99). -/
def checkSymbols (v : Line) (m : Meta) : List Nat :=
  let fx := fixedSymbols v m
  gfSolve 6 ((List.range 6).map fun i => ((checkPos.map fun j => gfExp (gfPow i) j), syndrome fx i))

/-! ## Rind (R143) -/

/-- The global address of a line of this device (R304). -/
def Dev.globalAddr (d : Dev) (off : Nat) : Nat := (d.node <<< 39) ||| off

/-- The tweak of a line (R143). -/
def Dev.tweak (d : Dev) (off : Nat) : BitVec 128 := BitVec.ofNat 128 ((d.span <<< 48) ||| (d.globalAddr off >>> 6))

/-- Multiplication by α of IEEE 1619: shift left by one, on carry byte 0 is XORed with 0x87. -/
def xtsMulAlpha (t : BitVec 128) : BitVec 128 :=
  if t.getLsbD 127 then (t <<< 1) ^^^ 0x87#128 else t <<< 1

/-- The ciphertext of the j-th and later of `n` 16-byte blocks of a line. -/
def xtsBlocks (k1 : BitVec 256) : Nat → BitVec 128 → Line → Line
  | 0, _, _ => 0
  | n + 1, t, p =>
    let c := Config.aes256Encrypt k1 (p.setWidth 128 ^^^ t) ^^^ t
    c.setWidth 512 ||| (xtsBlocks k1 n (xtsMulAlpha t) (p >>> 128) <<< 128)

/-- The symbols' data of a stored line: Rind's ciphertext for a line of a SEALED extent whose domain is keyed, the line itself
otherwise (R94, R143). The model keeps the plaintext in `mem`; this is what the stack holds (assumption log 10). -/
def Dev.stored (d : Dev) (n : Nat) : Line :=
  let off := 64 * n
  let e := extentOf off
  if d.extCls e = 1 then
    match d.store.keys.find? (fun k => k.1 == d.extDom e) with
    | some (_, k1, k2) => xtsBlocks k1 4 (Config.aes256Encrypt k2 (d.tweak off)) (d.line n)
    | none => d.line n
  else d.line n

/-- The six check symbols that stand beside a stored line: computed over its stored bits (R94, R99). -/
def Dev.storedChecks (d : Dev) (n : Nat) : List Nat := checkSymbols (d.stored n) (d.meta_ n)

/-- Plaintext of `n` 16-byte blocks whose stored bits differ by `e` from the ciphertext of `p`: a block read without an error is `p`'s, any other
is the decryption of the bits as read (R143). -/
def xtsRead (k1 : BitVec 256) : Nat → BitVec 128 → Line → Line → Line
  | 0, _, _, _ => 0
  | n + 1, t, p, e =>
    let c := Config.aes256Encrypt k1 (p.setWidth 128 ^^^ t) ^^^ t
    let b := if e.setWidth 128 = 0 then p.setWidth 128 else Config.aes256Decrypt k1 ((c ^^^ e.setWidth 128) ^^^ t) ^^^ t
    b.setWidth 512 ||| (xtsRead k1 n (xtsMulAlpha t) (p >>> 128) (e >>> 128) <<< 128)

/-- Count a line through Rind when its extent is SEALED (R156). -/
def countRind (enc : Bool) (n : Nat) : M Unit := do
  let d ← dev
  let off := 64 * n
  on (d.extCls (extentOf off) == 1)
    (bump48 (if enc then A.RIND_ENC_CNT (stackOf off) else A.RIND_DEC_CNT (stackOf off)) 1)

/-! ## Poison (R103) -/

/-- PCAUSE as read: 0, 5, 6 and 7 with POISON read as 1 (R95). -/
def Meta.cause (m : Meta) : Nat := if m.pcause = 0 ∨ 4 < m.pcause then 1 else m.pcause

/-- Whether a stack is FAILED. -/
def Dev.stackFailed (d : Dev) (s : Nat) : Bool := d.fld (A.STK_STATUS s) F.STK_STATUS_STATE == Ks.failed

/-- DETAIL with which a read of a line completes POISONED, or 0 when the line is sound (R103, R118). -/
def Dev.poisonOf (d : Dev) (n : Nat) : Nat :=
  if d.stackFailed (stackOf (64 * n)) then 0x25
  else if (d.meta_ n).poison then 0x20 + (d.meta_ n).cause else 0

/-- Symbol errors that stand in a stored line. -/
def Dev.errsAt (d : Dev) (n : Nat) : SymErrs := tget [] d.store.errs n

/-- Set the symbol errors of a stored line: a write of the line leaves none. -/
def setErrs (n : Nat) (e : SymErrs) : M Unit := modStore fun x => { x with errs := tset [] x.errs n e }

/-- What an access finds out about the cells of its line. An entry for symbol 72 is a correction report of the stack's on-die ECC: it is
counted and decides nothing (R109). The others are symbol errors that come to stand in the stored line beside those there. -/
def plantErrs (n : Nat) (e : SymErrs) : M Unit := do
  let new := e.filter fun x => decide (x.1 < 72)
  let d ← dev
  on (new != []) (setErrs n (new ++ (d.errsAt n).filter fun x => !(new.any fun y => y.1 == x.1)))
  on (decide (new.length < e.length)) (fadd (A.STK_ODECC_CNT (stackOf (64 * n))) ⟨0, 32⟩ (e.length - new.length))

/-- Whether an operand of symbol errors names symbols 0 to 71 and on-die ECC reports (72) only. -/
def symErrsFit (e : SymErrs) : Bool := e.all fun x => decide (x.1 ≤ 72)

/-- Write a line with its poison mark; a poisoned write is counted (R105, STK_POISON_WR_CNT). -/
def putLine (n : Nat) (v : Line) (pcause : Nat) : M Unit := do
  let m ← look fun d => d.meta_ n
  setErrs n []
  wrLine n v
  wrMeta n { m with poison := decide (pcause ≠ 0), pcause := pcause }
  countRind true n
  on (decide (pcause ≠ 0)) (bump (A.STK_POISON_WR_CNT (stackOf (64 * n))))

/-- Mark a line poisoned with its data as it stands. -/
def poisonLine (n pcause : Nat) : M Unit := do
  let v ← look fun d => d.line n
  putLine n v pcause

/-- Set the stored DIR of a line. -/
def setDir (n dir : Nat) : M Unit := do
  let m ← look fun d => d.meta_ n
  wrMeta n { m with dir := dir }

/-! ## The decoded read (R100, R101, R106) -/

/-- Pin of a symbol: a DQ pin 0 to 31, or 32 plus the metadata lane (R94, R122). -/
def pinOf (sym : Nat) : Nat := if sym < 64 then sym % 32 else 32 + sym % 4

/-- What the decoder makes of a read: sound, corrected (with the symbols changed), uncorrectable (R100). -/
inductive Decoded where
  | clean
  | corrected (syms : List Nat)
  | uncorrectable
deriving DecidableEq, Repr

/-- The erased pin of a pseudo-channel, if any. -/
def Dev.erasedPin (d : Dev) (s pc : Nat) : Option Nat :=
  if d.fld (A.STK_PC_ERASE s pc) F.STK_PC_ERASE_ERASED = 1 then some (d.fld (A.STK_PC_ERASE s pc) F.STK_PC_ERASE_PIN)
  else none

/-- Symbols that really differ. -/
def realErrs (errs : SymErrs) : List Nat := (errs.filter fun e => e.2 ≠ 0 ∧ e.1 < 72).map (·.1)

/-- The decoder of R100 on a set of symbols in error: with no erased pin up to two are corrected, three or four detected; with one
erased pin its symbols and one more are corrected, two or three more detected. Beyond that the spec states no outcome: a free
value decides between a miscorrection (taken as no error seen) and a detection (assumption log 11). -/
def decodeErrs (erased : Option Nat) (syms : List Nat) : M Decoded := do
  match erased with
  | none =>
    if syms = [] then return .clean
    else if syms.length ≤ 2 then return .corrected syms
    else if syms.length ≤ 4 then return .uncorrectable
    else
      let f ← freeBelow 2
      return if f = 0 then .uncorrectable else .clean
  | some p =>
    let other := syms.filter fun s => pinOf s ≠ p
    if syms = [] then return .clean
    else if other.length ≤ 1 then return .corrected syms
    else if other.length ≤ 3 then return .uncorrectable
    else
      let f ← freeBelow 2
      return if f = 0 then .uncorrectable else .clean

/-- Record a read in STK_LAST_ERR (R101). -/
def lastErr (s off kind : Nat) (byScrub : Bool) (n : Nat) : M Unit :=
  wr (A.STK_LAST_ERR s) (BitVec.ofNat 64 (off % 2 ^ 39 + kind * 2 ^ 40 + b2n byScrub * 2 ^ 42 + n % 8 * 2 ^ 43))

/-- Key of a pin's tally. -/
def tallyKey (s pc pin : Nat) : Nat := (s * 64 + pc) * 64 + pin

/-- Pseudo-channels of a stack whose STK_PC_ERASE has a one-bit field set. -/
def Dev.pcCount (d : Dev) (s : Nat) (f : Fld) : Nat := ((List.range 64).filter fun pc => d.fld (A.STK_PC_ERASE s pc) f == 1).length

/-- STK_STATUS shows how many pseudo-channels use their spare lane and how many have an erased pin (R122). -/
def countPins (s : Nat) : M Unit := do
  let d ← dev
  fset (A.STK_STATUS s) F.STK_STATUS_SPARES_USED (d.pcCount s F.STK_PC_ERASE_SPARED)
  fset (A.STK_STATUS s) F.STK_STATUS_ERASED_PINS (d.pcCount s F.STK_PC_ERASE_ERASED)

/-- A pin of a pseudo-channel is erased (R106). -/
def setErased (s pc pin : Nat) : M Unit := do
  fset (A.STK_PC_ERASE s pc) F.STK_PC_ERASE_PIN pin
  fset (A.STK_PC_ERASE s pc) F.STK_PC_ERASE_ERASED 1
  countPins s

/-- Why a repair is refused, if it is: 0 for a pin out of range, then the reasons of R108 in order (assumption log 133). -/
def Dev.repairRefusal (d : Dev) (s pc pin : Nat) : Option Nat :=
  if 36 ≤ pin then some 0
  else if d.fld (A.STK_PC_ERASE s pc) F.STK_PC_ERASE_SPARED = 1 then some 1
  else if d.fld (A.STK_STATUS s) F.STK_STATUS_STATE ≠ Ks.ready then some 2
  else if d.store.repairs.any (fun r => r.stack == s) then some 3
  else none

/-- Start or refuse a lane repair (R107, R108). It lasts until REPAIR_DONE. -/
def startRepair (s pc pin : Nat) : M Unit := do
  let d ← dev
  match d.repairRefusal s pc pin with
  | some why =>
    fset (A.STK_REPAIR_STAT s) F.STK_REPAIR_STAT_RESULT 3
    fset (A.STK_REPAIR_STAT s) F.STK_REPAIR_STAT_REASON why
  | none =>
    wr (A.STK_REPAIR_STAT s) (BitVec.ofNat 64 (1 + pc * 16 + pin * 1024))
    modStore fun x => { x with repairs := x.repairs ++ [⟨s, pc, pin⟩] }

/-- A pin's tally grows by a corrected symbol; at the threshold the pin is erased, or logged as lost when another pin of the
pseudo-channel is erased (R106, R107, assumption log 132). -/
def tallyPin (s pc pin : Nat) : M Unit := do
  let d ← dev
  let k := tallyKey s pc pin
  let n := tget 0 d.store.tally k + 1
  modStore fun x => { x with tally := tset 0 x.tally k n }
  let thr := d.fld (A.STK_CFG s) F.STK_CFG_PIN_THRESH
  if thr ≠ 0 ∧ n = thr then
    match d.erasedPin s pc with
    | none =>
      setErased s pc pin
      raise Ev.pinErased s s none 0 0 (pc * 256 + pin)
      on (d.fld (A.STK_CFG s) F.STK_CFG_AUTO_REPAIR == 1) (startRepair s pc pin)
    | some p => on (decide (p ≠ pin)) (raise Ev.pinLost s s none 0 0 (pc * 256 + pin))
  else pure ()

/-- Counters, tallies and STK_LAST_ERR of a corrected read (R101). -/
def countCorrected (n : Nat) (syms : List Nat) (byScrub : Bool) : M Unit := do
  let off := 64 * n
  let s := stackOf off
  let pc := pcOf off
  let er ← look fun d => d.erasedPin s pc
  let atErased := syms.filter fun y => some (pinOf y) == er
  if atErased = [] then bump (A.STK_CE_CNT s) else bump (A.STK_ERASE_CNT s)
  bump (A.STK_PC_CE_CNT s pc)
  lastErr s off (if atErased = [] then 1 else 2) byScrub syms.length
  each (syms.filter fun y => some (pinOf y) != er) fun y => tallyPin s pc (pinOf y)

/-- The decoder's outcome on a read of a line, with what R101 counts for a corrected one. An uncorrectable read is left to the
home agent (R102). -/
def decodeRead (n : Nat) (errs : SymErrs) (byScrub : Bool) : M Decoded := do
  let off := 64 * n
  let er ← look fun d => d.erasedPin (stackOf off) (pcOf off)
  let r ← decodeErrs er (realErrs errs)
  match r with
  | .corrected syms => countCorrected n syms byScrub
  | _ => pure ()
  return r

/-- What an uncorrectable read counts and logs (R101, R102). -/
def countUe (n : Nat) (byScrub : Bool) : M Unit := do
  let off := 64 * n
  let s := stackOf off
  bump (A.STK_UE_CNT s)
  lastErr s off 3 byScrub 0
  raise Ev.stkUe s s none 0 0 off

/-- The data bits that symbol errors change, and data bits as read with the errors still in place (R94, R102). -/
def dataAsRead (v : Line) (errs : SymErrs) : Line :=
  errs.foldl (fun acc e =>
    if e.1 < 64 then (List.range 8).foldl (fun a k =>
      if e.2.getLsbD k then a ^^^ (1#512 <<< (256 * (e.1 / 32) + 32 * k + e.1 % 32)) else a) acc else acc) v

/-- A line as read with symbol errors still in place (R102): of a SEALED line the stored bits are Rind's ciphertext, and what is read is their
decryption (R94, R143). -/
def Dev.asRead (d : Dev) (n : Nat) (errs : SymErrs) : Line :=
  let off := 64 * n
  let e := extentOf off
  match (if d.extCls e = 1 then d.store.keys.find? (fun k => k.1 == d.extDom e) else none) with
  | some (_, k1, k2) => xtsRead k1 4 (Config.aes256Encrypt k2 (d.tweak off)) (d.line n) (dataAsRead 0 errs)
  | none => dataAsRead (d.line n) errs

/-! ## States of a stack -/

def stackState (s : Nat) : M Nat := fget (A.STK_STATUS s) F.STK_STATUS_STATE
def setStackState (s st : Nat) : M Unit := fset (A.STK_STATUS s) F.STK_STATUS_STATE st

/-- Whether a stack serves accesses: READY, or POWER_DOWN from which a request wakes it (R116, R119). -/
def Dev.stackServes (d : Dev) (s : Nat) : Bool :=
  let st := d.fld (A.STK_STATUS s) F.STK_STATUS_STATE
  st == Ks.ready || st == Ks.powerDown

/-- Key of a bank: (stack × 64 + pc) × 64 + bank. -/
def bankKey (off : Nat) : Nat := tallyKey (stackOf off) (pcOf off) (bankOf off)

/-- The row of an access is open in its bank; where another row or none was open, that is an activation (R113). The model leaves a row open
until its bank is refreshed or another row of it is wanted (assumption log 122). -/
def StoreSt.activate (x : StoreSt) (off : Nat) : StoreSt :=
  let k := bankKey off
  if tget 0 x.openRow k = rowOf off + 1 then x
  else { x with openRow := tset 0 x.openRow k (rowOf off + 1), acts := tset 0 x.acts k (tget 0 x.acts k + 1) }

/-- A request to a line wakes its pseudo-channel and stack from power-down (R116), marks the time of its use and opens its row (R113). -/
def touchLine (n : Nat) : M Unit := do
  let d ← dev
  let off := 64 * n
  let s := stackOf off
  let k := s * 64 + pcOf off
  modStore fun x => StoreSt.activate { x with down := x.down.erase k, lastUse := tset 0 x.lastUse k d.now } off
  on (d.fld (A.STK_STATUS s) F.STK_STATUS_STATE == Ks.powerDown) (setStackState s Ks.ready)

/-- A stack enters FAILED with the reason of STK_FAILED (R118): 1 training, 2 parity, 3 known-answer test. -/
def failStack (s reason : Nat) : M Unit := do
  setStackState s Ks.failed
  raise Ev.stkFailed s s none reason 0 0

/-- A repair of a stack completes: the pin's erasure is cleared if it is the erased one, and the spare lane carries it (R107). -/
def repairDone (s : Nat) : M Unit := do
  let d ← dev
  match d.store.repairs.find? (fun r => r.stack == s) with
  | none => pure ()
  | some r =>
    let a := A.STK_PC_ERASE s r.pc
    on (d.erasedPin s r.pc == some r.pin) (fset a F.STK_PC_ERASE_ERASED 0)
    fset a F.STK_PC_ERASE_SPARED 1
    fset a F.STK_PC_ERASE_SPARE_PIN r.pin
    countPins s
    fset (A.STK_REPAIR_STAT s) F.STK_REPAIR_STAT_RESULT 2
    fset (A.STK_REPAIR_STAT s) F.STK_REPAIR_STAT_REASON 0
    modStore fun x => { x with repairs := x.repairs.erase r }
    raise Ev.pinSpared s s none 0 0 (r.pc * 256 + r.pin)

/-- Whether a pseudo-channel takes no requests because it is being repaired (R107). -/
def Dev.repairing (d : Dev) (off : Nat) : Bool :=
  d.store.repairs.any fun r => r.stack == stackOf off && r.pc == pcOf off

/-- THROTTLE_C as it acts: 85 to 100 (R114). -/
def Dev.stkThrottle (d : Dev) (s : Nat) : Nat := max 85 (min 100 (d.fld (A.STK_CFG s) F.STK_CFG_THROTTLE_C))

/-- Refresh window, throttle and its release from one reading of a stack's temperature (R112, R114). -/
def stackTemp (s t : Nat) : M Unit := do
  let d ← dev
  let a := A.STK_STATUS s
  fset a F.STK_STATUS_TEMP t
  if 85 < t then fset a F.STK_STATUS_REFRESH_2X 1
  else on (decide (t ≤ 82)) (fset a F.STK_STATUS_REFRESH_2X 0)
  let th := d.stkThrottle s
  if d.fld a F.STK_STATUS_THROTTLED = 0 then
    on (decide (th ≤ t)) (do fset a F.STK_STATUS_THROTTLED 1; raise Ev.stkThrottle s s none 0 0 t)
  else on (decide (t ≤ th - 3)) (do fset a F.STK_STATUS_THROTTLED 0; raise Ev.stkThrottleEnd s s none 0 0 t)

/-- Whether the controller of a stack refreshes its banks: the stack trained and neither in self-refresh nor FAILED, the device not in P3 (R92,
R116). -/
def Dev.refreshes (d : Dev) (s : Nat) : Bool :=
  decide (d.power ≠ 3) && (d.fld (A.STK_STATUS s) F.STK_STATUS_STATE ∈ [Ks.init, Ks.ready, Ks.powerDown])

/-- A per-bank refresh (R112): the bank's refresh time; its row is closed, and the RFM commands that its activations require are issued with
it and counted (R113, assumption log 122). -/
def refreshBank (s pc bank : Nat) : M Unit := do
  let d ← dev
  on (d.refreshes s) (do
    let k := tallyKey s pc bank
    let thr := max 1 (Config.rfmThreshold s)
    let owed := tget 0 d.store.acts k / thr
    modStore fun x => { x with lastRef := tset 0 x.lastRef k d.now, openRow := tset 0 x.openRow k 0,
                               acts := tset 0 x.acts k (tget 0 x.acts k % thr) }
    on (decide (0 < owed)) (fadd (A.STK_RFM_CNT s) ⟨0, 32⟩ owed))

/-- All banks of a stack are refreshed at once (REFab), just before self-refresh entry and just after its exit (R92, R117): its rows are
closed. -/
def refreshAll (s : Nat) : M Unit := do
  let d ← dev
  modStore fun x => { x with lastRefAll := tset 0 x.lastRefAll s d.now, openRow := x.openRow.filter fun e => e.1 / 4096 != s }

/-- In P2 an idle pseudo-channel enters power-down; the stack reads POWER_DOWN once all of them have (R116). 1 µs is 50 AON cycles. -/
def pcPowerDown (s pc : Nat) : M Unit := do
  let d ← dev
  let k := s * 64 + pc
  if d.power = 2 ∧ d.fld (A.STK_STATUS s) F.STK_STATUS_STATE = Ks.ready ∧ ¬ d.store.down.contains k then
    passTo (tget 0 d.store.lastUse k + 50)
    modStore fun x => { x with down := k :: x.down }
    let n ← look fun d => (d.store.down.filter fun j => j / 64 == s).length
    on (decide (64 ≤ n)) (setStackState s Ks.powerDown)
  else pure ()

/-! ## The rows that need nothing above the store -/

def execStkRepair (s_ : Fin 8) (pc pin : Fin 64) (s : State) : Host.Outcome State Fault Refusal :=
  s.run (startRepair s_.val pc.val pin.val)

def execPcPowerDown (s_ : Fin 8) (pc : Fin 64) (s : State) : Host.Outcome State Fault Refusal :=
  s.run (pcPowerDown s_.val pc.val)

def execRefpb (s_ : Fin 8) (pc : Fin 64) (bank : Fin 48) (s : State) : Host.Outcome State Fault Refusal :=
  s.run (refreshBank s_.val pc.val bank.val)

end Sys2Proof.Machine
end

