-- ==== Sys2Proof/Machine/Wire.lean ====
section
/-! DEFINITION. Messages on their way out: the queues a message enters when the device sends it and the domain shapers (R319, R323 to R327),
the LOAD a slice reports (R222), notices (R264) and the account of protocol violations (R267, R294). -/

namespace Sys2Proof.Machine

/-! ## Sizes and classes -/

/-- Data units that follow a Talku message (R258). -/
def tmsgSize (m : TMsg) : Nat := 16 + 16 * m.units.length + 64 * m.data.length

/-- Size of a Dorrus message in bytes (R297). -/
def dmsgSize (m : DMsg) : Nat := 32 + 64 * m.units.length

def OMsg.size : OMsg → Nat
  | .t m => tmsgSize m
  | .d m => dmsgSize m

/-- Whether a message carries a 64-byte data unit and so consumes tokens (R324). -/
def OMsg.carriesData : OMsg → Bool
  | .t m => decide (m.data ≠ [])
  | .d m => decide (m.units ≠ [])

/-- Virtual channel of a device-to-host message (R256). -/
def tlkVc (type : Nat) : Nat := if type ∈ [0x41, 0x42, 0x43, 0x44, 0x45, 0x46, 0x7F] then 1 else 2

/-- Egress class of a device-to-host message: 0 MG, 1 HOST, 2 ENG, 3 BULK (R319). -/
def tlkClass (m : TMsg) : Nat :=
  if m.type ∈ [0x60, 0x61, 0x63, 0x64, 0x7F] then 0
  else if m.type = 0x62 then 2
  else if m.bulk && (m.type == 0x43 || m.type == 0x44) then 3 else 1

/-- CLS of a Dorrus message type: 0 MG, 1 RQ, 2 RS, 3 BK (R298). -/
def drsCls (type : Nat) : Nat :=
  if type ∈ [1, 2, 3, 4] then 1 else if type ∈ [0x41, 0x42, 0x43, 0x44, 0x45, 0x46] then 2
  else if type ∈ [0x70, 0x71] then 3 else 0

/-- Egress class of a Dorrus message that this device originates (R295, R319). -/
def drsClass (m : DMsg) : Nat := if drsCls m.type = 0 then 0 else if drsCls m.type = 3 then 3 else 2

/-! ## Domain shapers (R323 to R327) -/

/-- Tokens of a domain as a signed count. -/
def Dev.tokens (d : Dev) (n : Nat) : Int := sgn 32 (d.fld (A.TRF_SHP_STAT n) F.TRF_SHP_STAT_TOKENS)

def setTokens (n : Nat) (t : Int) : M Unit := fset (A.TRF_SHP_STAT n) F.TRF_SHP_STAT_TOKENS (t % 2 ^ 32).toNat

/-- The kind of shaper queue a message waits in: RQ, RS or BK on Dorrus, HOST or BULK on Talku (R324). -/
def Egr.kind (e : Egr) : Nat := match e.msg with
  | .t _ => 8 + e.cls
  | .d m => drsCls m.type

/-- Shaper queue of a message: port and kind. -/
def Egr.shaperKey (e : Egr) : Nat := e.port * 16 + e.kind

/-- Heads of the shaper queues of a domain, oldest queue head first. -/
def TrfSt.shaperHeads (t : TrfSt) (dom : Nat) : List Egr :=
  (t.shaper.filter fun e => e.dom == some dom).foldl (fun acc e =>
    if acc.any fun f => f.shaperKey == e.shaperKey then acc else acc ++ [e]) []

/-- Round-robin key of a domain's shaper queues in `TrfSt.rr`. -/
def shaperRr (dom : Nat) : Nat := 1000 + dom

/-- The element of a list with the smallest key at or above a bound, else the smallest: round robin. -/
def rrPick {α : Type} (key : α → Nat) (from_ : Nat) (l : List α) : Option α :=
  let best (l : List α) : Option α := l.foldl (fun acc x => match acc with
    | none => some x
    | some y => if key x < key y then some x else some y) none
  match best (l.filter fun x => decide (from_ ≤ key x)) with
  | some x => some x
  | none => best l

/-- Move what a domain's shaper lets leave from its shaper queues into the class queues: `n` bounds the messages moved (R324, R325).
A data-carrying head that finds no tokens is counted once (R327). -/
def shape (dom : Nat) : Nat → M Unit
  | 0 => pure ()
  | n + 1 => do
    let d ← dev
    let may (e : Egr) : Bool := !e.msg.carriesData || !(d.trf.limited.contains dom) || decide (0 < d.tokens dom)
    let heads := d.trf.shaperHeads dom
    match rrPick Egr.shaperKey (tget 0 d.trf.rr (shaperRr dom)) (heads.filter may) with
    | some e =>
      on e.msg.carriesData (setTokens dom (d.tokens dom - e.msg.size))
      modTrf fun t => { t with shaper := t.shaper.erase e, classq := t.classq ++ [{ e with tick := d.now }],
                               rr := tset 0 t.rr (shaperRr dom) (e.shaperKey + 1) }
      shape dom n
    | none =>
      each (heads.filter fun e => !e.held) fun e => do
        bump (A.TRF_SHP_HELD_CNT dom)
        modTrf fun t => { t with shaper := t.shaper.map fun x => if x == e then { x with held := true } else x }

/-- Let every domain's shaper move what it may. -/
def shapeAll : M Unit := each (List.range 32) fun dom => do
  let n ← look fun d => (d.trf.shaper.filter fun e => e.dom == some dom).length
  shape dom n

/-- Put a message into the shaper queue of its domain, which it leaves at once where tokens allow, or straight into its class queue when no
shaper acts on it (R323, R324). -/
def enqueue (port cls vc : Nat) (dom : Option Nat) (msg : OMsg) : M Unit := do
  let t ← now
  let e : Egr := ⟨port, cls, vc, dom, false, t, msg⟩
  match dom with
  | some n => do
    modTrf fun x => { x with shaper := x.shaper ++ [e] }
    let k ← look fun d => (d.trf.shaper.filter fun e => e.dom == some n).length
    shape n k
  | none => modTrf fun x => { x with classq := x.classq ++ [e] }

/-- Send a message to the host of a Talku port on behalf of a domain, if any (R319, R323). MG messages are not shaped. -/
def sendTlk (p : Nat) (dom : Option Nat) (m : TMsg) : M Unit :=
  enqueue p (tlkClass m) (tlkVc m.type) (if tlkClass m = 0 then none else dom) (.t m)

/-! ## LOAD (R222) -/

/-- Whether a source is a link rather than an on-die agent. -/
def Src.onLink : Src → Bool
  | .tlk _ _ => true
  | .drs _ => true
  | .land _ => true
  | .landed _ => true
  | _ => false

/-- The requests at a slice, in order of arrival. -/
def Dev.atSlice (d : Dev) (s : Nat) : List HReq := d.home.waiting.filter fun r => stackOf (64 * r.line) == s

/-- Ingress entries of a slice occupied or reserved (R218, R222): link requests behind the 512 tracker entries, and reservations. -/
def Dev.queueUsed (d : Dev) (s : Nat) : Nat :=
  (((d.atSlice s).drop 512).filter fun r => r.src.onLink).length
    + (d.home.credits.filter fun c => c.slc == s && c.due.isSome).length

/-- Whether a request came on VC1: a write-back or an eviction of a host (R256). -/
def HReq.vc1 (r : HReq) : Bool :=
  match r.src, r.op with
  | .tlk _ _, .wb _ => true
  | .tlk _ _, .evict => true
  | _, _ => false

/-- Ingress entries of a slice that VC1 messages occupy (R261). -/
def Dev.queueVc1 (d : Dev) (s : Nat) : Nat := (((d.atSlice s).drop 512).filter HReq.vc1).length

/-- Outstanding credits of a slice. -/
def Dev.creditsOut (d : Dev) (s : Nat) : Nat := (d.home.credits.filter fun c => c.slc == s).length

/-- LOAD of a slice (R222). -/
def Dev.load (d : Dev) (s : Nat) : Nat := if d.creditsOut s ≠ 0 then 7 else min 7 (8 * d.queueUsed s / 8192)

/-! ## Notices (R264) -/

/-- Send a CQ_NOTICE or LEASE_NOTICE: dropped and counted for a port that is DISABLED, TRAINING, DOWN, QUARANTINED or OFF; one for
a port in LOW_POWER wakes the link; one for a port in RETRAIN waits in its queue (R264). -/
def sendNotice (p : Nat) (m : TMsg) : M Unit := do
  let st ← look fun d => d.portState p
  if st ∈ [Ps.up, Ps.retrain, Ps.lowPower] then sendTlk p none m
  else bump (A.TLK_NOTICE_DROP_CNT p)

/-! ## Violations (R267, R294) -/

/-- THRESH and WINDOW of a port (R268, R294). -/
def Dev.violCfg (d : Dev) (port : Nat) : Nat × Nat :=
  let v := d.reg (if port < 4 then A.TLK_VIOL_CFG port else A.DRS_VIOL_CFG (port - 4))
  (bits v 0 8, bits v 8 32)

/-- Violations in the open window of a port, as TLK_STATUS and DRS_STATUS show them. -/
def winViolFld : Fld := ⟨16, 8⟩

/-- Account for one violation: counter, last-violation register, event and the window's count; a window opens when none is open
(R267, R268). Whether it quarantines the port is decided by `overThreshold`. -/
def countViolation (port reason type tagOrSrc : Nat) : M Unit := do
  let t ← now
  if port < 4 then do
    bump (A.TLK_VIOL_CNT port)
    wr (A.TLK_LAST_VIOL port) (BitVec.ofNat 64 (reason % 256 + type % 256 * 256 + tagOrSrc % 65536 * 65536 + t % 2 ^ 32 * 2 ^ 32))
    raise Ev.tlkViolation port port none reason 0 (type * 65536 + tagOrSrc)
  else do
    let n := port - 4
    bump (A.DRS_VIOL_CNT n)
    wr (A.DRS_LAST_VIOL n) (BitVec.ofNat 64 (reason % 256 + type % 256 * 256 + tagOrSrc % 16384 * 65536 + t % 2 ^ 32 * 2 ^ 32))
    raise Ev.drsViolation n n none reason 0 (type * 65536 + tagOrSrc)
  let d ← dev
  match (d.link port).winEnd with
  | none => do
    modLink port fun l => { l with winEnd := some (d.now + (d.violCfg port).2), viol := 1 }
    fset (portStatusAddr port) winViolFld 1
  | some _ => do
    modLink port fun l => { l with viol := l.viol + 1 }
    fadd (portStatusAddr port) winViolFld 1

/-- Whether a port's violations in its window exceed THRESH (R268); THRESH = 0 disables quarantine. -/
def Dev.overThreshold (d : Dev) (port : Nat) : Bool :=
  let th := (d.violCfg port).1
  th != 0 && decide (th < (d.link port).viol) && (d.link port).winEnd.isSome

/-- Answer a host message with NAK and a reason (R267); a quarantined port answers STATUS QUARANTINED instead (R269). -/
def nakTlk (p : Nat) (m : TMsg) (status detail : Nat) : M Unit :=
  sendTlk p none { type := 0x7F, tag := m.tag, status := status, detail := detail }

end Sys2Proof.Machine
end

