-- ==== Sys2Proof/Machine/Flit.lean ====
section
/-! DEFINITION. Messages as bytes and flits as bytes: the header layouts of R257, R258, R296 and R297 in both directions, the packing of
a message into flit bodies and the fields of a flit header (R253, R290). -/

namespace Sys2Proof.Machine

/-! ## Talku messages (R257, R258, R259) -/

/-- The 16-byte header of a Talku message (R257). BULK stands in RD_U and WR_U only. -/
def tmsgHeader (m : TMsg) : Nat :=
  m.type % 256 + m.len % 128 * 2 ^ 8 + b2n (m.bulk && (m.type == 0x03 || m.type == 0x04)) * 2 ^ 15 + m.tag % 65536 * 2 ^ 16 + m.addr % 2 ^ 39 * 2 ^ 32
    + (m.credit.getD 0) % 65536 * 2 ^ 72 + b2n m.credit.isSome * 2 ^ 88 + m.load % 8 * 2 ^ 89
    + m.status % 256 * 2 ^ 96 + m.detail % 256 * 2 ^ 104 + b2n m.poison * 2 ^ 112

/-- A Talku message as bytes: header, 16-byte units, data units (R258). -/
def tmsgBytes (m : TMsg) : List Byte :=
  toLe 16 (tmsgHeader m) ++ (m.units.map fun u => toLe 16 u.toNat).flatten ++ (m.data.map lineBytes).flatten

/-- 16-byte units that follow the header of a Talku message, from its type, LEN and POISON (R259). -/
def tmsgUnits (type len : Nat) (poison : Bool) : Nat :=
  if type ∈ [0x05, 0x20, 0x60, 0x63, 0x64] then 1
  else if type = 0x21 then 3
  else if type ∈ [0x22, 0x62] then 2
  else if type = 0x43 ∧ poison ∧ 1 < len then 1 else 0

/-- Data units that follow (R259): LEN, but none for RD_U. -/
def tmsgData (type len : Nat) : Nat := if type = 0x03 then 0 else len

/-- The message at the head of a byte stream and what follows it: `none` while it is not whole. -/
def tmsgTake (l : List Byte) : Option (TMsg × List Byte) :=
  if l.length < 16 then none
  else
    let h : BitVec 128 := BitVec.ofNat 128 (leBytes (l.take 16))
    let type := bits h 0 8
    let len := bits h 8 7
    let nu := tmsgUnits type len (bit h 112)
    let nd := tmsgData type len
    let size := 16 + 16 * nu + 64 * nd
    if l.length < size then none
    else
      let body := l.drop 16
      some ({ type := type, len := len, bulk := bit h 15, tag := bits h 16 16, addr := bits h 32 39,
              credit := if bit h 88 then some (bits h 72 16) else none, load := bits h 89 3, status := bits h 96 8,
              detail := bits h 104 8, poison := bit h 112,
              units := (List.range nu).map (fun i => BitVec.ofNat 128 (leAt body (16 * i) 16)),
              data := linesOf nd (body.drop (16 * nu)) }, l.drop size)

/-! ## Dorrus messages (R296, R297, R298) -/

/-- The 32-byte header of a Dorrus message (R296). -/
def dmsgHeader (m : DMsg) : List Byte :=
  toLe 1 m.type ++ toLe 1 (m.len % 128 + b2n m.retx * 128) ++ toLe 2 (m.dst % 16384) ++ toLe 2 (m.src % 16384)
    ++ toLe 1 (m.order % 8 + m.neg % 8 * 8 + b2n m.detour * 64 + b2n m.dateline * 128)
    ++ toLe 1 (m.srcDomain % 32 + m.cls % 2 * 32 + b2n m.credit.isSome * 64 + b2n m.poison * 128)
    ++ toLe 2 m.tag ++ toLe 2 (m.win % 2048) ++ toLe 4 (m.atag % 2 ^ 24 + m.srcBoot % 256 * 2 ^ 24)
    ++ toLe 5 (m.woff % 2 ^ 39) ++ toLe 1 m.status ++ toLe 1 m.detail ++ toLe 1 m.hops
    ++ toLe 2 (m.credit.getD 0) ++ toLe 2 (m.failNode % 16384) ++ toLe 1 (m.failDir % 8) ++ toLe 3 0

/-- A Dorrus message as bytes (R297). -/
def dmsgBytes (m : DMsg) : List Byte := dmsgHeader m ++ (m.units.map lineBytes).flatten

/-- The fields of a 32-byte Dorrus header, without its units. -/
def dmsgOfHeader (l : List Byte) : DMsg :=
  let b (i : Nat) := leAt l i 1
  { type := b 0, len := b 1 % 128, retx := tb (b 1) 7, dst := leAt l 2 2 % 16384, src := leAt l 4 2 % 16384,
    order := b 6 % 8, neg := b 6 / 8 % 8, detour := tb (b 6) 6, dateline := tb (b 6) 7, srcDomain := b 7 % 32,
    cls := b 7 / 32 % 2, poison := tb (b 7) 7, tag := leAt l 8 2, win := leAt l 10 2 % 2048, atag := leAt l 12 3,
    srcBoot := b 15, woff := leAt l 16 5 % 2 ^ 39, status := b 21, detail := b 22, hops := b 23,
    credit := if tb (b 7) 6 || b 0 == 0x44 || b 0 == 0x45 then some (leAt l 24 2) else none, failNode := leAt l 26 2 % 16384, failDir := b 28 % 8 }

/-- Units that follow a Dorrus header (R298): LEN, but none for RD, and a mask unit more for a message of several lines with POISON (R262): a
DATA, or lines copied from poisoned ones on their way to another device (R104, assumption log 124). -/
def dmsgUnits (type len : Nat) (poison : Bool) : Nat :=
  if type = 0x01 then 0
  else if type = 0x03 then 2
  else if type ∈ [0x02, 0x41, 0x70] ∧ poison ∧ 1 < len then len + 1 else len

/-- Units that follow the header of a Dorrus message, whose first unit is given: a NOROUTE that returns a response holds that response's header
and its units (R298, R301). -/
def dmsgCount (h : DMsg) (u : Line) : Nat :=
  if h.type = 0x46 ∧ 1 ≤ h.len then
    let r := dmsgOfHeader (lineBytes u)
    1 + dmsgUnits r.type r.len r.poison
  else dmsgUnits h.type h.len h.poison

/-- The message at the head of a byte stream and what follows it: `none` while it is not whole. -/
def dmsgTake (l : List Byte) : Option (DMsg × List Byte) :=
  if l.length < 32 then none
  else
    let h := dmsgOfHeader (l.take 32)
    let n := dmsgCount h (lineOf (l.drop 32))
    if l.length < 32 + 64 * n then none
    else some ({ h with units := linesOf n (l.drop 32) }, l.drop (32 + 64 * n))

/-! ## What the operands of a message row can hold -/

/-- Whether a Talku message's fields fit the layout of R257 and its units those of R258. -/
def tmsgFits (m : TMsg) : Bool :=
  decide (m.type < 256) && decide (m.len < 128) && decide (m.tag < 65536) && decide (m.addr < 2 ^ 39) && decide (m.credit.getD 0 < 65536) &&
    decide (m.load < 8) && decide (m.status < 256) && decide (m.detail < 256) && m.units.length == tmsgUnits m.type m.len m.poison &&
    m.data.length == tmsgData m.type m.len

/-- Whether a Dorrus message's fields fit the layout of R296 and its units those of R297. -/
def dmsgFits (m : DMsg) : Bool :=
  decide (m.type < 256) && decide (m.len < 128) && decide (m.dst < 16384) && decide (m.src < 16384) && decide (m.order < 8) &&
    decide (m.neg < 8) && decide (m.srcDomain < 32) && decide (m.cls < 2) && decide (m.credit.getD 0 < 65536) && decide (m.tag < 65536) &&
    decide (m.win < 2048) && decide (m.atag < 2 ^ 24) && decide (m.srcBoot < 256) && decide (m.woff < 2 ^ 39) && decide (m.status < 256) &&
    decide (m.detail < 256) && decide (m.hops < 256) && decide (m.failNode < 16384) && decide (m.failDir < 8) &&
    m.units.length == dmsgCount m (m.units.headD 0)

/-- Whether a flit has a body of 608 bytes and a count of corrected symbols that the code can give (R251, R253). -/
def flitFits (f : Flit) : Bool := f.body.length == 608 && decide (f.corrected ≤ 15)

/-! ## Flits -/

/-- Bytes of a message on the wire. -/
def OMsg.bytes : OMsg → List Byte
  | .t m => tmsgBytes m
  | .d m => dmsgBytes m

/-- A byte string cut into `n` flit bodies of 608 bytes, the last one filled with zeros. -/
def bodies : Nat → List Byte → List (List Byte)
  | 0, _ => []
  | n + 1, l => (l.take 608 ++ List.replicate (608 - (l.take 608).length) 0) :: bodies n (l.drop 608)

/-- The flit bodies of a message: the model starts each message on a new flit and fills the rest of its last flit with zeros
(assumption log 14). -/
def OMsg.flits (m : OMsg) : List (List Byte) := bodies ((m.size + 607) / 608) m.bytes

/-- Sequence number `n` places after another (R253). -/
def seqAfter (s n : Nat) : Nat := (s + n) % 4096

/-- Whole messages at the head of a byte stream, and the rest; a zero unit is padding. `n` bounds the units looked at. -/
def takeMsgs (talku : Bool) : Nat → List Byte → List OMsg × List Byte
  | 0, l => ([], l)
  | n + 1, l =>
    if l = [] then ([], [])
    else if (l.headD 0) = 0 then takeMsgs talku n (l.drop 16)
    else if talku then
      match tmsgTake l with
      | none => ([], l)
      | some (m, rest) => let r := takeMsgs talku n rest; (.t m :: r.1, r.2)
    else
      match dmsgTake l with
      | none => ([], l)
      | some (m, rest) => let r := takeMsgs talku n rest; (.d m :: r.1, r.2)

/-- The message flits of a message that starts at SEQ `seq`: the first one holds its header at unit 0, in the others none begins (R253). -/
def OMsg.txFlits (m : OMsg) (seq : Nat) : List TxFlit :=
  m.flits.zipIdx.map fun b => ⟨seqAfter seq b.2, if b.2 = 0 then 0 else 63, b.1, none⟩

/-- Header fields of a received flit (R253, R290). -/
def flitSeq (f : Flit) : Nat := bits f.hdr 0 12
def flitFtype (f : Flit) : Nat := bits f.hdr 12 4
def flitAck (f : Flit) : Nat := bits f.hdr 16 12
def flitNakf (f : Flit) : Bool := bit f.hdr 28
def flitFovr (f : Flit) : Bool := bit f.hdr 29
def flitOseq (f : Flit) : Nat := bits f.hdr 72 12
def flitFirst (talku : Bool) (f : Flit) : Nat := bits f.hdr (if talku then 80 else 64) 6
def flitCrc (f : Flit) : Nat := bits f.hdr 224 32
/-- LCTL of a link control flit: bytes 12 to 27. -/
def flitLctl (f : Flit) : Nat := bits f.hdr 96 128

/-- One step of the CRC-32 of IEEE 802.3 over a bit, reflected form. -/
def crcBit (c : Nat) : Nat := if c % 2 = 1 then (c / 2) ^^^ 0xEDB88320 else c / 2

/-- CRC-32 over a byte string (R253; the polynomial is IEEE 802.3's, assumption log 15). -/
def crc32 (l : List Byte) : Nat :=
  (l.foldl (fun c b => (List.range 8).foldl (fun x _ => crcBit x) (c ^^^ b.toNat)) 0xFFFFFFFF) ^^^ 0xFFFFFFFF

/-- Whether the CRC of a flit holds: header bytes 0 to 27 and the body. -/
def flitCrcOk (f : Flit) : Bool := crc32 (toLe 28 f.hdr.toNat ++ f.body) == flitCrc f

/-! ## Flits sent (R253, R254, R290, R293) -/

/-- Virtual channels of a port, and the 16-byte units of the port's own receive buffer of one: 64, 32 and 8 KiB on Talku (R256), 16 KiB on Dorrus
(R295). -/
def vcCount (port : Nat) : Nat := if port < 4 then 3 else 16
def rxCap (port vc : Nat) : Nat := if port < 4 then [4096, 2048, 512].getD vc 0 else 1024

/-- Credits that the next header of a port returns, as (virtual channel, 16-byte units): all three channels on Talku, the first two that have
some on Dorrus, each within its field. -/
def Link.returns (l : Link) (port : Nat) : List (Nat × Nat) :=
  let all := (List.range (vcCount port)).map fun v => (v, l.rxOwed.getD v 0)
  if port < 4 then all.map fun e => (e.1, min e.2 65535)
  else ((all.filter fun e => e.2 != 0).take 2).map fun e => (e.1, min e.2 4095)

/-- The header of a flit that a port sends, without its CRC (R253, R290). -/
def Link.header (l : Link) (port ftype : Nat) (f : TxFlit) : Nat :=
  let r := l.returns port
  f.seq % 4096 + ftype * 2 ^ 12 + l.rxSeq % 4096 * 2 ^ 16 + b2n l.nakOwed * 2 ^ 28 +
    (if port < 4 then (r.map fun e => e.2 * 2 ^ (32 + 16 * e.1)).sum + f.first % 64 * 2 ^ 80
     else (r.zipIdx.map fun e => (e.1.2 + e.1.1 * 2 ^ 12) * 2 ^ (32 + 16 * e.2)).sum + f.first % 64 * 2 ^ 64
       + b2n f.oseq.isSome * 2 ^ 29 + f.oseq.getD 0 % 4096 * 2 ^ 72)

/-- A flit leaves on the wire: what its header acknowledges, asks for and returns is settled with it. -/
def emitFlit (port ftype : Nat) (f : TxFlit) : M Unit := do
  let l ← look fun d => d.link port
  let h := l.header port ftype f
  let hdr : BitVec 256 := BitVec.ofNat 256 (h + crc32 (toLe 28 h ++ f.body) * 2 ^ 224)
  modTrf fun t => { t with flits := (port, hdr, f.body) :: t.flits }
  modLink port fun l =>
    { l with
      nakOwed := false
      rxOwed := (l.returns port).foldl (fun o e => o.set e.1 (o.getD e.1 0 - e.2)) l.rxOwed }

/-- An idle flit: it carries acknowledgement, NAKF and credits alone. -/
def idleFlit : TxFlit := ⟨0, 63, List.replicate 608 0, none⟩

/-- Put a number at a place of a list, which grows with zeros where it is too short. -/
def putAt (l : List Nat) (i n : Nat) : List Nat := (l ++ List.replicate (i + 1 - l.length) 0).set i n

/-- Whether a message is more than its sender holds credits for (R256). -/
def Dev.overrun (d : Dev) (port vc size : Nat) : Bool :=
  decide (rxCap port vc < (d.link port).rxUsed.getD vc 0 + (d.link port).rxOwed.getD vc 0 + size / 16)

/-- A message takes its place in the receive buffer of its virtual channel, and gives it up (R256): the freed units are returned as credits. -/
def rxTake (port vc size : Nat) : M Unit := modLink port fun l => { l with rxUsed := putAt l.rxUsed vc (l.rxUsed.getD vc 0 + size / 16) }
def rxFree (port vc size : Nat) : M Unit := modLink port fun l =>
  { l with rxUsed := putAt l.rxUsed vc (l.rxUsed.getD vc 0 - size / 16), rxOwed := putAt l.rxOwed vc (l.rxOwed.getD vc 0 + size / 16) }

end Sys2Proof.Machine
end

