-- ==== Sys2Proof/Machine/Home.lean ====
section
/-! DEFINITION. The home agent slice: the access check of R131, the directory (R223 to R226), what each request does to its line
(R228), snoops (R229, R230), home order (R187, R217), atomics (R307) and the answers. -/

namespace Sys2Proof.Machine

/-! ## The access check (R131) -/

/-- Status and DETAIL with which a line access is refused, if it is: the hole, the tag's state, the domain, the class (R131). An
exempt requester (`none`) meets the first check only. -/
def Dev.refusal (d : Dev) (off : Nat) (dom : Option Nat) (cls : Option Nat) : Option (Nat × Nat) :=
  if storeEnd ≤ off then some (Sc.hole, 0)
  else match dom with
    | none => none
    | some n =>
      let e := extentOf off
      if 2 ≤ d.extState e then some (Sc.revoked, 0x30)
      else if n ≠ d.extDom e then some (Sc.rights, 0x35)
      else match cls with
        | some c => if c ≠ d.extCls e then some (Sc.rights, 0x36) else none
        | none => none

/-- The access check, with the count of refusals at orders 3 and 4. -/
def checkAccess (off : Nat) (dom : Option Nat) (cls : Option Nat) : M (Option (Nat × Nat)) := do
  let r ← look fun d => d.refusal off dom cls
  match r, dom with
  | some (st, _), some n => on (st == Sc.rights) (bump (A.DOM_RIGHTS_CNT n))
  | _, _ => pure ()
  return r

/-! ## The directory (R223, R224) -/

/-- DIR as a number: state and ports (R223). -/
def dirWord (st ports : Nat) : Nat := st + 4 * (ports % 16)

/-- STATE and PORTS of a DIR value; state 3 reads as Shared by all ports (R223). -/
def dirDecode (v : Nat) : Nat × Nat := if v % 4 = 3 then (1, 15) else (v % 4, v / 4 % 16)

/-- The directory state of a line: from the directory cache, else from the line's metadata (R225). -/
def Dev.dirOf (d : Dev) (n : Nat) : Nat × Nat :=
  match d.home.dc.find? (·.line == n) with
  | some e => dirDecode e.dir
  | none => dirDecode (d.meta_ n).dir

/-- Set of a line in its slice's directory cache (R224). -/
def dcSet (n : Nat) : Nat × Nat := (stackOf (64 * n), localLine (64 * n) % 16384)

/-- Ports 0 to 3 that a mask names. -/
def portsOf (m : Nat) : List Nat := (List.range 4).filter fun p => m.testBit p

/-- A mask without a port. -/
def dropPort (m p : Nat) : Nat := if m.testBit p then m - 2 ^ p else m

/-- A mask with a port. -/
def addPort (m p : Nat) : Nat := if m.testBit p then m else m + 2 ^ p

/-- SNOOP_TIMEOUT as it acts: at least 250 AON cycles. -/
def Dev.snoopTimeout (d : Dev) : Nat := max 250 (d.fld A.HOM_CFG F.HOM_CFG_SNOOP_TIMEOUT)

/-- Entries of a line's set in its slice's directory cache, most recently used first. -/
def Dev.dcSetOf (d : Dev) (n : Nat) : List DirEnt := d.home.dc.filter fun e => dcSet e.line == dcSet n

/-- Write the directory state of a line. An Invalid line keeps no entry (its metadata reads Invalid); a Shared or Owned line has the
most recently used entry of its set, but a Shared one without an entry stays in its metadata where its set is full (R224, assumption log
12). -/
def writeDir (n st ports : Nat) : M Unit := do
  let d ← dev
  if st = 0 ∨ ports = 0 then
    modHome fun h => { h with dc := h.dc.filter fun e => e.line != n }
    setDir n 0
  else if st = 1 ∧ ¬ (d.home.dc.any (·.line == n)) ∧ 16 ≤ (d.dcSetOf n).length then setDir n (dirWord st ports)
  else modHome fun h => { h with dc := ⟨n, dirWord st ports⟩ :: h.dc.filter fun e => e.line != n }

/-- A line's owner is lost with its modified data: the line is stored poisoned, with cause 2 (R230), or, where a read had found it uncorrectable,
with the bits as read and cause 1 (R102). -/
def loseOwner (n : Nat) : M Unit := do
  let d ← dev
  match d.home.ue.find? (·.1 == n) with
  | some e => do
    modHome fun h => { h with ue := h.ue.filter fun x => x.1 != n }
    putLine n e.2 1
  | none => poisonLine n 2

/-- Send a snoop for a line to a port (R227, R228). None is sent to a quarantined port: it is removed from the line's directory state at once,
and a line it held Owned is poisoned (R230, R269). -/
def sendSnoop (n p : Nat) (isRec : Bool) : M Unit := do
  let d ← dev
  if d.portState p = Ps.quarantined then
    let (st, ports) := d.dirOf n
    on (st == 2 && ports == 2 ^ p) (loseOwner n)
    on (ports.testBit p) (writeDir n st (dropPort ports p))
  else
    modHome fun h => { h with snoops := h.snoops ++ [⟨n, p, isRec, d.now + d.snoopTimeout⟩] }
    sendTlk p none { type := if isRec then 0x51 else 0x50, addr := 64 * n }

/-- Room for a new entry in a line's set: true when there is room, or when the victim could be spilled at once; otherwise the least
recently used Owned line is being recalled and the request waits (R224). -/
def dcRoom (n : Nat) : M Bool := do
  let d ← dev
  let set := d.dcSetOf n
  if set.any (·.line == n) || set.length < 16 then return true
  else match set.reverse.find? (fun e => (dirDecode e.dir).1 == 1) with
    | some e =>
      modHome fun h => { h with dc := h.dc.erase e }
      setDir e.line e.dir
      bump (A.HOM_SPILL_CNT (stackOf (64 * n)))
      return true
    | none =>
      match set.getLast? with
      | some e =>
        if d.home.snoops.any (·.line == e.line) then return false
        else
          bump (A.HOM_BACKINV_CNT (stackOf (64 * n)))
          each (portsOf (dirDecode e.dir).2) fun p => sendSnoop e.line p true
          return false
      | none => return true

/-! ## Published buffers and ownership seen from a line (R236, R245) -/

/-- Region of a line. -/
def regionOf (n : Nat) : Nat := n >>> 15

/-- Whether a region lies in the current or previous buffer of an object (R245). -/
def Dev.publishedRegion (d : Dev) (r : Nat) : Bool :=
  (List.range 64).any fun i =>
    d.fld (A.HOM_PUB_CFG i) F.HOM_PUB_CFG_VALID == 1 &&
      (let len := d.fld (A.HOM_PUB_CFG i) F.HOM_PUB_CFG_LEN_M1 + 1
       let v := d.reg (A.HOM_PUB_CUR i)
       let cur := bits v 0 18
       let prev := bits v 32 18
       (bit v 63 && decide (cur ≤ r) && decide (r < cur + len)) || (bit v 62 && decide (prev ≤ r) && decide (r < prev + len)))

/-- Regions whose PUBLISH has begun step 2 and not ended (R245). -/
def Dev.publishing (d : Dev) (r : Nat) : Bool :=
  d.cmd.runs.any fun x => le x.pkt 0 2 == 0x0303 && x.phase == 1 && x.cpl.isNone &&
    decide (x.aux.getD 0 0 ≤ r) && decide (r < x.aux.getD 0 0 + x.aux.getD 1 0)

/-- Whether writes to a line are refused because it is published (R245). -/
def Dev.published (d : Dev) (n : Nat) : Bool := d.publishedRegion (regionOf n) || d.publishing (regionOf n)

/-- The ownership record of a region (R232). -/
def Dev.ownRec (d : Dev) (r : Nat) : OwnRec := tget {} d.own.recs r

/-! ## Gateway dirty tiles (R312) -/

/-- The channel whose OUT region holds a line, with the tile index in the region. -/
def Dev.outTile (d : Dev) (n : Nat) : Option (Nat × Nat) :=
  ((List.range 61).map (· + 3)).findSome? fun k =>
    let w0 := d.reg (A.GWY_CHAN0 k)
    let base := bits (d.reg (A.GWY_CHAN1 k)) 0 18 <<< 15
    let lines := (bits w0 8 6 + 1) <<< 15
    if bit w0 0 && decide (base ≤ n) && decide (n < base + lines) then some (k, (n - base) / 64) else none

/-- A write marks the line's tile dirty (R312). -/
def markDirty (n : Nat) : M Unit := do
  let d ← dev
  match d.outTile n with
  | none => pure ()
  | some (k, t) =>
    let one : BitVec 64 := 1#64 <<< (n % 64)
    if d.fab.dirty.any (fun x => x.chan == k && x.tile == t) then
      modFab fun f => { f with dirty := f.dirty.map fun x => if x.chan == k && x.tile == t then { x with lines := x.lines ||| one } else x }
    else modFab fun f => { f with dirty := f.dirty ++ [⟨k, t, d.now, one⟩] }

/-! ## Data operations at the home -/

/-- Bytes of a line replaced under a byte mask (R105). -/
def mergeLine (old new : Line) (mask : BitVec 64) : Line :=
  lineOf ((List.range 64).map fun i => if mask.getLsbD i then byteOf new i else byteOf old i)

/-- Result of an atomic: the new value of an operand of 2^size bytes (R307). -/
def atomNew (op size : Nat) (old a b : Nat) : Nat :=
  let w := 8 * 2 ^ size
  let m := 2 ^ w
  let old := old % m
  let a := a % m
  if op = 0 then (old + a) % m
  else if op = 1 then old &&& a
  else if op = 2 then old ||| a
  else if op = 3 then old ^^^ a
  else if op = 4 then a
  else if op = 5 then (if old = a then b % m else old)
  else if op = 6 then (if sgn w old ≤ sgn w a then old else a)
  else if op = 7 then (if sgn w old ≤ sgn w a then a else old)
  else if op = 8 then min old a
  else max old a

/-- Whether the reserved bytes of an operand block are zero: those that no field names, and those of A and B above the operand's size (R307). -/
def atomClean (o : Line) : Bool :=
  let n := 2 ^ min 4 (le o 1 1)
  le o 2 14 == 0 && le o 48 16 == 0 && decide (le o 16 16 < 2 ^ (8 * n)) && decide (le o 32 16 < 2 ^ (8 * n))

/-- Whether OP, SIZE and the alignment of a byte address are permitted for an operand block (R307). -/
def atomEnc (o : Line) (addr : Nat) : Bool :=
  let op := le o 0 1
  let size := le o 1 1
  decide (op ≤ 9) && (size == 2 || size == 3 || (size == 4 && op == 5)) && decide (addr % 2 ^ size = 0)

/-- Whether an operand block is permitted at a byte address (R307). -/
def atomOk (o : Line) (addr : Nat) : Bool := atomEnc o addr && atomClean o

/-- A write of a line under a mask, in home order (R105, R192, R312): a whole line is stored sound; part of a line is merged, or
the line is stored poisoned when it is poisoned already. A copy of a poisoned source stores the line poisoned (`pcause`, R104). -/
def writeLine (n : Nat) (mask : BitVec 64) (v : Line) (pcause : Nat) : M HAns := do
  let d ← dev
  if d.stackFailed (stackOf (64 * n)) then return { idx := 0, status := Sc.poisoned, detail := 0x25 }
  if mask = BitVec.allOnes 64 then
    putLine n v pcause
    markDirty n
    return { idx := 0 }
  else if pcause ≠ 0 then
    poisonLine n pcause
    markDirty n
    return { idx := 0 }
  else
    let p := d.poisonOf n
    if p ≠ 0 then
      poisonLine n (p - 0x20)
      markDirty n
      return { idx := 0, status := Sc.poisoned, detail := p }
    else
      putLine n (mergeLine (d.line n) v mask) 0
      markDirty n
      return { idx := 0 }

/-- A read of a line as stored. -/
def readLine (n : Nat) : M HAns := do
  countRind false n
  let d ← dev
  let p := d.poisonOf n
  return { idx := 0, poison := decide (p ≠ 0), detail := p, data := d.line n }

/-- An atomic on a line (R104, R205, R307): not applied to a poisoned line; the old value is the result. -/
def atomLine (n off op size : Nat) (a b : BitVec 128) : M HAns := do
  let d ← dev
  let p := d.poisonOf n
  if p ≠ 0 then return { idx := 0, status := Sc.poisoned, detail := p }
  else
    let v := d.line n
    let old := le v off (2 ^ size)
    putLine n (putLe v off (2 ^ size) (atomNew op size old a.toNat b.toNat)) 0
    markDirty n
    return { idx := 0, data := BitVec.ofNat 512 old }

/-! ## What a request needs before it can be ordered (R226, R228) -/

/-- Internal status of a request that R228 marks "violation". -/
abbrev violationMark : Nat := 0x100

/-- The Talku port of a tracked host request, if it comes from one. -/
def Src.port : Src → Option Nat
  | .tlk p m => if m.bulk then none else some p
  | _ => none

/-- Talku ports in service (R226). -/
def Dev.portsInService (d : Dev) : List Nat := (List.range 4).filter fun p => d.portState p == Ps.up || d.portState p == Ps.lowPower

/-- The snoops that must be answered before the request is ordered, as (port, is a recall), or `none` for a violation (R228). -/
def Dev.snoopsFor (d : Dev) (r : HReq) : Option (List (Nat × Bool)) :=
  let (st, ports) := d.dirOf r.line
  let recallAll := (portsOf ports).map fun p => (p, true)
  let invAll := (portsOf ports).map fun p => (p, false)
  let mine (p : Nat) := st = 2 ∧ ports = 2 ^ p
  let write : Option (List (Nat × Bool)) :=
    match r.src.port with
    | some p => if mine p then none else some (if st = 2 then recallAll else if st = 1 then invAll else [])
    | none => some (if st = 2 then recallAll else if st = 1 then invAll else [])
  match r.op with
  | .rdE => some []
  | .evict => some []
  | .wb _ => match r.src.port with
    | some p => if mine p then some [] else none
    | none => none
  | .rdU tracked => if !tracked then some [] else match r.src.port with
    | some p => if mine p then none else some (if st = 2 then recallAll else [])
    | none => some []
  | .rdS => match r.src.port with
    | some p => if mine p then none else some (if st = 2 then recallAll else [])
    | none => some []
  | .rdO => match r.src.port with
    | some p =>
      if mine p then none
      else if st = 2 then some recallAll
      else if st = 1 && !(d.poisonOf r.line != 0 || d.published r.line) then some (invAll.filter fun e => e.1 != p)
      else some []
    | none => some []
  | .wr .. => write
  | .atom .. => write

/-- Whether a request writes its line. -/
def HOp.writes : HOp → Bool
  | .wr .. => true
  | .atom .. => true
  | _ => false

/-! ## Uncorrectable lines (R102) -/

/-- A read has found a line uncorrectable: every port the directory cache records as holding it is invalidated first. Where a port
holds it Owned, the slice waits for its answer and writes what it returns, or else the line poisoned (`snoopAnswered`);
otherwise the line is written poisoned with the data bits as read and DIR Invalid (R102). -/
def uncorrectable (n : Nat) (errs : SymErrs) (byScrub : Bool) : M Unit := do
  countUe n byScrub
  let d ← dev
  let inCache := d.home.dc.any (·.line == n)
  let (st, ports) := d.dirOf n
  if inCache && st == 2 then
    modHome fun h => { h with ue := (n, d.asRead n errs) :: h.ue }
    each (portsOf ports) fun p => sendSnoop n p true
  else
    on inCache (each (portsOf ports) fun p => sendSnoop n p false)
    putLine n (d.asRead n errs) 1
    writeDir n 0 0

/-- What the decoder makes of a read of a stored line with symbol errors (R101, R102, R110): it is corrected, or handled as uncorrectable;
`who` is the request whose read it is. -/
def settleRead (who : Option Nat) (n : Nat) (byScrub : Bool) : M Unit := do
  let d ← dev
  let errs := d.errsAt n
  if errs = [] ∨ d.stackFailed (stackOf (64 * n)) then pure ()
  else
    setErrs n []
    let r ← decodeRead n errs byScrub
    match r with
    | .uncorrectable => do
      on who.isSome (modHome fun h => { h with found := (who.getD 0, n) :: h.found })
      uncorrectable n errs byScrub
    | _ => pure ()

/-- How the slice names a request in `found`: a running command, or a line of a message's group. -/
def runWho (seq : Nat) : Nat := 2 * seq
def HReq.who (r : HReq) : Nat := match r.src with | .run seq => runWho seq | _ => 2 * (r.grp * 128 + r.idx) + 1

/-- DETAIL of a poisoned line for a request: 0x20 where its own read found the line uncorrectable (R103). -/
def Dev.detailFor (d : Dev) (who n : Nat) : Nat :=
  let p := d.poisonOf n
  if p = 0x21 ∧ d.home.found.contains (who, n) then 0x20 else p

/-- Whether a request reads its line. -/
def HOp.readsLine : HOp → Bool
  | .wr mask _ pc => mask != BitVec.allOnes 64 && pc == 0
  | .wb _ => false
  | .evict => false
  | _ => true

/-- An answer with the DETAIL of R103 for the request whose read found the line uncorrectable. -/
def foundAnswer (r : HReq) (a : HAns) : M HAns := do
  let d ← dev
  let e := (r.who, r.line)
  if d.home.found.contains e then
    modHome fun h => { h with found := h.found.erase e }
    return if a.detail = 0x21 then { a with detail := 0x20 } else a
  else return a

/-! ## Serving a request -/

/-- The effect of a request on its line once nothing stands in its way (R228). -/
def applyReq (r : HReq) : M HAns := do
  let d ← dev
  let (st, ports) := d.dirOf r.line
  match r.op with
  | .rdE => readLine r.line
  | .rdU tracked => do
    on (tracked && st == 2) (writeDir r.line 0 0)
    readLine r.line
  | .rdS => do
    let a ← readLine r.line
    match r.src.port with
    | some p => writeDir r.line 1 (if st = 1 then addPort ports p else 2 ^ p)
    | none => pure ()
    return { a with shared := true }
  | .rdO => do
    let a ← readLine r.line
    match r.src.port with
    | some p =>
      if a.poison || d.published r.line then
        writeDir r.line 1 (if st = 1 then addPort ports p else 2 ^ p)
        return { a with shared := true }
      else
        writeDir r.line 2 (2 ^ p)
        return a
    | none => return a
  | .wr mask v pc => do
    let a ← writeLine r.line mask v pc
    writeDir r.line 0 0
    return a
  | .atom off op size x y => do
    let a ← atomLine r.line off op size x y
    writeDir r.line 0 0
    return a
  | .wb v => do
    let a ← writeLine r.line (BitVec.allOnes 64) v 0
    writeDir r.line 0 0
    return a
  | .evict => do
    match r.src.port with
    | some p =>
      if st = 1 then writeDir r.line 1 (dropPort ports p)
      else on (st == 2 && ports == 2 ^ p) (writeDir r.line 0 0)
    | none => pure ()
    return { idx := 0 }

/-- Whether a request writes its whole line. -/
def HOp.wholeLine : HOp → Bool
  | .wr mask _ _ => mask == BitVec.allOnes 64
  | .wb _ => true
  | _ => false

/-- Whether a request is about to write a whole line over a poisoned one, and the SNP_INVs of R226 have not yet been sent for it. -/
def Dev.mustClear (d : Dev) (r : HReq) : Bool :=
  r.op.wholeLine && (d.meta_ r.line).poison && !(d.home.inv.contains (r.who, r.line))

/-- The ports in service, which are sent SNP_INV before a poisoned line is written whole (R226). -/
def Dev.poisonSnoops (d : Dev) (r : HReq) : List Nat := if d.mustClear r then d.portsInService else []

/-- Whether a line of the same message is one that R228 marks "violation" (R267: the port does not act on such a message). -/
def Dev.groupViolates (d : Dev) (r : HReq) : Bool :=
  match r.src with
  | .tlk _ m => decide (1 < m.len) &&
      ((d.home.waiting.any fun x => x.grp == r.grp && x.src == r.src && (d.snoopsFor x).isNone) ||
        d.home.groups.any fun g => g.id == r.grp && g.got.any fun a => a.status == violationMark)
  | _ => false

/-- The line is read for its DIR where the directory cache has no entry for it (R225): the decoder's outcome is settled first. -/
def readDir (r : HReq) : M Unit := do
  let d ← dev
  on (!(d.home.dc.any (·.line == r.line))) (do
    touchLine r.line
    settleRead (some r.who) r.line false)

/-- One try at ordering a request: `some` answer when it is done, `none` when it waits for its stack, a repair, a region in
transfer, snoops, or room in the directory. -/
def tryReq (r : HReq) : M (Option HAns) := do
  let off := 64 * r.line
  let ref ← checkAccess off r.dom r.cls
  match ref with
  | some (st, dt) => return some { idx := r.idx, status := st, detail := dt }
  | none =>
    let d ← dev
    let s := stackOf off
    if d.home.snoops.any (·.line == r.line) then return none
    else if !(d.stackServes s) && !(d.stackFailed s) then return none
    else if d.repairing off then return none
    else if r.op.writes && d.published r.line then return some { idx := r.idx, status := Sc.rights, detail := 0x60 }
    else if r.op.writes && (d.ownRec (regionOf r.line)).st == 1 then return none
    else
      readDir r
      let d ← dev
      match (if d.groupViolates r then none else d.snoopsFor r) with
      | none =>
        let a ← foundAnswer r { idx := r.idx, status := violationMark, detail := 8 }
        return some a
      | some need =>
        let extra := (d.poisonSnoops r).filter fun p => !(need.any fun e => e.1 == p)
        on (d.mustClear r) (modHome fun h => { h with inv := (r.who, r.line) :: h.inv })
        each need fun e => sendSnoop r.line e.1 e.2
        each extra fun p => sendSnoop r.line p false
        let d ← dev
        if d.home.snoops.any (·.line == r.line) then return none
        else
          let takesEntry := match r.op with | .rdS => true | .rdO => true | _ => false
          let room ← if takesEntry then dcRoom r.line else pure true
          if !room then return none
          else
            touchLine r.line
            on r.op.readsLine (settleRead (some r.who) r.line false)
            let d ← dev
            if d.home.snoops.any (·.line == r.line) then return none
            else
              let a ← applyReq r
              let a ← foundAnswer r a
              modHome fun h => { h with inv := h.inv.erase (r.who, r.line) }
              return some { a with idx := r.idx }

/-! ## Answers (R227, R259, R260, R262, R281, R305) -/

/-- The answers of a group in line order. -/
def HGrp.sorted (g : HGrp) : List HAns :=
  (List.range g.need).filterMap fun i => g.got.find? (·.idx == i)

/-- One bit per poisoned line (R262). -/
def poisonMask (l : List HAns) : Nat := (l.map fun a => if a.poison then 2 ^ a.idx else 0).sum

/-- DETAIL of the first poisoned line, or 0. -/
def firstPoison (l : List HAns) : Nat := match l.find? (·.poison) with | some a => a.detail | none => 0

/-- The answer of a Talku request whose lines have all been served. -/
def answerTlk (p : Nat) (m : TMsg) (dom : Option Nat) (l : List HAns) : M Unit := do
  let d ← dev
  let load := d.load (stackOf m.addr)
  match l.find? (fun a => a.status ≠ 0) with
  | some a =>
    if a.status = violationMark then do
      countViolation p 8 m.type m.tag
      nakTlk p m 0 8
    else sendTlk p dom { type := 0x44, tag := m.tag, bulk := m.bulk, load := load, status := a.status, detail := a.detail }
  | none =>
    let pm := poisonMask l
    let dt := firstPoison l
    let datas := l.map (·.data)
    if m.type = 0x01 ∨ m.type = 0x02 then
      let t := if m.type = 0x01 ∨ l.any (·.shared) then 0x41 else 0x42
      sendTlk p dom { type := t, len := 1, tag := m.tag, load := load, poison := decide (pm ≠ 0), detail := dt, data := datas }
    else if m.type = 0x03 ∨ m.type = 0x06 then
      sendTlk p dom { type := 0x43, len := l.length, bulk := m.bulk, tag := m.tag, load := load, poison := decide (pm ≠ 0),
                      detail := dt, units := if pm ≠ 0 ∧ 1 < l.length then [BitVec.ofNat 128 pm] else [], data := datas }
    else sendTlk p dom { type := 0x44, tag := m.tag, bulk := m.bulk, load := load }

/-- The message that answers a Dorrus request (R305): DATA, ARES or CMP, back to its source. -/
def drsAnswer (node : Nat) (m : DMsg) (l : List HAns) : DMsg :=
  let base : DMsg := { dst := m.src, src := node, srcDomain := m.srcDomain, tag := m.tag, win := m.win, atag := m.atag }
  match l.find? (fun a => a.status ≠ 0) with
  | some a => { base with type := 0x42, status := a.status, detail := a.detail }
  | none =>
    let pm := poisonMask l
    if m.type = 0x01 then
      { base with type := 0x41, len := l.length, poison := decide (pm ≠ 0), detail := firstPoison l,
                  units := (if pm ≠ 0 ∧ 1 < l.length then [BitVec.ofNat 512 pm] else []) ++ l.map (·.data) }
    else if m.type = 0x04 then { base with type := 0x43, len := 1, units := l.map (·.data) }
    else { base with type := 0x42 }

/-! ## Answers to running commands (R166, R191) -/

/-- Keys of the accesses of a running command: 1 mod 4 a remote read, 2 a host miss, 3 a write (of the virtual address given), 0 an
atomic. -/
def writeKey (va : Nat) : Nat := 4 * va + 3

/-- Whether a key is a write's. -/
def isWriteKey (key : Nat) : Bool := key % 4 == 3

/-- Whether a command is a COPY or a FILL, which report the tiles that they have written (R211). -/
def Run.counts (r : Run) : Bool := le r.pkt 0 2 == 0x0400 || le r.pkt 0 2 == 0x0401

/-- A running command with the outcome of one of its accesses. A write counts down, and the first one that fails ends the command with
its status, with result the virtual address (R166, R191); a tile of a COPY or FILL with such a write counts as not written (R211). Anything
else is kept for the command under its key. -/
def Run.give (r : Run) (g : Got) : Run :=
  if isWriteKey g.key then
    let bad := decide (g.status ≠ 0) && (r.cpl.map (·.status)).getD 0 == 0
    let c : Cpl := { (r.cpl.getD {}) with status := g.status, detail := g.detail, result := g.key / 4 }
    let c' := if bad then some c else r.cpl
    let tile := g.key / 4 / 4096
    if r.counts && g.status != 0 && !(r.aux.contains tile) then
      { r with outs := r.outs - 1, aux := tile :: r.aux, cpl := c'.map fun x => { x with a := x.a - 1 } }
    else { r with outs := r.outs - 1, cpl := c' }
  else { r with got := r.got ++ [g], asked := r.asked.erase g.key }

/-- Change the running command with a sequence number. -/
def modRun (seq : Nat) (f : Run → Run) : M Unit :=
  modCmd fun c => { c with runs := c.runs.map fun r => if r.seq == seq then f r else r }

/-- A stream window that has lost copies fetches their tiles again (R196). -/
def Window.lost (w : Window) (l : List Ret) : Window :=
  { w with done := w.done.filter fun x => !(l.any fun c => c.kind == 0 && c.queue == w.queue && c.layer == x.1 && c.idx == x.2.1) }

/-- Retained copies are dropped. -/
def dropCopies (hit : Ret → Bool) : M Unit := do
  let l ← look fun d => d.own.ret.filter hit
  on (l != []) (modOwn fun o => { o with ret := o.ret.filter fun x => !hit x })
  on (l.any fun x => x.kind == 0) (modEng fun e => { e with wins := e.wins.map (·.lost l) })

/-- An access of a running command has its outcome. -/
def giveRun (seq : Nat) (g : Got) : M Unit := modRun seq fun r => r.give g

/-- The answer of a slice to a running command. -/
def answerRun (seq key : Nat) (a : HAns) : M Unit :=
  giveRun seq { key := key, status := a.status, detail := a.detail, poison := b2n a.poison, data := [a.data] }

end Sys2Proof.Machine
end

