-- ==== Sys2Proof/Machine/Fabric.lean ====
section
/-! DEFINITION. Dorrus as seen from one device: routes and trunks (R292, R299 to R303), sending a message, NOROUTE, and the
outstanding requests of this device with their tags, fences and credits (R218, R220, R303, R306, R308). -/

namespace Sys2Proof.Machine

/-! ## Routes (R299, R300, R302) -/

/-- Dimensions in the order that ORDER names: 0 X, 1 Y, 2 Z. -/
def orderDims (o : Nat) : List Nat :=
  match o with
  | 0 => [0, 1, 2]
  | 1 => [1, 2, 0]
  | 2 => [2, 0, 1]
  | 3 => [0, 2, 1]
  | 4 => [1, 0, 2]
  | _ => [2, 1, 0]

/-- Coordinate of a node in a dimension. -/
def coord (n k : Nat) : Nat := if k = 0 then nodeX n else if k = 1 then nodeY n else nodeZ n

/-- Size of a dimension. -/
def dimOf (dims : Nat × Nat × Nat) (k : Nat) : Nat := if k = 0 then dims.1 else if k = 1 then dims.2.1 else dims.2.2

/-- Steps in the positive direction from node s to node t in a dimension (R299). -/
def deltaOf (dims : Nat × Nat × Nat) (s t k : Nat) : Nat := (coord t k + dimOf dims k - coord s k) % dimOf dims k

/-- NEG of the default route: a dimension travels negative when that is strictly shorter; a tie travels positive (R299). -/
def defaultNeg (dims : Nat × Nat × Nat) (s t : Nat) : Nat :=
  ((List.range 3).map fun k => if dimOf dims k / 2 < deltaOf dims s t k then 2 ^ k else 0).sum

/-- Hops in a dimension for a direction. -/
def hopsOf (dims : Nat × Nat × Nat) (s t k : Nat) (neg : Bool) : Nat :=
  let dl := deltaOf dims s t k
  if neg then (dimOf dims k - dl) % dimOf dims k else dl

/-- A node moved by a number of links in a dimension. -/
def moveNode (dims : Nat × Nat × Nat) (n k h : Nat) (neg : Bool) : Nat :=
  let sz := dimOf dims k
  let c := if neg then (coord n k + sz - h % sz) % sz else (coord n k + h) % sz
  if k = 0 then nodeAt c (nodeY n) (nodeZ n) else if k = 1 then nodeAt (nodeX n) c (nodeZ n) else nodeAt (nodeX n) (nodeY n) c

/-- Direction code of R296: 0 +X, 1 −X, 2 +Y, 3 −Y, 4 +Z, 5 −Z. -/
def dirCode (k : Nat) (neg : Bool) : Nat := 2 * k + b2n neg

/-- The trunks that a route crosses, as (node, direction) (R300). -/
def pathTrunks (dims : Nat × Nat × Nat) (s t o neg : Nat) : List (Nat × Nat) :=
  ((orderDims o).foldl (fun (acc : Nat × List (Nat × Nat)) k =>
    let ng := neg.testBit k
    let h := hopsOf dims acc.1 t k ng
    let ts := (List.range h).map fun i => (moveNode dims acc.1 k i ng, dirCode k ng)
    (moveNode dims acc.1 k h ng, acc.2 ++ ts)) (s, [])).2

/-- The candidate routes to a destination in the order of R302, as (ORDER, NEG). -/
def candidates (dims : Nat × Nat × Nat) (s t : Nat) : List (Nat × Nat) :=
  let n0 := defaultNeg dims s t
  let rev (k : Nat) : List (Nat × Nat) :=
    if deltaOf dims s t k = 0 then [] else (List.range 6).map fun o => (o, n0 ^^^ 2 ^ k)
  (List.range 6).map (fun o => (o, n0)) ++ rev 0 ++ rev 1 ++ rev 2

/-- The first candidate whose path crosses no trunk of the dead list (R302). -/
def Dev.chooseRoute (d : Dev) (t : Nat) : Option (Nat × Nat) :=
  (candidates d.dims d.node t).find? fun c =>
    !((pathTrunks d.dims d.node t c.1 c.2).any fun x => d.fab.dead.any fun e => e.2 == x)

/-- The direction in which a switch moves a message, or `none` at its destination (R300). -/
def nextDir (here : Nat) (m : DMsg) : Option Nat :=
  ((orderDims m.order).find? fun k => coord here k ≠ coord m.dst k).map fun k => dirCode k (m.neg.testBit k)

/-- Whether the hop in a direction crosses the link between coordinate D − 1 and coordinate 0 (R300). -/
def crossesDateline (dims : Nat × Nat × Nat) (here dir : Nat) : Bool :=
  let k := dir / 2
  if dir % 2 = 0 then coord here k + 1 == dimOf dims k else coord here k == 0

/-! ## Trunks (R20, R292) -/

/-- Whether a port is the gateway's external link (R310). -/
def Dev.isExt (d : Dev) (port : Nat) : Bool :=
  decide (4 ≤ port) && d.fld A.GWY_CFG F.GWY_CFG_EXT_EN == 1 && d.fld A.GWY_CFG F.GWY_CFG_EXT_PORT == port - 4

/-- Whether a Dorrus port counts as UP for its trunk: UP or LOW_POWER, and not a gateway's external link (R292, R310). -/
def Dev.linkUp (d : Dev) (n : Nat) : Bool :=
  let st := d.portState (n + 4)
  (st == Ps.up || st == Ps.lowPower) && !(d.isExt (n + 4))

/-- When a trunk is unavailable: the tick since when; `none` while it is available. In the table 0 stands for unavailable since
tick 0 (as after reset), 1 for available, t + 2 for unavailable since tick t. -/
def Dev.trunkDownAt (d : Dev) (dir : Nat) : Option Nat :=
  match tget 0 d.fab.trunkDown dir with
  | 0 => some 0
  | 1 => none
  | t + 2 => some t

/-- Whether a trunk can carry messages now. -/
def Dev.trunkOk (d : Dev) (dir : Nat) : Bool := (d.trunkDownAt dir).isNone && (d.linkUp dir || d.linkUp (dir + 6))

/-- Parity of a number of 14 bits. -/
def parity14 (x : Nat) : Bool := ((List.range 14).filter fun i => x.testBit i).length % 2 == 1

/-- The Dorrus port on which a message leaves a trunk (R292): selected by parity, the partner when that link is not UP. -/
def Dev.trunkPort (d : Dev) (dir : Nat) (m : DMsg) : Nat :=
  let west := !(parity14 (m.src ^^^ m.dst))
  let first := if west then dir else dir + 6
  let other := if west then dir + 6 else dir
  if d.linkUp first then first else other

/-- HOLD_DOWN as it acts: at least 5,000 AON cycles. -/
def Dev.holdDown (d : Dev) : Nat := max 5000 (d.fld A.GWY_SW_CFG F.GWY_SW_CFG_HOLD_DOWN)

/-- A trunk is made unavailable from now on when neither of its links is UP (R292); DRS_STATUS.HOLD shows the hold-down. -/
def trunkCheckDown (dir : Nat) : M Unit := do
  let d ← dev
  if (d.trunkDownAt dir).isNone && !(d.linkUp dir || d.linkUp (dir + 6)) then
    modFab fun f => { f with trunkDown := tset 0 f.trunkDown dir (d.now + 2) }
    fset (A.DRS_STATUS dir) F.DRS_STATUS_HOLD 1
    fset (A.DRS_STATUS (dir + 6)) F.DRS_STATUS_HOLD 1
  else pure ()

/-- A trunk becomes available when one of its links is UP and HOLD_DOWN has passed (R292). -/
def trunkCheckUp (dir : Nat) : M Unit := do
  let d ← dev
  match d.trunkDownAt dir with
  | some t =>
    if (d.linkUp dir || d.linkUp (dir + 6)) && decide (t + d.holdDown ≤ d.now) then
      modFab fun f => { f with trunkDown := tset 0 f.trunkDown dir 1 }
      fset (A.DRS_STATUS dir) F.DRS_STATUS_HOLD 0
      fset (A.DRS_STATUS (dir + 6)) F.DRS_STATUS_HOLD 0
    else pure ()
  | none => pure ()

/-! ## Sending -/

/-- Virtual channel of a Dorrus message (R295). -/
def drsVc (m : DMsg) : Nat := 4 * drsCls m.type + 2 * b2n m.detour + b2n m.dateline

/-- A message leaves on a trunk: DATELINE and HOPS as the switch sets them, then the port's queues (R292, R296, R300). `fwd` marks a
message passed from port to port, which no shaper acts on; `dom` is the domain on whose behalf this device sends it (R323). -/
def launch (dir : Nat) (fwd : Bool) (dom : Option Nat) (m : DMsg) : M Unit := do
  let d ← dev
  let port := d.trunkPort dir m
  let m' := { m with dateline := m.dateline || crossesDateline d.dims d.node dir, hops := m.hops + 1 }
  let cls := if fwd then 4 else drsClass m
  enqueue (port + 4) cls (drsVc m') (if fwd || drsCls m.type == 0 then none else dom) (.d m')

/-- A message that turns to its next dimension clears DATELINE (R300): set when the hop's dimension is not the one the message came
in on. `came` is the dimension of the port it came in on, if it came from a port. -/
def turnDateline (came : Option Nat) (dir : Nat) (m : DMsg) : DMsg :=
  if came = some (dir / 2) then m else { m with dateline := false }

/-- Name a route in a message's header. -/
def withRoute (d : Dev) (m : DMsg) (c : Nat × Nat) : DMsg :=
  { m with order := c.1, neg := c.2, detour := decide (c ≠ (0, defaultNeg d.dims d.node m.dst)) }

/-- A trunk enters the dead list, or becomes its newest entry again; a full list replaces its oldest entry (R302). -/
def addDead (node dir : Nat) : M Unit := do
  let d ← dev
  let slot :=
    match d.fab.dead.find? (fun e => e.2 == (node, dir)) with
    | some e => e.1
    | none =>
      match (List.range 64).find? (fun i => !(d.fab.dead.any fun e => e.1 == i)) with
      | some i => i
      | none => (d.fab.dead.headD (0, 0, 0)).1
  modFab fun f => { f with dead := (f.dead.filter fun e => e.1 != slot) ++ [(slot, node, dir)] }
  wr (A.GWY_DEAD slot) (BitVec.ofNat 64 (1 + dir % 8 * 2 + node % 16384 * 16 + d.now % 2 ^ 32 * 2 ^ 32))

/-- Send a response or management message of this device on its first good route (R302): discarded when no candidate avoids the
dead list. A trunk of this device that is unavailable enters the dead list and the next candidate is tried (up to `n` times). -/
def sendOwn (dom : Option Nat) : Nat → DMsg → M Unit
  | 0, _ => pure ()
  | n + 1, m => do
    let d ← dev
    match d.chooseRoute m.dst with
    | none => pure ()
    | some c =>
      let m' := withRoute d m c
      match nextDir d.node m' with
      | none => pure ()
      | some dir =>
        if d.trunkOk dir then launch dir false dom m'
        else
          bump A.GWY_NOROUTE_CNT
          addDead d.node dir
          sendOwn dom n m

/-- Send a message that needs no fence on behalf of a domain: a response to a request served with that requester domain, or a message whose
SRC_DOMAIN it is (R323). -/
def sendDrsFor (dom : Option Nat) (m : DMsg) : M Unit := sendOwn dom 8 m

/-- Send a message that needs no fence: responses, management and bulk messages. -/
def sendDrs (m : DMsg) : M Unit := sendDrsFor (some m.srcDomain) m

/-- Send a message over the gateway's external link, on behalf of its channel's domain (R310, R323). -/
def sendExt (dom : Option Nat) (m : DMsg) : M Unit := do
  let port ← look fun d => d.fld A.GWY_CFG F.GWY_CFG_EXT_PORT + 4
  enqueue port (drsClass m) (drsVc m) (if drsCls m.type == 0 then none else dom) (.d { m with hops := m.hops + 1 })

/-! ## Outstanding requests -/

/-- RSP_TIMEOUT as it acts: at least 500 AON cycles. -/
def Dev.rspTimeout (d : Dev) : Nat := max 500 (d.fld A.GWY_SW_CFG F.GWY_SW_CFG_RSP_TIMEOUT)

/-- A request of this device has come back: the fence of its destination starts (R303). -/
def returnRq (dst tag : Nat) : M Unit := modFab fun f => { f with
  out := f.out.map (fun x => if x.m.tag == tag then { x with returned := true } else x),
  fences := if f.fences.contains dst then f.fences else f.fences ++ [dst] }

/-- A request goes onto the fabric on the route its destination uses; a trunk of this device that is unavailable returns it here
and now as NOROUTE and starts the fence (R301, R303). -/
def launchRq (o : Outst) : M Unit := do
  let d ← dev
  let r := tget 0 d.fab.routes o.m.dst - 1
  let m := withRoute d o.m (r / 8, r % 8)
  match nextDir d.node m with
  | none => pure ()
  | some dir =>
    if d.trunkOk dir then launch dir false (some m.srcDomain) m
    else do
      bump A.GWY_NOROUTE_CNT
      addDead d.node dir
      returnRq o.m.dst o.m.tag

/-! ## Messages that cannot go on (R292, R301) -/

/-- A message of another node that cannot go on is returned as NOROUTE; a returned response travels whole inside it (R298, R301). -/
def returnMsg (m : DMsg) (dir : Nat) : M Unit := do
  bump A.GWY_NOROUTE_CNT
  let d ← dev
  let base : DMsg := { type := 0x46, dst := m.src, src := d.node, srcDomain := m.srcDomain, tag := m.tag, atag := m.atag, win := m.win,
                       detail := m.type, failNode := d.node, failDir := dir }
  if m.type = 0x46 then pure ()
  else if drsCls m.type = 2 then
    sendDrs { base with len := 1 + m.len, units := lineOf (dmsgHeader m) :: m.units }
  else sendDrs base

/-- A message of this device that waited for a trunk which has become unavailable: a request starts its fence, anything else but a NOROUTE is
sent again on another route. -/
def returnOwn (m : DMsg) (dom : Option Nat) (dir : Nat) : M Unit := do
  bump A.GWY_NOROUTE_CNT
  let d ← dev
  if m.type = 0x46 then pure ()
  else do
    addDead d.node dir
    if drsCls m.type = 1 then returnRq m.dst m.tag
    else sendDrsFor dom { m with hops := 0, dateline := false }

/-- What waits in the queues of a Dorrus port. -/
def Dev.queuedOn (d : Dev) (port : Nat) : List Egr := (d.trf.classq ++ d.trf.shaper).filter fun e => e.port == port

/-- A message that waited for a trunk does not leave on it (R301). -/
def bounce (dir : Nat) (e : Egr) : M Unit :=
  match e.msg with
  | .t _ => pure ()
  | .d m => if e.cls = 4 then returnMsg { m with hops := m.hops - 1 } dir else returnOwn m e.dom dir

/-- The messages of a trunk that wait at a port whose link does not carry them: the partner link takes them over, or they are returned where
the trunk is unavailable (R292, R301). -/
def settlePort (port : Nat) : M Unit := do
  let d ← dev
  let dir := (port - 4) % 6
  let other := 4 + (port - 4 + 6) % 12
  if d.linkUp (port - 4) && (d.trunkDownAt dir).isNone then pure ()
  else if d.linkUp (other - 4) && (d.trunkDownAt dir).isNone then
    let mv (e : Egr) : Egr := if e.port == port then { e with port := other } else e
    modTrf fun t => { t with classq := t.classq.map mv, shaper := t.shaper.map mv }
  else do
    let l := d.queuedOn port
    modTrf fun t => { t with classq := t.classq.filter (fun e => e.port != port), shaper := t.shaper.filter fun e => e.port != port }
    each l (bounce dir)

/-- Whether the requests to a destination are held: a route fence, an earlier request that awaits its credit or is not yet known to be admitted
with it, or an earlier request that is held (R220, R303). -/
def Dev.holdsFor (d : Dev) (dst : Nat) : Bool :=
  d.fab.fences.contains dst || d.fab.out.any fun o => o.m.dst == dst && (o.credWait.isSome || o.m.credit.isSome || o.heldBack)

/-- Whether a node's bit is set in TOP_EXPEL_MAP, and in TOP_SHADOW_MAP (R498, R501). -/
def Dev.expelled (d : Dev) (n : Nat) : Bool := bit (d.reg (A.TOP_EXPEL_MAP (n % 16384 / 64))) (n % 64)
def Dev.shadowed (d : Dev) (n : Nat) : Bool := bit (d.reg (A.TOP_SHADOW_MAP (n % 16384 / 64))) (n % 64)

/-- STATE of TOP_RES_STATUS: 0 MEMBER, 1 EXPELLED, 2 SHADOW (R506). -/
def Dev.resState (d : Dev) : Nat := d.fld A.TOP_RES_STATUS F.TOP_RES_STATUS_STATE

/-- Issue a remote request of a command (R176): one to an expelled node ends TIMEOUT 0x80 at once (R498), a write or an atomic of a shadow
ends RIGHTS 0xE0 (R502); it takes a tag (and an ATAG when it is an atomic, R308), is held when its
destination is held, and ends TIMEOUT 0x81 at once when no route avoids the dead list (R302). -/
def issueRq (m0 : DMsg) (seq key : Nat) : M Unit := do
  let d ← dev
  if d.expelled m0.dst then giveRun seq { key := key, status := Sc.timeout, detail := 0x80 }
  else if d.resState = 2 ∧ m0.type ≠ 1 then giveRun seq { key := key, status := Sc.rights, detail := 0xE0 }
  else match d.chooseRoute m0.dst with
  | none => giveRun seq { key := key, status := Sc.timeout, detail := 0x81 }
  | some c =>
    let isAtom := m0.type == 4
    let at0 := max 1 (tget 1 d.fab.atags m0.dst)
    let m : DMsg := { m0 with src := d.node, tag := d.fab.nextTag, atag := if isAtom then at0 else m0.atag,
                              srcBoot := if isAtom then d.fld A.GWY_SRC_BOOT F.GWY_SRC_BOOT_BOOT else 0 }
    let hold := d.holdsFor m0.dst
    let o : Outst := ⟨m, seq, key, d.now + d.rspTimeout, none, false, hold, 1, d.now⟩
    modFab fun f => { f with
      nextTag := (f.nextTag + 1) % 65536,
      out := f.out ++ [o],
      atags := if isAtom then tset 1 f.atags m0.dst (if at0 = 0xFFFFFF then 1 else at0 + 1) else f.atags,
      routes := if tget 0 f.routes m0.dst = 0 then tset 0 f.routes m0.dst (1 + c.1 * 8 + c.2) else f.routes }
    on (!hold) (launchRq o)

/-- The outstanding request with a tag. -/
def Dev.outst (d : Dev) (tag : Nat) : Option Outst := d.fab.out.find? (·.m.tag == tag)

/-- A request has ended: it leaves the table. -/
def dropOutst (tag : Nat) : M Unit := modFab fun f => { f with out := f.out.filter fun o => o.m.tag != tag }

end Sys2Proof.Machine
end

