-- ==== Sys2Proof/Machine/Stencil.lean ====
section
/-! DEFINITION. Stencil: contexts and the device table (R159 to R163), translation (R164 to R166), miss service (R168, R169), the
window table (R177) and the steps of an invalidation (R173, R174). -/

namespace Sys2Proof.Machine

/-! ## Contexts and descriptors (R159 to R162) -/

def Dev.ctxBound (d : Dev) (c : Nat) : Bool := d.fld (A.STN_CTX_CFG c) F.STN_CTX_CFG_STATE == 1
def Dev.ctxDom (d : Dev) (c : Nat) : Nat := d.fld (A.STN_CTX_CFG c) F.STN_CTX_CFG_DOMAIN
def Dev.ctxPort (d : Dev) (c : Nat) : Nat := d.fld (A.STN_CTX_CFG c) F.STN_CTX_CFG_PORT
def Dev.validSegs (d : Dev) (c : Nat) : Nat := d.fld (A.STN_CTX_CFG c) F.STN_CTX_CFG_VALID_SEGS
def Dev.invGen (d : Dev) (c : Nat) : Nat := d.fld (A.STN_CTX_CFG c) F.STN_CTX_CFG_INV_GEN

/-- A segment descriptor in the layout of R162. -/
structure Seg where
  valid : Bool
  r : Bool
  w : Bool
  a : Bool
  cls : Nat
  isRemote : Bool
  base : Nat
  lenM1 : Nat
  tgt : Nat
  win : Nat
  node : Nat
deriving DecidableEq, Repr

/-- The fields of a descriptor's two words. -/
def segOf (w0 w1 : Word) : Seg :=
  { valid := bit w0 0, r := bit w0 1, w := bit w0 2, a := bit w0 3, cls := bits w0 4 1, isRemote := bit w0 5, base := bits w0 21 27,
    lenM1 := bits w1 0 18, tgt := bits w1 21 18, win := bits w1 39 11, node := bits w1 50 14 }

/-- First virtual address of a segment, and its length in bytes. -/
def Seg.lo (s : Seg) : Nat := s.base <<< 21
def Seg.len (s : Seg) : Nat := (s.lenM1 + 1) <<< 21

/-- Whether a segment covers a virtual address. -/
def Seg.covers (s : Seg) (va : Nat) : Bool := decide (s.lo ≤ va) && decide (va < s.lo + s.len)

/-- Whether two segments overlap. -/
def Seg.overlaps (s t : Seg) : Bool := decide (s.lo < t.lo + t.len) && decide (t.lo < s.lo + s.len)

/-- SEG[i] of a context as the device table holds it, if its entry is valid. -/
def Dev.seg (d : Dev) (c i : Nat) : Option Seg :=
  if tb (d.validSegs c) i then some (segOf (d.reg (A.STN_SEG0 c i)) (d.reg (A.STN_SEG1 c i))) else none

/-- The valid device-table entry of a context that covers a virtual address. -/
def Dev.findSeg (d : Dev) (c va : Nat) : Option (Nat × Seg) :=
  (List.range 8).findSome? fun i => match d.seg c i with
    | some s => if s.covers va then some (i, s) else none
    | none => none

/-- Reserved fields of a descriptor that are not zero (R162). -/
def segReserved (w0 w1 : Word) : Bool := bits w0 6 15 != 0 || bits w0 48 16 != 0 || bits w1 18 3 != 0

/-- The first check of R163 that a descriptor fails, as (status, DETAIL). `others` are the segments it must not overlap. -/
def Dev.segCheck (d : Dev) (w0 w1 : Word) (others : List Seg) : Option (Nat × Nat) :=
  let s := segOf w0 w1
  if segReserved w0 w1 then some (Sc.malformed, 0x01)
  else if 2 ^ 48 < s.lo + s.len then some (Sc.malformed, 0x41)
  else if 2 ^ 39 < (s.tgt <<< 21) + s.len then some (Sc.malformed, 0x41)
  else if (if s.isRemote then !(d.inSpan s.node) || s.node == d.node else s.win != 0 || s.node != 0) then some (Sc.malformed, 0x43)
  else if others.any s.overlaps then some (Sc.malformed, 0x42)
  else none

/-- Write a device-table entry. -/
def installSeg (c i : Nat) (w0 w1 : Word) : M Unit := do
  wr (A.STN_SEG0 c i) w0
  wr (A.STN_SEG1 c i) w1
  let v ← fget (A.STN_CTX_CFG c) F.STN_CTX_CFG_VALID_SEGS
  fset (A.STN_CTX_CFG c) F.STN_CTX_CFG_VALID_SEGS (v ||| 2 ^ i)

/-- Make a device-table entry invalid. -/
def dropSeg (c i : Nat) : M Unit := do
  wr (A.STN_SEG0 c i) 0
  wr (A.STN_SEG1 c i) 0
  let v ← fget (A.STN_CTX_CFG c) F.STN_CTX_CFG_VALID_SEGS
  fset (A.STN_CTX_CFG c) F.STN_CTX_CFG_VALID_SEGS (if tb v i then v - 2 ^ i else v)

/-- INV_GEN of a context moves on (R168). -/
def bumpGen (c : Nat) : M Unit := do
  let g ← look fun d => d.invGen c
  fset (A.STN_CTX_CFG c) F.STN_CTX_CFG_INV_GEN ((g + 1) % 65536)

/-! ## Translation (R164) -/

/-- Rights that an access needs. -/
inductive Right where
  | r
  | w
  | a
deriving DecidableEq, Repr

/-- Whether a segment grants a right. -/
def Seg.grants (s : Seg) : Right → Bool
  | .r => s.r
  | .w => s.w
  | .a => s.a

/-- Where a translated access goes: a local offset with the class of the segment, or a window on another device. -/
inductive Tgt where
  | loc (off cls : Nat)
  | win (node win off cls : Nat)
deriving DecidableEq, Repr

/-- Why the work of a running command stops for now: it has failed; a host miss is needed for a virtual address of a context; a remote
message is to be sent under a key; a line of the local store holds symbol errors that its read has still to decode; or the line
cannot be read yet. -/
inductive Stop where
  | fail (c : Cpl)
  | miss (ctx va : Nat)
  | need (key : Nat) (m : DMsg)
  | decode (n : Nat)
  | wait
deriving Repr

/-- Key of a host miss in `Run.got`. -/
def missKey (c va : Nat) : Nat := 4 * (c * 2 ^ 27 + va >>> 21) + 2

/-- What a running command has been handed under a key. -/
def Run.find (r : Run) (key : Nat) : Option Got := r.got.find? (·.key == key)

/-- A failure whose result is the failing virtual address (R166). -/
def failAt (status detail va : Nat) : Stop := .fail { status := status, detail := detail, result := va }

/-- Translation of a virtual address in a context for a running command (R164). Every entry of an agent's cache is an entry of the device
table, from which an invalidation takes it at the same step (R173), so the table gives what the first level that holds it would give;
which level a lookup reaches is accounted for apart. An access whose own miss has failed fails, whatever has been filled meanwhile (R168). -/
def Dev.translate (d : Dev) (r : Run) (c va : Nat) (right : Right) : Except Stop Tgt :=
  if 2 ^ 48 ≤ va then .error (failAt Sc.malformed 0x40 va)
  else if !(d.ctxBound c) then .error (failAt Sc.rights 0x42 va)
  else match r.find (missKey c va) with
    | some g => .error (failAt g.status g.detail va)
    | none => match d.findSeg c va with
      | some (_, s) =>
        if !(s.grants right) then .error (failAt Sc.rights 0x41 va)
        else
          let off := (s.tgt <<< 21) + (va - s.lo)
          .ok (if s.isRemote then .win s.node s.win off s.cls else .loc off s.cls)
      | none => if d.validSegs c = 0xff then .error (failAt Sc.rights 0x40 va) else .error (.miss c va)

/-! ## The agents' caches (R165, R185) -/

/-- Agents of the tiles' caches and of the look-ahead of their stream engines. -/
def tileAgent (t : Nat) : Nat := 512 + t
def streamAgent (t : Nat) : Nat := 576 + t

/-- Entries of an agent's cache: 4 of a cell, 8 of the others; the look-ahead of a stream engine holds the translations of 16 tiles. -/
def cacheCap (a : Nat) : Nat := if a < 512 then 4 else if 576 ≤ a ∧ a < 640 then 16 else 8

/-- An entry enters an agent's cache, or becomes its most recently used one; the least recently used one gives way. -/
def fillCache (a e : Nat) : M Unit :=
  modStn fun s => { s with caches := tset [] s.caches a ((e :: (tget [] s.caches a).erase e).take (cacheCap a)) }

/-- A lookup in a tile's cache, counted; with `fills` the entry found there or in the device table enters it. -/
def lookTile (t : Nat) (e : Option Nat) (fills : Bool) : M Unit := do
  let l ← look fun d => tget [] d.stn.caches (tileAgent t)
  bump48 (if e.any l.contains then A.TTC_HIT_CNT t else A.TTC_MISS_CNT t) 1
  on fills (each e.toList (fillCache (tileAgent t)))

/-- A lookup by a cell: its own cache, then its tile's. -/
def lookCell (c : Nat) (e : Option Nat) (fills : Bool) : M Unit := do
  let l ← look fun d => tget [] d.stn.caches c
  on (!(e.any l.contains)) (do
    bump48 (A.TTC_CELL_MISS_CNT (c / 8)) 1
    lookTile (c / 8) e fills)
  on fills (each e.toList (fillCache c))

/-- A lookup by an agent, through the caches that R165 gives it. -/
def lookAgent (a : Nat) (e : Option Nat) (fills : Bool) : M Unit :=
  if a < 512 then lookCell a e fills
  else if a < 576 then lookTile (a - 512) e fills
  else if a < 640 then lookTile (a - 576) e fills
  else on fills (each e.toList (fillCache a))

/-- The kind of agent that translates for a command (R165, assumption log 17): cells for MATMUL, the Curd engine, the router and search array
control for theirs, and a tile's command processor, expander, search unit or stream engine for the rest. -/
inductive Xlat where
  | cell
  | tile
  | crd
  | router
  | search
deriving DecidableEq, Repr

def Run.xlat (r : Run) : Xlat :=
  match r.iss with
  | .bg _ => if r.aux.headD 0 = 0 then .tile else .crd
  | _ =>
    let op := le r.pkt 0 2
    if op = 0x0500 then .cell
    else if op = 0x0501 then .router
    else if 0x0600 ≤ op ∧ op ≤ 0x0603 then .crd
    else if 0x0700 ≤ op ∧ op ≤ 0x0703 then .search
    else .tile

/-! ## Miss service (R168, R169) -/

/-- MISS_TIMEOUT and ACK_TIMEOUT as they act (R184). -/
def Dev.missTimeout (d : Dev) : Nat := max 500 (d.fld A.STN_CFG F.STN_CFG_MISS_TIMEOUT)
def Dev.ackTimeout (d : Dev) : Nat := max 50 (d.fld A.STN_CFG F.STN_CFG_ACK_TIMEOUT)

/-- The two units of a MISS_REQ (R263). -/
def missUnits (c gran gen : Nat) (base : Word) : List (BitVec 128) :=
  [BitVec.ofNat 128 (c + gen * 2 ^ 16 + gran * 2 ^ 32 + base.toNat * 2 ^ 64), 0]

/-- Send the request of a miss that has an entry (R168). -/
def sendMiss (m : Miss) (tag : Nat) : M Unit := do
  let d ← dev
  bump A.STN_MISS_CNT
  sendTlk (d.ctxPort m.ctx) none { type := 0x62, tag := tag, units := missUnits m.ctx m.gran (d.invGen m.ctx) (d.reg (A.STN_CTX_BASE m.ctx)) }

/-- A free entry among the 128. -/
def Dev.freeMissTag (d : Dev) : Option Nat :=
  (List.range 128).find? fun t => !(d.stn.misses.any fun m => m.tag == some t)

/-- Give a free entry to the first miss that waits for one: its timer starts (R169). -/
def startWaitingMiss : M Unit := do
  let d ← dev
  match d.freeMissTag, d.stn.misses.find? (fun m => m.tag.isNone) with
  | some t, some m =>
    let m' : Miss := { m with tag := some t, gen := d.invGen m.ctx, start := d.now }
    modStn fun s => { s with misses := s.misses.map fun x => if x == m then m' else x }
    sendMiss m' t
  | _, _ => pure ()

/-- A running command told of the end of a miss; with status 0 it only translates again. -/
def Run.missEnded (r : Run) (key status detail : Nat) : Run :=
  if r.asked.contains key then
    { r with asked := r.asked.erase key, got := if status = 0 then r.got else r.got ++ [{ key := key, status := status, detail := detail }] }
  else r

/-- Fields of CMD_Q_CFG of a queue. -/
def Dev.qcfg (d : Dev) (q : Nat) (f : Fld) : Nat := d.fld (A.CMD_Q_CFG q) f

/-- First tile and number of tiles of a queue's tile set (R64). -/
def Dev.tileFirst (d : Dev) (q : Nat) : Nat := d.qcfg q F.CMD_Q_CFG_TILE_FIRST
def Dev.tileCount (d : Dev) (q : Nat) : Nat := d.qcfg q F.CMD_Q_CFG_TILE_COUNT_M1 + 1

/-- The tiles whose agents waited for a miss count the cycles: which tile of a command's set waited and for how long is free (assumption log 17). -/
def countStall (key : Nat) : M Unit := do
  let d ← dev
  each (d.cmd.runs.filter fun r => r.asked.contains key && (r.xlat == .cell || r.xlat == .tile)) fun r => match r.iss with
    | .q q => do
      let k ← freeBelow (d.tileCount q)
      bump48 (A.TTC_STALL_CNT (d.tileFirst q + k)) (← freeBelow (2 ^ 48))
    | _ => pure ()

/-- A miss has ended: the streams that wait for it are told, or translate again when it was filled (status 0). -/
def endMiss (m : Miss) (status detail : Nat) : M Unit := do
  modStn fun s => { s with misses := s.misses.filter fun x => !(x.ctx == m.ctx && x.gran == m.gran) }
  let key := 4 * (m.ctx * 2 ^ 27 + m.gran) + 2
  countStall key
  modCmd fun c => { c with runs := c.runs.map fun r => r.missEnded key status detail }
  startWaitingMiss

/-- Whether a running command has asked under a key. -/
def Dev.hasAsked (d : Dev) (seq key : Nat) : Bool := d.cmd.runs.any fun x => x.seq == seq && x.asked.contains key

/-- A new miss waits for an entry. -/
def addMiss (m : Miss) : M Unit := do
  modStn fun s => { s with misses := s.misses ++ [m] }
  startWaitingMiss

/-- A running command waits for a host miss (R168, R169): one request for each context and granule. -/
def askMiss (r : Run) (c va : Nat) : M Unit := do
  let d ← dev
  let key := missKey c va
  if d.hasAsked r.seq key then pure ()
  else
    modRun r.seq fun x => { x with asked := x.asked ++ [key] }
    if d.stn.misses.any fun m => m.ctx == c && m.gran == va >>> 21 then
      modStn fun s => { s with misses := s.misses.map fun m => if m.ctx == c && m.gran == va >>> 21 then { m with ahead := false } else m }
    else if d.portState (d.ctxPort c) = Ps.quarantined then giveRun r.seq { key := key, status := Sc.quarantined, detail := 0x40 }
    else addMiss { ctx := c, gran := va >>> 21, va := va, tag := none, gen := 0, start := 0 }

/-- A prefetch translation that reaches the host starts the miss at once; nothing waits for it (R172). -/
def aheadMiss (c va : Nat) : M Unit := do
  let d ← dev
  if (d.stn.misses.any fun m => m.ctx == c && m.gran == va >>> 21) ∨ d.portState (d.ctxPort c) = Ps.quarantined then pure ()
  else addMiss { ctx := c, gran := va >>> 21, va := va, tag := none, gen := 0, start := 0, ahead := true }

/-- Misses of a quarantined port fail (R169). -/
def failMissesOfPort (p : Nat) : M Unit := do
  let l ← look fun d => d.stn.misses.filter fun m => d.ctxPort m.ctx == p
  each l fun m => endMiss m Sc.quarantined 0x40

/-- Misses of a released context fail (R169). -/
def failMissesOfCtx (c : Nat) : M Unit := do
  let l ← look fun d => d.stn.misses.filter fun m => m.ctx == c
  each l fun m => endMiss m Sc.rights 0x42

/-- The outstanding miss with a tag. -/
def Dev.missOf (d : Dev) (tag : Nat) : Option Miss := d.stn.misses.find? fun m => m.tag == some tag

/-- A miss has no usable reply in time (R169). -/
def missTimeout (tag : Nat) : M Unit := do
  let d ← dev
  match d.missOf tag with
  | none => pure ()
  | some m =>
    passTo (m.start + d.missTimeout)
    on (!m.ahead) (do
      bump A.STN_MISS_TO_CNT
      raise Ev.missTimeout 0 m.ctx (some (d.ctxDom m.ctx)) 0 0 m.va)
    endMiss m Sc.timeout 0x40

/-- A reply that fails its checks (R169). -/
def badFill (m : Miss) : M Unit := do
  let d ← dev
  on (!m.ahead) (raise Ev.badFill 0 m.ctx (some (d.ctxDom m.ctx)) 0 0 m.va)
  endMiss m Sc.malformed 0x44

/-- Install a filled segment; other misses of the context that it covers keep their own requests (R168). -/
def fillMiss (m : Miss) (seg : Nat) (w0 w1 : Word) : M Unit := do
  installSeg m.ctx seg w0 w1
  endMiss m 0 0

/-- A reply to an outstanding miss (R168). -/
def takeReply (m : Miss) (tag : Nat) (u0 u1 : BitVec 128) : M Unit := do
  let d ← dev
  let seg := bits u0 8 3
  let w0 : Word := u1.setWidth 64
  let w1 : Word := (u1 >>> 64).setWidth 64
  if bits u0 0 8 ≠ m.ctx then badFill m
  else if bits u0 16 16 ≠ d.invGen m.ctx then do
    bump A.STN_STALE_CNT
    modStn fun s => { s with misses := s.misses.map fun x => if x == m then { x with gen := d.invGen m.ctx } else x }
    sendMiss m tag
  else if bit u0 15 then endMiss m Sc.rights 0x40
  else if !(bit w0 0) || (d.segCheck w0 w1 ((List.range 8).filterMap (d.seg m.ctx))).isSome || !((segOf w0 w1).covers m.va)
      || (d.seg m.ctx seg).isSome then badFill m
  else fillMiss m seg w0 w1

/-! ## The window table (R176, R177) -/

/-- A window of the receiver (R184). -/
def Dev.win (d : Dev) (w : Nat) : Word := d.reg (A.STN_WIN w)

/-- The first check of R177 that a Dorrus request fails, or the local offset, the requester domain and the class it passes with. -/
def Dev.winCheck (d : Dev) (m : DMsg) (right : Right) : Sum (Nat × Nat) (Nat × Nat × Nat) :=
  let v := d.win m.win
  let dom := m.win / 64
  if !(bit v 0) then .inl (Sc.rights, 0x45)
  else if d.domState dom ≠ 1 then .inl (Sc.rights, 0x33)
  else if !((bit v 5 || m.src == bits v 11 14) && m.srcDomain == bits v 6 5) then .inl (Sc.rights, 0x46)
  else if !(match right with | .r => bit v 1 | .w => bit v 2 | .a => bit v 3) then .inl (Sc.rights, 0x47)
  else if m.cls ≠ bits v 4 1 then .inl (Sc.rights, 0x48)
  else if (bits v 43 18 + 1) <<< 21 ≤ m.woff then .inl (Sc.rights, 0x49)
  else .inr ((bits v 25 18 <<< 21) + m.woff, dom, bits v 4 1)

/-- Whether requests that passed R177 for one of some windows are not yet ordered at their home slices (R135, R179). -/
def Dev.winPassed (d : Dev) (isOf : Nat → Bool) : Bool :=
  let hit (s : Src) : Bool := match s with | .drs m => isOf m.win | _ => false
  (d.home.waiting.any fun h => hit h.src) || d.trf.ing.any fun i => hit i.src

/-! ## Invalidation (R173, R174) -/

/-- Number of agents that acknowledge (R173): 512 cells, 64 tile caches, 64 stream engines, 16 Curd engines, the search array control
and the router, numbered in that order. -/
abbrev agentCount : Nat := 658

/-- The tile of an agent, if it has one. -/
def agentTile (a : Nat) : Option Nat :=
  if a < 512 then some (a / 8) else if a < 576 then some (a - 512) else if a < 640 then some (a - 576) else none

/-- Whether a tile is gated. -/
def Dev.tileGated (d : Dev) (t : Nat) : Bool := bit (d.reg A.PWR_TILE_GATED) t

/-- Whether an agent's half is held in reset. -/
def Dev.agentHalfDown (d : Dev) (a : Nat) : Bool :=
  match agentTile a with
  | some t => d.halfDown (decide (32 ≤ t))
  | none => if a < 656 then d.halfDown (decide (8 ≤ a - 640)) else false

/-- Agents whose acknowledgement Stencil gives at once (R174). -/
def Dev.ackedAtOnce (d : Dev) : List Nat :=
  (List.range agentCount).filter fun a =>
    d.agentHalfDown a || (match agentTile a with | some t => d.tileGated t | none => false)

/-- Cached translations of entries of the device table that are no longer valid; from step 1 of an invalidation on no lookup hits them (R173). -/
def dropCached (es : List Nat) : M Unit :=
  modStn fun s => { s with caches := (s.caches.map fun c => (c.1, c.2.filter fun e => !(es.contains e))).filter fun c => c.2 != [] }

/-- A reset or gated agent loses all its translations. -/
def dropAgents (hit : Nat → Bool) : M Unit := modStn fun s => { s with caches := s.caches.filter fun c => !hit c.1 }

/-- Steps 1 and 2 of the invalidation at the head of the list: the generation moves on, the entries that overlap the range become
invalid, every agent is told, and those that cannot answer are acknowledged for (R173, R174). -/
def beginInval : M Unit := do
  let d ← dev
  match d.stn.invals with
  | [] => pure ()
  | i :: rest =>
    bumpGen i.ctx
    let hit := (List.range 8).filter fun s => match d.seg i.ctx s with
      | some g => decide (g.lo < i.hi) && decide (i.lo < g.lo + g.len)
      | none => false
    each hit fun s => dropSeg i.ctx s
    dropCached (hit.map fun s => 8 * i.ctx + s)
    modStn fun s => { s with invals := { i with count := hit.length, acked := d.ackedAtOnce, due := d.now + d.ackTimeout } :: rest }
    fset A.STN_STATUS F.STN_STATUS_INV_BUSY 1

/-- Add an invalidation; it begins at once when none runs (R173). -/
def addInval (i : Inval) : M Unit := do
  let idle ← look fun d => d.stn.invals.isEmpty
  modStn fun s => { s with invals := s.invals ++ [i] }
  on idle beginInval

/-- A context becomes FREE (R160). -/
def freeCtx (c : Nat) : M Unit := do
  let g ← look fun d => d.invGen c
  wr (A.STN_CTX_CFG c) (F.STN_CTX_CFG_INV_GEN.put 0 g)
  wr (A.STN_CTX_BASE c) 0
  each (List.range 8) fun s => do
    wr (A.STN_SEG0 c s) 0
    wr (A.STN_SEG1 c s) 0
  failMissesOfCtx c

/-- The invalidation at the head of the list has all its acknowledgements (R173, step 4). -/
def finishInval : M Unit := do
  let d ← dev
  match d.stn.invals with
  | [] => pure ()
  | i :: rest =>
    if agentCount ≤ i.acked.length then
      bump A.STN_INV_CNT
      on i.release (freeCtx i.ctx)
      modRun i.seq fun r => { r with cpl := some { detail := if i.reset.isSome then 0x40 else 0, a := i.count, b := agentCount,
                                                   result := i.reset.getD 0 } }
      modStn fun s => { s with invals := rest }
      fset A.STN_STATUS F.STN_STATUS_INV_BUSY 0
      beginInval
    else pure ()

/-- An agent acknowledges: it has dropped what it held (R173, step 3). -/
def ackInval (a : Nat) : M Unit := do
  let d ← dev
  match d.stn.invals with
  | [] => pure ()
  | i :: rest =>
    if i.acked.contains a then pure ()
    else
      modStn fun s => { s with invals := { i with acked := i.acked ++ [a] } :: rest }
      finishInval

/-- Agents that have just been gated or put in reset are acknowledged for at once (R174). -/
def ackIdle : M Unit := do
  let d ← dev
  match d.stn.invals with
  | [] => pure ()
  | i :: rest =>
    modStn fun s => { s with invals := { i with acked := i.acked ++ d.ackedAtOnce.filter fun a => !(i.acked.contains a) } :: rest }
    finishInval

/-- The agents that have not acknowledged in time are reset, which counts as their acknowledgement (R174). -/
def ackTimeout : M Unit := do
  let d ← dev
  match d.stn.invals with
  | [] => pure ()
  | i :: rest =>
    passTo i.due
    let late := (List.range agentCount).filter fun a => !(i.acked.contains a)
    each late fun a => raise Ev.ackTimeout 0 a
    dropAgents late.contains
    modStn fun s => { s with invals := { i with acked := i.acked ++ late, reset := if i.reset.isNone then late.head? else i.reset } :: rest }
    finishInval

end Sys2Proof.Machine
end

