-- ==== Sys2Proof/Machine/Serve.lean ====
section
/-! DEFINITION. Requests at the home slices: admission with credits (R217 to R221), serving in home order, finished groups, the
replay table of atomics (R309), landings (R312), snoop answers and timeouts (R229, R230), the walk of a lost port (R231) and
the on-die accesses. -/

namespace Sys2Proof.Machine

/-! ## Finished groups -/

/-- serial_le24 of R309. -/
def serialLe24 (a b : Nat) : Bool := decide ((b + 2 ^ 24 - a % 2 ^ 24) % 2 ^ 24 < 2 ^ 23)

/-- An entry leaves the replay table, and the age of its source moves on (R309). -/
def dropReplay (e : Replay) : M Unit := modFab fun f =>
  let old := tget 0 f.aged e.src
  { f with replay := f.replay.erase e, aged := tset 0 f.aged e.src (if serialLe24 old e.atag then e.atag else old) }

/-- Record an atomic's answer in the replay table of its home slice, whose oldest entry makes room where the slice's 16,384 are in use; an
answer to a source that has been reset since is not kept (R309). -/
def recordReplay (m ans : DMsg) : M Unit := do
  let d ← dev
  on (tget 0 d.fab.boot m.src == m.srcBoot) (do
    let mine := d.fab.replay.filter fun e => e.slc == stackOf m.woff
    match mine with
    | e :: _ => on (decide (16384 ≤ mine.length)) (dropReplay e)
    | [] => pure ()
    modFab fun f => { f with replay := f.replay ++ [⟨m.src, m.atag, stackOf m.woff, ans, d.now⟩] })

/-- Whether two messages are copies of one atomic (R308, R309). -/
def sameAtom (a b : DMsg) : Bool := a.src == b.src && a.atag == b.atag && a.srcBoot == b.srcBoot

/-- Copies of an atomic that came while its first copy waited at the home are answered with the recorded result (R206). -/
def answerCopies (m ans : DMsg) (dom : Option Nat) : M Unit := do
  let l ← look fun d => d.fab.dups.filter (sameAtom m)
  modFab fun f => { f with dups := f.dups.filter fun x => !(sameAtom m x) }
  each l fun x => do
    bump A.GWY_REPLAY_HIT_CNT
    sendDrsFor dom { ans with tag := x.tag }

/-- The home of a gateway channel's tile answers it: over the external link, or over the fabric where none is in use (R312). -/
def ackLanding (m : DMsg) (dom : Option Nat) : M Unit := do
  let d ← dev
  let ack : DMsg := { type := 0x71, dst := m.src, src := d.node, tag := m.tag, win := m.win, srcDomain := dom.getD 0 }
  if d.fld A.GWY_CFG F.GWY_CFG_EXT_EN = 1 then sendExt dom ack else sendDrsFor dom ack

/-- The answer to a read that fills an owned-region copy carries the EPOCH where the home's record says that the requester owns the region with
it; else 0, which marks the data transient (R239, assumption log 128). -/
def Dev.markFill (d : Dev) (m a : DMsg) : DMsg :=
  let o := d.ownRec (m.woff >>> 21)
  if m.type = 1 ∧ a.type = 0x41 then { a with atag := if o.st = 2 ∧ o.owner = m.src ∧ o.epoch = m.atag then m.atag else 0 } else a

/-- The answer of a finished group goes to its source. A landing's group is followed by the write of the record line, which `openLanded`
hands to the slices. -/
def finishGroup (g : HGrp) (dom : Option Nat) : M Unit := do
  match g.src with
  | .tlk p m => answerTlk p m dom g.sorted
  | .drs m => do
    let d ← dev
    let a := d.markFill m (drsAnswer d.node m g.sorted)
    on (m.type == 4) (recordReplay m a)
    sendDrsFor dom a
    on (m.type == 4) (answerCopies m a dom)
  | .land _ => pure ()
  | .landed m => ackLanding m dom
  | .run _ => pure ()
  | .nowhere => pure ()

/-- Open a group for a message of several lines and build its line requests. -/
def openGroup (src : Src) (ops : List HOp) (firstLine : Nat) (dom cls : Option Nat) : M (List HReq) := do
  let id ← look fun d => d.home.nextGrp
  modHome fun h => { h with nextGrp := id + 1, groups := h.groups ++ [⟨id, src, ops.length, []⟩] }
  return (List.range ops.length).map fun i => ⟨id, i, src, ops.getD i .rdE, firstLine + i, dom, cls⟩

/-- All lines of a landing tile are ordered: the tile is counted, and the record line of its channel is to be written whole, as a write of
the channel's domain (R312). -/
def openLanded (m : DMsg) (dom : Option Nat) : M Unit := do
  fadd A.GWY_LAND_CNT ⟨0, 48⟩ 1
  let d ← dev
  let n := bits (d.reg (A.GWY_CHAN2 m.win)) 0 33
  let count := d.fld A.GWY_LAND_CNT ⟨0, 48⟩
  let l ← openGroup (.landed m) [.wr (BitVec.allOnes 64) (putLe (putLe 0 0 8 count) 8 8 m.woff) 0] n dom none
  modHome fun h => { h with waiting := h.waiting ++ l }

/-- One line of a group has been answered; the group's answer is built when the last line has been served (R260). -/
def giveAnswer (r : HReq) (a : HAns) : M Unit := do
  match r.src with
  | .run seq => answerRun seq r.grp a
  | _ =>
    let d ← dev
    match d.home.groups.find? (·.id == r.grp) with
    | none => pure ()
    | some g =>
      let g' := { g with got := g.got ++ [a] }
      if g.need ≤ g'.got.length then
        modHome fun h => { h with groups := h.groups.filter fun x => x.id != r.grp }
        match g.src with
        | .land m => openLanded m r.dom
        | _ => finishGroup g' r.dom
      else modHome fun h => { h with groups := h.groups.map fun x => if x.id == r.grp then g' else x }

/-! ## Serving in home order (R187, R217) -/

/-- Who issued a request, where its issuer's requests are ordered one after another (R188, R189, R312): a running command, a Dorrus source or
the gateway of a landing tile. -/
def HReq.issuer (r : HReq) : Option Nat :=
  match r.src with
  | .run seq => some (2 * seq)
  | .drs m => some (2 * m.src + 1)
  | .land m => some (2 * (m.src + 16384) + 1)
  | .landed m => some (2 * (m.src + 16384) + 1)
  | _ => none

/-- Try every request of the trackers once, in order of arrival: those behind 512 earlier ones of their slice still wait to enter it, and a
request behind an earlier one of its line, or of its issuer, that still waits is left (R188, R216, R217, assumption log 37). `lines` and
`issuers` are those of the requests that stay. -/
def serveList : List HReq → List Nat → List Nat → M Unit
  | [], _, _ => pure ()
  | r :: rest, lines, issuers => do
    let issuers' := match r.issuer with | some k => k :: issuers | none => issuers
    let full := decide (512 ≤ (lines.filter fun n => stackOf (64 * n) == stackOf (64 * r.line)).length)
    if full || lines.contains r.line || (match r.issuer with | some k => issuers.contains k | none => false) then
      serveList rest (r.line :: lines) issuers'
    else do
      let a ← tryReq r
      match a with
      | some a =>
        modHome fun h => { h with waiting := h.waiting.erase r }
        giveAnswer r a
        serveList rest lines issuers
      | none => serveList rest (r.line :: lines) issuers'

/-- One pass over what waits at the slices, and over the record lines that it leaves to be written (R312). -/
def serveOnce : M Unit := do
  let w ← look fun d => d.home.waiting
  serveList w [] []
  let w' ← look fun d => d.home.waiting
  on (w'.any fun r => match r.src with | .landed _ => !(w.contains r) | _ => false) (serveList w' [] [])

/-! ## Loss and quarantine of a Talku port (R230, R231, R268 to R270) -/

/-- Remove a snoop. -/
def dropSnoop (n p : Nat) : M Unit :=
  modHome fun h => { h with snoops := h.snoops.filter fun x => !(x.line == n && x.port == p) }

/-- Remove a port from a line's directory state. -/
def removePort (n p : Nat) : M Unit := do
  let (st, ports) ← look fun d => d.dirOf n
  if ports.testBit p then writeDir n st (dropPort ports p) else pure ()

/-- A port does not answer: it is removed from the directory, and a line it held Owned is poisoned (R102, R230). -/
def snoopLost (n p : Nat) : M Unit := do
  let (st, ports) ← look fun d => d.dirOf n
  dropSnoop n p
  on (st == 2 && ports == 2 ^ p) (loseOwner n)
  removePort n p

/-- The snoops outstanding to a port end as R230 gives, without count, fault or violation (R230, R269, R270). -/
def endSnoops (p : Nat) : M Unit := do
  let l ← look fun d => d.home.snoops.filter fun x => x.port == p
  each l fun x => snoopLost x.line p

/-- Requests of a port that still wait in the ingress queues, behind the 512 tracker entries of their slice (R216, R231). -/
def Dev.inIngress (d : Dev) (p : Nat) : List HReq :=
  (List.range 8).flatMap fun s => ((d.atSlice s).drop 512).filter fun r => match r.src with | .tlk q _ => q == p | _ => false

/-- A directory walk for a lost port: every line it owns is poisoned, it leaves every Shared entry, and its requests in the ingress queues
are discarded (R231). COUNT_A of the record is kept until the walk is done. -/
def startWalk (p : Nat) : M Unit := do
  let d ← dev
  fset A.HOM_STATUS F.HOM_STATUS_WALK (addPort (d.fld A.HOM_STATUS F.HOM_STATUS_WALK) p)
  let gone := d.inIngress p
  modHome fun h => { h with waiting := h.waiting.filter fun r => !(gone.contains r),
                            groups := h.groups.filter fun g => !(gone.any fun r => r.grp == g.id) }
  let owned := d.home.dc.filter fun e => dirDecode e.dir == (2, 2 ^ p)
  each owned fun e => do poisonLine e.line 2; writeDir e.line 0 0
  let shared := d.home.dc.filter fun e => (dirDecode e.dir).1 == 1 && (dirDecode e.dir).2.testBit p
  each shared fun e => removePort e.line p
  modHome fun h => { h with walks := h.walks ++ [(p, owned.length)] }

/-- TLK[p] is declared lost by a row of R270 (R231). -/
def losePort (p row : Nat) : M Unit := do
  modLink p fun l => { l with lostDue := none }
  fset (A.TLK_STATUS p) F.TLK_STATUS_LOST 1
  raise Ev.tlkPortLost p p none row
  endSnoops p
  startWalk p

/-- Whether a message is one that a quarantined port is not sent: a snoop, a MISS_REQ or a notice (R269). -/
def isHeldBack (p : Nat) (e : Egr) : Bool :=
  e.port == p && (match e.msg with | .t m => m.type ∈ [0x50, 0x51, 0x62, 0x63, 0x64] | .d _ => false)

/-- Whether a message is a notice (R264). -/
def Egr.isNotice (e : Egr) : Bool := match e.msg with | .t m => m.type == 0x63 || m.type == 0x64 | .d _ => false

/-- TLK[p] quarantines itself (R268, R269): what is queued for it and may not be sent is dropped, notices with their count; its misses fail
and it is declared lost. -/
def quarantineTlk (p : Nat) : M Unit := do
  let d ← dev
  let n := (d.link p).viol
  modLink p fun l => { l with phys := d.portState p }
  setPortState p Ps.quarantined
  bump (A.TLK_QUAR_CNT p)
  raise Ev.tlkQuarantine p p none 0 n
  let l := d.trf.classq.filter (isHeldBack p)
  modTrf fun t => { t with classq := t.classq.filter fun e => !(isHeldBack p e), shaper := t.shaper.filter fun e => !(isHeldBack p e) }
  each (l.filter Egr.isNotice) fun _ => bump (A.TLK_NOTICE_DROP_CNT p)
  failMissesOfPort p
  losePort p 2

/-- The Talku ports whose violations exceed THRESH in their windows quarantine themselves (R268); whether any has. -/
def checkTlkOver : M Bool := do
  let l ← look fun d => (List.range 4).filter fun p => d.overThreshold p && d.portState p != Ps.quarantined
  each l quarantineTlk
  return l != []

/-- Serve what can be served. A port that violations found on the way quarantine is lost, and what waited for it goes on; each pass can
quarantine a port once, so five passes do. -/
def serveAllN : Nat → M Unit
  | 0 => pure ()
  | n + 1 => do
    serveOnce
    let more ← checkTlkOver
    on more (serveAllN n)

def serveAll : M Unit := serveAllN 5

/-- Hand requests to their slices. -/
def submit (reqs : List HReq) : M Unit := do
  modHome fun h => { h with waiting := h.waiting ++ reqs }
  serveAll

/-- TLK[p] is declared lost by a row of R270, and what waited for its answers goes on. -/
def declareLost (p row : Nat) : M Unit := do
  losePort p row
  serveAll

/-! ## Credits (R218 to R221) -/

/-- Whether a slice's ingress queue is full for VC0 and Dorrus requests: 256 of the 8,192 entries are kept for VC1 (R261). -/
def Dev.ingressFull (d : Dev) (s : Nat) : Bool := decide (8192 - 256 ≤ d.queueUsed s - d.queueVc1 s)

/-- CREDIT_HOLD as it acts: at least 100 AON cycles. -/
def Dev.creditHold (d : Dev) : Nat := max 100 (d.fld A.HOM_CFG F.HOM_CFG_CREDIT_HOLD)

/-- Tell the holder of a credit of a slice (Talku port, or 16 + node) something about it, with the slice's LOAD on Talku (R222). -/
def tellHolder (c : Credit) (type status detail : Nat) : M Unit := do
  let d ← dev
  if c.holder < 16 then sendTlk c.holder c.dom { type := type, tag := c.tag, load := d.load c.slc, status := status, detail := detail, credit := some c.num }
  else sendDrsFor c.dom { type := if type = 0x45 then 0x44 else 0x45, dst := c.holder - 16, src := d.node, srcDomain := c.dom.getD 0, tag := c.tag,
                          status := status, detail := detail, credit := some c.num }

/-- Refuse a request with RETRY and the next credit number of its slice (R218). -/
def retryWithCredit (s holder tag detail : Nat) (dom : Option Nat) : M Unit := do
  let n ← fget (A.HOM_SL_CREDIT s) F.HOM_SL_CREDIT_NEXT
  fset (A.HOM_SL_CREDIT s) F.HOM_SL_CREDIT_NEXT ((n + 1) % 65536)
  let c : Credit := ⟨s, n, holder, tag, none, dom⟩
  modHome fun h => { h with credits := h.credits ++ [c], issued := tset 0 h.issued (s * 65536 + n) (holder + 1) }
  on (detail == 0x60) (bump (A.HOM_RETRY_CNT s))
  tellHolder c 0x45 Sc.retry detail

/-- While a slice has ingress entries free and credits outstanding, each entry is reserved for the oldest credit and its holder told (R218):
up to `n` of them. -/
def reserveOf (s : Nat) : Nat → M Unit
  | 0 => pure ()
  | n + 1 => do
    let d ← dev
    if d.ingressFull s then pure ()
    else match d.home.credits.find? (fun c => c.slc == s && c.due.isNone) with
      | none => pure ()
      | some c => do
        let c' := { c with due := some (d.now + d.creditHold) }
        modHome fun h => { h with credits := h.credits.map fun x => if x == c then c' else x }
        tellHolder c' 0x46 0 0
        reserveOf s n

/-- The reservations of all slices. -/
def reserveCredits : M Unit :=
  each (List.range 8) fun s => do
    let n ← look fun d => d.creditsOut s
    reserveOf s n

/-- The credit that a request names, if it is outstanding and reserved for its sender at one of the request's slices. -/
def Dev.heldCredit (d : Dev) (slices : List Nat) (holder num : Nat) : Option Credit :=
  d.home.credits.find? fun c => slices.contains c.slc && c.num == num && c.holder == holder && c.due.isSome

/-- A reserved entry lapses: the credit is voided and counted, and a Talku port that was held for it is held no longer (R218, R220, assumption
log 123). The reservation that lapses first of the slice is meant. -/
def creditExpire (s : Nat) : M Unit := do
  let d ← dev
  match d.home.credits.find? (fun c => c.slc == s && c.due.isSome) with
  | none => pure ()
  | some c =>
    passTo (c.due.getD 0)
    modHome fun h => { h with credits := h.credits.erase c }
    bump (A.HOM_CREDIT_EXP_CNT s)
    on (decide (c.holder < 16)) (fset (A.TLK_STATUS c.holder) F.TLK_STATUS_RETRY_HOLD 0)
    reserveCredits

/-! ## Snoop answers (R228, R229, R230) -/

/-- A port has answered a snoop: its copy is gone, and modified data is written unless the extent has been fenced (R228, R281). -/
def snoopAnswered (n p : Nat) (data : Option Line) : M Unit := do
  dropSnoop n p
  let d ← dev
  let st := d.extState (extentOf (64 * n))
  let taken := data.isSome && decide (st < 2) && !d.stackFailed (stackOf (64 * n))
  match d.home.ue.find? (·.1 == n) with
  | some e => do
    modHome fun h => { h with ue := h.ue.filter fun x => x.1 != n }
    on (!taken) (do putLine n e.2 1; writeDir n 0 0)
  | none => pure ()
  match data with
  | some v => on taken (do putLine n v 0; markDirty n)
  | none => pure ()
  on (!(data.isSome && st == 2)) (removePort n p)
  serveAll
  reserveCredits

/-- A write-back from the owner that crosses a recall answers the recall; the owner's later ACK is expected and discarded (R229). -/
def crossing (n p : Nat) (data : Option Line) : M Unit := do
  modHome fun h => { h with ghosts := (n, p) :: h.ghosts }
  snoopAnswered n p data

/-! ## The end of a walk, a repair (R107, R231) -/

/-- All slices have finished the walk (R231). -/
def walkDone (p : Nat) : M Unit := do
  let d ← dev
  match d.home.walks.find? (·.1 == p) with
  | none => pure ()
  | some w =>
    modHome fun h => { h with walks := h.walks.erase w }
    fset A.HOM_STATUS F.HOM_STATUS_WALK (dropPort (d.fld A.HOM_STATUS F.HOM_STATUS_WALK) p)
    raise Ev.hostLost 0 p none 0 w.2 0

/-- A repair ends, and the requests that waited for its pseudo-channel go on (R107). -/
def endRepair (s : Nat) : M Unit := do
  repairDone s
  serveAll
  reserveCredits

/-! ## Patrol scrub (R110) -/

/-- One patrol scrub read (R110): the line at STK_SCRUB_POS, INTERVAL after the stack's last one, then the next; the end of a pass is counted
and clears the tallies (R106). It wakes its pseudo-channel as a request does; it waits for a repair of that pseudo-channel, for snoops of its
line and outside P0 to P2 (R107, R111, R116). -/
def scrub (s : Nat) (errs : SymErrs) : M Unit := do
  let d ← dev
  let n := d.fld (A.STK_SCRUB_POS s) F.STK_SCRUB_POS_LINE
  let line := offsetOf s n / 64
  if d.fld (A.STK_CFG s) F.STK_CFG_SCRUB_EN = 1 ∧ d.power ≠ 3 ∧ d.stackServes s ∧ ¬ d.repairing (64 * line) ∧
      ¬ d.home.snoops.any (·.line == line) then
    passTo (tget 0 d.store.lastScrub s + max 64 (d.fld (A.STK_SCRUB_CFG s) F.STK_SCRUB_CFG_INTERVAL))
    let t ← now
    modStore fun x => { x with lastScrub := tset 0 x.lastScrub s t }
    plantErrs line errs
    let d ← dev
    on (!(d.meta_ line).poison) (do touchLine line; settleRead none line true)
    if n + 1 < linesPerStack then fset (A.STK_SCRUB_POS s) F.STK_SCRUB_POS_LINE (n + 1)
    else
      fset (A.STK_SCRUB_POS s) F.STK_SCRUB_POS_LINE 0
      bump (A.STK_SCRUB_PASS_CNT s)
      modStore fun x => { x with tally := x.tally.filter fun e => e.1 / 4096 != s }
  else pure ()

/-! ## Rows -/

/-- HOME_READ: an on-die read (R23, R101, R131), ordered at its home slice; the data goes to the agent. What the access finds in the cells of
the line stands there whether or not the read passes the access check. -/
def homeRead (off dom : Nat) (cls : Option Nat) (errs : SymErrs) : M Unit := do
  plantErrs (lineNo off) errs
  let l ← openGroup .nowhere [.rdE] (lineNo off) (some dom) cls
  submit l

def execHomeRead (offset : Nat) (domain : Fin 32) (cls : Option Bool) (errs : SymErrs) (s : State) :
    Host.Outcome State Fault Refusal :=
  s.runIf (decide (offset < 2 ^ 39) && symErrsFit errs)
    (homeRead offset domain.val (cls.map b2n) errs)

def execHomeWrite (offset : Nat) (domain : Fin 32) (cls : Option Bool) (mask : BitVec 64) (data : Line) (s : State) :
    Host.Outcome State Fault Refusal :=
  s.runIf (decide (offset < 2 ^ 39)) (do
    let l ← openGroup .nowhere [.wr mask data 0] (lineNo offset) (some domain.val) (cls.map b2n)
    submit l)

def execHomeAtomic (offset : Nat) (domain : Fin 32) (cls : Option Bool) (operand : Line) (s : State) :
    Host.Outcome State Fault Refusal :=
  s.runIf (decide (offset < 2 ^ 39) && atomOk operand offset) (do
    let op := HOp.atom (offset % 64) (le operand 0 1) (le operand 1 1) (BitVec.ofNat 128 (le operand 16 16))
      (BitVec.ofNat 128 (le operand 32 16))
    let l ← openGroup .nowhere [op] (lineNo offset) (some domain.val) (cls.map b2n)
    submit l)

def execScrubRead (k : Fin 8) (errs : SymErrs) (s : State) : Host.Outcome State Fault Refusal :=
  s.runIf (symErrsFit errs) (scrub k.val errs)

def execRepairDone (k : Fin 8) (s : State) : Host.Outcome State Fault Refusal := s.run (endRepair k.val)

def execCreditHoldExpire (k : Fin 8) (s : State) : Host.Outcome State Fault Refusal := s.run (creditExpire k.val)

def execWalkDone (p : Fin 4) (s : State) : Host.Outcome State Fault Refusal := s.run (walkDone p.val)

end Sys2Proof.Machine
end

