-- ==== Sys2Proof/Machine/Traffic.lean ====
section
/-! DEFINITION. Scheduling, shaping and policing (R319 to R337): the refill of the domain shapers, the deficit round robin of the egress ports and of
the ingress arbiters, the meters, what an ingress arbiter does with the request it takes (R217 to R220, R272), and the samples. -/

namespace Sys2Proof.Machine

/-! ## Small accessors -/

/-- State of the link of a port: STATE, or what the link itself does while the port is QUARANTINED (R269). -/
def Dev.linkState (d : Dev) (port : Nat) : Nat :=
  if d.portState port = Ps.quarantined then (d.link port).phys else d.portState port

/-- Set the state of a link; STATE stays QUARANTINED while the port is (R269). -/
def setLinkState (port st : Nat) : M Unit := do
  let q ← look fun d => d.portState port
  if q = Ps.quarantined then modLink port fun l => { l with phys := st } else setPortState port st

/-- Flits a replay buffer holds (R254, R291). -/
def replayCap (port : Nat) : Nat := if port < 4 then 512 else 1024

/-- The half of a port. -/
def portEast (port : Nat) : Bool := (regHalf (portStatusAddr port)).getD false

/-- A quantum as it acts: at least 64 bytes (R337). -/
def quantumOf (x : Nat) : Nat := max 64 x

/-- Quantum of a class of an egress port (R321). -/
def Dev.egressQuantum (d : Dev) (port c : Nat) : Nat :=
  quantumOf (if port < 4 then bits (d.reg A.TRF_TLK_Q) (16 * (c - 1)) 16
    else if c = 2 then bits (d.reg A.TRF_DRS_Q) 0 16 else if c = 3 then bits (d.reg A.TRF_DRS_Q) 16 16
    else bits (d.reg A.TRF_DRS_Q) 32 16)

/-- The ring of a port, in the order HOST, ENG, BULK, FWD without the classes it does not carry (R321). -/
def egressRing (port : Nat) : List Nat := if port < 4 then [1, 2, 3] else [2, 3, 4]

/-! ## Refill of the domain shapers (R325, R326) -/

/-- A rate register as it stood before an AON edge (R326, R329). -/
def Dev.regBefore (d : Dev) (a t : Nat) : Word :=
  match d.trf.changed.find? (·.1 == a) with
  | some e => if t ≤ e.2.1 then e.2.2 else d.reg a
  | none => d.reg a

/-- A rate register is about to change: what it held before this tick is kept for those that take it up at a later edge. -/
def noteChange (a : Nat) (old : Word) : M Unit := do
  let d ← dev
  match d.trf.changed.find? (·.1 == a) with
  | some e => on (e.2.1 != d.now) (modTrf fun t => { t with changed := (a, d.now, old) :: t.changed.filter fun x => x.1 != a })
  | none => modTrf fun t => { t with changed := (a, d.now, old) :: t.changed }

/-- A domain's shaper takes up the rate committed before a refill edge and adds tokens (R325, R326). -/
def refill (edge dom : Nat) : M Unit := do
  let d ← dev
  let v := d.regBefore (A.DOM_BW dom) edge
  let rate := F.DOM_BW_EGRESS_RATE.of v
  let burst : Nat := max 4 (F.DOM_BW_BURST.of v) * 1024
  if rate = 0 then
    setTokens dom burst
    modTrf fun t => { t with limited := t.limited.filter (· != dom) }
  else if !(d.trf.limited.contains dom) then
    setTokens dom burst
    modTrf fun t => { t with limited := dom :: t.limited }
  else setTokens dom (min (d.tokens dom + rate * d.trf.period * 20) burst)
  fset (A.TRF_SHP_STAT dom) F.TRF_SHP_STAT_RATE_NOW rate

/-- One refill edge of all shapers at an AON tick. A changed REFILL is the period from this edge on (R326). -/
def shaperRefill (tick : Nat) : M Unit := do
  passTo tick
  each (List.range 32) (refill tick)
  let d ← dev
  modTrf fun t => { t with period := max 5 (d.fld A.TRF_CFG F.TRF_CFG_REFILL) }
  shapeAll

/-! ## Deficit round robin (R321) -/

/-- The next class whose head is sent, or `none` when no class is eligible. `dk` is the key of class 0 in the table of deficits, `pk`
the key of the scheduler, `head` the size of a class's ready head and `empty` whether a class has nothing waiting. -/
def drr (dk pk : Nat) (ring : List Nat) (quantum : Nat → Nat) (head : Nat → Option Nat) (empty : Nat → Bool) :
    Nat → M (Option Nat)
  | 0 => return none
  | n + 1 => do
    let t ← look (·.trf)
    match tget 0 t.turn pk with
    | c + 1 =>
      match head c with
      | some sz =>
        if sz ≤ tget 0 t.deficit (dk + c) then return some c
        else do
          modTrf fun t => { t with turn := tset 0 t.turn pk 0 }
          drr dk pk ring quantum head empty n
      | none => do
        modTrf fun t => { t with turn := tset 0 t.turn pk 0,
                                 deficit := if empty c then tset 0 t.deficit (dk + c) 0 else t.deficit }
        drr dk pk ring quantum head empty n
    | 0 => do
      let pos := tget 0 t.ringPos pk
      let c := ring.getD pos 0
      modTrf fun t => { t with ringPos := tset 0 t.ringPos pk ((pos + 1) % max 1 ring.length) }
      match head c with
      | none =>
        modTrf fun t => { t with deficit := if empty c then tset 0 t.deficit (dk + c) 0 else t.deficit }
        drr dk pk ring quantum head empty n
      | some _ =>
        modTrf fun t => { t with deficit := tset 0 t.deficit (dk + c) (tget 0 t.deficit (dk + c) + quantum c),
                                 turn := tset 0 t.turn pk (c + 1) }
        drr dk pk ring quantum head empty n

/-- Choose a class when one is eligible; otherwise the ring passes over all of them and an empty class loses its deficit. -/
def drrPick (dk pk : Nat) (ring : List Nat) (quantum : Nat → Nat) (head : Nat → Option Nat) (empty : Nat → Bool) :
    M (Option Nat) := do
  if ring.any fun c => (head c).isSome then drr dk pk ring quantum head empty 4000
  else
    modTrf fun t => { t with turn := tset 0 t.turn pk 0,
                             deficit := ring.foldl (fun d c => if empty c then tset 0 d (dk + c) 0 else d) t.deficit }
    return none

/-- After a send: the size leaves the deficit, and the turn ends when nothing of the class is eligible or its next head does not fit. -/
def drrSent (dk pk c size : Nat) (head : Nat → Option Nat) (empty : Nat → Bool) : M Unit := do
  modTrf fun t => { t with deficit := tset 0 t.deficit (dk + c) (tget 0 t.deficit (dk + c) - size) }
  let left ← look fun d => tget 0 d.trf.deficit (dk + c)
  let goes := match head c with | some sz => decide (sz ≤ left) | none => false
  on (!goes) (modTrf fun t => { t with turn := tset 0 t.turn pk 0,
                                       deficit := if empty c then tset 0 t.deficit (dk + c) 0 else t.deficit })

/-! ## Egress (R320, R321) -/

/-- Whether the port holds credits for all bytes of a message on its virtual channel (R256, R295). -/
def Dev.hasCredit (d : Dev) (e : Egr) : Bool :=
  decide (e.msg.size ≤ 16 * ((d.link e.port).cred.getD e.vc 0))

/-- Heads of the sub-queues of a class queue that are ready (R320). -/
def Dev.readyHeads (d : Dev) (port c : Nat) : List Egr :=
  ((d.trf.classq.filter fun e => e.port == port && e.cls == c).foldl (fun acc e =>
    if acc.any fun f => f.vc == e.vc then acc else acc ++ [e]) ([] : List Egr)).filter d.hasCredit

/-- The ready head of a class whose turn it is among its sub-queues (R320). -/
def Dev.classHead (d : Dev) (port c : Nat) : Option Egr :=
  rrPick Egr.vc (tget 0 d.trf.rr (port * 5 + c)) (d.readyHeads port c)

/-- Size of the ready head of a class. -/
def Dev.headSize (d : Dev) (port c : Nat) : Option Nat := (d.classHead port c).map fun e => e.msg.size

/-- Whether a class queue is empty. -/
def Dev.classEmpty (d : Dev) (port c : Nat) : Bool := !(d.trf.classq.any fun e => e.port == port && e.cls == c)

/-- Message flits enter the replay buffer of a link and leave on the wire. -/
def sendFlits (port : Nat) (l : List TxFlit) : M Unit := do
  modLink port fun x => { x with replay := x.replay ++ l, txSeq := seqAfter x.txSeq l.length }
  each l (emitFlit port 1)

/-- A message leaves on the wire: its credits are used, its flits take the next sequence numbers and enter the replay buffer. -/
def putOnWire (e : Egr) : M Unit := do
  modTrf fun t => { t with classq := t.classq.erase e, rr := tset 0 t.rr (e.port * 5 + e.cls) (e.vc + 1),
                           sent := (e.port, e.msg) :: t.sent }
  modLink e.port fun l => { l with cred := l.cred.set e.vc (l.cred.getD e.vc 0 - e.msg.size / 16) }
  let seq ← look fun d => (d.link e.port).txSeq
  sendFlits e.port (e.msg.txFlits seq)

/-- Failover flits that waited leave as the replay buffer has room (R293). -/
def pumpFover (port : Nat) : M Unit := do
  let l ← look fun d => d.link port
  let now_ := l.fover.take (replayCap port - l.replay.length)
  modLink port fun x => { x with fover := x.fover.drop now_.length }
  sendFlits port (now_.zipIdx.map fun f => { f.1 with seq := seqAfter l.txSeq f.2 })

/-- Flits that the longest message takes: 4,256 bytes (R297, R298). A link sends a message only when its replay buffer has room for so many
(R254, assumption log 14). -/
abbrev longestFlits : Nat := 7

/-- Whether a link sends a message now: it is UP and not a quarantined Dorrus link, its trunk is available unless it is a gateway's external
link, no failover flit waits, and its replay buffer has room (R254, R293, R294, R301). -/
def Dev.maySend (d : Dev) (port : Nat) : Bool :=
  !(decide (4 ≤ port) && !(d.isExt port) && !(d.trunkOk ((port - 4) % 6))) && (d.link port).fover.isEmpty &&
    decide ((d.link port).replay.length + longestFlits ≤ replayCap port)

/-- An egress port sends its next message: MG first, then the class that the deficit round robin chooses (R321). Where no message may leave,
the link sends an idle flit, whose header acknowledges, asks for a replay and returns credits as any other's (R253, R254). -/
def egressSend (port : Nat) : M Unit := do
  shapeAll
  let d ← dev
  if d.linkState port ≠ Ps.up ∨ (4 ≤ port ∧ d.portState port = Ps.quarantined) then pure ()
  else do
    pumpFover port
    let d ← dev
    if !(d.maySend port) then emitFlit port 0 idleFlit
    else match d.classHead port 0 with
    | some e => putOnWire e
    | none =>
      let r ← drrPick (port * 5) port (egressRing port) (d.egressQuantum port) (d.headSize port) (d.classEmpty port)
      match r with
      | none => emitFlit port 0 idleFlit
      | some c =>
        let d ← dev
        match d.classHead port c with
        | none => pure ()
        | some e =>
          putOnWire e
          let d ← dev
          drrSent (port * 5) port c e.msg.size (d.headSize port) (d.classEmpty port)

/-! ## Meters (R328 to R330) -/

/-- The register that holds a meter's parameters: key 0 to 3 a Talku port, 16 + node a source node. -/
def meterReg (key : Nat) : Nat := if key < 4 then A.TLK_LIMIT key else A.TRF_NODE_METER

/-- CIR, PIR, CBS and PBS of a meter (R328) at this tick: a change takes effect at the next AON cycle (R329). -/
def Dev.meterCfg (d : Dev) (key : Nat) : Nat × Nat × Nat × Nat :=
  let v := d.regBefore (meterReg key) d.now
  if key < 4 then
    let cir := F.TLK_LIMIT_RATE.of v
    let b := max 8 (F.TLK_LIMIT_BURST.of v) * 1024
    (cir, max cir (F.TLK_LIMIT_PEAK.of v), b, b)
  else
    let cir := F.TRF_NODE_METER_CIR.of v
    let cbs := max 8 (F.TRF_NODE_METER_CBS.of v)
    (cir, max cir (F.TRF_NODE_METER_PIR.of v), cbs * 1024, max cbs (F.TRF_NODE_METER_PBS.of v) * 1024)

/-- The meter of a key as it stands: full unless a message has been measured since its parameters last changed (R329). -/
def Dev.meterNow (d : Dev) (key : Nat) : Meter :=
  let (_, _, cbs, pbs) := d.meterCfg key
  let full : Meter := ⟨cbs, pbs, d.now⟩
  match tget none d.trf.meters key, d.trf.changed.find? (·.1 == meterReg key) with
  | some m, some e => if e.2.1 < d.now ∧ m.tick ≤ e.2.1 then full else m
  | some m, none => m
  | none, _ => full

/-- Colour of a message of `b` bytes: 0 green, 1 yellow, 2 red, with the meter updated (R329). -/
def colour (key b : Nat) : M Nat := do
  let d ← dev
  let (cir, pir, cbs, pbs) := d.meterCfg key
  if cir = 0 then return 0
  else
    let m := d.meterNow key
    let tc := min cbs (m.tc + 2 * cir * (d.now - m.tick))
    let tp := min pbs (m.tp + 2 * pir * (d.now - m.tick))
    let (c, m') : Nat × Meter :=
      if tp < b then (2, ⟨tc, tp, d.now⟩) else if tc < b then (1, ⟨tc, tp - b, d.now⟩) else (0, ⟨tc - b, tp - b, d.now⟩)
    modTrf fun t => { t with meters := tset none t.meters key (some m') }
    return c

/-- Counters of a yellow or red message (R330). -/
def countColour (key c : Nat) : M Unit := do
  if key < 4 then
    on (c == 1) (bump (A.TRF_TLK_YELLOW_CNT key))
    on (c == 2) (bump (A.TRF_TLK_RED_CNT key))
  else
    on (c == 1) (bump A.TRF_NODE_YELLOW_CNT)
    on (c == 2) (do
      bump A.TRF_NODE_RED_CNT
      wr A.TRF_NODE_LAST_RED (BitVec.ofNat 64 ((key - 16) % 16384 + 16384)))

/-- Meter a message on arrival: its colour, counted. -/
def meter (key b : Nat) : M Nat := do
  let c ← colour key b
  countColour key c
  return c

/-! ## Ingress arbiters (R331 to R333) -/

/-- A request's own rank: 0 green, 1 yellow, 2 BULK (R330, R333). -/
def Ing.rank (i : Ing) : Nat := if i.cls = 3 ∨ i.colour = 2 then 2 else i.colour

/-- Requests of an arbiter with their ranks, each ranked no better than an earlier waiting request of its source (R333). -/
def ranked (east : Bool) (l : List Ing) : List (Ing × Nat) :=
  (l.filter fun i => i.east == east).foldl (fun acc i =>
    acc ++ [(i, (acc.filter fun e => e.1.source == i.source).foldl (fun r e => max r e.2) i.rank)]) []

/-- Class in which a ranked request is served. -/
def servedClass (e : Ing × Nat) : Nat := if e.2 = 2 then 3 else e.1.cls

/-- The slices that a request's lines lie in. -/
def Ing.slices (i : Ing) : List Nat := (i.reqs.map fun r => stackOf (64 * r.line)).eraseDups

/-- Whether a message of a host is a write (R188). -/
def isTlkWrite (type : Nat) : Bool := type ∈ [0x04, 0x05, 0x06, 0x07]

/-- Whether a write of a Talku port has not been ordered yet: it waits at its slices, or at the arbiter before a given request. -/
def Dev.writePending (d : Dev) (p : Nat) : Bool :=
  d.home.waiting.any fun r => match r.src with | .tlk q m => q == p && isTlkWrite m.type | _ => false

/-- Whether a request of a port waits for an earlier write of the port to be ordered; a message on VC1 never waits so (R188, R261). -/
def Dev.portHolds (d : Dev) (i : Ing) : Bool :=
  match i.src with
  | .tlk p _ => !i.vc1 && d.writePending p
  | _ => false

/-- Whether a request is a landing tile (R312). -/
def Ing.lands (i : Ing) : Bool := match i.src with | .land _ => true | _ => false

/-- Whether the slices take a request now: no request is served in P3 (R279, R314), the writes of its port before it are ordered (R188), a slice
with 32,768 outstanding credits takes none (R219), and a VC1 message or a landing tile, which gets no RETRY, waits while its slice has no
ingress entry for it (R261, R305). -/
def Dev.takes (d : Dev) (i : Ing) : Bool :=
  decide (d.power ≠ 3) && !(d.portHolds i) && i.slices.all fun s =>
    (if i.vc1 || i.lands then decide (d.queueUsed s < 8192) else decide (d.creditsOut s < 32768))

/-- The first request of each source. -/
def firstOfSource (l : List (Ing × Nat)) : List (Ing × Nat) :=
  l.foldl (fun acc e => if acc.any fun f => f.1.source == e.1.source then acc else acc ++ [e]) []

/-- Key of an arbiter's class in the table of green requests taken since the last yellow one (R332). -/
def guardKey (east : Bool) (c : Nat) : Nat := b2n east * 4 + c

/-- The request of a class that an ingress arbiter takes next: the oldest green one, or the oldest yellow one when no green waits or
YEL_GUARD green ones have been taken since the last yellow (R332). -/
def Dev.ingHead (d : Dev) (east : Bool) (c : Nat) : Option (Ing × Nat) :=
  let l := (firstOfSource (ranked east d.trf.ing)).filter fun e => servedClass e == c && d.takes e.1
  let green := l.find? fun e => e.2 != 1
  let yellow := l.find? fun e => e.2 == 1
  let g := d.fld A.TRF_CFG F.TRF_CFG_YEL_GUARD
  match green, yellow with
  | some a, some b => if g ≠ 0 ∧ g ≤ tget 0 d.trf.guard (guardKey east c) then some b else some a
  | some a, none => some a
  | none, y => y

/-- Quantum of a class of the ingress arbiters. -/
def Dev.ingQuantum (d : Dev) (c : Nat) : Nat := quantumOf (bits (d.reg A.TRF_ING_Q) (16 * (c - 1)) 16)

/-! ## What becomes of a request that an arbiter takes -/

/-- The lease-map check of a Talku port (R272): the requester domain, or the refusal. -/
def Dev.leaseCheck (d : Dev) (p off : Nat) : Sum Nat (Nat × Nat) :=
  let e := extentOf off
  if 384 ≤ e then .inr (Sc.hole, 0)
  else
    let holder := tb (d.fld (A.LSE_EXT e) F.LSE_EXT_HOLDERS) p
    let st := d.extState e
    if st = 1 ∧ holder then .inl (d.extDom e)
    else if 2 ≤ st ∧ holder then .inr (Sc.revoked, 0x30)
    else .inr (Sc.rights, 0x70)

/-- Let the requests of an arbiter entry enter their slices' ingress queues, with a requester domain where the port sets it. -/
def admitFlow (i : Ing) (dom : Option Nat) : M Unit :=
  submit (match dom with | some n => i.reqs.map fun r => { r with dom := some n } | none => i.reqs)

/-- The data that a write-back or an eviction gives up, where it is one (R229). -/
def HOp.given : HOp → Option (Option Line)
  | .wb v => some (some v)
  | .evict => some none
  | _ => none

/-- Whether a request of a port crosses the recall of its own copy (R229). -/
def Dev.crosses (d : Dev) (p : Nat) (r : HReq) : Bool :=
  r.op.given.isSome && d.home.snoops.any fun x => x.line == r.line && x.port == p && x.isRecall

/-- Let a host's requests in: a write-back or an eviction that crosses a recall answers the recall, everything else is submitted. -/
def admitHost (p : Nat) (i : Ing) (dom : Nat) : M Unit := do
  let d ← dev
  let reqs := i.reqs.map fun r => { r with dom := some dom }
  each (reqs.filter (d.crosses p)) fun r => do
    let ref ← checkAccess (64 * r.line) (some dom) none
    match ref, r.op.given with
    | some (st, dt), _ => giveAnswer r { idx := r.idx, status := st, detail := dt }
    | none, some data => do
      crossing r.line p data
      giveAnswer r { idx := r.idx }
    | none, none => pure ()
  submit (reqs.filter fun r => !(d.crosses p r))

/-- A host's request of several lines is not acted on where one of them is a violation (R228, R267). -/
def Dev.lineViolates (d : Dev) (p : Nat) (r : HReq) : Bool :=
  !(d.crosses p r) && !(d.home.waiting.any fun x => x.line == r.line) && (d.snoopsFor r).isNone

/-- Drop the group of a request that is answered without reaching its slice. -/
def dropGroup (i : Ing) : M Unit :=
  modHome fun h => { h with groups := h.groups.filter fun g => !(i.reqs.any fun r => r.grp == g.id) }

/-- Atomics of a slice that wait to be applied: each will take an entry of the replay table. -/
def Dev.atomsWaiting (d : Dev) (slice : Nat) : Nat :=
  (d.home.waiting.filter fun r => stackOf (64 * r.line) == slice && (match r.src with | .drs m => m.type == 4 | _ => false)).length

/-- The replay table's answer to an arriving ATOM of this slice, or `none` when it is to be applied (R309): TYPE 0 stands for no answer now, of
a copy whose first copy still waits at the home (R206), or of one refused with RETRY. -/
def atomReplay (m : DMsg) (slice : Nat) (dom : Option Nat) : M (Option DMsg) := do
  let d ← dev
  on (tget 0 d.fab.boot m.src != m.srcBoot) (modFab fun f =>
    { f with boot := tset 0 f.boot m.src m.srcBoot, aged := tset 0 f.aged m.src 0,
             replay := f.replay.filter fun e => e.src != m.src })
  let d ← dev
  match d.fab.replay.find? (fun e => e.src == m.src && e.atag == m.atag) with
  | some e =>
    bump A.GWY_REPLAY_HIT_CNT
    return some e.ans
  | none =>
    if d.home.waiting.any (fun r => match r.src with | .drs x => x.type == 4 && sameAtom m x | _ => false) then do
      modFab fun f => { f with dups := f.dups ++ [m] }
      return some { m with type := 0 }
    else
    let base : DMsg := { dst := m.src, src := d.node, srcDomain := m.srcDomain, tag := m.tag, win := m.win, atag := m.atag }
    if serialLe24 m.atag (tget 0 d.fab.aged m.src) then
      bump A.GWY_INDET_CNT
      return some { base with type := 0x42, status := Sc.indeterminate, detail := 0x80 }
    else if 16384 ≤ (d.fab.replay.filter fun e => e.slc == slice && decide (d.now < e.tick + 12800)).length + d.atomsWaiting slice then
      retryWithCredit slice (16 + m.src) m.tag 0x80 dom
      return some { base with type := 0 }
    else return none

/-- Whether the sender's credit, issued by any of the request's slices, lets it in past a full queue; a void credit counts as none (R218). The
credit is used up. -/
def useCredit (slices : List Nat) (holder : Nat) (credit : Option Nat) : M Bool := do
  let d ← dev
  match credit.bind (d.heldCredit slices holder) with
  | none => return false
  | some c =>
    modHome fun h => { h with credits := h.credits.erase c }
    return true

/-- A snoop is answered (R227, R229): the late ACK of a crossed recall is discarded. -/
def snoopReply (p : Nat) (m : TMsg) : M Unit := do
  let n := m.addr / 64
  let d ← dev
  if m.type = 0x10 ∧ d.home.ghosts.contains (n, p) then modHome fun h => { h with ghosts := h.ghosts.erase (n, p) }
  else snoopAnswered n p m.data.head?

/-- A host request is forwarded to its slices: the lease map of the port answers it, or gives it its requester domain (R272). -/
def forwardTlk (i : Ing) (p : Nat) (m : TMsg) : M Unit := do
  let d ← dev
  match d.leaseCheck p m.addr with
  | .inr (st, dt) => do
    dropGroup i
    sendTlk p none { type := 0x44, tag := m.tag, bulk := m.bulk, load := d.load (stackOf m.addr), status := st, detail := dt }
  | .inl dom =>
    if decide (1 < m.len) && (i.reqs.map fun r => { r with dom := some dom }).any (d.lineViolates p) then do
      dropGroup i
      countViolation p 8 m.type m.tag
      nakTlk p m 0 8
    else admitHost p i dom

/-- A host message leaves the arbiter (R218, R220, R272): a snoop answer; a write-back or an eviction; or a request, which meets the port's
RETRY hold and a full slice before the lease map, unless its credit lets it past. -/
def takeTlk (i : Ing) (p : Nat) (m : TMsg) : M Unit := do
  if m.type = 0x10 ∨ m.type = 0x11 then snoopReply p m
  else if i.vc1 then forwardTlk i p m
  else do
    let ok ← useCredit i.slices p m.credit
    let d ← dev
    if ok then do
      fset (A.TLK_STATUS p) F.TLK_STATUS_RETRY_HOLD 0
      forwardTlk i p m
    else if d.fld (A.TLK_STATUS p) F.TLK_STATUS_RETRY_HOLD = 1 then do
      dropGroup i
      sendTlk p none { type := 0x45, tag := m.tag, load := d.load (stackOf m.addr), status := Sc.retry, detail := 0x61 }
    else match i.slices.find? d.ingressFull with
      | some f => do
        dropGroup i
        fset (A.TLK_STATUS p) F.TLK_STATUS_RETRY_HOLD 1
        retryWithCredit f p m.tag 0x60 none
      | none => forwardTlk i p m

/-- A Dorrus request leaves the arbiter (R218, R309). -/
def takeDrs (i : Ing) (m : DMsg) : M Unit := do
  let dom := (i.reqs.head?).bind (·.dom)
  let ok ← useCredit i.slices (16 + m.src) m.credit
  let d ← dev
  match (if ok then none else i.slices.find? d.ingressFull) with
  | some f => do
    dropGroup i
    retryWithCredit f (16 + m.src) m.tag 0x60 dom
  | none =>
    if m.type = 4 then
      let a ← atomReplay m (i.slices.headD 0) dom
      match a with
      | some ans => do
        dropGroup i
        on (ans.type != 0) (sendDrsFor dom { ans with tag := m.tag })
      | none => admitFlow i none
    else admitFlow i none

/-- What a taken request does. -/
def takeIng (i : Ing) : M Unit := do
  match i.src with
  | .tlk p m => takeTlk i p m
  | .drs m => takeDrs i m
  | _ => admitFlow i none

/-- Bytes of the Dorrus delivery buffer (R305). -/
abbrev deliveryBytes : Nat := 262144

/-- Whether a waiting request came over Dorrus for this device's store. -/
def Ing.fromDrs (i : Ing) : Bool := match i.src with | .drs _ => true | _ => false

/-- Bytes of requests in the delivery buffer: those that no longer occupy a port's receive buffer. -/
def Dev.delivered (d : Dev) : Nat := ((d.trf.ing.filter fun i => i.fromDrs && i.buf.isNone).map (·.size)).sum

/-- Requests move from the ports' receive buffers into the delivery buffer, in order of arrival, as far as it has room (R305). -/
def fillDelivery : M Unit := do
  let l ← look fun d => d.trf.ing.filter fun i => i.fromDrs && i.buf.isSome
  each l fun i => do
    let d ← dev
    match i.buf with
    | some b => on (decide (d.delivered + i.size ≤ deliveryBytes)) (do
        modTrf fun t => { t with ing := t.ing.map fun x => if x == i then { x with buf := none } else x }
        rxFree b.1 b.2 i.size)
    | none => pure ()

/-- An ingress arbiter takes its next request (R331). -/
def ingressTake (east : Bool) : M Unit := do
  let d ← dev
  let dk := 80 + 3 * b2n east - 1
  let size (c : Nat) : Option Nat := (d.ingHead east c).map fun e => e.1.size
  let empty (c : Nat) : Bool := !((ranked east d.trf.ing).any fun e => servedClass e == c)
  let r ← drrPick dk (16 + b2n east) [1, 2, 3] d.ingQuantum size empty
  match r.bind (d.ingHead east) with
  | none => pure ()
  | some e =>
    let c := servedClass e
    let k := guardKey east c
    modTrf fun t => { t with ing := t.ing.erase e.1,
                             guard := tset 0 t.guard k (if e.2 = 1 then 0 else tget 0 t.guard k + 1) }
    let d2 ← dev
    drrSent dk (16 + b2n east) c e.1.size (fun c => (d2.ingHead east c).map fun e => e.1.size)
      (fun c => !((ranked east d2.trf.ing).any fun e => servedClass e == c))
    match e.1.buf with
    | some b => rxFree b.1 b.2 e.1.size
    | none => pure ()
    fillDelivery
    takeIng e.1
    reserveCredits

/-- A request arrives at the arbiter of a half. The arbiter serves without delay, so a request that finds none waiting is taken at once
(assumption log 16). -/
def arrive (i : Ing) : M Unit := do
  let alone ← look fun d => !(d.trf.ing.any fun x => x.east == i.east)
  modTrf fun t => { t with ing := t.ing ++ [i] }
  on i.fromDrs fillDelivery
  on alone (ingressTake i.east)

/-! ## Samples (R334, R335) -/

/-- Floor of the binary logarithm. -/
def log2f (x : Nat) : Nat := Nat.log2 x

def binDepth (depth : Nat) : Nat := if depth = 0 then 0 else min 15 (max 1 (log2f depth - 5))
def binDelay (depth delay : Nat) : Nat := if depth = 0 then 0 else min 15 (max 1 (log2f delay - 3))

/-- Bytes waiting in a queue of R334 and the AON tick of its oldest head; `none` when it is empty. -/
def Dev.queueNow (d : Dev) (q : Nat) : Nat × Option Nat :=
  if q < 80 then
    let l := d.trf.classq.filter fun e => e.port == q / 5 && e.cls == q % 5
    ((l.map fun e => e.msg.size).sum, l.head?.map (·.tick))
  else
    let l := (ranked (decide (83 ≤ q)) d.trf.ing).filter fun e => servedClass e == (q - 80) % 3 + 1
    ((l.map fun e => e.1.size).sum, l.head?.map (·.1.tick))

/-- CORE cycles per AON cycle at the operating point in force (R543): 1.1, 0.9, 0.7 or 0.55 GHz against 50 MHz. -/
def Dev.corePerAon (d : Dev) : Nat :=
  match d.fld A.CLK_STATUS F.CLK_STATUS_OP with
  | 0 => 22
  | 1 => 18
  | 2 => 14
  | _ => 11

/-- One sample of a queue into its two histograms and TRF_Q_NOW (R335). -/
def sampleQueue (q : Nat) : M Unit := do
  let d ← dev
  let (depth, head) := d.queueNow q
  let delay := d.corePerAon * (match head with | some t => d.now - t | none => 0)
  fadd (A.TRF_HIST_DEPTH q (binDepth depth)) ⟨0, 32⟩ 1
  fadd (A.TRF_HIST_DELAY q (binDelay depth delay)) ⟨0, 32⟩ 1
  wr (A.TRF_Q_NOW q) (BitVec.ofNat 64 (min depth 0xFFFFFF + min delay 0xFFFFFF * 2 ^ 32))

/-- All 86 queues are sampled on one AON edge while RUN is 1 and the device is not in P3 (R335, R336). -/
def sampleTick (tick : Nat) : M Unit := do
  passTo tick
  let d ← dev
  on (d.fld A.TRF_SAMPLE F.TRF_SAMPLE_RUN == 1 && d.power != 3) (each (List.range 86) sampleQueue)

/-- TRF_SAMPLE.CLEAR: every histogram bin becomes zero. -/
def clearHist : M Unit := emit (.csrBlock 0x000D8000 (0x000D8000 + 0x100 * 86))

/-! ## Rows -/

def execShaperRefill (tick : Nat) (s : State) : Host.Outcome State Fault Refusal := s.run (shaperRefill tick)

def execEgressSend (port : Fin 16) (s : State) : Host.Outcome State Fault Refusal := s.run (egressSend port.val)

def execTrfSampleTick (tick : Nat) (s : State) : Host.Outcome State Fault Refusal := s.run (sampleTick tick)

def execTrfClear (s : State) : Host.Outcome State Fault Refusal := s.run clearHist

end Sys2Proof.Machine
end

