-- ==== Sys2Proof/Machine/Access.lean ====
section
/-! DEFINITION. How a running command reaches memory: its packet fields and parameters (R57 to R60), reads of local and remote lines
(R104, R164, R166, R176), the writes it makes (R191, R195, R209) and the steps from its work to its outcome. -/

namespace Sys2Proof.Machine

/-! ## Packet and parameters (R57, R58) -/

def Run.op (r : Run) : Nat := le r.pkt 0 2
def Run.isFence (r : Run) : Bool := bit r.pkt 16
def Run.notify (r : Run) : Bool := bit r.pkt 17
def Run.isStaged (r : Run) : Bool := bit r.pkt 18
def Run.scope (r : Run) : Nat := bits r.pkt 19 2
def Run.isCx6 (r : Run) : Bool := bit r.pkt 23
def Run.dom (r : Run) : Nat := bits r.pkt 24 5
def Run.ctx (r : Run) : Nat := le r.pkt 4 1
def Run.tag (r : Run) : Nat := le r.pkt 6 2
def Run.ptr (r : Run) : Nat := le r.pkt 8 8

/-- The parameters: the block named by PARAM_PTR, or bytes 16 to 63 of the packet. -/
def Run.params (r : Run) : List Byte := if r.ptr ≠ 0 then r.blk else (lineBytes r.pkt).drop 16

/-- Field of `w` bytes at offset `o` of the parameters (offset 0 is inline byte 16). -/
def Run.par (r : Run) (o w : Nat) : Nat := leAt r.params o w

/-- The queue of a command that came from one. -/
def Run.queue (r : Run) : Option Nat := match r.iss with | .q n => some n | _ => none

/-- Tiles of a queue's set. -/
def Dev.tiles (d : Dev) (q : Nat) : List Nat := (List.range (d.tileCount q)).map (· + d.tileFirst q)

/-! ## The work of a command -/

/-- A line write that a command makes: the virtual address named in a failure, the target, the byte mask, the data, and PCAUSE when the
line is written poisoned. -/
structure Wr where
  va : Nat
  tgt : Tgt
  mask : BitVec 64
  data : Line
  pcause : Nat
deriving Repr

/-- What a command's work leaves behind: local lines read; translations looked up, as (device-table entry found, whether it fills caches), and
those made ahead of use (R172); writes in order, newest first; the requester domain of each refusal at orders 3 and 4 of R131; free values drawn; amounts to add to
counters (register address, width, amount); reads that stay as they are when the work stops to wait; what the streams behind the first stalled
one ask for, and the addresses whose misses look-ahead starts (R170, R172); tiles written and poisoned lines copied (R211); tiles read of owned
regions, and reads of owned regions that no reservation has room for (R239, R394); and pooled rows in staging (R19). -/
structure Trail where
  lines : List Nat := []
  looks : List (Option Nat × Bool) := []
  ahead : List (Option Nat) := []
  wrs : List Wr := []
  refused : List Nat := []
  draws : Nat := 0
  cnts : List (Nat × Nat × Nat) := []
  pins : List Got := []
  asks : List Stop := []
  early : List Nat := []
  tiles : Nat := 0
  bad : List Nat := []
  fills : List (Tgt × Got) := []
  norsv : Nat := 0
  pooled : List (Nat × List Byte) := []
deriving Repr

/-- The work of a command: it reads the device, collects its trail, and may stop. What the trail holds when it fails still counts
(R166); work that stops to wait is done again from the start. -/
abbrev Rd := ExceptT Stop (StateM Trail)

/-- Stop. -/
def stop {α : Type} (s : Stop) : Rd α := throw s

/-- A failure with a status, a DETAIL and a result. -/
def failRd {α : Type} (status detail result : Nat) : Rd α := throw (failAt status detail result)

/-- Change the trail. -/
def modTrail (f : Trail → Trail) : Rd Unit := modify f

/-- Draw a free value within a command's work (assumption log 3). -/
def drawRd (d : Dev) (n : Nat) : Rd Nat := do
  let t ← get
  set { t with draws := t.draws + 1 }
  return (Config.freeValue (d.free + t.draws)).toNat % max n 1

/-- Add to a counter within a command's work. -/
def countRd (a w n : Nat) : Rd Unit := modTrail fun x => { x with cnts := (a, w, n) :: x.cnts }

/-- The device-table entry that covers a virtual address in a command's context. -/
def Dev.entryOf (d : Dev) (r : Run) (va : Nat) : Option Nat := (d.findSeg r.ctx va).map fun x => 8 * r.ctx + x.1

/-- Translate within a command's work (R164). A failure changes no cache (R166). -/
def tr (d : Dev) (r : Run) (va : Nat) (right : Right) : Rd Tgt := do
  match d.translate r r.ctx va right with
  | .error (.fail c) =>
    if va < 2 ^ 48 ∧ d.ctxBound r.ctx then modTrail fun x => { x with looks := (d.entryOf r va, false) :: x.looks } else pure ()
    throw (.fail c)
  | .error e => throw e
  | .ok t =>
    modTrail fun x => { x with looks := (d.entryOf r va, true) :: x.looks }
    return t

/-! ## Streams (R170, R172) -/

/-- Streams of a command that stall on their own: its cells, or its tiles' stream engines and units; another engine is one stream (R165, R170).
The pieces of a range go to them in turn (assumption log 17). -/
def Dev.streamsOf (d : Dev) (r : Run) : Nat :=
  match r.queue, r.xlat with
  | some q, .cell => 8 * d.tileCount q
  | some q, .tile => d.tileCount q
  | _, _ => 1

/-- Whether the stream engines of a command's tile set translate ahead of use (R172). -/
def Dev.looksAhead (d : Dev) (r : Run) : Bool :=
  d.fld A.STN_CFG F.STN_CFG_PF_EN == 1 && r.queue.isSome && (r.xlat == .cell || r.xlat == .tile)

/-- How a piece of work ends, without ending the work around it. -/
def attempt {β : Type} (w : Rd β) : Rd (Except Stop β) := ExceptT.lift w.run

/-- One piece of a range in its stream. A stalled stream does none of its later pieces, of which the next 16 are translated ahead; a failure
behind a stalled stream waits for it. `acc` holds the results, newest first, and each stalled stream with the number of its piece. -/
def streamStep {α β : Type} (d : Dev) (r : Run) (va : α → Nat) (f : α → Rd β) (acc : List β × List (Nat × Nat × Stop)) (x : α × Nat) :
    Rd (List β × List (Nat × Nat × Stop)) := do
  let n := max 1 (d.streamsOf r)
  match acc.2.find? fun s => s.1 == x.2 % n with
  | some s => do
    let a := va x.1
    if d.looksAhead r && decide (x.2 ≤ s.2.1 + 16 * n) && decide (a < 2 ^ 48) && d.ctxBound r.ctx && (d.findSeg r.ctx a).isNone && d.validSegs r.ctx != 0xff then
      modTrail fun t => { t with early := t.early ++ [a] }
    else pure ()
    return acc
  | none => do
    if d.looksAhead r then modTrail fun t => { t with ahead := d.entryOf r (va x.1) :: t.ahead } else pure ()
    match ← attempt (f x.1) with
    | .ok v => return (v :: acc.1, acc.2)
    | .error (.fail c) => if acc.2.isEmpty then throw (.fail c) else return (acc.1, acc.2 ++ [(x.2 % n, x.2, .fail c)])
    | .error e => return (acc.1, acc.2 ++ [(x.2 % n, x.2, e)])

/-- Do the pieces of a range, each in its stream; a command with stalled streams waits once every other stream has gone as far as it can. -/
def streams {α β : Type} (d : Dev) (r : Run) (va : α → Nat) (f : α → Rd β) (l : List α) : Rd (List β) := do
  let acc ← l.zipIdx.foldlM (streamStep d r va f) ([], [])
  match acc.2 with
  | [] => return acc.1.reverse
  | s :: rest => do
    modTrail fun t => { t with asks := t.asks ++ rest.map (·.2.2) }
    throw s.2.2

/-- Class of the segment that a target came through. -/
def Tgt.cls : Tgt → Nat
  | .loc _ c => c
  | .win _ _ _ c => c

/-- A target moved on by some bytes. -/
def Tgt.add (t : Tgt) (n : Nat) : Tgt :=
  match t with
  | .loc o c => .loc (o + n) c
  | .win nd w o c => .win nd w (o + n) c

/-- The target of the line that a target lies in. -/
def Tgt.lineOf (t : Tgt) : Tgt :=
  match t with
  | .loc o c => .loc (64 * (o / 64)) c
  | .win nd w o c => .win nd w (64 * (o / 64)) c

/-- The global address that names a line in a result (R104). Where a window starts in its device's store the requester does not know from any
register (assumption log 18). -/
def Dev.gaOf (d : Dev) (t : Tgt) : Nat :=
  match t with
  | .loc o _ => d.globalAddr (64 * (o / 64))
  | .win nd w o _ => (nd <<< 39) ||| ((Config.windowBase nd w + 64 * (o / 64)) % 2 ^ 39)

/-- A line as a reader has it: its data and the DETAIL of its poison, 0 when it is sound. -/
structure Rline where
  data : Line
  poison : Nat
  ga : Nat
deriving Repr

/-- The node and line under which a retained copy stands; where a window starts at its node no register says (assumption log 18). -/
def Tgt.copyOf (t : Tgt) (d : Dev) : Nat × Nat :=
  match t with
  | .loc off _ => (d.node, off / 64)
  | .win node w off _ => (node, (Config.windowBase node w + off) / 64)

/-- The retained copy of a line held for a command's queue (R194, R396). -/
def Dev.retained (d : Dev) (r : Run) (t : Tgt) : Option Ret :=
  match r.queue with
  | none => none
  | some q =>
    let k := t.copyOf d
    d.own.ret.find? fun x => x.queue == q && x.node == k.1 && x.line == k.2

/-- Whether the decoder has something to do with a line before it can be read: symbol errors stand in it, or its owner is being asked for
it because it was found uncorrectable (R101, R102). -/
def Dev.unsettled (d : Dev) (n : Nat) : Bool := (d.errsAt n != [] && !d.stackFailed (stackOf (64 * n))) || d.home.ue.any fun e => e.1 == n

/-- A line access of a requester domain has been refused with a status: orders 3 and 4 of R131 are counted. -/
def refusedRd (dom status : Nat) : Rd Unit := if status = Sc.rights then modTrail fun x => { x with refused := dom :: x.refused } else pure ()

/-- Read one local line at its home: the access check, the state of its stack, poison. -/
def readLocal (d : Dev) (r : Run) (va off cls : Nat) : Rd Rline := do
  match d.refusal off (some r.dom) (some cls) with
  | some (st, dt) =>
    refusedRd r.dom st
    failRd st dt va
  | none =>
    let n := off / 64
    if !(d.stackServes (stackOf off)) && !(d.stackFailed (stackOf off)) then stop .wait
    else if d.repairing off then stop .wait
    else if d.unsettled n then stop (.decode n)
    else
      modTrail fun x => { x with lines := n :: x.lines }
      return ⟨d.line n, d.detailFor (runWho r.seq) n, d.globalAddr (64 * n)⟩
/-- Key of a remote read in `Run.got`; `pass` tells repeated reads of the same lines apart. -/
def readKey (pass node win line n : Nat) : Nat := 4 * (((((pass * 16384 + node) * 2048 + win) * 2 ^ 33 + line) * 64) + (n - 1)) + 1

/-- Key under which the tick of asking for something is kept. -/
def askedAtKey (key : Nat) : Nat := 4 * (2 ^ 200 + key)

/-- What has been handed to a command, or read by its work before it stopped to wait. -/
def findGot (r : Run) (key : Nat) : Rd (Option Got) := do
  match r.find key with
  | some g => return some g
  | none => return (← get).pins.find? (·.key == key)

/-- Keep a read as it is until the command has ended. -/
def pin (g : Got) : Rd Unit := modTrail fun x => { x with pins := x.pins ++ [g] }

/-! ## Stage reservations (R394, R397) -/

def Dev.job (d : Dev) (q : Nat) : Option Job := d.eng.jobs.find? (·.queue == q)
def Dev.window (d : Dev) (q : Nat) : Option Window := d.eng.wins.find? (·.queue == q)

/-- Whether a tile's share of a job's reservation has room for some bytes beside the window's need and the copies held (R394). -/
def Dev.roomFor (d : Dev) (q tile bytes : Nat) : Bool :=
  match d.job q with
  | some j =>
    let held := (d.own.ret.filter fun x => x.queue == q && x.tile == tile && x.kind != 0).length * 64
    j.st == 1 && decide (held + bytes + ((d.window q).map (·.need)).getD 0 ≤ j.stage)
  | none => false

/-- Tiles of a queue's set with room for one more retained 4 KiB tile. -/
def Dev.roomy (d : Dev) (q : Nat) : List Nat := (d.tiles q).filter fun t => d.roomFor q t 4096

/-- Retained copies of the lines of a tile read at `va`. -/
def copiesOf (d : Dev) (tile q kind layer idx : Nat) (r : Run) (t : Tgt) (ls : List Rline) : List Ret :=
  (List.range ls.length).filterMap fun i => ls[i]?.map fun x =>
    let k := (t.add (64 * i)).copyOf d
    ⟨tile, q, kind, r.dom, k.1, k.2, x.data, x.poison, layer, d.now, idx⟩

/-- EPOCH under which this device owns the region of a remote line, if it does (R237, R239). -/
def Dev.ownEpoch (d : Dev) (node win off : Nat) : Option Nat :=
  (d.own.ownedHere.find? fun x => x.1 == node && x.2.1 == (Config.windowBase node win + off) >>> 21 <<< 21).map (·.2.2)

/-! ## Reads -/

/-- What a remote read has brought: `n` lines from line `i` of the lines read at `t`. -/
def Got.lines (g : Got) (d : Dev) (t : Tgt) (i n : Nat) : List Rline :=
  (List.range n).map fun j => ⟨g.data.getD (i + j) 0, if tb g.poison (i + j) then g.detail else 0, d.gaOf (t.add (64 * (i + j)))⟩

/-- The answer to a remote read of `n` lines, asked for with the EPOCH of the region it fills copies of, or 0 (R176, R239). -/
def remoteRead (r : Run) (pass va node win off cls n epoch : Nat) : Rd Got := do
  let key := readKey pass node win (off / 64) n
  match r.find key with
  | none => stop (.need key { type := 1, len := n, dst := node, win := win, woff := off, cls := cls, srcDomain := r.dom, atag := epoch })
  | some g => if g.status ≠ 0 then failRd g.status g.detail va else return g

/-- Read `n` consecutive lines at their homes, from a target within one 4 KiB tile (R176); `va` names the first in a failure. With `keep` the
lines of a region that this device owns are read as a whole tile, to be retained for the command's queue where its job has room (R194, R239,
R392, R394). -/
def homeLines (d : Dev) (r : Run) (pass va n : Nat) (t : Tgt) (keep : Bool := false) : Rd (List Rline) := do
  match t with
  | .loc off cls => (List.range n).mapM fun i => readLocal d r (if i = 0 then va else 64 * (va / 64) + 64 * i) (off + 64 * i) cls
  | .win node win off cls =>
    let base := off / 4096 * 4096
    let owned := if keep then d.ownEpoch node win base else none
    match r.queue, owned with
    | some q, some e =>
      if d.roomy q != [] || (r.find (readKey pass node win (base / 64) 64)).isSome then
        let g ← remoteRead r pass va node win base cls 64 e
        let tile : Tgt := .win node win base cls
        modTrail fun x => { x with fills := (tile, g) :: x.fills }
        return g.lines d tile ((off - base) / 64) n
      else
        let g ← remoteRead r pass va node win off cls n 0
        modTrail fun x => { x with norsv := x.norsv + 1 }
        return g.lines d t 0 n
    | _, _ =>
      let g ← remoteRead r pass va node win off cls n 0
      return g.lines d t 0 n

/-- Read the `n` consecutive lines from the one of a virtual address on, which lie in one 4 KiB tile (R164): a line of which the queue holds a
retained copy is served from the copy (R396), unless the read is to be fresh. -/
def readLines (d : Dev) (r : Run) (va n : Nat) (pass : Nat := 0) (fresh : Bool := false) : Rd (List Rline) := do
  let t0 ← tr d r va .r
  let t := t0.lineOf
  let copies := (List.range n).map fun i => if fresh then none else d.retained r (t.add (64 * i))
  if copies.all (·.isNone) then homeLines d r pass va n t (!fresh)
  else
    (List.range n).mapM fun i => match copies.getD i none with
      | some x => return ⟨x.data, x.poison, d.gaOf (t.add (64 * i))⟩
      | none => do
        let l ← homeLines d r pass (if i = 0 then va else 64 * (va / 64) + 64 * i) 1 (t.add (64 * i)) true
        return l.headD ⟨0, 0, 0⟩

/-- The pieces of a virtual range by 4 KiB tile: first byte and length of each. -/
def tilePieces (va len : Nat) : List (Nat × Nat) :=
  if len = 0 then []
  else (List.range ((va + len - 1) / 4096 + 1 - va / 4096)).map fun i =>
    let t := va / 4096 + i
    let lo := max va (4096 * t)
    let hi := min (va + len) (4096 * (t + 1))
    (lo, hi - lo)

/-- The lines that a piece of a tile touches, read. -/
def readPiece (d : Dev) (r : Run) (lo len : Nat) (pass : Nat := 0) (fresh : Bool := false) : Rd (List Rline) :=
  readLines d r lo ((lo + len - 1) / 64 + 1 - lo / 64) pass fresh

/-- A reader that consumes a poisoned line stops there (R104). -/
def consume (l : List Rline) : Rd Unit :=
  match l.find? (fun x => x.poison ≠ 0) with
  | some x => failRd Sc.poisoned x.poison x.ga
  | none => pure ()

/-- Bytes of a virtual range, consumed (R104). -/
def readBytes (d : Dev) (r : Run) (va len : Nat) (pass : Nat := 0) (fresh : Bool := false) : Rd (List Byte) := do
  let l ← streams d r (·.1) (fun p => do
    let ls ← readPiece d r p.1 p.2 pass fresh
    consume ls
    return ((ls.map fun x => lineBytes x.data).flatten.drop (p.1 % 64)).take p.2) (tilePieces va len)
  return l.flatten

/-- A little-endian number of `w` bytes at a virtual address. -/
def readNat (d : Dev) (r : Run) (va w : Nat) (pass : Nat := 0) (fresh : Bool := false) : Rd Nat := do
  let l ← readBytes d r va w pass fresh
  return leBytes l

/-! ## Writes -/

/-- Mask of the bytes lo to lo + n − 1 of a line. -/
def maskOf (lo n : Nat) : BitVec 64 := BitVec.ofNat 64 ((2 ^ n - 1) <<< lo)

/-- Cut bytes that start at a virtual address into line pieces: first byte, number of bytes. -/
def linePieces (va len : Nat) : List (Nat × Nat) :=
  if len = 0 then []
  else (List.range ((va + len - 1) / 64 + 1 - va / 64)).map fun i =>
    let t := va / 64 + i
    let lo := max va (64 * t)
    let hi := min (va + len) (64 * (t + 1))
    (lo, hi - lo)

/-- Put a line write onto the trail; a local line meets the access check first (R131). -/
def putWr (d : Dev) (r : Run) (w : Wr) : Rd Unit := do
  match w.tgt with
  | .loc off cls =>
    match d.refusal off (some r.dom) (some cls) with
    | some (st, dt) =>
      refusedRd r.dom st
      failRd st dt w.va
    | none => modTrail fun x => { x with wrs := w :: x.wrs }
  | .win .. => modTrail fun x => { x with wrs := w :: x.wrs }

/-- Write bytes within one 4 KiB tile. -/
def writePiece (d : Dev) (r : Run) (va : Nat) (l : List Byte) (pcause : Nat → Nat) : Rd Unit := do
  let t ← tr d r va .w
  (linePieces va l.length).forM fun p => do
    let sh := p.1 % 64
    let data : Line := lineOf (List.replicate sh 0 ++ (l.drop (p.1 - va)).take p.2)
    putWr d r ⟨p.1, t.add (p.1 - va), maskOf sh p.2, data, pcause (p.1 / 64)⟩

/-- Write bytes from a virtual address, tile by tile. -/
def writeBytes (d : Dev) (r : Run) (va : Nat) (l : List Byte) : Rd Unit :=
  (tilePieces va l.length).forM fun p => writePiece d r p.1 ((l.drop (p.1 - va)).take p.2) fun _ => 0

/-! ## From work to outcome -/

/-- A free tile of a queue's set. -/
def freeTile (q : Nat) : M Nat := do
  let d ← dev
  let k ← freeBelow (d.tileCount q)
  return d.tileFirst q + k

/-- The agent that makes a translation for a command, of the kind that R165 gives: which cell or tile of the set is free (assumption log 17). A
command that no engine runs translates in none of them. -/
def agentFor (r : Run) : M (Option Nat) := do
  let d ← dev
  match r.iss with
  | .bg q => return some (if r.xlat == .tile then streamAgent (r.aux.getD 1 0) else 640 + d.tileFirst q / 4)
  | .q q => match r.xlat with
    | .cell => do
      let t ← freeTile q
      let k ← freeBelow 8
      return some (8 * t + k)
    | .tile => do
      let t ← freeTile q
      return some (tileAgent t)
    | .crd => return some (640 + d.tileFirst q / 4)
    | .router => return some 657
    | .search => return some 656
  | _ => return none

/-- The translations of a command, each looked up in the caches of the agent that makes it (R164, R165, R185). -/
def accountLooks (r : Run) (l : List (Option Nat × Bool)) : M Unit :=
  each l.reverse fun x => do
    match ← agentFor r with
    | some a => lookAgent a x.1 x.2
    | none => pure ()

/-- Translations that a stream engine has made ahead of use (R172). -/
def lookAhead (tile : Nat) (e : Option Nat) : M Unit := do
  bump48 (A.TTC_PF_CNT tile) 1
  lookTile tile e e.isSome
  each e.toList (fillCache (streamAgent tile))

/-- The translations made ahead of use for a command of a queue: which stream engine of its set makes each is free. -/
def accountAhead (r : Run) (l : List (Option Nat)) : M Unit :=
  match r.queue with
  | none => pure ()
  | some q => each l.reverse fun e => do
    let t ← freeTile q
    lookAhead t e

/-- Requests of a command's local writes. -/
def localReqs (r : Run) (l : List Wr) : List HReq :=
  l.filterMap fun w => match w.tgt with
    | .loc off cls => some ⟨writeKey w.va, 0, .run r.seq, .wr w.mask w.data w.pcause, off / 64, some r.dom, some cls⟩
    | .win .. => none

/-- Whether a write can join the one before it in one WR message: whole sound lines that follow on in one tile of one window. -/
def joins (a b : Wr) (n : Nat) : Bool :=
  match a.tgt, b.tgt with
  | .win na wa oa ca, .win nb wb ob cb =>
    na == nb && wa == wb && ca == cb && ob == oa + 64 * n && ob / 4096 == oa / 4096 &&
      a.mask == BitVec.allOnes 64 && b.mask == BitVec.allOnes 64 && a.pcause == 0 && b.pcause == 0
  | _, _ => false

/-- Remote writes gathered into runs of lines that one WR message carries. -/
def gatherWr : List Wr → List (Wr × List Line)
  | [] => []
  | w :: t =>
    match gatherWr t with
    | (v, ls) :: rest => if joins w v 1 then (w, w.data :: ls) :: rest else (w, [w.data]) :: (v, ls) :: rest
    | [] => [(w, [w.data])]

/-- The message of a remote write: WR, WRP, or WR with POISON for a line copied from a poisoned source (assumption log 19). -/
def wrMsg (r : Run) (w : Wr) (ls : List Line) : DMsg :=
  match w.tgt with
  | .win node win off cls =>
    let base : DMsg := { dst := node, win := win, woff := 64 * (off / 64), cls := cls, srcDomain := r.dom }
    if w.pcause ≠ 0 then { base with type := 2, len := 1, poison := true, units := [w.data] }
    else if w.mask = BitVec.allOnes 64 then { base with type := 2, len := ls.length, units := ls }
    else { base with type := 3, len := 1, units := [w.mask.setWidth 512, w.data] }
  | .loc .. => {}

/-- Key of the read of the whole tile that a remote target lies in. -/
def Tgt.tileKey : Tgt → Option Nat
  | .loc .. => none
  | .win nd w off _ => some (readKey 0 nd w (off / 4096 * 64) 64)

/-- A write by a command of a queue to some lines drops every retained copy of them that is held for that queue, before the write is ordered
(R195); a read under way that would fill such a copy is begun anew, so that the copy is not older than the write (R199). -/
def dropOwnCopies (r : Run) (l : List Tgt) : M Unit := do
  match r.queue with
  | none => pure ()
  | some q =>
    let d ← dev
    let lines := l.map fun t => t.copyOf d
    let keys := l.filterMap Tgt.tileKey
    dropCopies fun x => x.queue == q && lines.contains (x.node, x.line)
    let stale (x : Run) : Bool := x.iss == .bg q && keys.any fun k => x.asked.contains k || (x.find k).isSome
    on (d.cmd.runs.any stale) (modCmd fun c => { c with runs := c.runs.filter fun x => !stale x })

/-- Issue the writes of a command, in order. -/
def issueWrites (r : Run) (l : List Wr) : M Unit := do
  let loc := localReqs r l
  let remote := gatherWr (l.filter fun w => match w.tgt with | .win .. => true | .loc .. => false)
  modRun r.seq fun x => { x with outs := x.outs + loc.length + remote.length }
  dropOwnCopies r (l.map (·.tgt))
  submit loc
  each remote fun w => issueRq (wrMsg r w.1 w.2) r.seq (writeKey w.1.va)

/-- Tiles read of owned regions are retained for the command's queue in a tile of its set with room, where the home has said so; which one is
free. Without room they have served the command only (R239, R394). -/
def retainFills (r : Run) (l : List (Tgt × Got)) (norsv : Nat) : M Unit :=
  match r.queue with
  | none => pure ()
  | some q => do
    each l.reverse fun x => do
      let d ← dev
      let tiles := d.roomy q
      if !x.2.keep then pure ()
      else if tiles = [] then do
        let t ← freeTile q
        bump (A.STG_NORSV_CNT t)
      else do
        let k ← freeBelow tiles.length
        let new := copiesOf d (tiles.getD k 0) q 2 0 0 r x.1 (x.2.lines d x.1 0 64)
        let held (y : Ret) : Bool := d.own.ret.any fun z => z.queue == q && z.node == y.node && z.line == y.line
        modOwn fun o => { o with ret := o.ret ++ new.filter fun y => !held y }
    each (List.range norsv) fun _ => do
      let t ← freeTile q
      bump (A.STG_NORSV_CNT t)

/-- Account for what a command's work read. -/
def accountTrail (r : Run) (t : Trail) : M Unit := do
  each t.lines fun n => do
    touchLine n
    countRind false n
  each (List.range t.draws) fun _ => emit .free
  each t.cnts.reverse fun c => fadd c.1 ⟨0, c.2.1⟩ c.2.2
  accountLooks r t.looks
  accountAhead r t.ahead
  retainFills r t.fills t.norsv
  each t.refused fun dom => fadd (A.DOM_RIGHTS_CNT dom) ⟨0, 32⟩ 1
  on (t.pooled != []) (modRun r.seq fun x => { x with pooled := t.pooled })

/-- A command has its completion; it is written when nothing of it is outstanding (R191). An earlier failure of one of its writes
stands. -/
def setCpl (r : Run) (c : Cpl) : M Unit :=
  modRun r.seq fun x => { x with cpl := match x.cpl with | some e => some e | none => some c }

/-- Ask for what a command's work needs. -/
def askStop (r : Run) (s : Stop) : M Unit := do
  match s with
  | .fail c => setCpl r c
  | .miss c va => askMiss r c va
  | .need key m =>
    let d ← dev
    if d.cmd.runs.any fun x => x.seq == r.seq && (x.asked.contains key || (x.find key).isSome) then pure ()
    else
      let t ← now
      modRun r.seq fun x => { x with asked := x.asked ++ [key], got := x.got ++ [{ key := askedAtKey key, tick := t }] }
      issueRq m r.seq key
  | .wait => pure ()
  | .decode n => settleRead (some (runWho r.seq)) n false

/-- Whether a stop is a failure. -/
def Stop.isFail : Stop → Bool
  | .fail _ => true
  | _ => false

/-- Run the work of a command: its trail is accounted for and its writes issued when it ends, well or badly; otherwise it asks for what
its stalled streams need and the same row is given again (assumption log 20). -/
def runWork {α : Type} (r : Run) (w : Dev → Run → Rd α) (done : α → M Unit) : M Unit := do
  let d ← dev
  let (res, t) := (w d r).run.run {}
  match res with
  | .ok v =>
    accountTrail r t
    done v
    issueWrites r t.wrs.reverse
  | .error (.fail c) =>
    accountTrail r t
    setCpl r { c with a := c.a + t.tiles, b := c.b + t.bad.eraseDups.length }
    issueWrites r t.wrs.reverse
  | .error s =>
    on (decide (t.pins ≠ [])) (modRun r.seq fun x => { x with got := x.got ++ t.pins })
    askStop r s
    each (t.asks.filter fun x => !x.isFail) (askStop r)
    each t.early (aheadMiss r.ctx)

/-- Work whose value is the completion. -/
def runCpl (r : Run) (w : Dev → Run → Rd Cpl) : M Unit := runWork r w fun c => setCpl r c

end Sys2Proof.Machine
end

