-- ==== Sys2Proof/Machine/Cmdq.lean ====
section
/-! DEFINITION. Command queues (R64 to R73): doorbells, acceptance, the states of a queue, the order in which commands start (R68 to R71),
and completion records (R62, R63). -/

namespace Sys2Proof.Machine

/-! ## Pointers, rings and states -/

def Dev.qstate (d : Dev) (q : Nat) : Nat := d.fld (A.CMD_Q_STATE q) F.CMD_Q_STATE_STATE
def Dev.qptr (d : Dev) (q : Nat) (f : Fld) : Nat := d.fld (A.CMD_Q_PTR q) f
def setPtr (q : Nat) (f : Fld) (v : Nat) : M Unit := fset (A.CMD_Q_PTR q) f (v % 65536)

/-- Difference of two 16-bit pointers (R66). -/
def ptrSub (a b : Nat) : Nat := (a + 65536 - b % 65536) % 65536

/-- Entries of the command ring and of the completion ring. -/
def Dev.ringSize (d : Dev) (q : Nat) : Nat := 2 ^ d.fld (A.CMD_Q_RING q) F.CMD_Q_RING_LOG2_SIZE
def Dev.cqSize (d : Dev) (q : Nat) : Nat := 2 ^ d.fld (A.CMD_Q_CQ q) F.CMD_Q_CQ_LOG2_SIZE

/-- Local offsets of an entry of a ring (R65, R66). -/
def Dev.ringSlot (d : Dev) (q i : Nat) : Nat := d.fld (A.CMD_Q_RING q) F.CMD_Q_RING_BASE * 4096 + 64 * (i % d.ringSize q)
def Dev.cqSlot (d : Dev) (q i : Nat) : Nat := d.fld (A.CMD_Q_CQ q) F.CMD_Q_CQ_BASE * 4096 + 32 * (i % d.cqSize q)

/-- Free records of a completion ring (R69). -/
def Dev.cqFree (d : Dev) (q : Nat) : Nat :=
  d.cqSize q - ptrSub (d.qptr q F.CMD_Q_PTR_CQ_TAIL) (d.qptr q F.CMD_Q_PTR_CQ_HEAD)

/-- Whether a 32-bit accept sequence number comes before another (R67). -/
def seqBefore (a b : Nat) : Bool := decide (a ≠ b) && decide ((b + 2 ^ 32 - a % 2 ^ 32) % 2 ^ 32 < 2 ^ 31)

/-- The job of a queue is released: its window is closed, its prefetch set and every retained copy held for it are dropped, its background
fetches end (R400, R196). -/
def releaseJob (q : Nat) : M Unit := do
  let d ← dev
  match d.eng.jobs.find? (·.queue == q) with
  | some j => bump (A.STR_RELEASE_CNT j.first)
  | none => pure ()
  modEng fun e => { e with jobs := e.jobs.filter (fun j => j.queue != q), wins := e.wins.filter (fun w => w.queue != q),
                           pf := e.pf.filter fun p => p.queue != q }
  modOwn fun o => { o with ret := o.ret.filter fun x => x.queue != q }
  modCmd fun c => { c with runs := c.runs.filter fun r => r.iss != .bg q }

/-- A queue leaves RUNNING: packets not yet accepted are no longer accepted, and its job is released (R72, R400). -/
def leaveRunning (q : Nat) : M Unit := do
  modCmd fun c => { c with bells := c.bells.filter fun b => b.q != q }
  releaseJob q

/-- A queue moves to HALTED: the event names the queue, ERR and, for ERR 4 and 5, the failing line (R73, R474). -/
def haltQueue (q err addr : Nat) : M Unit := do
  fset (A.CMD_Q_STATE q) F.CMD_Q_STATE_STATE Qs.halted
  fset (A.CMD_Q_STATE q) F.CMD_Q_STATE_ERR err
  leaveRunning q
  raise Ev.cmdQHalted 0 q none err 0 addr

/-- Whether commands of a queue are accepted and not complete. -/
def Dev.queueBusy (d : Dev) (q : Nat) : Bool :=
  (d.cmd.acc.any fun a => a.iss == .q q) || (d.cmd.runs.any fun r => r.iss == .q q)

/-- A DRAINING queue with nothing left is DISABLED (R72). -/
def settleQueue (q : Nat) : M Unit := do
  let d ← dev
  on (d.qstate q == Qs.draining && !(d.queueBusy q)) (fset (A.CMD_Q_STATE q) F.CMD_Q_STATE_STATE Qs.disabled)

/-- Whether every extent under a byte range is leased to a port (R65). -/
def Dev.leasedTo (d : Dev) (p lo len : Nat) : Bool :=
  decide (lo + len ≤ storeEnd) &&
    ((List.range (extentOf (lo + len - 1) + 1 - extentOf lo)).all fun i =>
      let e := extentOf lo + i
      d.extState e == 1 && tb (d.fld (A.LSE_EXT e) F.LSE_EXT_HOLDERS) p)

/-- Whether the descriptor of a queue is valid (R65, R90). -/
def Dev.queueOk (d : Dev) (q : Nat) : Bool :=
  let p := d.qcfg q F.CMD_Q_CFG_PORT
  let lr := d.fld (A.CMD_Q_RING q) F.CMD_Q_RING_LOG2_SIZE
  let lc := d.fld (A.CMD_Q_CQ q) F.CMD_Q_CQ_LOG2_SIZE
  decide (6 ≤ lr) && decide (6 ≤ lc) &&
    d.leasedTo p (d.fld (A.CMD_Q_RING q) F.CMD_Q_RING_BASE * 4096) (64 * 2 ^ lr) &&
    d.leasedTo p (d.fld (A.CMD_Q_CQ q) F.CMD_Q_CQ_BASE * 4096) (32 * 2 ^ lc) &&
    (d.qcfg q F.CMD_Q_CFG_KIND == 1 || decide (d.tileFirst q + d.qcfg q F.CMD_Q_CFG_TILE_COUNT_M1 ≤ 63))

/-- ENABLE written 1 (R73). -/
def queueEnable (q : Nat) : M Unit := do
  fset (A.CMD_Q_CFG q) F.CMD_Q_CFG_ENABLE 1
  let d ← dev
  if d.qstate q ≠ Qs.disabled then pure ()
  else if d.queueOk q then
    fset (A.CMD_Q_STATE q) F.CMD_Q_STATE_STATE Qs.running
    fset (A.CMD_Q_STATE q) F.CMD_Q_STATE_ERR 0
  else haltQueue q 1 0

/-- A RUNNING queue drains: packets not yet accepted are no longer accepted, retained copies are dropped (R72, R196). -/
def drainQueue (q : Nat) : M Unit := do
  let d ← dev
  if d.qstate q = Qs.running then
    fset (A.CMD_Q_STATE q) F.CMD_Q_STATE_STATE Qs.draining
    leaveRunning q
    settleQueue q
  else pure ()

/-- ENABLE written 0 (R73). -/
def queueDisable (q : Nat) : M Unit := do
  fset (A.CMD_Q_CFG q) F.CMD_Q_CFG_ENABLE 0
  drainQueue q

/-- RESET written 1 (R73): pointers become zero; accepted packets that have not started are discarded with the ring they came from
(assumption log 22). -/
def queueReset (q : Nat) : M Unit := do
  let d ← dev
  if d.qstate q = Qs.halted ∨ d.qstate q = Qs.draining then
    wr (A.CMD_Q_PTR q) 0
    fset (A.CMD_Q_STATE q) F.CMD_Q_STATE_STATE Qs.disabled
    fset (A.CMD_Q_STATE q) F.CMD_Q_STATE_ERR 0
    fset (A.CMD_Q_CFG q) F.CMD_Q_CFG_ENABLE 0
    modCmd fun c => { c with bells := c.bells.filter (fun b => b.q != q), acc := c.acc.filter fun a => a.iss != .q q }
  else pure ()

/-- A doorbell write (R67, R73). -/
def doorbell (q prod : Nat) : M Unit := do
  let d ← dev
  if d.qstate q ≠ Qs.running then pure ()
  else
    let old := d.qptr q F.CMD_Q_PTR_PROD
    let cons := d.qptr q F.CMD_Q_PTR_CONS
    let size := d.ringSize q
    if size < ptrSub prod cons ∨ size - ptrSub old cons < ptrSub prod old then haltQueue q 2 0
    else
      setPtr q F.CMD_Q_PTR_PROD prod
      on (prod != old) (modCmd fun c => { c with bells := c.bells ++ [⟨q, old, prod⟩] })

/-- A completion doorbell write (R73). -/
def cqDoorbell (q head : Nat) : M Unit := do
  let d ← dev
  if d.qstate q ≠ Qs.running then pure ()
  else
    let old := d.qptr q F.CMD_Q_PTR_CQ_HEAD
    if ptrSub (d.qptr q F.CMD_Q_PTR_CQ_TAIL) old < ptrSub head old then haltQueue q 3 0
    else setPtr q F.CMD_Q_PTR_CQ_HEAD head

/-! ## Trace (R475, R476) -/

/-- Trace kinds that apply to a command of a queue with an accept sequence number. -/
def Dev.traceKinds (d : Dev) (q seq : Nat) : Nat :=
  let v := d.reg A.EVQ_TRACE_CFG
  let s := F.EVQ_TRACE_CFG_SAMPLE.of v
  if F.EVQ_TRACE_CFG_EN.of v = 1 ∧ F.EVQ_TRACE_CFG_QLO.of v ≤ q ∧ q ≤ F.EVQ_TRACE_CFG_QHI.of v ∧ seq % 2 ^ s = 0
  then F.EVQ_TRACE_CFG_KINDS.of v else 0

/-- Raise a trace record of a command. -/
def traceCmd (code bitNo : Nat) (q : Option Nat) (trace seq : Nat) (pkt : Line) (status detail : Nat) : M Unit :=
  match q with
  | none => pure ()
  | some q => on (tb trace bitNo)
      (raise code 0 q (some (bits pkt 24 5)) detail seq (le pkt 0 2 + le pkt 6 2 * 2 ^ 16 + status * 2 ^ 32))

/-! ## Acceptance (R67) -/

/-- The next accept sequence number, taken. -/
def takeCmdSeq : M Nat := do
  let n ← fget A.CMD_SEQ F.CMD_SEQ_SEQ
  fset A.CMD_SEQ F.CMD_SEQ_SEQ ((n + 1) % 2 ^ 32)
  return n

/-- Whether a queue takes no packets although it runs: an expelled device accepts commands only on MGMT queues (R500). -/
def Dev.queueBarred (d : Dev) (q : Nat) : Bool :=
  d.fld A.TOP_RES_STATUS F.TOP_RES_STATUS_STATE == 1 && d.qcfg q F.CMD_Q_CFG_KIND == 0

/-- A packet as its trace record shows it: the TAG and DOMAIN of a CX6-format packet are put where the CX9 layout has them (R80). -/
def Dev.tracedPkt (d : Dev) (q : Nat) (p : Line) : Line :=
  if bit p 23 then putLe (putLe p 6 2 (le p 4 2)) 3 1 (d.qcfg q F.CMD_Q_CFG_DOMAIN) else p

/-- Work off one packet of the oldest doorbell: it is read with the queue's DOMAIN, and accepted, or it halts the queue (R65, R67, R73). -/
def commandAccept : M Unit := do
  let d ← dev
  match d.cmd.bells.find? fun b => !(d.queueBarred b.q) with
  | none => pure ()
  | some b =>
    let off := d.ringSlot b.q b.next
    let n := off / 64
    let dom := d.qcfg b.q F.CMD_Q_CFG_DOMAIN
    on (d.refusal off (some dom) none).isNone (settleRead none n false)
    let d ← dev
    if (d.refusal off (some dom) none).isSome ∨ d.stackFailed (stackOf off) ∨ (d.meta_ n).poison then
      let _ ← checkAccess off (some dom) none
      haltQueue b.q 4 off
    else if !(d.stackServes (stackOf off)) ∨ d.repairing off ∨ d.unsettled n then pure ()
    else
      touchLine n
      countRind false n
      let seq ← takeCmdSeq
      let pkt := d.line n
      let trace := d.traceKinds b.q seq
      setPtr b.q F.CMD_Q_PTR_CONS (b.next + 1)
      let next := (b.next + 1) % 65536
      modCmd fun c => { c with bells := if next = b.last then c.bells.erase b else c.bells.map fun x => if x == b then { b with next := next } else x,
                               acc := c.acc ++ [⟨.q b.q, seq, pkt, trace⟩] }
      traceCmd Ev.trcAccept 0 (some b.q) trace seq (d.tracedPkt b.q pkt) 0 0

/-! ## Which command starts (R68 to R71) -/

/-- Fence group of an issuer; the internal management queue has none (R71). -/
def Dev.fenceGroup (d : Dev) : Iss → Option Nat
  | .q n => some (d.qcfg n F.CMD_Q_CFG_FENCE_GROUP)
  | _ => none

/-- Whether a FENCE is met: every command accepted earlier by a queue of the group has completed (R68). -/
def Dev.fenceMet (d : Dev) (a : Acc) : Bool :=
  !(bit a.pkt 16) ||
    match d.fenceGroup a.iss with
    | none => true
    | some g =>
      !(d.cmd.acc.any fun x => seqBefore x.seq a.seq && d.fenceGroup x.iss == some g) &&
      !(d.cmd.runs.any fun x => seqBefore x.seq a.seq && d.fenceGroup x.iss == some g)

/-- The oldest accepted command of an issuer. -/
def Dev.head (d : Dev) (i : Iss) : Option Acc := d.cmd.acc.find? fun a => a.iss == i

/-- SCOPE of a packet; a CX6-format packet has none (R57, R80). -/
def pktScope (p : Line) : Nat := if bit p 23 then 0 else bits p 19 2

/-- Whether an accepted command waits to start: its queue runs, or it came over no queue. -/
def Dev.waits (d : Dev) (a : Acc) : Bool :=
  match a.iss with
  | .q n => d.qstate n == Qs.running
  | _ => true

/-- Whether a command of non-zero SCOPE has to wait for another one: a manager carries those out one at a time, in the order in which they
reached it (R43; assumption log 125); a command passed on to the leading span manager is carried out there (R39). -/
def Dev.unitBusy (d : Dev) (a : Acc) : Bool :=
  pktScope a.pkt != 0 &&
    ((d.cmd.runs.any fun r => pktScope r.pkt != 0 && !(d.cmd.fans.any fun f => f.fwd && f.seq == r.seq)) ||
      d.cmd.acc.any fun x => pktScope x.pkt != 0 && seqBefore x.seq a.seq && d.waits x)

/-- Whether an issuer's head may start as far as its own queue goes (R68, R69, R72). -/
def Dev.headReady (d : Dev) (a : Acc) : Bool :=
  (d.head a.iss == some a) && !(d.cmd.runs.any fun r => r.iss == a.iss) && d.fenceMet a && !(d.unitBusy a) &&
    match a.iss with
    | .q n => d.qstate n == Qs.running && decide (0 < d.cqFree n)
    | _ => true

/-- Whether a queue is an ENGINE queue. -/
def Dev.isEngine (d : Dev) : Iss → Bool
  | .q n => d.qcfg n F.CMD_Q_CFG_KIND == 0
  | _ => false

/-- Tiles that an accepted command needs. -/
def Dev.needs (d : Dev) : Iss → List Nat
  | .q n => if d.qcfg n F.CMD_Q_CFG_KIND = 0 then d.tiles n else []
  | _ => []

/-- Whether every tile of an ENGINE command is its own: not held by a running command, and not given to, or to be given to, a waiting command
accepted earlier. A free tile goes to the lowest accept sequence number of the commands that need it; those accepted later have higher
ones, so that it stays with the command it was given to (R70). -/
def Dev.tilesFree (d : Dev) (a : Acc) : Bool :=
  let mine := d.needs a.iss
  let meets (l : List Nat) : Bool := mine.any fun t => l.contains t
  !(d.cmd.runs.any fun r => !r.bf && d.isEngine r.iss && meets (d.needs r.iss)) &&
    !(d.cmd.acc.any fun x => d.isEngine x.iss && seqBefore x.seq a.seq && d.waits x && meets (d.needs x.iss))

/-- Position of an issuer in the round robin of the MGMT queues; the internal queue stands behind the 512. -/
def rrPos : Iss → Nat
  | .q n => n
  | _ => 512

/-- PRIORITY of an issuer of MGMT commands (R71). -/
def Dev.mgmtPrio (d : Dev) : Iss → Nat
  | .q n => d.qcfg n F.CMD_Q_CFG_PRIORITY
  | _ => 1

/-- The MGMT command that takes the next free slot of the leading Easel half (R71). -/
def Dev.nextMgmt (d : Dev) : Option Acc :=
  let ready := d.cmd.acc.filter fun a => !(d.isEngine a.iss) && a.iss != .mbox && d.headReady a
  let hi := ready.filter fun a => d.mgmtPrio a.iss == 1
  if hi = [] then rrPick (fun a => rrPos a.iss) d.cmd.rr ready else rrPick (fun a => rrPos a.iss) d.cmd.rrHi hi

/-- MGMT commands running at the leading half. -/
def Dev.mgmtRuns (d : Dev) : Nat :=
  (d.cmd.runs.filter fun r => !(d.isEngine r.iss) && (match r.iss with | .q _ => true | .unit => true | _ => false)).length

/-! ## Completion records (R62, R63, R191) -/

/-- The 32 bytes of a completion record; the record of the leading span manager stands unchanged (R39). -/
def recordBytes (tag seq tick : Nat) (c : Cpl) : List Byte :=
  if c.raw ≠ [] then c.raw
  else toLe 2 tag ++ toLe 1 c.status ++ toLe 1 c.detail ++ toLe 4 c.a ++ toLe 4 c.b ++ toLe 4 seq ++ toLe 8 tick ++ toLe 8 c.result

/-- Key of the write of a completion record. -/
abbrev cqKey : Nat := 4 * 2 ^ 80

/-- A running command leaves the device's list; the reset that an FW_ACTIVATE arms is due 10 ms later (R523). -/
def dropRun (seq : Nat) : M Unit := do
  modCmd fun c => { c with runs := c.runs.filter fun r => r.seq != seq }
  modHome fun h => { h with found := h.found.filter fun e => e.1 != runWho seq }
  let d ← dev
  on (d.sys.boot.resetSeq == some seq) (modBoot fun b => { b with resetSeq := none, resetDue := some (d.now + 500000) })

/-- The record is written: CQ_TAIL moves past it, the notice is sent (R62, R63, R264). -/
def finishQueued (r : Run) (q : Nat) (c : Cpl) : M Unit := do
  let tail ← fget (A.CMD_Q_PTR q) F.CMD_Q_PTR_CQ_TAIL
  setPtr q F.CMD_Q_PTR_CQ_TAIL (tail + 1)
  bump48 (A.CMD_Q_DONE_CNT q) 1
  traceCmd Ev.trcDone 2 (some q) r.trace r.seq r.pkt c.status c.detail
  dropRun r.seq
  let d ← dev
  on r.notify (sendNotice (d.qcfg q F.CMD_Q_CFG_PORT)
    { type := 0x63, units := [BitVec.ofNat 128 (q + (tail + 1) % 65536 * 2 ^ 16)] })
  settleQueue q

/-- Write the completion record of a queue's command; a write that fails halts a RUNNING or DRAINING queue with ERR 5 (R73). The tick in the record
is that of submitting its write (assumption log 126); the record of a command whose queue has been RESET meanwhile is not written
(assumption log 22). -/
def writeRecord (r : Run) (q : Nat) (c : Cpl) : M Unit := do
  let d ← dev
  let off := d.cqSlot q (d.qptr q F.CMD_Q_PTR_CQ_TAIL)
  if d.qstate q = Qs.disabled then dropRun r.seq
  else
    if (r.find cqKey).isNone ∧ ¬ r.asked.contains cqKey then
      modRun r.seq fun x => { x with asked := x.asked ++ [cqKey] }
      let data := lineOf (List.replicate (off % 64) 0 ++ recordBytes r.tag r.seq d.now c)
      submit [⟨cqKey, 0, .run r.seq, .wr (maskOf (off % 64) 32) data 0, off / 64, some (d.qcfg q F.CMD_Q_CFG_DOMAIN), none⟩]
    else pure ()
    let d ← dev
    match (d.cmd.runs.find? fun x => x.seq == r.seq).bind fun x => x.find cqKey with
    | none => pure ()
    | some g =>
      if g.status = 0 then finishQueued r q c
      else
        dropRun r.seq
        on (d.qstate q == Qs.running || d.qstate q == Qs.draining) (haltQueue q 5 off)

/-! ## Rows of the queues -/

def execQueueEnable (q : Fin 512) (s : State) : Host.Outcome State Fault Refusal := s.run (queueEnable q.val)

def execQueueDisable (q : Fin 512) (s : State) : Host.Outcome State Fault Refusal := s.run (queueDisable q.val)

def execQueueReset (q : Fin 512) (s : State) : Host.Outcome State Fault Refusal := s.run (queueReset q.val)

def execCommandAccept (s : State) : Host.Outcome State Fault Refusal := s.run commandAccept

end Sys2Proof.Machine
end

