-- ==== Sys2Proof/Machine/Opcodes.lean ====
section
/-! DEFINITION. The opcodes of R15 by number, and how the row of an opcode finds the command that it carries on. -/

namespace Sys2Proof.Machine

/-! ## Opcodes (R15) -/

namespace Op
abbrev nop : Nat := 0x0001
abbrev csrRead : Nat := 0x0002
abbrev csrWrite : Nat := 0x0003
abbrev stage : Nat := 0x0010
abbrev check : Nat := 0x0011
abbrev commit : Nat := 0x0012
abbrev abandon : Nat := 0x0013
abbrev domainCreate : Nat := 0x0100
abbrev domainDestroy : Nat := 0x0101
abbrev keyLoad : Nat := 0x0102
abbrev sanitise : Nat := 0x0103
abbrev segLoad : Nat := 0x0200
abbrev rangeInvalidate : Nat := 0x0201
abbrev windowOpen : Nat := 0x0202
abbrev windowClose : Nat := 0x0203
abbrev leaseGrant : Nat := 0x0300
abbrev leaseRenew : Nat := 0x0301
abbrev leaseRevoke : Nat := 0x0302
abbrev publish : Nat := 0x0303
abbrev ownTransfer : Nat := 0x0304
abbrev ownAccept : Nat := 0x0305
abbrev copy : Nat := 0x0400
abbrev fill : Nat := 0x0401
abbrev observe : Nat := 0x0402
abbrev matmul : Nat := 0x0500
abbrev route : Nat := 0x0501
abbrev streamWindow : Nat := 0x0502
abbrev slotBind : Nat := 0x0503
abbrev gatherPool : Nat := 0x0600
abbrev rowReplace : Nat := 0x0601
abbrev rowMigrate : Nat := 0x0602
abbrev prefetchIndices : Nat := 0x0603
abbrev search : Nat := 0x0700
abbrev sideAppend : Nat := 0x0701
abbrev sideDelete : Nat := 0x0702
abbrev merge : Nat := 0x0703
abbrev bitwise : Nat := 0x0704
abbrev powerState : Nat := 0x0800
abbrev clockSet : Nat := 0x0801
abbrev shadowBegin : Nat := 0x0901
abbrev shadowCompare : Nat := 0x0902
abbrev expelVote : Nat := 0x0903
abbrev attest : Nat := 0x0A00
abbrev fwStage : Nat := 0x0A01
abbrev fwActivate : Nat := 0x0A02
end Op

/-! ## The command that a row carries on -/

/-- Phase of a command that has started and still waits for its parameter block (R60). -/
abbrev blkPhase : Nat := 99

/-- Phase of a command that other devices carry out and this one does not (R39). -/
abbrev awayPhase : Nat := 98

/-- Sequence number under which firmware's own command stands; accept sequence numbers are below 2^32 (R67). -/
abbrev fwSeq : Nat := 2 ^ 32

/-- The issuer of a row's command. -/
def issOf : Req → Iss
  | .q n => .q n.val
  | .unit => .unit
  | .mbox => .mbox
  | .fw _ => .fw

/-- The running command of an issuer. -/
def Dev.runOf (d : Dev) (i : Iss) : Option Run := d.cmd.runs.find? fun r => r.iss == i

/-- The running command with a sequence number. -/
def Dev.runSeq (d : Dev) (seq : Nat) : Option Run := d.cmd.runs.find? fun r => r.seq == seq

/-- Firmware's own command has ended. -/
def settleFw : M Unit := do
  let d ← dev
  match d.runOf .fw with
  | some r => match r.cpl with
    | some c => if r.outs = 0 then do dropRun fwSeq; modCmd fun x => { x with fwCpl := some c } else pure ()
    | none => pure ()
  | none => pure ()

/-- Begin firmware's own command if none is in progress. -/
def beginFw (pkt : Line) : M Unit := do
  let d ← dev
  match d.runOf .fw with
  | some _ => pure ()
  | none => modCmd fun c => { c with runs := c.runs ++ [{ iss := .fw, seq := fwSeq, pkt := pkt, tick := d.now }] }

/-- Whether a running command is one of an opcode that its row can carry on: started, its parameters read, its completion not yet
decided. -/
def Run.goes (r : Run) (op : Nat) : Bool := r.op == op && r.cpl.isNone && decide (r.phase < awayPhase)

/-- Act under the settings that a command started with (R85): the bits that commit edges have changed since read as before, and what the action
itself changes in those registers stands afterwards. -/
def underKept (kept : List (Nat × BitVec 64 × BitVec 64)) (act : M Unit) : M Unit := do
  let d ← dev
  let old (e : Nat × BitVec 64 × BitVec 64) : Word := (d.reg e.1 &&& ~~~e.2.1) ||| (e.2.2 &&& e.2.1)
  each kept fun e => wr e.1 (old e)
  act
  each kept fun e => do
    let v ← rd e.1
    let diff := v ^^^ old e
    wr e.1 ((d.reg e.1 &&& ~~~diff) ||| (v &&& diff))

/-- Carry on the command of an opcode that an issuer has running; a row given for a command that is not running does nothing
(assumption log 20). -/
def onRun (op : Nat) (q : Req) (body : Run → M Unit) : M Unit := do
  match q with
  | .fw pkt => if le pkt 0 2 = op then beginFw pkt else pure ()
  | _ => pure ()
  let d ← dev
  match d.runOf (issOf q) with
  | some r => if r.goes op then underKept r.kept (body r) else pure ()
  | none => pure ()
  settleFw

/-- The command's phase and words of its own. -/
def setPhase (r : Run) (phase : Nat) (aux : List Nat) : M Unit := modRun r.seq fun x => { x with phase := phase, aux := aux }

/-- Carry a command on with its state as it stands now, unless it has ended. -/
def again (seq : Nat) (body : Run → M Unit) : M Unit := do
  let d ← dev
  match d.runSeq seq with
  | some r => if r.cpl.isNone then body r else pure ()
  | none => pure ()

/-- Whether a command's DOMAIN and CONTEXT may act on every domain: a MGMT queue with ALL_DOMAINS, the unit-scope path, the mailbox and
firmware (R74, R82). -/
def Dev.allDomains (d : Dev) : Iss → Bool
  | .q n => d.qcfg n F.CMD_Q_CFG_ALL_DOMAINS == 1
  | _ => true

/-- NOP: completes with no effect (R15). -/
def execNop (r : Req) (s : State) : Host.Outcome State Fault Refusal := s.run (onRun Op.nop r fun x => on (!x.isCx6) (setCpl x {}))

end Sys2Proof.Machine
end

