-- ==== Sys2Proof/Machine/Search.lean ====
section
/-! DEFINITION. Indices, side lists, SEARCH, MERGE and BITWISE (R440 to R463). -/

namespace Sys2Proof.Machine

/-- No ID, no node. -/
abbrev noId : Nat := 0xFFFFFFFF

/-- Number of one bits. -/
def popcount (x : Nat) : Nat := go 2048 x
where
  go : Nat → Nat → Nat
    | 0, _ => 0
    | n + 1, x => x % 2 + go n (x / 2)

/-- Distance of two codes (R440). -/
def hamming (a b : Nat) : Nat := popcount (a ^^^ b)

/-! ## The index header (R442 to R445) -/

/-- The fields of an index header. -/
structure Hdr where
  kind : Nat
  deg : Nat
  wq : Nat
  cur : Nat
  n : Nat
  cap : Nat
  sideCap : Nat
  seq : Nat
  base : Nat
  buf0 : Nat
  buf1 : Nat
  side : Nat
  entry : Nat
deriving Repr

def hdrOf (l : Line) : Hdr :=
  { kind := le l 0 1, deg := le l 1 1, wq := le l 2 1, cur := le l 3 1, n := le l 4 4, cap := le l 8 4, sideCap := le l 12 4,
    seq := le l 16 8, base := le l 24 8, buf0 := le l 32 8, buf1 := le l 40 8, side := le l 48 8, entry := le l 56 4 }

/-- A header line from its fields. -/
def hdrLine (h : Hdr) : Line :=
  lineOf (toLe 1 h.kind ++ toLe 1 h.deg ++ toLe 1 h.wq ++ toLe 1 h.cur ++ toLe 4 h.n ++ toLe 4 h.cap ++ toLe 4 h.sideCap ++ toLe 8 h.seq
    ++ toLe 8 h.base ++ toLe 8 h.buf0 ++ toLe 8 h.buf1 ++ toLe 8 h.side ++ toLe 4 h.entry ++ toLe 4 0)

/-- Whether a header line meets R442. -/
def hdrOk (l : Line) : Bool :=
  let h := hdrOf l
  decide (h.kind ≤ 1) && (if h.kind = 1 then decide (8 ≤ h.deg) && decide (h.deg ≤ 64) && h.deg % 8 == 0 else h.deg == 0 && h.entry == 0)
    && decide (1 ≤ h.wq) && decide (h.wq ≤ 32) && decide (h.cur ≤ 1) && decide (h.n ≤ h.cap) && decide (1 ≤ h.cap) && decide (h.cap ≤ 2 ^ 31)
    && decide (1 ≤ h.sideCap) && decide (h.sideCap ≤ 32768) && decide (h.base ≤ h.seq) && decide (h.seq - h.base ≤ h.sideCap)
    && h.buf0 % 64 == 0 && h.buf1 % 64 == 0 && h.side % 64 == 0 && (h.kind == 0 || h.n == 0 || decide (h.entry < h.n)) && le l 60 4 == 0

/-- Bytes of a code, of a side entry, of a node record (R443, R447). -/
def Hdr.wb (h : Hdr) : Nat := 8 * h.wq
def Hdr.es (h : Hdr) : Nat := (16 + h.wb + 63) / 64 * 64
def Hdr.rs (h : Hdr) : Nat := (h.wb + 4 + 4 * h.deg + 63) / 64 * 64

/-- Bytes of a buffer's CAP extent. -/
def Hdr.bufBytes (h : Hdr) : Nat := if h.kind = 0 then h.cap * (h.wb + 4) else h.cap * h.rs

/-- The current and the spare buffer. -/
def Hdr.main (h : Hdr) : Nat := if h.cur = 0 then h.buf0 else h.buf1
def Hdr.spare (h : Hdr) : Nat := if h.cur = 0 then h.buf1 else h.buf0

/-- Translate an index range with right R, and W when the command changes the index; a remote segment is refused (R444). -/
def indexRange (d : Dev) (r : Run) (writes : Bool) (va len : Nat) : Rd Unit :=
  (granules va len).forM fun g => do
    let t ← tr d r g .r
    if writes then let _ ← tr d r g .w
    match t with
    | .loc .. => pure ()
    | .win .. => failRd Sc.rights 0xD0 0
where
  /-- The first address of a range in each 2 MiB granule. -/
  granules (va len : Nat) : List Nat :=
    if len = 0 then []
    else (List.range ((va + len - 1) / 2097152 + 1 - va / 2097152)).map fun i => max va (2097152 * (va / 2097152 + i))

/-- Read the header of an index at its home, and check it and the index's ranges (R444, R445): local offset of the header line, and the line. -/
def openIndex (d : Dev) (r : Run) (writes : Bool) (va : Nat) : Rd (Nat × Line) := do
  indexRange d r writes va 64
  let t ← tr d r va .r
  let key := match t with | .loc off _ => off | .win .. => 0
  let l ← readBytes d r va 64 0 true
  let line := lineOf l
  if !(hdrOk line) then failRd Sc.malformed 0xD1 0
  else
    let h := hdrOf line
    indexRange d r writes h.buf0 h.bufBytes
    indexRange d r writes h.buf1 h.bufBytes
    indexRange d r writes h.side (h.sideCap * h.es)
    return (key, line)

/-! ## Tracked indices (R446) -/

/-- Whether a run works on an index: past its start, with the index's key as its first word. -/
def Run.onIndex (r : Run) : Bool :=
  (r.op == Op.sideAppend || r.op == Op.sideDelete || r.op == Op.merge || (r.op == Op.search && r.par 0 1 == 0))
    && r.cpl.isNone && r.phase != 0 && r.phase != blkPhase

/-- The key of the index that a run works on. -/
def Run.idxKey (r : Run) : Nat := r.aux.getD 0 0

/-- The indices tracked. -/
def Dev.tracked (d : Dev) : List Nat := ((d.cmd.runs.filter Run.onIndex).map Run.idxKey).eraseDups

/-- Whether an index can be tracked. -/
def Dev.canTrack (d : Dev) (key : Nat) : Bool := d.tracked.contains key || decide (d.tracked.length < 256)

/-- Key under which a command keeps the header of its snapshot. -/
abbrev hdrKey : Nat := 4 * (2 ^ 81 + 2)

/-- The header of a command's snapshot. -/
def snapHdr (r : Run) : Hdr := match r.find hdrKey with | some g => hdrOf (g.data.headD 0) | none => hdrOf 0

/-- Start work on an index: it is tracked, and the header is kept as the command's snapshot (R446, R448). -/
def trackIndex (r : Run) (phase : Nat) (x : Nat × Line) : M Unit := do
  let d ← dev
  if d.canTrack x.1 then do
    modRun r.seq fun y => { y with got := y.got.filter (fun g => g.key != hdrKey) ++ [{ key := hdrKey, data := [x.2] }] }
    setPhase r phase [x.1]
  else setCpl r (fail Sc.retry 0xD0)

/-! ## The side list (R447, R448) -/

/-- A side entry. -/
structure SideE where
  seq : Nat
  id : Nat
  op : Nat
  code : Nat
deriving DecidableEq, Repr

/-- Address of the side entry of a sequence number. -/
def sideVa (h : Hdr) (s : Nat) : Nat := h.side + (s - 1) % h.sideCap * h.es

/-- The side entries with sequence numbers lo + 1 to hi. -/
def readSide (d : Dev) (r : Run) (h : Hdr) (lo hi : Nat) : Rd (List SideE) :=
  ((List.range (hi - lo)).map (· + lo + 1)).mapM fun s => do
    let l ← readBytes d r (sideVa h s) (16 + h.wb) 0 true
    return ⟨s, leAt l 8 4, leAt l 12 1, leAt l 16 h.wb⟩

/-- The last operation of each ID, in sequence order (R448). -/
def overOf (l : List SideE) : List SideE := l.foldl (fun acc e => acc.filter (fun x => x.id != e.id) ++ [e]) []

/-- The live inserts of a snapshot. -/
def liveInserts (lst : List SideE) : List SideE := lst.filter fun e => e.op == 1

/-- Whether an entry of the main set is live. -/
def liveMain (lst : List SideE) (id : Nat) : Bool := id != noId && !(lst.any fun e => e.id == id)

/-! ## SEARCH parameters (R452) -/

/-- The parameters of a SEARCH. -/
structure Sp where
  mode : Nat
  filt : Bool
  q : Nat
  k : Nat
  ef : Nat
  idx : Nat
  query : Nat
  fVa : Nat
  fLen : Nat
  maxV : Nat
  out : Nat
  qtag : Nat
  npart : Nat
deriving Repr

def spOf (r : Run) : Sp :=
  { mode := r.par 0 1, filt := tb (r.par 1 1) 0, q := r.par 2 2, k := r.par 4 2, ef := r.par 6 2, idx := r.par 8 8, query := r.par 16 8,
    fVa := r.par 24 8, fLen := r.par 32 4, maxV := r.par 36 4, out := r.par 40 8, qtag := r.par 48 8, npart := r.par 56 1 }

/-- Whether the fields meet R452, as far as the index's kind does not matter. -/
def Sp.ok (p : Sp) : Bool :=
  decide (p.mode ≤ 1) && decide (1 ≤ p.q) && decide (p.q ≤ 256) && decide (1 ≤ p.k) && decide (p.k ≤ 1024) && p.out % 64 == 0
    && (if p.mode = 0 then
          p.idx % 64 == 0 && p.query % 64 == 0 && p.npart == 0 && (if p.filt then p.fVa % 64 == 0 else p.fVa == 0 && p.fLen == 0)
        else !p.filt && p.ef == 0 && p.query == 0 && p.fVa == 0 && p.fLen == 0 && p.maxV == 0 && decide (1 ≤ p.npart) && decide (p.npart ≤ 64))

/-- Whether EF fits the kind of the index. -/
def Sp.efOk (p : Sp) (h : Hdr) : Bool := if h.kind = 0 then p.ef == 0 else decide (p.k ≤ p.ef) && decide (p.ef ≤ 4096)

/-- Whether the filter allows an ID (R448). -/
def allowedId (d : Dev) (r : Run) (p : Sp) (id : Nat) : Rd Bool := do
  if !p.filt then return true
  else if p.fLen ≤ id then return false
  else
    let b ← readNat d r (p.fVa + id / 8) 1
    return tb b (id % 8)

/-! ## Flat search (R453) -/

/-- A result: distance and ID, in the order of R441. -/
abbrev Res := Nat × Nat

def resLt (a b : Res) : Bool := decide (a.1 < b.1) || (a.1 == b.1 && decide (a.2 < b.2))

/-- Put a result into an ordered list of at most k. -/
def insertRes (k : Nat) (x : Res) (l : List Res) : List Res :=
  ((l.takeWhile fun y => resLt y x) ++ x :: (l.dropWhile fun y => resLt y x)).take k

/-- Results of every query with one code compared. -/
def compareAll (p : Sp) (qs : List Nat) (code id : Nat) (res : List (List Res)) : List (List Res) :=
  (qs.zip res).map fun x => insertRes p.k (hamming x.1 code, id) x.2

/-- Codes of a code list. -/
def codesOf (wb n : Nat) (l : List Byte) : List Nat := (List.range n).map fun i => leAt l (wb * i) wb

/-- The live side inserts compared: results, and codes compared. -/
def searchSide (d : Dev) (r : Run) (p : Sp) (qs : List Nat) (ins : List SideE) (res : List (List Res)) : Rd (List (List Res)) :=
  ins.foldlM (fun res e => do
    let ok ← allowedId d r p e.id
    return if ok then compareAll p qs e.code e.id res else res) res

/-- A tile's share of a flat index: results, and live codes compared. -/
def searchShare (d : Dev) (r : Run) (p : Sp) (h : Hdr) (qs : List Nat) (lst : List SideE) (lo hi : Nat) (res : List (List Res)) :
    Rd (List (List Res) × Nat) := do
  let codes ← readBytes d r (h.main + lo * h.wb) ((hi - lo) * h.wb)
  let ids ← readBytes d r (h.main + h.cap * h.wb + 4 * lo) (4 * (hi - lo))
  ((codesOf h.wb (hi - lo) codes).zip (codesOf 4 (hi - lo) ids)).foldlM (fun (x : List (List Res) × Nat) e => do
    if liveMain lst e.2 then
      let ok ← allowedId d r p e.2
      return (if ok then compareAll p qs e.1 e.2 x.1 else x.1, x.2 + 1)
    else return x) (res, 0)

/-- What a search found: results by query, comparisons in all, limited queries. -/
structure Found where
  res : List (List Res)
  compared : Nat
  limited : Nat := 0
deriving Repr

/-- A flat SEARCH by the tiles `first` to `first + tiles - 1`: each counts what it compared. -/
def flatSearch (d : Dev) (r : Run) (p : Sp) (h : Hdr) (qs : List Nat) (lst : List SideE) (first tiles : Nat) : Rd Found := do
  let ins := liveInserts lst
  let start : List (List Res) × Nat := (qs.map fun _ => [], 0)
  let (res, cnt) ← (List.range tiles).foldlM (fun (x : List (List Res) × Nat) i => do
    let (res, n) ← searchShare d r p h qs lst (i * h.n / tiles) ((i + 1) * h.n / tiles) x.1
    let side := (ins.filter fun e => (e.seq - h.base - 1) % tiles == i).length
    let made := (n + side) * qs.length
    countRd (A.TSR_CMP_CNT (first + i)) 48 made
    return (res, x.2 + made)) start
  let res ← searchSide d r p qs ins res
  return { res := res, compared := cnt }

/-! ## Graph search (R454) -/

/-- A node record. -/
structure Node where
  code : Nat
  id : Nat
  nbr : List Nat
deriving DecidableEq, Repr

/-- A node record from its bytes. -/
def nodeOf (h : Hdr) (l : List Byte) : Node :=
  ⟨leAt l 0 h.wb, leAt l h.wb 4, (List.range h.deg).map fun j => leAt l (h.wb + 4 + 4 * j) 4⟩

/-- Read a node record. -/
def readNode (d : Dev) (r : Run) (h : Hdr) (n : Nat) : Rd Node := do
  let l ← readBytes d r (h.main + n * h.rs) (h.wb + 4 + 4 * h.deg)
  return nodeOf h l

/-- A traversal's state: candidates and best by (distance, node), best with IDs, nodes visited with their records, visits, comparisons,
and whether the limit was met. -/
structure Trav where
  cand : List Res := []
  best : List (Res × Nat) := []
  seen : List (Nat × Node) := []
  visits : Nat := 1
  hit : Bool := false
deriving Repr

/-- Insert by (distance, node). -/
def insertNode (x : Res × Nat) (l : List (Res × Nat)) : List (Res × Nat) :=
  (l.takeWhile fun y => resLt y.1 x.1) ++ x :: (l.dropWhile fun y => resLt y.1 x.1)

def insertCand (x : Res) (l : List Res) : List Res := (l.takeWhile fun y => resLt y x) ++ x :: (l.dropWhile fun y => resLt y x)

/-- Whether a new node enters the candidates: fewer than EF are held, or it comes before the last of them. -/
def enters (ef : Nat) (x : Res) (best : List (Res × Nat)) : Bool :=
  decide (best.length < ef) || match best.getLast? with | some y => resLt x y.1 | none => true

/-- What a traversal is given: how to read a node, whether a node may be returned, N, EF, MAX_VISITS. -/
structure TravEnv where
  get : Nat → Rd Node
  ok : Nat → Node → Rd Bool
  n : Nat
  ef : Nat
  maxV : Nat

/-- Visit one neighbour (R454). -/
def visit (e : TravEnv) (q : Nat) (t : Trav) (n : Nat) : Rd Trav := do
  if t.hit || n == noId || t.seen.any (fun x => x.1 == n) then return t
  else if e.n ≤ n then failRd Sc.malformed 0xD4 0
  else if e.maxV ≠ 0 ∧ t.visits = e.maxV then return { t with hit := true }
  else
    let node ← e.get n
    let t := { t with seen := (n, node) :: t.seen, visits := t.visits + 1 }
    let x : Res := (hamming q node.code, n)
    if enters e.ef x t.best then
      let t := { t with cand := insertCand x t.cand }
      let ok ← e.ok n node
      return if ok then { t with best := (insertNode (x, node.id) t.best).take e.ef } else t
    else return t

/-- The loop of R454; `fuel` bounds it by the number of nodes. -/
def traverse (e : TravEnv) (q : Nat) : Nat → Trav → Rd Trav
  | 0, t => return t
  | fuel + 1, t =>
    match t.cand with
    | [] => return t
    | c :: rest =>
      let far := match t.best.getLast? with | some y => decide (y.1.1 < c.1) | none => false
      if t.hit || (t.best.length == e.ef && far) then return t
      else do
        let nbrs := ((t.seen.find? fun x => x.1 == c.2).map fun x => x.2.nbr).getD []
        let t ← nbrs.foldlM (visit e q) { t with cand := rest }
        traverse e q fuel t

/-- One query's traversal from the entry node. -/
def traverseFrom (e : TravEnv) (q entry : Nat) : Rd Trav := do
  if e.n = 0 then return { visits := 0 }
  else
    let node ← e.get entry
    let x : Res := (hamming q node.code, entry)
    let ok ← e.ok entry node
    traverse e q (e.n + 1) { cand := [x], best := if ok then [(x, node.id)] else [], seen := [(entry, node)] }

/-- A graph SEARCH: node visits and limited queries are counted as they occur, comparisons in a tile of the set that is free (assumption
log 137). -/
def graphSearch (d : Dev) (r : Run) (p : Sp) (h : Hdr) (qs : List Nat) (lst : List SideE) (first tiles : Nat) : Rd Found := do
  let k ← drawRd d tiles
  let e : TravEnv := ⟨fun n => do
    let x ← readNode d r h n
    countRd A.SRH_VISIT_CNT 48 1
    countRd (A.TSR_CMP_CNT (first + k)) 48 1
    return x, fun _ x => do
    if liveMain lst x.id then allowedId d r p x.id else return false, h.n, p.ef, p.maxV⟩
  let ts ← qs.mapM fun q => do
    let t ← traverseFrom e q h.entry
    countRd A.SRH_LIMIT_CNT 32 (b2n t.hit)
    return t
  let ins := liveInserts lst
  let res := ts.map fun t => t.best.foldl (fun acc x => insertRes p.k (x.1.1, x.2) acc) []
  let res ← searchSide d r p qs ins res
  let side := ins.length * qs.length
  countRd (A.TSR_CMP_CNT (first + k)) 48 side
  return { res := res, compared := (ts.map (·.visits)).sum + side, limited := (ts.filter (·.hit)).length }

/-! ## Results (R456, R457) -/

/-- A query's block. -/
def blockBytes (k : Nat) (l : List Res) : List Byte :=
  (List.range k).flatMap fun i => match l[i]? with
    | some (dist, id) => toLe 4 id ++ toLe 2 dist ++ toLe 2 0
    | none => toLe 4 noId ++ toLe 2 0xFFFF ++ toLe 2 0

/-- Bytes from one block to the next. -/
def blockStride (k : Nat) : Nat := (8 * k + 63) / 64 * 64

def writeBlocks (d : Dev) (r : Run) (p : Sp) (res : List (List Res)) : Rd Unit :=
  (List.range res.length).forM fun q => writeBytes d r (p.out + 64 + q * blockStride p.k) (blockBytes p.k (res.getD q []))

/-- The header line of a result area. -/
def resultLine (p : Sp) (t merged : Nat) : Line :=
  lineOf (toLe 8 p.qtag ++ toLe 2 p.q ++ toLe 2 p.k ++ toLe 4 0 ++ toLe 8 t ++ toLe 2 merged ++ toLe 38 0)

/-- Phase 1 of a MODE 0 SEARCH: blocks written; words of the command: index, T, comparisons, limited queries. -/
def searchWork (d : Dev) (r : Run) : Rd (List Nat) := do
  let p := spOf r
  let h := snapHdr r
  let qb ← readBytes d r p.query (p.q * h.wb)
  let qs := codesOf h.wb p.q qb
  let side ← readSide d r h h.base h.seq
  let lst := overOf side
  let (first, tiles) := match r.queue with | some q => (d.tileFirst q, d.tileCount q) | none => (0, 1)
  let f ← if h.kind = 0 then flatSearch d r p h qs lst first tiles else graphSearch d r p h qs lst first tiles
  writeBlocks d r p f.res
  return [r.idxKey, h.seq, min f.compared (2 ^ 32 - 1), f.limited]

/-- One partial list, if it takes part (R457): its queries' entries. -/
def readPart (d : Dev) (r : Run) (p : Sp) (va : Nat) : Rd (Option (List (List Res))) := do
  let hd ← readBytes d r va 64
  if leAt hd 0 8 = p.qtag ∧ leAt hd 8 2 = p.q ∧ leAt hd 10 2 = p.k then
    let blocks ← (List.range p.q).mapM fun q => do
      let l ← readBytes d r (va + 64 + q * blockStride p.k) (8 * p.k)
      return ((List.range p.k).map fun i => (leAt l (8 * i + 4) 2, leAt l (8 * i) 4)).filter fun x => x.2 != noId
    return some blocks
  else return none

/-- Phase 1 of COMBINE: words of the command: 0, 0, lists merged, lists left out. -/
def combineWork (d : Dev) (r : Run) : Rd (List Nat) := do
  let p := spOf r
  let addrs ← readBytes d r p.idx (8 * p.npart)
  let parts ← (List.range p.npart).mapM fun i => readPart d r p (leAt addrs (8 * i) 8)
  let took := parts.filterMap id
  let res := (List.range p.q).map fun q => (took.flatMap fun b => b.getD q []).foldl (fun acc x => insertRes p.k x acc) []
  countRd A.SRH_MISS_PART_CNT 32 (p.npart - took.length)
  writeBlocks d r p res
  return [0, 0, took.length, p.npart - took.length]

/-- SEARCH: parameters, then the index and the snapshot; blocks; the header line once every block is ordered; the completion
(R452 to R457). -/
def searchStep (r : Run) : M Unit := do
  let p := spOf r
  let w (i : Nat) : Nat := r.aux.getD i 0
  if r.phase = 0 then
    if !p.ok then setCpl r (fail Sc.malformed 0xD0)
    else if p.mode = 1 then setPhase r 1 [0]
    else runWork r (fun d r => do
      let x ← openIndex d r false p.idx
      if p.efOk (hdrOf x.2) then return x else failRd Sc.malformed 0xD0 0) (trackIndex r 1)
  else if r.phase = 1 then
    runWork r (if p.mode = 0 then searchWork else combineWork) fun l => setPhase r 2 l
  else if r.phase = 2 then
    if r.outs = 0 then
      runWork r (fun d r => writeBytes d r p.out (lineBytes (resultLine p (if p.mode = 0 then w 1 else 0) (if p.mode = 1 then w 2 else 0))))
        fun _ => setPhase r 3 r.aux
    else pure ()
  else if r.outs = 0 then do
    bump48 A.SRH_SEARCH_CNT 1
    setCpl r { detail := if w 3 = 0 then 0 else if p.mode = 0 then 0xD0 else 0xD1, a := w 2, b := w 3, result := if p.mode = 0 then w 1 else 0 }
  else pure ()

def search (r : Run) : M Unit := each (List.range 4) fun _ => again r.seq searchStep

/-! ## Side-list commands (R449 to R451) -/

/-- Whether it is a side-list command's turn on its index: none that started earlier runs on it, and no MERGE waits after its switch. -/
def Dev.sideTurn (d : Dev) (r : Run) : Bool :=
  let mine (x : Run) : Bool := x.onIndex && x.idxKey == r.idxKey
  !(d.cmd.runs.any fun x => mine x && x.op == Op.merge && decide (4 ≤ x.phase)) &&
    match d.cmd.runs.find? fun x => mine x && (x.op == Op.sideAppend || x.op == Op.sideDelete) with
    | some x => x.seq == r.seq
    | none => false

/-- Fields of a side-list command (R449). -/
def sideFields (r : Run) : Bool :=
  r.par 0 8 % 64 == 0 && r.par 8 8 % 64 == 0 && decide (1 ≤ r.par 16 2) && decide (r.par 16 2 ≤ 4096)

/-- The records of a side-list command, as (ID, code); `none` for one that breaks R449 or names NONE. -/
def sideRecords (d : Dev) (r : Run) (h : Hdr) : Rd (List (Nat × Nat)) := do
  let n := r.par 16 2
  let add := r.op == Op.sideAppend
  let sz := if add then h.es - 8 else 4
  let l ← readBytes d r (r.par 8 8) (sz * n)
  let recs := (List.range n).map fun i => (leAt l (sz * i) 4, if add then leAt l (sz * i + 8) h.wb else 0)
  let bad := (List.range n).any fun i => leAt l (sz * i) 4 == noId || (add && leAt l (sz * i + 4) 4 != 0)
  if bad then failRd Sc.malformed 0xD2 0 else return recs

/-- A side entry's bytes (R447). -/
def sideBytes (h : Hdr) (add : Bool) (s : Nat) (x : Nat × Nat) : List Byte :=
  toLe 8 s ++ toLe 4 x.1 ++ toLe 1 (if add then 1 else 2) ++ toLe 3 0 ++ toLe (h.es - 16) x.2

/-- Steps 1 and 2 of R450: the new SEQ. -/
def sideWork (d : Dev) (r : Run) : Rd Line := do
  let (_, line) ← openIndex d r true (r.par 0 8)
  let h := hdrOf line
  let recs ← sideRecords d r h
  let n := recs.length
  if h.sideCap < h.seq + n - h.base then
    throw (.fail { status := Sc.limit, detail := 0xD0, result := h.sideCap - (h.seq - h.base) })
  (List.range n).forM fun i => writeBytes d r (sideVa h (h.seq + 1 + i)) (sideBytes h (r.op == Op.sideAppend) (h.seq + 1 + i) (recs.getD i (0, 0)))
  return hdrLine { h with seq := h.seq + n }

/-- One step of a side-list command. -/
def sideStep (r : Run) : M Unit := do
  if r.phase = 0 then
    if sideFields r then runWork r (fun d r => openIndex d r true (r.par 0 8)) (trackIndex r 1) else setCpl r (fail Sc.malformed 0xD2)
  else
    let d ← dev
    if r.phase = 1 then
      on (d.sideTurn r) (runWork r sideWork fun l => do
        modRun r.seq fun x => { x with got := x.got.filter (fun g => g.key != hdrKey) ++ [{ key := hdrKey, data := [l] }] }
        setPhase r 2 r.aux)
    else if r.phase = 2 then
      on (r.outs == 0) (runWork r (fun d r => writeBytes d r (r.par 0 8) (lineBytes (hdrLine (snapHdr r)))) fun _ => setPhase r 3 r.aux)
    else on (r.outs == 0) (do
      bump48 A.SRH_SIDE_CNT (r.par 16 2)
      setCpl r { a := r.par 16 2, result := (snapHdr r).seq })

def sideCommand (r : Run) : M Unit := each (List.range 4) fun _ => again r.seq sideStep

/-! ## MERGE (R459, R460) -/

/-- The result of a fold: what to write where in the spare buffer, the new N and ENTRY, entries inserted and removed. -/
structure Fold where
  writes : List (Nat × List Byte)
  n : Nat
  entry : Nat
  ins : Nat
  gone : Nat
deriving Repr

/-- The merged main set exceeds CAP. -/
def overCap {α : Type} : Rd α := failRd Sc.limit 0xD1 0

/-- The fold of a flat index. -/
def foldFlat (d : Dev) (r : Run) (h : Hdr) (lst : List SideE) : Rd Fold := do
  let codes ← readBytes d r h.main (h.n * h.wb)
  let ids ← readBytes d r (h.main + h.cap * h.wb) (4 * h.n)
  let main := (codesOf h.wb h.n codes).zip (codesOf 4 h.n ids)
  let keep := main.filter fun x => !(lst.any fun e => e.id == x.2)
  let ins := liveInserts lst
  let new := keep ++ ins.map fun e => (e.code, e.id)
  if h.cap < new.length then overCap
  else return { writes := [(h.spare, new.flatMap fun x => toLe h.wb x.1), (h.spare + h.cap * h.wb, new.flatMap fun x => toLe 4 x.2)],
                n := new.length, entry := 0, ins := ins.length, gone := main.length - keep.length }

/-- Distance of two nodes. -/
def nodeDist (g : List Node) (a b : Nat) : Nat :=
  match g[a]?, g[b]? with
  | some x, some y => hamming x.code y.code
  | _, _ => 0

def liveNode (g : List Node) (n : Nat) : Bool := match g[n]? with | some x => x.id != noId | none => false

/-- The neighbour that a full node would give up for a nearer one: the farthest by (distance, node). -/
def farthest (g : List Node) (m : Nat) (nbr : List Nat) : Option Res :=
  (nbr.map fun x => (nodeDist g m x, x)).foldl (fun acc x => match acc with | some y => if resLt y x then some x else some y | none => some x) none

/-- Link a new node n into node m (R460). -/
def linkInto (g : List Node) (n m : Nat) : List Node :=
  match g[m]? with
  | none => g
  | some x =>
    match x.nbr.findIdx? (· == noId) with
    | some j => g.set m { x with nbr := x.nbr.set j n }
    | none =>
      match farthest g m x.nbr with
      | some f => if nodeDist g m n < f.1 then
          match x.nbr.findIdx? (· == f.2) with
          | some j => g.set m { x with nbr := x.nbr.set j n }
          | none => g
        else g
      | none => g

/-- A list cut or filled with NONE to a length. -/
def padNbr (deg : Nat) (l : List Nat) : List Nat := (l ++ List.replicate deg noId).take deg

/-- Insert one live insert into the graph (R460). -/
def insertGraph (h : Hdr) (newEf entry : Nat) (g : List Node) (e : SideE) : Rd (List Node) := do
  let n := (g.findIdx? fun x => x.id == noId).getD g.length
  if h.cap ≤ n then overCap
  else
    let blank : Node := ⟨e.code, e.id, List.replicate h.deg noId⟩
    let g1 := if n < g.length then g.set n blank else g ++ [blank]
    let env : TravEnv := ⟨fun i => return (g1[i]?).getD blank, fun i x => return (i != n && x.id != noId), g1.length, newEf, 0⟩
    let t ← traverseFrom env e.code entry
    let nb := (t.best.map fun x => x.1.2).take h.deg
    let g2 := g1.set n { blank with nbr := padNbr h.deg nb }
    return nb.foldl (fun g m => linkInto g n m) g2

/-- Replace the edges that lead to a node still free after the fold (R460). -/
def mendNode (freed : List Nat) (g : List Node) (m : Nat) : List Node :=
  if !(liveNode g m) then g
  else (List.range ((g[m]?.map fun x => x.nbr.length).getD 0)).foldl (fun g j =>
    match g[m]? with
    | none => g
    | some x =>
      let f := x.nbr.getD j noId
      if freed.contains f && !(liveNode g f) then
        let cs := (((g[f]?.map (·.nbr)).getD []).filter fun c => liveNode g c && c != m && !(x.nbr.contains c)).map fun c => (nodeDist g m c, c)
        let best := cs.foldl (fun acc c => match acc with | some y => if resLt c y then some c else some y | none => some c) (none : Option Res)
        g.set m { x with nbr := x.nbr.set j ((best.map (·.2)).getD noId) }
      else g) g

/-- The fold of a graph index. -/
def foldGraph (d : Dev) (r : Run) (h : Hdr) (newEf : Nat) (lst : List SideE) : Rd Fold := do
  let g ← (List.range h.n).mapM (readNode d r h)
  let freed := (List.range h.n).filter fun i => match g[i]? with | some x => x.id != noId && lst.any (fun e => e.id == x.id) | none => false
  let g0 := freed.foldl (fun g i => match g[i]? with | some x => g.set i { x with id := noId } | none => g) g
  let ins := liveInserts lst
  let g1 ← ins.foldlM (insertGraph h newEf h.entry) g0
  let g2 := (List.range g1.length).foldl (mendNode freed) g1
  let entry := if liveNode g2 h.entry then h.entry else ((List.range g2.length).find? (liveNode g2)).getD 0
  let recBytes (x : Node) : List Byte :=
    let l := toLe h.wb x.code ++ toLe 4 x.id ++ x.nbr.flatMap fun y => toLe 4 y
    l ++ List.replicate (h.rs - l.length) 0
  return { writes := [(h.spare, g2.flatMap recBytes)], n := g2.length, entry := entry, ins := ins.length, gone := freed.length }

/-- Step 2 of a MERGE: words of the command: index, S, new N, new ENTRY, inserted, removed. -/
def mergeWork (d : Dev) (r : Run) : Rd (List Nat) := do
  let h := snapHdr r
  let side ← readSide d r h h.base h.seq
  let lst := overOf side
  let f ← if h.kind = 0 then foldFlat d r h lst else foldGraph d r h (r.par 8 2) lst
  f.writes.forM fun x => writeBytes d r x.1 x.2
  return [r.idxKey, h.seq, f.n, f.entry, f.ins, f.gone]

/-- Step 3 of a MERGE: the header is written whole with SEQ as it then stands. -/
def mergeSwitch (d : Dev) (r : Run) : Rd Unit := do
  let l ← readBytes d r (r.par 0 8) 64 0 true
  let h := hdrOf (lineOf l)
  let w (i : Nat) : Nat := r.aux.getD i 0
  writeBytes d r (r.par 0 8) (lineBytes (hdrLine { h with cur := 1 - h.cur, n := w 2, entry := w 3, base := w 1 }))

/-- Whether another MERGE runs on an index. -/
def Dev.merging (d : Dev) (seq key : Nat) : Bool := d.cmd.runs.any fun x => x.onIndex && x.op == Op.merge && x.idxKey == key && x.seq != seq

/-- Whether a side-list command is between its header read and its header write on an index. -/
def Dev.sideMid (d : Dev) (key : Nat) : Bool :=
  d.cmd.runs.any fun x => x.onIndex && (x.op == Op.sideAppend || x.op == Op.sideDelete) && x.idxKey == key && decide (2 ≤ x.phase)

/-- MERGE: its fields, its index and its snapshot (R459, step 1). -/
def mergeStart (r : Run) : M Unit := do
  if r.phase ≠ 0 then pure ()
  else if r.par 0 8 % 64 ≠ 0 then setCpl r (fail Sc.malformed 0x06)
  else runWork r (fun d r => openIndex d r true (r.par 0 8)) fun x => do
    let d ← dev
    let ef := r.par 8 2
    if (hdrOf x.2).kind = 1 ∧ (ef < 16 ∨ 4096 < ef) then setCpl r (fail Sc.malformed 0x06)
    else if d.merging r.seq x.1 then setCpl r (fail Sc.retry 0xD1)
    else trackIndex r 1 x

/-- The fold ends and the header is switched (R459, steps 2 and 3). A switch waits for a side-list command that is between its entries and
its header. Searches whose snapshot is older than the switch are kept in the command's words from the seventh on. -/
def mergeBuildStep (r : Run) : M Unit := do
  let d ← dev
  if r.phase = 1 then runWork r mergeWork fun l => setPhase r 2 l
  else if r.phase = 2 then
    on (r.outs == 0 && !(d.sideMid r.idxKey)) (runWork r mergeSwitch fun _ => setPhase r 3 r.aux)
  else if r.phase = 3 then
    on (r.outs == 0) (do
      let old := (d.cmd.runs.filter fun x => x.onIndex && x.op == Op.search && x.idxKey == r.idxKey).map (·.seq)
      setPhase r 4 (r.aux ++ old))
  else pure ()

def mergeBuildDone (r : Run) : M Unit := each (List.range 3) fun _ => again r.seq mergeBuildStep

/-- Every SEARCH with an older snapshot has completed (R459, steps 4 and 5). -/
def mergeDrainEnd (r : Run) : M Unit := do
  let d ← dev
  let old := r.aux.drop 6
  if r.phase = 4 ∧ ¬ d.cmd.runs.any (fun x => old.contains x.seq && x.cpl.isNone) then do
    bump A.SRH_MERGE_CNT
    setCpl r { a := r.aux.getD 4 0, b := r.aux.getD 5 0, result := r.aux.getD 1 0 }
  else pure ()

/-! ## BITWISE (R461 to R463) -/

/-- The operation of two numbers of `w` bits. -/
def bitOp (op w a b : Nat) : Nat :=
  if op = 0 then a &&& b else if op = 1 then a ||| b else if op = 2 then a ^^^ b else if op = 3 then a &&& (b ^^^ (2 ^ w - 1)) else a

/-- lines_digest of R462 over little-endian words. -/
def linesDigest (d : Nat) (ws : List Nat) : Nat :=
  let x := ws.foldl (fun d w =>
    let y := d ^^^ w
    ((y * 2 ^ 23 % 2 ^ 64 + y / 2 ^ 41) * 0x9E3779B97F4A7C15) % 2 ^ 64) d
  x ^^^ (x >>> 31)

/-- The digest of one 4 KiB tile (R462). -/
def tileDigest (t : Nat) (l : List Byte) : Nat := linesDigest (0x243F6A8885A308D3 ^^^ t) (codesOf 8 512 l)

/-- The digest over a sequence of tile digests (R462). -/
def seqDigest (s : List Nat) : Nat :=
  let n := s.length
  let m := (n + 7) / 8
  linesDigest (0x243F6A8885A308D3 ^^^ n ^^^ 2 ^ 63) ((s ++ List.replicate (8 * m) 0).take (8 * m))

/-- Number of one bits of a byte string. -/
def popBytes (l : List Byte) : Nat := (l.map fun b => popcount.go 8 b.toNat).sum

/-- Whether the fields of BITWISE meet R461. -/
def bitFieldsOk (r : Run) : Bool :=
  let op := r.par 0 1
  let a := r.par 8 8
  let b := r.par 16 8
  let dst := r.par 24 8
  let len := r.par 32 8
  let two := decide (op ≤ 3)
  let outLen := if op = 5 then len / 512 else len
  let clash (src : Nat) : Bool := decide (src < dst + outLen) && decide (dst < src + len) && src != dst
  decide (op ≤ 5) && a % 64 == 0 && (if two then b % 64 == 0 else b == 0) && (if op = 4 then dst == 0 else dst % 64 == 0)
    && len % (if op = 5 then 4096 else 64) == 0 && decide (64 ≤ len) && decide (len ≤ 2 ^ 39)
    && !(two && (clash a || clash b)) && !(op == 5 && decide (a < dst + outLen) && decide (dst < a + len))

/-- Pieces of at most 4 KiB counted from the start of A. -/
def chunksOf (len : Nat) : List (Nat × Nat) := (List.range ((len + 4095) / 4096)).map fun i => (4096 * i, min 4096 (len - 4096 * i))

/-- A piece of A, read and counted by one of the search units of the command's set; which one is free. -/
def bitSource (d : Dev) (r : Run) (va len : Nat) : Rd (List Byte) := do
  let x ← readBytes d r va len
  match r.queue with
  | some q => countRd (A.TSR_BIT_CNT (d.tileFirst q + (← drawRd d (d.tileCount q)))) 48 len
  | none => pure ()
  return x

/-- The work of BITWISE. -/
def bitwiseWork (d : Dev) (r : Run) : Rd Cpl := do
  if !(bitFieldsOk r) then failRd Sc.malformed 0xD3 0
  else
    let op := r.par 0 1
    let a := r.par 8 8
    let b := r.par 16 8
    let dst := r.par 24 8
    let len := r.par 32 8
    let ch := chunksOf len
    if op ≤ 3 then
      let ones ← ch.mapM fun c => do
        let x ← bitSource d r (a + c.1) c.2
        let y ← readBytes d r (b + c.1) c.2
        let z := (x.zip y).map fun e => BitVec.ofNat 8 (bitOp op 8 e.1.toNat e.2.toNat)
        writeBytes d r (dst + c.1) z
        return popBytes z
      return { a := min ch.length (2 ^ 32 - 1), result := if tb (r.par 1 1) 0 then ones.sum else 0 }
    else if op = 4 then
      let ones ← ch.mapM fun c => do return popBytes (← bitSource d r (a + c.1) c.2)
      return { a := min ch.length (2 ^ 32 - 1), result := ones.sum }
    else
      let ds ← (List.range ch.length).mapM fun i => do return tileDigest i (← bitSource d r (a + 4096 * i) 4096)
      writeBytes d r dst (ds.flatMap fun x => toLe 8 x)
      return { a := min ch.length (2 ^ 32 - 1), result := seqDigest ds }

/-! ## Rows -/

def execSearch (r : Req) (s : State) : Host.Outcome State Fault Refusal := s.run (onRun Op.search r search)

def execSideAppend (r : Req) (s : State) : Host.Outcome State Fault Refusal := s.run (onRun Op.sideAppend r sideCommand)

def execSideDelete (r : Req) (s : State) : Host.Outcome State Fault Refusal := s.run (onRun Op.sideDelete r sideCommand)

def execMerge (r : Req) (s : State) : Host.Outcome State Fault Refusal := s.run (onRun Op.merge r mergeStart)

def execMergeBuildDone (r : Req) (s : State) : Host.Outcome State Fault Refusal := s.run (onRun Op.merge r mergeBuildDone)

def execMergeDrainEnd (r : Req) (s : State) : Host.Outcome State Fault Refusal := s.run (onRun Op.merge r mergeDrainEnd)

def execBitwise (r : Req) (s : State) : Host.Outcome State Fault Refusal := s.run (onRun Op.bitwise r fun x => runCpl x bitwiseWork)

end Sys2Proof.Machine
end

