-- ==== Sys2Proof/Machine/Num.lean ====
section
/-! DEFINITION. Numbers of the engines: the formats of R341, exact binary values, rounding to nearest with ties to even, FP32 addition and
division, and exponentials and sigmoids to within 1 ulp (R345 to R347, R364, R380). -/

namespace Sys2Proof.Machine

/-! ## Exact values -/

/-- An exact binary value m × 2^e. -/
structure Dy where
  m : Int
  e : Int
deriving DecidableEq, Repr

/-- 2^k for a non-negative integer, 1 otherwise. -/
def p2 (k : Int) : Int := (2 : Int) ^ k.toNat

def Dy.add (a b : Dy) : Dy :=
  let e := min a.e b.e
  ⟨a.m * p2 (a.e - e) + b.m * p2 (b.e - e), e⟩

def Dy.mul (a b : Dy) : Dy := ⟨a.m * b.m, a.e + b.e⟩
def Dy.neg (a : Dy) : Dy := ⟨-a.m, a.e⟩

/-- Whether a ≤ b. -/
def Dy.le (a b : Dy) : Bool := decide ((a.add b.neg).m ≤ 0)

/-- A number with its specials: NaN, an infinity with its sign (true negative), or a finite value with the sign that a zero keeps. -/
inductive FV where
  | nan
  | inf (neg : Bool)
  | fin (neg : Bool) (v : Dy)
deriving DecidableEq, Repr

def FV.zero : FV := .fin false ⟨0, 0⟩

/-- A finite value from an exact one: a zero takes the sign given. -/
def FV.ofDy (v : Dy) (zeroNeg : Bool) : FV := .fin (if v.m = 0 then zeroNeg else decide (v.m < 0)) v

def FV.isNan : FV → Bool
  | .nan => true
  | _ => false

def FV.isZero : FV → Bool
  | .fin _ v => v.m == 0
  | _ => false

/-- Product: signs by exclusive OR, an infinity times zero is NaN (R345, R346). -/
def FV.mul : FV → FV → FV
  | .nan, _ => .nan
  | _, .nan => .nan
  | .inf a, .inf b => .inf (a != b)
  | .inf a, .fin b v => if v.m = 0 then .nan else .inf (a != b)
  | .fin b v, .inf a => if v.m = 0 then .nan else .inf (a != b)
  | .fin a v, .fin b w => .fin (a != b) (v.mul w)

def FV.neg : FV → FV
  | .nan => .nan
  | .inf a => .inf (!a)
  | .fin a v => .fin (!a) v.neg

/-- Exact sum with the signs of zero of IEEE 754 under ties to even: −0 only from two zeros that are both −0. -/
def FV.add : FV → FV → FV
  | .nan, _ => .nan
  | _, .nan => .nan
  | .inf a, .inf b => if a = b then .inf a else .nan
  | .inf a, .fin _ _ => .inf a
  | .fin _ _, .inf a => .inf a
  | .fin a v, .fin b w => FV.ofDy (v.add w) (v.m == 0 && w.m == 0 && a && b)

/-- Exact scaling by a power of two. -/
def FV.scale (x : FV) (k : Int) : FV :=
  match x with
  | .fin n v => .fin n ⟨v.m, v.e + k⟩
  | y => y

/-! ## Formats (R341) -/

/-- A floating format: bits of exponent and mantissa, bias, whether it has infinities, the code of its largest finite magnitude, and the
NaN code it is written with. -/
structure Fmt where
  eb : Nat
  mb : Nat
  bias : Nat
  hasInf : Bool
  maxCode : Nat
  nanCode : Nat
deriving DecidableEq, Repr

def fmtBf16 : Fmt := ⟨8, 7, 127, true, 0x7F7F, 0x7FC0⟩
def fmtFp16 : Fmt := ⟨5, 10, 15, true, 0x7BFF, 0x7E00⟩
def fmtE4m3 : Fmt := ⟨4, 3, 7, false, 0x7E, 0x7F⟩
def fmtE5m2 : Fmt := ⟨5, 2, 15, true, 0x7B, 0x7F⟩
def fmtE3m2 : Fmt := ⟨3, 2, 3, false, 0x1F, 0⟩
def fmtE2m3 : Fmt := ⟨2, 3, 1, false, 0x1F, 0⟩
def fmtE2m1 : Fmt := ⟨2, 1, 1, false, 0x7, 0⟩
def fmtFp32 : Fmt := ⟨8, 23, 127, true, 0x7F7FFFFF, 0x7FC00000⟩

/-- Width of a format. -/
def Fmt.width (f : Fmt) : Nat := 1 + f.eb + f.mb

/-- The value of a code of a format. -/
def Fmt.dec (f : Fmt) (x : Nat) : FV :=
  let m := x % 2 ^ f.mb
  let e := x / 2 ^ f.mb % 2 ^ f.eb
  let neg := x / 2 ^ (f.mb + f.eb) % 2 = 1
  let mag := x % 2 ^ (f.mb + f.eb)
  if f.hasInf && e == 2 ^ f.eb - 1 then (if m = 0 then .inf neg else .nan)
  else if !f.hasInf && f.nanCode != 0 && mag == f.nanCode then .nan
  else
    let v : Int := if e = 0 then m else m + 2 ^ f.mb
    let ex : Int := (max 1 e : Int) - f.bias - f.mb
    .fin neg ⟨if neg then -v else v, ex⟩

/-- Shift right with rounding to nearest, ties to even. -/
def rneShift (m : Nat) (k : Nat) : Nat :=
  let q := m / 2 ^ k
  let r := m % 2 ^ k
  if k = 0 then m
  else if 2 ^ (k - 1) < r ∨ (r = 2 ^ (k - 1) ∧ q % 2 = 1) then q + 1 else q

/-- The code of a positive magnitude m × 2^e rounded to a format as if its exponent had no upper bound: it may exceed `maxCode`. -/
def Fmt.roundMag (f : Fmt) (m : Nat) (e : Int) : Nat :=
  if m = 0 then 0
  else
    let emin : Int := 1 - (f.bias : Int) - f.mb
    let top : Int := (Nat.log2 m : Int) + e
    let u : Int := max emin (top - f.mb)
    let q := if u ≤ e then m * 2 ^ (e - u).toNat else rneShift m (u - e).toNat
    if q < 2 ^ f.mb then q
    else ((u - emin).toNat + 1) * 2 ^ f.mb + (q - 2 ^ f.mb)

/-- Sign bit of a format. -/
def Fmt.signed (f : Fmt) (neg : Bool) (mag : Nat) : Nat := mag + (if neg then 2 ^ (f.mb + f.eb) else 0)

/-- What a conversion did at the limits of the format. -/
structure Conv where
  code : Nat
  /-- the limits of the format changed the value (R347), or an element was saturated (R380) -/
  limited : Bool := false
  /-- the value written is a NaN encoding -/
  isNan : Bool := false
deriving DecidableEq, Repr

/-- Conversion to a floating output format with the limits of R347. -/
def Fmt.out (f : Fmt) (sat : Bool) (x : FV) : Conv :=
  match x with
  | .nan => { code := f.nanCode, isNan := true }
  | .inf n =>
    if f.hasInf then { code := f.signed n (f.maxCode / 2 ^ f.mb * 2 ^ f.mb + 2 ^ f.mb) }
    else if sat then { code := f.signed n f.maxCode, limited := true }
    else { code := f.nanCode, limited := true, isNan := true }
  | .fin n v =>
    let c := f.roundMag v.m.natAbs v.e
    if c ≤ f.maxCode then { code := f.signed n c }
    else if sat then { code := f.signed n f.maxCode, limited := true }
    else if f.hasInf then { code := f.signed n (f.maxCode / 2 ^ f.mb * 2 ^ f.mb + 2 ^ f.mb) }
    else { code := f.nanCode, limited := true, isNan := true }

/-- Conversion that saturates (R380). -/
def Fmt.sat (f : Fmt) (x : FV) : Conv :=
  match x with
  | .nan => { code := f.nanCode, isNan := true }
  | .inf n => { code := f.signed n f.maxCode, limited := true }
  | .fin n v =>
    let c := f.roundMag v.m.natAbs v.e
    if c ≤ f.maxCode then { code := f.signed n c } else { code := f.signed n f.maxCode, limited := true }

/-- An exact value rounded to the nearest integer, ties to even. -/
def rneInt (v : Dy) : Int :=
  let q : Nat := if 0 ≤ v.e then v.m.natAbs * 2 ^ v.e.toNat else rneShift v.m.natAbs (-v.e).toNat
  if v.m < 0 then -(q : Int) else q

/-- An integer clamped to a range. -/
def clampInt (lo hi x : Int) : Int := max lo (min hi x)

/-- Conversion to a signed integer of `w` bits that clamps; NaN is written as 0 (R347, R380). -/
def intOut (w : Nat) (x : FV) : Conv :=
  let hi : Int := 2 ^ (w - 1) - 1
  let lo : Int := -2 ^ (w - 1)
  match x with
  | .nan => { code := 0, limited := true }
  | .inf n => { code := ((if n then lo else hi) % 2 ^ w).toNat, limited := true }
  | .fin _ v =>
    let r := rneInt v
    { code := (clampInt lo hi r % 2 ^ w).toNat, limited := decide (r < lo) || decide (hi < r) }

/-! ## FP32 -/

/-- FP32 rounding of an exact value: infinity on overflow, subnormals kept (R345). -/
def fp32Of (x : FV) : Nat := (fmtFp32.out false x).code

/-- The value of an FP32 code. -/
def fp32Val (x : Nat) : FV := fmtFp32.dec x

/-- FP32 sum (R345). -/
def fp32Add (a b : Nat) : Nat := fp32Of ((fp32Val a).add (fp32Val b))

/-- FP32 difference. -/
def fp32Sub (a b : Nat) : Nat := fp32Of ((fp32Val a).add (fp32Val b).neg)

/-- FP32 product. -/
def fp32Mul (a b : Nat) : Nat := fp32Of ((fp32Val a).mul (fp32Val b))

/-- FP32 quotient, rounded to nearest with ties to even: the quotient is formed with enough bits and a sticky bit. -/
def fp32Div (a b : Nat) : Nat :=
  match fp32Val a, fp32Val b with
  | .nan, _ => 0x7FC00000
  | _, .nan => 0x7FC00000
  | .inf _, .inf _ => 0x7FC00000
  | .inf n, .fin s _ => fp32Of (.inf (n != s))
  | .fin n _, .inf s => fmtFp32.signed (n != s) 0
  | .fin n v, .fin s w =>
    if w.m = 0 then (if v.m = 0 then 0x7FC00000 else fp32Of (.inf (n != s)))
    else
      let num := v.m.natAbs * 2 ^ 400
      let q := num / w.m.natAbs
      let sticky := if num % w.m.natAbs = 0 then 0 else 1
      let mag : Int := (2 * q + sticky : Nat)
      fp32Of (.fin (n != s) ⟨if n != s then -mag else mag, v.e - w.e - 401⟩)

/-- Whether FP32 a is greater than FP32 b (neither is NaN). -/
def fp32Gt (a b : Nat) : Bool :=
  match fp32Val a, fp32Val b with
  | .inf n, .inf s => !n && s
  | .inf n, .fin _ _ => !n
  | .fin _ _, .inf s => s
  | .fin _ v, .fin _ w => !(v.le w)
  | _, _ => false

def fp32IsNan (a : Nat) : Bool := (fp32Val a).isNan

/-! ## Exponential and sigmoid (R364) -/

/-- Fixed-point scale of the exponential. -/
abbrev expS : Nat := 2 ^ 320

/-- Taylor sum of exp(−t) in fixed point: terms from index `i`, `n` of them, with the sign alternating. -/
def expTaylor (t : Nat) : Nat → Nat → Int → Int
  | 0, _, _ => 0
  | n + 1, i, term => term + expTaylor t n (i + 1) (-(term * t / expS / (i + 1)))

/-- Square a fixed-point number n times. -/
def squares : Nat → Nat → Nat
  | 0, x => x
  | n + 1, x => squares n (x * x / expS)

/-- exp(−t) in fixed point for a fixed-point t below 128; at or above 128 the smallest positive value. -/
def expNeg (t : Nat) : Nat :=
  if 128 * expS ≤ t then 1
  else max 1 (squares 8 (expTaylor (t / 256) 64 0 expS).toNat)

/-- A fixed-point magnitude of an exact value. -/
def toFixed (v : Dy) : Nat :=
  let e := v.e + 320
  if 0 ≤ e then v.m.natAbs * 2 ^ (min e 2000).toNat else v.m.natAbs / 2 ^ (-e).toNat

/-- The FP32 code just at or below a positive fixed-point number. -/
def fp32Floor (x : Nat) : Nat :=
  let c := fmtFp32.roundMag x (-320)
  match fp32Val c with
  | .fin _ v => if (⟨x, -320⟩ : Dy).le v && !(v.le ⟨x, -320⟩) then c - 1 else c
  | _ => fmtFp32.maxCode

/-- The FP32 results within 1 ulp of a fixed-point number y, of which one is given by a free choice below 3. -/
def within1ulp (y : Nat) (isExact : Bool) (choice : Nat) : Nat :=
  let f := fp32Floor y
  if isExact then f - 1 + choice else f + choice % 2

/-- exp of an FP32 value that is not above 0, to within 1 ulp, by a free choice. -/
def fp32Exp (x choice : Nat) : Nat :=
  match fp32Val x with
  | .nan => 0x7FC00000
  | .inf n => if n then 0 else 0x7F800000
  | .fin _ v => within1ulp (expNeg (toFixed v)) (v.m == 0) choice

/-- The sigmoid of an FP32 value, to within 1 ulp, by a free choice. -/
def fp32Sigm (x choice : Nat) : Nat :=
  match fp32Val x with
  | .nan => 0x7FC00000
  | .inf n => if n then 0 else 0x3F800000
  | .fin neg v =>
    let ex := expNeg (toFixed v)
    let y := if neg then ex * expS / (expS + ex) else expS * expS / (expS + ex)
    within1ulp y (v.m == 0) choice

end Sys2Proof.Machine
end

