-- ==== Sys2Proof/Machine/Matrix.lean ====
section
/-! DEFINITION. MATMUL: formats, layouts and arithmetic of R341 to R356, the expander of R374 to R387, and SLOT_BIND (R358 to R361). -/

namespace Sys2Proof.Machine

/-! ## Element formats (R341 to R344) -/

/-- The floating format of a format code, if it is one. -/
def fmtOf (c : Nat) : Option Fmt :=
  if c = 0 then some fmtBf16 else if c = 1 then some fmtFp16 else if c = 2 ∨ c = 4 then some fmtE4m3
  else if c = 3 ∨ c = 5 then some fmtE5m2 else if c = 6 then some fmtE3m2 else if c = 7 then some fmtE2m3
  else if c = 8 then some fmtE2m1 else if c = 12 then some fmtFp32 else none

/-- Bits of an element. -/
def elemBits (c : Nat) : Nat :=
  if c ≤ 1 then 16 else if c ≤ 5 ∨ c = 9 then 8 else if c = 6 ∨ c = 7 then 6 else if c = 8 ∨ c = 10 then 4 else 32

/-- Whether a code is an MX format. -/
def isMx (c : Nat) : Bool := decide (4 ≤ c) && decide (c ≤ 8)

/-- Value of an integer as an operand. -/
def intFv (x : Int) : FV := .fin (decide (x < 0)) ⟨x, 0⟩

/-- Value of an element (R341). -/
def elemVal (c x : Nat) : FV :=
  match fmtOf c with
  | some f => f.dec x
  | none => intFv (sgn (elemBits c) x)

/-- Element `i` of a packed byte string read as a little-endian number (R342). -/
def elemAt (bits_ x i : Nat) : Nat := (x >>> (bits_ * i)) % 2 ^ bits_

/-- The scale of an E8M0 byte applied to a value (R342, R346). -/
def mxScale (e : Nat) (v : FV) : FV := if e = 0xff then .nan else v.scale ((e : Int) - 127)

/-- Dense MACs per cell and cycle divided by 32, which is Nc (R338, R343); `none` for a pair that MATMUL does not accept. -/
def pairNc (a w : Nat) : Option Nat :=
  let fp8 (c : Nat) : Bool := decide (2 ≤ c) && decide (c ≤ 7)
  if w ≤ 1 then (if a ≤ 1 then some 16 else none)
  else if fp8 w then (if fp8 a || a == 8 then some 32 else none)
  else if w = 8 then (if a = 8 then some 64 else if fp8 a then some 32 else none)
  else if w = 9 then (if a = 9 then some 32 else none)
  else if w = 10 then (if a = 10 then some 64 else if a = 9 then some 32 else none)
  else if w = 11 then
    (if a = 9 ∨ (2 ≤ a ∧ a ≤ 5) then some 128 else if a ≤ 1 then some 64 else none)
  else none

/-- Whether a pair accumulates in INT32 (R343). -/
def intPair (w : Nat) : Bool := w == 9 || w == 10

/-! ## Parameters (R354) -/

/-- The parameters of a MATMUL. -/
structure Mm where
  af : Nat
  wf : Nat
  fo : Nat
  sparse : Nat
  accum : Bool
  zin : Bool
  zout : Bool
  sat : Bool
  lr : Bool
  slots : Bool
  layer : Nat
  scale : Nat
  m : Nat
  k : Nat
  n : Nat
  aVa : Nat
  aLd : Nat
  asVa : Nat
  zVa : Nat
  wVa : Nat
  wsVa : Nat
  wmVa : Nat
  cVa : Nat
  cLd : Nat
  zoVa : Nat
  smVa : Nat
deriving Repr

def mmOf (r : Run) : Mm :=
  let f := r.par 4 1
  { af := r.par 0 1, wf := r.par 1 1, fo := r.par 2 1, sparse := r.par 3 1 % 4, accum := tb f 0, zin := tb f 1, zout := tb f 2,
    sat := tb f 3, lr := tb f 4, slots := tb f 5, layer := r.par 8 1, scale := r.par 12 4, m := r.par 16 4, k := r.par 20 4,
    n := r.par 24 4, aVa := r.par 32 8, aLd := r.par 40 8, asVa := r.par 48 8, zVa := r.par 56 8, wVa := r.par 64 8,
    wsVa := r.par 72 8, wmVa := r.par 80 8, cVa := r.par 88 8, cLd := r.par 96 8, zoVa := r.par 104 8, smVa := r.par 112 8 }

/-- Bytes of an output element. -/
def outBytes (c : Nat) : Nat := elemBits c / 8

def Mm.nc (p : Mm) : Nat := (pairNc p.af p.wf).getD 16
def Mm.mc (p : Mm) : Nat := 65536 / p.nc
def Mm.arow (p : Mm) : Nat := p.k * elemBits p.af / 8
def Mm.crow (p : Mm) : Nat := p.n * outBytes p.fo
def Mm.zld (p : Mm) : Nat := (p.k + 2047) / 2048 * 8
def Mm.zold (p : Mm) : Nat := (p.n + 2047) / 2048 * 8
def Mm.sld (p : Mm) : Nat := (p.k / 32 + 63) / 64 * 64
def Mm.isInt (p : Mm) : Bool := intPair p.wf

/-- An FP32 code that is a zero. -/
def isFp32Zero (x : Nat) : Bool := x % 2 ^ 31 == 0

/-- The checks of R355 at orders 1 to 3, as (status, DETAIL). -/
def Mm.check (p : Mm) : Option (Nat × Nat) :=
  let codes := [p.af, p.wf, p.fo]
  if codes.any (fun c => 15 ≤ c) || p.sparse == 3 then some (Sc.malformed, 0x06)
  else if codes.any (fun c => c == 14) || (pairNc p.af p.wf).isNone || !([0, 1, 2, 3, 9, 12, 13].contains p.fo)
      || (p.fo == 13 && !p.isInt) || (p.accum && p.fo != (if p.isInt then 13 else 12))
      || (p.lr && (p.sparse != 0 || p.wf == 11)) then some (Sc.unsupported, 0x90)
  else
    let dims := decide (1 ≤ p.m) && decide (p.m ≤ 65536) && p.k % 64 == 0 && decide (64 ≤ p.k) && decide (p.k ≤ 1048576)
      && p.n % 64 == 0 && decide (64 ≤ p.n) && decide (p.n ≤ 1048576)
    let addr (used : Bool) (va al : Nat) : Bool := if used then va % al == 0 else va == 0
    let addrs := addr true p.aVa 64 && addr (isMx p.af) p.asVa 64 && addr p.zin p.zVa 8 && addr true p.wVa 64
      && addr (isMx p.wf || p.wf == 11 || p.lr) p.wsVa 64 && addr (p.sparse != 0 || p.lr) p.wmVa 64 && addr true p.cVa 64
      && addr p.zout p.zoVa 8 && addr p.slots p.smVa 64
    let lds := p.aLd % 64 == 0 && p.cLd % 64 == 0 && decide (p.arow ≤ p.aLd) && decide (p.crow ≤ p.cLd)
    if dims && addrs && lds && !(p.accum && !isFp32Zero p.scale) && !(p.lr && p.wmVa == 0) then none
    else some (Sc.malformed, 0x90)

/-! ## Sequence slots (R358 to R361) -/

/-- Whether a slot is BOUND to a domain and context. -/
def Dev.slotBound (d : Dev) (s dom ctx : Nat) : Bool :=
  decide (s < 256) && d.fld (A.RTE_SLOT_CFG s) F.RTE_SLOT_CFG_STATE == 1 &&
    d.fld (A.RTE_SLOT_CFG s) F.RTE_SLOT_CFG_DOMAIN == dom && d.fld (A.RTE_SLOT_CFG s) F.RTE_SLOT_CFG_CONTEXT == ctx

/-- Bit of a slot's SKIP_MASK. -/
def Dev.slotSkips (d : Dev) (s layer : Nat) : Bool := bit (d.reg (A.RTE_SLOT_MASK s (layer / 64))) (layer % 64)

/-- The slot map read and checked (R355, order 4): for each row 2 × slot + 1 when the row is skipped, 2 × slot otherwise. -/
def slotSnap (d : Dev) (r : Run) (va rows layer : Nat) : Rd (List Nat) := do
  let l ← readBytes d r va (2 * rows)
  let slots := (List.range rows).map fun i => leAt l (2 * i) 2
  if slots.all fun s => s == 0xffff || d.slotBound s r.dom r.ctx then
    return slots.map fun s => 2 * s + b2n (s != 0xffff && d.slotSkips s layer)
  else failRd Sc.rights 0x90 0

/-- Whether a row of a snapshot is skipped; without a snapshot none is. -/
def skipped (snap : List Nat) (i : Nat) : Bool := snap.getD i 0 % 2 == 1

/-- Add bits to a slot's mask (R361). -/
def orMask (s : Nat) (m : BitVec 256) : M Unit :=
  each (List.range 4) fun w => do
    let v ← rd (A.RTE_SLOT_MASK s w)
    wr (A.RTE_SLOT_MASK s w) (v ||| (m >>> (64 * w)).setWidth 64)

/-- Set a slot's mask. -/
def setMask (s : Nat) (m : BitVec 256) : M Unit :=
  each (List.range 4) fun w => wr (A.RTE_SLOT_MASK s w) ((m >>> (64 * w)).setWidth 64)

/-- A slot becomes FREE; the counts follow (R360). -/
def unbindSlot (s : Nat) : M Unit := do
  let dom ← fget (A.RTE_SLOT_CFG s) F.RTE_SLOT_CFG_DOMAIN
  wr (A.RTE_SLOT_CFG s) 0
  wr (A.RTE_SLOT_STATE s) 0
  setMask s 0
  let n ← fget (A.DOM_USE dom) F.DOM_USE_SLOTS_BOUND
  fset (A.DOM_USE dom) F.DOM_USE_SLOTS_BOUND (n - 1)
  let t ← fget A.RTE_STATUS F.RTE_STATUS_SLOTS_BOUND
  fset A.RTE_STATUS F.RTE_STATUS_SLOTS_BOUND (t - 1)

/-- A slot becomes BOUND. -/
def bindSlot (s dom ctx va : Nat) (m : BitVec 256) : M Unit := do
  wr (A.RTE_SLOT_CFG s) (F.RTE_SLOT_CFG_STATE.put (F.RTE_SLOT_CFG_DOMAIN.put (F.RTE_SLOT_CFG_CONTEXT.put 0 ctx) dom) 1)
  wr (A.RTE_SLOT_STATE s) (BitVec.ofNat 64 va)
  setMask s m
  fadd (A.DOM_USE dom) F.DOM_USE_SLOTS_BOUND 1
  fadd A.RTE_STATUS F.RTE_STATUS_SLOTS_BOUND 1

/-- Whether a running command has read the mask of a slot. -/
def Dev.slotInUse (d : Dev) (s : Nat) : Bool :=
  d.cmd.runs.any fun r => (r.op == Op.matmul || r.op == Op.route) && r.phase != 0 && r.phase != blkPhase &&
    (r.got.any fun g => g.key == slotKey && g.data.any fun x => bits x (2 * s) 1 == 1)
where
  /-- Key under which a command keeps the set of slots it uses. -/
  slotKey : Nat := 4 * 2 ^ 81

/-- The set of slots of a snapshot, as a line with bit 2 × slot set for each. -/
def slotSet (snap : List Nat) : Line :=
  (snap.filter fun x => x / 2 != 0xffff).foldl (fun acc x => acc ||| BitVec.ofNat 512 (2 ^ (2 * (x / 2)))) 0

/-- Keep the set of slots of a command. -/
def keepSlots (r : Run) (snap : List Nat) : M Unit :=
  modRun r.seq fun x => { x with got := x.got ++ [{ key := Dev.slotInUse.slotKey, data := [slotSet snap] }] }

/-- Refusals of SLOT_BIND at orders 1 to 6 (R360). -/
def Dev.slotBindCheck (d : Dev) (r : Run) : Option (Nat × Nat) :=
  let s := r.par 0 1
  let mode := r.par 1 1
  let va := r.par 8 8
  let mask := r.par 16 32
  if 3 < mode then some (Sc.malformed, 0x06)
  else if (if mode = 0 then va % 64 != 0 else va != 0) || (mode == 1 && mask != 0) then some (Sc.malformed, 0x94)
  else if mode = 0 then
    if d.fld (A.RTE_SLOT_CFG s) F.RTE_SLOT_CFG_STATE = 1 then some (Sc.rights, 0x91)
    else if d.fld (A.DOM_USE r.dom) F.DOM_USE_SLOTS_BOUND = d.fld (A.DOM_CFG r.dom) F.DOM_CFG_SLOT_QUOTA then some (Sc.limit, 0x90)
    else none
  else if !(d.slotBound s r.dom r.ctx) then some (Sc.rights, 0x90)
  else if mode = 1 ∧ d.slotInUse s then some (Sc.retry, 0x90)
  else none

/-- SLOT_BIND (R359 to R361). -/
def slotBind (r : Run) : M Unit := do
  let d ← dev
  match d.slotBindCheck r with
  | some (st, dt) => setCpl r (fail st dt)
  | none =>
    let s := r.par 0 1
    let mode := r.par 1 1
    let mask := BitVec.ofNat 256 (r.par 16 32)
    if mode = 0 then
      runWork r (fun d r => do let _ ← tr d r (r.par 8 8) .r; let _ ← tr d r (r.par 8 8) .w) fun _ => do
        bindSlot s r.dom r.ctx (r.par 8 8) mask
        setCpl r {}
    else
      (if mode = 1 then unbindSlot s else if mode = 2 then setMask s mask else orMask s mask)
      setCpl r {}

/-! ## Weights (R349 to R351) -/

/-- A weight column of one 64-row tile: for each row its value, or `none` where sparsity omits it. -/
abbrev WCol := List (Option FV)

/-- Bytes of a stored tile and of a column of it (R349). -/
def colBytes (wf sparse : Nat) : Nat :=
  if wf = 11 then (if sparse = 0 then 13 else if sparse = 1 then 7 else 4)
  else 8 * elemBits wf / 2 ^ sparse

def tileBytes (wf sparse : Nat) : Nat :=
  if wf = 11 then (if sparse = 0 then 832 else if sparse = 1 then 448 else 256) else 64 * colBytes wf sparse

/-- Values kept in a column. -/
def kept (sparse : Nat) : Nat := 64 / 2 ^ sparse

/-- Digit i of a TRIT5 byte as a weight (R342). -/
def tritVal (byte i : Nat) : FV :=
  let dg := byte / 3 ^ i % 3
  intFv (if dg = 1 then 1 else if dg = 2 then -1 else 0)

/-- The first malformed byte of a TRIT5 column (R351): above 242, or with a padding trit that is not 0. -/
def tritBad (n : Nat) (l : List Byte) : Option Nat :=
  (List.range l.length).find? fun j =>
    let b := (l.getD j 0).toNat
    decide (242 < b) || (List.range 5).any fun i => decide (n ≤ 5 * j + i) && b / 3 ^ i % 3 != 0

/-- The stored values of a column. -/
def colVals (wf sparse : Nat) (l : List Byte) : List FV :=
  if wf = 11 then (List.range (kept sparse)).map fun i => tritVal (l.getD (i / 5) 0).toNat (i % 5)
  else
    let x := leBytes l
    (List.range (kept sparse)).map fun i => elemVal wf (elemAt (elemBits wf) x i)

/-- The 64 rows of a column from its stored values and its metadata word (R350). -/
def placeCol (sparse : Nat) (vals : List FV) (md : Nat) : WCol :=
  (List.range 64).map fun k =>
    let g := k / 4
    let j := k % 4
    if sparse = 0 then vals[k]?
    else if sparse = 1 then
      if elemAt 2 md (2 * g) = j then vals[2 * g]? else if elemAt 2 md (2 * g + 1) = j then vals[2 * g + 1]? else none
    else if elemAt 2 md g = j then vals[g]? else none

/-- The first 2:4 group of a metadata word whose first index is not less than its second (R351). -/
def metaBad (md : Nat) : Option Nat := (List.range 16).find? fun g => decide (elemAt 2 md (2 * g + 1) ≤ elemAt 2 md (2 * g))

/-- Weight columns of one tile with their two scale values each (MX scales of the two K blocks; the TRIT5 scale twice; nothing
otherwise). -/
structure WTile where
  cols : List WCol
  xw : List (Nat × Nat)
deriving Repr

/-- Columns n0 to n0 + cnt − 1 of weight tile t as stored (R349 to R351). -/
def readW (d : Dev) (r : Run) (p : Mm) (t n0 cnt : Nat) : Rd WTile := do
  let cb := colBytes p.wf p.sparse
  let va := p.wVa + t * tileBytes p.wf p.sparse + n0 * cb
  let l ← readBytes d r va (cnt * cb)
  let mb := if p.sparse = 1 then 8 else 4
  let mva := p.wmVa + t * (64 * mb) + mb * n0
  let md ← if p.sparse = 0 then pure [] else readBytes d r mva (cnt * mb)
  let sva := p.wsVa + t * 128 + 2 * n0
  let sc ← if isMx p.wf || p.wf == 11 then readBytes d r sva (2 * cnt) else pure []
  if p.sparse = 1 then
    (List.range cnt).forM fun n => match metaBad (leAt md (8 * n) 8) with
      | some g => failRd Sc.malformed 0x91 (mva + 8 * n + g / 2)
      | none => pure ()
  if p.wf = 11 then
    (List.range cnt).forM fun n => match tritBad (kept p.sparse) ((l.drop (n * cb)).take cb) with
      | some j => failRd Sc.malformed 0x92 (va + n * cb + j)
      | none => pure ()
  return {
    cols := (List.range cnt).map fun n => placeCol p.sparse (colVals p.wf p.sparse ((l.drop (n * cb)).take cb)) (leAt md (mb * n) mb)
    xw := (List.range cnt).map fun n =>
      if p.wf = 11 then (leAt sc (2 * n) 2, leAt sc (2 * n) 2) else (leAt sc (2 * n) 1, leAt sc (2 * n + 1) 1) }

/-! ## The expander (R375 to R387) -/

/-- Rank, bytes of a factor element, by W_FMT and RATIO (R375). -/
def lrRank (wf ratio : Nat) : Nat :=
  let l := if wf ≤ 5 ∨ wf = 9 then [16, 11, 8] else if wf = 6 ∨ wf = 7 then [12, 8, 6] else [8, 5, 4]
  l.getD (ratio - 1) 0

def lrBytes (wf : Nat) : Nat := if wf ≤ 1 then 2 else 1

/-- Bytes of a factored tile. -/
def lrSlot (wf ratio : Nat) : Nat := 128 * lrRank wf ratio * lrBytes wf

/-- A factor element or scale: an infinity is taken as NaN (R379). -/
def facVal (f : Fmt) (x : Nat) : FV :=
  match f.dec x with
  | .inf _ => .nan
  | v => v

/-- emax of an MX element format (R380). -/
def mxEmax (wf : Nat) : Int := if wf = 4 then 8 else if wf = 5 then 15 else if wf = 6 then 4 else 2

/-- The larger of two magnitudes. -/
def maxMag (a b : Dy) : Dy := if (⟨a.m.natAbs, a.e⟩ : Dy).le ⟨b.m.natAbs, b.e⟩ then ⟨b.m.natAbs, b.e⟩ else ⟨a.m.natAbs, a.e⟩

/-- floor(log2) of a positive magnitude. -/
def floorLog2 (v : Dy) : Int := (Nat.log2 v.m.natAbs : Int) + v.e

/-- What the expander makes of values: elements with their values, the scale byte of the block, elements saturated, and NaN counts. -/
structure Xp where
  vals : List FV
  scale : Nat
  sat : Nat
  nan : Nat
deriving Repr

/-- One MX block (R380). -/
def mxBlock (wf : Nat) (l : List FV) : Xp :=
  if l.any FV.isNan then { vals := l.map fun _ => FV.zero, scale := 0xff, sat := 0, nan := 1 }
  else
    let amax : Dy := l.foldl (fun acc v => match v with | .fin _ x => maxMag acc x | _ => acc) ⟨0, 0⟩
    let e : Int := if amax.m = 0 then -127 else clampInt (-127) 127 (floorLog2 amax - mxEmax wf)
    let f := (fmtOf wf).getD fmtE4m3
    let cs := l.map fun v => f.sat (v.scale (-e))
    { vals := cs.map fun c => f.dec c.code, scale := (e + 127).toNat, sat := (cs.filter (·.limited)).length, nan := 0 }

/-- A block of 32 values that is not MX (R380). -/
def plainBlock (wf : Nat) (l : List FV) : Xp :=
  let nans := (l.filter FV.isNan).length
  match fmtOf wf with
  | some f =>
    let cs := l.map f.sat
    { vals := cs.map fun c => f.dec c.code, scale := 0, sat := (cs.filter (·.limited)).length, nan := nans }
  | none =>
    let w := elemBits wf
    let cs := l.map (intOut w)
    { vals := cs.map fun c => intFv (sgn w c.code), scale := 0, sat := (cs.filter (·.limited)).length - nans, nan := nans }

/-- Columns n0 to n0 + cnt − 1 of a factored tile, expanded (R376, R379, R380). -/
def readLr (d : Dev) (r : Run) (p : Mm) (ratio t n0 cnt : Nat) : Rd WTile := do
  let rk := lrRank p.wf ratio
  let fb := lrBytes p.wf
  let f := if fb = 2 then fmtBf16 else fmtE4m3
  let l ← readBytes d r (p.wVa + t * lrSlot p.wf ratio) (lrSlot p.wf ratio)
  let sc ← readBytes d r (p.wsVa + t * 128 + 2 * n0) (2 * cnt)
  let fac (i : Nat) : FV := facVal f (leAt l (fb * i) fb)
  let cols := (List.range cnt).map fun n =>
    let s := facVal fmtBf16 (leAt sc (2 * n) 2)
    (List.range 64).map fun k =>
      ((List.range rk).foldl (fun acc j => acc.add ((fac (k * rk + j)).mul (fac (64 * rk + 64 * j + n0 + n)))) FV.zero).mul s
  let blocks := cols.map fun c =>
    let f := if isMx p.wf then mxBlock p.wf else plainBlock p.wf
    (f (c.take 32), f (c.drop 32))
  let tot (g : Xp → Nat) : Nat := (blocks.map fun b => g b.1 + g b.2).sum
  match r.queue with
  | some q =>
    let tile := d.tileFirst q + (← drawRd d (d.tileCount q))
    countRd (A.XPD_STRIP_CNT tile) 48 1
    countRd (A.XPD_SAT_CNT tile) 32 (tot (·.sat))
    countRd (A.XPD_NAN_CNT tile) 32 (tot (·.nan))
  | none => pure ()
  return { cols := blocks.map fun b => (b.1.vals ++ b.2.vals).map some, xw := blocks.map fun b => (b.1.scale, b.2.scale) }

/-- The 2 MiB granules of a range, by the first address of the range in each. -/
def granulesOf (va len : Nat) : List Nat :=
  if len = 0 then []
  else (List.range ((va + len - 1) / 2097152 + 1 - va / 2097152)).map fun i => max va (2097152 * (va / 2097152 + i))

/-- The header line of a factored tensor as read (R377). -/
def lrHeader (d : Dev) (r : Run) (p : Mm) : Rd Rline := do
  let l ← readLines d r p.wmVa 1
  return l.headD ⟨0, 0, 0⟩

/-- The RATIO with which the factor range of check 1 is formed: the header's, where the header holds one, and otherwise the one with the
smallest slots (assumption log 23). -/
def lrRangeRatio (d : Dev) (r : Run) (p : Mm) : Rd Nat := do
  let x ← lrHeader d r p
  let ratio := le x.data 0 1
  return if x.poison ≠ 0 ∨ ratio = 0 ∨ 3 < ratio then 3 else ratio

/-- Translate every granule of a range: its first address and the class of its segment or window. -/
def lrProbe (d : Dev) (r : Run) (va len : Nat) : Rd (List (Nat × Nat)) :=
  (granulesOf va len).mapM fun g => do
    let t ← tr d r g .r
    return (g, t.cls)

/-- A SEALED factor source is refused and counted on the first tile (R147, R378, R389). -/
def lrSealed (d : Dev) (r : Run) (l : List (Nat × Nat)) : Rd Unit :=
  match l.find? (fun x => x.2 == 1) with
  | some x => do
    match r.queue with
    | some q => countRd (A.XPD_SEALED_CNT (d.tileFirst q)) 32 1
    | none => pure ()
    failRd Sc.rights 0x37 x.1
  | none => pure ()

/-- The checks of R378; the value is RATIO. Nothing is read while any segment found by then is SEALED (R147): the header, which says how long
the factor range is, is read once the part of that range that every RATIO has and the scale range have passed (assumption log 23). -/
def lrCheck (d : Dev) (r : Run) (p : Mm) : Rd Nat := do
  let tiles := (p.k / 64) * (p.n / 64)
  let h ← lrProbe d r p.wmVa 64
  let f3 ← lrProbe d r p.wVa (tiles * lrSlot p.wf 3)
  let s ← lrProbe d r p.wsVa (tiles * 128)
  lrSealed d r (h ++ f3 ++ s)
  let rr ← lrRangeRatio d r p
  let f ← lrProbe d r (p.wVa + tiles * lrSlot p.wf 3) (tiles * lrSlot p.wf rr - tiles * lrSlot p.wf 3)
  lrSealed d r f
  let x ← lrHeader d r p
  let ratio := le x.data 0 1
  if x.poison ≠ 0 then failRd Sc.poisoned x.poison p.wmVa
  else if ratio = 0 ∨ 3 < ratio ∨ le x.data 1 1 ≠ lrRank p.wf ratio ∨ le x.data 2 1 ≠ p.wf ∨ le x.data 3 1 ≠ 0
      ∨ le x.data 12 52 ≠ 0 then failRd Sc.malformed 0xA0 p.wmVa
  else if le x.data 4 4 ≠ p.k ∨ le x.data 8 4 ≠ p.n then failRd Sc.malformed 0xA1 p.wmVa
  else return ratio

/-! ## Arithmetic (R345 to R347, R352) -/

/-- Accumulators: FP32 codes, or INT32 values. -/
abbrev Acc32 := Int

/-- The block sum of one K block for one column (R345, R346): an omitted weight adds no term. -/
def blockSum (a : List FV) (w : WCol) : FV :=
  let terms := (a.zip w).filterMap fun x => x.2.map fun y => x.1.mul y
  match terms with
  | [] => FV.zero
  | t :: ts => ts.foldl FV.add t

/-- The value of an exact integer sum. -/
def fvInt (x : FV) : Int := match x with | .fin _ v => rneInt v | _ => 0

/-- One step of an accumulator: the new value, and whether sat32 clamped (R345). -/
def accStep (isInt : Bool) (acc : Acc32) (s : FV) : Acc32 × Bool :=
  if isInt then
    let x := acc + fvInt s
    let y := clampInt (-2147483648) 2147483647 x
    (y, decide (y ≠ x))
  else (((fp32Of ((fp32Val acc.toNat).add s)) : Nat), false)

/-- Conversion of an accumulator to OUT_FMT (R347). -/
def outConv (p : Mm) (acc : Acc32) : Conv :=
  if p.fo = 13 then { code := (acc % 2 ^ 32).toNat }
  else
    let v := if p.isInt then intFv acc else fp32Val acc.toNat
    let sc := if isFp32Zero p.scale then intFv 1 else fp32Val p.scale
    let x := if p.isInt && acc == 0 && !sc.isNan then (match sc with | .inf _ => FV.nan | _ => FV.zero) else v.mul sc
    match fmtOf p.fo with
    | some f => f.out p.sat x
    | none => intOut 8 x

/-- Whether an output element counts in COUNT_B (R347). -/
def outLimited (p : Mm) (c : Conv) : Bool := p.fo != 13 && c.limited

/-- Whether a written code is a zero of its format. -/
def isZeroCode (fo code : Nat) : Bool :=
  match fmtOf fo with
  | some f => code % 2 ^ (f.width - 1) == 0
  | none => code == 0

/-! ## A unit of work (R340, R352) -/

/-- One row of A in a unit: its index, its zero map and its accumulators. -/
structure MmRow where
  m : Nat
  z : Nat
  acc : List Acc32
deriving Repr

/-- Values of K block kb of row m, scaled as its MX scale says where it is MX. -/
structure ABlock where
  vals : List FV
  xa : Nat
deriving Repr

def readA (d : Dev) (r : Run) (p : Mm) (m kb : Nat) : Rd ABlock := do
  let w := elemBits p.af
  let l ← readBytes d r (p.aVa + m * p.aLd + kb * 4 * w) (4 * w)
  let xa ← if isMx p.af then readNat d r (p.asVa + m * p.sld + kb) 1 else pure 0
  let x := leBytes l
  return ⟨(List.range 32).map fun i => elemVal p.af (elemAt w x i), xa⟩

/-- The scaled block sum of one row and one column in K block j (0 or 1) of a tile (R345). -/
def scaledSum (p : Mm) (a : ABlock) (j : Nat) (c : WCol × (Nat × Nat)) : FV :=
  let s := blockSum a.vals ((c.1.drop (32 * j)).take 32)
  let s := if isMx p.af then mxScale a.xa s else s
  let e := if j = 0 then c.2.1 else c.2.2
  if isMx p.wf then mxScale e s else if p.wf = 11 then s.mul (fmtBf16.dec e) else s

/-- A row's accumulators after one K block; with them the clamps by sat32. -/
def rowBlock (d : Dev) (r : Run) (p : Mm) (w : WTile) (kt j : Nat) (x : MmRow × Nat) : Rd (MmRow × Nat) := do
  if tb x.1.z (2 * kt + j) then return x
  else
    let a ← readA d r p x.1.m (2 * kt + j)
    let new := (x.1.acc.zip (w.cols.zip w.xw)).map fun y => accStep p.isInt y.1 (scaledSum p a j y.2)
    return ({ x.1 with acc := new.map (·.1) }, x.2 + (new.filter (·.2)).length)

/-- Cycles of a row that the zero map skips in one 64-row tile of W (R352): each zero block when dense, both together when sparse. -/
def skipCycles (p : Mm) (z kt : Nat) : Nat :=
  let a := b2n (tb z (2 * kt))
  let b := b2n (tb z (2 * kt + 1))
  if p.sparse = 0 then a + b else a * b

/-- The weight columns n0 to n0 + cnt − 1 (of all N) in K tile kt. -/
def readCols (d : Dev) (r : Run) (p : Mm) (ratio kt n0 cnt : Nat) : Rd WTile := do
  let nts := (List.range ((n0 % 64 + cnt + 63) / 64)).map (· + n0 / 64)
  let l ← nts.mapM fun nt => do
    let lo := max n0 (64 * nt)
    let hi := min (n0 + cnt) (64 * nt + 64)
    let t := nt * (p.k / 64) + kt
    if p.lr then readLr d r p ratio t (lo % 64) (hi - lo) else readW d r p t (lo % 64) (hi - lo)
  return ⟨(l.map (·.cols)).flatten, (l.map (·.xw)).flatten⟩

/-- What a unit adds up to: output codes of its rows, cycles skipped by the zero map, elements that count in COUNT_B. -/
structure UnitOut where
  rows : List (Nat × List Nat)
  skip : Nat
  limited : Nat
deriving Repr

/-- The accumulators that a unit starts with (R345). -/
def startRow (d : Dev) (r : Run) (p : Mm) (n0 cnt m : Nat) : Rd MmRow := do
  let z ← if p.zin then readNat d r (p.zVa + m * p.zld) p.zld else pure 0
  let acc ← if p.accum then do
      let l ← readBytes d r (p.cVa + m * p.cLd + 4 * n0) (4 * cnt)
      pure ((List.range cnt).map fun i => if p.isInt then sgn 32 (leAt l (4 * i) 4) else ((leAt l (4 * i) 4 : Nat) : Int))
    else pure (List.replicate cnt 0)
  return ⟨m, z, acc⟩

/-- One unit: columns n0 to n0 + cnt − 1, the rows given. -/
def runUnit (d : Dev) (r : Run) (p : Mm) (ratio n0 cnt : Nat) (rows : List Nat) : Rd UnitOut := do
  let start ← rows.mapM fun m => startRow d r p n0 cnt m
  let res ← (List.range (p.k / 64)).foldlM (fun (x : List MmRow × Nat) kt => do
    let w ← readCols d r p ratio kt n0 cnt
    let out ← x.1.mapM fun row => do
      let y ← rowBlock d r p w kt 0 (row, 0)
      rowBlock d r p w kt 1 y
    return (out.map (·.1), x.2 + (out.map (·.2)).sum)) (start, 0)
  let convs := res.1.map fun row => (row.m, row.acc.map (outConv p))
  let skip := (res.1.map fun row => ((List.range (p.k / 64)).map (skipCycles p row.z)).sum).sum
  match r.queue with
  | some q =>
    let c ← drawRd d (8 * d.tileCount q)
    let tile := d.tileFirst q + c / 8
    let sets := p.k / (if p.sparse = 0 then 32 else 64)
    countRd (if r.bf then A.MTX_BF_CNT tile (c % 8) else A.MTX_ACTIVE_CNT tile (c % 8)) 48 (rows.length * sets - skip)
    countRd (A.MTX_WLOAD_CNT tile (c % 8)) 48 (← drawRd d (2 ^ 48))
    on' (p.lr && !r.bf) (countRd (A.XPD_STALL_CNT tile) 48 (← drawRd d (2 ^ 48)))
    countRd (A.MTX_SKIP_CNT tile (c % 8)) 48 skip
    countRd (A.MTX_SAT_CNT tile (c % 8)) 32 res.2
    countRd (A.MTX_NAN_CNT tile (c % 8)) 32 ((convs.map fun x => (x.2.filter (·.isNan)).length).sum)
  | none => pure ()
  return ⟨convs.map fun x => (x.1, x.2.map (·.code)), skip, (convs.map fun x => (x.2.filter (outLimited p)).length).sum⟩
where
  on' (c : Bool) (m : Rd Unit) : Rd Unit := if c then m else pure ()

/-- Write the output rows of a unit. -/
def writeUnit (d : Dev) (r : Run) (p : Mm) (n0 : Nat) (u : UnitOut) : Rd Unit :=
  u.rows.forM fun x => writeBytes d r (p.cVa + x.1 * p.cLd + n0 * outBytes p.fo) (x.2.map fun c => toLe (outBytes p.fo) c).flatten

/-- The output zero map of a row: a bit for each 32 outputs, set when all of them are zero (R348). -/
def zoutRow (p : Mm) (codes : List Nat) : List Byte :=
  let z := ((List.range (p.n / 32)).map fun b =>
    if ((codes.drop (32 * b)).take 32).all (isZeroCode p.fo) then 2 ^ b else 0).sum
  toLe p.zold z

/-! ## MATMUL (R355, R356) -/

/-- The work of a MATMUL whose slots have been read. -/
def matmulWork (d : Dev) (r : Run) : Rd Cpl := do
  let p := mmOf r
  let ratio ← if p.lr then lrCheck d r p else pure 0
  let nc := p.nc
  let units := (List.range ((p.n + nc - 1) / nc)).flatMap fun nb => (List.range ((p.m + p.mc - 1) / p.mc)).map fun mb => (nb, mb)
  let outs ← units.mapM fun u => do
    let n0 := u.1 * nc
    let all := (List.range (min p.mc (p.m - u.2 * p.mc))).map (· + u.2 * p.mc)
    let rows := all.filter fun m => !(skipped r.aux m)
    let o ← runUnit d r p ratio n0 (min nc (p.n - n0)) rows
    writeUnit d r p n0 o
    return (o, all.length - rows.length)
  if p.zout then
    ((List.range p.m).filter fun m => !(skipped r.aux m)).forM fun m =>
      let codes := (outs.map fun o => (o.1.rows.filter fun x => x.1 == m).flatMap (·.2)).flatten
      writeBytes d r (p.zoVa + m * p.zold) (zoutRow p codes)
  let kc := if p.sparse = 0 then 32 else 64
  let cycles ← drawRd d (2 ^ 64)
  return { a := min ((outs.map fun o => o.1.skip + o.2 * (p.k / kc)).sum) (2 ^ 32 - 1)
           b := min ((outs.map fun o => o.1.limited).sum) (2 ^ 32 - 1)
           result := cycles }

/-- Start a MATMUL: the checks of R355, with the slot map read and kept. -/
def matmulStart (r : Run) : M Unit := do
  let p := mmOf r
  match p.check with
  | some (st, dt) => setCpl r (fail st dt)
  | none =>
    if p.slots then
      runWork r (fun d r => slotSnap d r p.smVa p.m p.layer) fun snap => do
        if snap.all fun x => x % 2 == 1 then
          fadd A.RTE_SKIP_CNT ⟨0, 32⟩ p.m
          setCpl r (fail Sc.ok 0x90)
        else
          fadd A.RTE_SKIP_CNT ⟨0, 32⟩ (snap.filter fun x => x % 2 == 1).length
          keepSlots r snap
          setPhase r 1 snap
    else setPhase r 1 []

/-- MATMUL (R354 to R356, R374 to R387). -/
def matmul (r : Run) : M Unit := do
  on (r.phase == 0) (matmulStart r)
  again r.seq fun r => on (r.phase == 1) (runCpl r matmulWork)

def execMatmul (r : Req) (s : State) : Host.Outcome State Fault Refusal := s.run (onRun Op.matmul r matmul)

def execSlotBind (r : Req) (s : State) : Host.Outcome State Fault Refusal := s.run (onRun Op.slotBind r slotBind)

end Sys2Proof.Machine
end

