-- ==== Sys2Proof/Machine/Lease.lean ====
section
/-! DEFINITION. Leases of extents to Talku ports: the fence, LEASE_GRANT, LEASE_RENEW, LEASE_REVOKE and the expiry examination (R272 to
R281). -/

namespace Sys2Proof.Machine

/-- Set the state of an extent's tag (R127, R132). -/
def setExtState (e st : Nat) : M Unit := fset (A.DOM_EXT_TAG e) F.DOM_EXT_TAG_STATE st

/-- Extents FIRST_EXT to FIRST_EXT + COUNT − 1. -/
def extsFrom (first count : Nat) : List Nat := (List.range count).map (· + first)

/-- HOLDERS and LEASE_ID of an extent's lease record (R274). -/
def Dev.holders (d : Dev) (e : Nat) : Nat := d.fld (A.LSE_EXT e) F.LSE_EXT_HOLDERS
def Dev.leaseId (d : Dev) (e : Nat) : Nat := d.fld (A.LSE_EXT e) F.LSE_EXT_LEASE_ID

/-- What extents of one run of a notice share: LEASE_ID, holders and domain (R275). -/
def Dev.leaseMark (d : Dev) (e : Nat) : Nat × Nat × Nat := (d.leaseId e, d.holders e, d.extDom e)

/-- Runs of consecutive extents that share their mark, as (first, count) (R275). -/
def Dev.leaseRuns (d : Dev) : List Nat → List (Nat × Nat)
  | [] => []
  | e :: t =>
    match d.leaseRuns t with
    | (f, n) :: rest => if f = e + 1 ∧ d.leaseMark f = d.leaseMark e then (e, n + 1) :: rest else (e, 1) :: (f, n) :: rest
    | [] => [(e, 1)]

/-- The unit of a LEASE_NOTICE (R275). -/
def noticeUnit (first count id reason dom tick : Nat) : BitVec 128 :=
  BitVec.ofNat 128 (first % 65536 + count % 65536 * 2 ^ 16 + id % 65536 * 2 ^ 32 + reason % 256 * 2 ^ 48 + dom % 32 * 2 ^ 56
    + tick % 2 ^ 64 * 2 ^ 64)

/-- Tell the ports of a mask about a run of extents. -/
def leaseNotice (ports first count id reason dom tick : Nat) : M Unit :=
  each (portsOf ports) fun p => sendNotice p { type := 0x64, units := [noticeUnit first count id reason dom tick] }

/-- Fence extents that are ASSIGNED (R279, R280): the tags become FENCED, EXPIRY reads zero, each former holder of a run gets one
notice, and the requests that waited meet the new tag. A request is ordered and applied at one point in the model, so none is
left to complete under the old tag. -/
def fenceExts (exts : List Nat) (reason : Nat) : M Unit := do
  let d ← dev
  each exts fun e => do
    setExtState e Xs.fenced
    wr (A.LSE_EXPIRY e) 0
  each (d.leaseRuns exts) fun x => leaseNotice (d.holders x.1) x.1 x.2 (d.leaseId x.1) reason (d.extDom x.1) d.now
  serveAll
  reserveCredits

/-! ## LEASE_GRANT (R275 to R277) -/

/-- The term in force for a TERM_MS: 0 takes LSE_CFG.DEFAULT_TERM_MS within its bounds (R275, R287). -/
def Dev.leaseTerm (d : Dev) (term : Nat) : Nat :=
  if term = 0 then max 10 (min 60000 (d.fld A.LSE_CFG F.LSE_CFG_DEFAULT_TERM_MS)) else term

/-- Number of ports in a mask. -/
def portCount (m : Nat) : Nat := (portsOf m).length

/-- The refusal of a LEASE_GRANT, if any (R276). -/
def Dev.grantRefusal (d : Dev) (dom first count ports term : Nat) : Option (Nat × Nat) :=
  let exts := extsFrom first count
  let st (p : Nat) := d.portState p
  if count = 0 ∨ ports = 0 ∨ (term ≠ 0 ∧ (term < 10 ∨ 60000 < term)) then some (Sc.malformed, 0x06)
  else if 384 < first + count then some (Sc.hole, 0)
  else if 1 < portCount ports ∧ d.fld A.LSE_MODE F.LSE_MODE_MODE = 0 then some (Sc.rights, 0x74)
  else if (portsOf ports).any fun p => st p == Ps.quarantined then some (Sc.quarantined, 0x70)
  else if (portsOf ports).any fun p => st p != Ps.up && st p != Ps.lowPower then some (Sc.retry, 0x70)
  else if exts.any fun e => d.extDom e != dom then some (Sc.rights, 0x35)
  else if exts.any fun e => decide (2 ≤ d.extState e) then some (Sc.revoked, 0x30)
  else if exts.any fun e => d.extState e == Xs.assigned then some (Sc.rights, 0x71)
  else none

/-- The steps of an accepted grant (R277). -/
def grantLease (r : Run) (first count ports term : Nat) : M Unit := do
  let d ← dev
  let id := max 1 (d.fld A.LSE_STATUS F.LSE_STATUS_NEXT_ID)
  fset A.LSE_STATUS F.LSE_STATUS_NEXT_ID (if id = 0xFFFF then 1 else id + 1)
  let expiry := d.now + term * 50000
  each (extsFrom first count) fun e => do
    setExtState e Xs.assigned
    wr (A.LSE_EXT e) (F.LSE_EXT_TERM_MS.put (F.LSE_EXT_LEASE_ID.put (F.LSE_EXT_HOLDERS.put 0 ports) id) term)
    wr (A.LSE_EXPIRY e) (BitVec.ofNat 64 expiry)
  fadd A.LSE_GRANT_CNT F.LSE_GRANT_CNT_COUNT count
  leaseNotice ports first count id 1 r.dom expiry
  setCpl r (okCpl count 0 id)

/-- LEASE_GRANT. -/
def leaseGrant (r : Run) : M Unit := do
  let d ← dev
  let first := r.par 0 2
  let count := r.par 2 2
  let ports := r.par 4 1
  let term := r.par 6 2
  match d.grantRefusal r.dom first count ports term with
  | some (st, dt) => setCpl r (fail st dt)
  | none => grantLease r first count ports (d.leaseTerm term)

/-! ## LEASE_RENEW (R278) -/

/-- Whether a command's queue may renew the lease of an extent. -/
def Dev.mayRenew (d : Dev) (i : Iss) (e : Nat) : Bool :=
  d.allDomains i || (match i with | .q n => tb (d.holders e) (d.qcfg n F.CMD_Q_CFG_PORT) | _ => true)

/-- The refusal of a LEASE_RENEW, if any. -/
def Dev.renewRefusal (d : Dev) (i : Iss) (first count id : Nat) : Option (Nat × Nat) :=
  let exts := extsFrom first count
  if count = 0 then some (Sc.malformed, 0x06)
  else if 384 < first + count then some (Sc.hole, 0)
  else if exts.any fun e => decide (2 ≤ d.extState e) then some (Sc.revoked, 0x30)
  else if exts.any fun e => d.extState e != Xs.assigned || !(d.mayRenew i e) then some (Sc.rights, 0x72)
  else if exts.any fun e => d.leaseId e != id then some (Sc.stale, 0x70)
  else none

/-- LEASE_RENEW. -/
def leaseRenew (r : Run) : M Unit := do
  let d ← dev
  let first := r.par 0 2
  let count := r.par 2 2
  match d.renewRefusal r.iss first count (r.par 4 2) with
  | some (st, dt) => setCpl r (fail st dt)
  | none =>
    let term (e : Nat) := d.fld (A.LSE_EXT e) F.LSE_EXT_TERM_MS
    let exts := extsFrom first count
    each exts fun e => wr (A.LSE_EXPIRY e) (BitVec.ofNat 64 (d.now + term e * 50000))
    setCpl r (okCpl 0 0 (d.now + (exts.map term).foldl min 65535 * 50000))

/-! ## LEASE_REVOKE (R280) -/

/-- The refusal of a LEASE_REVOKE, if any. -/
def Dev.revokeRefusal (d : Dev) (first count : Nat) : Option (Nat × Nat) :=
  if count = 0 then some (Sc.malformed, 0x06)
  else if 384 < first + count then some (Sc.hole, 0)
  else if (extsFrom first count).any fun e => d.extState e == Xs.clean then some (Sc.rights, 0x73)
  else none

/-- LEASE_REVOKE. -/
def leaseRevoke (r : Run) : M Unit := do
  let d ← dev
  let first := r.par 0 2
  let count := r.par 2 2
  match d.revokeRefusal first count with
  | some (st, dt) => setCpl r (fail st dt)
  | none =>
    let held := (extsFrom first count).filter fun e => d.extState e == Xs.assigned
    fenceExts held 2
    fadd A.LSE_REVOKE_CNT F.LSE_REVOKE_CNT_COUNT held.length
    setCpl r (okCpl held.length (count - held.length) 0)

/-! ## Expiry (R279) -/

/-- Whether an EXPIRY, of which LSE_EXPIRY holds bits 47:0, lies before a tick of the 64-bit AON counter (assumption log 25). -/
def tickPassed (expiry t : Nat) : Bool :=
  let x := (t % 2 ^ 48 + 2 ^ 48 - expiry % 2 ^ 48) % 2 ^ 48
  decide (0 < x) && decide (x < 2 ^ 47)

/-- One examination of the expiry ticks. -/
def leaseScan (tick : Nat) : M Unit := do
  passTo tick
  let d ← dev
  let gone := (List.range 384).filter fun e =>
    d.extState e == Xs.assigned && tickPassed (d.fld (A.LSE_EXPIRY e) F.LSE_EXPIRY_TICK) d.now
  fenceExts gone 3
  each gone fun e => do
    bump A.LSE_EXPIRE_CNT
    raise Ev.lseExpired 0 e (some (d.extDom e)) 0 (d.leaseId e) (d.holders e)

/-- LEASE_EXPIRY_SCAN: none is made in P3; what falls there is applied on exit (R279). -/
def leaseExpiryScan (tick : Nat) : M Unit := do
  let d ← dev
  if d.power = 3 then pure () else leaseScan tick

/-! ## Rows -/

def execLeaseGrant (r : Req) (s : State) : Host.Outcome State Fault Refusal := s.run (onRun Op.leaseGrant r leaseGrant)

def execLeaseRenew (r : Req) (s : State) : Host.Outcome State Fault Refusal := s.run (onRun Op.leaseRenew r leaseRenew)

def execLeaseRevoke (r : Req) (s : State) : Host.Outcome State Fault Refusal := s.run (onRun Op.leaseRevoke r leaseRevoke)

def execLeaseExpiryScan (tick : Nat) (s : State) : Host.Outcome State Fault Refusal := s.run (leaseExpiryScan tick)

end Sys2Proof.Machine
end

