-- ==== Sys2Proof/Machine/Own.lean ====
section
/-! DEFINITION. Region ownership (R232 to R241) and published versions (R242 to R246). -/

namespace Sys2Proof.Machine

/-! ## Records and messages -/

/-- The EPOCH after one (R232). -/
def epochNext (e : Nat) : Nat := if e = 0xFFFF then 1 else e + 1

/-- The EPOCH before one (R232). -/
def epochPrev (e : Nat) : Nat := if e = 1 then 0xFFFF else e - 1

/-- Write the record of a region. -/
def setOwn (region : Nat) (x : OwnRec) : M Unit := modOwn fun o => { o with recs := tset {} o.recs region x }

/-- Kinds of an OWN message (R298). -/
abbrev ownOfferK : Nat := 1
abbrev ownAcceptK : Nat := 2
abbrev ownReleaseK : Nat := 3
abbrev ownReleasedK : Nat := 4
abbrev ownReclaimK : Nat := 5
abbrev ownAnswerK : Nat := 6

/-- The unit of an OWN message (R298). -/
def ownUnit (kind off epoch status : Nat) : Line := putLe (putLe (putLe (putLe 0 0 1 kind) 8 8 off) 16 2 epoch) 18 1 status

/-- Send an OWN message to a node. -/
def sendOwnMsg (dst kind off epoch status : Nat) : M Unit := do
  let d ← dev
  sendDrs { type := 0x62, len := 1, dst := dst, src := d.node, units := [ownUnit kind off epoch status] }

/-- The waits of R235, R237 and R238: 50,000 AON cycles. -/
abbrev ownWait : Nat := 50000

/-- An OWN_TRANSFER ends. -/
def endXfer (x : Xfer) (status detail : Nat) : M Unit := do
  let d ← dev
  modOwn fun o => { o with xfers := o.xfers.filter fun y => y != x }
  modRun x.seq fun r => { r with cpl := match r.cpl with | some c => some c | none => some { status := status, detail := detail,
                                                                                             result := (d.ownRec x.region).epoch } }

/-! ## At the home -/

/-- Steps 2 to 4 of R235. -/
def grantRegion (x : Xfer) : M Unit := do
  let d ← dev
  let o := d.ownRec x.region
  let e := epochNext o.epoch
  if x.newOwner = d.node then
    setOwn x.region { o with st := 0, owner := 0, pend := 0, epoch := e, stateful := x.stateful, reclaimed := false }
    endXfer x Sc.ok (if x.noRel then 0x60 else 0)
  else
    setOwn x.region { o with st := 1, owner := if o.st = 0 then d.node else o.owner, pend := x.newOwner, epoch := e,
                             stateful := x.stateful, reclaimed := false }
    let x' := { x with releaseDue := none, acceptDue := some (d.now + ownWait) }
    modOwn fun w => { w with xfers := w.xfers.map fun y => if y == x then x' else y }
    sendOwnMsg x.newOwner ownOfferK (x.region <<< 21) e 0

/-- The refusal of an OWN_TRANSFER, if any (R234). -/
def Dev.transferRefusal (d : Dev) (r : Run) : Option (Nat × Nat) :=
  let off := r.par 0 8
  let new := r.par 8 2
  let o := d.ownRec (off >>> 21)
  let e := extentOf off
  if off % 2 ^ 21 ≠ 0 ∨ !(d.inSpan new) then some (Sc.malformed, 0x60)
  else if storeEnd ≤ off then some (Sc.hole, 0)
  else if !(d.allDomains r.iss) && d.extDom e != r.dom then some (Sc.rights, 0x61)
  else if 2 ≤ d.extState e then some (Sc.revoked, 0x30)
  else if o.st = 1 then some (Sc.retry, 0x62)
  else if r.par 10 2 ≠ o.epoch then some (Sc.stale, 0x60)
  else none

/-- OWN_TRANSFER (R233, R235). One whose region awaits the release of an earlier transfer waits and is then checked (assumption log
26). -/
def ownTransfer (r : Run) : M Unit := do
  let d ← dev
  let region := r.par 0 8 >>> 21
  if d.own.xfers.any fun x => x.seq == r.seq then pure ()
  else if d.own.xfers.any fun x => x.region == region && x.releaseDue.isSome then pure ()
  else match d.transferRefusal r with
    | some (st, dt) => setCpl r { status := st, detail := dt, result := (d.ownRec region).epoch }
    | none =>
      let o := d.ownRec region
      let new := r.par 8 2
      let x : Xfer := ⟨r.seq, region, new, r.par 12 1 % 2 == 1, none, none, false⟩
      if o.st = 2 ∧ o.owner ≠ new then
        modOwn fun w => { w with xfers := w.xfers ++ [{ x with releaseDue := some (d.now + ownWait) }] }
        sendOwnMsg o.owner ownReleaseK (region <<< 21) o.epoch 0
      else
        modOwn fun w => { w with xfers := w.xfers ++ [x] }
        grantRegion x

/-- RELEASED arrives from the former owner (R235, step 1). -/
def regionReleased (src region : Nat) : M Unit := do
  let d ← dev
  match d.own.xfers.find? fun x => x.region == region && x.releaseDue.isSome with
  | some x => if (d.ownRec region).owner = src then grantRegion x else pure ()
  | none => pure ()

/-- The former owner has not released in time (R235, step 1). -/
def releaseTimeout (region : Nat) : M Unit := do
  let d ← dev
  match d.own.xfers.find? fun x => x.region == region && x.releaseDue.isSome with
  | none => pure ()
  | some x =>
    passTo (x.releaseDue.getD 0)
    bump A.HOM_NOREL_CNT
    raise Ev.noRelease (region % 8) (d.ownRec region).owner none 0 0 (region <<< 21)
    let x' := { x with noRel := true }
    modOwn fun w => { w with xfers := w.xfers.map fun y => if y == x then x' else y }
    grantRegion x'

/-- A GRANTED region has had no valid ACCEPT in time (R238). -/
def reclaimRegion (region : Nat) : M Unit := do
  let d ← dev
  let o := d.ownRec region
  match d.own.xfers.find? fun x => x.region == region && x.acceptDue.isSome with
  | none => pure ()
  | some x =>
    passTo (x.acceptDue.getD 0)
    setOwn region { o with st := 0, owner := 0, pend := 0, epoch := epochNext o.epoch, reclaimed := true }
    bump A.HOM_RECLAIM_CNT
    sendOwnMsg o.pend ownReclaimK (region <<< 21) (epochNext o.epoch) 0
    endXfer x Sc.reclaimed 0x60
    serveAll
    reserveCredits

/-- What the home makes of an ACCEPT from a node, as the status of its answer (R237). -/
def acceptRegion (src off epoch : Nat) : M Nat := do
  let d ← dev
  let region := off >>> 21
  let o := d.ownRec region
  if off % 2 ^ 21 ≠ 0 ∨ storeEnd ≤ off then return Sc.stale
  else if o.st = 1 ∧ o.pend = src ∧ o.epoch = epoch then
    setOwn region { o with st := 2, owner := src, pend := 0 }
    match d.own.xfers.find? fun x => x.region == region && x.acceptDue.isSome with
    | some x => endXfer x Sc.ok (if x.noRel then 0x60 else 0)
    | none => pure ()
    serveAll
    reserveCredits
    return Sc.ok
  else if o.st = 0 ∧ o.reclaimed ∧ epoch = epochPrev o.epoch then return Sc.reclaimed
  else return Sc.stale

/-- The record of a region that has been returned home (R240, R241). -/
def OwnRec.returned (o : OwnRec) : OwnRec := { o with st := 0, owner := 0, pend := 0, epoch := epochNext o.epoch }

/-- Return every region of an extent home when Gesso starts on it (R241). -/
def returnHome (e : Nat) : M Unit := do
  let d ← dev
  each (d.own.recs.filter fun x => x.1 >>> 9 == e && x.2.st == 2) fun x => sendOwnMsg x.2.owner ownReleaseK (x.1 <<< 21) x.2.epoch 0
  let mine := (List.range 512).map fun i => (512 * e + i, (d.ownRec (512 * e + i)).returned)
  modOwn fun o => { o with recs := o.recs.filter (fun x => decide (x.1 < 512 * e)) ++ mine ++ o.recs.filter fun x => decide (512 * e + 512 ≤ x.1) }
  each (d.own.xfers.filter fun x => x.region >>> 9 == e) fun x => endXfer x Sc.aborted 0x60

/-- A device has been expelled: the regions that it owns or was offered come home (R240). The regions poisoned are those of state that
their owner wrote. -/
def regionsOfExpelled (node : Nat) : M Unit := do
  let d ← dev
  let mine := d.own.recs.filter fun x => (x.2.st == 2 && x.2.owner == node) || (x.2.st == 1 && x.2.pend == node)
  each mine fun x => do
    setOwn x.1 x.2.returned
    on x.2.stateful (do
      each (List.range 32768) fun i => poisonLine (x.1 * 32768 + i) 4
      raise Ev.reqStateLost (x.1 % 8) node none 0 0 (x.1 <<< 21))
  each (d.own.xfers.filter fun x => (x.acceptDue.isSome && x.newOwner == node) || (x.releaseDue.isSome && (d.ownRec x.region).owner == node)) fun x =>
    endXfer x Sc.reclaimed 0x60
  serveAll
  reserveCredits

/-! ## At the owner -/

/-- OWN_ACCEPT ends. -/
def endAccept (a : Accepting) (status detail : Nat) : M Unit := do
  modOwn fun o => { o with accepting := o.accepting.filter fun x => x != a }
  modRun a.seq fun r => { r with cpl := match r.cpl with | some c => some c | none => some (fail status detail) }

/-- The home's answer to an ACCEPT (R237). -/
def acceptAnswered (a : Accepting) (status : Nat) : M Unit := do
  on (status == Sc.ok) (modOwn fun o =>
    { o with ownedHere := (o.ownedHere.filter fun x => !(x.1 == a.node && x.2.1 == a.off)) ++ [(a.node, a.off, a.epoch)] })
  endAccept a status (if status = Sc.ok then 0 else if status = Sc.reclaimed then 0x60 else 0x61)

/-- OWN_ACCEPT (R237). -/
def ownAccept (r : Run) : M Unit := do
  let d ← dev
  let a : Accepting := ⟨r.seq, r.par 0 2, r.par 8 8, r.par 16 2, d.now + ownWait⟩
  if d.own.accepting.any fun x => x.seq == r.seq then pure ()
  else if 4096 ≤ d.own.ownedHere.length then setCpl r (fail Sc.limit 0x60)
  else
    modOwn fun o => { o with accepting := o.accepting ++ [a] }
    if a.node = d.node then do
      let st ← acceptRegion d.node a.off a.epoch
      acceptAnswered a st
    else sendOwnMsg a.node ownAcceptK a.off a.epoch 0

/-- No answer to an ACCEPT has come in time (R237). -/
def acceptTimeout (node region : Nat) : M Unit := do
  let d ← dev
  match d.own.accepting.find? fun a => a.node == node && a.off >>> 21 == region with
  | none => pure ()
  | some a =>
    passTo a.due
    endAccept a Sc.timeout 0x60

/-- OWN_RELEASE reaches the owner: it drops its retained copies of the region and its owned-table entry, and answers (R235). -/
def releaseHere (src off epoch : Nat) : M Unit := do
  modOwn fun o => { o with ownedHere := o.ownedHere.filter fun x => !(x.1 == src && x.2.1 == off),
                           ret := o.ret.filter fun x => !(x.kind == 2 && x.node == src && decide (off / 64 ≤ x.line) && decide (x.line < off / 64 + 32768)) }
  sendOwnMsg src ownReleasedK off epoch 0

/-- An OWN message takes effect here (R235 to R238). -/
def ownMsg (m : DMsg) : M Unit := do
  let u := m.units.headD 0
  let kind := le u 0 1
  let off := le u 8 8
  let epoch := le u 16 2
  let status := le u 18 1
  if kind = ownOfferK then raise Ev.ownOffer 0 m.src none 0 epoch off
  else if kind = ownReclaimK then raise Ev.ownReclaimed 0 m.src none 0 epoch off
  else if kind = ownReleaseK then releaseHere m.src off epoch
  else if kind = ownReleasedK then regionReleased m.src (off >>> 21)
  else if kind = ownAcceptK then do
    let st ← acceptRegion m.src off epoch
    sendOwnMsg m.src ownAnswerK off epoch st
  else if kind = ownAnswerK then do
    let d ← dev
    match d.own.accepting.find? fun a => a.node == m.src && a.off == off && a.epoch == epoch with
    | some a => acceptAnswered a status
    | none => pure ()
  else pure ()

/-! ## Published versions (R242 to R246) -/

/-- First region and number of regions of the current and previous buffers of an object. -/
def Dev.pubBuffers (d : Dev) (i : Nat) : List (Nat × Nat) :=
  let len := d.fld (A.HOM_PUB_CFG i) F.HOM_PUB_CFG_LEN_M1 + 1
  let v := d.reg (A.HOM_PUB_CUR i)
  if d.fld (A.HOM_PUB_CFG i) F.HOM_PUB_CFG_VALID = 0 then []
  else (if bit v 63 then [(bits v 0 18, len)] else []) ++ (if bit v 62 then [(bits v 32 18, len)] else [])

/-- Whether two runs of regions overlap. -/
def runsMeet (a b : Nat × Nat) : Bool := decide (a.1 < b.1 + b.2) && decide (b.1 < a.1 + a.2)

/-- Extents under a run of regions. -/
def runExts (a : Nat × Nat) : List Nat := (List.range ((a.1 + a.2 - 1) / 512 + 1 - a.1 / 512)).map (· + a.1 / 512)

/-- An object loses VALID: both of its buffers are freed (R242). -/
def clearPub (i : Nat) : M Unit := do
  fset (A.HOM_PUB_CFG i) F.HOM_PUB_CFG_VALID 0
  wr (A.HOM_PUB_VER i) 0
  wr (A.HOM_PUB_CUR i) 0

/-- Gesso starts on an extent: the objects whose record line or buffers it holds lose VALID (R242). -/
def clearPubsOf (e : Nat) : M Unit :=
  each (List.range 64) fun i => do
    let d ← dev
    let inRec := d.fld (A.HOM_PUB_CFG i) F.HOM_PUB_CFG_RECORD >>> 24 == e
    let inBuf := (d.pubBuffers i).any fun b => (runExts b).contains e
    on (d.fld (A.HOM_PUB_CFG i) F.HOM_PUB_CFG_VALID == 1 && (inRec || inBuf)) (clearPub i)

/-- The refusal of a PUBLISH at orders 1 to 6 of R243, if any. -/
def Dev.publishRefusal (d : Dev) (dom obj off : Nat) : Option (Nat × Nat) :=
  let len := d.fld (A.HOM_PUB_CFG obj) F.HOM_PUB_CFG_LEN_M1 + 1
  let buf := (off >>> 21, len)
  if off % 2 ^ 21 ≠ 0 then some (Sc.malformed, 0x60)
  else if storeEnd < off + len * 2 ^ 21 then some (Sc.hole, 0)
  else if d.fld (A.HOM_PUB_CFG obj) F.HOM_PUB_CFG_VALID = 0 then some (Sc.rights, 0x62)
  else if d.fld (A.HOM_PUB_CFG obj) F.HOM_PUB_CFG_DOMAIN ≠ dom || (runExts buf).any fun e => d.extDom e != dom then some (Sc.rights, 0x61)
  else if (runExts buf).any fun e => decide (2 ≤ d.extState e) then some (Sc.revoked, 0x30)
  else if (List.range 64).any fun i => (d.pubBuffers i).any (runsMeet buf) then some (Sc.rights, 0x63)
  else none

/-- Whether an earlier PUBLISH of an object is not complete (R244). -/
def Dev.publishBefore (d : Dev) (seq obj : Nat) : Bool :=
  (d.cmd.runs.any fun x => x.op == Op.publish && seqBefore x.seq seq && x.par 0 1 == obj) ||
    (d.cmd.acc.any fun x => le x.pkt 0 2 == Op.publish && seqBefore x.seq seq && le x.pkt 16 1 == obj)

/-- Lines of a run of regions that a port holds, with their directory states (R225). -/
def Dev.heldLines (d : Dev) (buf : Nat × Nat) : List (Nat × Nat × Nat) :=
  let inBuf (n : Nat) := decide (buf.1 ≤ regionOf n) && decide (regionOf n < buf.1 + buf.2)
  let l := ((d.home.dc.map (·.line)) ++ (d.store.lines.map (·.1))).eraseDups.filter inBuf
  (l.map fun n => (n, d.dirOf n)).filter fun x => x.2.1 != 0

/-- The record line of an object (R246). -/
def recordLine (version cur prev lenM1 : Nat) : Line := putLe (putLe (putLe (putLe 0 0 4 version) 8 8 cur) 16 8 prev) 24 1 lenM1

/-- Step 2 of R244: the lines still to be snooped are snooped unless a snoop of theirs is outstanding; `count` lines have been recalled. -/
def publishRecall (r : Run) (buf : Nat × Nat) (count : Nat) (todo : List Nat) : M Unit := do
  let d ← dev
  let later := todo.filter fun n => d.home.snoops.any (·.line == n)
  let ready := (todo.filter fun n => !(later.contains n)).map fun n => (n, d.dirOf n)
  setPhase r 1 ([buf.1, buf.2, count + (ready.filter fun x => x.2.1 == 2).length] ++ later)
  each (ready.filter fun x => x.2.1 != 0) fun x => each (portsOf x.2.2) fun p => sendSnoop x.1 p (x.2.1 == 2)

/-- Whether a snoop of a buffer's line is outstanding. -/
def Dev.bufSnooped (d : Dev) (buf : Nat × Nat) : Bool :=
  d.home.snoops.any fun x => decide (buf.1 ≤ regionOf x.line) && decide (regionOf x.line < buf.1 + buf.2)

/-- Steps 3 and 4 of R244. -/
def publishSwitch (r : Run) (obj off : Nat) : M Unit := do
  let d ← dev
  let v := (d.fld (A.HOM_PUB_VER obj) F.HOM_PUB_VER_VERSION + 1) % 2 ^ 32
  let old := d.reg (A.HOM_PUB_CUR obj)
  let cur := off >>> 21
  let prevOk := bit old 63
  let prev := if prevOk then bits old 0 18 else 0
  wr (A.HOM_PUB_VER obj) (BitVec.ofNat 64 v)
  wr (A.HOM_PUB_CUR obj) (BitVec.ofNat 64 (cur + prev * 2 ^ 32 + b2n prevOk * 2 ^ 62 + 2 ^ 63))
  setPhase r 2 r.aux
  let n := d.fld (A.HOM_PUB_CFG obj) F.HOM_PUB_CFG_RECORD
  let rec_ := recordLine v off (if prevOk then prev <<< 21 else 0) (d.fld (A.HOM_PUB_CFG obj) F.HOM_PUB_CFG_LEN_M1)
  setCpl r (okCpl (r.aux.getD 2 0) 0 v)
  modRun r.seq fun x => { x with outs := x.outs + 1 }
  submit [⟨writeKey (64 * n), 0, .run r.seq, .wr (BitVec.allOnes 64) rec_ 0, n, some r.dom, none⟩]
  serveAll

/-- PUBLISH (R243, R244). -/
def publish (r : Run) : M Unit := do
  let d ← dev
  let obj := r.par 0 1 % 64
  let off := r.par 8 8
  let buf := (off >>> 21, d.fld (A.HOM_PUB_CFG obj) F.HOM_PUB_CFG_LEN_M1 + 1)
  if r.phase = 0 then
    match d.publishRefusal r.dom obj off with
    | some (st, dt) => setCpl r (fail st dt)
    | none =>
      if d.publishBefore r.seq obj then pure ()
      else if r.par 4 4 ≠ d.fld (A.HOM_PUB_VER obj) F.HOM_PUB_VER_VERSION then setCpl r (fail Sc.stale 0x62)
      else publishRecall r buf 0 ((d.heldLines buf).map (·.1))
  else pure ()
  again r.seq fun x => if x.phase = 1 then publishRecall x (x.aux.getD 0 0, x.aux.getD 1 0) (x.aux.getD 2 0) (x.aux.drop 3) else pure ()
  let d ← dev
  again r.seq fun x =>
    if x.phase = 1 && x.aux.length == 3 && !(d.bufSnooped (x.aux.getD 0 0, x.aux.getD 1 0)) then publishSwitch x obj off else pure ()

/-! ## Rows -/

def execOwnTransfer (r : Req) (s : State) : Host.Outcome State Fault Refusal := s.run (onRun Op.ownTransfer r ownTransfer)

def execOwnAccept (r : Req) (s : State) : Host.Outcome State Fault Refusal := s.run (onRun Op.ownAccept r ownAccept)

def execPublish (r : Req) (s : State) : Host.Outcome State Fault Refusal := s.run (onRun Op.publish r publish)

def execOwnReclaimTimer (region : Fin 196608) (s : State) : Host.Outcome State Fault Refusal := s.run (reclaimRegion region.val)

def execOwnReleaseTimeout (region : Fin 196608) (s : State) : Host.Outcome State Fault Refusal := s.run (releaseTimeout region.val)

def execOwnAcceptTimeout (node : Fin 16384) (region : Nat) (s : State) : Host.Outcome State Fault Refusal :=
  s.run (acceptTimeout node.val region)

end Sys2Proof.Machine
end

