-- ==== Sys2Proof/Machine/Staged.lean ====
section
/-! DEFINITION. The staged set: its entries, its owner and what a command with STAGED = 1 adds (R81, R82, R86). -/

namespace Sys2Proof.Machine

/-- States of the staged set (R81). -/
abbrev setEmpty : Nat := 0
abbrev setOpen : Nat := 1
abbrev setChecked : Nat := 2
abbrev setLocked : Nat := 3

def Dev.setState (d : Dev) : Nat := d.fld A.CMD_STAGE_STATUS F.CMD_STAGE_STATUS_STATE
def Dev.setOwner (d : Dev) : Nat := d.fld A.CMD_STAGE_STATUS F.CMD_STAGE_STATUS_OWNER
def Dev.setId (d : Dev) : Nat := d.fld A.CMD_STAGE_STATUS F.CMD_STAGE_STATUS_SET_ID

/-- OWNER of the unit-scope path. -/
abbrev unitOwner : Nat := 0x3FF

/-- The issuer of a command as OWNER gives it (R82); the mailbox and firmware have numbers of the model's own (assumption log 27). -/
def Run.owner (r : Run) : Nat :=
  if r.scope ≠ 0 then unitOwner
  else match r.iss with
    | .q n => n
    | .unit => unitOwner
    | .mbox => 0x3FD
    | .fw => 0x3FE
    | .bg _ => 0x3FC

/-- Merge one entry into a set: bit by bit, the later value wins (R83). -/
def mergeEntry (t : Tbl (BitVec 64 × BitVec 64)) (e : Nat × Word × Word) : Tbl (BitVec 64 × BitVec 64) :=
  let old := tget (0, 0) t e.1
  tins e.1 ((old.1 &&& ~~~e.2.2) ||| (e.2.1 &&& e.2.2), old.2 ||| e.2.2) t

/-- Merge entries into a set. -/
def mergeEntries (t : Tbl (BitVec 64 × BitVec 64)) (l : List (Nat × Word × Word)) : Tbl (BitVec 64 × BitVec 64) := l.foldl mergeEntry t

/-- The register as it would stand with the set applied: staged bits where staged, committed bits otherwise (R84). -/
def Dev.stagedReg (d : Dev) (a : Nat) : Word :=
  let e := tget (0, 0) d.staged.entries a
  (d.reg a &&& ~~~e.2) ||| (e.1 &&& e.2)

/-- A field of a register as it would stand with the set applied. -/
def Dev.stagedFld (d : Dev) (a : Nat) (f : Fld) : Nat := f.of (d.stagedReg a)

/-- Whether the set holds an address. -/
def Dev.isStaged (d : Dev) (a : Nat) : Bool := d.staged.entries.any fun e => e.1 == a

/-- Put entries into the set, which is then OPEN and whose 10 s start again (R83, R86, R87, assumption log 131). -/
def putEntries (t : Tbl (BitVec 64 × BitVec 64)) : M Unit := do
  let n ← now
  modStaged fun x => { x with entries := t, touch := n }
  fset A.CMD_STAGE_STATUS F.CMD_STAGE_STATUS_STATE setOpen
  fset A.CMD_STAGE_STATUS F.CMD_STAGE_STATUS_ENTRIES t.length

/-- The set becomes EMPTY; a wait of R44 that its CHECK began ends with it (assumption log 44). -/
def emptySet : M Unit := do
  wr A.CMD_STAGE_STATUS 0
  modStaged fun _ => {}

/-- Whether a commit is under way: the set is frozen and commands on it wait (R85, assumption log 28). -/
def Dev.committing (d : Dev) : Bool := d.staged.edge.isSome

/-- Add the changes of a command with STAGED = 1 (R86). -/
def stageChanges (r : Run) (l : List (Nat × Word × Word)) : M Unit := do
  let d ← dev
  if d.committing then pure ()
  else if (d.setState = setOpen ∨ d.setState = setChecked) ∧ d.setOwner = r.owner then
    let t := mergeEntries d.staged.entries l
    if 256 < t.length then setCpl r (fail Sc.limit 0x15)
    else
      putEntries t
      setCpl r (okCpl t.length 0 0)
  else setCpl r (fail Sc.checkFailed 0x16)

end Sys2Proof.Machine
end

