-- ==== Sys2Proof/Machine/Domain.lean ====
section
/-! DEFINITION. Isolation domains and Gesso: DOMAIN_CREATE, DOMAIN_DESTROY and its steps, KEY_LOAD, SANITISE and the sanitisations that
Gesso runs (R124 to R153), and how a running command is ended from outside. -/

namespace Sys2Proof.Machine

/-! ## Ending a command from outside -/

/-- Whether a command has passed the point after which it cannot fail: the switch of a migration or of a merge (R434, R459). -/
def Run.pastSwitch (r : Run) : Bool := (r.op == Op.rowMigrate || r.op == Op.merge) && decide (3 ≤ r.phase) && r.phase != blkPhase

/-- Key under which a command that must reach its end first keeps the status and DETAIL it will then complete with. -/
def abortKey (status detail : Nat) : Nat := 4 * (2 ^ 240 + status * 256 + detail)

/-- Status and DETAIL that a command completes with in place of its own, if it has been told to (R434, R459). -/
def Run.mustAbort (r : Run) : Option (Nat × Nat) :=
  (r.asked.find? fun k => decide (4 * 2 ^ 240 ≤ k) && decide (k < 4 * (2 ^ 240 + 65536))).map fun k => (k / 4 % 65536 / 256, k / 4 % 256)

/-- End a running command with a status, a DETAIL and a result; one past its switch completes so at its end. -/
def abortRun (r : Run) (status detail result : Nat) : M Unit :=
  if r.cpl.isSome then pure ()
  else if r.pastSwitch then modRun r.seq fun x => { x with asked := x.asked ++ [abortKey status detail] }
  else setCpl r { status := status, detail := detail, result := result }

/-! ## DOMAIN_CREATE (R133, R134, R136) -/

/-- SLOT_QUOTA summed over the domains that are not FREE (R134). -/
def Dev.slotQuotaSum (d : Dev) : Nat :=
  (((List.range 32).filter fun n => d.domState n != 0).map fun n => d.fld (A.DOM_CFG n) F.DOM_CFG_SLOT_QUOTA).sum

/-- Domains that the staged set would create (R137). -/
def Dev.stagedCreates (d : Dev) : List Nat :=
  (List.range 32).filter fun n =>
    let e := tget (0, 0) d.staged.entries (A.DOM_CFG n)
    bits e.2 0 2 == 3 && bits e.1 0 2 == 1

/-- Domains that the staged set would destroy. -/
def Dev.stagedDestroys (d : Dev) : List Nat :=
  (List.range 32).filter fun n =>
    let e := tget (0, 0) d.staged.entries (A.DOM_CFG n)
    bits e.2 0 2 == 3 && bits e.1 0 2 == 2

/-- SLOT_QUOTA summed over the creates of the staged set. -/
def Dev.stagedQuotaSum (d : Dev) : Nat :=
  ((d.stagedCreates).map fun n => F.DOM_CFG_SLOT_QUOTA.of (tget (0, 0) d.staged.entries (A.DOM_CFG n)).1).sum

/-- The refusal of a DOMAIN_CREATE, if any (R134, R136). -/
def Dev.createRefusal (d : Dev) (dom slots wins : Nat) (isStaged : Bool) : Option (Nat × Nat) :=
  if dom = 0 then some (Sc.rights, 0x31)
  else if 256 < slots ∨ 64 < wins then some (Sc.malformed, 0x06)
  else if isStaged then none
  else if d.domState dom = 1 then some (Sc.rights, 0x32)
  else if d.domState dom ≠ 0 then some (Sc.retry, 0x30)
  else if d.isStaged (A.DOM_CFG dom) then some (Sc.retry, 0x32)
  else if 256 < d.slotQuotaSum + d.stagedQuotaSum + slots then some (Sc.limit, 0x30)
  else none

/-- GEN of the next creation (R133). -/
def Dev.nextGen (d : Dev) (dom : Nat) : Nat :=
  let g := d.fld (A.DOM_CFG dom) F.DOM_CFG_GEN
  if g = 0xFFFF then 1 else g + 1

/-- DOM_CFG of a domain that has just been created. -/
def cfgCreated (slots wins gen : Nat) : Word :=
  F.DOM_CFG_GEN.put (F.DOM_CFG_WIN_QUOTA.put (F.DOM_CFG_SLOT_QUOTA.put (F.DOM_CFG_STATE.put 0 1) slots) wins) gen

/-- A domain becomes ACTIVE (R133). -/
def createDomain (dom ident slots wins : Nat) : M Unit := do
  let g ← look fun d => d.nextGen dom
  wr (A.DOM_CFG dom) (cfgCreated slots wins g)
  each (List.range 4) fun w => wr (A.DOM_IDENT dom w) (BitVec.ofNat 64 (ident / 2 ^ (64 * w)))
  let old ← look fun d => d.reg (A.DOM_BW dom)
  on (old != 0) (noteChange (A.DOM_BW dom) old)
  wr (A.DOM_BW dom) 0

/-- The changes that a staged DOMAIN_CREATE adds to the set (R137). -/
def createEntries (dom ident slots wins : Nat) : List (Nat × Word × Word) :=
  (A.DOM_CFG dom, F.DOM_CFG_WIN_QUOTA.put (F.DOM_CFG_SLOT_QUOTA.put (F.DOM_CFG_STATE.put 0 1) slots) wins,
    F.DOM_CFG_WIN_QUOTA.put (F.DOM_CFG_SLOT_QUOTA.put (F.DOM_CFG_STATE.put 0 3) 0x1FF) 0x7F) ::
    (List.range 4).map fun w => (A.DOM_IDENT dom w, BitVec.ofNat 64 (ident / 2 ^ (64 * w)), BitVec.allOnes 64)

/-- DOMAIN_CREATE. -/
def domainCreate (r : Run) : M Unit := do
  let d ← dev
  let ident := r.par 0 32
  let slots := r.par 32 2
  let wins := r.par 34 1
  match d.createRefusal r.dom slots wins r.isStaged with
  | some (st, dt) => setCpl r (fail st dt)
  | none =>
    if r.isStaged then stageChanges r (createEntries r.dom ident slots wins)
    else
      createDomain r.dom ident slots wins
      setCpl r (okCpl 0 0 (d.nextGen r.dom))

/-! ## DOMAIN_DESTROY and its steps (R135, R136, R138) -/

def Dev.domStep (d : Dev) (dom : Nat) : Nat := d.fld (A.DOM_CFG dom) F.DOM_CFG_STEP
def Dev.domStalled (d : Dev) (dom : Nat) : Bool := d.fld (A.DOM_CFG dom) F.DOM_CFG_STALLED == 1
def setDomStep (dom st : Nat) : M Unit := fset (A.DOM_CFG dom) F.DOM_CFG_STEP st

/-- The refusal of a DOMAIN_DESTROY, if any (R136). -/
def Dev.destroyRefusal (d : Dev) (dom : Nat) (isStaged : Bool) : Option (Nat × Nat) :=
  if dom = 0 then some (Sc.rights, 0x31)
  else if isStaged then none
  else if d.domState dom = 2 ∧ ¬ d.domStalled dom then some (Sc.retry, 0x30)
  else if d.domState dom = 0 then some (Sc.rights, 0x33)
  else if d.isStaged (A.DOM_CFG dom) then some (Sc.retry, 0x32)
  else none

def modTeardown (dom : Nat) (f : Teardown → Teardown) : M Unit :=
  modDom fun x => { x with teardowns := x.teardowns.map fun t => if t.dom == dom then f t else t }

/-- Step 1 of R135: the domain is DESTROYING, and a SANITISE with it as target that Gesso has not taken ends. `seq` is the command that
waits for the end, if any. -/
def beginDestroy (dom : Nat) (seq : Option Nat) : M Unit := do
  let d ← dev
  fset (A.DOM_CFG dom) F.DOM_CFG_STATE 2
  fset (A.DOM_CFG dom) F.DOM_CFG_STALLED 0
  setDomStep dom 2
  let gone := d.dom.jobs.filter fun j => j.teardown.isNone && !j.taken && j.dom == dom
  each gone fun j => modRun j.seq fun r => { r with cpl := some (fail Sc.aborted 0x30) }
  modDom fun x => { x with jobs := x.jobs.filter (fun j => !(gone.contains j)),
                           teardowns := (x.teardowns.filter fun t => t.dom != dom) ++ [⟨dom, seq, 0, gone.length, false⟩] }

/-- A stopped teardown goes on at the step it stands at (R138). -/
def resumeDestroy (dom seq : Nat) : M Unit := do
  fset (A.DOM_CFG dom) F.DOM_CFG_STALLED 0
  modDom fun x => { x with teardowns := (x.teardowns.filter fun t => t.dom != dom) ++ [⟨dom, some seq, 0, 0, false⟩] }

/-- DOMAIN_DESTROY. -/
def domainDestroy (r : Run) : M Unit := do
  let d ← dev
  if d.dom.teardowns.any fun t => t.seq == some r.seq then pure ()
  else match d.destroyRefusal r.dom r.isStaged with
    | some (st, dt) => setCpl r (fail st dt)
    | none =>
      if r.isStaged then
        stageChanges r [(A.DOM_CFG r.dom, F.DOM_CFG_STATE.put 0 2, F.DOM_CFG_STATE.put 0 3)]
      else if d.domStalled r.dom then resumeDestroy r.dom r.seq
      else beginDestroy r.dom (some r.seq)

/-- A teardown leaves the list; the command that waits for it completes with its counts. -/
def endTeardown (t : Teardown) (status detail : Nat) : M Unit := do
  modDom fun x => { x with teardowns := x.teardowns.filter fun y => y.dom != t.dom }
  match t.seq with
  | some seq => modRun seq fun r => { r with cpl := match r.cpl with
      | some c => some c
      | none => some { status := status, detail := detail, a := t.sanitised, b := t.aborted } }
  | none => pure ()

/-- A teardown stops at the step it stands at (R138). -/
def stallTeardown (t : Teardown) (status detail : Nat) : M Unit := do
  fset (A.DOM_CFG t.dom) F.DOM_CFG_STALLED 1
  endTeardown t status detail

/-- Running engine commands of a domain. -/
def Dev.engineRuns (d : Dev) (dom : Nat) : List Run :=
  d.cmd.runs.filter fun r => d.isEngine r.iss && (match r.queue with | some q => d.qcfg q F.CMD_Q_CFG_DOMAIN == dom | none => false)

/-- Accepted engine commands of a domain that have not started. -/
def Dev.engineWaits (d : Dev) (dom : Nat) : List Acc :=
  d.cmd.acc.filter fun a => d.isEngine a.iss && (match a.iss with | .q q => d.qcfg q F.CMD_Q_CFG_DOMAIN == dom | _ => false)

/-- Step 2: the queues drain and the engine commands end. -/
def destroyDrain (t : Teardown) : M Unit := do
  let d ← dev
  each ((List.range 512).filter fun q => d.qcfg q F.CMD_Q_CFG_DOMAIN == t.dom) fun q => do
    drainQueue q
    on (d.qstate q == Qs.halted) (do fset (A.CMD_Q_STATE q) F.CMD_Q_STATE_STATE Qs.draining; settleQueue q)
  let live := (d.engineRuns t.dom).filter fun r => r.cpl.isNone && r.mustAbort.isNone
  each live fun r => abortRun r Sc.aborted 0x30 0
  modTeardown t.dom fun x => { x with aborted := x.aborted + live.length }
  let d ← dev
  on (d.engineRuns t.dom == [] && d.engineWaits t.dom == []) (setDomStep t.dom 3)

/-- Sequence number of an invalidation that no command waits for. -/
abbrev noSeq : Nat := 2 ^ 40

/-- Whether a context is being released. -/
def Dev.releasing (d : Dev) (c : Nat) : Bool := d.stn.invals.any fun i => i.release && i.ctx == c

/-- The whole range of a context, for a release (R173). -/
abbrev allVa : Nat := 2 ^ 48

/-- Step 3: slots, windows and contexts (R161, R179, R360). -/
def destroyUnbind (t : Teardown) : M Unit := do
  let d ← dev
  each ((List.range 256).filter fun s => d.fld (A.RTE_SLOT_CFG s) F.RTE_SLOT_CFG_STATE == 1 &&
    d.fld (A.RTE_SLOT_CFG s) F.RTE_SLOT_CFG_DOMAIN == t.dom) unbindSlot
  each (List.range 64) fun w => wr (A.STN_WIN (64 * t.dom + w)) 0
  each ((List.range 256).filter fun c => d.ctxBound c && d.ctxDom c == t.dom && !(d.releasing c)) fun c =>
    addInval ⟨noSeq, c, 0, allVa, 0, true, [], 0, none⟩
  let d ← dev
  on (!((List.range 256).any fun c => d.ctxBound c && d.ctxDom c == t.dom) && !(d.winPassed fun w => w / 64 == t.dom)) (setDomStep t.dom 4)

/-- Step 4: the fence (R280). -/
def destroyFence (t : Teardown) : M Unit := do
  let d ← dev
  let held := (List.range 384).filter fun e => d.extDom e == t.dom && d.extState e == Xs.assigned
  fenceExts held 4
  fadd A.LSE_REVOKE_CNT F.LSE_REVOKE_CNT_COUNT held.length
  setDomStep t.dom 5

/-- Step 5: the sanitisation is handed to Gesso once; without extents there is nothing to do. A SANITISE to the domain that Gesso has begun ends
first, as its extents take the domain's tag. -/
def destroySanitise (t : Teardown) : M Unit := do
  let d ← dev
  if t.queued ∨ (d.dom.jobs.any fun j => j.taken && j.teardown.isNone && j.dom == t.dom) then pure ()
  else if (List.range 384).any fun e => d.extDom e == t.dom then
    modTeardown t.dom fun x => { x with queued := true }
    modDom fun x => { x with jobs := x.jobs ++ [⟨noSeq, [], 0, 0, 0, some t.dom, false, true, 0, 0, 0, 0⟩] }
  else setDomStep t.dom 6

/-- Step 6: the key and IDENT are erased. -/
def eraseKey (dom : Nat) : M Unit := do
  modStore fun x => { x with keys := x.keys.filter fun k => k.1 != dom }
  each (List.range 8) fun k => do
    let v ← rd (A.RIND_STATUS k)
    wr (A.RIND_STATUS k) (v &&& ~~~(BitVec.ofNat 64 (2 ^ dom)))
  fset (A.DOM_CFG dom) F.DOM_CFG_KEYED 0
  fset (A.DOM_BW dom) F.DOM_BW_KEY_ID 0
  each (List.range 4) fun w => wr (A.DOM_IDENT dom w) 0

/-- Step 7: the domain is FREE. -/
def freeDomain (t : Teardown) : M Unit := do
  let g ← fget (A.DOM_CFG t.dom) F.DOM_CFG_GEN
  wr (A.DOM_CFG t.dom) (F.DOM_CFG_GEN.put 0 g)
  endTeardown t Sc.ok 0

/-- The next step of a domain's teardown, as far as it can go now. -/
def destroyStep (dom : Nat) : M Unit := do
  let d ← dev
  match d.dom.teardowns.find? fun t => t.dom == dom with
  | none => pure ()
  | some t =>
    let st := d.domStep dom
    if st ≤ 2 then destroyDrain t
    else if st = 3 then destroyUnbind t
    else if st = 4 then destroyFence t
    else if st = 5 then destroySanitise t
    else if st = 6 then do eraseKey dom; setDomStep dom 7
    else freeDomain t

/-! ## KEY_LOAD (R139 to R142) -/

/-- A big-endian number. -/
def beBytes (l : List Byte) : Nat := leBytes l.reverse

/-- The info string of R140. -/
def keyInfo (node dom gen keyId : Nat) : List Byte :=
  [0x43, 0x58, 0x39, 0x2D, 0x4B, 0x4C] ++ toLe 2 node ++ toLe 1 dom ++ toLe 2 gen ++ toLe 4 keyId

/-- The key that a KEY_LOAD carries for a domain, unwrapped (R140). -/
def Dev.unwrapKey (d : Dev) (dom keyId : Nat) (x y : BitVec 384) (wrapped : List Byte) : Option (List Byte) :=
  let info := keyInfo d.node dom (d.fld (A.DOM_CFG dom) F.DOM_CFG_GEN) keyId
  Config.aesKwUnwrap (Config.hkdfSha384 (Config.ecdhP384X x y) info 32) wrapped

/-- The refusal of a KEY_LOAD, or the two halves of the key (R141). -/
def Dev.keyLoadCheck (d : Dev) (dom : Nat) (p : List Byte) : Sum (Nat × Nat) (BitVec 256 × BitVec 256) :=
  let x := BitVec.ofNat 384 (beBytes ((p.drop 8).take 48))
  let y := BitVec.ofNat 384 (beBytes ((p.drop 56).take 48))
  if dom = 0 then .inl (Sc.rights, 0x31)
  else if d.domState dom = 2 then .inl (Sc.retry, 0x30)
  else if d.domState dom = 0 then .inl (Sc.rights, 0x33)
  else if d.fld (A.DOM_CFG dom) F.DOM_CFG_KEYED = 1 then .inl (Sc.rights, 0x34)
  else if leAt p 0 4 = 0 then .inl (Sc.malformed, 0x06)
  else if !(Config.onP384 x y) then .inl (Sc.checkFailed, 0x32)
  else match d.unwrapKey dom (leAt p 0 4) x y ((p.drop 104).take 72) with
    | none => .inl (Sc.checkFailed, 0x31)
    | some k =>
      let k1 := BitVec.ofNat 256 (leAt k 0 32)
      let k2 := BitVec.ofNat 256 (leAt k 32 32)
      if k1 = k2 then .inl (Sc.checkFailed, 0x33) else .inr (k1, k2)

/-- The key of a domain enters every Rind engine (R141). -/
def loadKey (dom keyId : Nat) (k1 k2 : BitVec 256) : M Unit := do
  modStore fun x => { x with keys := (x.keys.filter fun k => k.1 != dom) ++ [(dom, k1, k2)] }
  each (List.range 8) fun k => do
    let v ← rd (A.RIND_STATUS k)
    wr (A.RIND_STATUS k) (v ||| BitVec.ofNat 64 (2 ^ dom))
  fset (A.DOM_CFG dom) F.DOM_CFG_KEYED 1
  fset (A.DOM_BW dom) F.DOM_BW_KEY_ID keyId

/-- KEY_LOAD. -/
def keyLoad (r : Run) : M Unit := do
  let d ← dev
  match d.keyLoadCheck r.dom r.params with
  | .inl (st, dt) => setCpl r (fail st dt)
  | .inr (k1, k2) =>
    loadKey r.dom (r.par 0 4) k1 k2
    setCpl r {}

/-! ## SANITISE and Gesso (R148 to R153) -/

/-- The refusal of a SANITISE, if any (R149). -/
def Dev.sanitiseRefusal (d : Dev) (allDom : Bool) (issDom first count dom cls : Nat) : Option (Nat × Nat) :=
  let exts := extsFrom first count
  if count = 0 ∨ 1 < cls then some (Sc.malformed, 0x06)
  else if 384 < first + count then some (Sc.hole, 0)
  else if !allDom && (dom != issDom || exts.any fun e => d.extDom e != issDom || d.extState e == Xs.sanitising) then some (Sc.rights, 0x12)
  else if d.domState dom = 2 then some (Sc.retry, 0x30)
  else if d.domState dom = 0 then some (Sc.rights, 0x33)
  else if cls = 1 ∧ (dom = 0 ∨ d.fld (A.DOM_CFG dom) F.DOM_CFG_KEYED = 0) then some (Sc.rights, 0x38)
  else if exts.any fun e => d.extState e == Xs.assigned then some (Sc.rights, 0x39)
  else none

/-- SANITISE reaches Gesso (R150). -/
def sanitise (r : Run) : M Unit := do
  let d ← dev
  let first := r.par 0 2
  let count := r.par 2 2
  let dom := r.par 4 1 % 32
  let cls := r.par 5 1
  if d.dom.jobs.any fun j => j.teardown.isNone && j.seq == r.seq then pure ()
  else match d.sanitiseRefusal (d.allDomains r.iss) r.dom first count dom cls with
    | some (st, dt) => setCpl r (fail st dt)
    | none => modDom fun x => { x with jobs := x.jobs ++
        [⟨r.seq, extsFrom first count, dom, cls, 0, none, false, d.allDomains r.iss, r.dom, first, count, 0⟩] }

/-- Whether Gesso is busy (R153). -/
def Dev.gessoBusy (d : Dev) : Bool := d.dom.jobs.any (·.taken)

/-- Whether a stack of the device is FAILED. -/
def Dev.anyStackFailed (d : Dev) : Bool := (List.range 8).any d.stackFailed

/-- GES_STATUS while an extent is written, or zero. -/
def showGesso (ext : Option Nat) : M Unit :=
  wr A.GES_STATUS (match ext with | some e => F.GES_STATUS_EXTENT.put (F.GES_STATUS_BUSY.put 0 1) e | none => 0)

def putJobG (j : GJob) (f : GJob → GJob) : M Unit :=
  modDom fun x => { x with jobs := x.jobs.map fun y => if y == j then f y else y }

/-- A sanitisation leaves Gesso with a status; its command, or the teardown it serves, is told (R150, R152, R138). -/
def endJob (j : GJob) (status detail : Nat) : M Unit := do
  modDom fun x => { x with jobs := x.jobs.filter fun y => y != j }
  on j.taken (showGesso none)
  match j.teardown with
  | none => modRun j.seq fun r => { r with cpl := match r.cpl with
      | some c => some c
      | none => some { status := status, detail := detail, a := j.done } }
  | some dom => do
    modTeardown dom fun t => { t with sanitised := t.sanitised + j.done, queued := false }
    let d ← dev
    match d.dom.teardowns.find? fun t => t.dom == dom with
    | none => pure ()
    | some t => if status = 0 then setDomStep dom 6 else stallTeardown t status detail

/-- A sanitisation that cannot finish ends (R152). -/
def abortJob (j : GJob) (status detail : Nat) : M Unit := do
  bump A.GES_ABORT_CNT
  endJob j status detail

/-- Lines of an extent that ports hold, with their directory states. -/
def Dev.heldOfExtent (d : Dev) (e : Nat) : List (Nat × Nat × Nat) := d.heldLines (e * 512, 512)

/-- The writes of Gesso among those whose SNP_INVs of R226 have been sent. -/
abbrev gessoWho : Nat := 2 ^ 80

/-- Poisoned lines of an extent for which Gesso has sent no SNP_INVs yet (R226). -/
def Dev.poisonedOfExtent (d : Dev) (e : Nat) : List Nat :=
  ((d.store.lines.filter fun l => l.1 >>> 24 == e && l.2.poison).map (·.1)).filter fun n => !(d.home.inv.contains (gessoWho, n))

/-- Whether a line of an extent is held by a port or waits for the answers to its snoops. -/
def Dev.extentBusy (d : Dev) (e : Nat) : Bool :=
  !(d.heldOfExtent e).isEmpty || !(d.poisonedOfExtent e).isEmpty || d.home.snoops.any fun x => x.line >>> 24 == e

/-- Invalidate the copies of an extent's lines, and those that the lost metadata of a poisoned line may have recorded (R150, R226, R228). -/
def snoopExtent (e : Nat) : M Unit := do
  let d ← dev
  each (d.heldOfExtent e) fun x =>
    if d.home.snoops.any (·.line == x.1) then pure ()
    else each (portsOf x.2.2) fun p => sendSnoop x.1 p (x.2.1 == 2)
  each (d.poisonedOfExtent e) fun n => do
    modHome fun h => { h with inv := (gessoWho, n) :: h.inv }
    each (d.portsInService.filter fun p => !(d.home.snoops.any fun x => x.line == n && x.port == p) && !((d.dirOf n).2.testBit p)) fun p => sendSnoop n p false

/-- Gesso takes the next sanitisation (R150): a SANITISE is checked again; the named extents become SANITISING at once, their regions
return home (R241) and the published objects they hold lose VALID (R242). -/
def gessoTake : M Unit := do
  let d ← dev
  if d.gessoBusy then pure ()
  else match d.dom.jobs with
    | [] => pure ()
    | j :: _ =>
      match (if j.teardown.isSome then none else d.sanitiseRefusal j.allDom j.issDom j.first j.count j.dom j.cls) with
      | some (st, dt) =>
        if (st, dt) = (Sc.retry, 0x30) ∨ (st, dt) = (Sc.rights, 0x33) then endJob j Sc.aborted 0x30 else endJob j st dt
      | none => do
        let exts := match j.teardown with
          | some dom => (List.range 384).filter fun e => d.extDom e == dom
          | none => j.exts
        each exts fun e => do
          setExtState e Xs.sanitising
          returnHome e
          clearPubsOf e
        let j' : GJob := { j with exts := exts, taken := true, since := d.now }
        putJobG j fun _ => j'
        showGesso exts.head?
        each (exts.take 1) snoopExtent
        serveAll
        reserveCredits
        if exts = [] then endJob j' 0 0
        else on d.anyStackFailed (abortJob j' Sc.poisoned 0x25)

/-- AON cycles that writing one extent at no more than GES_CFG.RATE takes (R151, R157). -/
def Dev.extentTime (d : Dev) : Nat :=
  let perTick := 20 * max 250 (min 8000 (d.fld A.GES_CFG F.GES_CFG_RATE))
  (2 ^ 30 + perTick - 1) / perTick

/-- A tile of an OUT region all of whose lines have been written. -/
def wholeDirty (f : FabSt) (t k i : Nat) : Dirty :=
  match f.dirty.find? (fun x => x.chan == k && x.tile == i) with
  | some x => { x with lines := BitVec.allOnes 64 }
  | none => ⟨k, i, t, BitVec.allOnes 64⟩

/-- The tiles of the gateways' OUT regions that lie in an extent become dirty (R312). -/
def dirtyExtent (e : Nat) : M Unit := do
  let d ← dev
  let t ← now
  each ((List.range 61).map (· + 3)) fun k => do
    let w0 := d.reg (A.GWY_CHAN0 k)
    let base := bits (d.reg (A.GWY_CHAN1 k)) 0 18 * 512
    let n := (bits w0 8 6 + 1) * 512
    if bit w0 0 then
      let mine := (List.range n).filter fun i => (base + i) / 262144 == e
      modFab fun f => { f with dirty := (f.dirty.filter fun x => !(x.chan == k && mine.contains x.tile)) ++ mine.map (wholeDirty f t k) }
    else pure ()

/-- Every line of an extent is zero, sound and held by nobody; each was encrypted when the target class is SEALED (R148, R156). -/
def zeroExtent (e cls : Nat) : M Unit := do
  emit (.memClear (e <<< 30) ((e + 1) <<< 30))
  modStore fun x => { x with lines := x.lines.filter (fun l => l.1 >>> 24 != e), errs := x.errs.filter fun l => l.1 >>> 24 != e }
  on (cls == 1) (each (List.range 8) fun k => bump48 (A.RIND_ENC_CNT k) (2 ^ 24 / 8))
  dirtyExtent e

/-- The tag takes its target and the lease record is cleared (R127, R150, R274). -/
def cleanExtent (e dom cls : Nat) : M Unit := do
  wr (A.DOM_EXT_TAG e) (F.DOM_EXT_TAG_CLASS.put (F.DOM_EXT_TAG_DOMAIN.put 0 dom) cls)
  wr (A.LSE_EXT e) 0
  wr (A.LSE_EXPIRY e) 0
  bump A.GES_EXT_CNT

/-- Gesso writes the last line of the extent it is at (R150). While a port still holds a line of it the extent is not done. -/
def gessoExtentDone : M Unit := do
  let d ← dev
  match d.dom.jobs.find? (·.taken) with
  | none => pure ()
  | some j =>
    match j.exts with
    | [] => endJob j 0 0
    | e :: rest =>
      if d.anyStackFailed then abortJob j Sc.poisoned 0x25
      else if d.extentBusy e then snoopExtent e
      else do
        passTo (j.since + d.extentTime)
        zeroExtent e j.cls
        modHome fun h => { h with inv := h.inv.filter fun x => !(x.1 == gessoWho && x.2 >>> 24 == e) }
        cleanExtent e j.dom j.cls
        let t ← now
        let j' : GJob := { j with exts := rest, done := j.done + 1, since := t }
        putJobG j fun _ => j'
        showGesso rest.head?
        each (rest.take 1) snoopExtent
        serveAll
        reserveCredits
        on (rest == []) (endJob j' 0 0)

/-- A stack becomes FAILED: the sanitisation under way cannot finish (R152). -/
def stackFailedEnds : M Unit := do
  let d ← dev
  match d.dom.jobs.find? (·.taken) with
  | some j => on d.anyStackFailed (abortJob j Sc.poisoned 0x25)
  | none => pure ()

/-- The first parity error on a command is retried by the stack, the second makes it FAILED (R118). -/
def parityError (k : Nat) (second : Bool) : M Unit :=
  on second (do failStack k 2; serveAll; stackFailedEnds)

/-! ## Rows -/

def execDomainCreate (r : Req) (s : State) : Host.Outcome State Fault Refusal := s.run (onRun Op.domainCreate r domainCreate)

def execDomainDestroy (r : Req) (s : State) : Host.Outcome State Fault Refusal := s.run (onRun Op.domainDestroy r domainDestroy)

def execDestroyStep (d : Fin 32) (s : State) : Host.Outcome State Fault Refusal := s.run (destroyStep d.val)

def execKeyLoad (r : Req) (s : State) : Host.Outcome State Fault Refusal := s.run (onRun Op.keyLoad r keyLoad)

def execSanitise (r : Req) (s : State) : Host.Outcome State Fault Refusal := s.run (onRun Op.sanitise r sanitise)

def execGessoTake (s : State) : Host.Outcome State Fault Refusal := s.run gessoTake

def execGessoExtentDone (s : State) : Host.Outcome State Fault Refusal := s.run gessoExtentDone

def execStkParityError (s_ : Fin 8) (second : Bool) (s : State) : Host.Outcome State Fault Refusal :=
  s.run (parityError s_.val second)

end Sys2Proof.Machine
end

