-- ==== Sys2Proof/Machine/StnCmd.lean ====
section
/-! DEFINITION. The commands on contexts and windows: SEG_LOAD, RANGE_INVALIDATE, WINDOW_OPEN, WINDOW_CLOSE (R160, R173 to R180), and the
rows of invalidations and misses. -/

namespace Sys2Proof.Machine

/-! ## SEG_LOAD (R175) -/

/-- The descriptors of a SEG_LOAD as (segment index, word 0, word 1). -/
def segDescs (r : Run) : List (Nat × Word × Word) :=
  (List.range (r.par 2 1)).map fun i => (r.par 1 1 + i, BitVec.ofNat 64 (r.par (16 + 16 * i) 8), BitVec.ofNat 64 (r.par (24 + 16 * i) 8))

/-- The descriptors that are to be written: those with VALID = 1. -/
def segWrites (r : Run) : List (Nat × Word × Word) := (segDescs r).filter fun x => bit x.2.1 0

/-- CMD_Q_CFG.PORT of the issuing queue; an issuer without a queue counts as port 0 (assumption log 29). -/
def Dev.issPort (d : Dev) : Iss → Nat
  | .q n => d.qcfg n F.CMD_Q_CFG_PORT
  | _ => 0

/-- Whether an ENGINE command of a context is accepted and not complete. -/
def Dev.ctxInUse (d : Dev) (c : Nat) : Bool :=
  let ctxOf (i : Iss) (p : Line) : Nat := match i with
    | .q q => if bit p 23 then d.qcfg q F.CMD_Q_CFG_CX6_CONTEXT else le p 4 1
    | _ => le p 4 1
  (d.cmd.acc.any fun a => d.isEngine a.iss && ctxOf a.iss a.pkt == c) ||
    d.cmd.runs.any fun r => (match r.iss with | .bg _ => false | _ => true) && d.isEngine r.iss && r.ctx == c

/-- Whether a sequence slot is bound to a context. -/
def Dev.ctxSlots (d : Dev) (c : Nat) : Bool :=
  (List.range 256).any fun s => d.fld (A.RTE_SLOT_CFG s) F.RTE_SLOT_CFG_STATE == 1 && d.fld (A.RTE_SLOT_CFG s) F.RTE_SLOT_CFG_CONTEXT == c

/-- The refusal of a SEG_LOAD, if any (R175). -/
def Dev.segLoadRefusal (d : Dev) (r : Run) : Option (Nat × Nat) :=
  let mode := r.par 0 1
  let count := r.par 2 1
  let bound := d.ctxBound r.ctx
  let differs (x : Nat × Word × Word) : Bool :=
    tb (d.validSegs r.ctx) x.1 && (d.reg (A.STN_SEG0 r.ctx x.1) != x.2.1 || d.reg (A.STN_SEG1 r.ctx x.1) != x.2.2)
  if 1 < mode ∨ 8 < r.par 1 1 + count ∨ (if mode = 0 then count = 0 else count ≠ 0) ∨ (2 < count ∧ r.ptr = 0) then some (Sc.malformed, 0x06)
  else if bound && d.ctxDom r.ctx != r.dom then some (Sc.rights, 0x42)
  else if bound && d.issPort r.iss != d.ctxPort r.ctx && !(d.allDomains r.iss) then some (Sc.rights, 0x43)
  else if mode = 0 && (segWrites r).any differs then some (Sc.rights, 0x44)
  else if mode = 1 && !bound then some (Sc.rights, 0x42)
  else if mode = 1 && (d.ctxSlots r.ctx || d.ctxInUse r.ctx) then some (Sc.retry, 0x40)
  else none

/-- The first check of R163 that a descriptor of a load fails: against the valid segments of the context and those of the same load, other
than its own entry. -/
def Dev.segLoadCheck (d : Dev) (c : Nat) (l : List (Nat × Word × Word)) : Option (Nat × Nat) :=
  l.findSome? fun x =>
    let table := ((List.range 8).filter fun i => i != x.1 && !(l.any fun y => y.1 == i)).filterMap (d.seg c)
    let load := (l.filter fun y => y.1 != x.1).map fun y => segOf y.2.1 y.2.2
    d.segCheck x.2.1 x.2.2 (table ++ load)

/-- A FREE context is bound (R160). -/
def bindCtx (c dom port base : Nat) : M Unit := do
  fset (A.STN_CTX_CFG c) F.STN_CTX_CFG_STATE 1
  fset (A.STN_CTX_CFG c) F.STN_CTX_CFG_DOMAIN dom
  fset (A.STN_CTX_CFG c) F.STN_CTX_CFG_PORT port
  wr (A.STN_CTX_BASE c) (BitVec.ofNat 64 base)

/-- An accepted LOAD. -/
def loadSegs (r : Run) : M Unit := do
  let d ← dev
  match d.segLoadCheck r.ctx (segWrites r) with
  | some (st, dt) => setCpl r (fail st dt)
  | none =>
    on (!(d.ctxBound r.ctx)) (bindCtx r.ctx r.dom (d.issPort r.iss) (r.par 8 8))
    bumpGen r.ctx
    each (segWrites r) fun x => installSeg r.ctx x.1 x.2.1 x.2.2
    setCpl r (okCpl (segWrites r).length 0 0)

/-- Whether an invalidation of a command is waiting or running. -/
def Dev.invalOf (d : Dev) (seq : Nat) : Bool := d.stn.invals.any fun i => i.seq == seq

/-- SEG_LOAD. -/
def segLoad (r : Run) : M Unit := do
  let d ← dev
  if d.invalOf r.seq then pure ()
  else match d.segLoadRefusal r with
    | some (st, dt) => setCpl r (fail st dt)
    | none => if r.par 0 1 = 0 then loadSegs r else addInval ⟨r.seq, r.ctx, 0, allVa, 0, true, [], 0, none⟩

/-! ## RANGE_INVALIDATE (R173) -/

/-- RANGE_INVALIDATE. -/
def rangeInvalidate (r : Run) : M Unit := do
  let d ← dev
  let lo := r.par 0 8
  let len := r.par 8 8
  if d.invalOf r.seq then pure ()
  else if lo % 2 ^ 21 ≠ 0 ∨ allVa ≤ lo ∨ len = 0 ∨ len % 2 ^ 21 ≠ 0 ∨ allVa < lo + len then setCpl r (fail Sc.malformed 0x41)
  else if !(d.ctxBound r.ctx) || d.ctxDom r.ctx != r.dom then setCpl r (fail Sc.rights 0x42)
  else addInval ⟨r.seq, r.ctx, lo, lo + len, 0, false, [], 0, none⟩

/-- Whether an agent translates for a command. -/
def Dev.worksFor (d : Dev) (a : Nat) (r : Run) : Bool :=
  let q := match r.iss with | .q q => some q | .bg q => some q | _ => none
  match r.xlat with
  | .crd => q.any fun q => a == 640 + d.tileFirst q / 4
  | .router => a == 657
  | .search => a == 656
  | _ => q.any fun q => (agentTile a).any (d.tiles q).contains

/-- Whether the access under a key may lie in a range: a write's key holds its virtual address. -/
def keyMeets (key lo hi : Nat) : Bool := !(isWriteKey key) || (decide (lo < key / 4 + 64) && decide (key / 4 < hi))

/-- Whether an access to a range that an agent has issued for a context is not yet ordered at its home, or not yet taken by the fabric switch:
then the agent does not acknowledge (R173, step 3). -/
def Dev.agentWaits (d : Dev) (a c lo hi : Nat) : Bool :=
  d.cmd.runs.any fun r => r.ctx == c && d.worksFor a r &&
    ((d.home.waiting.any fun h => h.src == .run r.seq && keyMeets h.grp lo hi) ||
      d.fab.out.any fun o => o.seq == r.seq && o.heldBack && keyMeets o.key lo hi)

/-- An agent acknowledges the invalidation that runs. -/
def agentAck (a : Nat) : M Unit := do
  let d ← dev
  match d.stn.invals with
  | [] => pure ()
  | i :: _ => if d.agentWaits a i.ctx i.lo i.hi then pure () else ackInval a

/-! ## Windows (R178 to R180) -/

/-- Windows of a domain that are open. -/
def Dev.openWins (d : Dev) (dom : Nat) : Nat := ((List.range 64).filter fun i => bit (d.win (64 * dom + i)) 0).length

/-- The parameters of a WINDOW_OPEN as the entry of its window (R178, R184); a TGT_OFF beyond the field is beyond the store, as is the
field's largest value. -/
def winEntry (r : Run) : Word :=
  let b := r.par 1 1
  BitVec.ofNat 64 (1 + b % 8 * 2 + b / 8 % 2 * 2 ^ 4 + b / 16 % 2 * 2 ^ 5 + r.par 2 1 % 32 * 2 ^ 6 + r.par 4 2 % 2 ^ 14 * 2 ^ 11
    + min (r.par 8 8 / 2 ^ 21) 0x3FFFF * 2 ^ 25 + r.par 16 4 % 2 ^ 18 * 2 ^ 43)

/-- Extents under a range of offsets. -/
def rangeExts (lo len : Nat) : List Nat := (List.range (extentOf (lo + len - 1) + 1 - extentOf lo)).map (· + extentOf lo)

/-- First offset and length of a window entry. -/
def winRange (w : Word) : Nat × Nat := (bits w 25 18 <<< 21, (bits w 43 18 + 1) <<< 21)

/-- The refusal of opening a window at orders 2 to 7 of R178, if any, given whether the window is open and how many of the domain are. -/
def Dev.winRefusal (d : Dev) (dom : Nat) (w : Word) (isOpen : Bool) (count quota : Nat) : Option (Nat × Nat) :=
  let x := winRange w
  let exts := rangeExts x.1 x.2
  if storeEnd < x.1 + x.2 then some (Sc.hole, 0)
  else if isOpen then some (Sc.rights, 0x4A)
  else if count = quota then some (Sc.limit, 0x40)
  else if exts.any fun e => d.extDom e != dom then some (Sc.rights, 0x35)
  else if exts.any fun e => d.extCls e != bits w 4 1 then some (Sc.rights, 0x36)
  else if exts.any fun e => decide (2 ≤ d.extState e) then some (Sc.revoked, 0x30)
  else none

/-- Order 1 of R178: rights and alignment. -/
def winParams (r : Run) : Bool := decide (r.par 1 1 % 8 ≠ 0) && decide (r.par 8 8 % 2 ^ 21 = 0)

/-- WINDOW_OPEN. -/
def windowOpen (r : Run) : M Unit := do
  let d ← dev
  let n := 64 * r.dom + r.par 0 1 % 64
  if !(winParams r) then setCpl r (fail Sc.malformed 0x41)
  else if r.isStaged then stageChanges r [(A.STN_WIN n, winEntry r, BitVec.allOnes 64)]
  else match d.winRefusal r.dom (winEntry r) (bit (d.win n) 0) (d.openWins r.dom) (d.fld (A.DOM_CFG r.dom) F.DOM_CFG_WIN_QUOTA) with
    | some (st, dt) => setCpl r (fail st dt)
    | none =>
      wr (A.STN_WIN n) (winEntry r)
      setCpl r {}

/-- WINDOW_CLOSE. -/
def windowClose (r : Run) : M Unit := do
  let d ← dev
  let n := 64 * r.dom + r.par 0 1 % 64
  if r.isStaged then stageChanges r [(A.STN_WIN n, 0, BitVec.allOnes 64)]
  else if r.phase = 0 ∧ !(bit (d.win n) 0) then setCpl r (fail Sc.rights 0x45)
  else
    on (r.phase == 0) (do wr (A.STN_WIN n) 0; setPhase r 1 [])
    on (!(d.winPassed (· == n))) (setCpl r {})

/-! ## Rows -/

def execSegLoad (r : Req) (s : State) : Host.Outcome State Fault Refusal := s.run (onRun Op.segLoad r segLoad)

def execRangeInvalidate (r : Req) (s : State) : Host.Outcome State Fault Refusal := s.run (onRun Op.rangeInvalidate r rangeInvalidate)

def execWindowOpen (r : Req) (s : State) : Host.Outcome State Fault Refusal := s.run (onRun Op.windowOpen r windowOpen)

def execWindowClose (r : Req) (s : State) : Host.Outcome State Fault Refusal := s.run (onRun Op.windowClose r windowClose)

def execInvalAck (agent : Fin 658) (s : State) : Host.Outcome State Fault Refusal := s.run (agentAck agent.val)

def execMissTimeout (tag : Fin 128) (s : State) : Host.Outcome State Fault Refusal := s.run (missTimeout tag.val)

end Sys2Proof.Machine
end

