-- ==== Sys2Proof/Machine/Unit.lean ====
section
/-! DEFINITION. Commands of non-zero SCOPE: their members, the messages UNIT_CMD, UNIT_ACK and UNIT_CPL, and the combined completion
(R35 to R44, R495, R500). -/

namespace Sys2Proof.Machine

/-! ## Members -/

/-- The node at a position of a group (R28). -/
def groupNode (g p : Nat) : Nat :=
  nodeAt (g / 64 * 4 + p / 16) (g / 8 % 8 * 4 + p / 4 % 4) (g % 8 * 4 + p % 4)

/-- The groups of the span (R28). -/
def Dev.groups (d : Dev) : List Nat := (List.range 256).filter fun g => d.inSpan (groupNode g 0)

/-- The nodes of a group whose bits are clear in TOP_EXPEL_MAP and TOP_SHADOW_MAP (R41, R500). -/
def Dev.groupClear (d : Dev) (g : Nat) : List Nat :=
  ((List.range 64).map (groupNode g)).filter fun n => d.inSpan n && !(d.expelled n) && !(d.shadowed n)

/-- Whether this device manages its group, is a span manager, and leads the span (R29, R494). -/
def Dev.isGroupMgr (d : Dev) : Bool := d.fld A.TOP_ROLE F.TOP_ROLE_GROUP_MGR == 1
def Dev.isSpanMgr (d : Dev) : Bool := d.fld A.TOP_ROLE F.TOP_ROLE_SPAN_MGR == 1
def Dev.leadsSpan (d : Dev) : Bool := d.fld A.TOP_ROLE F.TOP_ROLE_LEAD_SPAN_MGR == 1

/-- Index of the leading span manager that this one follows; 7 for none (R494). -/
def Dev.leaderIdx (d : Dev) : Nat := d.fld A.TOP_QUORUM_STATUS F.TOP_QUORUM_STATUS_LEADER

/-- This device's group and the members of TOP_GROUP_MEMBERS that group-scope commands are sent to (R38, R498, R502). -/
def Dev.ownGroup (d : Dev) : Nat := groupOf d.node
def Dev.groupMembers (d : Dev) : List Nat :=
  ((List.range 64).filter fun p => bit (d.reg A.TOP_GROUP_MEMBERS) p).map (groupNode d.ownGroup) |>.filter fun n =>
    n != d.node && !(d.expelled n) && !(d.shadowed n)

/-- The manager of a group, as far as this device knows: itself for its own group when it manages it (assumption log 31). -/
def Dev.groupMgr (d : Dev) (g : Nat) : Nat :=
  if d.isGroupMgr && g == d.ownGroup then d.node else (Config.groupManager g).toNat

/-- Nodes that the leading span manager sends a span-scope command to, each with whether it stands for its group: the manager of every
group, or every node of a group whose manager is expelled (R39, R500). -/
def Dev.spanMembers (d : Dev) : List (Nat × Bool) :=
  d.groups.flatMap fun g =>
    let m := d.groupMgr g
    if m = d.node then d.groupMembers.map fun n => (n, false)
    else if d.expelled m then ((d.groupClear g).filter (· != d.node)).map fun n => (n, false)
    else [(m, true)]

/-- Whether the leading span manager carries a span-scope command out on itself at once: it manages its group, or serves it in place of
an expelled manager; otherwise the command comes back to it from its own group's manager. -/
def Dev.spanSelf (d : Dev) : Bool := d.groupMgr d.ownGroup == d.node || d.expelled (d.groupMgr d.ownGroup)

/-! ## Sending -/

/-- Wait for a UNIT_ACK: 10 ms of AON cycles (R41). -/
abbrev unitAckWait : Nat := 500000

/-- Wait from the UNIT_ACK to the UNIT_CPL (R41, R42). -/
def Dev.unitDoneWait (d : Dev) (mgr : Bool) : Nat :=
  (max 10 (d.fld A.TOP_UNIT_CFG F.TOP_UNIT_CFG_DONE_MS) + if mgr then 20 else 0) * 50000

/-- Send a command on to a node with a SCOPE (R38, R39). -/
def sendUnitCmd (dst tag scope : Nat) (pkt : Line) : M Unit := do
  let d ← dev
  sendDrs { type := 0x60, len := 1, dst := dst, src := d.node, tag := tag, units := [putBits pkt 19 2 scope] }

/-- Open a fan: the members are sent the packet, each with the SCOPE that its standing asks for (R38, R39). -/
def openFanAs (seq : Nat) (fwd : Bool) (pkt : Line) (scope : Bool → Nat) (l : List (Nat × Bool)) : M Unit := do
  let d ← dev
  let tag := d.fab.nextTag
  modFab fun f => { f with nextTag := (f.nextTag + 1) % 65536 }
  modCmd fun c => { c with fans := c.fans ++ [⟨seq, tag, fwd, l.map fun m => ⟨m.1, m.2, false, d.now + unitAckWait, none⟩⟩] }
  each l fun m => sendUnitCmd m.1 tag (scope m.2) pkt

/-- Open the fan of a command (R38, R39). A span manager that does not lead waits DONE_MS for the leader's UNIT_CPL (assumption log 35). -/
def openFan (r : Run) (fwd : Bool) (l : List (Nat × Bool)) : M Unit :=
  openFanAs r.seq fwd r.pkt (fun mgr => if fwd then r.scope else if mgr then 1 else 0) l

/-- Whether a command is a span-scope ABANDON of a set whose commit the leading span manager completes on every member: it never abandons that
set (R89, assumption log 127). -/
def Dev.barsAbandon (d : Dev) (r : Run) : Bool :=
  r.op == Op.abandon && r.scope == 2 && d.leadsSpan && d.sys.res.redo.any fun x => x.1 == r.par 0 4

/-- A command of non-zero SCOPE has passed the checks up to order 13: it is carried out for the group, for the span, or passed on to the
leading span manager (R38, R39, R495). -/
def startFan (r : Run) : M Unit := do
  let d ← dev
  if d.barsAbandon r then setCpl r (fail Sc.retry 0x13)
  else if r.scope = 1 then openFan r false (d.groupMembers.map fun n => (n, false))
  else if d.leadsSpan then
    openFan r false d.spanMembers
    on (!d.spanSelf) (setPhase r awayPhase [])
  else if d.leaderIdx = 7 then setCpl r (fail Sc.retry 0xE0)
  else
    setPhase r awayPhase []
    openFan r true [((Config.spanManager d.leaderIdx).toNat, false)]

/-! ## The answers -/

/-- The completion that a record carries (R62), with the record as it came. -/
def cplOfRecord (l : Line) : Cpl :=
  { status := le l 2 1, detail := le l 3 1, a := le l 4 4, b := le l 8 4, result := le l 24 8, raw := (lineBytes l).take 32 }

/-- The fan and the member that a message from a node answers. -/
def Dev.fanOf (d : Dev) (src tag : Nat) : Option Fan :=
  d.cmd.fans.find? fun f => f.tag == tag && f.members.any fun m => m.node == src && m.cpl.isNone

def modMember (seq node : Nat) (f : Member → Member) : M Unit :=
  modCmd fun c => { c with fans := c.fans.map fun x =>
    if x.seq = seq then { x with members := x.members.map fun m => if m.node = node ∧ m.cpl.isNone then f m else m } else x }

/-- A command arrives over the Dorrus management class: it enters the internal management queue and is acknowledged (R41, R71). -/
def unitCmdMsg (m : DMsg) : M Unit := do
  let seq ← takeCmdSeq
  modCmd fun c => { c with acc := c.acc ++ [⟨.unit, seq, m.units.headD 0, 0⟩], senders := c.senders ++ [(seq, m.src, m.tag)] }
  let d ← dev
  sendDrs { type := 0x67, dst := m.src, src := d.node, tag := m.tag }

/-- A member has taken a command into its management queue. -/
def unitAckMsg (m : DMsg) : M Unit := do
  let d ← dev
  match d.fanOf m.src m.tag with
  | none => pure ()
  | some f => modMember f.seq m.src fun x => if x.acked then x else { x with acked := true, due := d.now + d.unitDoneWait x.mgr }

/-! ### A new leader completes what another has begun (R89) -/

/-- Numbers under which a span manager that takes the lead reads CMD_STAGE_STATUS and CMD_STAGE_LAST of the members. -/
abbrev askStatus : Nat := 2 ^ 34
abbrev askLast : Nat := 2 ^ 34 + 1

/-- A packet of an opcode with a SCOPE and one inline parameter. -/
def shortPkt (op scope w par : Nat) : Line := putLe (putBits (putLe 0 0 2 op) 19 2 scope) 16 w par

/-- The leading span manager gives a span-scope COMMIT of a set: it enters its own internal management queue. -/
def giveCommit (set : Nat) : M Unit := do
  let seq ← takeCmdSeq
  modCmd fun c => { c with acc := c.acc ++ [⟨.unit, seq, shortPkt Op.commit 2 4 set, 0⟩] }
  modRes fun r => { r with redo := some (set, seq) }

/-- Every other device of the span that is neither expelled nor a shadow. -/
def Dev.spanOthers (d : Dev) : List Nat := (d.groups.flatMap d.groupClear).filter (· != d.node)

/-- What the members of a fan have returned. -/
def Fan.results (f : Fan) : List Nat :=
  f.members.filterMap fun m => match m.cpl with
    | some c => if c.status = 0 then some c.result else none
    | none => none

/-- SET_ID of a LOCKED set, from CMD_STAGE_STATUS. -/
def lockedSet (v : Word) : Option Nat :=
  if F.CMD_STAGE_STATUS_STATE.of v = setLocked then some (F.CMD_STAGE_STATUS_SET_ID.of v) else none

/-- Once every member has been read or has not answered: a set that stands LOCKED somewhere and has been committed somewhere is committed
everywhere. -/
def settleTakeover : M Unit := do
  let d ← dev
  match d.cmd.fans.find? (·.seq == askStatus), d.cmd.fans.find? (·.seq == askLast) with
  | some f, some g =>
    if (f.members ++ g.members).all fun m => m.cpl.isSome then
      modCmd fun c => { c with fans := c.fans.filter fun x => x.seq != askStatus && x.seq != askLast }
      let locked := (d.reg A.CMD_STAGE_STATUS :: f.results.map (BitVec.ofNat 64)).filterMap lockedSet
      let last := (d.reg A.CMD_STAGE_LAST :: g.results.map (BitVec.ofNat 64)).map F.CMD_STAGE_LAST_LAST_SET_ID.of
      match locked.find? last.contains with
      | some s => giveCommit s
      | none => pure ()
    else pure ()
  | _, _ => pure ()

/-- A span manager that takes the lead reads the members' staged sets. -/
def beginTakeover : M Unit := do
  let d ← dev
  modCmd fun c => { c with fans := c.fans.filter fun x => x.seq != askStatus && x.seq != askLast }
  modRes fun r => { r with redo := none }
  let l := d.spanOthers.map fun n => (n, false)
  openFanAs askStatus false (shortPkt Op.csrRead 0 8 A.CMD_STAGE_STATUS) (fun _ => 0) l
  openFanAs askLast false (shortPkt Op.csrRead 0 8 A.CMD_STAGE_LAST) (fun _ => 0) l
  settleTakeover

/-- A span manager that no longer leads ends what it did as the leader. -/
def endTakeover : M Unit := do
  modCmd fun c => { c with fans := c.fans.filter fun x => x.seq != askStatus && x.seq != askLast }
  modRes fun r => { r with redo := none }

/-- A span-scope COMMIT that the leading span manager carried out has ended: as long as some device has committed and another has not, it is given
again. -/
def afterCommit (r : Run) (c : Cpl) : M Unit := do
  let d ← dev
  if r.op = Op.commit ∧ r.scope = 2 ∧ d.leadsSpan then
    let mine := d.sys.res.redo.any fun x => x.2 == r.seq
    if c.b ≠ 0 ∧ (mine ∨ (d.sys.res.redo.isNone ∧ c.a ≠ 0)) then giveCommit (r.par 0 4)
    else on mine (modRes fun x => { x with redo := none })
  else pure ()

/-- A member's completion, or one of a member already counted as failing (R41). -/
def unitCplMsg (m : DMsg) : M Unit := do
  let d ← dev
  match d.fanOf m.src m.tag with
  | none => bump A.TOP_UNIT_LATE_CNT
  | some f => modMember f.seq m.src fun x => { x with cpl := some (cplOfRecord (m.units.headD 0)) }
  settleTakeover

/-- A member has not answered in time: it counts as failing with TIMEOUT (R41). `acked` tells the two bounds apart. -/
def memberTimeout (node : Nat) (acked : Bool) : M Unit := do
  let d ← dev
  match d.cmd.fans.find? fun f => f.members.any fun m => m.node == node && m.cpl.isNone && m.acked == acked with
  | none => pure ()
  | some f =>
    match f.members.find? fun m => m.node == node && m.cpl.isNone && m.acked == acked with
    | none => pure ()
    | some m =>
      passTo m.due
      modMember f.seq node fun x => { x with cpl := some (fail Sc.timeout 0) }
      settleTakeover

/-! ## The combined completion (R40) -/

/-- What one member adds: node, status, DETAIL, devices that returned OK and devices that failed. A manager that failed without a combined
record of its own counts for its whole group (assumption log 34). -/
def Dev.memberShare (d : Dev) (m : Member) : Nat × Nat × Nat × Nat × Nat :=
  let c := m.cpl.getD {}
  if m.mgr then
    if c.status = 0 then (m.node, 0, 0, c.a, c.b)
    else if tb c.result 15 then (c.result % 16384, c.status, c.detail, c.a, c.b)
    else (m.node, c.status, c.detail, 0, (d.groupClear (groupOf m.node)).length)
  else (m.node, c.status, c.detail, b2n (c.status == 0), b2n (c.status != 0))

/-- The combined completion of a command from its own completion, if it was carried out here, and its members'. -/
def Dev.combined (d : Dev) (own : Option Cpl) (f : Fan) : Cpl :=
  let mine := match own with
    | some c => [(d.node, c.status, c.detail, b2n (c.status == 0), b2n (c.status != 0))]
    | none => []
  let l := mine ++ f.members.map d.memberShare
  let worst := (l.filter fun x => x.2.1 != 0).foldl (fun acc x => match acc with
    | none => some x
    | some y => if x.1 < y.1 then some x else some y) (none : Option (Nat × Nat × Nat × Nat × Nat))
  let a := (l.map fun x => x.2.2.2.1).sum
  let b := (l.map fun x => x.2.2.2.2).sum
  match worst with
  | none => { a := a, b := b }
  | some x => { status := x.2.1, detail := x.2.2.1, a := a, b := b, result := x.1 + 2 ^ 15 }

/-- The completion that a command's record holds, once it is known: its own, with what it was told to end with in its place, or the
combined one of a command of non-zero SCOPE. -/
def Dev.finalCpl (d : Dev) (r : Run) : Option Cpl :=
  let own := match r.cpl, r.mustAbort with
    | some _, some (st, dt) => some (fail st dt)
    | c, _ => c
  match d.cmd.fans.find? fun f => f.seq == r.seq with
  | none => own
  | some f =>
    if !(f.members.all fun m => m.cpl.isSome) then none
    else if f.fwd then (f.members.head?).bind (·.cpl)
    else if r.phase = awayPhase then some (d.combined none f)
    else own.map fun c => d.combined (some c) f

end Sys2Proof.Machine
end

