-- ==== Sys2Proof/Machine/Link.lean ====
section
/-! DEFINITION. The links of Talku and Dorrus: their states, training and retraining, flits received, failover between the two links of a
trunk, violations and quarantine, and the loss of a port (R20, R254 to R256, R268 to R270, R284, R291 to R294, R314, R564). -/

namespace Sys2Proof.Machine

/-! ## Counters and settings of a port (0 to 3 Talku, 4 to 15 Dorrus) -/

def feceAddr (port : Nat) : Nat := if port < 4 then A.TLK_FEC_CE_CNT port else A.DRS_FEC_CE_CNT (port - 4)
def fecuAddr (port : Nat) : Nat := if port < 4 then A.TLK_FEC_UE_CNT port else A.DRS_FEC_UE_CNT (port - 4)
def replayCntAddr (port : Nat) : Nat := if port < 4 then A.TLK_REPLAY_CNT port else A.DRS_REPLAY_CNT (port - 4)
def retrainCntAddr (port : Nat) : Nat := if port < 4 then A.TLK_RETRAIN_CNT port else A.DRS_RETRAIN_CNT (port - 4)
def quarCntAddr (port : Nat) : Nat := if port < 4 then A.TLK_QUAR_CNT port else A.DRS_QUAR_CNT (port - 4)
def laneAddr (port : Nat) : Nat := if port < 4 then A.TLK_LANE_STATUS port else A.DRS_LANE_STATUS (port - 4)
def portCfgAddr (port : Nat) : Nat := if port < 4 then A.TLK_CFG port else A.DRS_CFG (port - 4)

/-- Whether a port is enabled, and whether it may run on four lanes. -/
def Dev.portEnabled (d : Dev) (port : Nat) : Bool := bit (d.reg (portCfgAddr port)) 0
def Dev.portX4 (d : Dev) (port : Nat) : Bool := bit (d.reg (portCfgAddr port)) (if port < 4 then 2 else 1)

/-- Whether a link passes messages: UP, or in LOW_POWER from which traffic wakes it (R284, R314). -/
def isUpState (st : Nat) : Bool := st == Ps.up || st == Ps.lowPower

/-- The other link of a Dorrus port's trunk (R20). -/
def partnerPort (port : Nat) : Nat := 4 + (port - 4 + 6) % 12

/-- The partner, where the two ports form a trunk. -/
def Dev.partnerOf (d : Dev) (port : Nat) : Option Nat :=
  if port < 4 ∨ d.isExt port ∨ d.isExt (partnerPort port) then none else some (partnerPort port)

/-! ## Changes of a link's state -/

/-- LOST_TIME as it acts: at least 5,000 AON cycles. -/
def Dev.lostTime (d : Dev) (p : Nat) : Nat := max 5000 (d.fld (A.TLK_CFG p) F.TLK_CFG_LOST_TIME)

/-- The unacknowledged flits of a Dorrus link that has left UP for a state go out on the partner link as failover flits, each with the SEQ it
had; when both links have failed they are discarded (R293). A link without a partner in service that only retrains keeps them (R254, assumption
log 101). -/
def failOverTo (partner : Option Nat) (port st : Nat) : M Unit := do
  let d ← dev
  let l := d.link port
  match partner with
  | some q =>
    if isUpState (d.portState q) then do
      on (!(l.replay.isEmpty && l.fover.isEmpty)) (bump (A.DRS_FAILOVER_CNT (port - 4)))
      modLink q fun x => { x with fover := x.fover ++ (l.replay.map fun f => { f with oseq := some f.seq }) ++ l.fover }
      modLink port fun x => { x with replay := [], replays := 0, fover := [] }
      pumpFover q
    else on (st != Ps.retrain) (do
      modLink q fun x => { x with replay := [], fover := [] }
      modLink port fun x => { x with replay := [], replays := 0, fover := [] })
  | none => pure ()

/-- Failover of a link of a trunk. -/
def failOver (port st : Nat) : M Unit := do
  let d ← dev
  failOverTo (d.partnerOf port) port st

/-- The node at the other end of a Dorrus port (R20, R291). -/
def Dev.neighbour (d : Dev) (n : Nat) : Nat := moveNode d.dims d.node (n % 6 / 2) 1 (n % 2 == 1)

/-- The state that a link takes in place of one it is to take: the ports to an expelled device are held DOWN and not trained (R498). -/
def Dev.heldState (d : Dev) (port st : Nat) : Nat :=
  if 4 ≤ port && !(d.isExt port) && d.expelled (d.neighbour (port - 4)) && (isUpState st || st == Ps.training || st == Ps.retrain)
  then Ps.down else st

/-- A link takes a state: what leaving UP and returning to UP bring with them (R270, R292, R293). -/
def linkTo (port st : Nat) : M Unit := do
  let d ← dev
  let was := isUpState (d.portState port)
  setLinkState port (d.heldState port st)
  let d ← dev
  let isNow := isUpState (d.portState port)
  if port < 4 then
    if isNow then modLink port fun l => { l with lostDue := none }
    else on (was && (d.link port).lostDue.isNone) (modLink port fun l => { l with lostDue := some (d.now + d.lostTime port) })
  else do
    on (was && !isNow) (failOver port st)
    trunkCheckDown ((port - 4) % 6)
    trunkCheckUp ((port - 4) % 6)
    on (!(d.isExt port)) (settlePort port)
    on (!(d.isExt (partnerPort port))) (settlePort (partnerPort port))

/-- A port retrains (R254, R286, R291). -/
def startRetrain (port : Nat) : M Unit := do
  bump (retrainCntAddr port)
  linkTo port Ps.retrain

/-! ## Quarantine and loss (R268 to R270, R294) -/

/-- A port quarantines itself (R268, R294). -/
def quarantine (port : Nat) : M Unit := do
  if port < 4 then do
    quarantineTlk port
    serveAll
  else do
    let d ← dev
    let st := d.portState port
    let n := (d.link port).viol
    modLink port fun l => { l with phys := st }
    setPortState port Ps.quarantined
    bump (quarCntAddr port)
    raise Ev.drsQuarantine (port - 4) (port - 4) none 0 n
    on (isUpState st) (failOver port Ps.quarantined)
    trunkCheckDown ((port - 4) % 6)
    on (!(d.isExt port)) (settlePort port)
    on (!(d.isExt (partnerPort port))) (settlePort (partnerPort port))

/-- A port whose violations exceed THRESH in its window quarantines itself (R268). -/
def checkQuarantine (port : Nat) : M Unit := do
  let d ← dev
  on (d.overThreshold port && d.portState port != Ps.quarantined) (quarantine port)

/-- The violations of all Talku ports. -/
def checkTlkPorts : M Unit := each (List.range 4) checkQuarantine

/-- VIOL_WINDOW_CLOSE: the count starts again from zero. -/
def closeViolWindow (port : Nat) : M Unit := do
  let d ← dev
  match (d.link port).winEnd with
  | none => pure ()
  | some t => do
    passTo t
    checkQuarantine port
    modLink port fun l => { l with winEnd := none, viol := 0 }
    fset (portStatusAddr port) winViolFld 0

/-- LOST_TIME_EXPIRE. -/
def lostTimeExpire (p : Nat) : M Unit := do
  let d ← dev
  match (d.link p).lostDue with
  | none => pure ()
  | some t => do
    passTo t
    declareLost p 1

/-- RELEASE: the quarantine ends, the count is cleared, the window closes and the port retrains; a link that is down trains in full. -/
def releasePort (port : Nat) : M Unit := do
  let d ← dev
  if d.portState port ≠ Ps.quarantined then pure ()
  else
    let st := (d.link port).phys
    modLink port fun l => { l with winEnd := none, viol := 0, phys := 0 }
    fset (portStatusAddr port) winViolFld 0
    if isUpState st ∨ st = Ps.retrain then
      bump (retrainCntAddr port)
      setPortState port (d.heldState port Ps.retrain)
    else setPortState port (d.heldState port (if st = Ps.down then Ps.training else st))

/-- CTRL.RETRAIN: a trained link retrains, one that is DOWN trains in full. -/
def retrainPort (port : Nat) : M Unit := do
  let st ← look fun d => d.linkState port
  if isUpState st ∨ st = Ps.retrain then startRetrain port
  else if st = Ps.down then linkTo port Ps.training
  else pure ()

/-! ## Training (R255, R291, R564) -/

/-- Lanes that a port keeps: all eight, four when it may run on four, or none. -/
def Dev.width (d : Dev) (port : Nat) (lanes : BitVec 8) : Option Nat :=
  if lanes = 0xff then some 0
  else if d.portX4 port && (bits lanes 0 4 == 15 || bits lanes 4 4 == 15) then some 1
  else none

/-- Whether the partner of a Dorrus port is the one expected (R291, R310). -/
def Dev.rightPartner (d : Dev) (port : Nat) (t : TrainResult) : Bool :=
  if d.isExt port then t.span == d.fld A.GWY_CFG F.GWY_CFG_PEER_SPAN
  else t.span == d.span && t.node == d.neighbour (port - 4)

/-- A link starts with the credits its partner grants, with empty receive buffers and nothing to replay (R255 step 5). -/
def freshLink (port : Nat) (buffers : List Nat) : M Unit :=
  modLink port fun l => { l with txSeq := 0, rxSeq := 4095, replay := [], replays := 0, nakOwed := false, cred := buffers, rxBuf := [], inbox := [],
                                    fover := [], rxUsed := [], rxOwed := [] }

/-- LINK_TRAIN_DONE. -/
def trainDone (port : Nat) (t : TrainResult) : M Unit := do
  let d ← dev
  let st := d.linkState port
  if st ≠ Ps.training ∧ st ≠ Ps.retrain ∧ st ≠ Ps.down then pure ()
  else
    wr (laneAddr port) (BitVec.ofNat 64 (t.inverted.toNat + b2n t.reversed * 256))
    fset (portStatusAddr port) ⟨8, 8⟩ t.lanes.toNat
    on (decide (4 ≤ port)) (do
      fset (A.DRS_STATUS (port - 4)) F.DRS_STATUS_PEER_NODE t.node
      on (d.isExt port) (fset A.GWY_STATUS F.GWY_STATUS_PEER_SEEN t.span))
    match (if t.ok then d.width port t.lanes else none) with
    | none => linkTo port Ps.down
    | some w =>
      fset (portStatusAddr port) ⟨3, 1⟩ w
      if 4 ≤ port && !(d.rightPartner port t) then do
        raise Ev.drsMiswire (port - 4) (port - 4) none 0 0 (t.node * 65536 + t.span)
        linkTo port Ps.down
      else do
        on (st != Ps.retrain) (do
          freshLink port t.buffers
          on (decide (port < 4)) (fset (A.TLK_STATUS port) F.TLK_STATUS_LOST 0))
        linkTo port Ps.up

/-- LINK_DOWN: a trained link loses its signal. -/
def linkDown (port : Nat) : M Unit := do
  let st ← look fun d => d.linkState port
  if isUpState st ∨ st = Ps.retrain then linkTo port Ps.down else pure ()

/-- LINK_IDLE: in P2 a link with no message for 1 µs returns to LOW_POWER. -/
def linkIdle (port : Nat) : M Unit := do
  let d ← dev
  if d.power = 2 ∧ d.linkState port = Ps.up ∧ ¬ (d.trf.classq.any fun e => e.port == port) ∧ ¬ (d.trf.shaper.any fun e => e.port == port) then
    passTo (d.now + 50)
    linkTo port Ps.lowPower
  else pure ()

/-- LINK_WAKE_DONE: traffic from either side has woken a link. -/
def linkWake (port : Nat) : M Unit := do
  let st ← look fun d => d.linkState port
  if st = Ps.lowPower then linkTo port Ps.up else pure ()

/-- HOLD_DOWN_END: the trunk becomes available if a link is UP (R292). -/
def holdDownEnd (dir : Nat) : M Unit := do
  let d ← dev
  match d.trunkDownAt dir with
  | none => pure ()
  | some t => do
    passTo (t + d.holdDown)
    fset (A.DRS_STATUS dir) F.DRS_STATUS_HOLD 0
    fset (A.DRS_STATUS (dir + 6)) F.DRS_STATUS_HOLD 0
    trunkCheckUp dir

/-- ENABLE of a port written: the port leaves for DISABLED, or begins to train in full. A standalone device trains no Dorrus port; in minimal mode
only TLK[0] trains (R291, R517). -/
def portEnable (port : Nat) (on_ : Bool) : M Unit := do
  let d ← dev
  fset (portCfgAddr port) ⟨0, 1⟩ (b2n on_)
  let stage := d.fld A.BOOT_STATUS F.BOOT_STATUS_STAGE
  let runs := decide (4 ≤ stage) && (stage != 6 || port == 0) && !(decide (4 ≤ port) && d.standalone)
  if !on_ then linkTo port Ps.disabled
  else if d.linkState port = Ps.disabled ∧ (runs ∨ (port = 0 ∧ 1 ≤ stage)) then linkTo port Ps.training
  else pure ()

/-- Every enabled port that is DISABLED begins to train in full (R285, R315). -/
def trainPorts : M Unit := each (List.range 16) fun p => do
  let d ← dev
  on (d.portEnabled p && d.linkState p == Ps.disabled && !(decide (4 ≤ p) && d.standalone)) (linkTo p Ps.training)

/-! ## Flits received (R253, R254, R290, R293) -/

/-- Whether one sequence number is later than another (R293). -/
def seqLater (a b : Nat) : Bool := decide (0 < (a + 4096 - b) % 4096) && decide ((a + 4096 - b) % 4096 < 2048)

/-- Flits of the replay buffer left once an acknowledgement is taken. -/
def afterAck (l : List TxFlit) (ack : Nat) : List TxFlit :=
  if l.any fun e => e.seq == ack then (l.dropWhile fun e => e.seq != ack).drop 1 else l

/-- Credits returned in a flit header as (virtual channel, 16-byte units). -/
def flitCredits (port : Nat) (f : Flit) : List (Nat × Nat) :=
  if port < 4 then [(0, bits f.hdr 32 16), (1, bits f.hdr 48 16), (2, bits f.hdr 64 16)]
  else [(bits f.hdr 44 4, bits f.hdr 32 12), (bits f.hdr 60 4, bits f.hdr 48 12)]

/-- Acknowledgement and credits of a good flit. -/
def takeHeader (port : Nat) (f : Flit) : M Unit := modLink port fun l =>
  let rest := afterAck l.replay (flitAck f)
  { l with replay := rest, replays := if rest.length = l.replay.length then l.replays else 0,
           cred := (flitCredits port f).foldl (fun c x => c.set x.1 (c.getD x.1 0 + x.2)) l.cred }

/-- NAKF: the sender replays from ACK + 1; the eighth consecutive replay of the same flit starts a retrain (R254). -/
def takeNak (port : Nat) : M Unit := do
  bump (replayCntAddr port)
  modLink port fun l => { l with replays := l.replays + 1 }
  let d ← dev
  each (d.link port).replay (emitFlit port 1)
  on (decide (8 ≤ (d.link port).replays)) (do
    modLink port fun l => { l with replays := 0 }
    startRetrain port)

/-- Bytes of a message flit's body that belong to messages: with none in progress on its link, those from the unit that FIRST_MSG names on
(R253). -/
def bodyFrom (inProgress : Bool) (first : Nat) (b : List Byte) : List Byte :=
  if inProgress then b else if first < 38 then b.drop (16 * first) else []

/-- Message bytes join the stream of a link; the messages that are whole now wait in the inbox of the port that the flit came in on. -/
def takeBody (stream port first : Nat) (b : List Byte) : M Unit := do
  let l ← look fun d => d.link stream
  let bytes := l.rxBuf ++ bodyFrom (!l.rxBuf.isEmpty) first b
  let r := takeMsgs (decide (port < 4)) (bytes.length + 1) bytes
  modLink stream fun l => { l with rxBuf := r.2 }
  modLink port fun l => { l with inbox := l.inbox ++ r.1 }

/-- A message flit: the next in order is taken, a repeated one discarded, and one out of order asks for a replay. -/
def takeMsgFlit (port : Nat) (f : Flit) : M Unit := do
  let d ← dev
  let l := d.link port
  if flitSeq f ≠ seqAfter l.rxSeq 1 then
    modLink port fun l => { l with nakOwed := l.nakOwed || seqLater (flitSeq f) l.rxSeq }
  else
    modLink port fun l => { l with rxSeq := flitSeq f }
    if 4 ≤ port ∧ flitFovr f then
      let q := partnerPort port
      if seqLater (flitOseq f) (d.link q).rxSeq then do
        modLink q fun l => { l with rxSeq := flitOseq f }
        takeBody q port (flitFirst (decide (port < 4)) f) f.body
      else pure ()
    else takeBody port port (flitFirst (decide (port < 4)) f) f.body

/-- Whether the LCTL of a link control flit reports that the host of a Talku port has been reset: its encoding is not stated, so this is
uninterpreted (assumption log 38). -/
def hostReset (f : Flit) : Bool := Config.lctlHostReset (BitVec.ofNat 128 (flitLctl f))

/-- Whether a link takes a flit: a trained one any, one that trains or retrains the link control flits of step 4 (R255). -/
def Dev.hears (d : Dev) (port : Nat) (f : Flit) : Bool :=
  isUpState (d.linkState port) || (flitFtype f == 2 && (d.linkState port == Ps.training || d.linkState port == Ps.retrain))

/-- A flit arrives on a link. A quarantined Dorrus link discards every message (R294). -/
def takeFlit (port : Nat) (f : Flit) : M Unit := do
  let d ← dev
  if !(d.hears port f) then pure ()
  else if f.uncorrectable then do
    bump (fecuAddr port)
    modLink port fun l => { l with nakOwed := true }
  else do
    on (decide (0 < f.corrected)) (bump (feceAddr port))
    if !(flitCrcOk f) then modLink port fun l => { l with nakOwed := true }
    else do
      on (isUpState (d.linkState port)) (do
        takeHeader port f
        on (flitNakf f) (takeNak port))
      if flitFtype f = 1 then
        if 4 ≤ port ∧ d.portState port = Ps.quarantined then modLink port fun l => { l with rxSeq := flitSeq f }
        else takeMsgFlit port f
      else on (flitFtype f == 2 && decide (port < 4) && hostReset f) (declareLost port 3)

/-! ## Rows -/

def execTlkFlit (p : Fin 4) (f : Flit) (s : State) : Host.Outcome State Fault Refusal := s.runIf (flitFits f) (takeFlit p.val f)
def execDrsFlit (p : Fin 12) (f : Flit) (s : State) : Host.Outcome State Fault Refusal := s.runIf (flitFits f) (takeFlit (p.val + 4) f)
def execViolWindowClose (port : Fin 16) (s : State) : Host.Outcome State Fault Refusal := s.run (closeViolWindow port.val)
def execLostTimeExpire (p : Fin 4) (s : State) : Host.Outcome State Fault Refusal := s.run (lostTimeExpire p.val)
def execTlkRetrain (p : Fin 4) (s : State) : Host.Outcome State Fault Refusal := s.run (retrainPort p.val)
def execTlkRelease (p : Fin 4) (s : State) : Host.Outcome State Fault Refusal := s.run (releasePort p.val)
def execDeclareLost (p : Fin 4) (s : State) : Host.Outcome State Fault Refusal := s.run (declareLost p.val 4)
def execDrsRetrain (p : Fin 12) (s : State) : Host.Outcome State Fault Refusal := s.run (retrainPort (p.val + 4))
def execDrsRelease (p : Fin 12) (s : State) : Host.Outcome State Fault Refusal := s.run (releasePort (p.val + 4))
def execLinkTrainDone (port : Fin 16) (t : TrainResult) (s : State) : Host.Outcome State Fault Refusal :=
  s.runIf (decide (t.node < 16384) && decide (t.span < 65536)) (trainDone port.val t)
def execLinkDown (port : Fin 16) (s : State) : Host.Outcome State Fault Refusal := s.run (linkDown port.val)
def execLinkIdle (port : Fin 16) (s : State) : Host.Outcome State Fault Refusal := s.run (linkIdle port.val)
def execLinkWakeDone (port : Fin 16) (s : State) : Host.Outcome State Fault Refusal := s.run (linkWake port.val)
def execHoldDownEnd (trunk : Fin 6) (s : State) : Host.Outcome State Fault Refusal := s.run (holdDownEnd trunk.val)
def execPortEnable (port : Fin 16) (on_ : Bool) (s : State) : Host.Outcome State Fault Refusal := s.run (portEnable port.val on_)

end Sys2Proof.Machine
end

