-- ==== Sys2Proof/Machine/Stream.lean ====
section
/-! DEFINITION. Jobs, admission and stream windows (R391 to R406): STREAM_WINDOW, and the fills of staging tiles by the stream engines. -/

namespace Sys2Proof.Machine

/-! ## Jobs (R393, R397, R398) -/

/-- FLOOR of a tile in bytes: 0 acts as 1 (R408). -/
def Dev.floorBytes (d : Dev) (t : Nat) : Nat := max 1 (d.fld (A.STG_CFG t) F.STG_CFG_FLOOR) * 262144

/-- Whether a job's tile set includes a tile. -/
def Job.hasTile (j : Job) (t : Nat) : Bool := decide (j.first ≤ t) && decide (t < j.first + j.count)

/-- Admitted jobs whose tile set includes a tile (STG_RSV). -/
def Dev.jobsAt (d : Dev) (t : Nat) : List Job := d.eng.jobs.filter fun j => j.st == 1 && j.hasTile t

/-- Stage bytes reserved in a tile by the jobs of other queues. -/
def Dev.reservedBut (d : Dev) (q t : Nat) : Nat := (((d.jobsAt t).filter fun j => j.queue != q).map (·.stage)).sum

/-- Stage bytes that a queue could reserve in a tile. -/
def Dev.stageFree (d : Dev) (q t : Nat) : Nat := 4194304 - d.floorBytes t - d.reservedBut q t

/-- Summed quantity of the admitted jobs of a domain without one queue's. -/
def Dev.othersSum (d : Dev) (q dom : Nat) (f : Job → Nat) : Nat :=
  ((d.eng.jobs.filter fun j => j.st == 1 && j.dom == dom && j.queue != q).map f).sum

/-- Near bytes of a domain: its extents in state CLEAN or ASSIGNED (R398). -/
def Dev.nearBytes (d : Dev) (dom : Nat) : Nat :=
  ((List.range 384).filter fun e => d.extDom e == dom && decide (d.extState e ≤ 1)).length * 2 ^ 30

/-- Summed lengths of the valid remote segments of a context (R398). -/
def Dev.remoteBytes (d : Dev) (c : Nat) : Nat :=
  (((List.range 8).filterMap (d.seg c)).map fun s => if s.isRemote then s.len else 0).sum

/-! ## Parameters (R397) -/

/-- Whether the fields of STREAM_WINDOW lie in their ranges (R397, R398 order 2). -/
def streamOk (r : Run) : Bool :=
  let m := r.par 0 1
  if m = 0 then r.par 8 8 % 4096 == 0 && decide (r.par 8 8 ≤ 4194304) && decide (r.par 16 8 < 0x6000000000) && decide (r.par 24 8 < 2 ^ 43)
    && decide (r.par 32 2 ≤ 256)
  else if m = 2 then r.par 8 8 % 64 == 0 && decide (r.par 8 8 < 2 ^ 48) && decide (1 ≤ r.par 16 2) && decide (r.par 16 2 ≤ 256)
    && decide (1 ≤ r.par 18 1) && decide (r.par 18 1 ≤ 8) && decide (r.par 19 1 < r.par 16 2)
  else true

/-- Whether a mode is permitted in the job's and window's state (R398 order 3). -/
def Dev.streamModeOk (d : Dev) (q : Nat) (r : Run) : Bool :=
  let m := r.par 0 1
  let win := d.window q
  let admitted := ((d.job q).map (·.st)) == some 1
  if m = 1 then (d.job q).isSome
  else if m = 2 then win.isNone && admitted
  else if m = 3 then admitted && (match win with | some w => decide (w.cur ≤ r.par 8 2) && decide (r.par 8 2 < w.layers.length) | none => false)
  else if m = 4 then win.isSome && admitted
  else true

/-! ## ADMIT (R398, R399) -/

/-- Orders 4 to 9 of R398 for ADMIT: DETAIL and result of the first that fails. -/
def Dev.admitCheck (d : Dev) (q : Nat) (r : Run) : Option (Nat × Nat) :=
  let stage := r.par 8 8
  let near := r.par 16 8
  let far := r.par 24 8
  let slots := r.par 32 2
  let tiles := d.tiles q
  let nears := d.othersSum q r.dom (·.near)
  let slotsUsed := d.othersSum q r.dom (·.slots)
  let quota := d.fld (A.DOM_CFG r.dom) F.DOM_CFG_SLOT_QUOTA
  if d.eng.jobs.any fun j => j.queue != q && j.first == d.tileFirst q then some (0xB5, 0)
  else if tiles.any fun t => decide (4194304 < d.floorBytes t + d.reservedBut q t + stage) then some (0xB0, tiles.foldl (fun m t => min m (d.stageFree q t)) 4194304)
  else if d.nearBytes r.dom < near + nears then some (0xB1, d.nearBytes r.dom - nears)
  else if d.remoteBytes r.ctx < far then some (0xB2, d.remoteBytes r.ctx)
  else if quota < slots + slotsUsed then some (0xB3, quota - slotsUsed)
  else match d.window q with
    | some w => if stage < w.need then some (0xB4, w.need) else none
    | none => none

/-- Set the job of a queue. -/
def putJob (j : Job) : M Unit := modEng fun e => { e with jobs := e.jobs.filter (fun x => x.queue != j.queue) ++ [j] }

/-- ADMIT: the reservation takes effect whole, or the job is refused unless it is admitted already (R398, R399). -/
def admitJob (q : Nat) (r : Run) : M Unit := do
  let d ← dev
  match d.admitCheck q r with
  | some (dt, res) =>
    on (((d.job q).map (·.st)) != some 1) (putJob ⟨q, 2, d.tileFirst q, d.tileCount q, r.dom, 0, 0, 0, 0⟩)
    setCpl r { status := Sc.limit, detail := dt, result := res }
  | none =>
    putJob ⟨q, 1, d.tileFirst q, d.tileCount q, r.dom, r.par 8 8, r.par 16 8, r.par 24 8, r.par 32 2⟩
    setCpl r {}

/-! ## Fetches (R392, R395, R402, R404) -/

/-- Tiles of a layer of a window. -/
def Window.tilesOf (w : Window) (n : Nat) : Nat := (w.layers.getD n (0, 0)).2

/-- Fetches of a layer that have ended, as (tile index, status, DETAIL). -/
def Window.ended (w : Window) (n : Nat) : List (Nat × Nat × Nat) := (w.done.filter fun x => x.1 == n).map (·.2)

/-- Whether every tile of a layer has been filled or has failed. -/
def Window.layerDone (w : Window) (n : Nat) : Bool := decide (w.tilesOf n ≤ (w.ended n).length)

/-- The layers that may be held or fetched (R402). -/
def Window.span (w : Window) : List Nat := (List.range (min (w.cur + w.w) (w.layers.length - 1) + 1 - w.cur)).map (· + w.cur)

/-- The layer being fetched. -/
def Window.fetchLayer (w : Window) : Option Nat := w.span.find? fun n => !(w.layerDone n)

/-- The next tile that a tile's stream engine fetches, as (layer, tile index) (R401, R402). -/
def Window.nextAt (w : Window) (tile : Nat) : Option (Nat × Nat) :=
  match w.fetchLayer with
  | none => none
  | some n =>
    let ended := w.ended n
    ((List.range (w.tilesOf n)).find? fun i => w.first + i % w.count == tile && !(ended.any fun x => x.1 == i)).map fun i => (n, i)

/-- The background fetch of a queue with the words given; it is begun if it does not stand yet. -/
def bgRun (q dom ctx : Nat) (aux : List Nat) : M Run := do
  let d ← dev
  match d.cmd.runs.find? fun r => r.iss == .bg q && r.aux == aux with
  | some r => return r
  | none =>
    let seq := 2 ^ 33 + d.eng.nextId
    modEng fun e => { e with nextId := e.nextId + 1 }
    let r : Run := { iss := .bg q, seq := seq, pkt := putBits (putBits 0 24 5 dom) 32 8 ctx, tick := d.now, aux := aux }
    modCmd fun c => { c with runs := c.runs ++ [r] }
    return r

/-- Whether writes of a queue's commands to a tile of memory are not ordered, or not answered, yet. -/
def Dev.writesTo (d : Dev) (q : Nat) (t : Tgt) : Bool :=
  let mine (seq : Nat) : Bool := d.cmd.runs.any fun x => x.seq == seq && x.iss == .q q
  match t with
  | .loc off _ => d.home.waiting.any fun x => (match x.src with | .run seq => mine seq | _ => false) && x.op.writes && x.line / 64 == off / 4096
  | .win node win off _ => d.fab.out.any fun o =>
      mine o.seq && o.m.type != 1 && o.m.dst == node && o.m.win == win && o.m.woff / 4096 == off / 4096

/-- What a tile read of a background fetch brings: where it went and its 64 lines, from their homes. It comes after the writes of its queue's
own commands (R199). -/
def tileRead (va : Nat) (d : Dev) (r : Run) : Rd (Tgt × List Rline) := do
  let t ← tr d r va .r
  let own := match r.iss with | .bg q => d.writesTo q t | _ => false
  if own then stop .wait
  let l ← homeLines d r 0 va 64 t
  return (t, l)

/-- Account for a fetch of a tile's stream engine; its translation was made ahead of use where it looks ahead (R172). -/
def accountBg (r : Run) (tile : Nat) (t : Trail) : M Unit := do
  let d ← dev
  let pf := d.fld A.STN_CFG F.STN_CFG_PF_EN == 1
  accountTrail r (if pf then { t with looks := t.looks.filter fun x => !x.2 } else t)
  on pf (each (t.looks.filter (·.2)) fun x => lookAhead tile x.1)

/-- Record the end of a window fetch. -/
def endFetch (q : Nat) (seq : Nat) (n i status detail : Nat) : M Unit := do
  let f (w : Window) : Window := if w.queue = q then { w with done := w.done ++ [(n, i, status, detail)] } else w
  modEng fun e => { e with wins := e.wins.map f }
  dropRun seq

/-- The stream engine of a tile works on the next fetch of a window. With `take` its lines are taken if they are there; without, the
fetch is only asked for. -/
def fetchTile (take : Bool) (q tile : Nat) : M Unit := do
  let d ← dev
  match d.window q with
  | none => pure ()
  | some w =>
    match w.nextAt tile with
    | none => pure ()
    | some (n, i) =>
      let va := (w.layers.getD n (0, 0)).1 + 4096 * i
      let r ← bgRun q w.dom w.ctx [0, tile, n, i]
      let d ← dev
      let (res, t) := (tileRead va d r).run.run {}
      match res with
      | .ok (tg, ls) =>
        on take (do
          accountBg r tile t
          let old (x : Ret) : Bool := x.queue == q && x.kind == 0 && x.layer == n && x.idx == i
          modOwn fun o => { o with ret := (o.ret.filter fun x => !old x) ++ copiesOf d tile q 0 n i r tg ls }
          bump48 (A.STR_FILL_CNT tile) 1
          endFetch q r.seq n i 0 0)
      | .error (.fail c) =>
        on take (do
          accountBg r tile t
          fadd (A.STR_FILL_FAIL_CNT tile) ⟨0, 32⟩ 1
          endFetch q r.seq n i c.status c.detail)
      | .error s => askStop r s

/-- Every stream engine of a window's set asks for its next tile (R402). -/
def pumpWindow (q : Nat) : M Unit := do
  let d ← dev
  match d.window q with
  | none => pure ()
  | some w => on (decide (d.power < 2)) (each ((List.range w.count).map (· + w.first)) (fetchTile false q))

/-! ## OPEN, ADVANCE, CLOSE (R401 to R405) -/

/-- The layer table (R401). -/
def readLayers (d : Dev) (r : Run) : Rd (List (Nat × Nat)) := do
  let n := r.par 16 2
  let l ← readBytes d r (r.par 8 8) (16 * n)
  let es := (List.range n).map fun i => (leAt l (16 * i) 8, leAt l (16 * i + 8) 4, leAt l (16 * i + 12) 4)
  let bad (e : Nat × Nat × Nat) : Bool :=
    e.1 % 4096 != 0 || decide (2 ^ 48 ≤ e.1) || e.2.1 == 0 || decide (2 ^ 48 < e.1 + e.2.1 * 4096) || e.2.2 != 0
  match (List.range n).find? fun i => bad (es.getD i (0, 0, 0)) with
  | some i => failRd Sc.malformed 0xB1 i
  | none => return es.map fun e => (e.1, e.2.1)

/-- A window's need (R401). -/
def windowNeed (layers : List (Nat × Nat)) (count w : Nat) : Nat :=
  (w + 1) * (layers.foldl (fun m e => max m ((e.2 + count - 1) / count * 4096)) 0)

/-- OPEN (R401, R402). -/
def openWindow (q : Nat) (r : Run) : M Unit :=
  runWork r (fun d r => do
    let layers ← readLayers d r
    let need := windowNeed layers (d.tileCount q) (r.par 18 1)
    if ((d.job q).map (·.stage)).getD 0 < need then throw (.fail { status := Sc.limit, detail := 0xB4, result := need })
    return (layers, need)) fun (layers, need) => do
      let d ← dev
      let w : Window := ⟨q, d.tileFirst q, d.tileCount q, r.dom, r.ctx, layers, r.par 18 1, r.par 19 1, need, []⟩
      modEng fun e => { e with wins := e.wins ++ [w] }
      setCpl r {}
      pumpWindow q

/-- The ADVANCE of a queue completes when every tile of the current layer has been filled or has failed (R403, R404). A wait lasts a
number of CORE cycles that the model leaves free. -/
def settleAdvance (q : Nat) : M Unit := do
  let d ← dev
  match d.window q, d.runOf (.q q) with
  | some w, some r =>
    if r.goes Op.streamWindow && r.phase == 2 && w.layerDone w.cur then
      let waited := r.aux.getD 0 0
      let cycles ← if waited = 0 then pure 0 else freeBelow (2 ^ 48)
      bump48 (A.STR_ADV_WAIT_CNT w.first) cycles
      let ended := w.ended w.cur
      let bad := ended.filter fun x => x.2.1 != 0
      match bad.head? with
      | some (i, st, dt) =>
        setCpl r { status := st, detail := dt, a := ended.length - bad.length, b := bad.length,
                   result := (w.layers.getD w.cur (0, 0)).1 + 4096 * i }
      | none => setCpl r { a := ended.length, b := 0, result := cycles }
    else pure ()
  | _, _ => pure ()

/-- ADVANCE: the layer becomes current and lower layers are dropped (R403). -/
def advanceWindow (q : Nat) (r : Run) : M Unit := do
  let n := r.par 8 2
  let f (w : Window) : Window := if w.queue = q then { w with cur := n, done := w.done.filter fun x => decide (n ≤ x.1) } else w
  modEng fun e => { e with wins := e.wins.map f }
  modOwn fun o => { o with ret := o.ret.filter fun x => !(x.queue == q && x.kind == 0 && decide (x.layer < n)) }
  modCmd fun c => { c with runs := c.runs.filter fun x => !(x.iss == .bg q && x.aux.getD 0 1 == 0 && decide (x.aux.getD 2 0 < n)) }
  pumpWindow q
  let d ← dev
  let waits := match d.window q with | some w => !(w.layerDone n) | none => false
  setPhase r 2 [b2n waits]
  settleAdvance q

/-- CLOSE (R405). -/
def closeWindow (q : Nat) : M Unit := do
  modEng fun e => { e with wins := e.wins.filter fun w => w.queue != q }
  modOwn fun o => { o with ret := o.ret.filter fun x => !(x.queue == q && x.kind == 0) }
  modCmd fun c => { c with runs := c.runs.filter fun x => !(x.iss == .bg q && x.aux.getD 0 1 == 0) }

/-- STREAM_WINDOW (R397 to R405). -/
def streamWindow (r : Run) : M Unit := do
  let d ← dev
  match r.queue with
  | none => pure ()
  | some q =>
    let m := r.par 0 1
    if r.phase = 2 then settleAdvance q
    else if 4 < m then setCpl r (fail Sc.malformed 0x06)
    else if !(streamOk r) then setCpl r (fail Sc.malformed 0xB0)
    else if !(d.streamModeOk q r) then setCpl r (fail Sc.malformed 0xB2)
    else if m = 0 then admitJob q r
    else if m = 1 then do
      releaseJob q
      setCpl r {}
    else if m = 2 then openWindow q r
    else if m = 3 then advanceWindow q r
    else do
      closeWindow q
      setCpl r {}

/-- On return to P0 the windows are fetched again from the beginning (R406). -/
def restartWindows : M Unit := do
  let f (w : Window) : Window := { w with done := [] }
  modEng fun e => { e with wins := e.wins.map f }
  let l ← look fun d => d.eng.wins.map (·.queue)
  each l pumpWindow

def execStreamWindow (r : Req) (s : State) : Host.Outcome State Fault Refusal := s.run (onRun Op.streamWindow r streamWindow)

end Sys2Proof.Machine
end

