-- ==== Sys2Proof/Machine/Start.lean ====
section
/-! DEFINITION. COMMAND_START and COMPLETION_WRITE: the checks of every packet (R77), its parameter block (R59, R60), which command starts
(R68 to R72, R353), and where its completion goes. -/

namespace Sys2Proof.Machine

/-! ## What each opcode takes (R36, R74 and the layout tables of the opcodes) -/

/-- What the checks of R77 need to know of an opcode: its executor (0 either, 1 tile, 2 Easel), whether it accepts a SCOPE (R36), STAGED, and
whether it needs ALL_DOMAINS (R74); the longest parameter block it takes (0: inline only), whether it takes inline parameters, the
place and width of COUNT and the bytes of an entry where the block holds COUNT entries from byte 16, and the parameter bits it
defines, as first bit and number of bits. -/
structure OpInfo where
  kind : Nat
  scope : Bool := false
  staged : Bool := false
  all : Bool := false
  blk : Nat := 0
  inl : Bool := true
  var : Option (Nat × Nat × Nat) := none
  defd : List (Nat × Nat) := []

/-- Whole bytes of a layout: offset and number. -/
def by' (o n : Nat) : Nat × Nat := (8 * o, 8 * n)

/-- The low bits of a byte of a layout. -/
def lowBits (o n : Nat) : Nat × Nat := (8 * o, n)

/-- The management opcodes of R15. -/
def easelOps : List (Nat × OpInfo) := [
  (Op.csrRead, { kind := 2, all := true, defd := [by' 0 8] }),
  (Op.csrWrite, { kind := 2, scope := true, staged := true, all := true, defd := [by' 0 24] }),
  (Op.stage, { kind := 2, scope := true, all := true, blk := 1552, var := some (4, 2, 24), defd := [by' 0 6] }),
  (Op.check, { kind := 2, scope := true, all := true, defd := [by' 0 4] }),
  (Op.commit, { kind := 2, scope := true, all := true, defd := [by' 0 4] }),
  (Op.abandon, { kind := 2, scope := true, all := true, defd := [by' 0 4] }),
  (Op.domainCreate, { kind := 2, scope := true, staged := true, all := true, defd := [by' 0 35] }),
  (Op.domainDestroy, { kind := 2, scope := true, staged := true, all := true }),
  (Op.keyLoad, { kind := 2, blk := 192, inl := false, defd := [by' 0 4, by' 8 168] }),
  (Op.sanitise, { kind := 2, defd := [by' 0 4, lowBits 4 5, by' 5 1] }),
  (Op.segLoad, { kind := 2, blk := 144, var := some (2, 1, 16), defd := [by' 0 3, by' 8 8] }),
  (Op.rangeInvalidate, { kind := 2, defd := [by' 0 16] }),
  (Op.windowOpen, { kind := 2, staged := true,
                    defd := [lowBits 0 6, lowBits 1 5, lowBits 2 5, by' 4 1, lowBits 5 6, by' 8 10, lowBits 18 2] }),
  (Op.windowClose, { kind := 2, staged := true, defd := [lowBits 0 6] }),
  (Op.leaseGrant, { kind := 2, all := true, defd := [by' 0 4, lowBits 4 4, by' 6 2] }),
  (Op.leaseRenew, { kind := 2, defd := [by' 0 6] }),
  (Op.leaseRevoke, { kind := 2, all := true, defd := [by' 0 4] }),
  (Op.publish, { kind := 2, defd := [lowBits 0 6, by' 4 12] }),
  (Op.ownTransfer, { kind := 2, defd := [by' 0 9, lowBits 9 6, by' 10 2, lowBits 12 1] }),
  (Op.ownAccept, { kind := 2, defd := [by' 0 1, lowBits 1 6, by' 8 10] }),
  (Op.slotBind, { kind := 2, defd := [by' 0 2, by' 8 40] }),
  (Op.powerState, { kind := 2, scope := true, all := true, defd := [lowBits 0 2] }),
  (Op.clockSet, { kind := 2, scope := true, staged := true, all := true, defd := [by' 0 1, lowBits 1 2, by' 2 1] }),
  (Op.shadowBegin, { kind := 2, all := true, defd := [by' 0 8] }),
  (Op.shadowCompare, { kind := 2, all := true, defd := [by' 0 24] }),
  (Op.expelVote, { kind := 2, all := true, defd := [by' 0 1, lowBits 1 6, lowBits 2 7, lowBits 3 1] }),
  (Op.attest, { kind := 2, defd := [by' 0 48] }),
  (Op.fwStage, { kind := 2, scope := true, all := true, defd := [by' 0 21, lowBits 21 6, by' 22 2] }),
  (Op.fwActivate, { kind := 2, scope := true, all := true, defd := [by' 0 48] })]

/-- The opcodes of the tiles in R15, and NOP. -/
def tileOps : List (Nat × OpInfo) := [
  (Op.nop, { kind := 0, scope := true }),
  (Op.copy, { kind := 1, defd := [by' 0 24] }),
  (Op.fill, { kind := 1, defd := [by' 0 24] }),
  (Op.observe, { kind := 1, blk := 1040, var := some (0, 2, 16), defd := [by' 0 2] }),
  (Op.matmul, { kind := 1, blk := 128, inl := false,
                defd := [by' 0 3, lowBits 3 2, lowBits 4 6, by' 8 1, by' 12 16, by' 32 88] }),
  (Op.route, { kind := 1, blk := 128, inl := false, defd := [by' 0 9, lowBits 9 2, by' 10 10, by' 24 56] }),
  (Op.streamWindow, { kind := 1 }),
  (Op.gatherPool, { kind := 1, blk := 64, inl := false, defd := [by' 0 47] }),
  (Op.rowReplace, { kind := 1, defd := [by' 0 26] }),
  (Op.rowMigrate, { kind := 1, defd := [by' 0 24] }),
  (Op.prefetchIndices, { kind := 1, blk := 64, inl := false, defd := [by' 0 47] }),
  (Op.search, { kind := 1, blk := 64, inl := false, defd := [by' 0 1, lowBits 1 1, by' 2 55] }),
  (Op.sideAppend, { kind := 1, defd := [by' 0 18] }),
  (Op.sideDelete, { kind := 1, defd := [by' 0 18] }),
  (Op.merge, { kind := 1, defd := [by' 0 10] }),
  (Op.bitwise, { kind := 1, defd := [by' 0 1, lowBits 1 1, by' 8 32] })]

/-- What an implemented opcode takes (R15); `none` for any other. -/
def opInfo (op : Nat) : Option OpInfo := ((easelOps ++ tileOps).find? fun e => e.1 == op).map (·.2)

/-- Parameter bits that STREAM_WINDOW defines, by MODE (R397); a MODE above 4 is met by its own check. -/
def streamDefd (mode : Nat) : List (Nat × Nat) :=
  if mode = 0 then [by' 0 1, by' 8 26] else if mode = 1 then [by' 0 1] else if mode = 2 then [by' 0 1, by' 8 12]
  else if mode = 3 then [by' 0 1, by' 8 2] else if mode = 4 then [by' 0 1] else [by' 0 48]

/-- Parameter bits of the descriptors of a SEG_LOAD: the reserved fields of one with VALID = 1 are met by the first check of R163, those of the
others are reserved fields of the block (R14, R162). -/
def segDefd (r : Run) : List (Nat × Nat) :=
  (List.range (min (r.par 2 1) 64)).flatMap fun i =>
    let o := 8 * (16 + 16 * i)
    if r.par (16 + 16 * i) 1 % 2 = 1 then [(o, 128)] else [(o, 6), (o + 21, 27), (o + 64, 18), (o + 85, 43)]

/-- Parameter bits that an opcode of the CX6 layout defines (R213, R435). -/
def cx6Defd (op : Nat) : List (Nat × Nat) :=
  if op = Op.copy then [by' 0 20] else if op = Op.fill then [by' 0 16] else if op = Op.gatherPool then [by' 0 32, lowBits 32 1] else []

/-- Parameter bits that the opcode of a command defines. -/
def Run.defd (r : Run) (i : OpInfo) : List (Nat × Nat) :=
  if r.isCx6 then cx6Defd r.op
  else if r.op = Op.streamWindow then streamDefd (r.par 0 1)
  else if r.op = Op.segLoad then i.defd ++ segDefd r
  else i.defd ++ match i.var with
    | some (o, w, n) => [by' 16 (n * min (r.par o w) 64)]
    | none => []

/-- A number with a range of bits cleared. -/
def clearBits (x : Nat) (f : Nat × Nat) : Nat := x - ((x >>> f.1) % 2 ^ f.2) <<< f.1

/-- Whether every parameter bit that the opcode does not define is zero (R14, R58). -/
def Run.paramsClean (r : Run) (i : OpInfo) : Bool := (r.defd i).foldl clearBits (leBytes r.params) == 0

/-! ## CX6-format packets (R80) -/

/-- The opcode that a CX6 opcode is executed as. -/
def cx6Op (op : Nat) : Option Nat :=
  if op = 0x0001 then some Op.nop else if op = 0x0021 then some Op.copy else if op = 0x0022 then some Op.fill
  else if op = 0x0031 then some Op.gatherPool else none

/-- A CX6-format packet of a queue with its header in the CX9 layout: the queue's DOMAIN and CX6_CONTEXT, SCOPE and STAGED 0. -/
def Dev.cx6Pkt (d : Dev) (q : Nat) (p : Line) : Line :=
  let op := (cx6Op (le p 0 2)).getD (le p 0 2)
  let f := byteOf p 2 &&& 0x83
  let h := putLe (putLe (putLe p 0 2 op) 2 1 f.toNat) 3 1 (d.qcfg q F.CMD_Q_CFG_DOMAIN)
  putLe (putLe h 4 2 (d.qcfg q F.CMD_Q_CFG_CX6_CONTEXT)) 6 2 (le p 4 2)

/-- Whether the reserved header fields of a packet are zero (R57, R80). -/
def headerClean (p : Line) : Bool :=
  if bit p 23 then bits p 18 5 == 0 && le p 3 1 == 0 && le p 6 2 == 0
  else bits p 21 2 == 0 && bits p 29 3 == 0 && le p 5 1 == 0

/-- Whether a CX6-format packet may run on its queue. -/
def Dev.cx6Ok (d : Dev) (i : Iss) (p : Line) : Bool :=
  match i with
  | .q n => d.qcfg n F.CMD_Q_CFG_KIND == 0 && d.qcfg n F.CMD_Q_CFG_CX6_ALLOW == 1 && (cx6Op (le p 0 2)).isSome
  | _ => false

/-- The packet of a command as it is executed. -/
def Dev.execPkt (d : Dev) (i : Iss) (p : Line) : Line :=
  match i with
  | .q n => if bit p 23 then d.cx6Pkt n p else p
  | _ => p

/-! ## The checks of R77 -/

/-- Whether a change of GROUP_MGR or SPAN_MGR is pending for a command (R44): a CHECK that clears one of them has passed, and the command is
not the COMMIT or ABANDON that ends the wait (assumption log 44). -/
def Dev.rolePending (d : Dev) (r : Run) : Bool :=
  d.staged.rolePend && !((r.op == Op.commit || r.op == Op.abandon) && r.par 0 4 == d.setId)

/-- Whether the queue kind accepts the opcode (R74). -/
def Dev.kindOk (d : Dev) (i : Iss) (o : OpInfo) : Bool := o.kind == 0 || (o.kind == 1) == d.isEngine i

/-- Whether SCOPE is accepted by the opcode and the role (R36, R37). -/
def Dev.scopeOk (d : Dev) (r : Run) (o : OpInfo) : Bool :=
  r.scope == 0 || (o.scope && if r.scope == 1 then d.isGroupMgr else d.isSpanMgr)

/-- Whether DOMAIN is permitted (R75). -/
def Dev.domainOk (d : Dev) (r : Run) : Bool :=
  match r.iss with
  | .q n => d.qcfg n F.CMD_Q_CFG_DOMAIN == r.dom || (d.qcfg n F.CMD_Q_CFG_KIND == 1 && d.qcfg n F.CMD_Q_CFG_ALL_DOMAINS == 1)
  | _ => true

/-- The opcodes that the mailbox accepts (R518). -/
def mboxOps : List Nat := [Op.nop, Op.csrRead, Op.csrWrite, Op.fwActivate]

/-- Checks 1 to 11 of R77 of a command whose packet as given is `raw`, and the opcodes of the mailbox (R518): the status and DETAIL of the
first that fails. -/
def Dev.packetRefusal (d : Dev) (raw : Line) (r : Run) : Option (Nat × Nat) :=
  let o := opInfo r.op
  if r.isCx6 && !(d.cx6Ok r.iss raw) then some (Sc.unsupported, 0x0C)
  else if !(headerClean raw) || (r.ptr != 0 && bits raw 128 384 != 0) ||
      (r.ptr == 0 && match o with | some i => !(r.paramsClean i) | none => false) then some (Sc.malformed, 0x01)
  else if r.scope = 3 then some (Sc.malformed, 0x03)
  else match o with
  | none => some (Sc.unsupported, if r.iss == .mbox then 0xF0 else 0x08)
  | some i =>
    if r.iss == .mbox && !(mboxOps.contains r.op) then some (Sc.unsupported, 0xF0)
    else if !(d.kindOk r.iss i) then some (Sc.unsupported, 0x09)
    else if !(d.scopeOk r i) then some (Sc.unsupported, 0x0A)
    else if r.isStaged && !i.staged then some (Sc.unsupported, 0x0E)
    else if r.scope ≠ 0 ∧ d.rolePending r then some (Sc.retry, 0x14)
    else if i.all && !(d.allDomains r.iss) then some (Sc.rights, 0x12)
    else if !(d.domainOk r) then some (Sc.rights, 0x10)
    else if d.isEngine r.iss && !(d.ctxBound r.ctx && d.ctxDom r.ctx == r.dom) then some (Sc.rights, 0x11)
    else if r.ptr = 0 ∧ ¬ i.inl then some (Sc.malformed, 0x02)
    else none

/-- Checks on DOMAIN and on the job before the opcode's own (R126, R399). -/
def Dev.domainRefusal (d : Dev) (r : Run) : Option (Nat × Nat) :=
  if d.domState r.dom ≠ 1 ∧ r.op ∉ [Op.domainCreate, Op.domainDestroy, Op.keyLoad] then some (Sc.rights, 0x33)
  else match r.iss with
  | .q n =>
    if d.isEngine r.iss && (match d.job n with | some j => j.st == 2 | none => false) &&
        !(r.op == Op.streamWindow && decide (r.par 0 1 < 2)) then some (Sc.aborted, 0xB0)
    else none
  | _ => none

/-! ## The parameter block (R59, R60) -/

/-- Read `n` lines from a local offset as a requester domain: the access check, the state of the stack, poison. -/
def offLines (d : Dev) (dom off n : Nat) : Rd (List Rline) :=
  (List.range n).mapM fun i => do
    let o := off + 64 * i
    match d.refusal o (some dom) none with
    | some (st, dt) =>
      refusedRd dom st
      failRd st dt o
    | none =>
      if !(d.stackServes (stackOf o)) && !(d.stackFailed (stackOf o)) then stop .wait
      else if d.repairing o then stop .wait
      else if d.unsettled (o / 64) then stop (.decode (o / 64))
      else
        modTrail fun x => { x with lines := o / 64 :: x.lines }
        return ⟨d.line (o / 64), d.poisonOf (o / 64), d.globalAddr o⟩

/-- Read the lines of a block of an engine command (right R in its CONTEXT) or, at a local offset with the queue's DOMAIN, of a management
command (assumption log 30). -/
def blockLines (d : Dev) (r : Run) (va n : Nat) : Rd (List Rline) :=
  if n = 0 then return []
  else if d.isEngine r.iss then readLines d r va n
  else
    let dom := match r.queue with | some q => d.qcfg q F.CMD_Q_CFG_DOMAIN | none => r.dom
    offLines d dom va n

/-- Whether `n` bytes from PARAM_PTR lie as R59 asks. -/
def Dev.blockFits (d : Dev) (r : Run) (n : Nat) : Bool :=
  decide (r.ptr % 64 = 0) && decide (r.ptr % 4096 + n ≤ 4096) &&
    (d.isEngine r.iss || (decide (r.ptr < 2 ^ 39) && match r.queue with
      | some q => d.leasedTo (d.qcfg q F.CMD_Q_CFG_PORT) r.ptr n
      | none => true))

/-- Read the block, checks 12 and 13 of R77; where the block holds COUNT entries its header gives its length (assumption log 33). -/
def readBlock (d : Dev) (r : Run) : Rd (List Byte) := do
  match opInfo r.op with
  | none => return []
  | some i =>
    if i.blk = 0 ∨ r.isCx6 then failRd Sc.malformed 0x02 0
    else
      let first := match i.var with | some _ => 16 | none => i.blk
      if !(d.blockFits r first) then failRd Sc.malformed 0x02 0
      else
        let head ← blockLines d r r.ptr ((first + 63) / 64)
        let hb := (head.map fun x => lineBytes x.data).flatten
        let n := match i.var with
          | some (o, w, sz) => if 16 + sz * leAt hb o w ≤ i.blk then 16 + sz * leAt hb o w else first
          | none => first
        if !(d.blockFits r n) then failRd Sc.malformed 0x02 0
        else
          let have_ := head.length
          let tail ← blockLines d r (r.ptr + 64 * have_) ((n + 63) / 64 - have_)
          if (head ++ tail).any fun x => x.poison != 0 then failRd Sc.poisoned 0x1A 0
          else return (hb ++ (tail.map fun x => lineBytes x.data).flatten).take n

/-- A command has passed the checks up to order 13: one of non-zero SCOPE goes to its members, and it goes on to its own checks (R126,
R399). -/
def passChecks (seq : Nat) : M Unit := do
  again seq fun r => on (r.scope != 0) (startFan r)
  again seq fun r => do
    let d ← dev
    match d.domainRefusal r with
    | some (st, dt) => if r.phase = awayPhase then pure () else setCpl r (fail st dt)
    | none => pure ()

/-- Read the parameter block of a command that has started and go on when it is there. -/
def takeBlock (r : Run) : M Unit := do
  runWork r readBlock fun b => do
    modRun r.seq fun x => { x with blk := b, phase := 0 }
    again r.seq fun r => match opInfo r.op with
      | some i => if r.paramsClean i then pure () else setCpl r (fail Sc.malformed 0x01)
      | none => pure ()
    passChecks r.seq

/-! ## Starting (R68 to R72, R353) -/

/-- An accepted command becomes a running one and is checked; one that its queue no longer starts completes ABORTED 0x18 (R72). -/
def startRun (a : Acc) (bf drained : Bool) : M Unit := do
  let d ← dev
  let pkt := d.execPkt a.iss a.pkt
  let r : Run := { iss := a.iss, seq := a.seq, pkt := pkt, tick := d.now, trace := a.trace, bf := bf }
  modCmd fun c => { c with acc := c.acc.filter (fun x => x.seq != a.seq || x.iss != a.iss), runs := c.runs ++ [r] }
  if drained then setCpl r (fail Sc.aborted 0x18)
  else
    traceCmd Ev.trcStart 1 r.queue a.trace a.seq pkt 0 0
    match d.packetRefusal a.pkt r with
    | some (st, dt) => setCpl r (fail st dt)
    | none =>
      if r.ptr = 0 then passChecks r.seq
      else
        setPhase r blkPhase []
        again r.seq takeBlock

/-- Tiles of an ENGINE queue that are gated (R70), and whether one lies in a half held in reset. -/
def Dev.gatedOf (d : Dev) (q : Nat) : List Nat := (d.tiles q).filter d.tileGated
def Dev.tilesDown (d : Dev) (q : Nat) : Bool := (d.tiles q).any fun t => d.halfDown (decide (32 ≤ t))

/-- Whether the device serves commands: not in P3 and not between power states (R539), and the boot ROM or firmware has started (R510, R518). -/
def Dev.serves (d : Dev) : Bool :=
  d.power != 3 && d.fld A.PWR_STATUS F.PWR_STATUS_TRANS == 0 && decide (4 ≤ d.fld A.BOOT_STATUS F.BOOT_STATUS_STAGE)

/-- Whether a management core leads, which executes the commands of MGMT queues (R64). -/
def Dev.coreServes (d : Dev) : Bool := d.serves && d.fld A.TOP_HALF_STATUS F.TOP_HALF_STATUS_LEADER != 0

/-- Whether the device starts commands of queues: none before step 7 of the start and none in minimal mode (R510, R517). The tile command
processors start theirs whether or not a management core leads (R64, R487). -/
def Dev.canStart (d : Dev) : Bool := d.serves && d.fld A.BOOT_STATUS F.BOOT_STATUS_STAGE != 6

/-- Whether a queue is the backfill queue of its one tile, as TCP_BACKFILL reads (R353). -/
def Dev.backfillOk (d : Dev) (t : Nat) : Bool :=
  let v := d.reg (A.TCP_BACKFILL t)
  let q := F.TCP_BACKFILL_QUEUE.of v
  F.TCP_BACKFILL_EN.of v == 1 && d.qcfg q F.CMD_Q_CFG_KIND == 0 && d.tileFirst q == t && d.tileCount q == 1

/-- Whether a waiting command may start in the backfill context: a MATMUL of the backfill queue of a tile that another command holds. -/
def Dev.startsInBackfill (d : Dev) (a : Acc) : Bool :=
  match a.iss with
  | .q q =>
    let t := d.tileFirst q
    d.backfillOk t && F.TCP_BACKFILL_QUEUE.of (d.reg (A.TCP_BACKFILL t)) == q && !(bit a.pkt 23) && le a.pkt 0 2 == Op.matmul &&
      (d.cmd.runs.any fun r => !r.bf && d.isEngine r.iss && (d.needs r.iss).contains t)
  | _ => false

/-- Start the head of an ENGINE queue if it may start; a gated tile that it needs is woken first. -/
def startEngine (a : Acc) (q : Nat) : M Unit := do
  let d ← dev
  if d.tilesDown q ∨ ¬ d.canStart then pure ()
  else if d.tilesFree a then
    if d.gatedOf q = [] then startRun a false false
    else modCmd fun c => { c with waking := c.waking ++ (d.gatedOf q).filter fun t => !(c.waking.contains t) }
  else if d.startsInBackfill a then startRun a true false
  else pure ()

/-- Start the management command of an issuer if it is the one that takes the next free slot of the leading half (R71). The boot ROM and the
leading half take one mailbox command at a time (R518). -/
def startMgmt (a : Acc) : M Unit := do
  let d ← dev
  if a.iss == .mbox then on d.coreServes (startRun a false false)
  else if d.nextMgmt = some a ∧ d.mgmtRuns < 8 ∧ d.canStart ∧ d.coreServes then
    let next := rrPos a.iss + 1
    modCmd fun c => if d.mgmtPrio a.iss = 1 then { c with rrHi := next } else { c with rr := next }
    startRun a false false
  else pure ()

/-- COMMAND_START for an issuer: a command that still reads its parameter block goes on; otherwise the oldest accepted command starts, if it
may. -/
def commandStart (i : Iss) : M Unit := do
  let d ← dev
  match d.runOf i with
  | some r => if r.phase = blkPhase ∧ r.cpl.isNone then underKept r.kept (takeBlock r) else pure ()
  | none =>
    match d.head i with
    | none => pure ()
    | some a =>
      match i with
      | .q q =>
        if d.qstate q = Qs.draining then on (decide (0 < d.cqFree q)) (startRun a false true)
        else if !(d.headReady a) then pure ()
        else if d.isEngine i then startEngine a q
        else startMgmt a
      | _ => if d.headReady a then startMgmt a else pure ()

/-! ## Completion (R62, R63, R191, R518) -/

/-- A command of the unit-scope path has ended: its completion goes to the node that sent it (R41). -/
def answerUnit (r : Run) (c : Cpl) : M Unit := do
  let d ← dev
  dropRun r.seq
  match d.cmd.senders.find? fun x => x.1 == r.seq with
  | none => pure ()
  | some x =>
    modCmd fun c => { c with senders := c.senders.filter fun y => y.1 != r.seq }
    sendDrs { type := 0x61, len := 1, dst := x.2.1, src := d.node, tag := x.2.2, units := [lineOf (recordBytes r.tag r.seq d.now c)] }

/-- The mailbox's command has ended: its record stands in BOOT_MBOX_CPL and DONE reads 1 (R518). -/
def answerMbox (r : Run) (c : Cpl) : M Unit := do
  let d ← dev
  dropRun r.seq
  let b := recordBytes r.tag r.seq d.now c
  each (List.range 4) fun w => wr (A.BOOT_MBOX_CPL w) (BitVec.ofNat 64 (leAt b (8 * w) 8))
  fset A.BOOT_MBOX_STATUS F.BOOT_MBOX_STATUS_BUSY 0
  fset A.BOOT_MBOX_STATUS F.BOOT_MBOX_STATUS_DONE 1

/-- COMPLETION_WRITE for an issuer: its command's completion is decided and every write of it is ordered (R191). -/
def completionWrite (i : Iss) : M Unit := do
  let d ← dev
  match d.runOf i with
  | none => pure ()
  | some r =>
    match d.finalCpl r with
    | none => pure ()
    | some c =>
      if r.outs ≠ 0 then pure ()
      else
        match r.iss with
        | .q q =>
          underKept r.kept (writeRecord r q c)
          let d ← dev
          on ((d.runSeq r.seq).isNone) (do
            modCmd fun x => { x with fans := x.fans.filter fun f => f.seq != r.seq }
            afterCommit r c)
        | .unit => do
          modCmd fun x => { x with fans := x.fans.filter fun f => f.seq != r.seq }
          answerUnit r c
          afterCommit r c
        | .mbox => answerMbox r c
        | .fw => pure ()
        | .bg _ => pure ()

/-! ## Rows -/

def execCommandStart (r : Req) (s : State) : Host.Outcome State Fault Refusal := s.run (commandStart (issOf r))

def execCompletionWrite (r : Req) (s : State) : Host.Outcome State Fault Refusal := s.run (completionWrite (issOf r))

/-- TILE_WAKE_DONE: a tile that a command needs is awake (R70). -/
def tileWake (t : Nat) : M Unit := do
  let d ← dev
  if d.cmd.waking.contains t then
    modCmd fun c => { c with waking := c.waking.filter (· != t) }
    wr A.PWR_TILE_GATED (d.reg A.PWR_TILE_GATED &&& ~~~(BitVec.ofNat 64 (2 ^ t)))
  else pure ()

def execTileWakeDone (tile : Fin 64) (s : State) : Host.Outcome State Fault Refusal := s.run (tileWake tile.val)

end Sys2Proof.Machine
end

