-- ==== Sys2Proof/Machine/Reset.lean ====
section
/-! DEFINITION. Device reset, AON power-on reset, the reset of a half, a failed start and what each of them keeps (R49, R55, R119, R123,
R482, R505, R508, R509, R516, R548). -/

namespace Sys2Proof.Machine

/-! ## What a reset keeps -/

/-- Whether an address holds a lane repair of a stack (R123). -/
def isPcErase (a : Nat) : Bool :=
  decide (0xE0200 ≤ a) && decide (a < 0xF0000) && decide (a % 0x2000 < 0x400) && decide (0x200 ≤ a % 0x2000)

/-- Whether an address holds one of the fused values, which no reset changes. -/
def isFused (a : Nat) : Bool :=
  a == A.BOOT_FUSE || (decide (A.BOOT_KEY_HASH 0 ≤ a) && decide (a ≤ A.BOOT_KEY_HASH 5)) ||
    (decide (A.CLK_OP_VID 0 ≤ a) && decide (a ≤ A.CLK_OP_VID 3))

/-- Whether a device reset keeps a register (R123, R482, R505, R509, R569): the AON retention items, the fused values, the inputs' own
state, the I3C address and the lane repairs. -/
def keptByReset (a : Nat) : Bool :=
  (decide (0x40000 ≤ a) && decide (a < 0x50000)) || (decide (0x1000 ≤ a) && decide (a < 0x2000)) ||
    [A.TOP_FATAL_STICKY, A.TOP_RES_STATUS, A.BOOT_CFG, A.BOOT_START_CNT, A.BOOT_IMG_STATUS, A.BOOT_STATUS, A.GWY_SRC_BOOT,
      A.PWR_IN_STATUS, A.PWR_I3C_STATUS].contains a || isFused a || isPcErase a

/-- Registers back to their Reset values but for those that a predicate keeps. -/
def resetRegs (keep : Nat → Bool) : M Unit := do
  let d ← dev
  emit (.csrReset ((d.csr.map (·.1)).filter keep))

/-- ERASED and PIN are cleared; SPARED and SPARE_PIN stay, as the stacks keep them (R123). -/
def clearErased : M Unit := do
  let d ← dev
  each ((d.csr.map (·.1)).filter isPcErase) fun a => do
    fset a F.STK_PC_ERASE_ERASED 0
    fset a F.STK_PC_ERASE_PIN 0

/-- Every block outside the AON domain loses its state and the store its contents (R119, R128, R142, R182, R196, R232, R285, R315). -/
def clearBlocks : M Unit := do
  emit (.memClear 0 storeEnd)
  emit (.store {})
  emit (.home {})
  emit (.own {})
  emit (.stn {})
  emit (.trf {})
  emit (.fab {})
  emit (.links (List.replicate 16 {}))
  emit (.cmd {})
  emit (.staged {})
  emit (.dom {})
  emit (.eng {})

/-! ## Device reset -/

/-- Whether DEV_RESET_N and PWR_OK let the device start: high as taken, or masked and so treated as high (R549, R550). -/
def Dev.mayStart (d : Dev) : Bool :=
  let v := d.reg A.PWR_IN_STATUS
  bit v 1 && (bit v 0 || bit v 4)

/-- Step 3 of R510 begins: the fuses are read and VDD_CORE is set to 0.75 V over AVSBus. -/
def beginStart : M Unit := do
  let t ← now
  modBoot fun b => { b with phase := 1 }
  modPwr fun p => { p with avs := some ⟨0, 750, 0, false, t⟩ }

/-- A device reset of causes 2 to 6 (R508, R509): everything is reset but what R509 keeps. -/
def resetDevice (cause : Nat) : M Unit := do
  let d ← dev
  dropNonAon
  let img := d.reg A.BOOT_IMG_STATUS
  resetRegs keptByReset
  clearErased
  clearBlocks
  modRes fun r => { runLen := r.runLen }
  modPwr fun p => { ins := p.ins, thermtrip := p.thermtrip, i3cAddr := p.i3cAddr, i3cErr := p.i3cErr, i3cOut := p.i3cOut, jtagIr := p.jtagIr, jtagOut := p.jtagOut }
  modBoot fun b => { img := b.img, digest := b.digest, blown := b.blown, resetOnly := b.resetOnly && decide (cause = 3) }
  let s := d.reg A.BOOT_STATUS
  wr A.BOOT_STATUS (BitVec.ofNat 64 (F.BOOT_STATUS_FAILS.of s * 2 ^ 8 + F.BOOT_STATUS_LAST_REASON.of s * 2 ^ 12 + cause * 2 ^ 16))
  wr A.BOOT_IMG_STATUS (BitVec.ofNat 64 (F.BOOT_IMG_STATUS_LENGTH.of img * 2 ^ 32))
  fset A.PWR_IN_STATUS F.PWR_IN_STATUS_OVR 0
  fset A.PWR_I3C_STATUS F.PWR_I3C_STATUS_ERR 0
  fset A.GWY_SRC_BOOT F.GWY_SRC_BOOT_BOOT ((F.GWY_SRC_BOOT_BOOT.of (d.reg A.GWY_SRC_BOOT) + 1) % 256)

/-- A device reset, after which the start sequence begins unless an input holds the device (R510). -/
def deviceReset (cause : Nat) : M Unit := do
  resetDevice cause
  let d ← dev
  on d.mayStart beginStart

/-- A start has failed: the counter increments, holding at 15, and the boot ROM restarts the device with CAUSE 5 (R516). -/
def failStart (reason : Nat) : M Unit := do
  fadd A.BOOT_STATUS F.BOOT_STATUS_FAILS 1
  fset A.BOOT_STATUS F.BOOT_STATUS_LAST_REASON reason
  deviceReset 5

/-! ## AON power-on reset -/

/-- PWR_OK has been taken low: the AON domain returns to power-on reset, which clears everything that AON power-up clears (R509, R549). The
lane repairs that the stacks keep, the fuses and the true levels of the inputs stay. -/
def aonReset : M Unit := do
  resetRegs fun a => isFused a || isPcErase a
  clearErased
  clearBlocks
  emit (.evq {})
  emit (.nowSet 0)
  modRes fun _ => {}
  modPwr fun p => { ins := p.ins.map fun i => { high := i.high } }
  modBoot fun b => { blown := b.blown }

/-! ## The reset of a half (R49, R55, R84, R482) -/

/-- Whether a source of records lies in a half: a stack, a Talku port or a Dorrus port (R472). -/
def Held.inHalf (h : Held) (east : Bool) : Bool :=
  (h.row == 3 && (decide (4 ≤ h.srcInst) == east)) || (h.row == 9 && (decide (2 ≤ h.srcInst) == east)) ||
    (h.row == 11 && (decide (6 ≤ h.srcInst) == east))

/-- Tiles, and ports (0 to 3 Talku, 4 to 15 Dorrus), of a half. -/
def tileInHalf (t : Nat) (east : Bool) : Bool := decide (32 ≤ t) == east
def portInHalf (p : Nat) (east : Bool) : Bool := if p < 4 then decide (2 ≤ p) == east else decide (10 ≤ p) == east

/-- Whether an agent that translates lies in a half. -/
def agentInHalf (a : Nat) (east : Bool) : Bool :=
  match agentTile a with
  | some t => tileInHalf t east
  | none => decide (a < 656) && decide (8 ≤ a - 640) == east

/-- The blocks of a half are put in reset: its Dorrus links leave UP, so that their partners carry on what they held (R292, R293); its registers read zero and will leave reset with their Reset values, the records their sources
hold are discarded, what their tiles and links hold is lost. Lane repairs stay with the stacks, and the half's management core goes on
(assumption log 104). -/
def halfReset (east : Bool) : M Unit := do
  fset A.TOP_HALF_STATUS (if east then F.TOP_HALF_STATUS_E_RESET else F.TOP_HALF_STATUS_W_RESET) 1
  dropHeld fun h => h.inHalf east
  each ((List.range 12).filter fun n => portInHalf (n + 4) east) fun n => linkTo (n + 4) Ps.disabled
  resetRegs fun a => (regHalf a).getD (!east) != east || isPcErase a
  let d ← dev
  each ((d.csr.map (·.1)).filter fun a => isPcErase a && (regHalf a).getD (!east) == east) fun a => do
    fset a F.STK_PC_ERASE_ERASED 0
    fset a F.STK_PC_ERASE_PIN 0
  dropCopies fun x => tileInHalf x.tile east
  modStn fun s => { s with caches := s.caches.filter fun c => !(agentInHalf c.1 east) }
  modTrf fun t => { t with shaper := t.shaper.filter (fun e => !(portInHalf e.port east)), classq := t.classq.filter fun e => !(portInHalf e.port east) }
  each ((List.range 16).filter fun p => portInHalf p east) fun p => modLink p fun _ => {}
  each (List.range 6) trunkCheckDown
  ackIdle

/-- A half leaves reset: its registers hold their Reset values (R84). -/
def halfRelease (east : Bool) : M Unit :=
  fset A.TOP_HALF_STATUS (if east then F.TOP_HALF_STATUS_E_RESET else F.TOP_HALF_STATUS_W_RESET) 0

def execHalfReset (east : Bool) (s : State) : Host.Outcome State Fault Refusal := s.run (halfReset east)

def execHalfResetRelease (east : Bool) (s : State) : Host.Outcome State Fault Refusal := s.run (halfRelease east)

end Sys2Proof.Machine
end

