-- ==== Sys2Proof/Machine/Lead.lean ====
section
/-! DEFINITION. Which half of the die leads, and what ends when a half stops leading (R76, R138, R152, R491, R492). -/

namespace Sys2Proof.Machine

/-- Whether a command is one that an Easel half executes. -/
def Dev.isEaselRun (d : Dev) (r : Run) : Bool :=
  match r.iss with
  | .q _ => !(d.isEngine r.iss)
  | .unit => true
  | .mbox => true
  | .fw => false
  | .bg _ => false

/-- Every command in progress of the half that led completes ABORTED 0x19 unless its record is already being written; a sanitisation under
way ends, teardowns stop, an image being staged or written fails (R76, R138, R152, R521). -/
def endMgmt : M Unit := do
  let d ← dev
  each d.dom.jobs fun j => if j.taken then abortJob j Sc.aborted 0x19 else endJob j Sc.aborted 0x19
  let d ← dev
  each d.dom.teardowns fun t => stallTeardown t Sc.aborted 0x19
  let d ← dev
  on (d.cmd.runs.any fun r => r.op == Op.fwStage && r.cpl.isNone && decide (0 < r.phase) && decide (r.phase < awayPhase))
    (fset A.BOOT_IMG_STATUS F.BOOT_IMG_STATUS_STATE 3)
  modBoot fun b => { b with verify := if b.verify.any (fun v => v.seq.isSome) then none else b.verify, act := none, asks := [] }
  let ends (r : Run) : Bool := d.isEaselRun r && !(r.asked.contains cqKey)
  modCmd fun c => { c with
    fans := c.fans.filter fun f => !(c.runs.any fun r => r.seq == f.seq && ends r)
    runs := c.runs.map fun r => if ends r then { r with phase := 0, cpl := match r.cpl with
      | some e => if e.status = Sc.aborted ∧ e.detail = 0x19 then some e else some (fail Sc.aborted 0x19)
      | none => some (fail Sc.aborted 0x19) } else r }

/-- Whether the current token names a half and is unexpired. -/
def Dev.tokenNames (d : Dev) (east : Bool) : Bool :=
  d.fld A.TOP_TOKEN F.TOP_TOKEN_VALID == 1 && (d.fld A.TOP_TOKEN F.TOP_TOKEN_HALF == 1) == east

/-- LEADER by the first matching row of R491, and whether it is a fallback row. -/
def Dev.leaderRow (d : Dev) : Nat × Bool :=
  let h := d.reg A.TOP_HALF_STATUS
  let w := bit h 0
  let e := bit h 1
  if d.tokenNames false && w then (1, false)
  else if d.tokenNames true && e then (2, false)
  else if e then (2, true)
  else if w then (1, true)
  else (0, false)

/-- Decide LEADER, raise HALF_CONFLICT where R492 asks for it, and end the commands of a half that stops leading. -/
def decideLeader : M Unit := do
  let d ← dev
  let (new, fb) := d.leaderRow
  let h := d.reg A.TOP_HALF_STATUS
  let old := F.TOP_HALF_STATUS_LEADER.of h
  let oldRuns := decide (old ≠ 0) && bit h (old - 1)
  let quiet := d.power == 3 || d.sys.pwr.p3 != 0 || d.resState != 0
  wr A.TOP_HALF_STATUS (putBits (putBits (putBits h 4 2 new) 2 1 (b2n (d.tokenNames false))) 3 1 (b2n (d.tokenNames true)))
  if !fb && decide (new ≠ 0) && decide (old ≠ 0) && decide (new ≠ old) && oldRuns then raise Ev.halfConflict 0 (old - 1)
  else if fb && !d.sys.res.fallback && d.sys.res.had && !quiet then raise Ev.halfConflict 0 1
  else pure ()
  modRes fun r => { r with fallback := fb, had := r.had || d.fld A.TOP_TOKEN F.TOP_TOKEN_VALID == 1 }
  on (decide (old ≠ 0) && decide (new ≠ old)) endMgmt

/-- A half's core starts or stops running. -/
def setHalfUp (east up : Bool) : M Unit := do
  fset A.TOP_HALF_STATUS (if east then F.TOP_HALF_STATUS_E_UP else F.TOP_HALF_STATUS_W_UP) (b2n up)
  decideLeader

end Sys2Proof.Machine
end

