-- ==== Sys2Proof/Machine/MemOps.lean ====
section
/-! DEFINITION. COPY, FILL and OBSERVE (R202 to R213), with their CX6 forms. -/

namespace Sys2Proof.Machine

/-! ## CX6 rows (R80) -/

/-- Carry on a CX6-format command of a queue, which stands under the opcode it is executed as. -/
def onCx6 (op : Nat) (q : Nat) (body : Run → M Unit) : M Unit := do
  let d ← dev
  match d.runOf (.q q) with
  | some r => if r.goes op && r.isCx6 then body r else pure ()
  | none => pure ()

/-- Carry on a command in the CX9 layout. -/
def onNative (op : Nat) (q : Req) (body : Run → M Unit) : M Unit := onRun op q fun r => if r.isCx6 then pure () else body r

/-! ## COPY -/

/-- What a copy has done: destination tiles, poisoned source lines, and the DETAIL of the first of them. -/
structure Copied where
  tiles : Nat := 0
  bad : Nat := 0
  detail : Nat := 0
deriving Repr

/-- The source lines under a piece of the destination, with the number of each (R104, R164). -/
def sourceLines (d : Dev) (r : Run) (src len : Nat) : Rd (List (Nat × Rline)) := do
  let l ← (tilePieces src len).mapM fun p => do
    let ls ← readPiece d r p.1 p.2
    return (List.range ls.length).filterMap fun i => ls[i]?.map fun x => (p.1 / 64 + i, x)
  return l.flatten

/-- Write one tile's piece of the destination from its source lines; a destination line with a poisoned source byte is written poisoned
with cause 3 (R104). -/
def copyPiece (d : Dev) (r : Run) (src dst lo len : Nat) : Rd (List (Nat × Rline)) := do
  let s := src + (lo - dst)
  let ls ← sourceLines d r s len
  let bytes := (ls.flatMap fun x => lineBytes x.2.data).drop (s % 64)
  let bad (dl : Nat) : Bool :=
    let a := max lo (64 * dl)
    let b := min (lo + len) (64 * dl + 64)
    ls.any fun x => x.2.poison != 0 && decide (x.1 ≤ (s + (b - 1 - lo)) / 64) && decide ((s + (a - lo)) / 64 ≤ x.1)
  writePiece d r lo (bytes.take len) fun dl => if bad dl then 3 else 0
  return ls

/-- A tile of a COPY or FILL is written, with the poisoned source lines given under it (R211). -/
def countTile (bad : List Nat) : Rd Unit := modTrail fun t => { t with tiles := t.tiles + 1, bad := t.bad ++ bad }

/-- Numbers of the poisoned lines among some source lines. -/
def poisonedOf (l : List (Nat × Rline)) : List Nat := (l.filter fun x => x.2.poison != 0).map (·.1)

/-- Copy a range in the streams of a command (R209 to R211); what is written is counted there with `counts`. -/
def copyRange (d : Dev) (r : Run) (src dst len : Nat) (counts : Bool := false) : Rd Copied := do
  let ps := tilePieces dst len
  let l ← streams d r (fun p => src + (p.1 - dst)) (fun p => do
    let ls ← copyPiece d r src dst p.1 p.2
    if counts then countTile (poisonedOf ls)
    return ls) ps
  let bads := ((l.flatten.filter fun x => x.2.poison != 0).map fun x => (x.1, x.2.poison)).eraseDups
  return { tiles := ps.length, bad := bads.length, detail := (bads.head?.map (·.2)).getD 0 }

/-- Operands of COPY in either layout: source, destination, length (R209, R213). -/
def copyArgs (r : Run) : Nat × Nat × Nat := (r.par 0 8, r.par 8 8, if r.isCx6 then r.par 16 4 else r.par 16 8)

/-- Whether a range of a COPY or FILL is out of bounds (R210). -/
def rangeBad (va len : Nat) : Bool := len == 0 || decide (2 ^ 39 < len) || decide (2 ^ 48 < va + len)

/-- The work of COPY (R209 to R211). -/
def copyWork (d : Dev) (r : Run) : Rd Cpl := do
  let (src, dst, len) := copyArgs r
  if rangeBad src len || rangeBad dst len then failRd Sc.malformed 0x50 0
  else if src < dst + len ∧ dst < src + len then failRd Sc.malformed 0x51 0
  else
    let c ← copyRange d r src dst len true
    return { status := if c.bad = 0 then Sc.ok else Sc.poisoned, detail := c.detail, a := min c.tiles (2 ^ 32 - 1), b := min c.bad (2 ^ 32 - 1) }

/-! ## FILL -/

/-- Operands of FILL in either layout: destination, length, 8-byte pattern (R209, R213). -/
def fillArgs (r : Run) : Nat × Nat × Nat :=
  if r.isCx6 then (r.par 0 8, r.par 8 4, r.par 12 4 + r.par 12 4 * 2 ^ 32) else (r.par 0 8, r.par 8 8, r.par 16 8)

/-- Byte i of a destination at `dst` filled with a pattern (R209). -/
def fillByte (pat dst i : Nat) : Byte := BitVec.ofNat 8 (pat / 256 ^ ((dst + i) % 8))

/-- The work of FILL (R209 to R211). -/
def fillWork (d : Dev) (r : Run) : Rd Cpl := do
  let (dst, len, pat) := fillArgs r
  if rangeBad dst len then failRd Sc.malformed 0x50 0
  else
    let ps := tilePieces dst len
    let _ ← streams d r (·.1) (fun p => do
      writePiece d r p.1 ((List.range p.2).map fun i => fillByte pat dst (p.1 - dst + i)) fun _ => 0
      countTile []) ps
    return { a := min ps.length (2 ^ 32 - 1) }

/-! ## OBSERVE (R202 to R204) -/

/-- The ranges that OBSERVE names, as (VA, LENGTH). -/
def observeRanges (r : Run) : List (Nat × Nat) :=
  (List.range (r.par 0 2)).map fun i => (r.par (16 + 16 * i) 8, r.par (24 + 16 * i) 8)

/-- Whether COUNT and every range are valid (R202, R203). -/
def observeOk (r : Run) : Bool :=
  let n := r.par 0 2
  decide (1 ≤ n) && decide (n ≤ (if r.ptr = 0 then 2 else 64)) &&
    (observeRanges r).all fun x => x.1 % 2097152 == 0 && decide (x.1 < 2 ^ 48) && x.2 % 2097152 == 0 && x.2 != 0 && decide (x.1 + x.2 ≤ 2 ^ 48)

/-- The targets of every granule named, each translated (R203). -/
def observeTargets (d : Dev) (r : Run) : Rd (List (Nat × Nat)) := do
  if !(observeOk r) then failRd Sc.malformed 0x52 0
  else
    let gs := (observeRanges r).flatMap fun x => (List.range (x.2 / 2097152)).map fun i => x.1 + 2097152 * i
    gs.mapM fun g => do
      let t ← tr d r g .r
      return t.copyOf d

/-- Drop what OBSERVE names: retained copies of the command's domain, counted on their tiles; fetches under way start again (R204). -/
def dropObserved (r : Run) (l : List (Nat × Nat)) : M Unit := do
  let d ← dev
  let hit (x : Ret) : Bool := x.dom == r.dom && l.any fun g => g.1 == x.node && decide (g.2 ≤ x.line) && decide (x.line < g.2 + 32768)
  let gone := d.own.ret.filter hit
  dropCopies hit
  each (List.range 64) fun t => bump48 (A.STG_OBS_DROP_CNT t) (gone.filter fun x => x.tile == t).length
  let bgOf (x : Run) : Bool := (match x.iss with | .bg _ => true | _ => false) && x.dom == r.dom
  modCmd fun c => { c with runs := c.runs.filter fun x => !bgOf x }
  each (d.eng.wins.map (·.queue)) pumpWindow
  setCpl r { a := gone.length, b := r.par 0 2 }

/-- OBSERVE. -/
def observe (r : Run) : M Unit := runWork r observeTargets (dropObserved r)

/-! ## Rows -/

def execCopy (r : Req) (s : State) : Host.Outcome State Fault Refusal := s.run (onNative Op.copy r fun x => runCpl x copyWork)

def execFill (r : Req) (s : State) : Host.Outcome State Fault Refusal := s.run (onNative Op.fill r fun x => runCpl x fillWork)

def execObserve (r : Req) (s : State) : Host.Outcome State Fault Refusal := s.run (onRun Op.observe r observe)

def execCx6Nop (q : Fin 512) (s : State) : Host.Outcome State Fault Refusal := s.run (onCx6 Op.nop q.val fun x => setCpl x {})

def execCx6Copy (q : Fin 512) (s : State) : Host.Outcome State Fault Refusal :=
  s.run (onCx6 Op.copy q.val fun x => runCpl x copyWork)

def execCx6Fill (q : Fin 512) (s : State) : Host.Outcome State Fault Refusal :=
  s.run (onCx6 Op.fill q.val fun x => runCpl x fillWork)

end Sys2Proof.Machine
end

