-- ==== Sys2Proof/Machine/Curd.lean ====
section
/-! DEFINITION. Curd's gathers (R410 to R427, R435): tables, keys and windows, GATHER_POOL and PREFETCH_INDICES. -/

namespace Sys2Proof.Machine

/-! ## Engines (R410) -/

/-- Whether an opcode runs on a Curd engine. -/
def isCurd (op : Nat) : Bool := op == Op.gatherPool || op == Op.rowReplace || op == Op.rowMigrate || op == Op.prefetchIndices

/-- The Curd engine of a queue. -/
def Dev.crdOf (d : Dev) (q : Nat) : Nat := d.tileFirst q / 4

/-- The Curd engine of a command. -/
def Dev.crdRun (d : Dev) (r : Run) : Nat := match r.queue with | some q => d.crdOf q | none => 0

/-- Whether a command has its engine's turn: no earlier started command of the engine is still to end (R410). -/
def Dev.crdTurn (d : Dev) (r : Run) : Bool :=
  match d.cmd.runs.find? fun x => isCurd x.op && x.cpl.isNone && x.queue.isSome && d.crdRun x == d.crdRun r with
  | some x => x.seq == r.seq
  | none => false

/-- GRACE as it acts (R437). -/
def Dev.grace (d : Dev) : Nat := max 250 (d.fld A.CRD_CFG F.CRD_CFG_GRACE)

/-! ## Tables (R412 to R416) -/

/-- A PLAIN or SHARED table. -/
structure Tab where
  mode : Nat
  fmt : Nat
  mapped : Bool
  d : Nat
  rows : Nat
  phys : Nat
  rb : Nat
  va : Nat
  seed : Nat
deriving Repr

/-- A table as a command uses it: one table, or two subtables with PROD. -/
inductive Table where
  | one (t : Tab)
  | two (rows : Nat) (prod : Bool) (a b : Tab)
deriving Repr

def Table.d : Table → Nat
  | .one t => t.d
  | .two _ _ a _ => a.d

def Table.rows : Table → Nat
  | .one t => t.rows
  | .two n _ _ _ => n

/-- Row bytes of a format (R414). -/
def rowBytes (fmt d : Nat) : Nat := if fmt = 0 then 2 * d else if fmt = 1 then 4 + 2 * d else 4 + d

/-- Fields of a descriptor. -/
def tabOf (l : Line) : Tab :=
  { mode := le l 0 1, fmt := le l 1 1, mapped := bit l 16, d := le l 4 4, rows := le l 8 8, phys := le l 16 8, rb := le l 24 4,
    va := le l 32 8, seed := le l 40 8 }

/-- Whether a PLAIN or SHARED descriptor is valid (R412 to R414). -/
def simpleOk (l : Line) : Bool :=
  let t := tabOf l
  decide (t.mode ≤ 1) && decide (t.fmt ≤ 3) && decide (le l 2 1 ≤ 1) && le l 3 1 == 0 && le l 28 4 == 0 && le l 48 16 == 0
    && t.d % 4 == 0 && decide (4 ≤ t.d) && decide (t.d ≤ 4096) && decide (1 ≤ t.rows) && decide (t.rows ≤ 2 ^ 40)
    && (if t.mode = 1 then decide (1 ≤ t.phys) && decide (t.phys ≤ 2 ^ 32) else t.phys == 0 && t.seed == 0)
    && decide (rowBytes t.fmt t.d ≤ t.rb)
    && (if t.fmt = 0 ∧ ¬ t.mapped then t.rb % 2 == 0 else t.rb % 64 == 0)
    && (if t.fmt = 0 ∧ ¬ t.mapped then t.va % 2 == 0 else t.va % 64 == 0)

/-- Whether a COMPOSED descriptor's own fields are valid, the comparison with its subtables apart. -/
def composedOk (l : Line) : Bool :=
  let t := tabOf l
  t.mode == 2 && t.fmt == 0 && (le l 2 1 == 0 || le l 2 1 == 2) && le l 3 1 == 0 && le l 16 16 == 0 && le l 48 16 == 0
    && t.d % 4 == 0 && decide (4 ≤ t.d) && decide (t.d ≤ 4096) && decide (1 ≤ t.rows) && decide (t.rows ≤ 2 ^ 40)
    && t.va % 64 == 0 && t.seed % 64 == 0

/-- Read one descriptor line. -/
def readDescLine (d : Dev) (r : Run) (va : Nat) : Rd Line := do
  let l ← readBytes d r va 64
  return lineOf l

/-- A descriptor that fails R413. -/
def badDesc {α : Type} (va : Nat) : Rd α := failRd Sc.malformed 0xC1 va

/-- Read and check a table descriptor (R413). -/
def readTable (d : Dev) (r : Run) (va : Nat) : Rd Table := do
  let l ← readDescLine d r va
  let t := tabOf l
  if t.mode = 2 then
    if !(composedOk l) then badDesc va
    else
      let la ← readDescLine d r t.va
      if !(simpleOk la) || (tabOf la).mode != 0 || (tabOf la).d != t.d then badDesc t.va
      else
        let lb ← readDescLine d r t.seed
        if !(simpleOk lb) || (tabOf lb).mode != 0 || (tabOf lb).d != t.d then badDesc t.seed
        else if (tabOf la).rows * (tabOf lb).rows < t.rows then badDesc va
        else return .two t.rows (bit l 17) (tabOf la) (tabOf lb)
  else if simpleOk l then return .one t
  else badDesc va

/-- The physical row of an index of a SHARED table (R415). -/
def sharedRow (i seed phys : Nat) : Nat :=
  let m := 2 ^ 64
  let x := ((i ^^^ seed) * 0x9E3779B97F4A7C15) % m
  let x := x ^^^ (x >>> 29)
  let x := (x * 0xBF58476D1CE4E5B9) % m
  let x := x ^^^ (x >>> 32)
  (x * phys) >>> 64

/-- The physical rows of an index, each with its table (R415). -/
def physRows (t : Table) (i : Nat) : List (Tab × Nat) :=
  match t with
  | .one t => [(t, if t.mode = 1 then sharedRow i t.seed t.phys else i)]
  | .two _ _ a b => [(a, i % a.rows), (b, i / a.rows % b.rows)]

/-- Fields of a map entry (R416). -/
def meValid (m : Nat) : Bool := tb m 0
def meSel (m : Nat) : Nat := b2n (tb m 1)
def meBase (m : Nat) : Nat := (m >>> 6) % 2 ^ 42 * 64
def meVer (m : Nat) : Nat := (m >>> 48) % 2 ^ 16

/-- Address of the slot of a pair that an entry selects. -/
def meSlot (m rb : Nat) : Nat := meBase m + meSel m * rb

/-- Value of element e of a row (R414). -/
def rowElem (fmt : Nat) (row : List Byte) (e : Nat) : FV :=
  if fmt = 0 then fmtFp16.dec (leAt row (2 * e) 2)
  else
    let s := fp32Val (leAt row 0 4)
    let v := if fmt = 1 then fmtBf16.dec (leAt row (4 + 2 * e) 2)
             else if fmt = 2 then fmtE4m3.dec (leAt row (4 + e) 1) else fmtE5m2.dec (leAt row (4 + e) 1)
    v.mul s

/-! ## Parameters (R417, R435) -/

/-- What a gather reads and writes: `bag` is the CX6 form's fixed bag size. -/
structure Gp where
  table : Option Nat
  idx : Nat
  off : Nat
  bag : Nat
  nidx : Nat
  nbags : Nat
  out : Nat
  ld : Nat
  mean : Bool
  idx64 : Bool
  ofmt : Nat
  cxRow : Nat
  cxD : Nat
deriving Repr

def gpOf (r : Run) : Gp :=
  if r.isCx6 then
    let bag := r.par 22 2
    { table := none, idx := r.par 8 8, off := 0, bag := bag, nidx := r.par 16 4, nbags := r.par 16 4 / max 1 bag, out := r.par 24 8,
      ld := 2 * r.par 20 2, mean := tb (r.par 32 1) 0, idx64 := false, ofmt := 1, cxRow := r.par 0 8, cxD := r.par 20 2 }
  else
    { table := some (r.par 0 8), idx := r.par 8 8, off := r.par 16 8, bag := 0, nidx := r.par 24 4, nbags := r.par 28 4, out := r.par 32 8,
      ld := r.par 40 4, mean := r.par 44 1 == 1, idx64 := r.par 45 1 == 1, ofmt := r.par 46 1, cxRow := 0, cxD := 0 }

/-- The part of the check of R417 that PREFETCH_INDICES makes too (R426), and the whole check of R435 for the CX6 form. -/
def gpReadOk (r : Run) : Bool :=
  let p := gpOf r
  if r.isCx6 then
    p.cxRow % 2 == 0 && p.idx % 4 == 0 && decide (1 ≤ p.nidx) && decide (p.nidx ≤ 2 ^ 24) && p.cxD % 4 == 0 && decide (4 ≤ p.cxD)
      && decide (p.cxD ≤ 4096) && decide (1 ≤ p.bag) && p.nidx % max 1 p.bag == 0 && decide (p.nbags ≤ 65536) && p.out % 2 == 0
  else
    r.par 0 8 % 64 == 0 && p.idx % (if p.idx64 then 8 else 4) == 0 && p.off % 4 == 0 && decide (1 ≤ p.nidx) && decide (p.nidx ≤ 2 ^ 24)
      && decide (1 ≤ p.nbags) && decide (p.nbags ≤ 65536) && decide (r.par 45 1 ≤ 1)

/-- The rest of the check of R417, as far as it does not need the table. -/
def gpWriteOk (r : Run) : Bool :=
  let p := gpOf r
  r.isCx6 || (p.out % 64 == 0 && p.ld % 64 == 0 && decide (r.par 44 1 ≤ 1) && (p.ofmt == 12 || p.ofmt == 0 || p.ofmt == 1))

/-- Bytes of an output element of a gather. -/
def gpOutBytes (p : Gp) : Nat := if p.ofmt = 12 then 4 else 2

/-- The table of a gather. -/
def gpTable (d : Dev) (r : Run) : Rd Table :=
  let p := gpOf r
  match p.table with
  | some va => readTable d r va
  | none => return .one ⟨0, 0, false, p.cxD, 2 ^ 32 - 1, 0, 2 * p.cxD, p.cxRow, 0⟩

/-! ## Keys and windows (R423, R424) -/

/-- What a gather has in hand: the keys of the window with their bytes and the tick at which they were read (and for a map line whether it
came from a copy), the number of the window, and what its completion reports. -/
structure Cw where
  keys : List (Nat × List Byte × Nat × Bool) := []
  win : Nat := 1
  segs : Nat := 0
  pooled : Nat := 0
  drops : Nat := 0
deriving Repr

/-- The key of a row: the global address of its first byte. -/
def rowKey (d : Dev) (r : Run) (va : Nat) : Rd Nat := do
  let t ← tr d r va .r
  return d.gaOf t + va % 64

/-- Row segments have been read from the store or from remote devices (R422). -/
def segsRead (d : Dev) (r : Run) (n : Nat) : Rd Unit := if n = 0 then pure () else countRd (A.CRD_ROW_FETCH_CNT (d.crdRun r)) 48 n

/-- Mapped rows have been fetched again (R424). -/
def refetched (d : Dev) (r : Run) (n : Nat) : Rd Unit := if n = 0 then pure () else countRd (A.CRD_REFETCH_CNT (d.crdRun r)) 32 n

/-- A key of the table is fanned out. -/
def fanOut (d : Dev) (r : Run) : Rd Unit := countRd (A.CRD_COAL_HIT_CNT (d.crdRun r)) 48 1

/-- A window is opened. -/
def openCw (d : Dev) (r : Run) : Rd Unit := countRd (A.CRD_WINDOW_CNT (d.crdRun r)) 32 1

/-- Add a key to the table of a window; a full table closes the window first. -/
def Cw.add (d : Dev) (r : Run) (w : Cw) (k : Nat) (l : List Byte) (tick : Nat) (copied : Bool) : Rd Cw :=
  if w.keys.length < 4096 then return { w with keys := (k, l, tick, copied) :: w.keys }
  else do
    openCw d r
    return { w with keys := [(k, l, tick, copied)], win := w.win + 1 }

/-- The window in which a new key would be fetched. -/
def Cw.nextWin (w : Cw) : Nat := if w.keys.length < 4096 then w.win else w.win + 1

def Cw.find (w : Cw) (k : Nat) : Option (List Byte × Nat × Bool) := (w.keys.find? fun x => x.1 == k).map (·.2)

/-- Row segments that a row has: one in each 4 KiB tile. -/
def rowSegs (va len : Nat) : Nat := (tilePieces va len).length

/-- The retained prefetch copies of the lines of a range, where every one of them is held under `layer`. -/
def copiedBytes (d : Dev) (r : Run) (va len layer : Nat) : Rd (Option (List Rline)) := do
  let l ← (linePieces va len).mapM fun p => do
    let t ← tr d r p.1 .r
    return match d.retained r t with
      | some x => if x.kind = 1 ∧ x.layer = layer then some (⟨x.data, x.poison, d.gaOf t⟩ : Rline) else none
      | none => none
  return if l.all (·.isSome) then some (l.filterMap id) else none

/-- Key under which a map line read stays as it is: window, occurrence (0 for the window's own read), try, line. -/
def mapPin (win occ try_ key : Nat) : Nat := 4 * (2 ^ 210 + ((win * 2 ^ 25 + occ) * 16 + try_) * 2 ^ 64 + key)

/-- A map line read at home, or from a copy unless fresh, kept as it is with the tick at which its read was issued (R424). -/
def readMapLine (d : Dev) (r : Run) (va key win occ try_ : Nat) (fresh : Bool) : Rd (List Byte × Nat × Bool) := do
  let pk := mapPin win occ try_ key
  match ← findGot r pk with
  | some g => return ((g.data.map lineBytes).flatten, g.tick, g.poison == 1)
  | none =>
    let copy ← if fresh then pure none else copiedBytes d r va 64 1
    let pass := (win * 2 ^ 25 + occ) * 16 + try_
    let ls ← match copy with
      | some l => pure l
      | none => readLines d r va 1 pass true
    consume ls
    let t ← tr d r va .r
    let asked := match t with
      | .win node w off _ => (r.find (askedAtKey (readKey pass node w (off / 64) 1))).map fun (g : Got) => g.tick
      | .loc .. => none
    let copyTick := match copy with
      | some _ => (d.retained r t).map fun (g : Ret) => g.tick
      | none => none
    let tick := (copyTick.getD (asked.getD d.now))
    pin { key := pk, data := ls.map (·.data), tick := tick, poison := b2n copy.isSome }
    return ((ls.map fun x => lineBytes x.data).flatten, tick, copy.isSome)

/-- The map line of a physical row, coalesced in the window. -/
def windowMap (d : Dev) (r : Run) (w : Cw) (va : Nat) : Rd (Cw × List Byte × Nat × Bool) := do
  let key ← rowKey d r va
  match w.find key with
  | some x => do
    fanOut d r
    return (w, x)
  | none =>
    let x ← readMapLine d r va key w.nextWin 0 0 false
    segsRead d r (b2n (!x.2.2))
    let w ← w.add d r key x.1 x.2.1 x.2.2
    return ({ w with segs := w.segs + b2n (!x.2.2) }, x)

/-- One row's bytes read at home in one pass, consumed (R104). -/
def homeRow (d : Dev) (r : Run) (va len pass : Nat) (fresh : Bool) : Rd (List Byte) := readBytes d r va len pass fresh

/-- How the tries for a mapped row end. -/
inductive Fetched where
  | row (l : List Byte) (segs refetch : Nat)
  | missing (segs : Nat)
  | unstable (segs : Nat)
deriving Repr

/-- The tries of R424: `n` are left; m is the entry in hand, read at t0. -/
def fetchTries (d : Dev) (r : Run) (t : Tab) (mapVa mapKey off win occ : Nat) : Nat → Nat → Nat → Nat → Rd Fetched
  | 0, _, _, segs => return .unstable segs
  | n + 1, m, t0, segs => do
    if !(meValid m) then return .missing segs
    else
      let try_ := 8 - (n + 1)
      let len := rowBytes t.fmt t.d
      let va := meSlot m t.rb
      let row ← homeRow d r va len ((win * 2 ^ 25 + occ) * 16 + try_) true
      segsRead d r (rowSegs va len)
      let segs := segs + rowSegs va len
      if d.now - t0 ≤ d.grace / 2 then return .row row segs try_
      else
        let (l2, t2, _) ← readMapLine d r mapVa mapKey win occ (try_ + 1) true
        segsRead d r 1
        let m2 := leAt l2 off 8
        if m2 = m then return .row row (segs + 1) try_
        else if n = 0 then return .unstable (segs + 1)
        else do
          refetched d r 1
          fetchTries d r t mapVa mapKey off win occ n m2 t2 (segs + 1)

/-- Key under which a fetched mapped row stays as it is. -/
def rowPin (win key : Nat) : Nat := 4 * (2 ^ 220 + win * 2 ^ 100 + key)

/-- The bytes of one physical row for an occurrence, or the reason why it is dropped (R420, R423, R424). -/
def rowFor (d : Dev) (r : Run) (w : Cw) (t : Tab) (p occ : Nat) : Rd (Cw × Sum Nat (List Byte)) := do
  let len := rowBytes t.fmt t.d
  if !t.mapped then
    let va := t.va + p * t.rb
    let key ← rowKey d r va
    match w.find key with
    | some x => do
      fanOut d r
      return (w, .inr x.1)
    | none =>
      let l ← homeRow d r va len (w.nextWin * 2 ^ 29) false
      let fromHome ← (tilePieces va len).filterM fun x => do
        let c ← (linePieces x.1 x.2).mapM fun y => do return d.retained r (← tr d r y.1 .r)
        return c.any (·.isNone)
      segsRead d r fromHome.length
      let w ← w.add d r key l 0 false
      return ({ w with segs := w.segs + fromHome.length }, .inr l)
  else
    let eva := t.va + 8 * p
    let mva := 64 * (eva / 64)
    let (w, ml, t0, copied) ← windowMap d r w mva
    let m := leAt ml (eva % 64) 8
    if !(meValid m) then return (w, .inl 3)
    else
      let va := meSlot m t.rb
      let key ← rowKey d r va
      match w.find key with
      | some x => do
        fanOut d r
        return (w, .inr x.1)
      | none =>
        let held ← if copied then copiedBytes d r va len (2 + m) else pure none
        match held with
        | some ls =>
          consume ls
          let l := ((ls.flatMap fun x => lineBytes x.data).drop (va % 64)).take len
          return (← w.add d r key l 0 true, .inr l)
        | none =>
          let win := w.nextWin
          match ← findGot r (rowPin win key) with
          | some g =>
            segsRead d r g.detail
            refetched d r g.status
            let w ← w.add d r key ((g.data.flatMap lineBytes).take len) 0 false
            return ({ w with segs := w.segs + g.detail }, .inr ((g.data.flatMap lineBytes).take len))
          | none =>
            let mkey ← rowKey d r mva
            let f ← fetchTries d r t mva mkey (eva % 64) win (occ + 1) 8 m t0 0
            match f with
            | .missing s => return ({ w with segs := w.segs + s }, .inl 3)
            | .unstable s => return ({ w with segs := w.segs + s }, .inl 4)
            | .row l s n =>
              pin { key := rowPin win key, status := n, detail := s, data := linesOf ((len + 63) / 64) l }
              let w ← w.add d r key l 0 false
              return ({ w with segs := w.segs + s }, .inr l)

/-- The element values of an occurrence, or the reason why it is dropped (R415, R420). -/
def occurrence (d : Dev) (r : Run) (t : Table) (p : Gp) (w : Cw) (i occ : Nat) : Rd (Cw × Sum Nat (List FV)) := do
  if i = 2 ^ (if p.idx64 then 64 else 32) - 1 then return (w, .inl 1)
  else if t.rows ≤ i then return (w, .inl 2)
  else match t with
    | .one tab =>
      let pr := (physRows t i).headD (tab, 0)
      let (w, res) ← rowFor d r w pr.1 pr.2 (2 * occ)
      match res with
      | .inl k => return (w, .inl k)
      | .inr l => return (w, .inr ((List.range tab.d).map (rowElem tab.fmt l)))
    | .two _ prod a b =>
      let (w, ra) ← rowFor d r w a (i % a.rows) (2 * occ)
      match ra with
      | .inl k => return (w, .inl k)
      | .inr la =>
        let (w, rb) ← rowFor d r w b (i / a.rows % b.rows) (2 * occ + 1)
        match rb with
        | .inl k => return (w, .inl k)
        | .inr lb => return (w, .inr ((List.range a.d).map fun e =>
            if prod then (rowElem a.fmt la e).mul (rowElem b.fmt lb e) else (rowElem a.fmt la e).add (rowElem b.fmt lb e)))

/-! ## Pooling (R421, R422) -/

/-- A value divided by a positive number, exact but for a sticky bit far below any output format. -/
def FV.divNat (x : FV) (n : Nat) : FV :=
  match x with
  | .fin s v =>
    let q := v.m.natAbs * 2 ^ 200 / n
    let sticky := if v.m.natAbs * 2 ^ 200 % n = 0 then 0 else 1
    let mag : Int := (2 * q + sticky : Nat)
    .fin s ⟨if s then -mag else mag, v.e - 201⟩
  | y => y

/-- Output code of an accumulator (R421). -/
def poolOut (p : Gp) (acc n : Nat) : Nat :=
  let v := fp32Val acc
  let v := if p.mean ∧ 0 < n then v.divNat n else v
  (((fmtOf' p.ofmt).out false v)).code
where
  /-- The output formats of R417. -/
  fmtOf' (c : Nat) : Fmt := if c = 12 then fmtFp32 else if c = 0 then fmtBf16 else fmtFp16

/-- Bounds of a bag in the index list (R419, R435). -/
def bagBounds (d : Dev) (r : Run) (p : Gp) (b : Nat) : Rd (Nat × Nat) := do
  if p.table.isNone then return (b * p.bag, (b + 1) * p.bag)
  else
    let l ← readBytes d r (p.off + 4 * b) 8
    let o := (leAt l 0 4, leAt l 4 4)
    if o.2 < o.1 ∨ p.nidx < o.2 then failRd Sc.malformed 0xC2 b else return o

/-- The indices of a bag, read and consumed. -/
def bagIndices (d : Dev) (r : Run) (p : Gp) (o : Nat × Nat) : Rd (List Nat) := do
  let w := if p.idx64 then 8 else 4
  let l ← readBytes d r (p.idx + w * o.1) (w * (o.2 - o.1))
  return (List.range (o.2 - o.1)).map fun i => leAt l (w * i) w

/-- A pooled row stands in the staging SRAM of one of the four tiles of its engine until the command ends (R19, R194); which one is free. -/
def stageRow (d : Dev) (r : Run) (row : List Byte) : Rd Unit := do
  let k ← drawRd d 4
  modTrail fun t => { t with pooled := t.pooled ++ [(4 * d.crdRun r + k, row)] }

/-- Pool one bag: its output row and its counts. -/
def poolBag (d : Dev) (r : Run) (t : Table) (p : Gp) (w : Cw) (b : Nat) : Rd Cw := do
  let o ← bagBounds d r p b
  let is ← bagIndices d r p o
  let start : Cw × List Nat × Nat × Nat := (w, List.replicate t.d 0, 0, 0)
  let (w, acc, n, _) ← is.foldlM (fun (x : Cw × List Nat × Nat × Nat) i => do
    let (w, acc, n, k) := x
    let (w, res) ← occurrence d r t p w i (o.1 + k)
    match res with
    | .inl reason => do
      countRd (A.CRD_DROP_CNT (d.crdRun r) reason) 32 1
      return ({ w with drops := w.drops + 1 }, acc, n, k + 1)
    | .inr vs => return ({ w with pooled := w.pooled + 1 }, (acc.zip vs).map (fun y => fp32Of ((fp32Val y.1).add y.2)), n + 1, k + 1)) start
  let ob := gpOutBytes p
  let row := acc.flatMap fun a => toLe ob (poolOut p a n)
  stageRow d r row
  writeBytes d r (p.out + b * p.ld) row
  if n = 0 then countRd (A.CRD_EMPTY_CNT (d.crdRun r)) 32 1 else pure ()
  return w

/-- The work of a GATHER_POOL: what it did until it ended or failed. -/
def gatherWork (d : Dev) (r : Run) : Rd Cpl := do
  let p := gpOf r
  if !(gpReadOk r && gpWriteOk r) then failRd Sc.malformed 0xC0 0
  else
    let t ← gpTable d r
    if p.ld < t.d * gpOutBytes p then failRd Sc.malformed 0xC0 0
    else
      openCw d r
      let w ← (List.range p.nbags).foldlM (poolBag d r t p) {}
      return { detail := if w.drops = 0 then 0 else 0xC0, a := w.pooled, b := w.drops, result := w.segs % 2 ^ 32 + w.win % 2 ^ 32 * 2 ^ 32 }

/-! ## Prefetch sets (R426, R427) -/

/-- The set of a queue that a GATHER_POOL consumes: it names the same table and index list, and no earlier one has taken it. -/
def takeSet (r : Run) : M Unit := do
  let d ← dev
  match r.queue with
  | none => pure ()
  | some q =>
    let f (s : PfSet) : PfSet :=
      if s.queue = q ∧ s.consumer = none ∧ s.tableVa = r.par 0 8 ∧ s.indexVa = r.par 8 8 then { s with consumer := some r.seq } else s
    if d.eng.pf.any fun s => s.queue == q && s.consumer.isNone then modEng fun e => { e with pf := e.pf.map f } else pure ()

/-- Drop the prefetch set and copies of a queue. -/
def dropSet (q : Nat) : M Unit := do
  modEng fun e => { e with pf := e.pf.filter fun s => s.queue != q }
  modOwn fun o => { o with ret := o.ret.filter fun x => !(x.queue == q && x.kind == 1) }
  modCmd fun c => { c with runs := c.runs.filter fun x => !(x.iss == .bg q && x.aux.getD 0 0 == 1) }

/-- When the consuming GATHER_POOL has its completion, its set is dropped (R427). -/
def endSet (r : Run) : M Unit := do
  let d ← dev
  match r.queue, d.runSeq r.seq with
  | some q, some x => on (x.cpl.isSome && d.eng.pf.any fun s => s.queue == q && s.consumer == some r.seq) (dropSet q)
  | _, _ => pure ()

/-- GATHER_POOL in either layout (R417 to R424, R435). -/
def gatherPool (r : Run) : M Unit := do
  let d ← dev
  if d.crdTurn r then
    on (!r.isCx6) (takeSet r)
    runCpl r gatherWork
    endSet r
  else pure ()

/-- What PREFETCH_INDICES collects: keys with the bytes to fetch, and drops by PAD or RANGE. -/
structure Pk where
  keys : List (Nat × PfItem) := []
  drops : Nat := 0
deriving Repr

/-- Add a key of a prefetch, unless it is there or 4,096 are. -/
def Pk.add (k : Pk) (key : Nat) (i : PfItem) : Pk :=
  if k.keys.length < 4096 ∧ ¬ k.keys.any (fun x => x.1 == key) then { k with keys := k.keys ++ [(key, i)] } else k

/-- The keys of one physical row. -/
def pfRow (d : Dev) (r : Run) (k : Pk) (t : Tab) (p : Nat) : Rd Pk := do
  let len := rowBytes t.fmt t.d
  if !t.mapped then
    let va := t.va + p * t.rb
    let key ← rowKey d r va
    return k.add key ⟨va, len, none⟩
  else
    let eva := t.va + 8 * p
    let mva := 64 * (eva / 64)
    let mkey ← rowKey d r mva
    let k := k.add mkey ⟨mva, 64, none⟩
    if k.keys.length < 4096 then
      let (ml, t0, _) ← readMapLine d r mva mkey 1 0 0 true
      let m := leAt ml (eva % 64) 8
      if !(meValid m) then return k
      else
        let va := meSlot m t.rb
        let key ← rowKey d r va
        return k.add key ⟨va, len, some (eva, m, t0)⟩
    else return k

/-- The keys of one index. -/
def pfIndex (d : Dev) (r : Run) (t : Table) (p : Gp) (k : Pk) (i : Nat) : Rd Pk := do
  if i = 2 ^ (if p.idx64 then 64 else 32) - 1 ∨ t.rows ≤ i then return { k with drops := k.drops + 1 }
  else (physRows t i).foldlM (fun k x => pfRow d r k x.1 x.2) k

/-- The work of PREFETCH_INDICES. -/
def prefetchWork (d : Dev) (r : Run) : Rd Pk := do
  let p := gpOf r
  if !(gpReadOk r) then failRd Sc.malformed 0xC0 0
  else
    let t ← gpTable d r
    (List.range p.nbags).foldlM (fun k b => do
      let o ← bagBounds d r p b
      let is ← bagIndices d r p o
      is.foldlM (pfIndex d r t p) k) {}

/-- Tiles of a queue's set that its engine serves. -/
def Dev.pfTiles (d : Dev) (q : Nat) : List Nat := (d.tiles q).filter fun t => t / 4 == d.crdOf q

/-- Ask for the next fetch of a prefetch set. -/
def pfRead (i : PfItem) (d : Dev) (r : Run) : Rd (Bool × List (Tgt × List Rline)) := do
  let tiles := (tilePieces i.va i.len).map fun p => 4096 * (p.1 / 4096)
  let l ← tiles.mapM fun va => tileRead va d r
  match i.entry with
  | none => return (true, l)
  | some (eva, m, t0) =>
    if d.now - t0 ≤ d.grace / 2 then return (true, l)
    else
      let mva := 64 * (eva / 64)
      let key ← rowKey d r mva
      let (ml, _, _) ← readMapLine d r mva key 1 1 1 true
      return (leAt ml (eva % 64) 8 == m, l)

/-- Hold what a prefetch fetch brought: the lines of the key itself under its mark, the other lines of its tiles where no copy is held. -/
def holdItem (q tile : Nat) (i : PfItem) (r : Run) (l : List (Tgt × List Rline)) : M Unit := do
  let d ← dev
  if d.roomFor q tile (4096 * l.length) then
    let mark := match i.entry with | some (_, m, _) => 2 + m | none => 1
    let first := 4096 * (i.va / 4096)
    let all := (List.range l.length).flatMap fun k => match l[k]? with
      | some (t, ls) => (copiesOf d tile q 1 0 0 r t ls).zip ((List.range 64).map fun j => first / 64 + 64 * k + j)
      | none => []
    let own := all.filter fun x => decide (i.va / 64 ≤ x.2) && decide (x.2 ≤ (i.va + i.len - 1) / 64)
    let ownRet := own.map fun x => { x.1 with layer := mark }
    let same (a b : Ret) : Bool := a.node == b.node && a.line == b.line
    let rest := (all.map (·.1)).filter fun x => !(ownRet.any (same x)) && !(d.own.ret.any fun y => y.queue == q && same x y)
    modOwn fun o => { o with ret := o.ret.filter (fun y => !(y.queue == q && y.kind == 1 && ownRet.any (same y))) ++ ownRet ++ rest }
  else bump (A.STG_NORSV_CNT tile)

/-- The next background fetch of a queue's prefetch set, into a tile. With `take` its lines are taken if they are there (R426). -/
def pfTile (take : Bool) (q tile : Nat) : M Unit := do
  let d ← dev
  match d.eng.pf.find? (·.queue == q) with
  | none => pure ()
  | some s =>
    match s.items with
    | [] => pure ()
    | i :: rest =>
      let r ← bgRun q s.dom s.ctx [1, i.va, i.len]
      let d ← dev
      let (res, t) := (pfRead i d r).run.run {}
      let finish : M Unit := do
        let f (x : PfSet) : PfSet := if x.queue = q then { x with items := rest } else x
        modEng fun e => { e with pf := e.pf.map f }
        dropRun r.seq
      match res with
      | .ok (good, l) =>
        on take (do
          accountTrail r t
          bump (A.CRD_PF_ROW_CNT (d.crdOf q))
          on good (holdItem q tile i r l)
          finish)
      | .error (.fail _) => on take (do accountTrail r t; finish)
      | .error st => do
        modRun r.seq fun x => { x with got := x.got ++ t.pins }
        askStop r st

/-- PREFETCH_INDICES (R426, R427). -/
def prefetchIndices (r : Run) : M Unit := do
  let d ← dev
  match r.queue with
  | none => pure ()
  | some q =>
    if d.crdTurn r then
      runWork r prefetchWork fun k => do
        dropSet q
        modEng fun e => { e with pf := e.pf ++ [⟨q, r.dom, r.ctx, r.par 0 8, r.par 8 8, k.keys.map (·.2), none⟩] }
        setCpl r { a := k.keys.length, b := k.drops }
        pfTile false q ((d.pfTiles q).headD 0)
    else pure ()

/-! ## Fills (R392, R402, R426) -/

/-- The fill that a tile ends next: of a stream window in the order the windows were opened, otherwise of a prefetch set whose engine
serves the tile. -/
def stagingFillDone (tile : Nat) : M Unit := do
  let d ← dev
  if 2 ≤ d.power then pure ()
  else match d.eng.wins.find? fun w => (w.nextAt tile).isSome with
    | some w => do
      fetchTile true w.queue tile
      pumpWindow w.queue
      settleAdvance w.queue
    | none => match d.eng.pf.find? fun s => s.items ≠ [] && (d.pfTiles s.queue).contains tile with
      | some s => do
        pfTile true s.queue tile
        pfTile false s.queue tile
      | none => pure ()

/-! ## Rows -/

def execGatherPool (r : Req) (s : State) : Host.Outcome State Fault Refusal := s.run (onNative Op.gatherPool r gatherPool)

def execCx6GatherPool (q : Fin 512) (s : State) : Host.Outcome State Fault Refusal := s.run (onCx6 Op.gatherPool q.val gatherPool)

def execPrefetchIndices (r : Req) (s : State) : Host.Outcome State Fault Refusal := s.run (onRun Op.prefetchIndices r prefetchIndices)

def execStagingFillDone (tile : Fin 64) (s : State) : Host.Outcome State Fault Refusal := s.run (stagingFillDone tile.val)

end Sys2Proof.Machine
end

