-- ==== Sys2Proof/Machine/Replace.lean ====
section
/-! DEFINITION. The replace unit: ROW_REPLACE and ROW_MIGRATE (R428 to R434). -/

namespace Sys2Proof.Machine

/-! ## Entries of the replace unit (R431) -/

/-- A map entry with a new slot or pair: SEL and BASE as given, VER moved on (R416). -/
def meNew (m base sel : Nat) : Nat := 1 + sel * 2 + base / 64 % 2 ^ 42 * 64 + (meVer m + 1) % 65536 * 2 ^ 48

def Dev.rplOf (d : Dev) (key : Nat) : Option Rpl := d.eng.rpl.find? (·.key == key)

/-- Change an entry. -/
def modRpl (key : Nat) (f : Rpl → Rpl) : M Unit :=
  modEng fun e => { e with rpl := e.rpl.map fun x => if x.key == key then f x else x }

/-- Whether a row's grace since its last switch has passed. -/
def Dev.graceOver (d : Dev) (e : Rpl) : Bool :=
  match e.last with
  | some t => decide (t + d.grace ≤ d.now)
  | none => true

/-- Whether a command migrates a row. -/
def Dev.migrating (d : Dev) (key : Nat) : Bool :=
  d.cmd.runs.any fun r => r.goes Op.rowMigrate && r.phase != 0 && r.aux.getD 0 0 == key

/-- Whether an entry is still kept (R431). -/
def Dev.rplKept (d : Dev) (e : Rpl) : Bool := e.waiting ≠ [] || e.cur.isSome || e.migr.isSome || d.migrating e.key || !(d.graceOver e)

/-- The entries in use. -/
def Dev.rplLive (d : Dev) : List Rpl := d.eng.rpl.filter d.rplKept

/-- Drop the entries no longer kept. -/
def pruneRpl : M Unit := do
  let d ← dev
  if d.rplLive.length ≠ d.eng.rpl.length then modEng fun e => { e with rpl := d.rplLive } else pure ()

/-- An entry for a row. -/
def openRpl (key mapVa : Nat) : M Unit := do
  let d ← dev
  match d.rplOf key with
  | some _ => modRpl key fun x => { x with mapVa := mapVa }
  | none => modEng fun e => { e with rpl := e.rpl ++ [⟨key, mapVa, [], none, none, false, 0, none⟩] }

/-! ## Checks (R429, R432) -/

/-- The map entry's place and value: local offset of the entry, and the entry; its line must be local (R429, orders 5 and 6). -/
def localEntry (d : Dev) (r : Run) (eva : Nat) : Rd (Nat × Nat) := do
  let t ← tr d r eva .r
  match t with
  | .win .. => failRd Sc.rights 0xC0 0
  | .loc off _ =>
    let _ ← tr d r eva .w
    let l ← readBytes d r eva 8 0 true
    let m := leBytes l
    if meValid m then return (off, m) else failRd Sc.malformed 0xC4 0

/-- The table of a row change (R429, orders 1 to 3; `mappedOnly` for a migration). -/
def rowTable (d : Dev) (r : Run) (fieldsOk mappedOnly : Bool) : Rd Tab := do
  if !fieldsOk then failRd Sc.malformed 0xC3 0
  else
    let t ← readTable d r (r.par 0 8)
    match t with
    | .two .. => failRd Sc.unsupported 0xC0 0
    | .one t => if !t.mapped ∧ (mappedOnly ∨ t.rb ≠ 64) then failRd Sc.unsupported 0xC0 0 else return t

/-- Rows of a table that may be changed (R429, order 4). -/
def rowLimit (t : Tab) : Nat := if t.mode = 1 then t.phys else t.rows

/-! ## Applying a replace (R431) -/

/-- The command of a ROW_REPLACE ends when all its rows have been taken, applied or superseded; its words: rows taken, rows applied, rows
superseded, 1 + list index of a refused row, its status and DETAIL. -/
def settleReplace (seq : Nat) : M Unit := do
  let d ← dev
  match d.runSeq seq with
  | none => pure ()
  | some r =>
    let w (i : Nat) : Nat := r.aux.getD i 0
    if r.goes Op.rowReplace && r.phase == 2 && w 1 + w 2 == w 0 then
      if w 3 = 0 then setCpl r { detail := if w 2 = 0 then 0 else 0xC1, a := w 1, b := w 2 }
      else setCpl r { status := w 4, detail := w 5, a := w 1, b := w 2, result := w 3 - 1 }
    else pure ()

/-- Count one of a ROW_REPLACE's rows as applied (1) or superseded (2). -/
def countRow (seq which : Nat) : M Unit := do
  modRun seq fun r => { r with aux := r.aux.set which (r.aux.getD which 0 + 1) }
  settleReplace seq

/-- The map entry of a row as it stands. -/
def entryNow (d : Dev) (key : Nat) : Nat := leBytes ((List.range 8).map fun i => d.byte (key + i))

/-- Choose the latest waiting replace of a row and supersede the others. -/
def beginReplace (e : Rpl) : M Unit := do
  match e.waiting.getLast? with
  | none => pure ()
  | some w =>
    let others := e.waiting.dropLast
    modRpl e.key fun x => { x with waiting := [], cur := some w, step := 1 }
    fadd A.CRD_SUPERSEDE_CNT ⟨0, 32⟩ others.length
    each others fun o => countRow o.seq 2

/-- The image of a replace is copied to the slot not in use, poison as COPY copies it (assumption log 24). -/
def copyImage (key : Nat) (w : Repl) (r : Run) : M Unit := do
  let d ← dev
  let m := entryNow d key
  runWork r (fun d r => do let _ ← copyRange d r w.src (meBase m + (1 - meSel m) * w.rb) w.rb) fun _ =>
    modRpl key fun x => { x with step := 2 }

/-- The map entry selects the other slot. -/
def switchSlot (key mapVa : Nat) (r : Run) : M Unit := do
  let d ← dev
  let m := entryNow d key
  runWork r (fun d r => writeBytes d r mapVa (toLe 8 (meNew m (meBase m) (1 - meSel m)))) fun _ =>
    modRpl key fun x => { x with step := 4 }

/-- One step of a row's entry (R431). A replace whose command has failed or gone is given up, with the command's other replaces of the row. -/
def stepRpl (key : Nat) : M Unit := do
  let d ← dev
  match d.rplOf key with
  | none => pure ()
  | some e =>
    match e.cur with
    | none => on (e.waiting ≠ [] && e.migr.isNone && (e.fresh || d.graceOver e)) (beginReplace e)
    | some w =>
      match (d.runSeq w.seq).filter fun r => r.cpl.isNone with
      | none => modRpl key fun x => { x with cur := none, step := 0, waiting := x.waiting.filter fun y => y.seq != w.seq }
      | some r =>
        if e.step = 1 then copyImage key w r
        else if e.step = 3 then switchSlot key e.mapVa r
        else if r.outs ≠ 0 then pure ()
        else if e.step = 2 then modRpl key fun x => { x with step := 3 }
        else do
          modRpl key fun x => { x with cur := none, step := 0, last := some d.now, fresh := false }
          bump48 A.CRD_RPL_CNT 1
          countRow w.seq 1

/-- Work a row's entry as far as it goes. -/
def workRpl (key : Nat) : M Unit := each (List.range 6) fun _ => stepRpl key

/-! ## ROW_REPLACE (R428 to R431) -/

/-- What a ROW_REPLACE keeps of its table while it takes rows, behind its six words: whether it is mapped, its rows, its stride and its address. -/
def rowWords (t : Tab) : List Nat := [0, 0, 0, 0, 0, 0, b2n t.mapped, rowLimit t, t.rb, t.va]

/-- The table of a ROW_REPLACE as it keeps it: `rows` are the rows that may be changed. -/
def Run.rowTab (r : Run) : Tab :=
  { mode := 0, fmt := 0, mapped := r.aux.getD 6 0 == 1, d := 0, rows := r.aux.getD 7 0, phys := 0, rb := r.aux.getD 8 0, va := r.aux.getD 9 0, seed := 0 }

/-- What taking a row gives: a direct row written at once, or a mapped row's key, map entry address and waiting replace. -/
inductive Taken where
  | direct
  | mapped (key mapVa : Nat) (w : Repl)
deriving Repr

/-- One row of the list, checked (R429, orders 4 to 6); a direct row is written by one whole-line write of its image (R430). The table is as the
command read its descriptor once, at its start (R413). -/
def takeRow (k : Nat) (d : Dev) (r : Run) : Rd Taken := do
  let t := r.rowTab
  let p ← readNat d r (r.par 8 8 + 8 * k) 8
  if t.rows ≤ p then failRd Sc.malformed 0xC3 0
  else if t.mapped then
    let (key, _) ← localEntry d r (t.va + 8 * p)
    return .mapped key (t.va + 8 * p) ⟨r.seq, k, r.par 16 8 + k * t.rb, t.rb⟩
  else
    let _ ← copyRange d r (r.par 16 8 + 64 * k) (t.va + 64 * p) 64
    return .direct

/-- No more rows are taken: a refusal at a row stops the command there. -/
def endTaking (r : Run) (refused : Option (Nat × Nat × Nat)) : M Unit := do
  match refused with
  | none => setPhase r 2 (r.aux.take 6)
  | some (k, st, dt) => setPhase r 2 [r.aux.getD 0 0, r.aux.getD 1 0, r.aux.getD 2 0, k + 1, st, dt]
  settleReplace r.seq

/-- RETRY of the replace unit, if it cannot take another replace of a row (R429, orders 7 and 8). -/
def Dev.rplFull (d : Dev) (key : Nat) : Option Nat :=
  let live := d.rplLive
  let mine := match live.find? (·.key == key) with | some e => e.waiting.length | none => 0
  if 64 ≤ mine then some 0xC0
  else if (4096 ≤ live.length ∧ ¬ live.any fun x => x.key == key) ∨ 16384 ≤ (live.map fun x => x.waiting.length).sum then some 0xC1
  else none

/-- A row has been taken. -/
def tookRow (r : Run) (k : Nat) (t : Taken) : M Unit := do
  let bumpTaken : M Unit := modRun r.seq fun x => { x with aux := x.aux.set 0 (k + 1) }
  match t with
  | .direct => do
    bumpTaken
    countRow r.seq 1
  | .mapped key mapVa w => do
    pruneRpl
    let d ← dev
    match d.rplFull key with
    | some dt => do
      bump A.CRD_RPL_RETRY_CNT
      endTaking r (some (k, Sc.retry, dt))
    | none => do
      openRpl key mapVa
      modRpl key fun x => { x with waiting := x.waiting ++ [w] }
      bumpTaken
      workRpl key

/-- Take the next row of the list, or end. A refusal at orders 4 to 8 leaves the rows before it to be applied; any other failure of an access
ends the command as it is. -/
def nextRow (r : Run) : M Unit := do
  let k := r.aux.getD 0 0
  if r.par 24 2 ≤ k then endTaking r none
  else
    let d ← dev
    let (res, t) := (takeRow k d r).run.run {}
    match res with
    | .error (.fail c) =>
      if (c.status = Sc.malformed ∧ (c.detail = 0xC3 ∨ c.detail = 0xC4)) ∨ (c.status = Sc.rights ∧ c.detail = 0xC0) then do
        accountTrail r t
        endTaking r (some (k, c.status, c.detail))
      else runWork r (takeRow k) fun _ => pure ()
    | _ => runWork r (takeRow k) (tookRow r k)

/-- Fields of ROW_REPLACE (R428). -/
def replaceFields (r : Run) : Bool :=
  r.par 0 8 % 64 == 0 && r.par 8 8 % 8 == 0 && r.par 16 8 % 64 == 0 && decide (1 ≤ r.par 24 2) && decide (r.par 24 2 ≤ 4096)

/-- ROW_REPLACE. -/
def rowReplace (r : Run) : M Unit := do
  let d ← dev
  if !(d.crdTurn r) then pure ()
  else
    on (r.phase == 0) (runWork r (fun d r => rowTable d r (replaceFields r) false) fun t => setPhase r 1 (rowWords t))
    each (List.range (r.par 24 2 + 1)) fun _ => again r.seq fun r => on (r.phase == 1) (nextRow r)
    let keys ← look fun d => (d.eng.rpl.filter fun e => (e.cur.map (·.seq)) == some r.seq || e.waiting.any fun w => w.seq == r.seq).map (·.key)
    each keys workRpl
    settleReplace r.seq

/-- The grace wait of a row ends: its latest waiting replace is applied (R431). -/
def replaceApply (key : Nat) : M Unit := do
  let d ← dev
  match d.rplOf key with
  | none => pure ()
  | some e =>
    on (e.waiting ≠ [] && e.cur.isNone && e.migr.isNone) (match e.last with
      | some t => passTo (t + d.grace)
      | none => pure ())
    workRpl key

/-! ## ROW_MIGRATE (R432 to R434) -/

/-- Fields of ROW_MIGRATE (R432). -/
def migrateFields (r : Run) : Bool := r.par 0 8 % 64 == 0 && r.par 16 8 % 64 == 0

/-- The checks of a migration: key, map entry address, entry and row stride. -/
def migrateCheck (d : Dev) (r : Run) : Rd (Nat × Nat × Nat × Nat) := do
  let t ← rowTable d r (migrateFields r) true
  let p := r.par 8 8
  if rowLimit t ≤ p then failRd Sc.malformed 0xC3 0
  else
    let (key, m) ← localEntry d r (t.va + 8 * p)
    let dst := r.par 16 8
    if dst < meBase m + 2 * t.rb ∧ meBase m < dst + 2 * t.rb then failRd Sc.malformed 0xC3 0
    else return (key, t.va + 8 * p, m, t.rb)

/-- RETRY of the replace unit to a migration (R432). -/
def Dev.migrateFull (d : Dev) (key : Nat) : Option Nat :=
  let live := d.rplLive
  match live.find? (·.key == key) with
  | some e => if e.migr.isSome || d.migrating key || e.waiting ≠ [] || e.cur.isSome then some 0xC2 else none
  | none => if 4096 ≤ live.length then some 0xC1 else none

/-- Step 1: the row is marked migrating. Words of the command: key, map entry address, old pair, row stride, poison DETAIL, replaces waiting
at the switch, tick of the switch. -/
def beginMigrate (r : Run) (x : Nat × Nat × Nat × Nat) : M Unit := do
  let (key, eva, m, rb) := x
  pruneRpl
  let d ← dev
  match d.migrateFull key with
  | some dt => do
    bump A.CRD_RPL_RETRY_CNT
    setCpl r (fail Sc.retry dt)
  | none => do
    openRpl key eva
    modRpl key fun e => { e with migr := some r.seq }
    setPhase r 1 [key, eva, meBase m, rb, 0, 0, 0]

/-- Step 2: the selected slot is copied (R433, R434). -/
def copyPair (r : Run) : M Unit := do
  let d ← dev
  let m := entryNow d (r.aux.getD 0 0)
  runWork r (fun d r => copyRange d r (meSlot m (r.aux.getD 3 0)) (r.par 16 8) (r.aux.getD 3 0)) fun c =>
    setPhase r 2 (r.aux.set 4 c.detail)

/-- Step 3: the map entry names the new pair. -/
def switchPair (r : Run) : M Unit := do
  let d ← dev
  let key := r.aux.getD 0 0
  let m := entryNow d key
  let waiting := match d.rplOf key with | some e => e.waiting.length | none => 0
  runWork r (fun d r => writeBytes d r (r.aux.getD 1 0) (toLe 8 (meNew m (r.par 16 8) 0))) fun _ => setPhase r 3 (r.aux.set 5 waiting)

/-- The switch has been ordered: waiting replaces go to the new pair, the first without waiting. -/
def pairSwitched (r : Run) : M Unit := do
  let key := r.aux.getD 0 0
  let t ← now
  modRpl key fun e => { e with migr := none, last := some t, fresh := true }
  setPhase r 4 (r.aux.set 6 t)
  workRpl key

/-- A migration that has failed before its switch leaves the row to its waiting replaces (R434). -/
def settleMigrate (key : Nat) : M Unit := do
  let d ← dev
  match d.rplOf key with
  | none => pure ()
  | some e => match e.migr with
    | none => pure ()
    | some seq =>
      let dead := match d.runSeq seq with | none => true | some r => r.cpl.isSome
      on dead (do
        modRpl key fun x => { x with migr := none }
        workRpl key)

/-- One step of a migration. -/
def migrateStep (r : Run) : M Unit := do
  if r.phase = 0 then runWork r migrateCheck (beginMigrate r)
  else if r.phase = 1 then copyPair r
  else if r.phase = 2 then (if r.outs = 0 then switchPair r else pure ())
  else if r.phase = 3 then (if r.outs = 0 then pairSwitched r else pure ())
  else pure ()

/-- ROW_MIGRATE. -/
def rowMigrate (r : Run) : M Unit := do
  let d ← dev
  if d.crdTurn r then
    each (List.range 5) fun _ => again r.seq migrateStep
    settleMigrate (r.aux.getD 0 0)
  else pure ()

/-- GRACE after the switch the completion is written (R433, step 5). -/
def migrateGraceEnd (key : Nat) : M Unit := do
  let d ← dev
  match d.cmd.runs.find? fun r => r.goes Op.rowMigrate && r.phase == 4 && r.aux.getD 0 0 == key with
  | none => pure ()
  | some r =>
    passTo (r.aux.getD 6 0 + d.grace)
    bump A.CRD_MIG_CNT
    let dt := r.aux.getD 4 0
    setCpl r { status := if dt = 0 then Sc.ok else Sc.poisoned, detail := dt, a := r.aux.getD 5 0, result := r.aux.getD 2 0 }
    pruneRpl

/-! ## Rows -/

def execRowReplace (r : Req) (s : State) : Host.Outcome State Fault Refusal := s.run (onRun Op.rowReplace r rowReplace)

def execReplaceApply (key : Nat) (s : State) : Host.Outcome State Fault Refusal := s.run (do settleMigrate key; replaceApply key)

def execRowMigrate (r : Req) (s : State) : Host.Outcome State Fault Refusal := s.run (onRun Op.rowMigrate r rowMigrate)

def execMigrateGraceEnd (key : Nat) (s : State) : Host.Outcome State Fault Refusal := s.run (migrateGraceEnd key)

end Sys2Proof.Machine
end

