-- ==== Sys2Proof/Machine/Power.lean ====
section
/-! DEFINITION. Power states and their entries and exits (R534 to R541), the CORE clock and its voltage over AVSBus (R542 to R544, R559,
R560), gating of tiles, temperatures and trips (R547, R548, R114), and the discrete inputs (R549, R550). -/

namespace Sys2Proof.Machine

/-! ## Small accessors -/

def setPower (st : Nat) : M Unit := fset A.PWR_STATUS F.PWR_STATUS_STATE st
def setTrans (b : Bool) : M Unit := fset A.PWR_STATUS F.PWR_STATUS_TRANS (b2n b)
def setChanging (b : Bool) : M Unit := fset A.CLK_STATUS F.CLK_STATUS_CHANGING (b2n b)
def setLock (core : Bool) : M Unit := fset A.CLK_STATUS F.CLK_STATUS_LOCK (if core then 31 else 1)

/-- The tile of a register that keeps its value only while its tile runs: the MTX, XPD and TSR sub-blocks, and the count of copies dropped
(R47, R214, R370, R389, R466). -/
def gatedReg (a : Nat) : Option Nat :=
  let o := a % 0x10000
  if 0x100000 ≤ a && decide (a < 0x500000) && (decide (0x2000 ≤ o) && decide (o < 0x5000) || decide (0x7000 ≤ o) && decide (o < 0x8000) || o == 0x6F08)
  then some (a / 0x10000 - 0x10) else none

/-- What gated tiles hold is lost: their staging copies and translations (R181, R196), and the registers that need the tile to run, which
read zero from then on. -/
def dropTiles (hit : Nat → Bool) : M Unit := do
  dropCopies fun x => hit x.tile
  dropAgents fun a => (agentTile a).any hit
  let d ← dev
  emit (.csrReset ((d.csr.map (·.1)).filter fun a => !((gatedReg a).any hit)))

/-- The interfaces of all stacks are active, as in P0 and P1 (R116). -/
def stacksActive : M Unit := do
  modStore fun s => { s with down := [] }
  let d ← dev
  each ((List.range 8).filter fun k => d.fld (A.STK_STATUS k) F.STK_STATUS_STATE == Ks.powerDown) fun k => setStackState k Ks.ready

/-! ## Gating (R536) -/

/-- Whether a tile is idle: no command holds it, no backfill MATMUL runs in it, no Curd command uses it, and it belongs to no open window. -/
def Dev.tileIdle (d : Dev) (t : Nat) : Bool :=
  !(d.cmd.runs.any fun r => isCurd r.op && r.cpl.isNone && r.queue.isSome && d.crdRun r == t / 4) &&
  !(d.cmd.runs.any fun r => d.isEngine r.iss && (d.needs r.iss).contains t) &&
    !(d.eng.wins.any fun w => decide (w.first ≤ t) && decide (t < w.first + w.count)) && !(d.cmd.waking.contains t)

/-- TILE_GATE: in P1 a tile that has been idle for GATE_IDLE cycles is gated. -/
def tileGate (t : Nat) : M Unit := do
  let d ← dev
  if d.power = 1 ∧ d.tileIdle t ∧ ¬ d.tileGated t then
    wr A.PWR_TILE_GATED (d.reg A.PWR_TILE_GATED ||| BitVec.ofNat 64 (2 ^ t))
    dropTiles (· == t)
    ackIdle
  else pure ()

/-! ## POWER_STATE (R32, R535, R537) -/

/-- Whether the role permits a power state (R32). -/
def Dev.rolePermits (d : Dev) (role : Word) (st : Nat) : Bool :=
  d.standalone || (!(bit role 2 && decide (2 ≤ st)) && !((bit role 0 || bit role 1) && st == 3))

/-- Whether a firmware load, a stage or a flash write runs (R524). -/
def Dev.imageBusy (d : Dev) : Bool :=
  d.fld A.BOOT_IMG_STATUS F.BOOT_IMG_STATUS_STATE == 1 || d.sys.boot.verify.isSome || d.sys.boot.act.isSome

/-- The first row of R537 that refuses a request for P2 or P3. -/
def Dev.powerRefusal (d : Dev) (r : Run) (st : Nat) : Option (Nat × Nat) :=
  let others := d.cmd.runs.any fun x => x.seq != r.seq && (match x.iss with | .bg _ => false | _ => true)
  if !(d.rolePermits (d.reg A.TOP_ROLE) st) then some (Sc.unsupported, 0x20)
  else if d.setState ≠ setEmpty then some (Sc.retry, 0x13)
  else if others ∨ d.cmd.acc ≠ [] then some (Sc.retry, 0x20)
  else if d.dom.jobs ≠ [] then some (Sc.retry, 0x31)
  else if d.stn.misses ≠ [] ∨ d.stn.invals ≠ [] then some (Sc.retry, 0x41)
  else if (d.own.recs.any fun e => e.2.st == 1) ∨ (d.own.xfers.any fun x => x.releaseDue.isSome) ∨ d.home.walks ≠ [] then
    some (Sc.retry, 0x63)
  else if st = 3 ∧ (d.fab.out ≠ [] ∨ d.fab.replay ≠ []) then some (Sc.retry, 0x81)
  else if d.rplLive ≠ [] then some (Sc.retry, 0xC3)
  else if d.cmd.runs.any fun x => x.seq != r.seq && x.onIndex && x.op != Op.search then some (Sc.retry, 0xD2)
  else if d.imageBusy then some (Sc.retry, 0xF1)
  else if d.fld A.PWR_STATUS F.PWR_STATUS_THROTTLED = 1 then some (Sc.retry, 0x21)
  else none

/-- POWER_STATE: P0 and P1 at once, P0 completing when every tile is awake; P2 and P3 after their completion is written. -/
def powerState (r : Run) : M Unit := do
  let d ← dev
  let st := r.par 0 1 % 4
  let done : Cpl := { result := st }
  if r.phase = 1 then on (d.reg A.PWR_TILE_GATED == 0) (setCpl r done)
  else if st = d.power then setCpl r done
  else if st = 0 then
    stacksActive
    setPower 0
    setTrans false
    restartWindows
    modCmd fun c => { c with waking := (List.range 64).filter d.tileGated }
    if d.reg A.PWR_TILE_GATED = 0 then setCpl r done else setPhase r 1 []
  else if st = 1 then
    stacksActive
    setPower 1
    setTrans false
    setCpl r done
  else match d.powerRefusal r st with
  | some (s, dt) => setCpl r (fail s dt)
  | none =>
    modPwr fun p => { p with req := some (st, r.seq) }
    setCpl r done

/-! ## Wake events and P2 (R538, R540) -/

/-- A wake event of R540: it leaves P2, or P3; one that arrives during an entry is held. -/
def wakeEvent (src : Nat) : M Unit := do
  let d ← dev
  let p := d.sys.pwr
  let t := d.now
  let note := fset A.PWR_STATUS F.PWR_STATUS_WAKE_SRC src
  if d.power = 2 ∧ p.p3 = 0 ∧ p.req.isNone then
    note
    setTrans true
    modPwr fun x => { x with wakeAt := some (x.wakeAt.getD t) }
  else if p.p3 = 1 ∨ p.req.isSome then
    if src = 1 ∨ src = 3 ∨ src = 4 ∨ (p.p3 = 0 ∧ p.req.any (fun q => q.1 == 2)) then
      note
      modPwr fun x => { x with wakeAt := some (x.wakeAt.getD t) }
    else pure ()
  else if d.power = 3 ∧ p.p3 = 0 ∧ (src = 3 ∨ src = 4) then
    note
    modPwr fun x => { x with wakeAt := some t, p3 := 2, avs := some ⟨3, 0, 0, false, t⟩ }
    setTrans true
    setChanging true
  else pure ()

/-- Ports that are UP go to LOW_POWER. -/
def portsIdle : M Unit := each (List.range 16) fun p => do
  let d ← dev
  on (d.linkState p == Ps.up) (setLinkState p Ps.lowPower)

/-- P2_ENTRY: the completion of the request has been written. -/
def p2Entry : M Unit := do
  let d ← dev
  match d.sys.pwr.req with
  | some (2, seq) =>
    if (d.runSeq seq).isSome then pure ()
    else
      wr A.PWR_TILE_GATED (BitVec.allOnes 64)
      dropTiles fun _ => true
      modCmd fun c => { c with waking := [] }
      portsIdle
      setPower 2
      setTrans d.sys.pwr.wakeAt.isSome
      fadd A.PWR_ENTRY_CNT F.PWR_ENTRY_CNT_P2 1
      modPwr fun p => { p with req := none }
  | _ => pure ()

/-- P2_EXIT_DONE: the device is in P1, in which the ports are UP and the stacks' interfaces active (R116, R535). -/
def p2ExitDone : M Unit := do
  let d ← dev
  if d.power = 2 ∧ d.sys.pwr.wakeAt.isSome then
    setPower 1
    setTrans false
    stacksActive
    each (List.range 16) fun p => on (d.linkState p == Ps.lowPower) (linkTo p Ps.up)
    modPwr fun p => { p with wakeAt := none }
  else pure ()

/-! ## P3 (R539, R541, R247) -/

/-- The directory caches are emptied: Owned lines are recalled, Shared entries spilled and counted (R247, R224). -/
def emptyDir : M Unit := do
  let d ← dev
  each (d.home.dc.filter fun e => !(d.home.snoops.any fun s => s.line == e.line)) fun e =>
    let v := dirDecode e.dir
    if v.1 = 2 then each (portsOf v.2) fun p => sendSnoop e.line p true
    else do
      modHome fun h => { h with dc := h.dc.filter fun x => x.line != e.line }
      setDir e.line e.dir
      on (v.1 == 1) (bump (A.HOM_SPILL_CNT (stackOf (64 * e.line))))

/-- P3_ENTRY: steps 1 and 2 of R539 begin when the completion has been written. -/
def p3Entry : M Unit := do
  let d ← dev
  match d.sys.pwr.req with
  | some (3, seq) =>
    if (d.runSeq seq).isSome then pure ()
    else
      modPwr fun p => { p with req := none, p3 := 1 }
      setTrans true
      wr A.PWR_TILE_GATED (BitVec.allOnes 64)
      dropTiles fun _ => true
      modCmd fun c => { c with waking := [] }
      modTrf fun t => { t with deficit := [] }
      emptyDir
  | _ => pure ()

/-- The exit of R541 begins: the voltage of the current operating point is asked for. A wake event held during the entry acts only now. -/
def p3ExitBegin : M Unit := do
  let t ← now
  modPwr fun p => { p with p3 := 2, wakeAt := some t, avs := some ⟨3, 0, 0, false, t⟩ }
  setTrans true
  setChanging true

/-- Whether nothing keeps the stacks from self-refresh: every request and recall answered, queues and credits empty, no repair in progress, no
line left in a directory cache (R117, R247). -/
def Dev.p3Ready (d : Dev) : Bool :=
  d.home.snoops == [] && d.home.waiting == [] && d.home.credits == [] && d.store.repairs == [] && d.home.dc == []

/-- P3_ENTRY_DONE: lines that requests have put into the directory caches since the entry began leave them too; recalls answered and queues
empty, the ports go OFF, the stacks into self-refresh, Easel and the PLLs stop, STATE reads P3. A wake event held during the entry then begins the exit. -/
def p3EntryDone : M Unit := do
  let d ← dev
  on (d.sys.pwr.p3 == 1) emptyDir
  let d ← dev
  if d.sys.pwr.p3 ≠ 1 ∨ ¬ d.p3Ready then pure ()
  else
    each (List.range 16) fun p => on (d.linkState p != Ps.disabled) (setLinkState p Ps.off)
    each (List.range 6) trunkCheckDown
    stacksActive
    each ((List.range 8).filter d.stackServes) fun k => do refreshAll k; setStackState k Ks.selfRefresh
    let h := d.reg A.TOP_HALF_STATUS
    modPwr fun p => { p with p3 := 0, halves := bits h 0 2, avs := some ⟨2, 620, 0, false, d.now⟩ }
    wr A.TOP_HALF_STATUS (putBits (putBits h 0 2 0) 4 2 0)
    setLock false
    setPower 3
    setTrans false
    fadd A.PWR_ENTRY_CNT F.PWR_ENTRY_CNT_P3 1
    on d.sys.pwr.wakeAt.isSome p3ExitBegin

/-- P3_EXIT_VDD_READY: the voltage is in range, 500 cycles after the wake event at the earliest, and the PLLs start. -/
def p3VddReady : M Unit := do
  let d ← dev
  if d.sys.pwr.p3 = 2 ∧ d.sys.pwr.avs.isNone then
    passTo (d.sys.pwr.wakeAt.getD d.now + 500)
    modPwr fun p => { p with p3 := 3 }
  else pure ()

/-- P3_EXIT_PLL_LOCK: Easel resumes, the stacks leave self-refresh, the ports begin retraining. -/
def p3PllLock : M Unit := do
  let d ← dev
  if d.sys.pwr.p3 = 3 then
    passTo (d.sys.pwr.wakeAt.getD d.now + 750)
    setLock true
    wr A.TOP_HALF_STATUS (putBits (d.reg A.TOP_HALF_STATUS) 0 2 d.sys.pwr.halves)
    decideLeader
    let t ← now
    modRes fun r => { r with petW := t, petE := t }
    each ((List.range 8).filter fun k => d.fld (A.STK_STATUS k) F.STK_STATUS_STATE == Ks.selfRefresh) fun k => do
      refreshAll k
      setStackState k Ks.training
    each ((List.range 16).filter fun p => d.linkState p == Ps.off) fun p => do bump (retrainCntAddr p); setLinkState p (d.heldState p Ps.retrain)
    modPwr fun p => { p with p3 := 4, slow := [] }
  else pure ()

/-- P3_EXIT_DONE: the stacks are READY, lease expiries are applied, shaper buckets are full, STATE reads P1 (R279, R336). -/
def p3ExitDone : M Unit := do
  let d ← dev
  if d.sys.pwr.p3 = 4 ∧ (List.range 8).all (fun k => d.stackServes k || d.stackFailed k) then
    passTo (d.sys.pwr.wakeAt.getD d.now + 2000)
    let t ← now
    leaseScan t
    each d.trf.limited fun n => setTokens n (max 4 (d.fld (A.DOM_BW n) F.DOM_BW_BURST) * 1024)
    setPower 1
    setTrans false
    setChanging false
    modPwr fun p => { p with p3 := 0, wakeAt := none }
  else pure ()

/-! ## Operating points and AVSBus (R543, R544, R559, R560) -/

/-- The range in which the fused voltage of an operating point lies: lowest value and width, in mV (R543). -/
def opRange (op : Nat) : Nat × Nat := if op = 0 then (700, 50) else if op = 1 then (660, 40) else if op = 2 then (620, 40) else (620, 0)

/-- The fused voltage of an operating point, within its range (assumption log 5). -/
def vidMv (op : Nat) : Nat := (opRange op).1 + Config.fusedVid op % ((opRange op).2 + 1)

/-- CORE in MHz at an operating point. -/
def opMhz (op : Nat) : Nat := if op = 0 then 1100 else if op = 1 then 900 else if op = 2 then 700 else 550

/-- VDD_CORE at an operating point with a margin, capped at 0.82 V (R543). -/
def vddOf (op margin : Nat) : Nat := min 820 (vidMv op + margin)

/-- Send a voltage write. -/
def avsWrite (occ mv : Nat) : M Unit := do
  let t ← now
  modPwr fun p => { p with avs := some ⟨occ, mv, 0, false, t⟩ }

/-- Begin a change of operating point: raising the clock raises the voltage first, lowering it relocks first (R544). -/
def beginRelock (seq : Option Nat) (op margin : Nat) : M Unit := do
  let d ← dev
  let cur := d.fld A.CLK_STATUS F.CLK_STATUS_OP
  setChanging true
  modPwr fun p => { p with relock := some ⟨seq, op, margin, decide (cur < op)⟩ }
  on (decide (op ≤ cur)) (avsWrite 1 (vddOf op margin))

/-- A change of operating point ends; its command completes. -/
def endRelock (k : Relock) (c : Cpl) : M Unit := do
  modPwr fun p => { p with relock := none }
  setChanging false
  match k.seq with
  | some seq => modRun seq fun r => { r with cpl := match r.cpl with | some e => some e | none => some c }
  | none => pure ()

/-- The new point is in force. -/
def applyPoint (k : Relock) : M Unit := do
  fset A.CLK_STATUS F.CLK_STATUS_OP k.op
  fset A.CLK_CFG F.CLK_CFG_OP k.op
  fset A.CLK_CFG F.CLK_CFG_VMARGIN k.margin

/-- CLOCK_RELOCK_DONE: the CORE PLL has relocked; after a lowering the voltage follows, otherwise the change is complete. -/
def relockDone : M Unit := do
  let d ← dev
  match d.sys.pwr.relock with
  | some k =>
    if ¬ k.locking then pure ()
    else
      let lowering := decide (d.fld A.CLK_STATUS F.CLK_STATUS_OP < k.op)
      applyPoint k
      modPwr fun p => { p with relock := some { k with locking := false } }
      if lowering then avsWrite 1 (vddOf k.op k.margin)
      else
        bump A.CLK_CHANGE_CNT
        endRelock k { result := vddOf k.op k.margin }
  | none => pure ()

/-- A voltage change has succeeded. -/
def avsOk (a : Avs) (mv : Nat) : M Unit := do
  modPwr fun p => { p with avs := none }
  fset A.PWR_AVS_STATUS F.PWR_AVS_STATUS_VOUT_MV (min mv 1023)
  fset A.PWR_AVS_STATUS F.PWR_AVS_STATUS_FAIL 0
  let d ← dev
  match a.occ, d.sys.pwr.relock with
  | 1, some k =>
    if d.fld A.CLK_STATUS F.CLK_STATUS_OP = k.op ∧ d.fld A.CLK_CFG F.CLK_CFG_VMARGIN = k.margin ∧ ¬ k.locking then
      bump A.CLK_CHANGE_CNT
      endRelock k { result := vddOf k.op k.margin }
    else modPwr fun p => { p with relock := some { k with locking := true } }
  | _, _ => pure ()

/-- A sending has failed: it is repeated up to three times; the fourth failure sets FAIL, decides the occasion, and the frame is sent again
every 1 ms until it succeeds (R560). -/
def avsFailed (a : Avs) : M Unit := do
  let t ← now
  modPwr fun p => { p with avs := some { a with failed := a.failed + 1, readBack := false, sent := t } }
  if a.failed = 3 then
    fset A.PWR_AVS_STATUS F.PWR_AVS_STATUS_FAIL 1
    bump A.PWR_AVS_ERR_CNT
    let d ← dev
    match a.occ, d.sys.pwr.relock with
    | 1, some k => endRelock k (fail Sc.timeout 0x22)
    | _, _ => pure ()
  else pure ()

/-- The voltage that a change asks for: of a P3 exit, that of the current point. -/
def Dev.avsTarget (d : Dev) (a : Avs) : Nat :=
  if a.occ = 3 then vddOf (d.fld A.CLK_STATUS F.CLK_STATUS_OP) (d.fld A.CLK_CFG F.CLK_CFG_VMARGIN) else a.mv

/-- AVS_FRAME_DONE: the frame under way has succeeded or failed; a read-back returns the voltage. -/
def avsFrame (ok : Bool) (value : Nat) : M Unit := do
  let d ← dev
  match d.sys.pwr.avs with
  | none => pure ()
  | some a =>
    let mv := d.avsTarget a
    if !ok then avsFailed a
    else if !a.readBack then
      fset A.CLK_STATUS F.CLK_STATUS_VDD_MV mv
      modPwr fun p => { p with avs := some { a with readBack := true, sent := d.now } }
    else if mv ≤ value + 10 ∧ value ≤ mv + 10 then avsOk a value
    else fset A.PWR_AVS_STATUS F.PWR_AVS_STATUS_VOUT_MV (min value 1023)

/-- AVS_READBACK_TIMER: the first read-back is due 5 µs after the write and then one every 1 µs; at 100 µs the write counts as failed. -/
def avsReadback : M Unit := do
  let d ← dev
  match d.sys.pwr.avs with
  | none => pure ()
  | some a =>
    if !a.readBack then pure ()
    else if a.sent + 5000 < d.now + 50 then do passTo (a.sent + 5000); avsFailed a
    else passTo (max (a.sent + 250) (d.now + 50))

/-- AVS_RETRY_TIMER: a frame that has failed four sendings is sent again 1 ms later. -/
def avsRetry : M Unit := do
  let d ← dev
  match d.sys.pwr.avs with
  | none => pure ()
  | some a =>
    if a.failed < 4 then pure ()
    else
      passTo (a.sent + 50000)
      let t ← now
      modPwr fun p => { p with avs := some { a with readBack := false, sent := t } }

/-- AVS_MONITOR_POLL: current and temperature of the regulator. -/
def avsPoll (current temp : Nat) : M Unit := do
  let t ← now
  passTo ((t / 1000 + 1) * 1000)
  fset A.PWR_AVS_STATUS F.PWR_AVS_STATUS_IOUT_A (min current 1023)
  fset A.PWR_AVS_STATUS F.PWR_AVS_STATUS_TEMP_C (min temp 255)

/-- Mask of the RW bits of CLK_CFG. -/
abbrev clkMask : Word := 0x7F03#64

/-- CLOCK_SET. -/
def clockSet (r : Run) : M Unit := do
  let d ← dev
  let op := r.par 1 1 % 4
  let margin := r.par 2 1
  if r.par 0 1 ≠ 0 ∨ 70 < margin then setCpl r (fail Sc.malformed 0x06)
  else if r.isStaged then stageChanges r [(A.CLK_CFG, BitVec.ofNat 64 (op + margin * 256), clkMask)]
  else match d.sys.pwr.relock with
  | some _ => pure ()
  | none => if r.phase = 0 then do setPhase r 1 []; beginRelock (some r.seq) op margin else pure ()

/-! ## Temperatures (R114, R547, R548) -/

/-- A trip: THERMTRIP_N is asserted, the record is raised, every block outside the AON domain is held in reset and the store's contents are
lost (R548). -/
def trip (code inst temp : Nat) (byStack : Bool) : M Unit := do
  let d ← dev
  raise code 0 inst none 0 0 temp
  dropNonAon
  resetRegs fun a => decide (a < 0x50000) || isPcErase a || a == A.GWY_SRC_BOOT
  clearErased
  clearBlocks
  wr A.TOP_HALF_STATUS 0xC0
  setLock false
  fset A.CLK_STATUS F.CLK_STATUS_VDD_MV 620
  fset A.PWR_STATUS F.PWR_STATUS_COOLING 1
  modBoot fun b => { img := b.img, digest := b.digest, blown := b.blown }
  modPwr fun p => { ins := p.ins, thermtrip := true, trip := some (d.now, byStack), i3cAddr := p.i3cAddr, i3cErr := p.i3cErr, i3cOut := p.i3cOut, jtagIr := p.jtagIr, jtagOut := p.jtagOut }

/-- THROTTLE_C of the junction sensors as it acts: 85 to 105 (R551). -/
def Dev.jctThrottle (d : Dev) : Nat := max 85 (min 105 (d.fld A.PWR_THERM_CFG F.PWR_THERM_CFG_THROTTLE_C))

/-- Highest reading and the first sensor that holds it. -/
def hottest (l : List Nat) : Nat × Nat :=
  (l.zip (List.range l.length)).foldl (fun acc x => if acc.1 < x.1 then x else acc) (l.headD 0, 0)

/-- JCT_SENSOR_READ: the 18 readings; throttling begins and ends, or the device trips. -/
def jctRead (temps : List Nat) : M Unit := do
  let t0 ← now
  passTo ((t0 / 1000 + 1) * 1000)
  let d ← dev
  each (temps.zip (List.range 18)) fun x => wr (A.PWR_SENS x.2) (BitVec.ofNat 64 (min x.1 255))
  let h := hottest temps
  wr A.PWR_THERM_STATUS (BitVec.ofNat 64 (min h.1 255 + h.2 * 256))
  let th := d.jctThrottle
  let on_ := d.fld A.PWR_STATUS F.PWR_STATUS_THROTTLED == 1
  on on_ (bump48 A.PWR_THROTTLE_CNT (d.now - d.sys.pwr.thrSince))
  modPwr fun p => { p with thrSince := d.now }
  if !on_ && decide (th ≤ h.1) then
    fset A.PWR_STATUS F.PWR_STATUS_THROTTLED 1
    raise Ev.jctThrottle 0 h.2 none 0 0 h.1
  else if on_ && decide (h.1 + 3 ≤ th) then
    fset A.PWR_STATUS F.PWR_STATUS_THROTTLED 0
    raise Ev.jctThrottleEnd 0 h.2 none 0 0 h.1
  else pure ()
  on (decide (115 ≤ h.1) && d.sys.pwr.trip.isNone) (trip Ev.jctTrip h.2 h.1 false)

/-- STK_TEMP_READ: every 1 ms each stack is read whose controller is out of reset, but in P3 none is (R92). -/
def stkTempRead (temps : List Nat) : M Unit := do
  let t0 ← now
  passTo ((t0 / 50000 + 1) * 50000)
  let d ← dev
  let live := (temps.zip (List.range 8)).filter fun x =>
    let st := d.fld (A.STK_STATUS x.2) F.STK_STATUS_STATE
    d.power != 3 && (st == Ks.training || st == Ks.init || st == Ks.ready || st == Ks.powerDown || st == Ks.failed)
  each live fun x => stackTemp x.2 x.1
  match live.find? fun x => decide (105 ≤ x.1) with
  | some x => trip Ev.stkThermTrip x.2 x.1 true
  | none => pure ()

/-- A device that has cooled restarts: with CAUSE 6, or with the DEV_RESET_N that was held. The stacks are first read for their temperature. -/
def coolRestart (cause : Nat) : M Unit := do
  modPwr fun p => { p with thermtrip := false }
  resetDevice cause
  modPwr fun p => { p with holdTemp := true }
  let d ← dev
  on d.mayStart beginStart

/-- Whether the restart conditions hold as far as the sensors go (R548). -/
def Dev.cool (d : Dev) : Bool := (List.range 18).all fun i => decide ((d.reg (A.PWR_SENS i)).toNat % 256 ≤ 95)

/-- THERMAL_RESTART: 1 s after a junction trip or 5 s after a stack trip, once every junction sensor reads at or below 95 °C. -/
def thermalRestart : M Unit := do
  let d ← dev
  match d.sys.pwr.trip with
  | none => pure ()
  | some (t, byStack) =>
    if !d.cool then pure ()
    else if d.fld A.PWR_CFG F.PWR_CFG_TRIP_RESTART = 1 ∨ d.sys.pwr.rstHeld then
      passTo (t + if byStack then 250000000 else 50000000)
      coolRestart (if d.sys.pwr.rstHeld then 2 else 6)
    else pure ()

/-- Begin training every stack that is OFF (R119). -/
def trainStacks : M Unit := do
  let d ← dev
  each ((List.range 8).filter fun k => d.fld (A.STK_STATUS k) F.STK_STATUS_STATE == Ks.off) fun k => setStackState k Ks.training

/-- STACK_TEMP_HOLD_READ: after a trip the stacks train only when all read 95 °C or less; one at 105 °C or more trips the device again. -/
def stackHoldRead (temps : List Nat) : M Unit := do
  let d ← dev
  if ¬ d.sys.pwr.holdTemp ∨ d.sys.boot.phase < 2 then pure ()
  else
    passTo (d.now + 50000)
    each (temps.zip (List.range 8)) fun x => stackTemp x.2 x.1
    match (temps.zip (List.range 8)).find? fun x => decide (105 ≤ x.1) with
    | some x => trip Ev.stkThermTrip x.2 x.1 true
    | none =>
      if temps.all fun x => decide (x ≤ 95) then
        modPwr fun p => { p with holdTemp := false }
        trainStacks
      else pure ()

/-! ## Stack training (R117 to R119, R516) -/

/-- STK_TRAIN_DONE: at a start the known-answer test decides as well; on a P3 exit a stack that fails its fast retraining trains in full. -/
def stkTrainDone (k : Nat) (trained kat : Bool) : M Unit := do
  let d ← dev
  if d.fld (A.STK_STATUS k) F.STK_STATUS_STATE ≠ Ks.training then pure ()
  else if d.sys.pwr.p3 = 4 then
    if trained then setStackState k Ks.ready
    else if d.sys.pwr.slow.contains k then failStack k 1
    else
      modPwr fun p => { p with slow := p.slow ++ [k] }
      raise Ev.stkSlowWake k k
  else if trained && kat then
    setStackState k Ks.init
    countPins k
  else
    on trained (fset (A.RIND_STATUS k) F.RIND_STATUS_KAT_FAIL 1)
    failStack k (if trained then 3 else 1)
    on (decide (2 ≤ d.sys.boot.phase) && decide (d.fld A.BOOT_STATUS F.BOOT_STATUS_STAGE < 4)) (failStart 2)

/-- STK_INIT_DONE: every line of the stack has been written with zeros (R119). -/
def stkInitDone (k : Nat) : M Unit := do
  let d ← dev
  if d.fld (A.STK_STATUS k) F.STK_STATUS_STATE ≠ Ks.init then pure ()
  else
    each (d.mem.filter fun c => stackOf c.1 == k) fun c => wrByte c.1 0
    modStore fun s => { s with lines := s.lines.filter (fun e => stackOf (64 * e.1) != k),
                               errs := s.errs.filter fun e => stackOf (64 * e.1) != k }
    setStackState k Ks.ready

/-! ## Discrete inputs (R549, R550) -/

def modInp (i : Nat) (f : Inp → Inp) : M Unit := modPwr fun p => { p with ins := p.ins.set i (f (p.ins.getD i {})) }
def Dev.inp (d : Dev) (i : Nat) : Inp := d.sys.pwr.ins.getD i {}
def Dev.level (d : Dev) (i : Nat) : Bool := bit (d.reg A.PWR_IN_STATUS) i
def Dev.maskedIn (d : Dev) (i : Nat) : Bool := bit (d.reg A.PWR_IN_STATUS) (4 + i)
def setLevel (i : Nat) (b : Bool) : M Unit := fset A.PWR_IN_STATUS ⟨i, 1⟩ (b2n b)
def setMasked (i : Nat) (b : Bool) : M Unit := fset A.PWR_IN_STATUS ⟨4 + i, 1⟩ (b2n b)

/-- DEV_RESET_N acts low: the device is reset with CAUSE 2, or the reset is held while the device cools (R548, R549). -/
def resetInputLow : M Unit := do
  let d ← dev
  match d.sys.pwr.trip with
  | none => deviceReset 2
  | some (t, byStack) =>
    if d.cool && decide (t + (if byStack then 250000000 else 50000000) ≤ d.now) then coolRestart 2
    else modPwr fun p => { p with rstHeld := true }

/-- A level is taken: what the input does (R549). -/
def actLevel (i : Nat) (high : Bool) (tick : Nat) : M Unit := do
  let d ← dev
  let was := d.level i
  setLevel i high
  modInp i fun x => { x with taken := some tick, refused := 0, lowAt := if high then none else some tick }
  on high (setMasked i false)
  if was = high then pure ()
  else if i = 0 then
    if high then
      let d ← dev
      on (d.sys.boot.phase == 0 && d.sys.pwr.trip.isNone && d.mayStart) beginStart
    else resetInputLow
  else if i = 2 ∧ ¬ high then do
    let d ← dev
    let ok ← crossEvent 88 d.now
    on ok (wakeEvent 3)
  else pure ()

/-- Lengths of an input's counter in PWR_IN_OVR_CNT. -/
def overrunFld (i : Nat) : Fld := ⟨16 * i, 16⟩

/-- DEV_RESET_N or WAKE_N shows a new level after its debounce: it is taken, or refused within 64 cycles of the last one. Nothing is taken
while the AON domain is in power-on reset. -/
def inputEdge (i : Nat) (high : Bool) (tick : Nat) : M Unit := do
  modInp i fun x => { x with high := high }
  let d ← dev
  if ¬ d.level 1 then pure ()
  else
    passTo tick
    let d ← dev
    match (d.inp i).taken with
    | some t =>
      if d.now < t + 64 then
        fadd A.PWR_IN_OVR_CNT (overrunFld i) 1
        fset A.PWR_IN_STATUS ⟨8 + i, 1⟩ 1
        modInp i fun x => { x with refused := x.refused + 1 }
      else actLevel i high d.now
    | none => actLevel i high d.now

/-- INPUT_OVERRUN_END: the 64 cycles are over; the refused levels are reported and the input's current level is taken as if new. `edges` are
the levels refused in all. -/
def overrunEnd (i edges : Nat) (level : Bool) : M Unit := do
  let d ← dev
  let x := d.inp i
  let n := max x.refused edges
  match x.taken with
  | none => pure ()
  | some t =>
    if n = 0 ∨ i = 1 then pure ()
    else
      passTo (t + 64)
      fadd A.PWR_IN_OVR_CNT (overrunFld i) (n - x.refused)
      fset A.PWR_IN_STATUS ⟨8 + i, 1⟩ 1
      raise Ev.inputOverrun 0 i none 0 n 0
      modInp i fun y => { y with high := level }
      let t' ← now
      actLevel i level t'

/-- INPUT_STUCK_TIMEOUT: an input low for more than 100 ms is masked and treated as high; a reset it began finishes (R550). -/
def inputStuck (i : Nat) : M Unit := do
  let d ← dev
  match (d.inp i).lowAt with
  | none => pure ()
  | some t =>
    if i = 1 ∨ d.maskedIn i then pure ()
    else
      passTo (t + 5000001)
      setMasked i true
      modInp i fun x => { x with lowAt := none }
      raise Ev.stuckInput 0 i
      let d ← dev
      on (i == 0 && d.sys.boot.phase == 0 && d.sys.pwr.trip.isNone && d.mayStart) beginStart

/-- PWR_IN_CTRL.UNMASK. -/
def unmask (i : Nat) : M Unit := setMasked i false

/-- PWR_OK is taken high: the AON domain leaves power-on reset with CAUSE 1, the straps are sampled, and the levels of the other inputs are
taken (R508, R549, R566). -/
def pwrOkRise (tick : Nat) : M Unit := do
  let d ← dev
  if d.level 1 then pure ()
  else
    passTo tick
    let t ← now
    setLevel 1 true
    modInp 1 fun x => { x with high := true }
    fset A.BOOT_STATUS F.BOOT_STATUS_CAUSE 1
    setLock false
    fset A.PWR_I3C_STATUS F.PWR_I3C_STATUS_STATIC_ADDR (0x58 + Config.strapSa.toNat)
    on (d.inp 2).high (do setLevel 2 true; modInp 2 fun x => { x with taken := some t })
    if (d.inp 0).high then
      setLevel 0 true
      modInp 0 fun x => { x with taken := some t }
      beginStart
    else modInp 0 fun x => { x with taken := some t, lowAt := some t }

/-- PWR_OK is taken low. -/
def pwrOkFall (tick : Nat) : M Unit := do
  let d ← dev
  if d.level 1 then
    passTo tick
    modInp 1 fun x => { x with high := false }
    aonReset
  else pure ()

/-! ## Rows -/

def execTileGate (tile : Fin 64) (s : State) : Host.Outcome State Fault Refusal := s.run (tileGate tile.val)
def execPowerState (r : Req) (s : State) : Host.Outcome State Fault Refusal := s.run (onRun Op.powerState r powerState)
def execP2Entry (s : State) : Host.Outcome State Fault Refusal := s.run p2Entry
def execP2ExitDone (s : State) : Host.Outcome State Fault Refusal := s.run p2ExitDone
def execP3Entry (s : State) : Host.Outcome State Fault Refusal := s.run p3Entry
def execP3EntryDone (s : State) : Host.Outcome State Fault Refusal := s.run p3EntryDone
def execP3ExitVddReady (s : State) : Host.Outcome State Fault Refusal := s.run p3VddReady
def execP3ExitPllLock (s : State) : Host.Outcome State Fault Refusal := s.run p3PllLock
def execP3ExitDone (s : State) : Host.Outcome State Fault Refusal := s.run p3ExitDone
def execClockSet (r : Req) (s : State) : Host.Outcome State Fault Refusal := s.run (onRun Op.clockSet r clockSet)
def execClockRelockDone (s : State) : Host.Outcome State Fault Refusal := s.run relockDone
def execAvsFrameDone (ok : Bool) (value : Nat) (s : State) : Host.Outcome State Fault Refusal := s.run (avsFrame ok value)
def execAvsReadbackTimer (s : State) : Host.Outcome State Fault Refusal := s.run avsReadback
def execAvsRetryTimer (s : State) : Host.Outcome State Fault Refusal := s.run avsRetry
def execAvsMonitorPoll (current temp : Nat) (s : State) : Host.Outcome State Fault Refusal := s.run (avsPoll current temp)
def execJctSensorRead (temps : List Nat) (s : State) : Host.Outcome State Fault Refusal :=
  s.runIf (decide (temps.length = 18)) (jctRead temps)
def execStkTempRead (temps : List Nat) (s : State) : Host.Outcome State Fault Refusal :=
  s.runIf (decide (temps.length = 8)) (stkTempRead temps)
def execThermalRestart (s : State) : Host.Outcome State Fault Refusal := s.run thermalRestart
def execStackTempHoldRead (temps : List Nat) (s : State) : Host.Outcome State Fault Refusal :=
  s.runIf (decide (temps.length = 8)) (stackHoldRead temps)
def execStkTrainDone (k : Fin 8) (trained kat : Bool) (s : State) : Host.Outcome State Fault Refusal := s.run (stkTrainDone k.val trained kat)
def execStkInitDone (k : Fin 8) (s : State) : Host.Outcome State Fault Refusal := s.run (stkInitDone k.val)
def execPwrOkRise (tick : Nat) (s : State) : Host.Outcome State Fault Refusal := s.run (pwrOkRise tick)
def execPwrOkFall (tick : Nat) (s : State) : Host.Outcome State Fault Refusal := s.run (pwrOkFall tick)
def execDevResetNFall (tick : Nat) (s : State) : Host.Outcome State Fault Refusal := s.run (inputEdge 0 false tick)
def execDevResetNRise (tick : Nat) (s : State) : Host.Outcome State Fault Refusal := s.run (inputEdge 0 true tick)
def execWakeNFall (tick : Nat) (s : State) : Host.Outcome State Fault Refusal := s.run (inputEdge 2 false tick)
def execWakeNRise (tick : Nat) (s : State) : Host.Outcome State Fault Refusal := s.run (inputEdge 2 true tick)
def execInputStuckTimeout (i : Fin 3) (s : State) : Host.Outcome State Fault Refusal := s.run (inputStuck i.val)
def execInputOverrunEnd (i : Fin 3) (edges : Nat) (level : Bool) (s : State) : Host.Outcome State Fault Refusal :=
  s.run (overrunEnd i.val edges level)
def execUnmask (i : Fin 3) (s : State) : Host.Outcome State Fault Refusal := s.run (unmask i.val)
def execPwrCtrlWake (s : State) : Host.Outcome State Fault Refusal := s.run (wakeEvent 4)

/-- CMD_Q_DB: a doorbell write, which is also a wake event (R67, R73, R540). -/
def cmdQDb (q prod : Nat) : M Unit := do
  doorbell q prod
  wakeEvent 1

/-- CMD_Q_CQ_DB. -/
def cmdQCqDb (q head : Nat) : M Unit := do
  cqDoorbell q head
  wakeEvent 1

def execCmdQDb (q : Fin 512) (prod : BitVec 16) (s : State) : Host.Outcome State Fault Refusal := s.run (cmdQDb q.val prod.toNat)
def execCmdQCqDb (q : Fin 512) (head : BitVec 16) (s : State) : Host.Outcome State Fault Refusal := s.run (cmdQCqDb q.val head.toNat)

end Sys2Proof.Machine
end

