-- ==== Sys2Proof/Machine/Boot.lean ====
section
/-! DEFINITION. The start sequence, the sources and the verification of the firmware image, failed starts, minimal mode, the mailbox's
doorbell, FW_STAGE and FW_ACTIVATE (R508 to R524). -/

namespace Sys2Proof.Machine

/-! ## The image (R514, R515) -/

/-- The bytes of a digest, as a byte string. -/
def digestBytes (v : BitVec 384) : List Byte := (toLe 48 v.toNat).reverse

/-- Bytes of an image around its body, and the image buffer's size. -/
abbrev imgExtra : Nat := 384
abbrev imgMax : Nat := 8388608

/-- Fields of an image's header. -/
def imgSvn (l : List Byte) : Nat := leAt l 8 4
def imgBody (l : List Byte) : Nat := leAt l 12 4

/-- FW_DIGEST of an image. -/
def imgDigest (l : List Byte) : BitVec 384 := Config.sha384 (l.take (256 + imgBody l))

/-- Whether header, trailer and length of an image are as R514 lays them out. -/
def imgFormOk (l : List Byte) : Bool :=
  let b := imgBody l
  leAt l 0 4 == 0x46395843 && leAt l 4 2 == 1 && b % 64 == 0 && decide (64 ≤ b) && decide (b ≤ 8388224) &&
    decide (leAt l 24 4 < b) && decide (leAt l 28 4 < b) && leAt l 6 2 == 0 && leAt l 128 128 == 0 &&
    leAt l (256 + b + 96) 32 == 0 && l.length == b + imgExtra

/-- The fused security version floor: as the part came, and as this part has raised it (R515, R523). -/
def Dev.svnFloor (d : Dev) : Nat := max (min 64 Config.fusedSvnFloor) d.sys.boot.blown

/-- Why an image fails verification, in the order of R515; `none` when it passes. -/
def Dev.imgFault (d : Dev) (l : List Byte) : Option Nat :=
  if !(imgFormOk l) then some 0xF1
  else if Config.sha384 ((l.drop 32).take 96) ≠ Config.fusedKeyHash then some 0xF2
  else if !(Config.ecdsaVerify ((l.drop 32).take 96) (imgDigest l) ((l.drop (256 + imgBody l)).take 96)) then some 0xF3
  else if imgSvn l < d.svnFloor then some 0xF4
  else none

def setImgState (st : Nat) : M Unit := fset A.BOOT_IMG_STATUS F.BOOT_IMG_STATUS_STATE st
def setStage (st : Nat) : M Unit := fset A.BOOT_STATUS F.BOOT_STATUS_STAGE st
def Dev.stage (d : Dev) : Nat := d.fld A.BOOT_STATUS F.BOOT_STATUS_STAGE
def Dev.imgState (d : Dev) : Nat := d.fld A.BOOT_IMG_STATUS F.BOOT_IMG_STATUS_STATE

/-- The image buffer's contents and its length as BOOT_IMG_STATUS shows it. -/
def setImg (l : List Byte) : M Unit := do
  modBoot fun b => { b with img := l }
  fset A.BOOT_IMG_STATUS F.BOOT_IMG_STATUS_LENGTH l.length

/-! ## Sources (R511, R512) -/

/-- Whether a flash is present: an SFDP signature is found and it holds 8 MiB or more (R512). -/
def flashPresent : Bool := match Config.flashSfdp with | some (n, _, _, _) => decide (23 ≤ n) | none => false

/-- log2 of the erase block used. -/
def flashErase : Nat := match Config.flashSfdp with | some (_, _, _, e) => min e 16 | none => 0

/-- BOOT_STATUS.FLASH and BOOT_SPI_INFO (R512). -/
def findFlash : M Unit := do
  let single ← fget A.BOOT_CFG F.BOOT_CFG_SPI_SINGLE
  match Config.flashSfdp with
  | some (n, q, h, _) =>
    on flashPresent (do
      fset A.BOOT_STATUS F.BOOT_STATUS_FLASH 1
      let mode := if single = 1 then 0 else if q then 2 else if h then 1 else 0
      wr A.BOOT_SPI_INFO (BitVec.ofNat 64 (min n 63 + mode * 2 ^ 6 + b2n (decide (24 < n)) * 2 ^ 8 + flashErase * 2 ^ 16)))
  | none => pure ()

/-- Whether a source of R511 is used. -/
def Dev.sourceUsed (d : Dev) (src : Nat) : Bool :=
  if src = 1 then d.fld A.BOOT_STATUS F.BOOT_STATUS_CAUSE == 3 && d.sys.boot.resetOnly
  else if src = 2 then d.fld A.BOOT_FUSE F.BOOT_FUSE_SRC == 0 && flashPresent
  else true

/-- The ROM takes the first source after one that it has tried. -/
def takeSource (after : Nat) : M Unit := do
  let d ← dev
  setStage 2
  match [1, 2, 3].find? fun s => decide (after < s) && d.sourceUsed s with
  | some 1 => do
    setStage 3
    modBoot fun b => { b with verify := some ⟨1, none⟩ }
  | some 2 => modBoot fun b => { b with reading := true }
  | some _ =>
    modBoot fun b => { b with hostDue := some (d.now + max 1 (d.fld A.BOOT_CFG F.BOOT_CFG_HOST_WAIT_MS) * 50000) }
  | none => failStart 1

/-- A source has failed: the record is raised and the next one is tried (R511). -/
def sourceFailed (src detail : Nat) : M Unit := do
  modBoot fun b => { b with hostDue := none, reading := false }
  raise Ev.fwVerifyFail 0 (if src = 2 then 0 else 1) none detail
  takeSource src

/-! ## Steps 3 to 7 -/

/-- The fused values as the registers show them (R532, R543). -/
def readFuses : M Unit := do
  let d ← dev
  wr A.BOOT_FUSE (BitVec.ofNat 64 (b2n Config.fuseHostOnly + 2 * b2n (!Config.fuseOk) + 2 ^ 8 * d.svnFloor))
  let h := digestBytes Config.fusedKeyHash
  each (List.range 6) fun w => wr (A.BOOT_KEY_HASH w) (BitVec.ofNat 64 (leAt h (8 * w) 8))
  each (List.range 4) fun op => wr (A.CLK_OP_VID op) (BitVec.ofNat 64 (vidMv op + opMhz op * 2 ^ 16))

/-- Step 4: DEVICE_RESET is raised; the device goes on to its image and its stacks, or enters minimal mode (R510, R517). -/
def romStart : M Unit := do
  let d ← dev
  modBoot fun b => { b with phase := 2 }
  setStage 1
  setHalfUp true true
  raise Ev.deviceReset 0 0 none (d.fld A.BOOT_STATUS F.BOOT_STATUS_CAUSE) 0 (d.fld A.GWY_SRC_BOOT F.GWY_SRC_BOOT_BOOT)
  setPortState 0 Ps.training
  findFlash
  let fails := d.fld A.BOOT_STATUS F.BOOT_STATUS_FAILS
  if 3 ≤ fails then
    setStage 6
    raise Ev.minimalMode 0 0 none (d.fld A.BOOT_STATUS F.BOOT_STATUS_LAST_REASON) fails
  else
    on (!d.sys.pwr.holdTemp) trainStacks
    takeSource 0

/-- START_PLL_LOCK: the fuses are read and checked, the PLLs lock and the boot ROM starts. Fuses that read uncorrectable fail the start here, so
that no verification meets them (R515, R516, assumption log 138). -/
def startPllLock : M Unit := do
  let d ← dev
  if d.sys.boot.phase = 1 ∧ d.sys.pwr.avs.isNone then
    readFuses
    let v ← freeWord
    fset A.PWR_AVS_STATUS F.PWR_AVS_STATUS_VERSION v.toNat
    fset A.CLK_STATUS F.CLK_STATUS_LOCK 7
    if Config.fuseOk then romStart else failStart 5
  else pure ()

/-- FLASH_READ_DONE: the image has been read into the buffer and hashed, or the read broke off. The length is taken from BODY_LEN. -/
def flashReadDone (image : List Byte) (broke : Bool) : M Unit := do
  let d ← dev
  if ¬ d.sys.boot.reading then pure ()
  else if broke then sourceFailed 2 0xF5
  else
    setImg (image.take (min imgMax (imgBody image + imgExtra)))
    setStage 3
    modBoot fun b => { b with reading := false, verify := some ⟨2, none⟩ }

/-- HOST_WAIT_EXPIRE: no image has arrived in time. -/
def hostWaitExpire : M Unit := do
  let d ← dev
  match d.sys.boot.hostDue with
  | none => pure ()
  | some t =>
    if d.sys.boot.verify.isSome then pure ()
    else do
      passTo t
      sourceFailed 3 0xF8

/-- An image in the buffer has passed: a source of the start becomes the image that will run. -/
def imagePassed (v : Verify) : M Unit := do
  let d ← dev
  let l := d.sys.boot.img
  let h := imgDigest l
  setImgState 2
  modBoot fun b => { b with digest := h }
  if v.src ≤ 3 then
    modBoot fun b => { b with phase := 3, hostDue := none }
    fset A.BOOT_STATUS F.BOOT_STATUS_SOURCE v.src
    each (List.range 6) fun w => wr (A.BOOT_FW_DIGEST w) (BitVec.ofNat 64 (leAt (digestBytes h) (8 * w) 8))
    wr A.BOOT_FW_INFO (BitVec.ofNat 64 (imgSvn l + imgBody l * 2 ^ 32))
    wr A.BOOT_FW_VERSION (BitVec.ofNat 64 (leAt l 16 8))
  else
    match v.seq with
    | some seq => again seq fun r => setCpl r (okCpl (imgSvn l) 0 (leAt (digestBytes h) 0 8))
    | none => pure ()

/-- An image in the buffer has failed. -/
def imageFailed (v : Verify) (code : Nat) : M Unit := do
  setImgState 3
  fset A.BOOT_IMG_STATUS F.BOOT_IMG_STATUS_CAUSE code
  if v.src ≤ 3 then sourceFailed v.src code
  else match v.seq with
    | some seq => again seq fun r => setCpl r (fail Sc.checkFailed code)
    | none => pure ()

/-- IMAGE_VERIFY_DONE: the verification under way ends (R515). -/
def imageVerifyDone : M Unit := do
  let d ← dev
  match d.sys.boot.verify with
  | none => pure ()
  | some v =>
    modBoot fun b => { b with verify := none }
    match d.imgFault d.sys.boot.img with
    | none => imagePassed v
    | some c => imageFailed v c

/-- EASEL_START: step 7, with a verified image and every stack READY; VDD_CORE moves to the voltage of OP 0 (R510, R56, R543). -/
def easelStart : M Unit := do
  let d ← dev
  if d.sys.boot.phase ≠ 3 ∨ d.stage ≠ 3 then pure ()
  else if d.anyStackFailed then failStart 2
  else if (List.range 8).all d.stackServes then
    setStage 4
    setHalfUp false true
    let t ← now
    modRes fun r => { r with petW := t, petE := t }
    modBoot fun b => { b with startDue := some (t + max 5000000 (d.fld A.BOOT_CFG F.BOOT_CFG_START_TIMEOUT)), wdHalves := 0 }
    setLock true
    avsWrite 4 (vddOf 0 (d.fld A.CLK_CFG F.CLK_CFG_VMARGIN))
    wr A.PWR_TILE_GATED 0
    trainPorts
  else pure ()

/-- START_TIMEOUT_EXPIRE. -/
def startTimeoutExpire : M Unit := do
  let d ← dev
  match d.sys.boot.startDue with
  | none => pure ()
  | some t => do
    passTo t
    failStart 3

/-- START_OK: the start completes; later writes have no effect. -/
def startOk : M Unit := do
  let d ← dev
  if d.stage = 4 then
    setStage 5
    fset A.BOOT_STATUS F.BOOT_STATUS_FAILS 0
    bump A.BOOT_START_CNT
    modBoot fun b => { b with startDue := none }
  else pure ()

/-- CLEAR_FAILS. -/
def clearFails : M Unit := fset A.BOOT_STATUS F.BOOT_STATUS_FAILS 0

/-- BOOT_CTRL.RESET: a device reset, unless the device is held in reset already. -/
def bootCtrlReset : M Unit := do
  let d ← dev
  on (d.sys.boot.phase != 0) (deviceReset 4)

/-! ## A host load (R513) -/

/-- Whether an FW_STAGE reads or verifies its image. -/
def Dev.staging (d : Dev) : Bool :=
  d.cmd.runs.any fun r => r.op == Op.fwStage && r.cpl.isNone && decide (0 < r.phase) && decide (r.phase < awayPhase)

/-- BEGIN: the buffer is emptied, or the write is ignored during an FW_STAGE or a flash write. -/
def imgBegin : M Unit := do
  let d ← dev
  if d.staging ∨ d.sys.boot.act.isSome then fset A.BOOT_IMG_STATUS F.BOOT_IMG_STATUS_BUSY_REJ 1
  else
    modBoot fun b => { b with img := [], verify := if b.verify.any (fun v => decide (3 ≤ v.src)) then none else b.verify }
    wr A.BOOT_IMG_STATUS 1

/-- BOOT_IMG_DATA: 8 bytes more, or a write beyond 8 MiB discarded. A write while no host load is open has no effect. -/
def bootImgData (v : Word) : M Unit := do
  let d ← dev
  if d.imgState ≠ 1 ∨ d.staging ∨ d.sys.boot.verify.isSome then pure ()
  else if d.sys.boot.img.length + 8 ≤ imgMax then setImg (d.sys.boot.img ++ toLe 8 v.toNat)
  else fset A.BOOT_IMG_STATUS F.BOOT_IMG_STATUS_OVER 1

/-- END: verification of the bytes written begins. -/
def imgEnd : M Unit := do
  let d ← dev
  if d.imgState ≠ 1 ∨ d.staging ∨ d.sys.boot.verify.isSome then pure ()
  else if d.sys.boot.phase = 2 ∧ d.sys.boot.hostDue.isSome then
    setStage 3
    modBoot fun b => { b with verify := some ⟨3, none⟩ }
  else modBoot fun b => { b with verify := some ⟨4, none⟩ }

/-! ## The mailbox (R518) -/

/-- The packet that stands in BOOT_MBOX_CMD. -/
def Dev.mboxPkt (d : Dev) : Line := lineOf ((List.range 8).map fun w => toLe 8 (d.reg (A.BOOT_MBOX_CMD w)).toNat).flatten

/-- GO: the packet is accepted; a GO while BUSY is ignored. -/
def mboxGo : M Unit := do
  let d ← dev
  if d.fld A.BOOT_MBOX_STATUS F.BOOT_MBOX_STATUS_BUSY = 1 then pure ()
  else
    wr A.BOOT_MBOX_STATUS 1
    let seq ← takeCmdSeq
    modCmd fun c => { c with acc := c.acc ++ [⟨.mbox, seq, d.mboxPkt, 0⟩] }

/-! ## FW_STAGE (R520, R521) -/

/-- Whether a device reads its image at SRC_OFF rather than through the window of the source (R520, assumption log 36). -/
def Dev.stageLocal (d : Dev) (r : Run) : Bool := r.par 20 2 % 16384 == d.node || (r.iss != .unit && r.scope == 0)

/-- The refusal of an FW_STAGE, if any. -/
def Dev.stageRefusal (d : Dev) (r : Run) : Option (Nat × Nat) :=
  let len := r.par 16 4
  if r.par 0 8 % 64 ≠ 0 ∨ r.par 8 8 % 64 ≠ 0 ∨ len % 64 ≠ 0 ∨ len < 448 ∨ imgMax < len ∨ !(d.inSpan (r.par 20 2 % 16384)) then
    some (Sc.malformed, 0xF0)
  else if 2047 < r.par 22 2 then some (Sc.malformed, 0x06)
  else if d.stageLocal r && (match r.queue with
      | some q => !(d.leasedTo (d.qcfg q F.CMD_Q_CFG_PORT) (r.par 0 8) len)
      | none => false) then some (Sc.malformed, 0xF0)
  else if d.imageBusy then some (Sc.retry, 0xF0)
  else none

/-- The bytes of the image that an FW_STAGE loads. -/
def stageRead (d : Dev) (r : Run) : Rd (List Byte) := do
  let len := r.par 16 4
  let ls ← if d.stageLocal r then offLines d r.dom (r.par 0 8) (len / 64)
    else do
      let l ← (tilePieces (r.par 8 8) len).mapM fun p =>
        homeLines d { r with pkt := putLe r.pkt 3 1 0 } 0 p.1 (p.2 / 64) (.win (r.par 20 2 % 16384) (r.par 22 2) p.1 0)
      pure l.flatten
  consume ls
  return (ls.map fun x => lineBytes x.data).flatten

/-- FW_STAGE: refused, or the buffer is emptied and the image read and then verified. -/
def fwStage (r : Run) : M Unit := do
  let d ← dev
  if r.phase = 0 then
    match d.stageRefusal r with
    | some (st, dt) => setCpl r (fail st dt)
    | none =>
      modBoot fun b => { b with img := [] }
      wr A.BOOT_IMG_STATUS 1
      setPhase r 1 []
  else pure ()
  again r.seq fun r =>
    if r.phase = 1 then do
      runWork r stageRead fun l => do
        setImg l
        setPhase r 2 []
        modBoot fun b => { b with verify := some ⟨5, some r.seq⟩ }
      let d ← dev
      on ((d.runSeq r.seq).any fun x => x.cpl.isSome) (setImgState 3)
    else pure ()

/-! ## FW_ACTIVATE (R522, R523) -/

/-- Whether a reserved bit of an FW_ACTIVATE is set. -/
def Run.activateDirty (r : Run) : Bool :=
  decide (1 < r.par 1 1) || leAt r.params 2 6 != 0 || leAt r.params 24 24 != 0

/-- The refusal of an FW_ACTIVATE, if any. -/
def Dev.activateRefusal (d : Dev) (r : Run) : Option (Nat × Nat) :=
  if 2 < r.par 0 1 ∨ r.activateDirty then some (Sc.malformed, 0xF0)
  else if d.imgState = 1 ∨ d.sys.boot.verify.isSome then some (Sc.retry, 0xF0)
  else if d.imgState ≠ 2 then some (Sc.checkFailed, 0xF0)
  else if (r.params.drop 8).take 16 ≠ (digestBytes d.sys.boot.digest).take 16 then some (Sc.checkFailed, 0xF6)
  else if r.par 0 1 ≠ 1 ∧ ¬ flashPresent then some (Sc.unsupported, 0xF1)
  else none

/-- Steps 2 to 5 of an FW_ACTIVATE. -/
def finishActivate (r : Run) (blocks : Nat) : M Unit := do
  let d ← dev
  let svn := imgSvn d.sys.boot.img
  on (bit (BitVec.ofNat 8 (r.par 1 1)) 0) (do
    modBoot fun b => { b with blown := max b.blown (min svn 64) }
    let d ← dev
    fset A.BOOT_FUSE F.BOOT_FUSE_SVN_FLOOR d.svnFloor)
  on (r.par 0 1 != 2) (do
    clearFails
    modBoot fun b => { b with resetSeq := some r.seq, resetOnly := r.par 0 1 == 1 })
  setCpl r (okCpl svn 0 blocks)

/-- FW_ACTIVATE; one that must wait for the flash write of another begins after it. -/
def fwActivate (r : Run) : M Unit := do
  let d ← dev
  if r.phase ≠ 0 then pure ()
  else match d.activateRefusal r with
  | some (st, dt) => setCpl r (fail st dt)
  | none =>
    if r.par 0 1 = 1 then finishActivate r 0
    else if d.sys.boot.act.isSome then pure ()
    else do
      modBoot fun b => { b with act := some (r.seq, r.par 0 1) }
      setPhase r 1 []

/-- FLASH_WRITE_DONE: erase, program and read-back have ended. -/
def flashWriteDone (ok : Bool) : M Unit := do
  let d ← dev
  match d.sys.boot.act with
  | none => pure ()
  | some (seq, _) =>
    modBoot fun b => { b with act := none }
    again seq fun r =>
      if ok then finishActivate r ((d.sys.boot.img.length + 2 ^ flashErase - 1) / 2 ^ flashErase)
      else setCpl r (fail Sc.checkFailed 0xF7)
    settleFw

/-- FW_ACTIVATE_RESET: 10 ms after the completion the device resets. -/
def fwActivateReset : M Unit := do
  let d ← dev
  match d.sys.boot.resetDue with
  | none => pure ()
  | some t => do
    passTo t
    deviceReset 3

/-! ## Rows -/

def execStartPllLock (s : State) : Host.Outcome State Fault Refusal := s.run startPllLock
def execFlashReadDone (image : List Byte) (broke : Bool) (s : State) : Host.Outcome State Fault Refusal := s.run (flashReadDone image broke)
def execHostWaitExpire (s : State) : Host.Outcome State Fault Refusal := s.run hostWaitExpire
def execImageVerifyDone (s : State) : Host.Outcome State Fault Refusal := s.run (do imageVerifyDone; settleFw)
def execEaselStart (s : State) : Host.Outcome State Fault Refusal := s.run easelStart
def execStartTimeoutExpire (s : State) : Host.Outcome State Fault Refusal := s.run startTimeoutExpire
def execStartOk (s : State) : Host.Outcome State Fault Refusal := s.run startOk
def execClearFails (s : State) : Host.Outcome State Fault Refusal := s.run clearFails
def execBootCtrlReset (s : State) : Host.Outcome State Fault Refusal := s.run bootCtrlReset
def execImgBegin (s : State) : Host.Outcome State Fault Refusal := s.run imgBegin
def execBootImgData (value : Word) (s : State) : Host.Outcome State Fault Refusal := s.run (bootImgData value)
def execImgEnd (s : State) : Host.Outcome State Fault Refusal := s.run imgEnd
def execMboxGo (s : State) : Host.Outcome State Fault Refusal := s.run mboxGo
def execFwStage (r : Req) (s : State) : Host.Outcome State Fault Refusal := s.run (onRun Op.fwStage r fwStage)
def execFwActivate (r : Req) (s : State) : Host.Outcome State Fault Refusal := s.run (onRun Op.fwActivate r fwActivate)
def execFlashWriteDone (ok : Bool) (s : State) : Host.Outcome State Fault Refusal := s.run (flashWriteDone ok)
def execFwActivateReset (s : State) : Host.Outcome State Fault Refusal := s.run fwActivateReset

end Sys2Proof.Machine
end

