-- ==== Sys2Proof/Machine/Route.lean ====
section
/-! DEFINITION. ROUTE (R362 to R369): selection, gates, expert queues and dispatch records. -/

namespace Sys2Proof.Machine

/-! ## Parameters (R362, R363) -/

/-- The parameters of a ROUTE. -/
structure Rt where
  t : Nat
  e : Nat
  ktop : Nat
  gate : Nat
  sfmt : Nat
  exitEn : Bool
  slots : Bool
  layer : Nat
  dBytes : Nat
  thresh : Nat
  sVa : Nat
  sLd : Nat
  tVa : Nat
  tLd : Nat
  eVa : Nat
  dVa : Nat
  smVa : Nat
deriving Repr

def rtOf (r : Run) : Rt :=
  { t := r.par 0 4, e := r.par 4 2, ktop := r.par 6 1, gate := r.par 7 1, sfmt := r.par 8 1, exitEn := tb (r.par 9 1) 0,
    slots := tb (r.par 9 1) 1, layer := r.par 10 2, dBytes := r.par 12 4, thresh := r.par 16 4, sVa := r.par 24 8,
    sLd := r.par 32 8, tVa := r.par 40 8, tLd := r.par 48 8, eVa := r.par 56 8, dVa := r.par 64 8, smVa := r.par 72 8 }

/-- Bytes of a score. -/
def Rt.sw (p : Rt) : Nat := if p.sfmt = 0 then 4 else 2

/-- Columns of a score row. -/
def Rt.cols (p : Rt) : Nat := p.e + b2n p.exitEn

/-- Whether every parameter lies within the table of R362. -/
def Rt.ok (p : Rt) : Bool :=
  decide (1 ≤ p.t) && decide (p.t ≤ 65536) && decide (1 ≤ p.e) && decide (p.e ≤ 1024) && decide (1 ≤ p.ktop) && decide (p.ktop ≤ 8)
    && decide (p.ktop ≤ p.e) && decide (p.gate ≤ 2) && decide (p.sfmt ≤ 1) && decide (p.layer ≤ 255)
    && p.dBytes % 64 == 0 && decide (64 ≤ p.dBytes) && decide (p.dBytes ≤ 65536)
    && [p.sVa, p.tVa, p.eVa, p.dVa, p.smVa].all (· % 64 == 0)
    && p.sLd % 64 == 0 && decide (p.cols * p.sw ≤ p.sLd) && p.tLd % 64 == 0 && decide (p.dBytes ≤ p.tLd)

/-- An expert entry: its queue, capacity and VALID (R363). -/
structure Expert where
  va : Nat
  cap : Nat
  valid : Bool
deriving Repr

/-- Read the expert entries; an invalid one, or a reserved bit that is not zero, fails (R362, R363). -/
def readExperts (d : Dev) (r : Run) (p : Rt) : Rd (List Expert) := do
  let l ← readBytes d r p.eVa (16 * p.e)
  let es := (List.range p.e).map fun i =>
    ((⟨leAt l (16 * i) 8, leAt l (16 * i + 8) 4, tb (leAt l (16 * i + 12) 1) 0⟩ : Expert), leAt l (16 * i + 12) 4 / 2)
  if es.any fun x => x.2 != 0 || (x.1.valid && (x.1.va % 64 != 0 || x.1.cap == 0)) then failRd Sc.malformed 0x95 0
  else return es.map (·.1)

/-! ## Selection and gates (R364, R367) -/

/-- An FP32 code from a score as stored. -/
def scoreCode (p : Rt) (x : Nat) : Nat := if p.sfmt = 0 then x else x * 65536

/-- The k members with the highest scores, equal scores by ascending expert: (expert, score) pairs given in ascending expert order. -/
def topk : Nat → List (Nat × Nat) → List (Nat × Nat)
  | 0, _ => []
  | k + 1, l =>
    match l with
    | [] => []
    | x :: t =>
      let best := t.foldl (fun b y => if fp32Gt y.2 b.2 then y else b) x
      best :: topk k (l.erase best)

/-- The largest score. -/
def maxScore : List (Nat × Nat) → Nat
  | [] => 0
  | x :: t => t.foldl (fun b y => if fp32Gt y.2 b then y.2 else b) x.2

/-- FP32 sum in order from +0. -/
def fp32Sum (l : List Nat) : Nat := l.foldl fp32Add 0

/-- The gates of the picks of one token: exponentials and sigmoids to within 1 ulp, a free choice (R364). -/
def gates (d : Dev) (p : Rt) (cand pick : List (Nat × Nat)) : Rd (List Nat) := do
  let base := if p.gate = 0 then cand else cand.filter fun x => pick.any fun y => y.1 == x.1
  let smax := maxScore base
  let ev ← base.mapM fun x => do
    let c ← drawRd d 3
    return (x.1, if p.gate = 2 then fp32Sigm x.2 c else fp32Exp (fp32Sub x.2 smax) c)
  let sum := fp32Sum (ev.map (·.2))
  return pick.map fun x => fp32Div ((ev.find? fun y => y.1 == x.1).map (·.2) |>.getD 0) sum

/-- What is kept for a token: its slot (0xffff: none), whether it is skipped, its picks as (expert, gate). -/
structure Tok where
  slot : Nat
  skip : Bool
  picks : List (Nat × Nat)
deriving Repr

/-- Choose one token's experts. -/
def chooseTok (d : Dev) (r : Run) (p : Rt) (es : List Expert) (i snap : Nat) : Rd (Tok × Option Nat) := do
  if snap % 2 = 1 then return (⟨snap / 2, true, []⟩, none)
  else
    let l ← readBytes d r (p.sVa + i * p.sLd) (p.cols * p.sw)
    let sc := (List.range p.e).map fun e => (e, scoreCode p (leAt l (p.sw * e) p.sw))
    let valid := sc.filter fun x => (es[x.1]?.map (·.valid)).getD false
    let cand := valid.filter fun x => !(fp32IsNan x.2)
    countRd A.RTE_NAN_CNT 32 (valid.length - cand.length)
    let pick := topk p.ktop cand
    let g ← gates d p cand pick
    let ex := if p.exitEn then some (scoreCode p (leAt l (p.sw * p.e) p.sw)) else none
    return (⟨snap / 2, false, (pick.map (·.1)).zip g⟩, ex)

/-- Whether an exit score reaches the threshold; NaN never does (R367). -/
def exits (p : Rt) (score : Nat) : Bool := !(fp32IsNan score) && !(fp32IsNan p.thresh) && !(fp32Gt p.thresh score)

/-- A token in the words of its command: count of picks (15: skipped), slot, then eight pairs of expert and gate. -/
def tokWords (t : Tok) : List Nat :=
  [if t.skip then 15 else t.picks.length, t.slot] ++
    (List.range 8).flatMap fun i => match t.picks[i]? with | some (e, g) => [e, g] | none => [0, 0]

/-- The tokens kept in a command's words. -/
def tokOf (aux : List Nat) (i : Nat) : Tok :=
  let w := (aux.drop (18 * i)).take 18
  let n := w.getD 0 0
  ⟨w.getD 1 0xffff, n == 15, if n = 15 then [] else (List.range n).map fun j => (w.getD (2 + 2 * j) 0, w.getD (3 + 2 * j) 0)⟩

/-- Phase 1: selection for every token, and the slots that exit. -/
def selectAll (d : Dev) (r : Run) (es : List Expert) : Rd (List Tok × List Nat) := do
  let p := rtOf r
  let res ← (List.range p.t).mapM fun i => chooseTok d r p es i (r.aux.getD i (2 * 0xffff))
  let slotsUsed := ((List.range 256).filter fun s => res.any fun x => x.1.slot == s && !x.1.skip)
  let out := slotsUsed.filter fun s => match (res.filter fun x => x.1.slot == s && !x.1.skip).getLast? with
    | some (_, some sc) => exits p sc
    | _ => false
  countRd A.RTE_SKIP_CNT 32 (res.filter fun x => x.1.skip).length
  return (res.map (·.1), out)

/-- Bits LAYER + 1 to 255 of a mask. -/
def exitMask (layer : Nat) : BitVec 256 := BitVec.ofNat 256 (2 ^ 256 - 2 ^ (layer + 1))

/-! ## Reservation, entries and records (R365, R368, R369) -/

/-- Keys of the two FADDs on an expert's counters. -/
def faddKey (e : Nat) (isDone : Bool) : Nat := 4 * (2 * e + b2n isDone)

/-- The operand line of an FADD of 8 bytes (R307). -/
def faddOperand (n : Nat) : Line := putLe (putLe 0 1 1 3) 16 8 n

/-- Issue an atomic of a running command at a translated address under a key. -/
def issueAtom (r : Run) (t : Tgt) (key : Nat) (o : Line) : M Unit := do
  modRun r.seq fun x => { x with asked := x.asked ++ [key] }
  dropOwnCopies r [t]
  match t with
  | .loc off cls =>
    let op := HOp.atom (off % 64) (le o 0 1) (le o 1 1) (BitVec.ofNat 128 (le o 16 16)) (BitVec.ofNat 128 (le o 32 16))
    submit [⟨key, 0, .run r.seq, op, off / 64, some r.dom, some cls⟩]
  | .win node win off cls =>
    issueRq { type := 4, len := 1, dst := node, win := win, woff := off, cls := cls, srcDomain := r.dom, units := [o] } r.seq key

/-- One FADD of a running command, at most once: true when its answer is there. A failed one ends the command (R368). -/
def fadd1 (seq va key n : Nat) : M Bool := do
  let d ← dev
  match d.runSeq seq with
  | none => return false
  | some r =>
    if r.cpl.isSome then return false
    else
      if (r.find key).isNone ∧ ¬ r.asked.contains key then
        runWork r (fun d r => tr d r va .a) fun t => issueAtom r t key (faddOperand n)
      else pure ()
      let d ← dev
      match (d.runSeq seq).bind fun x => x.find key with
      | none => return false
      | some g =>
        if g.status ≠ 0 then
          setCpl r { status := g.status, detail := g.detail, result := va }
          return false
        else return true

/-- FADDs in ascending expert order: (expert, address, amount). True when every one has answered. -/
def faddAll (seq : Nat) (isDone : Bool) : List (Nat × Nat × Nat) → M Bool
  | [] => return true
  | (e, va, n) :: t => do
    let ok ← fadd1 seq va (faddKey e isDone) n
    if ok then faddAll seq isDone t else return false

/-- Tokens that chose an expert, in ascending token order. -/
def choosers (toks : List Tok) (e : Nat) : List Nat :=
  (List.range toks.length).filter fun i => match toks[i]? with | some t => t.picks.any fun x => x.1 == e | none => false

/-- The experts chosen, with address and number of tokens. -/
def chosen (toks : List Tok) (es : List Expert) : List (Nat × Nat × Nat) :=
  (List.range es.length).filterMap fun e =>
    let c := (choosers toks e).length
    if c = 0 then none else some (e, (es[e]?.map (·.va)).getD 0, c)

/-- The pairs of the tokens with their entry indices: (token, rank, expert, gate, index) (R365). -/
def pairsOf (r : Run) (toks : List Tok) : List (Nat × Nat × Nat × Nat × Nat) :=
  (List.range toks.length).flatMap fun i => match toks[i]? with
    | none => []
    | some t => (List.range t.picks.length).filterMap fun k => match t.picks[k]? with
      | none => none
      | some (e, g) =>
        let base := match r.find (faddKey e false) with | some a => bits (a.data.headD 0) 0 64 | none => 0
        let j := ((choosers toks e).filter fun x => decide (x < i)).length
        some (i, k, e, g, base + j)

/-- The header of a queue entry (R363). -/
def entryHead (node tok rank slot gate seq : Nat) : List Byte :=
  toLe 2 node ++ toLe 2 tok ++ toLe 1 rank ++ toLe 1 0 ++ toLe 2 slot ++ toLe 4 gate ++ toLe 4 0 ++ toLe 4 seq ++ toLe 44 0

/-- Phase 3: entries written. -/
def writeEntries (es : List Expert) (toks : List Tok) (d : Dev) (r : Run) : Rd Unit := do
  let p := rtOf r
  (pairsOf r toks).forM fun (i, k, e, g, idx) =>
    match es[e]? with
    | none => pure ()
    | some x =>
      if x.cap ≤ idx then pure ()
      else do
        let row ← readBytes d r (p.tVa + i * p.tLd) p.dBytes
        let slot := (toks[i]?.map (·.slot)).getD 0xffff
        writeBytes d r (x.va + 64 + idx * (64 + p.dBytes)) (entryHead d.node i k slot g r.seq ++ row)

/-- A dispatch record (R369). -/
def recordOf (r : Run) (es : List Expert) (toks : List Tok) (i : Nat) : List Byte :=
  let t := tokOf r.aux i
  let mine := (pairsOf r toks).filter fun x => x.1 == i
  (List.range 8).flatMap fun k =>
    if t.skip then toLe 2 0 ++ toLe 1 3 ++ toLe 13 0
    else match mine.find? fun x => x.2.1 == k with
      | some (_, _, e, g, idx) =>
        let ovf := decide (((es[e]?.map (·.cap)).getD 0) ≤ idx)
        toLe 2 e ++ toLe 1 (b2n ovf) ++ toLe 1 0 ++ toLe 4 idx ++ toLe 4 g ++ toLe 4 0
      | none => toLe 2 0 ++ toLe 1 2 ++ toLe 13 0

/-- Phase 5: dispatch records written; the completion (R365). -/
def writeRecords (es : List Expert) (toks : List Tok) (d : Dev) (r : Run) : Rd Cpl := do
  let p := rtOf r
  (List.range p.t).forM fun i => writeBytes d r (p.dVa + 128 * i) (recordOf r es toks i)
  let ps := pairsOf r toks
  let ovf := (ps.filter fun (_, _, e, _, idx) => decide (((es[e]?.map (·.cap)).getD 0) ≤ idx)).length
  let done := ps.length - ovf
  countRd A.RTE_PAIR_CNT 48 done
  countRd A.RTE_OVERFLOW_CNT 32 ovf
  return { detail := if ovf = 0 then 0 else 0x91, a := done, b := ovf }

/-! ## The phases (R365) -/

/-- The expert entries are read at the start and kept under this key: one line each (valid, address, capacity). -/
abbrev expertKey : Nat := 4 * (2 ^ 81 + 1)

def keepExperts (r : Run) (es : List Expert) : M Unit :=
  modRun r.seq fun x => { x with got := x.got ++ [{ key := expertKey, data := es.map fun e => putLe (putLe (putLe 0 0 8 e.va) 8 4 e.cap) 12 1 (b2n e.valid) }] }

def keptExperts (r : Run) : List Expert :=
  match r.find expertKey with
  | some g => g.data.map fun x => ⟨le x 0 8, le x 8 4, le x 12 1 == 1⟩
  | none => []

/-- Checks and slots (R362). -/
def routeStart (r : Run) : M Unit := do
  let p := rtOf r
  if !p.ok then setCpl r (fail Sc.malformed 0x93)
  else
    runWork r (fun d r => do
      let es ← readExperts d r p
      let snap ← if p.slots then slotSnap d r p.smVa p.t p.layer else pure []
      return (es, snap)) fun (es, snap) => do
        if p.slots && snap.all fun x => x % 2 == 1 then
          fadd A.RTE_SKIP_CNT ⟨0, 32⟩ p.t
          setCpl r (fail Sc.ok 0x90)
        else
          keepExperts r es
          keepSlots r snap
          setPhase r 1 snap

/-- Phase 1. -/
def routeSelect (r : Run) : M Unit :=
  runWork r (fun d r => selectAll d r (keptExperts r)) fun (toks, out) => do
    let p := rtOf r
    each out fun s => orMask s (exitMask p.layer)
    fadd A.RTE_EXIT_CNT ⟨0, 32⟩ out.length
    setPhase r 2 (toks.flatMap tokWords)

/-- The tokens of a ROUTE. -/
def toksOf (r : Run) : List Tok := (List.range (rtOf r).t).map (tokOf r.aux)

/-- One step of a ROUTE, in the order of its phases. -/
def routeStep (r : Run) : M Unit := do
  if r.phase = 0 then routeStart r
  else if r.phase = 1 then routeSelect r
  else if r.phase = 2 then
    let ok ← faddAll r.seq false (chosen (toksOf r) (keptExperts r))
    on ok (setPhase r 3 r.aux)
  else if r.phase = 3 then
    runWork r (writeEntries (keptExperts r) (toksOf r)) fun _ => setPhase r 4 r.aux
  else if r.phase = 4 then
    if r.outs ≠ 0 then pure ()
    else
      let ok ← faddAll r.seq true (chosen (toksOf r) (keptExperts r))
      on ok (setPhase r 5 r.aux)
  else runCpl r (writeRecords (keptExperts r) (toksOf r))

/-- The ROUTE that the router runs: the one that started first and has not ended. -/
def Dev.routeRunning (d : Dev) : Option Run := d.cmd.runs.find? fun r => r.goes Op.route

/-- ROUTE (R362 to R369): it runs its phases as far as it can; a second one waits. -/
def route (r : Run) : M Unit :=
  each (List.range 6) fun _ => again r.seq fun r => do
    let d ← dev
    on ((d.routeRunning.map (·.seq)) == some r.seq) (routeStep r)

def execRoute (r : Req) (s : State) : Host.Outcome State Fault Refusal := s.run (onRun Op.route r route)

end Sys2Proof.Machine
end

