-- ==== Sys2Proof/Machine/Watch.lean ====
section
/-! DEFINITION. The engine watchdogs and the Easel watchdogs (R174, R484 to R487). -/

namespace Sys2Proof.Machine

/-! ## Engine watchdogs (R484 to R486) -/

/-- Tiles that are reset with a tile set: their translations and staging copies are lost, and a backfill MATMUL that runs in one of them
ends. -/
def resetTiles (l : List Nat) : M Unit := do
  dropCopies fun x => l.contains x.tile
  dropAgents fun a => (agentTile a).any l.contains
  let d ← dev
  each (d.cmd.runs.filter fun r => r.bf && (d.needs r.iss).any fun t => l.contains t) fun r => abortRun r Sc.aborted 0xE2 0

/-- A queue moves to DRAINING with ENABLE 0, and its job's reservation is released (R72, R400, R486). -/
def forceDrain (q : Nat) : M Unit := do
  fset (A.CMD_Q_CFG q) F.CMD_Q_CFG_ENABLE 0
  drainQueue q
  let d ← dev
  on (d.qstate q == Qs.halted) (do
    fset (A.CMD_Q_STATE q) F.CMD_Q_STATE_STATE Qs.draining
    settleQueue q)

/-- The agent whose translation cache is reset with a Curd engine, the router or the search array control (R173, R484). -/
def engineAgent (e : Nat) : Nat := if e < 80 then 640 + (e - 64) else if e = 80 then 657 else 656

/-- An engine is reset and the command that it runs ends (R486). -/
def resetEngine (e : Nat) (r : Run) : M Unit := do
  let d ← dev
  if e < 64 then resetTiles (d.needs r.iss) else dropAgents (· == engineAgent e)
  abortRun r Sc.aborted 0xE0 e
  match r.queue with
  | some q => forceDrain q
  | none => pure ()
  raise Ev.wdtEngine 0 e (some r.dom)
  fadd A.TOP_WDT_CNT F.TOP_WDT_CNT_ENG 1

/-- Opcodes of the search array control. -/
def searchOps : List Nat := [Op.search, Op.sideAppend, Op.sideDelete, Op.merge, Op.bitwise, Op.shadowCompare]

/-- Whether a command waits for its Curd engine or for the router, which counts as progress (R410, R485). -/
def Dev.waitsTurn (d : Dev) (r : Run) : Bool :=
  (isCurd r.op && !(d.crdTurn r)) || (r.op == Op.route && (d.routeRunning.map (·.seq)) != some r.seq)

/-- Whether a command runs on an engine (R484): a tile set stands under its TILE_FIRST, a Curd engine runs the commands of the queues that it
serves. -/
def Dev.runsOn (d : Dev) (e : Nat) (r : Run) : Bool :=
  if e < 64 then d.isEngine r.iss && (match r.queue with | some q => d.tileFirst q == e | none => false)
  else if e < 80 then isCurd r.op && r.queue.isSome && d.crdRun r == e - 64
  else if e = 80 then r.op == Op.route
  else searchOps.contains r.op && !(r.op == Op.shadowCompare && r.phase != 0)

/-- Whether a command issues nothing and waits for nothing (R485): it has started, its completion is not decided, and no request of it is
outstanding. -/
def Run.idle (r : Run) : Bool :=
  r.cpl.isNone && r.outs == 0 && r.phase != blkPhase && r.phase != awayPhase &&
    r.asked.all fun k => decide (4 * 2 ^ 240 ≤ k) || r.got.any fun g => g.key == k

/-- ENG_TIMEOUT as it acts: at least 50,000 AON cycles. -/
def Dev.engTimeout (d : Dev) : Nat := max 50000 (d.fld A.TOP_WDT_CFG F.TOP_WDT_CFG_ENG_TIMEOUT)

/-- The command that an engine's watchdog may expire for: the oldest that runs on it, one in a backfill context last. -/
def Dev.stuckRun (d : Dev) (e : Nat) : Option Run :=
  let l := d.cmd.runs.filter fun r => d.runsOn e r && r.idle && !(d.waitsTurn r)
  match l.find? fun r => !r.bf with
  | some r => some r
  | none => l.head?

/-- ENGINE_WDT_EXPIRE: the watchdog counts while its command makes no progress, so it expires ENG_TIMEOUT after the start of the command
at the earliest. -/
def engineExpire (e : Nat) : M Unit := do
  let d ← dev
  match d.stuckRun e with
  | none => pure ()
  | some r => do
    passTo (r.tick + d.engTimeout)
    resetEngine e r

/-! ## Agents reset by Stencil (R174, R484) -/

/-- An agent that has not acknowledged is reset together with the engine that holds it, as its watchdog does. -/
def resetAgent (a : Nat) : M Unit := do
  let d ← dev
  match agentTile a with
  | some t =>
    match d.cmd.runs.find? fun r => !r.bf && r.cpl.isNone && d.isEngine r.iss && (d.needs r.iss).contains t with
    | some r => resetEngine ((d.needs r.iss).headD 0) r
    | none => resetTiles [t]
  | none =>
    let e := if a < 656 then a - 640 + 64 else if a = 656 then 81 else 80
    match d.cmd.runs.find? fun r => d.runsOn e r && r.cpl.isNone && !(d.waitsTurn r) with
    | some r => resetEngine e r
    | none => dropAgents (· == a)

/-- ACK_TIMEOUT. -/
def ackExpire : M Unit := do
  let d ← dev
  match d.stn.invals with
  | [] => pure ()
  | i :: _ => do
    passTo i.due
    each ((List.range agentCount).filter fun a => !(i.acked.contains a)) resetAgent
    ackTimeout

/-! ## Easel watchdogs (R487) -/

/-- EASEL_TIMEOUT as it acts: at least 500,000 AON cycles. -/
def Dev.easelTimeout (d : Dev) : Nat := max 500000 (d.fld A.TOP_WDT_CFG F.TOP_WDT_CFG_EASEL_TIMEOUT)

/-- Whether a half's core runs (R55). -/
def Dev.halfUp (d : Dev) (east : Bool) : Bool := bit (d.reg A.TOP_HALF_STATUS) (b2n east)

/-- PET_W and PET_E: a half that runs restarts its own count. -/
def pet (east : Bool) : M Unit := do
  let d ← dev
  on (d.halfUp east) (modRes fun r => if east then { r with petE := d.now } else { r with petW := d.now })

/-- A start at stage 4 in which both halves have been reset by their watchdogs has failed (R516). -/
def bothHalvesReset (east : Bool) : M Unit := do
  let d ← dev
  if d.stage = 4 then
    let w := d.sys.boot.wdHalves ||| (if east then 2 else 1)
    modBoot fun b => { b with wdHalves := w }
    on (w == 3) (failStart 4)
  else pure ()

/-- EASEL_WDT_EXPIRE: the half's core is reset alone; it runs again within 20 ms. The watchdogs pause in P3 (R505). -/
def easelExpire (east : Bool) : M Unit := do
  let d ← dev
  if d.halfUp east && d.power != 3 then
    passTo ((if east then d.sys.res.petE else d.sys.res.petW) + d.easelTimeout)
    let t ← now
    modRes fun r => if east then { r with backE := some (t + 1000000) } else { r with backW := some (t + 1000000) }
    raise Ev.wdtEasel 0 (b2n east)
    fadd A.TOP_WDT_CNT (if east then F.TOP_WDT_CNT_E else F.TOP_WDT_CNT_W) 1
    setHalfUp east false
    bothHalvesReset east
  else pure ()

/-- EASEL_CORE_RESTARTED: the core runs again, 20 ms after its reset at the latest. -/
def easelRestarted (east : Bool) : M Unit := do
  let d ← dev
  match (if east then d.sys.res.backE else d.sys.res.backW) with
  | none => pure ()
  | some _ => do
    modRes fun r => if east then { r with backE := none, petE := d.now } else { r with backW := none, petW := d.now }
    setHalfUp east true

/-! ## Rows -/

def execEngineWdtExpire (engine : Nat) (s : State) : Host.Outcome State Fault Refusal :=
  s.runIf (decide (engine < 82)) (engineExpire engine)

def execAckTimeout (s : State) : Host.Outcome State Fault Refusal := s.run ackExpire

def execPetW (s : State) : Host.Outcome State Fault Refusal := s.run (pet false)

def execPetE (s : State) : Host.Outcome State Fault Refusal := s.run (pet true)

def execEaselWdtExpire (east : Bool) (s : State) : Host.Outcome State Fault Refusal := s.run (easelExpire east)

def execEaselCoreRestarted (east : Bool) (s : State) : Host.Outcome State Fault Refusal := s.run (easelRestarted east)

end Sys2Proof.Machine
end

