-- ==== Sys2Proof/Machine/Quorum.lean ====
section
/-! DEFINITION. Lease tokens of the halves (R489 to R492), the quorum of span managers (R493 to R497), expulsion (R496 to R500), shadowing and
rejoining (R501 to R504). -/

namespace Sys2Proof.Machine

/-! ## Tokens -/

/-- The unit of a TOKEN message (R489). -/
def tokenUnit (kind half issuer holder epoch term state : Nat) : Line :=
  putLe (putLe (putLe (putLe (putLe (putLe (putLe 0 0 1 kind) 1 1 half) 2 2 issuer) 4 2 holder) 8 4 epoch) 12 4 term) 16 1 state

/-- STATE of an ACK: the halves that run, LEADER, and whether LEADER was set by a fallback row. -/
def Dev.tokenState (d : Dev) : Nat :=
  let h := d.reg A.TOP_HALF_STATUS
  bits h 0 2 + bits h 4 2 * 4 + b2n d.sys.res.fallback * 16

/-- A GRANT takes effect: it becomes the current token unless it names another holder or a lower epoch (R490, R491). -/
def applyGrant (half issuer holder epoch term : Nat) : M Unit := do
  let d ← dev
  if holder = d.node ∧ d.fld A.TOP_TOKEN F.TOP_TOKEN_EPOCH ≤ epoch then
    wr A.TOP_TOKEN (F.TOP_TOKEN_EPOCH.put (F.TOP_TOKEN_HALF.put (F.TOP_TOKEN_VALID.put (F.TOP_TOKEN_ISSUER.put 0 issuer) 1) half) epoch)
    modRes fun r => { r with tokenDue := some (d.now + term) }
    decideLeader
  else pure ()

/-- A GRANT arrives: every one is answered with an ACK. -/
def tokenGrantMsg (m : DMsg) : M Unit := do
  let u := m.units.headD 0
  applyGrant (bits u 8 1) (bits u 16 14) (bits u 32 14) (le u 8 4) (le u 12 4)
  let d ← dev
  sendDrs { type := 0x63, len := 1, dst := m.src, src := d.node, units := [tokenUnit 2 (d.fld A.TOP_TOKEN F.TOP_TOKEN_HALF) (bits u 16 14) d.node
    (d.fld A.TOP_TOKEN F.TOP_TOKEN_EPOCH) 0 d.tokenState] }

/-- An ACK arrives at the issuer. -/
def tokenAckMsg (m : DMsg) : M Unit := do
  let u := m.units.headD 0
  let st := byteOf u 16
  modRes fun r => { r with served := r.served.map fun x =>
    if x.node = m.src then { x with ack := some (bit st 0, bit st 1, le u 8 4) } else x }

/-- Nodes of the five span managers. -/
def spanManagers : List Nat := (List.range 5).map fun i => (Config.spanManager i).toNat

/-- Index of this span manager (R33). -/
def Dev.ownIdx (d : Dev) : Nat := d.fld A.TOP_ROLE F.TOP_ROLE_SPAN_MGR_IDX

/-- Groups whose manager is expelled: the leading span manager serves them in its place (R500). -/
def Dev.orphans (d : Dev) : List Nat := d.groups.filter fun g => d.groupMgr g != d.node && d.expelled (d.groupMgr g)

/-- The devices that this one issues tokens to: a group manager to its members; the leading span manager to itself, to the other managers
and to the members of a group whose manager is expelled (R31, R500). A span manager takes its token from the leader alone. -/
def Dev.tokenHolders (d : Dev) : List Nat :=
  let plain (l : List Nat) := l.filter fun n => !(spanManagers.contains n)
  let mine := if d.isGroupMgr then plain d.groupMembers else []
  let lead := if d.leadsSpan then
      d.node :: (spanManagers ++ d.groups.map d.groupMgr ++ (d.orphans.flatMap fun g => plain (d.groupClear g))).filter fun n =>
        n != d.node && !(d.expelled n) && !(d.shadowed n)
    else []
  (lead ++ mine).eraseDups

/-- TERM that is sent: at least 2 × RENEW (R506). -/
def Dev.tokenTerm (d : Dev) : Nat :=
  max (d.fld A.TOP_TOKEN_CFG F.TOP_TOKEN_CFG_TERM) (2 * d.fld A.TOP_TOKEN_CFG F.TOP_TOKEN_CFG_RENEW)

/-- The next GRANT to a device, as (half, epoch): the half of the previous GRANT while the last ACK shows it up, else the other half with the
next epoch; a first GRANT, or one after an ACK with a higher epoch than was granted, carries the epoch of the ACK plus 1 (R490). -/
def nextGrant (x : Served) : Nat × Nat :=
  let seen := match x.ack with | some a => a.2.2 | none => 0
  let up := match x.ack with | some a => if x.half = 1 then a.2.1 else a.1 | none => false
  if x.epoch = 0 ∨ x.epoch < seen then (x.half, seen + 1)
  else if up then (x.half, x.epoch)
  else (1 - x.half, x.epoch + 1)

/-- One GRANT is sent, or applied directly when this device grants to itself. -/
def grantTo (n : Nat) : M Unit := do
  let d ← dev
  let old := (d.sys.res.served.find? fun x => x.node == n).getD ⟨n, 1, 0, none⟩
  let x := if n = d.node then { old with ack := some (d.halfUp false, d.halfUp true, d.fld A.TOP_TOKEN F.TOP_TOKEN_EPOCH) } else old
  let g := nextGrant x
  modRes fun r => { r with served := (r.served.filter fun y => y.node != n) ++ [{ x with half := g.1, epoch := g.2 }] }
  if n = d.node then applyGrant g.1 d.node n g.2 d.tokenTerm
  else sendDrs { type := 0x63, len := 1, dst := n, src := d.node, units := [tokenUnit 1 g.1 d.node n g.2 d.tokenTerm 0] }

/-- TOKEN_RENEW at a tick: a GRANT to each device served (R490). -/
def tokenRenew (tick : Nat) : M Unit := do
  passTo tick
  let d ← dev
  let l := d.tokenHolders
  modRes fun r => { r with served := r.served.filter fun x => l.contains x.node }
  each l grantTo

/-- TOKEN_EXPIRE: the current token expires and LEADER falls back (R491). -/
def tokenExpire : M Unit := do
  let d ← dev
  match d.sys.res.tokenDue with
  | none => pure ()
  | some t => do
    passTo t
    fset A.TOP_TOKEN F.TOP_TOKEN_VALID 0
    modRes fun r => { r with tokenDue := none }
    decideLeader

/-! ## Quorum messages (R493) -/

/-- The unit of a QUORUM message that this device sends, before the fields of its kind. -/
def Dev.quorumUnit (d : Dev) (kind : Nat) : Line :=
  putLe (putLe (putLe 0 0 1 kind) 1 1 (if d.isSpanMgr then d.ownIdx else 7)) 4 4 (d.fld A.TOP_QUORUM_STATUS F.TOP_QUORUM_STATUS_TERM)

def sendQuorum (dst : Nat) (u : Line) : M Unit := do
  let d ← dev
  sendDrs { type := 0x64, len := 1, dst := dst, src := d.node, units := [u] }

/-- The nodes of the other four span managers. -/
def Dev.otherManagers (d : Dev) : List Nat := ((List.range 5).filter (· != d.ownIdx)).map fun i => (Config.spanManager i).toNat

/-- BEAT, and D of R494, as they act. -/
def Dev.beat (d : Dev) : Nat := max 50000 (d.fld A.TOP_QUORUM_CFG F.TOP_QUORUM_CFG_BEAT)
def Dev.deadTime (d : Dev) : Nat := max 2 (d.fld A.TOP_QUORUM_CFG F.TOP_QUORUM_CFG_DEAD_BEATS) * d.beat

/-- LIVE: this manager and those heard within D (R494). -/
def Dev.liveMask (d : Dev) : Nat :=
  ((List.range 5).filter fun j => j == d.ownIdx || (match tget 0 d.sys.res.heard j with | 0 => false | t + 1 => decide (d.now ≤ t + d.deadTime))).foldl
    (fun acc j => acc + 2 ^ j) 0

/-- Number of managers in LIVE. -/
def liveCount (m : Nat) : Nat := ((List.range 5).filter fun j => tb m j).length

/-- A new leader is followed, 7 for none; who stops leading stops issuing tokens (R494, R490). -/
def follow (l : Nat) : M Unit := do
  let d ← dev
  fset A.TOP_QUORUM_STATUS F.TOP_QUORUM_STATUS_LEADER l
  let leads := decide (l = d.ownIdx) && decide (l < 5)
  fset A.TOP_ROLE F.TOP_ROLE_LEAD_SPAN_MGR (b2n leads)
  on (!leads && d.leadsSpan) endTakeover
  on (!leads && d.leadsSpan && !d.isGroupMgr) (modRes fun r => { r with served := [] })

/-- Whether no BEAT of a leader has come within a time. -/
def Dev.leaderSilent (d : Dev) (wait : Nat) : Bool :=
  match d.sys.res.leadBeat with | some t => decide (t + wait < d.now) | none => true

/-- BEAT_TIMER at a tick. -/
def beatTimer (tick : Nat) : M Unit := do
  passTo tick
  let d ← dev
  if d.isSpanMgr then
    let live := d.liveMask
    fset A.TOP_QUORUM_STATUS F.TOP_QUORUM_STATUS_LIVE live
    on (d.leadsSpan && decide (liveCount live < 3)) (follow 7)
    let d ← dev
    let u := putLe (putLe (d.quorumUnit 1) 8 1 live) 9 1 d.leaderIdx
    each d.otherManagers fun n => sendQuorum n u
  else pure ()

/-- LEAD_TIMEOUT: no BEAT of a leader within D + i × BEAT, and a majority is live: a new term is claimed. -/
def leadTimeout : M Unit := do
  let d ← dev
  if d.isSpanMgr ∧ d.leaderIdx ≠ d.ownIdx then
    let wait := d.deadTime + d.ownIdx * d.beat
    passTo (match d.sys.res.leadBeat with | some t => t + wait + 1 | none => wait)
    let d ← dev
    let live := d.liveMask
    fset A.TOP_QUORUM_STATUS F.TOP_QUORUM_STATUS_LIVE live
    if d.leaderSilent wait && decide (3 ≤ liveCount live) then
      let term := (d.sys.res.maxTerm + 1) % 2 ^ 32
      fset A.TOP_QUORUM_STATUS F.TOP_QUORUM_STATUS_TERM term
      modRes fun r => { r with voted := term, maxTerm := max r.maxTerm term, grants := 0 }
      let d ← dev
      each d.otherManagers fun n => sendQuorum n (d.quorumUnit 2)
    else pure ()
  else pure ()

/-! ## Votes (R497) -/

/-- Unexpired votes for a target. -/
def Dev.votesFor (d : Dev) (target : Nat) : Nat :=
  ((List.range 5).filter fun j => d.fld (A.TOP_VOTE j) F.TOP_VOTE_VALID == 1 && d.fld (A.TOP_VOTE j) F.TOP_VOTE_TARGET == target).length

/-- A vote is recorded: a newer one replaces it, WITHDRAW removes the voter's vote for the target. -/
def recordVote (j target reason : Nat) : M Unit := do
  let d ← dev
  if tb reason 7 then
    on (d.fld (A.TOP_VOTE j) F.TOP_VOTE_TARGET == target) (do
      wr (A.TOP_VOTE j) 0
      modRes fun r => { r with votedAt := tset 0 r.votedAt j 0 })
  else do
    wr (A.TOP_VOTE j) (F.TOP_VOTE_TARGET.put (F.TOP_VOTE_VALID.put (F.TOP_VOTE_REASON.put 0 reason) 1) target)
    modRes fun r => { r with votedAt := tset 0 r.votedAt j d.now }

/-- VOTE_LAPSE. -/
def voteLapse (j : Nat) : M Unit := do
  let d ← dev
  if d.fld (A.TOP_VOTE j) F.TOP_VOTE_VALID = 1 then
    passTo (tget 0 d.sys.res.votedAt j + d.fld A.TOP_QUORUM_CFG F.TOP_QUORUM_CFG_VOTE_TTL)
    wr (A.TOP_VOTE j) 0
    modRes fun r => { r with votedAt := tset 0 r.votedAt j 0 }
  else pure ()

/-! ## Announcements (R498, R501, R504) -/

/-- Set or clear a node's bit of one of the two maps. -/
def mapBit (addr : Nat → Nat) (n : Nat) (x : Bool) : M Unit := fset (addr (n % 16384 / 64)) ⟨n % 64, 1⟩ (b2n x)

/-- Where the leader sends an announcement about a node: the other span managers, the group managers, the nodes of groups without a manager,
and for a group that it manages itself the members and the node. -/
def Dev.announceTo (d : Dev) (target : Nat) : List Nat :=
  let g := groupOf target
  let direct := if d.groupMgr g == d.node || d.expelled (d.groupMgr g) || d.groupMgr g == target then [target] else []
  let mine := if d.isGroupMgr then d.groupMembers else []
  ((d.otherManagers ++ d.groups.map d.groupMgr ++ (d.orphans.flatMap d.groupClear) ++ mine).filter (fun n => n != d.node && !(d.expelled n)) ++
    direct.filter (· != d.node)).eraseDups

/-- A group manager sends an announcement on to every member and to the node it is about. -/
def relay (u : Line) (target : Nat) : M Unit := do
  let d ← dev
  on (d.isGroupMgr && !d.leadsSpan && target != d.node) (each (d.groupMembers ++ [target]).eraseDups fun n => sendQuorum n u)

/-- Devices that an announcement counts: those of the span that are neither expelled nor shadows, and the node itself where it is told as one
of them (R40, assumption log 40). -/
def Dev.announced (d : Dev) (target : Nat) (withTarget : Bool) : Nat :=
  ((List.range 16384).filter fun n => d.inSpan n && !(d.expelled n) && (!(d.shadowed n) || (withTarget && n == target))).length

/-- Completion of the command that an announcement ends: how many devices failed is a free value (log 40). -/
def announceCpl (target detail : Nat) (withTarget : Bool) : M Cpl := do
  let n ← look fun d => d.announced target withTarget
  let b ← freeBelow (n + 1)
  return { detail := detail, a := n - b, b := b }

/-- Regions whose state is lost with a device: those that it owned, or was offered, with STATEFUL set (R240). -/
def Dev.lostRegions (d : Dev) (n : Nat) : List Nat :=
  (d.own.recs.filter fun x => x.2.stateful && ((x.2.st == 2 && x.2.owner == n) || (x.2.st == 1 && x.2.pend == n))).map (·.1)

/-- Whether the state of a BOUND slot lay on an expelled node or in a region just poisoned (R499). -/
def Dev.slotLost (d : Dev) (s n : Nat) (lost : List Nat) : Bool :=
  let c := d.fld (A.RTE_SLOT_CFG s) F.RTE_SLOT_CFG_CONTEXT
  let va := (d.reg (A.RTE_SLOT_STATE s)).toNat
  d.fld (A.RTE_SLOT_CFG s) F.RTE_SLOT_CFG_STATE == 1 &&
    match d.findSeg c va with
    | some (_, g) => if g.isRemote then g.node == n else lost.contains (((g.tgt <<< 21) + (va - g.lo)) >>> 21)
    | none => false

/-- R499: the commands that use a slot whose state was lost end, and the slot is unbound. -/
def dropSlot (s : Nat) : M Unit := do
  let d ← dev
  each (d.cmd.runs.filter fun r => r.got.any fun g => g.key == Dev.slotInUse.slotKey && g.data.any fun x => bits x (2 * s) 1 == 1) fun r =>
    abortRun r Sc.aborted 0xE1 0
  unbindSlot s

/-- This device learns that it is expelled itself (R500). -/
def expelledSelf : M Unit := do
  fset A.TOP_RES_STATUS F.TOP_RES_STATUS_STATE 1
  let d ← dev
  each ((List.range 512).filter fun q => d.qcfg q F.CMD_Q_CFG_KIND == 0 && d.qstate q != Qs.disabled) fun q => do
    drainQueue q
    on (d.qstate q == Qs.halted) (do
      fset (A.CMD_Q_STATE q) F.CMD_Q_STATE_STATE Qs.draining
      settleQueue q)

/-- Dorrus ports whose partner is a node. -/
def Dev.portsTo (d : Dev) (n : Nat) : List Nat :=
  if d.standalone then [] else ((List.range 12).filter fun k => !(d.isExt (k + 4)) && d.neighbour k == n).map (· + 4)

/-- An expulsion is applied (R498 to R500). -/
def applyExpel (n : Nat) : M Unit := do
  mapBit A.TOP_EXPEL_MAP n true
  let d ← dev
  each (d.portsTo n) fun p => on (isUpState (d.linkState p) || d.linkState p == Ps.training || d.linkState p == Ps.retrain) (linkTo p Ps.down)
  modRes fun r => { r with served := r.served.filter fun x => x.node != n }
  let lost := d.lostRegions n
  let slots := (List.range 256).filter fun s => d.slotLost s n lost
  regionsOfExpelled n
  each slots dropSlot
  on (n == d.node) expelledSelf

/-- An EXPEL_VOTE of this device that waited for the expulsion completes (R497). -/
def endVoteExpelled (target : Nat) : M Unit := do
  let d ← dev
  match d.cmd.runs.find? fun r => r.goes Op.expelVote && decide (r.phase ≠ 0) && decide (r.aux.headD 0 = target) with
  | some r => if r.phase = 2 ∨ 3 ≤ d.votesFor target then setCpl r (← announceCpl target 0xE0 false) else pure ()
  | none => pure ()

/-- The leader announces an expulsion (R498). -/
def announceExpel (target : Nat) : M Unit := do
  applyExpel target
  fadd A.TOP_EXPEL_CNT F.TOP_EXPEL_CNT_COUNT 1
  let d ← dev
  let u := putLe (d.quorumUnit 5) 16 2 target
  each (d.announceTo target) fun n => sendQuorum n u
  endVoteExpelled target

/-- The leader expels a target against which it holds the votes of three managers; never itself (R497). -/
def tally (target : Nat) : M Unit := do
  let d ← dev
  on (d.leadsSpan && target != d.node && !(d.expelled target) && !(d.shadowed target) && decide (3 ≤ d.votesFor target)) (announceExpel target)

/-- This manager leads from now on; votes that it already holds are tallied, and what another leader has begun to commit is looked up (R89). -/
def becomeLeader : M Unit := do
  let d ← dev
  follow d.ownIdx
  each ((List.range 5).map fun j => d.fld (A.TOP_VOTE j) F.TOP_VOTE_TARGET).eraseDups tally
  beginTakeover

/-! ## Arrival of QUORUM messages -/

/-- Every QUORUM message of a span manager shows that it lives, and what term it has seen (R494). -/
def heardFrom (u : Line) : M Unit := do
  let d ← dev
  let j := le u 1 1
  on (decide (j < 5) && d.isSpanMgr) (modRes fun r => { r with heard := tset 0 r.heard j (d.now + 1) })

def seenTerm (u : Line) : M Unit := modRes fun r => { r with maxTerm := max r.maxTerm (le u 4 4) }

/-- BEAT of a manager: one that claims the lead in no lower term is followed. -/
def beatMsg (m : DMsg) : M Unit := do
  let u := m.units.headD 0
  let d ← dev
  heardFrom u
  seenTerm u
  if d.isSpanMgr ∧ le u 1 1 < 5 ∧ le u 9 1 = le u 1 1 then
    modRes fun r => { r with leadBeat := some d.now }
    if d.fld A.TOP_QUORUM_STATUS F.TOP_QUORUM_STATUS_TERM ≤ le u 4 4 then
      fset A.TOP_QUORUM_STATUS F.TOP_QUORUM_STATUS_TERM (le u 4 4)
      follow (le u 1 1)
    else pure ()
  else pure ()

/-- CLAIM of a manager: granted when its term is new, no leader is heard, and fewer than three votes stand against it. -/
def claimMsg (m : DMsg) : M Unit := do
  let u := m.units.headD 0
  let t := le u 4 4
  let d ← dev
  heardFrom u
  if d.isSpanMgr ∧ le u 1 1 < 5 then
    if d.sys.res.voted < t && d.sys.res.maxTerm < t && d.leaderSilent d.deadTime && decide (d.votesFor m.src < 3) then
      modRes fun r => { r with voted := t }
      sendQuorum m.src (putLe (d.quorumUnit 3) 4 4 t)
    else pure ()
  else pure ()
  seenTerm u

/-- GRANT of a manager: the second one makes this manager the leader of its term. -/
def quorumGrantMsg (m : DMsg) : M Unit := do
  let u := m.units.headD 0
  let d ← dev
  heardFrom u
  seenTerm u
  if d.isSpanMgr ∧ le u 4 4 = d.fld A.TOP_QUORUM_STATUS F.TOP_QUORUM_STATUS_TERM then
    modRes fun r => { r with grants := r.grants + 1 }
    on (d.sys.res.grants + 1 == 2) becomeLeader
  else pure ()

/-- VOTE of a manager: recorded; the leader acknowledges it and tallies. -/
def voteMsg (m : DMsg) : M Unit := do
  let u := m.units.headD 0
  let d ← dev
  heardFrom u
  seenTerm u
  if d.isSpanMgr ∧ le u 1 1 < 5 then
    recordVote (le u 1 1) (bits u 128 14) (le u 24 1)
    on d.leadsSpan (do
      sendQuorum m.src (d.quorumUnit 9)
      tally (bits u 128 14))
  else pure ()

/-- ACK of the leader: the oldest EXPEL_VOTE that waits for it completes, or waits for the expulsion that it brings about (R497). -/
def quorumAckMsg (m : DMsg) : M Unit := do
  let u := m.units.headD 0
  let d ← dev
  heardFrom u
  seenTerm u
  match d.cmd.runs.find? fun r => r.goes Op.expelVote && decide (r.phase = 1) with
  | none => pure ()
  | some r =>
    let target := r.aux.headD 0
    if le u 1 1 ≠ d.leaderIdx then pure ()
    else if d.votesFor target < 3 || tb (r.par 3 1) 0 then setCpl r (okCpl 0 0 (d.votesFor target))
    else if d.expelled target then setCpl r (← announceCpl target 0xE0 false)
    else setPhase r 2 r.aux

/-- EXPEL. -/
def expelMsg (m : DMsg) : M Unit := do
  let u := m.units.headD 0
  let target := bits u 128 14
  heardFrom u
  seenTerm u
  let d ← dev
  if d.expelled target then pure ()
  else
    relay (putLe (d.quorumUnit 5) 16 2 target) target
    applyExpel target
    endVoteExpelled target

/-- The maps that a shadow takes from the announcement: the message that carries them has no room for them, so they are free values but for
the shadow's own bits (R501, assumption log 41). -/
def freeMaps (own : Nat) : M Unit := do
  each (List.range 256) fun w => do wr (A.TOP_EXPEL_MAP w) (← freeWord)
  each (List.range 256) fun w => do wr (A.TOP_SHADOW_MAP w) (← freeWord)
  mapBit A.TOP_EXPEL_MAP own false
  mapBit A.TOP_SHADOW_MAP own true

/-- The announcement of a shadow is applied (R501). -/
def applyShadow (n primary runLen : Nat) : M Unit := do
  mapBit A.TOP_EXPEL_MAP n false
  mapBit A.TOP_SHADOW_MAP n true
  let d ← dev
  each (d.portsTo n) fun p => on (d.portEnabled p && (d.linkState p == Ps.down || d.linkState p == Ps.disabled)) (linkTo p Ps.training)
  if n = d.node then
    wr A.TOP_RES_STATUS (F.TOP_RES_STATUS_STATE.put (F.TOP_RES_STATUS_PRIMARY.put 0 primary) 2)
    modRes fun r => { r with runLen := runLen }
    freeMaps n
  else pure ()

/-- SHADOW. -/
def shadowMsg (m : DMsg) : M Unit := do
  let u := m.units.headD 0
  let target := bits u 128 14
  heardFrom u
  seenTerm u
  let d ← dev
  if d.shadowed target && target != d.node then pure ()
  else
    let v := putLe (putLe (putLe (d.quorumUnit 6) 16 2 target) 18 2 (bits u 144 14)) 20 4 (le u 20 4)
    applyShadow target (bits u 144 14) (le u 20 4)
    relay v target

/-- An admission is applied; the SHADOW_COMPARE that waits for it completes (R503, R504). -/
def applyAdmit (n : Nat) : M Unit := do
  mapBit A.TOP_SHADOW_MAP n false
  let d ← dev
  if n = d.node then
    fset A.TOP_RES_STATUS F.TOP_RES_STATUS_STATE 0
    match d.cmd.runs.find? fun r => r.goes Op.shadowCompare && decide (r.phase = 1) with
    | some r => setCpl r { detail := 0xE2, b := r.aux.headD 0 }
    | none => pure ()
  else pure ()

/-- ADMIT. -/
def admitMsg (m : DMsg) : M Unit := do
  let u := m.units.headD 0
  let target := bits u 128 14
  heardFrom u
  seenTerm u
  let d ← dev
  if d.shadowed target then
    applyAdmit target
    relay (putLe (d.quorumUnit 8) 16 2 target) target
  else pure ()

/-- CLEAN reaches the leader, which announces ADMIT (R504). -/
def cleanMsg (m : DMsg) : M Unit := do
  let u := m.units.headD 0
  let target := bits u 128 14
  heardFrom u
  seenTerm u
  let d ← dev
  if d.leadsSpan && d.shadowed target then
    applyAdmit target
    let d ← dev
    each (d.announceTo target) fun n => sendQuorum n (putLe (d.quorumUnit 8) 16 2 target)
  else pure ()

/-! ## Commands -/

/-- EXPEL_VOTE (R496, R497). -/
def expelVote (r : Run) : M Unit := do
  let d ← dev
  let target := bits (BitVec.ofNat 16 (r.par 0 2)) 0 14
  let reason := r.par 2 1 % 128 + r.par 3 1 % 2 * 128
  if r.phase ≠ 0 then pure ()
  else if !d.isSpanMgr then setCpl r (fail Sc.unsupported 0xE0)
  else if d.leaderIdx = 7 then setCpl r (fail Sc.retry 0xE0)
  else if !(d.inSpan target) then setCpl r (fail Sc.malformed 0xE0)
  else if d.expelled target || d.shadowed target then setCpl r (fail Sc.rights 0xE1)
  else
    setPhase r 1 [target, d.now + 500000]
    recordVote d.ownIdx target reason
    let u := putLe (putLe (d.quorumUnit 4) 16 2 target) 24 1 reason
    each d.otherManagers fun n => sendQuorum n u
    if d.leadsSpan then
      tally target
      again r.seq fun x => do
        let d ← dev
        setCpl x (okCpl 0 0 (d.votesFor target))
    else pure ()

/-- VOTE_TIMEOUT: the leader has not answered within 10 ms (R497). -/
def voteTimeout : M Unit := do
  let d ← dev
  match d.cmd.runs.find? fun r => r.goes Op.expelVote && decide (r.phase = 1) with
  | none => pure ()
  | some r => do
    passTo (r.aux.getD 1 0)
    setCpl r (fail Sc.timeout 0xE0)

/-- Nodes in TOP_SHADOW_MAP. -/
def Dev.shadowCount (d : Dev) : Nat := ((List.range 16384).filter d.shadowed).length

/-- SHADOW_BEGIN (R501): passed on to the leader, or carried out here by the leader. -/
def shadowBegin (r : Run) : M Unit := do
  let d ← dev
  let sh := r.par 0 2
  let pr := r.par 2 2
  let n := r.par 4 4
  if !d.isSpanMgr then setCpl r (fail Sc.unsupported 0xE0)
  else if d.leaderIdx = 7 then setCpl r (fail Sc.retry 0xE0)
  else if !(d.inSpan sh) || !(d.inSpan pr) || sh == pr || n == 0 || decide (1048576 < n) then setCpl r (fail Sc.malformed 0xE0)
  else if !d.leadsSpan then
    setPhase r awayPhase []
    openFan r true [((Config.spanManager d.leaderIdx).toNat, false)]
  else if !(d.expelled sh) || d.expelled pr || d.shadowed pr then setCpl r (fail Sc.rights 0xE1)
  else if 64 ≤ d.shadowCount then setCpl r (fail Sc.limit 0xE0)
  else
    applyShadow sh pr n
    let d ← dev
    let u := putLe (putLe (putLe (d.quorumUnit 6) 16 2 sh) 18 2 pr) 20 4 n
    each (d.announceTo sh) fun x => sendQuorum x u
    setCpl r (← announceCpl sh 0 true)

/-- Whether the parameters of a SHADOW_COMPARE meet R503. -/
def compareOk (r : Run) : Bool :=
  r.par 0 8 % 4096 == 0 && r.par 8 8 % 64 == 0 && r.par 16 8 % 4096 == 0 && decide (4096 ≤ r.par 16 8) && decide (r.par 16 8 ≤ 2 ^ 32)

/-- The tiles of a SHADOW_COMPARE that differ, as (index, digest). -/
def compareWork (d : Dev) (r : Run) : Rd (List (Nat × Nat)) := do
  let n := r.par 16 8 / 4096
  let refs ← readBytes d r (r.par 8 8) (8 * n)
  let l ← (List.range n).mapM fun t => do
    let x := tileDigest t (← readBytes d r (r.par 0 8 + 4096 * t) 4096)
    return if x = leAt refs (8 * t) 8 then none else some (t, x)
  return l.filterMap id

/-- The outcome of a SHADOW_COMPARE (R503). -/
def compareDone (r : Run) (bad : List (Nat × Nat)) : M Unit := do
  let d ← dev
  let n := r.par 16 8 / 4096
  let run := d.fld A.TOP_RES_STATUS F.TOP_RES_STATUS_RUN
  match bad with
  | (i, x) :: _ => do
    fset A.TOP_RES_STATUS F.TOP_RES_STATUS_RUN 0
    raise Ev.shadowMismatch 0 (d.fld A.TOP_RES_STATUS F.TOP_RES_STATUS_PRIMARY) none 0 0 x
    setCpl r { detail := 0xE1, a := bad.length, b := n, result := i }
  | [] =>
    if run + 1 < d.sys.res.runLen then do
      fset A.TOP_RES_STATUS F.TOP_RES_STATUS_RUN (run + 1)
      setCpl r { b := n }
    else do
      fset A.TOP_RES_STATUS F.TOP_RES_STATUS_RUN d.sys.res.runLen
      setPhase r 1 [n]
      let k ← freeBelow 5
      sendQuorum (Config.spanManager k).toNat (putLe (d.quorumUnit 7) 16 2 d.node)

/-- SHADOW_COMPARE. -/
def shadowCompare (r : Run) : M Unit := do
  let d ← dev
  if r.phase ≠ 0 then pure ()
  else if d.resState ≠ 2 then setCpl r (fail Sc.unsupported 0xE0)
  else if !(compareOk r) then setCpl r (fail Sc.malformed 0xE0)
  else runWork r compareWork (compareDone r)

/-! ## Rows -/

def execTokenRenew (tick : Nat) (s : State) : Host.Outcome State Fault Refusal := s.run (tokenRenew tick)
def execTokenExpire (s : State) : Host.Outcome State Fault Refusal := s.run tokenExpire
def execBeatTimer (tick : Nat) (s : State) : Host.Outcome State Fault Refusal := s.run (beatTimer tick)
def execLeadTimeout (s : State) : Host.Outcome State Fault Refusal := s.run leadTimeout
def execVoteLapse (i : Fin 5) (s : State) : Host.Outcome State Fault Refusal := s.run (voteLapse i.val)
def execVoteTimeout (s : State) : Host.Outcome State Fault Refusal := s.run voteTimeout
def execExpelVote (r : Req) (s : State) : Host.Outcome State Fault Refusal := s.run (onRun Op.expelVote r expelVote)
def execShadowBegin (r : Req) (s : State) : Host.Outcome State Fault Refusal := s.run (onRun Op.shadowBegin r shadowBegin)
def execShadowCompare (r : Req) (s : State) : Host.Outcome State Fault Refusal := s.run (onRun Op.shadowCompare r shadowCompare)
def execUnitAckTimeout (node : Fin 16384) (s : State) : Host.Outcome State Fault Refusal := s.run (memberTimeout node.val false)
def execUnitCplTimeout (node : Fin 16384) (s : State) : Host.Outcome State Fault Refusal := s.run (memberTimeout node.val true)

end Sys2Proof.Machine
end

