-- ==== Sys2Proof/Machine/Attest.lean ====
section
/-! DEFINITION. Attestation (R528 to R531), and PMSG messages on their way to another span (R313). -/

namespace Sys2Proof.Machine

/-! ## The report (R529, R530) -/

/-- The 48-byte entry of a domain. -/
def Dev.domEntry (d : Dev) (n : Nat) : List Byte :=
  toLe 1 n ++ toLe 1 (d.domState n) ++ toLe 1 (d.fld (A.DOM_CFG n) F.DOM_CFG_KEYED) ++ toLe 1 0 ++
    toLe 2 (d.fld (A.DOM_CFG n) F.DOM_CFG_GEN) ++ toLe 2 0 ++ toLe 4 (d.fld (A.DOM_BW n) F.DOM_BW_KEY_ID) ++ toLe 4 0 ++
    ((List.range 4).flatMap fun w => toLe 8 (d.reg (A.DOM_IDENT n w)).toNat)

/-- The domains whose entries a report covers, and its domain section. -/
def attDoms (all : Bool) (dom : Nat) : List Nat := if all then List.range 32 else [dom]
def Dev.domSection (d : Dev) (all : Bool) (dom : Nat) : List Byte := (attDoms all dom).flatMap d.domEntry

/-- Number of ACTIVE domains. -/
def Dev.activeDoms (d : Dev) : Nat := ((List.range 32).filter fun n => d.domState n == 1).length

/-- The 160-byte body of a report. -/
def Dev.reportBody (d : Dev) (all : Bool) (dom : Nat) (nonce : List Byte) : List Byte :=
  toLe 4 0x41395843 ++ toLe 1 1 ++ toLe 1 0 ++ toLe 1 (d.activeDoms + b2n all * 128) ++ toLe 1 (d.fld A.GWY_SRC_BOOT F.GWY_SRC_BOOT_BOOT) ++
    toLe 2 d.node ++ toLe 2 d.span ++ toLe 4 (d.fld A.BOOT_FW_INFO F.BOOT_FW_INFO_SVN) ++ nonce ++
    ((List.range 6).flatMap fun w => toLe 8 (d.reg (A.BOOT_FW_DIGEST w)).toNat) ++
    ((List.range 6).flatMap fun w => toLe 8 (d.reg (A.BOOT_CFG_DIGEST w)).toNat) ++
    (digestBytes (Config.sha384 (d.domSection all dom))).take 32

/-- The 256-byte report: the body and its signature by the identity key. -/
def Dev.report (d : Dev) (all : Bool) (dom : Nat) (nonce : List Byte) : List Byte :=
  let b := d.reportBody all dom nonce
  b ++ ((Config.ecdsaSign (Config.sha384 b)) ++ List.replicate 96 0).take 96

/-- The certificates, each preceded by its length. -/
def certBytes : List Byte := Config.certChain.flatMap fun c => toLe 4 c.length ++ c

/-! ## PMSG (R313) -/

/-- A PMSG with its header and payload. -/
def pmsgOf (ch stages dstSpan dstNode srcSpan srcNode : Nat) (payload : List Byte) : DMsg :=
  let l := toLe 1 ch ++ toLe 1 stages ++ toLe 2 dstSpan ++ toLe 2 dstNode ++ toLe 2 srcSpan ++ toLe 2 srcNode ++ toLe 2 payload.length ++
    toLe 4 0 ++ payload
  let n := (l.length + 63) / 64
  { type := 0x66, len := n, units := linesOf n l }

/-- Fields of a PMSG. -/
def pmsgChan (m : DMsg) : Nat := le (m.units.headD 0) 0 1
def pmsgStages (m : DMsg) : Nat := le (m.units.headD 0) 1 1
def pmsgDstSpan (m : DMsg) : Nat := le (m.units.headD 0) 2 2
def pmsgDstNode (m : DMsg) : Nat := bits (m.units.headD 0) 32 14
def pmsgSrcSpan (m : DMsg) : Nat := le (m.units.headD 0) 6 2
def pmsgSrcNode (m : DMsg) : Nat := bits (m.units.headD 0) 64 14
def pmsgPayload (m : DMsg) : List Byte := ((m.units.flatMap lineBytes).drop 16).take (min 320 (le (m.units.headD 0) 10 2))

/-- The gateway node of this span that leads to another span, from GWY_SPAN_RT: the device's own node where any valid entry names it (R313). -/
def Dev.viaNode (d : Dev) (span : Nat) : Option Nat :=
  let vias := ((List.range 64).filter fun i => d.fld (A.GWY_SPAN_RT i) F.GWY_SPAN_RT_VALID == 1 && d.fld (A.GWY_SPAN_RT i) F.GWY_SPAN_RT_SPAN == span).map
    fun i => d.fld (A.GWY_SPAN_RT i) F.GWY_SPAN_RT_VIA_NODE
  if vias.contains d.node then some d.node else vias.head?

/-- Bytes of PMSG that wait for the external link. -/
def Dev.pmsgHeld (d : Dev) : Nat :=
  let port := d.fld A.GWY_CFG F.GWY_CFG_EXT_PORT + 4
  ((d.trf.classq.filter fun e => e.port == port && (match e.msg with | .d m => m.type == 0x66 | .t _ => false)).map fun e => e.msg.size).sum

/-- A PMSG for another span is passed on: over the external link, to the gateway that leads there, or nowhere. -/
def pmsgOn (m : DMsg) : M Unit := do
  let d ← dev
  match d.viaNode (pmsgDstSpan m) with
  | none => bump A.GWY_PMSG_DROP_CNT
  | some via =>
    if via ≠ d.node then sendDrs { m with dst := via, src := d.node, hops := 0, dateline := false }
    else
      let st := pmsgStages m + 1
      if d.fld A.GWY_CFG F.GWY_CFG_EXT_EN ≠ 1 ∨ max 1 (d.fld A.GWY_CFG F.GWY_CFG_MAX_STAGES) < st ∨ 65536 < d.pmsgHeld + dmsgSize m then
        bump A.GWY_PMSG_DROP_CNT
      else
        let u := m.units.set 0 (putLe (m.units.headD 0) 1 1 st)
        sendExt none { m with dst := pmsgDstNode m, src := d.node, hops := 0, dateline := false, units := u }

/-! ## Requests and answers (R531) -/

/-- The request unit. -/
def attestReq (dom : Nat) (all : Bool) (node tag : Nat) (nonce : List Byte) : Line :=
  lineOf (toLe 1 1 ++ toLe 1 (dom + b2n all * 128) ++ toLe 2 node ++ toLe 2 tag ++ toLe 10 0 ++ nonce)

/-- The five units that answer a request. -/
def Dev.attestAns (d : Dev) (u : Line) : List Line :=
  let nonce := ((lineBytes u).drop 16).take 16
  putLe (putLe (putLe (putLe 0 0 1 2) 1 1 (le u 1 1)) 2 2 (le u 2 2)) 4 2 (le u 4 2) :: linesOf 4 (d.report (bit u 15) (bits u 8 5) nonce)

/-- Where the report of a command goes: the lines at OUT_OFF. -/
def writeReport (r : Run) (l : List Byte) : M Unit := do
  let off := r.par 16 8
  let n := (l.length + 63) / 64
  modRun r.seq fun x => { x with outs := x.outs + n }
  submit ((List.range n).map fun i =>
    ⟨writeKey (off + 64 * i), 0, .run r.seq, .wr (maskOf 0 (min 64 (l.length - 64 * i))) (lineOf (l.drop (64 * i))) 0, off / 64 + i, some r.dom, none⟩)

/-- The answer of a target reaches its requester: the report is written and the command completes. -/
def attestAnswered (units : List Line) : M Unit := do
  let d ← dev
  let u := units.headD 0
  match d.sys.boot.asks.find? fun a => a.2.1 == le u 4 2 && d.node == bits u 16 14 with
  | none => pure ()
  | some a => do
    modBoot fun b => { b with asks := b.asks.erase a }
    again a.1 fun r => do
      let l := (units.drop 1).flatMap lineBytes
      setCpl r (okCpl 0 (leAt l 6 1 % 64) 256)
      writeReport r (l.take 256)

/-- Whether the device answers attestation requests: firmware runs (R530, R531). -/
def Dev.answersAttest (d : Dev) : Bool := d.canStart

/-- A request arrives over Dorrus. -/
def attestRequestMsg (m : DMsg) : M Unit := do
  let d ← dev
  on d.answersAttest (sendDrs { type := 0x65, len := 5, dst := m.src, src := d.node, tag := m.tag, units := d.attestAns (m.units.headD 0) })

def attestAnswerMsg (m : DMsg) : M Unit := attestAnswered m.units

/-- A remote ATTEST asks its target; a request to the device itself is answered at once. -/
def askTarget (r : Run) (all : Bool) (target span : Nat) : M Unit := do
  let d ← dev
  let tag := d.fab.nextTag
  modFab fun f => { f with nextTag := (f.nextTag + 1) % 65536 }
  modBoot fun b => { b with asks := b.asks ++ [(r.seq, tag, d.now + 2500000)] }
  setPhase r 1 []
  let u := attestReq r.dom all d.node tag (r.params.take 16)
  if span ≠ d.span then pmsgOn { pmsgOf 2 0 span target d.span d.node (lineBytes u) with src := d.node }
  else if target = d.node then attestAnswered (d.attestAns u)
  else on (d.inSpan target) (sendDrs { type := 0x65, len := 1, dst := target, src := d.node, tag := tag, units := [u] })

/-- ATTEST_TIMEOUT: a target has not answered within 50 ms. -/
def attestTimeout : M Unit := do
  let d ← dev
  match d.sys.boot.asks with
  | [] => pure ()
  | a :: rest => do
    passTo a.2.2
    modBoot fun b => { b with asks := rest }
    again a.1 fun r => setCpl r (fail Sc.timeout 0xF0)

/-- Whether ATTEST's fields are in order: reserved bits zero, OUT_OFF aligned and in extents leased to the queue's port. -/
def Dev.attestOk (d : Dev) (r : Run) (len : Nat) : Bool :=
  r.par 28 1 < 4 && r.par 29 1 == 0 && r.par 30 2 / 2 ^ 14 % 2 == 0 && ((r.params.drop 34).all fun b => b == 0) && r.par 16 8 % 64 == 0 &&
    match r.queue with
    | some q => d.leasedTo (d.qcfg q F.CMD_Q_CFG_PORT) (r.par 16 8) len
    | none => true

/-- ATTEST (R528). -/
def attest (r : Run) : M Unit := do
  let d ← dev
  let all := tb (r.par 28 1) 0
  let away := tb (r.par 30 2) 15
  let out := if away then [] else d.domSection all r.dom ++ (if tb (r.par 28 1) 1 then certBytes else [])
  let need := 256 + out.length
  if r.phase ≠ 0 then pure ()
  else if !(d.attestOk r need) then setCpl r (fail Sc.malformed 0xF0)
  else if all && !(d.allDomains r.iss) then setCpl r (fail Sc.rights 0x12)
  else if r.par 24 4 < need then setCpl r { status := Sc.limit, detail := 0xF0, result := need }
  else if away then askTarget r all (r.par 30 2 % 16384) (r.par 32 2)
  else
    setCpl r (okCpl (attDoms all r.dom).length d.activeDoms need)
    writeReport r (d.report all r.dom (r.params.take 16) ++ out)

def execAttest (r : Req) (s : State) : Host.Outcome State Fault Refusal := s.run (onRun Op.attest r attest)
def execAttestTimeout (s : State) : Host.Outcome State Fault Refusal := s.run attestTimeout

end Sys2Proof.Machine
end

