-- ==== Sys2Proof/Machine/Talku.lean ====
section
/-! DEFINITION. The messages of a host on its Talku port: the checks that make one a violation (R257 to R260, R267), quarantine (R269), the
requests to the slices (R227, R228, R307), the answers to snoops (R229, R230) and to translation misses (R168, R263). -/

namespace Sys2Proof.Machine

/-! ## Violations (R267) -/

/-- Types that a host sends. -/
def hostTypes : List Nat := [0x01, 0x02, 0x03, 0x04, 0x05, 0x06, 0x07, 0x08, 0x10, 0x11, 0x20, 0x21, 0x22]

/-- Virtual channel of a host's message (R256). -/
def hostVc (type : Nat) : Nat := if type ∈ [0x07, 0x08, 0x10, 0x11] then 1 else if type ∈ [0x20, 0x21, 0x22] then 2 else 0

/-- Types that may concern several lines (R260). -/
def isMulti (type : Nat) : Bool := type ∈ [0x03, 0x04, 0x07]

/-- Lines that a message concerns. -/
def tlkLines (m : TMsg) : Nat := if isMulti m.type then max 1 m.len else 1

/-- Whether LEN is permitted for the type and the lines lie in one 4 KiB tile. -/
def tlkLenOk (m : TMsg) : Bool :=
  (if m.type = 0x03 then decide (m.len ≤ 64)
   else if m.type = 0x04 ∨ m.type = 0x07 then decide (1 ≤ m.len) && decide (m.len ≤ 64)
   else if m.type ∈ [0x05, 0x06, 0x11] then m.len == 1 else m.len == 0) &&
    (!(isMulti m.type) || decide (m.addr % 4096 / 64 + tlkLines m ≤ 64))

/-- Whether reserved bytes of a message's units are non-zero (R258, R259, R263, R307). -/
def tlkUnitsDirty (m : TMsg) : Bool :=
  if m.type ∈ [0x05, 0x20, 0x21] then m.units.any fun u => bits u 64 64 != 0
  else if m.type = 0x22 then
    let u := m.units.headD 0
    bits u 11 4 != 0 || bits u 32 96 != 0 || (bit u 15 && m.units.getD 1 0 != 0)
  else if m.type = 0x06 then !(atomClean (m.data.headD 0))
  else false

/-- Whether a credit number was ever issued to a port by a slice of the lines that a message concerns (R218, R267). -/
def Dev.creditIssuedTo (d : Dev) (p : Nat) (m : TMsg) (n : Nat) : Bool :=
  (List.range (tlkLines m)).any fun i => tget 0 d.home.issued (stackOf (m.addr + 64 * i) * 65536 + n) == p + 1

/-- Whether a snoop answer has a snoop outstanding for its line and port, or is the late ACK of a crossed recall (R229). -/
def Dev.snoopDue (d : Dev) (p : Nat) (m : TMsg) : Bool :=
  (d.home.snoops.any fun x => x.line == m.addr / 64 && x.port == p) || (m.type == 0x10 && d.home.ghosts.contains (m.addr / 64, p))

/-- Reason of the violation that a host message is, if it is one (R267): 0x02 first, then the lowest code. -/
def Dev.tlkViolation (d : Dev) (p : Nat) (i : TIn) : Option Nat :=
  let m := i.m
  if !(hostTypes.contains m.type) then some 0x02
  else if i.rsv || tlkUnitsDirty m then some 0x01
  else if !(tlkLenOk m) then some 0x03
  else if m.type ≠ 0x06 ∧ m.addr % 64 ≠ 0 then some 0x04
  else if i.vc ≠ hostVc m.type then some 0x05
  else if d.overrun p i.vc (tmsgSize m) then some 0x06
  else if (match m.credit with | some n => !(d.creditIssuedTo p m n) | none => false) then some 0x07
  else if (m.type = 0x10 ∨ m.type = 0x11) ∧ ¬ d.snoopDue p m then some 0x09
  else if m.type = 0x22 ∧ ¬ (d.missOf m.tag).any (fun x => d.ctxPort x.ctx == p) then some 0x0A
  else if m.type = 0x06 ∧ ¬ atomOk (m.data.headD 0) m.addr then some 0x0B
  else none

/-! ## Arrival -/

/-- The message leaves the inbox of its port, where its flits had put it. -/
def takeInbox (port : Nat) (m : OMsg) : M Unit := do
  let d ← dev
  on ((d.link port).inbox.head? == some m) (modLink port fun l => { l with inbox := l.inbox.drop 1 })

/-- A message arrives at a Talku port: over a link that is UP, or that it wakes. It takes its place in the receive buffer, which it gives up at
once unless the arbiter takes it over (`act` of a request); what goes beyond the credits held is discarded. A violation is answered NAK and
counted; a quarantined port answers NAK with STATUS QUARANTINED, but for what `served` lets through. -/
def hostMsg (p : Nat) (i : TIn) (served queued : Bool) (act : M Unit) : M Unit := do
  let d ← dev
  let size := tmsgSize i.m
  let extra := d.overrun p i.vc size
  if !(isUpState (d.linkState p)) then pure ()
  else do
    takeInbox p (.t i.m)
    on (d.linkState p == Ps.lowPower) (linkTo p Ps.up)
    on (!extra) (rxTake p i.vc size)
    if d.portState p = Ps.quarantined ∧ ¬ served then do
      on (!extra) (rxFree p i.vc size)
      nakTlk p i.m Sc.quarantined 0x70
    else match d.tlkViolation p i with
      | some reason => do
        on (!extra) (rxFree p i.vc size)
        if d.portState p = Ps.quarantined then nakTlk p i.m Sc.quarantined 0x70
        else do
          countViolation p reason i.m.type i.m.tag
          nakTlk p i.m 0 reason
      | none => do
        on (!queued) (rxFree p i.vc size)
        act
    checkTlkPorts

/-- A row takes messages of its own type, and any whose type no host sends (reason 0x02). -/
def rowTakes (type : Nat) (i : TIn) : Bool :=
  tmsgFits i.m && decide (i.vc < 3) && symErrsFit i.errs && (i.m.type == type || !(hostTypes.contains i.m.type))

/-! ## Requests to the slices (R227, R260) -/

/-- What each line of a request does at its home slice. -/
def tlkOps (m : TMsg) : List HOp :=
  let all := BitVec.allOnes 64
  if m.type = 0x01 then [.rdS]
  else if m.type = 0x02 then [.rdO]
  else if m.type = 0x03 then List.replicate (tlkLines m) (.rdU (!m.bulk))
  else if m.type = 0x04 then m.data.map fun v => .wr all v 0
  else if m.type = 0x05 then [.wr ((m.units.headD 0).setWidth 64) (m.data.headD 0) 0]
  else if m.type = 0x06 then
    let o := m.data.headD 0
    [.atom (m.addr % 64) (le o 0 1) (le o 1 1) (BitVec.ofNat 128 (le o 16 16)) (BitVec.ofNat 128 (le o 32 16))]
  else if m.type = 0x07 then m.data.map HOp.wb
  else [.evict]

/-- A request as it is served: BULK is for RD_U and WR_U only (R257). -/
def servedMsg (m : TMsg) : TMsg := { m with bulk := m.bulk && (m.type == 0x03 || m.type == 0x04) }

/-- A message on VC0 or VC1 reaches the arbiter of its port's half, measured by the port's meter (R319, R328, R331). A message on VC1 is a
source of its own there and is always green (R261, R330, assumption log 37); a snoop answer stands for no request to a slice. -/
def hostRequest (p : Nat) (i : TIn) : M Unit := do
  let m := servedMsg i.m
  let vc1 := hostVc m.type == 1
  let snoop := m.type == 0x10 || m.type == 0x11
  on (!snoop) (plantErrs (m.addr / 64) i.errs)
  let t ← now
  let c ← meter p (tmsgSize m)
  let reqs ← if snoop then pure [] else openGroup (.tlk p m) (tlkOps m) (m.addr / 64) none none
  arrive ⟨portEast p, if vc1 then 8 + p else p, if m.bulk && !vc1 then 3 else 1, if vc1 then 0 else c, tmsgSize m, vc1, t, .tlk p m, reqs,
    some (p, i.vc)⟩

/-- MISS_REPLY (R168). -/
def missReply (m : TMsg) : M Unit := do
  let d ← dev
  match d.missOf m.tag with
  | some x => takeReply x m.tag (m.units.headD 0) (m.units.getD 1 0)
  | none => pure ()

/-- SNOOP_TIMEOUT (R230, R267 reason 0x0C). -/
def snoopTimeout (p n : Nat) : M Unit := do
  let d ← dev
  match d.home.snoops.find? fun x => x.line == n && x.port == p with
  | none => pure ()
  | some x => do
    passTo x.due
    snoopLost n p
    bump (A.HOM_SNOOP_TO_CNT (stackOf (64 * n)))
    raise Ev.snoopTimeout (stackOf (64 * n)) p none 0 0 (64 * n)
    countViolation p 0x0C 0 0
    checkQuarantine p
    serveAll
    reserveCredits

/-! ## Rows -/

def hostRow (type p : Nat) (i : TIn) (s : State) (act : M Unit) : Host.Outcome State Fault Refusal :=
  s.runIf (rowTakes type i) (hostMsg p i false (type != 0x22) act)

def execRdS (p : Fin 4) (i : TIn) (s : State) : Host.Outcome State Fault Refusal := hostRow 0x01 p.val i s (hostRequest p.val i)
def execRdO (p : Fin 4) (i : TIn) (s : State) : Host.Outcome State Fault Refusal := hostRow 0x02 p.val i s (hostRequest p.val i)
def execRdU (p : Fin 4) (i : TIn) (s : State) : Host.Outcome State Fault Refusal := hostRow 0x03 p.val i s (hostRequest p.val i)
def execWrU (p : Fin 4) (i : TIn) (s : State) : Host.Outcome State Fault Refusal := hostRow 0x04 p.val i s (hostRequest p.val i)
def execWrUp (p : Fin 4) (i : TIn) (s : State) : Host.Outcome State Fault Refusal := hostRow 0x05 p.val i s (hostRequest p.val i)
def execTlkAtom (p : Fin 4) (i : TIn) (s : State) : Host.Outcome State Fault Refusal := hostRow 0x06 p.val i s (hostRequest p.val i)
def execWb (p : Fin 4) (i : TIn) (s : State) : Host.Outcome State Fault Refusal := hostRow 0x07 p.val i s (hostRequest p.val i)
def execEvict (p : Fin 4) (i : TIn) (s : State) : Host.Outcome State Fault Refusal := hostRow 0x08 p.val i s (hostRequest p.val i)
def execSnpAck (p : Fin 4) (i : TIn) (s : State) : Host.Outcome State Fault Refusal := hostRow 0x10 p.val i s (hostRequest p.val i)
def execSnpData (p : Fin 4) (i : TIn) (s : State) : Host.Outcome State Fault Refusal := hostRow 0x11 p.val i s (hostRequest p.val i)
def execMissReply (p : Fin 4) (i : TIn) (s : State) : Host.Outcome State Fault Refusal := hostRow 0x22 p.val i s (missReply i.m)
def execSnoopTimeout (p : Fin 4) (line : Nat) (s : State) : Host.Outcome State Fault Refusal := s.run (snoopTimeout p.val line)
def execIngressTake (east : Bool) (s : State) : Host.Outcome State Fault Refusal := s.run (do ingressTake east; checkTlkPorts)

end Sys2Proof.Machine
end

