-- ==== Sys2Proof/Machine/Dorrus.lean ====
section
/-! DEFINITION. Messages of Dorrus: the checks that make one a violation (R294 to R298), forwarding (R300, R301), requests for this device's
store (R177, R305), responses, route fences and the dead list (R301 to R306, R220), atomics (R308, R309) and the gateway (R310 to R313). -/

namespace Sys2Proof.Machine

/-! ## Violations (R294) -/

/-- Types of R298. -/
def drsTypes : List Nat := [0x01, 0x02, 0x03, 0x04, 0x41, 0x42, 0x43, 0x44, 0x45, 0x46, 0x60, 0x61, 0x62, 0x63, 0x64, 0x65, 0x66, 0x67, 0x70, 0x71, 0x7F]

/-- Types that cross an external link (R310). -/
def extTypes : List Nat := [0x66, 0x70, 0x71]

/-- Whether LEN is permitted for the type, and the lines of a memory request lie in one 4 KiB tile (R298). -/
def drsLenOk (m : DMsg) : Bool :=
  let tile := decide (m.woff % 4096 / 64 + m.len ≤ 64)
  if m.type ∈ [0x01, 0x02] then decide (1 ≤ m.len) && tile
  else if m.type = 0x41 then decide (1 ≤ m.len) && decide (m.len ≤ 64)
  else if m.type ∈ [0x03, 0x04, 0x43, 0x60, 0x61, 0x62, 0x63] then m.len == 1
  else if m.type = 0x46 then (if drsCls m.detail = 2 then m.len == 1 + le (m.units.headD 0) 1 1 % 128 else m.len == 0)
  else if m.type = 0x64 then decide (1 ≤ m.len) && decide (m.len ≤ 4)
  else if m.type = 0x65 then decide (1 ≤ m.len) && decide (m.len ≤ 5)
  else if m.type = 0x66 then decide (1 ≤ m.len) && decide (m.len ≤ 6)
  else if m.type = 0x70 then m.len == 64
  else m.len == 0

/-- A unit with the bits of some fields set, each given as first bit and width. -/
def unitMask (fields : List (Nat × Nat)) : Line := fields.foldl (fun a f => a ||| BitVec.ofNat 512 ((2 ^ f.2 - 1) <<< f.1)) 0

/-- The fields of the first unit of a type; `none` where every bit of it is used (R298, R313, R489, R493, R531). -/
def unitFields (m : DMsg) : Option (List (Nat × Nat)) :=
  if m.type = 0x03 ∨ (m.type ∈ [0x02, 0x41, 0x70] ∧ m.poison ∧ 1 < m.len) then some [(0, 64)]
  else if m.type = 0x43 then some [(0, 128)]
  else if m.type = 0x46 ∨ m.type = 0x61 then some [(0, 256)]
  else if m.type = 0x62 then some [(0, 8), (64, 64), (128, 16), (144, 8)]
  else if m.type = 0x63 then some [(0, 8), (8, 1), (16, 14), (32, 14), (64, 32), (96, 32), (128, 5)]
  else if m.type = 0x64 then some [(0, 8), (8, 8), (32, 32), (64, 8), (72, 8), (128, 14), (144, 14), (160, 32), (192, 8)]
  else if m.type = 0x65 then some (if m.len = 5 then [(0, 8), (8, 8), (16, 14), (32, 16)] else [(0, 8), (8, 5), (15, 1), (16, 14), (32, 16), (128, 128)])
  else if m.type = 0x66 then some [(0, 8), (8, 8), (16, 16), (32, 14), (48, 16), (64, 14), (80, 16), (128, 384)]
  else none

/-- Whether a reserved field of a message's units is non-zero. -/
def drsUnitsDirty (m : DMsg) : Bool :=
  match unitFields m with
  | some l => (m.units.headD 0) &&& ~~~(unitMask l) != 0
  | none => m.type == 0x04 && !(atomClean (m.units.headD 0))

/-- Whether the hop that brought a message in is the one that its ORDER and NEG give at the neighbour it came from. -/
def Dev.hopOk (d : Dev) (n : Nat) (m : DMsg) : Bool :=
  decide (m.order ≤ 5) && nextDir (d.neighbour n) m == some ((n % 6) ^^^ 1)

/-- Whether a credit number was ever issued to a node. -/
def Dev.creditKnown (d : Dev) (src num : Nat) : Bool := (List.range 8).any fun s => tget 0 d.home.issued (s * 65536 + num) == 16 + src + 1

/-- Virtual channel that a message came on: the class is an operand of its row, DETOUR and DATELINE stand in its header (R295). -/
def drsInVc (i : DIn) : Nat := 4 * i.cls + 2 * b2n i.m.detour + b2n i.m.dateline

/-- Reason of the violation that a message is, if it is one: 0x02 first, then the lowest code (R294). Whether a credit number was ever issued to
SRC is known at its destination alone. -/
def Dev.drsViolation (d : Dev) (n : Nat) (i : DIn) : Option Nat :=
  let m := i.m
  let ext := d.isExt (n + 4)
  let here := ext || m.dst == d.node
  if !(drsTypes.contains m.type) || (ext && !(extTypes.contains m.type)) then some 0x02
  else if i.rsv || drsUnitsDirty m then some 0x01
  else if !(drsLenOk m) then some 0x03
  else if i.cls ≠ drsCls m.type then some 0x04
  else if d.overrun (n + 4) (drsInVc i) (dmsgSize m) then some 0x05
  else if here && drsCls m.type == 1 && (match m.credit with | some c => !(d.creditKnown m.src c) | none => false) then some 0x06
  else if !ext && (!(d.inSpan m.dst) || !(d.inSpan m.src)) then some 0x08
  else if !ext && !(d.hopOk n m) then some 0x09
  else if m.type == 4 && !(atomEnc (m.units.headD 0) m.woff) then some 0x0A
  else none

/-- The answer to a violation: a NAK to SRC, or for an operand of R307 its CMP. -/
def nakDrs (m : DMsg) (reason : Nat) : M Unit := do
  let d ← dev
  on (d.inSpan m.src && m.src != d.node)
    (if reason = 0x0A then sendDrs { type := 0x42, dst := m.src, src := d.node, srcDomain := m.srcDomain, tag := m.tag, win := m.win,
                                     atag := m.atag, status := Sc.malformed, detail := 0x80 }
     else sendDrs { type := 0x7F, dst := m.src, src := d.node, tag := m.tag, detail := reason })

/-! ## Forwarding (R300, R301, R502) -/

/-- A message for another node is switched to its next trunk, or returned when that is unavailable or this device is a shadow. -/
def forward (n : Nat) (m : DMsg) : M Unit := do
  let d ← dev
  match nextDir d.node m with
  | none => pure ()
  | some dir =>
    if d.resState ≠ 2 && d.trunkOk dir then launch dir true none (turnDateline (some (n % 6 / 2)) dir m)
    else returnMsg m dir

/-! ## Arrival -/

/-- A message arrives at a Dorrus port: over a link that is UP, or that it wakes. It takes its place in the receive buffer, which it gives up at
once unless it is a request that waits for this device's store (`queued`, R305); what goes beyond the credits held is discarded. A quarantined
port discards every message, a violation is answered and counted, and one for another node is forwarded. -/
def drsMsg (n : Nat) (i : DIn) (queued : Bool) (act : M Unit) : M Unit := do
  let d ← dev
  let size := dmsgSize i.m
  let extra := d.overrun (n + 4) (drsInVc i) size
  if !(isUpState (d.linkState (n + 4))) then pure ()
  else do
    takeInbox (n + 4) (.d i.m)
    on (d.linkState (n + 4) == Ps.lowPower) (linkTo (n + 4) Ps.up)
    on (!extra) (rxTake (n + 4) (drsInVc i) size)
    let free := on (!extra) (rxFree (n + 4) (drsInVc i) size)
    if d.portState (n + 4) = Ps.quarantined then free
    else match d.drsViolation n i with
      | some reason => do
        free
        countViolation (n + 4) reason i.m.type i.m.src
        nakDrs i.m reason
      | none =>
        if !(d.isExt (n + 4)) && i.m.dst != d.node then do
          free
          forward n i.m
        else do
          on (!queued) free
          act
    checkQuarantine (n + 4)

/-- A row takes messages of its own type (and, where the type has kinds, of its own kind), and any whose type is unknown. -/
def drsTakes (mine : DMsg → Bool) (i : DIn) : Bool :=
  dmsgFits i.m && decide (i.cls < 4) && symErrsFit i.errs && (mine i.m || !(drsTypes.contains i.m.type))

def drsRow (n : Fin 12) (i : DIn) (mine : DMsg → Bool) (act : DMsg → M Unit) (s : State) : Host.Outcome State Fault Refusal :=
  s.runIf (drsTakes mine i) (drsMsg n.val i false (act i.m))

/-- The row of a request for this device's store, which keeps its place in the receive buffer until the delivery buffer takes it (R305). -/
def rqRow (n : Fin 12) (i : DIn) (mine : DMsg → Bool) (act : DMsg → M Unit) (s : State) : Host.Outcome State Fault Refusal :=
  s.runIf (drsTakes mine i) (drsMsg n.val i true (act i.m))

def isType (t : Nat) (m : DMsg) : Bool := m.type == t

/-- KIND in byte 0 of a management message. -/
def kindOf (m : DMsg) : Nat := le (m.units.headD 0) 0 1

/-- A message of a type and kind. A kind that no rule defines has no effect; it goes to the row of the type's first kind. -/
def isKind (t k kinds : Nat) (m : DMsg) : Bool := m.type == t && (kindOf m == k || (k == 1 && (kindOf m == 0 || decide (kinds < kindOf m))))

/-! ## Requests for this device's store (R177, R305) -/

def memRight (type : Nat) : Right := if type = 1 then .r else if type = 4 then .a else .w

/-- The lines of a message with the cause of poison that each is to be stored with: 3 where it was copied from a poisoned line, which the mask
unit of a message of several lines, or POISON of one line, says (R104, R262, assumption log 124). -/
def drsLines (m : DMsg) : List (Line × Nat) :=
  if m.poison ∧ 1 < m.len then (m.units.drop 1).zipIdx.map fun e => (e.1, if bit (m.units.headD 0) e.2 then 3 else 0)
  else m.units.map fun v => (v, if m.poison then 3 else 0)

/-- What each line of a request does at its home slice. -/
def drsOps (m : DMsg) : List HOp :=
  let all := BitVec.allOnes 64
  let u := m.units.headD 0
  if m.type = 1 then List.replicate m.len .rdE
  else if m.type = 2 then (drsLines m).map fun e => .wr all e.1 e.2
  else if m.type = 3 then [.wr (u.setWidth 64) (m.units.getD 1 0) 0]
  else [.atom (m.woff % 64) (le u 0 1) (le u 1 1) (BitVec.ofNat 128 (le u 16 16)) (BitVec.ofNat 128 (le u 32 16))]

/-- A memory request: the window table, then the meter of its source and the ingress arbiter of the half. -/
def drsRequest (n : Nat) (i : DIn) (m : DMsg) : M Unit := do
  let d ← dev
  let base : DMsg := { type := 0x42, dst := m.src, src := d.node, srcDomain := m.srcDomain, tag := m.tag, win := m.win, atag := m.atag }
  let c ← meter (16 + m.src) (dmsgSize m)
  match d.winCheck m (memRight m.type) with
  | .inl (st, dt) => do
    rxFree (n + 4) (drsInVc i) (dmsgSize m)
    bump A.STN_WIN_REJ_CNT
    sendDrsFor (some (m.win / 64)) { base with status := st, detail := dt }
  | .inr (off, dom, cls) => do
    let m' := { m with woff := off }
    plantErrs (off / 64) i.errs
    let reqs ← openGroup (.drs m') (drsOps m) (off / 64) (some dom) (some cls)
    arrive ⟨portEast (n + 4), 16 + m.src, 2, c, dmsgSize m, false, d.now, .drs m', reqs, some (n + 4, (drsInVc i))⟩

/-! ## Held requests and route fences (R220, R302, R303) -/

def modOutst (tag : Nat) (f : Outst → Outst) : M Unit := modFab fun x => { x with out := x.out.map fun o => if o.m.tag == tag then f o else o }

/-- A request goes onto the fabric now: its waiting time starts. -/
def sendNow (o : Outst) : M Unit := do
  let d ← dev
  let o' := { o with due := d.now + d.rspTimeout, returned := false, heldBack := false, copies := max 1 o.copies,
                     atomStart := if o.heldBack ∨ o.copies = 0 then d.now else o.atomStart }
  modOutst o.m.tag fun _ => o'
  launchRq o'

/-- Requests that were held for a destination leave in their issue order, as long as nothing holds them again. -/
def sendHeld (dst : Nat) : List Outst → M Unit
  | [] => pure ()
  | o :: rest => do
    let d ← dev
    if d.fab.fences.contains dst then pure ()
    else do
      sendNow o
      sendHeld dst rest

/-- What was held for a destination goes on when no fence and no unadmitted request is left. -/
def releaseHeld (dst : Nat) : M Unit := do
  let d ← dev
  let waits := d.fab.fences.contains dst || d.fab.out.any fun o => o.m.dst == dst && (o.credWait.isSome || o.m.credit.isSome)
  if waits then pure () else sendHeld dst (d.fab.out.filter fun o => o.m.dst == dst && o.heldBack)

/-- A remote request of this device ends. -/
def endRemote (o : Outst) (g : Got) : M Unit := do
  dropOutst o.m.tag
  giveRun o.seq { g with key := o.key }
  releaseHeld o.m.dst

/-- The fence of a destination: the route is chosen anew, the returned requests are sent again, then the held ones (R303). An atomic is sent with
RETX = 1, but one that has not been sent since its CREDIT_READY (no copy of its new schedule) with RETX = 0 (R308). -/
def resendAll (dst : Nat) : List Outst → M Unit
  | [] => pure ()
  | o :: rest => do
    let d ← dev
    if d.fab.fences.contains dst then pure ()
    else do
      let again := o.m.type == 4 && o.copies != 0
      on again (bump A.GWY_RETX_CNT)
      sendNow { o with m := { o.m with retx := again } }
      resendAll dst rest

/-- ROUTE_FENCE_RELEASE: every request already sent has been answered, returned or ended. -/
def fenceRelease (dst : Nat) : M Unit := do
  let d ← dev
  let mine := d.fab.out.filter fun o => o.m.dst == dst
  if !(d.fab.fences.contains dst) || mine.any (fun o => !o.returned && !o.heldBack && o.credWait.isNone) then pure ()
  else
    modFab fun f => { f with fences := f.fences.filter (· != dst) }
    match d.chooseRoute dst with
    | none => do
      modFab fun f => { f with routes := tset 0 f.routes dst 0 }
      each mine fun o => do
        dropOutst o.m.tag
        giveRun o.seq { key := o.key, status := Sc.timeout, detail := 0x81 }
    | some c => do
      modFab fun f => { f with routes := tset 0 f.routes dst (1 + c.1 * 8 + c.2) }
      resendAll dst (mine.filter (·.returned))
      releaseHeld dst

/-- DEAD_AGE as it acts: not below HOLD_DOWN. -/
def Dev.deadAge (d : Dev) : Nat := max d.holdDown (d.fld A.GWY_SW_CFG F.GWY_SW_CFG_DEAD_AGE)

/-- DEAD_ENTRY_AGE_OUT of a slot of the dead list. -/
def deadAgeOut (slot : Nat) : M Unit := do
  let d ← dev
  if d.fab.dead.any fun e => e.1 == slot then
    let tick := bits (d.reg (A.GWY_DEAD slot)) 32 32
    passTo (d.now - (d.now % 2 ^ 32 + 2 ^ 32 - tick) % 2 ^ 32 + d.deadAge)
    modFab fun f => { f with dead := f.dead.filter fun e => e.1 != slot }
    wr (A.GWY_DEAD slot) 0
  else pure ()

/-! ## Responses (R298, R306, R308) -/

/-- The outstanding request that a response answers; one that answers nothing is discarded (R306). -/
def Dev.answered (d : Dev) (m : DMsg) : Option Outst := d.fab.out.find? fun o => o.m.tag == m.tag && o.m.dst == m.src && !o.heldBack

/-- The home does not hold this device as the owner of a region any more: its entry leaves the owned table (R239). -/
def ownLost (node off : Nat) : M Unit := do
  let d ← dev
  match d.own.ownedHere.find? fun x => x.1 == node && x.2.1 == off with
  | none => pure ()
  | some x =>
    modOwn fun o => { o with ownedHere := o.ownedHere.filter fun y => y != x }
    raise Ev.ownLost 0 node none 0 x.2.2 off

/-- DATA. One that answers the fill of an owned-region copy says whether its lines may be retained (R239). -/
def dataMsg (m : DMsg) : M Unit := do
  let d ← dev
  match d.answered m with
  | none => pure ()
  | some o =>
    let many := m.poison && decide (1 < m.len)
    let mask := if many then (le (m.units.headD 0) 0 8) else b2n m.poison
    on (o.m.type == 1) (do
      let fill := decide (o.m.atag ≠ 0)
      on (fill && m.atag != o.m.atag) (ownLost o.m.dst ((Config.windowBase o.m.dst o.m.win + o.m.woff) >>> 21 <<< 21))
      endRemote o { key := o.key, detail := m.detail, poison := mask, data := if many then m.units.drop 1 else m.units, keep := fill && m.atag == o.m.atag })

/-- CMP. -/
def cmpMsg (m : DMsg) : M Unit := do
  let d ← dev
  match d.answered m with
  | none => pure ()
  | some o => do
    on (m.status == Sc.indeterminate) (bump A.GWY_INDET_CNT)
    endRemote o { key := o.key, status := m.status, detail := m.detail }

/-- ARES. -/
def aresMsg (m : DMsg) : M Unit := do
  let d ← dev
  match d.answered m with
  | none => pure ()
  | some o => on (o.m.type == 4 && o.m.atag == m.atag) (endRemote o { key := o.key, data := m.units })

/-- RETRY: the request waits for its credit; an atomic's schedule pauses and its wait runs from now (R218, R306, R308). -/
def retryMsg (m : DMsg) : M Unit := do
  let d ← dev
  match d.answered m with
  | none => pure ()
  | some o => modOutst o.m.tag fun o => { o with credWait := some (m.credit.getD 0), returned := false, m := { o.m with credit := none },
                                                  due := if o.m.type = 4 then d.now + d.rspTimeout else o.due }

/-- CREDIT_READY: the request is sent again with its credit; an atomic's schedule starts again. -/
def creditReadyMsg (m : DMsg) : M Unit := do
  let d ← dev
  match d.fab.out.find? fun o => o.m.tag == m.tag && o.m.dst == m.src && o.credWait == some (m.credit.getD 0) with
  | none => pure ()
  | some o => do
    let o' := { o with credWait := none, m := { o.m with credit := o.credWait, retx := false }, copies := 1, atomStart := d.now }
    if d.fab.fences.contains o.m.dst then modOutst o.m.tag fun _ => { o' with returned := true, copies := 0 } else sendNow o'

/-- NOROUTE: its trunk enters the dead list; a returned request starts the fence of its destination, a returned response is sent again alone
(R301 to R303). -/
def norouteMsg (m : DMsg) : M Unit := do
  addDead m.failNode m.failDir
  let d ← dev
  if drsCls m.detail = 2 then
    let r := dmsgOfHeader (lineBytes (m.units.headD 0))
    sendDrs { r with src := d.node, hops := 0, dateline := false, units := m.units.drop 1 }
  else if drsCls m.detail = 1 then
    match d.fab.out.find? fun o => o.m.tag == m.tag && o.m.type == m.detail && o.m.win == m.win && o.m.atag == m.atag && !o.heldBack with
    | none => pure ()
    | some o => do
      modOutst o.m.tag fun o => { o with returned := true }
      modFab fun f => { f with fences := if f.fences.contains o.m.dst then f.fences else f.fences ++ [o.m.dst] }
  else pure ()

/-- RSP_TIMEOUT (R306); of an atomic, the wait for its credit (R308). -/
def rspExpire (tag : Nat) : M Unit := do
  let d ← dev
  match d.outst tag with
  | none => pure ()
  | some o =>
    if o.heldBack then pure ()
    else if o.m.type ≠ 4 then do
      passTo o.due
      bump A.GWY_RSP_TO_CNT
      endRemote o { key := o.key, status := Sc.timeout, detail := 0x80 }
    else if o.credWait.isSome then do
      passTo o.due
      bump A.GWY_INDET_CNT
      endRemote o { key := o.key, status := Sc.indeterminate, detail := 0x80 }
    else pure ()

/-- Ticks after its first sending at which an atomic's copies 2 to 5 are sent, and its end. -/
def atomSchedule (copies : Nat) : Nat := [800, 2400, 5600, 12000].getD (copies - 1) 16000

/-- ATOM_RESEND_TIMER: the next copy of an atomic falls due, or none is left (R308). -/
def atomResend (tag : Nat) : M Unit := do
  let d ← dev
  match d.outst tag with
  | none => pure ()
  | some o =>
    if o.heldBack || o.m.type != 4 || o.credWait.isSome || o.copies == 0 then pure ()
    else do
      passTo (o.atomStart + atomSchedule o.copies)
      if 5 ≤ o.copies then do
        bump A.GWY_INDET_CNT
        endRemote o { key := o.key, status := Sc.indeterminate, detail := 0x80 }
      else do
        let o' := { o with copies := o.copies + 1, m := { o.m with retx := true } }
        modOutst tag fun _ => if o.returned ∨ d.fab.fences.contains o.m.dst then { o with copies := o.copies + 1 } else o'
        if o.returned ∨ d.fab.fences.contains o.m.dst then pure ()
        else do
          bump A.GWY_RETX_CNT
          launchRq o'

/-- REPLAY_ENTRY_EXPIRE: an entry leaves the replay table at an age of 12,800 to 16,000 AON cycles (R309). -/
def replayExpire (src atag age : Nat) : M Unit := do
  let d ← dev
  match d.fab.replay.find? fun e => e.src == src && e.atag == atag with
  | none => pure ()
  | some e => do
    passTo (e.tick + age)
    dropReplay e

/-! ## The gateway (R311 to R313) -/

/-- Whether a dirty tile is ready for shipping. -/
def Dev.shipReady (d : Dev) (x : Dirty) : Bool :=
  x.lines == BitVec.allOnes 64 || decide (x.since + d.fld A.GWY_CFG F.GWY_CFG_COALESCE ≤ d.now)

/-- Whether a line cannot be read at its home now: its stack, a repair of its pseudo-channel, a snoop, or an earlier request of the line. -/
def Dev.lineWaits (d : Dev) (n : Nat) : Bool :=
  (!(d.stackServes (stackOf (64 * n))) && !(d.stackFailed (stackOf (64 * n)))) || d.repairing (64 * n) ||
    d.home.snoops.any (·.line == n) || d.home.waiting.any (·.line == n)

/-- COALESCE_EXPIRE: the time has passed for the dirty tile that waits longest. -/
def coalesceExpire : M Unit := do
  let d ← dev
  match d.fab.dirty.find? fun x => !(d.shipReady x) with
  | none => pure ()
  | some x => passTo (x.since + d.fld A.GWY_CFG F.GWY_CFG_COALESCE)

/-- GATEWAY_SHIP: the first ready tile is read at its homes and sent (R312). A tile that the channel's domain may not read is dropped. One whose
lines cannot be read yet waits: for its stacks, a repair, or earlier requests and recalls of its lines (R102, R187). The message says which of
its lines are poisoned (R104, R262). -/
def gatewayShip : M Unit := do
  let d ← dev
  match d.fab.dirty.find? d.shipReady with
  | none => pure ()
  | some x =>
    let off := F.GWY_CHAN1_OUT.of (d.reg (A.GWY_CHAN1 x.chan)) * 2 ^ 21 + 4096 * x.tile
    let w0 := d.reg (A.GWY_CHAN0 x.chan)
    let dom := F.GWY_CHAN0_DOMAIN.of w0
    let lines := (List.range 64).map fun i => off / 64 + i
    if 256 ≤ d.fab.bulk.length ∨ d.fld A.GWY_CFG F.GWY_CFG_EXT_EN ≠ 1 then pure ()
    else if (lines.any fun n => (d.refusal (64 * n) (some dom) none).isSome) || F.GWY_CHAN0_VALID.of w0 == 0 then
      modFab fun f => { f with dirty := f.dirty.erase x }
    else if lines.any d.lineWaits then pure ()
    else do
      each lines fun n => do touchLine n; settleRead none n false
      let d ← dev
      if lines.any d.lineWaits then pure ()
      else do
        modFab fun f => { f with dirty := f.dirty.erase x }
        each lines fun n => countRind false n
        let tag := d.fab.nextTag
        let peer := d.fld (A.DRS_STATUS (d.fld A.GWY_CFG F.GWY_CFG_EXT_PORT)) F.DRS_STATUS_PEER_NODE
        modFab fun f => { f with nextTag := (f.nextTag + 1) % 65536, bulk := f.bulk ++ [(tag, d.now)] }
        fadd A.GWY_SHIP_CNT ⟨0, 48⟩ 1
        let bad := (lines.zipIdx.map fun e => if d.poisonOf e.1 != 0 then 2 ^ e.2 else 0).sum
        sendExt (some dom) { type := 0x70, len := 64, dst := peer, src := d.node, srcDomain := dom, tag := tag, win := F.GWY_CHAN0_PEER_CHAN.of w0,
                             woff := 4096 * x.tile, poison := decide (bad ≠ 0),
                             units := (if bad ≠ 0 then [BitVec.ofNat 512 bad] else []) ++ lines.map d.line }

/-- BULK_WR lands: 64 whole-line writes, then the record line and BULK_ACK; one with no place to land is discarded (R312). Lines that were
poisoned at the source land poisoned (R104). -/
def bulkWrMsg (n : Nat) (m : DMsg) : M Unit := do
  let d ← dev
  let k := m.win
  let w0 := d.reg (A.GWY_CHAN0 k)
  if !(decide (3 ≤ k) && decide (k < 64) && F.GWY_CHAN0_VALID.of w0 == 1) || decide ((F.GWY_CHAN0_LEN_M1.of w0 + 1) * 2 ^ 21 < m.woff + 4096) then
    raise Ev.badLanding 0 k none 0 0 m.woff
  else
    let base := F.GWY_CHAN1_IN.of (d.reg (A.GWY_CHAN1 k)) * 2 ^ 21 + m.woff
    let ops := (drsLines m).map fun e => HOp.wr (BitVec.allOnes 64) e.1 e.2
    let reqs ← openGroup (.land m) ops (base / 64) (some (F.GWY_CHAN0_DOMAIN.of w0)) none
    arrive ⟨portEast (n + 4), 12, 3, 0, dmsgSize m, false, d.now, .land m, reqs, none⟩

/-- BULK_ACK. -/
def bulkAckMsg (m : DMsg) : M Unit := modFab fun f => { f with bulk := f.bulk.filter fun b => b.1 != m.tag }

/-- The QUORUM messages by kind. -/
def quorumMsg (m : DMsg) : M Unit :=
  match kindOf m with
  | 1 => beatMsg m
  | 2 => claimMsg m
  | 3 => quorumGrantMsg m
  | 4 => voteMsg m
  | 5 => expelMsg m
  | 6 => shadowMsg m
  | 7 => cleanMsg m
  | 8 => admitMsg m
  | 9 => quorumAckMsg m
  | _ => pure ()

/-- UNIT_CMD, which is also a wake event (R540). -/
def unitCmdRow (m : DMsg) : M Unit := do
  unitCmdMsg m
  wakeEvent 5

/-- The payload of a PMSG is delivered at this node as the message of its channel. An attestation request is answered by PMSG. -/
def pmsgHere (m : DMsg) : M Unit := do
  let d ← dev
  let us := linesOf (((pmsgPayload m).length + 63) / 64) (pmsgPayload m)
  let x : DMsg := { len := us.length, dst := d.node, src := m.src, units := us }
  if pmsgChan m = 0 then unitCmdRow { x with type := 0x60 }
  else if pmsgChan m = 1 then quorumMsg { x with type := 0x64 }
  else if pmsgChan m = 2 then
    if kindOf x = 1 then
      on d.answersAttest (pmsgOn { pmsgOf 2 0 (pmsgSrcSpan m) (pmsgSrcNode m) d.span d.node ((d.attestAns (us.headD 0)).flatMap lineBytes) with src := d.node })
    else if kindOf x = 2 then attestAnswered us
    else pure ()
  else bump A.GWY_PMSG_DROP_CNT

/-- PMSG (R313). -/
def pmsgMsg (m : DMsg) : M Unit := do
  let d ← dev
  if max 1 (d.fld A.GWY_CFG F.GWY_CFG_MAX_STAGES) < pmsgStages m then bump A.GWY_PMSG_DROP_CNT
  else if pmsgDstSpan m ≠ d.span then pmsgOn m
  else if pmsgDstNode m = d.node then pmsgHere m
  else if 2 < pmsgChan m then bump A.GWY_PMSG_DROP_CNT
  else
    let us := linesOf (((pmsgPayload m).length + 63) / 64) (pmsgPayload m)
    sendDrs { type := [0x60, 0x64, 0x65].getD (pmsgChan m) 0x65, len := us.length, dst := pmsgDstNode m, src := d.node, units := us }

/-! ## Rows -/

def execForward (p : Fin 12) (i : DIn) (s : State) : Host.Outcome State Fault Refusal :=
  s.runIf (dmsgFits i.m && decide (i.cls < 4)) (do
    let d ← dev
    on (!(drsTypes.contains i.m.type) || i.m.dst != d.node) (drsMsg p.val i false (pure ())))
def execRd (p : Fin 12) (i : DIn) (s : State) : Host.Outcome State Fault Refusal := rqRow p i (isType 0x01) (drsRequest p.val i) s
def execWr (p : Fin 12) (i : DIn) (s : State) : Host.Outcome State Fault Refusal := rqRow p i (isType 0x02) (drsRequest p.val i) s
def execWrp (p : Fin 12) (i : DIn) (s : State) : Host.Outcome State Fault Refusal := rqRow p i (isType 0x03) (drsRequest p.val i) s
def execDrsAtom (p : Fin 12) (i : DIn) (s : State) : Host.Outcome State Fault Refusal := rqRow p i (isType 0x04) (drsRequest p.val i) s
def execDrsData (p : Fin 12) (i : DIn) (s : State) : Host.Outcome State Fault Refusal := drsRow p i (isType 0x41) dataMsg s
def execDrsCmp (p : Fin 12) (i : DIn) (s : State) : Host.Outcome State Fault Refusal := drsRow p i (isType 0x42) cmpMsg s
def execAres (p : Fin 12) (i : DIn) (s : State) : Host.Outcome State Fault Refusal := drsRow p i (isType 0x43) aresMsg s
def execDrsRetry (p : Fin 12) (i : DIn) (s : State) : Host.Outcome State Fault Refusal := drsRow p i (isType 0x44) retryMsg s
def execDrsCreditReady (p : Fin 12) (i : DIn) (s : State) : Host.Outcome State Fault Refusal := drsRow p i (isType 0x45) creditReadyMsg s
def execNoroute (p : Fin 12) (i : DIn) (s : State) : Host.Outcome State Fault Refusal := drsRow p i (isType 0x46) norouteMsg s
/-- NAK: the spec gives its arrival no effect; the request it answers ends as R306 gives. -/
def execDrsNak (p : Fin 12) (i : DIn) (s : State) : Host.Outcome State Fault Refusal := drsRow p i (isType 0x7F) (fun _ => pure ()) s
def execRouteFenceRelease (node : Fin 16384) (s : State) : Host.Outcome State Fault Refusal := s.run (fenceRelease node.val)
def execDeadEntryAgeOut (i : Fin 64) (s : State) : Host.Outcome State Fault Refusal := s.run (deadAgeOut i.val)
def execRspTimeout (tag : Nat) (s : State) : Host.Outcome State Fault Refusal := s.runIf (decide (tag < 65536)) (rspExpire tag)
def execAtomResendTimer (tag : Nat) (s : State) : Host.Outcome State Fault Refusal := s.runIf (decide (tag < 65536)) (atomResend tag)
def execReplayEntryExpire (src : Fin 16384) (atag : Nat) (age : Nat) (s : State) : Host.Outcome State Fault Refusal :=
  s.runIf (decide (atag < 2 ^ 24) && decide (12800 ≤ age) && decide (age ≤ 16000)) (replayExpire src.val atag age)
def execCoalesceExpire (s : State) : Host.Outcome State Fault Refusal := s.run coalesceExpire
def execGatewayShip (s : State) : Host.Outcome State Fault Refusal := s.run gatewayShip
def execBulkWr (p : Fin 12) (i : DIn) (s : State) : Host.Outcome State Fault Refusal := drsRow p i (isType 0x70) (bulkWrMsg p.val) s
def execBulkAck (p : Fin 12) (i : DIn) (s : State) : Host.Outcome State Fault Refusal := drsRow p i (isType 0x71) bulkAckMsg s
def execPmsg (p : Fin 12) (i : DIn) (s : State) : Host.Outcome State Fault Refusal := drsRow p i (isType 0x66) pmsgMsg s
def execUnitCmd (p : Fin 12) (i : DIn) (s : State) : Host.Outcome State Fault Refusal := drsRow p i (isType 0x60) unitCmdRow s
def execUnitAck (p : Fin 12) (i : DIn) (s : State) : Host.Outcome State Fault Refusal := drsRow p i (isType 0x67) unitAckMsg s
def execUnitCpl (p : Fin 12) (i : DIn) (s : State) : Host.Outcome State Fault Refusal := drsRow p i (isType 0x61) unitCplMsg s
def execOwnOffer (p : Fin 12) (i : DIn) (s : State) : Host.Outcome State Fault Refusal := drsRow p i (isKind 0x62 1 6) ownMsg s
def execAccept (p : Fin 12) (i : DIn) (s : State) : Host.Outcome State Fault Refusal := drsRow p i (isKind 0x62 2 6) ownMsg s
def execOwnRelease (p : Fin 12) (i : DIn) (s : State) : Host.Outcome State Fault Refusal := drsRow p i (isKind 0x62 3 6) ownMsg s
def execReleased (p : Fin 12) (i : DIn) (s : State) : Host.Outcome State Fault Refusal := drsRow p i (isKind 0x62 4 6) ownMsg s
def execOwnReclaim (p : Fin 12) (i : DIn) (s : State) : Host.Outcome State Fault Refusal := drsRow p i (isKind 0x62 5 6) ownMsg s
def execOwnAnswer (p : Fin 12) (i : DIn) (s : State) : Host.Outcome State Fault Refusal := drsRow p i (isKind 0x62 6 6) ownMsg s
def execTokenGrant (p : Fin 12) (i : DIn) (s : State) : Host.Outcome State Fault Refusal :=
  drsRow p i (isKind 0x63 1 2) (fun m => on (kindOf m == 1) (tokenGrantMsg m)) s
def execTokenAck (p : Fin 12) (i : DIn) (s : State) : Host.Outcome State Fault Refusal := drsRow p i (isKind 0x63 2 2) tokenAckMsg s
def execBeat (p : Fin 12) (i : DIn) (s : State) : Host.Outcome State Fault Refusal := drsRow p i (isKind 0x64 1 9) quorumMsg s
def execClaim (p : Fin 12) (i : DIn) (s : State) : Host.Outcome State Fault Refusal := drsRow p i (isKind 0x64 2 9) quorumMsg s
def execQuorumGrant (p : Fin 12) (i : DIn) (s : State) : Host.Outcome State Fault Refusal := drsRow p i (isKind 0x64 3 9) quorumMsg s
def execVote (p : Fin 12) (i : DIn) (s : State) : Host.Outcome State Fault Refusal := drsRow p i (isKind 0x64 4 9) quorumMsg s
def execExpel (p : Fin 12) (i : DIn) (s : State) : Host.Outcome State Fault Refusal := drsRow p i (isKind 0x64 5 9) quorumMsg s
def execShadow (p : Fin 12) (i : DIn) (s : State) : Host.Outcome State Fault Refusal := drsRow p i (isKind 0x64 6 9) quorumMsg s
def execClean (p : Fin 12) (i : DIn) (s : State) : Host.Outcome State Fault Refusal := drsRow p i (isKind 0x64 7 9) quorumMsg s
def execAdmit (p : Fin 12) (i : DIn) (s : State) : Host.Outcome State Fault Refusal := drsRow p i (isKind 0x64 8 9) quorumMsg s
def execQuorumAck (p : Fin 12) (i : DIn) (s : State) : Host.Outcome State Fault Refusal := drsRow p i (isKind 0x64 9 9) quorumMsg s
def execAttestRequest (p : Fin 12) (i : DIn) (s : State) : Host.Outcome State Fault Refusal :=
  drsRow p i (isKind 0x65 1 2) (fun m => on (kindOf m == 1) (attestRequestMsg m)) s
def execAttestAnswer (p : Fin 12) (i : DIn) (s : State) : Host.Outcome State Fault Refusal := drsRow p i (isKind 0x65 2 2) attestAnswerMsg s

end Sys2Proof.Machine
end

