-- ==== Sys2Proof/Machine/Csr.lean ====
section
/-! DEFINITION. Register accesses: what an access reads of a register whose value is a view of other state, what a write does beside storing
bits (R10 and the maps of every block), the refusals of R577, and the rows CSR_READ, CSR_WRITE and REGISTER_WRITE (R79). -/

namespace Sys2Proof.Machine

/-! ## The definition of a register by its address -/

/-- The address of the first instance of the register that an address names; beyond the CSR space where it names none. -/
def regBase (a : Nat) : Nat := match regAt a with | some g => g.base | none => 2 ^ 24

/-- The first index of the register that an address names. -/
def regInst (a : Nat) : Nat := match regAt a with | some g => g.inst a | none => 0

/-- The second index of the register that an address names. -/
def regInst2 (a : Nat) : Nat := match regAt a with
  | some g => if g.s2 = 0 then 0 else (a - g.base - g.inst a * g.s1) / g.s2
  | none => 0

/-- The RW and the W1C bits of a register (R10). -/
def rwMask (a : Nat) : Word := match regAt a with | some g => BitVec.ofNat 64 g.rw | none => 0
def w1cMask (a : Nat) : Word := match regAt a with | some g => BitVec.ofNat 64 g.w1c | none => 0

/-- Whether a register is changed only by staged change. -/
def stagedOnly (a : Nat) : Bool := match regAt a with | some g => g.staged | none => false

/-! ## Views (the registers whose fields show other state) -/

/-- How many numbers below a bound have a property. -/
def countBelow (n : Nat) (p : Nat → Bool) : Nat := ((List.range n).filter p).length

/-- Bit i for each i below a bound that has a property. -/
def bitsBelow (n : Nat) (p : Nat → Bool) : Nat := ((List.range n).map fun i => if p i then 2 ^ i else 0).sum

/-- TOP_NODE with GROUP and POS (R52), and the AON cycles until the token expires (R506). -/
def Dev.viewNode (d : Dev) : Word :=
  F.TOP_NODE_POS.put (F.TOP_NODE_GROUP.put (d.reg A.TOP_NODE) (groupOf d.node)) (posOf d.node)
def Dev.tokenLeft (d : Dev) : Nat := match d.sys.res.tokenDue with | some t => t - d.now | none => 0

/-- AON cycles throttled, the present throttling included (R551). -/
def Dev.viewThrottle (d : Dev) : Nat :=
  let add := if d.fld A.PWR_STATUS F.PWR_STATUS_THROTTLED = 1 then d.now - d.sys.pwr.thrSince else 0
  min (2 ^ 48 - 1) (d.fld A.PWR_THROTTLE_CNT ⟨0, 48⟩ + add)

/-- CMD_Q_STATE with IN_FLIGHT (R90). -/
def Dev.viewQState (d : Dev) (q : Nat) : Word :=
  F.CMD_Q_STATE_IN_FLIGHT.put (d.reg (A.CMD_Q_STATE q)) (b2n (d.cmd.runs.any fun r => r.iss == .q q))

/-- DOM_USE and DOM_STATUS (R155). -/
def Dev.viewDomUse (d : Dev) (n : Nat) : Word :=
  let q := countBelow 512 fun q => d.qcfg q F.CMD_Q_CFG_ENABLE == 1 && d.qcfg q F.CMD_Q_CFG_DOMAIN == n
  F.DOM_USE_EXTENTS.put (F.DOM_USE_QUEUES.put (F.DOM_USE_WINDOWS_OPEN.put (d.reg (A.DOM_USE n)) (d.openWins n)) q)
    (countBelow 384 fun e => d.extDom e == n)
def Dev.viewDomStatus (d : Dev) : Word :=
  F.DOM_STATUS_SEALED_EXT.put
    (F.DOM_STATUS_KEYED.put (F.DOM_STATUS_ACTIVE.put 0 (countBelow 32 fun n => d.domState n == 1))
      (countBelow 32 fun n => d.fld (A.DOM_CFG n) F.DOM_CFG_KEYED == 1))
    (countBelow 384 fun e => d.extCls e == 1)

/-- STN_STATUS (R184). -/
def Dev.viewStn (d : Dev) : Word :=
  F.STN_STATUS_CTX_BOUND.put (F.STN_STATUS_MISS_OUT.put (d.reg A.STN_STATUS) (d.stn.misses.filter fun m => m.tag.isSome).length)
    (countBelow 256 d.ctxBound)

/-- HOM_SL_STATUS: the requests of a slice are in its tracker, up to 512, and behind it in the ingress queue (R217, R222, R249). -/
def Dev.viewSlice (d : Dev) (s : Nat) : Word :=
  F.HOM_SL_STATUS_LOAD.put
    (F.HOM_SL_STATUS_CREDITS_OUT.put
      (F.HOM_SL_STATUS_QUEUE_USED.put (F.HOM_SL_STATUS_TRK_USED.put 0 (min 512 (d.atSlice s).length)) (d.queueUsed s)) (d.creditsOut s))
    (d.load s)

/-- HOM_SL_CREDIT: OLDEST is NEXT when no credit is outstanding (R249). -/
def Dev.viewCredit (d : Dev) (s : Nat) : Word :=
  let v := d.reg (A.HOM_SL_CREDIT s)
  F.HOM_SL_CREDIT_OLDEST.put v (match d.home.credits.find? fun c => c.slc == s with | some c => c.num | none => F.HOM_SL_CREDIT_NEXT.of v)

/-- HOM_DC_USE: the entries of a slice's directory cache by state (R224, R249). -/
def Dev.viewDc (d : Dev) (s : Nat) : Word :=
  let n (st : Nat) : Nat := (d.home.dc.filter fun e => stackOf (64 * e.line) == s && (dirDecode e.dir).1 == st).length
  F.HOM_DC_USE_SHARED.put (F.HOM_DC_USE_OWNED.put 0 (n 2)) (n 1)

/-- HOM_OWN_REC: the record of the region that HOM_OWN_SEL names (R249). -/
def Dev.viewOwnRec (d : Dev) : Word :=
  let g := d.fld A.HOM_OWN_SEL F.HOM_OWN_SEL_REGION
  let x := d.ownRec g
  if 196608 ≤ g then 0
  else BitVec.ofNat 64 (x.st % 4 + b2n x.stateful * 4 + b2n x.reclaimed * 8 + (if x.st = 0 then d.node else x.owner % 16384) * 2 ^ 4
    + (if x.st = 1 then x.pend % 16384 else 0) * 2 ^ 18 + x.epoch % 65536 * 2 ^ 32)

/-- HOM_OWN_STATUS (R249). -/
def Dev.viewOwn (d : Dev) : Word :=
  F.HOM_OWN_STATUS_OWNED_HERE.put (F.HOM_OWN_STATUS_GRANTED.put 0 (d.own.recs.filter fun e => e.2.st == 1).length) d.own.ownedHere.length

/-- LSE_STATUS (R287). -/
def Dev.viewLse (d : Dev) : Word :=
  F.LSE_STATUS_MULTI.put
    (F.LSE_STATUS_FENCED.put (F.LSE_STATUS_ASSIGNED.put (d.reg A.LSE_STATUS) (countBelow 384 fun e => d.extState e == Xs.assigned))
      (countBelow 384 fun e => d.extState e == Xs.fenced))
    (countBelow 384 fun e => d.extState e == Xs.assigned && decide (1 < portCount (d.holders e)))

/-- TLK_LEASE_MAP: the extents leased to a port (R286). -/
def Dev.viewMap (d : Dev) (p w : Nat) : Word :=
  BitVec.ofNat 64 (bitsBelow 64 fun i => d.extState (64 * w + i) == Xs.assigned && tb (d.holders (64 * w + i)) p)

/-- The registers of the switch and the gateway (R316, R317). -/
def Dev.viewSwitch (d : Dev) : Word :=
  F.GWY_SW_STATUS_REPLAY_USED.put (F.GWY_SW_STATUS_FENCED.put (F.GWY_SW_STATUS_DEAD_USED.put 0 d.fab.dead.length) d.fab.fences.length)
    d.fab.replay.length
def Dev.viewGateway (d : Dev) : Word :=
  let up := d.fld A.GWY_CFG F.GWY_CFG_EXT_EN == 1 && isUpState (d.portState (4 + d.fld A.GWY_CFG F.GWY_CFG_EXT_PORT))
  F.GWY_STATUS_QUEUED.put (F.GWY_STATUS_EXT_UP.put (d.reg A.GWY_STATUS) (b2n up)) d.fab.dirty.length
def Dev.viewDrs (d : Dev) (n : Nat) : Word := F.DRS_STATUS_EXT.put (d.reg (A.DRS_STATUS n)) (b2n (d.isExt (4 + n)))

/-- TRF_SHP_STAT with HELD: KiB waiting in the domain's shaper queues, rounded up (R337). -/
def Dev.viewShaper (d : Dev) (n : Nat) : Word :=
  let held := ((d.trf.shaper.filter fun e => e.dom == some n).map fun e => e.msg.size).sum
  F.TRF_SHP_STAT_HELD.put (d.reg (A.TRF_SHP_STAT n)) (min 65535 ((held + 1023) / 1024))

/-- The registers of a stream engine (R407) and of a staging SRAM (R214, R408). -/
def Dev.jobAt (d : Dev) (t : Nat) : Option Job := d.eng.jobs.find? fun j => j.first == t
def Dev.winAt (d : Dev) (t : Nat) : Option Window := d.eng.wins.find? fun w => w.first == t
def Dev.viewStr (d : Dev) (t : Nat) : Word :=
  let out := (d.cmd.runs.filter fun r => (match r.iss with | .bg _ => true | _ => false) && r.aux.getD 0 1 == 0 && r.aux.getD 1 64 == t).length
  let busy := d.eng.wins.any fun w => decide (d.power < 2) && (w.nextAt t).isSome
  F.STR_STATUS_FETCHING.put (F.STR_STATUS_OUTSTANDING.put 0 (min 64 out)) (b2n busy)
def viewJob (j : Job) : Word :=
  BitVec.ofNat 64 (j.st % 4 + j.queue % 512 * 2 ^ 8 + j.dom % 32 * 2 ^ 24 + (if j.st = 1 then j.slots % 512 else 0) * 2 ^ 32)
def viewWindow (w : Window) : Word :=
  let resident := (w.span.filter fun n => w.layerDone n && (w.ended n).all fun x => x.2.1 == 0).length
  BitVec.ofNat 64 (1 + w.w % 16 * 2 + w.layers.length % 512 * 2 ^ 8 + w.cur % 256 * 2 ^ 24 + (w.fetchLayer.getD 0) % 256 * 2 ^ 32
    + min 15 resident * 2 ^ 40)
def Dev.viewStr2 (d : Dev) (b t : Nat) : Word :=
  match d.jobAt t with
  | none => 0
  | some j =>
    if b = A.STR_JOB_CFG 0 then viewJob j
    else if j.st ≠ 1 then 0
    else if b = A.STR_JOB_STAGE 0 then BitVec.ofNat 64 j.stage
    else if b = A.STR_JOB_NEAR 0 then BitVec.ofNat 64 j.near
    else BitVec.ofNat 64 j.far
def Dev.viewRsv (d : Dev) (t : Nat) : Word :=
  F.STG_RSV_JOBS.put (F.STG_RSV_RESERVED.put 0 ((d.jobsAt t).map (·.stage)).sum) (d.jobsAt t).length

/-- CRD_RPL_STATUS (R437) and SRH_STATUS (R465). -/
def Dev.viewRpl (d : Dev) : Word :=
  F.CRD_RPL_STATUS_MIGRATING.put
    (F.CRD_RPL_STATUS_QUEUED.put (F.CRD_RPL_STATUS_ROWS.put 0 d.rplLive.length) (d.rplLive.map fun e => e.waiting.length).sum)
    (d.rplLive.filter fun e => e.migr.isSome || d.migrating e.key).length
def Dev.viewSrh (d : Dev) : Word :=
  let n (l : List Nat) : Nat := (d.cmd.runs.filter fun r => l.contains r.op && r.cpl.isNone && r.queue.isSome).length
  F.SRH_STATUS_MERGING.put
    (F.SRH_STATUS_SIDE_BUSY.put (F.SRH_STATUS_SEARCHES.put (F.SRH_STATUS_INDICES.put 0 d.tracked.length) (n [Op.search, Op.bitwise]))
      (n [Op.sideAppend, Op.sideDelete])) (n [Op.merge])

/-- RTE_STATUS (R372) and TCP_BACKFILL (R371). -/
def Dev.viewRte (d : Dev) : Word :=
  F.RTE_STATUS_BUSY.put (d.reg A.RTE_STATUS) (b2n (d.cmd.runs.any fun r => r.op == Op.route && r.cpl.isNone))
def Dev.viewBackfill (d : Dev) (t : Nat) : Word := F.TCP_BACKFILL_BF_OK.put (d.reg (A.TCP_BACKFILL t)) (b2n (d.backfillOk t))

/-- What a register shows, for the registers of the spine; `none` for a register that shows what is stored. -/
def Dev.viewSpine (d : Dev) (b i : Nat) : Option Word :=
  if b = A.TOP_NODE then some d.viewNode
  else if b = A.TOP_TOKEN_LEFT then some (BitVec.ofNat 64 (min (2 ^ 32 - 1) d.tokenLeft))
  else if b = A.PWR_THROTTLE_CNT then some (BitVec.ofNat 64 d.viewThrottle)
  else if b = A.CLK_AON_TICK then some (BitVec.ofNat 64 d.now)
  else if b = A.EVQ_X_COUNT 0 then some (BitVec.ofNat 64 (d.evq.queue i).length)
  else if b = A.CMD_Q_STATE 0 then some (d.viewQState i)
  else if b = A.DOM_USE 0 then some (d.viewDomUse i)
  else if b = A.DOM_STATUS then some d.viewDomStatus
  else if b = A.STN_STATUS then some d.viewStn
  else if b = A.HOM_OWN_REC then some d.viewOwnRec
  else if b = A.HOM_OWN_STATUS then some d.viewOwn
  else if b = A.LSE_STATUS then some d.viewLse
  else if b = A.GWY_SW_STATUS then some d.viewSwitch
  else if b = A.GWY_STATUS then some d.viewGateway
  else if b = A.TRF_SHP_STAT 0 then some (d.viewShaper i)
  else if b = A.CRD_RPL_STATUS then some d.viewRpl
  else if b = A.SRH_STATUS then some d.viewSrh
  else if b = A.RTE_STATUS then some d.viewRte
  else none

/-- What a register shows, for the registers of slices, ports and tiles. -/
def Dev.viewHalf (d : Dev) (b i j : Nat) : Option Word :=
  if b = A.HOM_SL_STATUS 0 then some (d.viewSlice i)
  else if b = A.HOM_SL_CREDIT 0 then some (d.viewCredit i)
  else if b = A.HOM_DC_USE 0 then some (d.viewDc i)
  else if b = A.TLK_LEASE_MAP 0 0 then some (d.viewMap i j)
  else if b = A.DRS_STATUS 0 then some (d.viewDrs i)
  else if b = A.TCP_BACKFILL 0 then some (d.viewBackfill i)
  else if b = A.STR_STATUS 0 then some (d.viewStr i)
  else if b ∈ [A.STR_JOB_CFG 0, A.STR_JOB_STAGE 0, A.STR_JOB_NEAR 0, A.STR_JOB_FAR 0] then some (d.viewStr2 b i)
  else if b = A.STR_WIN 0 then some (match d.winAt i with | some w => viewWindow w | none => 0)
  else if b = A.STR_WIN_NEED 0 then some (match d.winAt i with | some w => BitVec.ofNat 64 w.need | none => 0)
  else if b = A.STG_RSV 0 then some (d.viewRsv i)
  else if b = A.STG_RET_LINES 0 then some (BitVec.ofNat 64 (d.own.ret.filter fun x => x.tile == i).length)
  else none

/-- The value of a register as an access reads it, but for what only a running engine shows. -/
def Dev.view (d : Dev) (a : Nat) : Word :=
  let b := regBase a
  ((d.viewSpine b (regInst a)).orElse fun _ => d.viewHalf b (regInst a) (regInst2 a)).getD (d.reg a)

/-! ## What a running engine shows -/

/-- The primary MATMUL on a tile, and the one in its backfill context. -/
def Dev.matmulAt (d : Dev) (t : Nat) (bf : Bool) : Option Run :=
  d.cmd.runs.find? fun r => r.op == Op.matmul && r.cpl.isNone && r.bf == bf && match r.queue with | some q => (d.tiles q).contains t | none => false

/-- A free value below a bound while a condition holds, and zero otherwise. -/
def freeIf (c : Bool) (n : Nat) : M Nat := if c then freeBelow n else pure 0

/-- MTX_STATUS: which cells of its tiles a MATMUL uses at a moment the spec leaves open (assumption log 3). -/
def showCell (t : Nat) : M Word := do
  let d ← dev
  let busy ← freeIf (d.matmulAt t false).isSome 2
  let bf ← freeIf (d.matmulAt t true).isSome 2
  let fmts := match d.matmulAt t false with
    | some r => if busy = 1 then (mmOf r).af % 16 * 4 + (mmOf r).wf % 16 * 64 + (mmOf r).sparse % 4 * 1024 else 0
    | none => 0
  return BitVec.ofNat 64 (busy + bf * 2 + fmts)

/-- RATIO of a factored tensor, where its header can be read now. -/
def Dev.ratioOf (d : Dev) (r : Run) : Option Nat :=
  match (lrHeader d r (mmOf r)).run.run {} with
  | (.ok l, _) => some (le l.data 0 1 % 4)
  | _ => none

/-- XPD_STATUS: whether strips are being expanded and how many are held the spec leaves open. -/
def showExpander (t : Nat) : M Word := do
  let d ← dev
  let lr (bf : Bool) : Option Run := (d.matmulAt t bf).bind fun r => if (mmOf r).lr then some r else none
  let busy ← freeIf (lr false).isSome 2
  let bf ← freeIf (lr true).isSome 2
  let held ← freeIf ((lr false).isSome || (lr true).isSome) 17
  match lr false with
  | none => return BitVec.ofNat 64 (bf * 2 + held * 2 ^ 16)
  | some r =>
    let other ← freeBelow 4
    let ratio := (d.ratioOf r).getD other
    return BitVec.ofNat 64 (busy + bf * 2 + ratio * 4 + lrRank (mmOf r).wf ratio % 32 * 16 + (mmOf r).wf % 16 * 2 ^ 9 + held * 2 ^ 16)

/-- TSR_STATUS: a tile search unit with work of a SEARCH, MERGE or BITWISE of its tile's queue. -/
def showSearch (t : Nat) : M Word := do
  let d ← dev
  let on_ (l : List Nat) : Bool := d.cmd.runs.any fun r => l.contains r.op && r.cpl.isNone && match r.queue with | some q => (d.tiles q).contains t | none => false
  let busy ← freeIf (on_ [Op.search, Op.merge, Op.bitwise]) 2
  let n ← freeIf (on_ [Op.search]) 33
  return BitVec.ofNat 64 (busy + n * 2 ^ 8)

/-- CRD_STATUS: a command on an engine, prefetches in progress, the reads that have been asked for; how many keys the coalescing table holds
at a moment the spec leaves open. -/
def showCurd (n : Nat) : M Word := do
  let d ← dev
  let mine := d.cmd.runs.filter fun r => isCurd r.op && r.cpl.isNone && r.queue.isSome && d.crdRun r == n
  let pf := d.eng.pf.any fun s => s.items ≠ [] && d.crdOf s.queue == n
  let out := (mine.map fun r => (r.asked.filter fun k => !(r.got.any fun g => g.key == k)).length).sum
  let held ← freeIf (mine.any fun r => r.op == Op.gatherPool) 4097
  return BitVec.ofNat 64 (b2n (mine ≠ []) + b2n pf * 2 + min 512 out * 2 ^ 8 + held * 2 ^ 32)

/-- GES_STATUS: how many lines of its extent a sanitisation has written the spec leaves open. -/
def showLines : M Word := do
  let v ← rd A.GES_STATUS
  let n ← freeIf (bit v 0) (2 ^ 24 + 1)
  return F.GES_STATUS_LINE.put v n

/-- A read of a register by an access that has been allowed: zero in a half held in reset (R49); a read of EVQ_X_POP takes a record (R478). -/
def readReg (a : Nat) : M Word := do
  let d ← dev
  let b := regBase a
  if d.inDownHalf a then return 0
  else if b = A.EVQ_X_POP 0 then popQueue (regInst a) []
  else if b = A.MTX_STATUS 0 0 then showCell (regInst a)
  else if b = A.XPD_STATUS 0 then showExpander (regInst a)
  else if b = A.TSR_STATUS 0 then showSearch (regInst a)
  else if b = A.CRD_STATUS 0 then showCurd (regInst a)
  else if b = A.GES_STATUS then showLines
  else return d.view a

/-! ## Writes -/

/-- A number held to a range. -/
def clamp (lo hi x : Nat) : Nat := max lo (min hi x)

/-- A register value with the fields that read back as the value that acts (R114, R157, R408, R551). -/
def canonReg (a : Nat) (v : Word) : Word :=
  let b := regBase a
  if b = A.GES_CFG then F.GES_CFG_RATE.put v (clamp 250 8000 (F.GES_CFG_RATE.of v))
  else if b = A.STK_CFG 0 then F.STK_CFG_THROTTLE_C.put v (clamp 85 100 (F.STK_CFG_THROTTLE_C.of v))
  else if b = A.PWR_THERM_CFG then F.PWR_THERM_CFG_THROTTLE_C.put v (clamp 85 105 (F.PWR_THERM_CFG_THROTTLE_C.of v))
  else if b = A.STG_CFG 0 then F.STG_CFG_FLOOR.put v (max 1 (F.STG_CFG_FLOOR.of v))
  else v

/-- Store the RW bits written and clear the W1C bits written as 1 (R10). -/
def storeBits (a : Nat) (v m : Word) : M Unit := do
  on (a == A.PWR_THROTTLE_CNT) (do
    let d ← dev
    wr a (BitVec.ofNat 64 d.viewThrottle)
    modPwr fun p => { p with thrSince := d.now })
  let old ← rd a
  let rw := rwMask a &&& m
  wr a (canonReg a (((old &&& ~~~rw) ||| (v &&& rw)) &&& ~~~(v &&& m &&& w1cMask a)))

/-- What a write to a register of the AON blocks TOP, PWR, BOOT and EVQ does beside storing bits: `x` holds the bits written as 1. -/
def actAon (b : Nat) (x m : Word) : M Unit :=
  if b = A.TOP_FATAL_STICKY then on (bit x 16) clearSticky
  else if b = A.TOP_WDT_PET then do
    on (bit x 0) (pet false)
    on (bit x 1) (pet true)
  else if b = A.PWR_CTRL then on (bit x 0) (wakeEvent 4)
  else if b = A.PWR_IN_CTRL then each (List.range 3) fun k => on (bit x (4 + k)) (unmask k)
  else if b = A.BOOT_CTRL then do
    on (bit x 0) startOk
    on (bit x 1) clearFails
    on (bit x 2) bootCtrlReset
  else if b = A.BOOT_IMG_DATA then on (m != 0) (bootImgData x)
  else if b = A.BOOT_IMG_CTRL then do
    on (bit x 0) imgBegin
    on (bit x 1) imgEnd
  else if b = A.BOOT_MBOX_DB then on (bit x 0) mboxGo
  else if b = A.EVQ_CTRL then each (List.range 3) fun k => on (bit x k) (flushQueue k)
  else if b = A.EVQ_TRACE_MARK then on (m != 0) (traceMark x)
  else pure ()

/-- What a write to a register of the CMD block does beside storing bits. -/
def actCmd (b q : Nat) (x m : Word) : M Unit :=
  if b = A.CMD_Q_CFG 0 then on (bit m 0) (if bit x 0 then queueEnable q else queueDisable q)
  else if b = A.CMD_Q_DB 0 then on (bits m 0 16 != 0) (cmdQDb q (bits x 0 16))
  else if b = A.CMD_Q_CQ_DB 0 then on (bits m 0 16 != 0) (cmdQCqDb q (bits x 0 16))
  else if b = A.CMD_Q_STATE 0 then on (bit x 8) (queueReset q)
  else pure ()

/-- A port's ENABLE has been written: the port moves where the bit has changed (R286, R316). -/
def enableWritten (port : Nat) (old x m : Word) : M Unit := on (bit m 0 && bit x 0 != bit old 0) (portEnable port (bit x 0))

/-- What a write to a register of the link, traffic and stack blocks does beside storing bits. -/
def actLinks (b i : Nat) (old x m : Word) : M Unit :=
  if b = A.TLK_CFG 0 then enableWritten i old x m
  else if b = A.DRS_CFG 0 then enableWritten (4 + i) old x m
  else if b = A.TLK_CTRL 0 then do
    on (bit x 0) (retrainPort i)
    on (bit x 1) (releasePort i)
    on (bit x 2) (declareLost i 4)
  else if b = A.DRS_CTRL 0 then do
    on (bit x 0) (retrainPort (4 + i))
    on (bit x 1) (releasePort (4 + i))
  else if b = A.TRF_SAMPLE then on (bit x 17) clearHist
  else if b = A.STK_REPAIR 0 then on (bit x 16) (startRepair i (bits x 0 6) (bits x 8 6))
  else pure ()

/-- Whether a register sets a rate that a shaper or a meter takes up at a later edge (R326, R329). -/
def isRateReg (b : Nat) : Bool := b == A.DOM_BW 0 || b == A.TLK_LIMIT 0 || b == A.TRF_NODE_METER

/-- What a write does beside storing bits: `old` is the register before it, `x` holds the bits written as 1, `m` the bits written. -/
def act (a : Nat) (old x m : Word) : M Unit := do
  let b := regBase a
  if a < 0x50000 then actAon b x m
  else if a < 0x58000 then actCmd b (regInst a) x m
  else do
    let d ← dev
    on (isRateReg b && d.reg a != old) (noteChange a old)
    actLinks b (regInst a) old x m

/-- A write of the bits of a mask by an access that has been allowed; ignored in a half held in reset (R49, R79). -/
def writeReg (a : Nat) (v m : Word) : M Unit := do
  let d ← dev
  if d.inDownHalf a then pure ()
  else
    storeBits a v m
    act a (d.reg a) (v &&& m) m

/-! ## Refusals (R577) -/

/-- Orders 2 to 4 of R577. -/
def addrRefusal (a : Nat) : Option (Nat × Nat) :=
  if 2 ^ 24 ≤ a then some (Sc.malformed, 0x05)
  else if a % 8 ≠ 0 then some (Sc.malformed, 0x04)
  else if !(assigned a) then some (Sc.unsupported, 0x0B)
  else none

/-- Whether a write covers a descriptor field other than ENABLE of a queue that is not DISABLED (order 6). -/
def Dev.descriptorHeld (d : Dev) (a : Nat) (m : Word) : Bool :=
  let b := regBase a
  let other := if b = A.CMD_Q_CFG 0 then rwMask a &&& ~~~1#64 else if b = A.CMD_Q_RING 0 ∨ b = A.CMD_Q_CQ 0 then rwMask a else 0
  (m &&& other != 0) && d.qstate (regInst a) != Qs.disabled

/-- The refusal of a CSR_WRITE, if any (R577). -/
def Dev.writeRefusal (d : Dev) (a : Nat) (m : Word) : Option (Nat × Nat) :=
  if m = 0 then some (Sc.malformed, 0x06)
  else match addrRefusal a with
  | some x => some x
  | none =>
    if stagedOnly a then some (Sc.unsupported, 0x0D)
    else if d.descriptorHeld a m then some (Sc.unsupported, 0x0F)
    else none

/-- Whether the device is in minimal mode, and whether an address is reachable there (R517). -/
def Dev.minimal (d : Dev) : Bool := d.fld A.BOOT_STATUS F.BOOT_STATUS_STAGE == 6
def inMinimal (a : Nat) : Bool := decide (a < 0x50000)

/-- Whether a command of the mailbox names a register out of its reach. -/
def Dev.mboxBarred (d : Dev) (r : Run) (a : Nat) : Bool := r.iss == .mbox && d.minimal && !(inMinimal a)

/-! ## CSR_READ and CSR_WRITE (R79) -/

/-- CSR_READ. -/
def csrRead (r : Run) : M Unit := do
  let d ← dev
  let a := r.par 0 8
  if d.mboxBarred r a then setCpl r (fail Sc.unsupported 0xF0)
  else match addrRefusal a with
    | some (st, dt) => setCpl r (fail st dt)
    | none =>
      let v ← readReg a
      setCpl r (okCpl 0 0 v.toNat)

/-- A CSR_WRITE with STAGED = 1 adds its change to the set; it is checked as an entry of a STAGE is (R83, R86). -/
def stageWrite (r : Run) (a : Nat) (v m : Word) : M Unit :=
  if m = 0 then setCpl r (fail Sc.malformed 0x06)
  else match addrRefusal a with
    | some (st, dt) => setCpl r (fail st dt)
    | none =>
      if m &&& ~~~(rwMask a) ≠ 0 then setCpl r (fail Sc.malformed 0x07)
      else stageChanges r [(a, v, m)]

/-- CSR_WRITE: the result is the register's value before the write. -/
def csrWrite (r : Run) : M Unit := do
  let d ← dev
  let a := r.par 0 8
  let v := BitVec.ofNat 64 (r.par 8 8)
  let m := BitVec.ofNat 64 (r.par 16 8)
  if d.mboxBarred r a then setCpl r (fail Sc.unsupported 0xF0)
  else if r.isStaged then stageWrite r a v m
  else match d.writeRefusal a m with
    | some (st, dt) => setCpl r (fail st dt)
    | none =>
      let old ← if regBase a = A.EVQ_X_POP 0 then pure 0 else readReg a
      setCpl r (okCpl 0 0 old.toNat)
      writeReg a v m

/-- REGISTER_WRITE: a write of a register by a path that reaches every register; a refused one has no effect. -/
def registerWrite (a : Nat) (v m : Word) : M Unit := do
  let d ← dev
  on (d.writeRefusal a m).isNone (writeReg a v m)

def execCsrRead (r : Req) (s : State) : Host.Outcome State Fault Refusal := s.run (onRun Op.csrRead r csrRead)
def execCsrWrite (r : Req) (s : State) : Host.Outcome State Fault Refusal := s.run (onRun Op.csrWrite r csrWrite)
def execRegisterWrite (addr : Nat) (value mask : Word) (s : State) : Host.Outcome State Fault Refusal := s.run (registerWrite addr value mask)

end Sys2Proof.Machine
end

