-- ==== Sys2Proof/Machine/Change.lean ====
section
/-! DEFINITION. Staged change: STAGE, CHECK with the rules of every block, COMMIT with its edge and its end, ABANDON, and the expiry of a set
(R33, R34, R81 to R88, R137, R145, R180, R242, R273, R310, R311, R408, R527, R544). -/

namespace Sys2Proof.Machine

/-! ## The state table (R82) -/

/-- Where a command stands towards the set: its column of R82. -/
inductive Gate where
  | empty
  | own
  | locked
  | refused (status detail : Nat)
deriving DecidableEq, Repr

/-- The column of R82 for a command with a SET_ID. -/
def Dev.gate (d : Dev) (r : Run) (id : Nat) : Gate :=
  if d.setState = setEmpty then .empty
  else if d.setState = setLocked then if d.setId = id then .locked else .refused Sc.retry 0x13
  else if d.setOwner ≠ r.owner then .refused Sc.retry 0x13
  else if d.setId ≠ id then .refused Sc.checkFailed 0x16
  else .own

/-! ## STAGE (R82, R83) -/

/-- The entries of a STAGE. -/
def stageEntries (r : Run) : List (Nat × Word × Word) :=
  (List.range (r.par 4 2)).map fun i => (r.par (16 + 24 * i) 8, BitVec.ofNat 64 (r.par (24 + 24 * i) 8), BitVec.ofNat 64 (r.par (32 + 24 * i) 8))

/-- The refusal of one entry of a STAGE, if any (R83). -/
def entryRefusal (e : Nat × Word × Word) : Option (Nat × Nat) :=
  match addrRefusal e.1 with
  | some x => some x
  | none => if e.2.2 = 0 then some (Sc.malformed, 0x06) else if e.2.2 &&& ~~~(rwMask e.1) ≠ 0 then some (Sc.malformed, 0x07) else none

/-- The set is opened or its entries are replaced. -/
def openSet (r : Run) (id : Nat) (t : Tbl (BitVec 64 × BitVec 64)) : M Unit := do
  fset A.CMD_STAGE_STATUS F.CMD_STAGE_STATUS_OWNER r.owner
  fset A.CMD_STAGE_STATUS F.CMD_STAGE_STATUS_SET_ID id
  putEntries t

/-- STAGE. -/
def stage (r : Run) : M Unit := do
  let d ← dev
  let id := r.par 0 4
  let count := r.par 4 2
  if d.committing then pure ()
  else if count = 0 ∨ 64 < count ∨ (1 < count ∧ r.ptr = 0) then setCpl r (fail Sc.malformed 0x06)
  else match d.gate r id with
    | .refused st dt => setCpl r (fail st dt)
    | .locked => setCpl r (fail Sc.retry 0x13)
    | _ =>
      match (stageEntries r).findSome? entryRefusal with
      | some (st, dt) => setCpl r (fail st dt)
      | none =>
        let t := mergeEntries d.staged.entries (stageEntries r)
        if 256 < t.length then setCpl r (fail Sc.limit 0x15)
        else
          openSet r id t
          setCpl r (okCpl t.length 0 0)

/-! ## CHECK (R84) -/

/-- A rule that a staged set breaks: its DETAIL and the address of the first offending field. -/
abbrev Broken := Nat × Nat

/-- Whether the set holds a register of an address range. -/
def Dev.touches (d : Dev) (lo hi : Nat) : Bool := d.staged.entries.any fun e => decide (lo ≤ e.1) && decide (e.1 < hi)

/-- Fields whose map states a range and not how other values act, with their least and largest value (R84, R286, R317,
assumption log 68). -/
def rangedFields : List (Nat × Fld × Nat × Nat) := [
  (A.TLK_LIMIT 0, F.TLK_LIMIT_RATE, 0, 950),
  (A.GWY_CHAN0 3, F.GWY_CHAN0_PEER_CHAN, 3, 63)]

/-- Whether a staged entry holds a value outside the range of its field. -/
def Dev.outOfRange (d : Dev) (e : Nat × BitVec 64 × BitVec 64) : Bool :=
  rangedFields.any fun f => regBase e.1 == regBase f.1 && f.2.1.of e.2.2 != 0 &&
    (let x := d.stagedFld e.1 f.2.1; decide (x < f.2.2.1) || decide (f.2.2.2 < x))

/-- Whether three dimensions are a permitted set (R26), from the fields of TOP_SPAN_DIM. -/
def dimsPermitted (x y z : Nat) : Bool :=
  (x == 1 && y == 1 && z == 1) || (x % 4 == 0 && y % 4 == 0 && z % 4 == 0 && decide (x ≤ 16) && decide (y ≤ 32) && decide (z ≤ 32))

/-- The organisation rules (R33), lowest DETAIL first. -/
def Dev.brokenRoles (d : Dev) : Option Broken :=
  let role := d.stagedReg A.TOP_ROLE
  let f := d.stagedFld
  let dx := f A.TOP_SPAN_DIM F.TOP_SPAN_DIM_DIM_X_M1 + 1
  let dy := f A.TOP_SPAN_DIM F.TOP_SPAN_DIM_DIM_Y_M1 + 1
  let dz := f A.TOP_SPAN_DIM F.TOP_SPAN_DIM_DIM_Z_M1 + 1
  let node := bits (d.stagedReg A.TOP_NODE) 0 14
  let members := d.stagedReg A.TOP_GROUP_MEMBERS
  let idx := F.TOP_ROLE_SPAN_MGR_IDX.of role
  let alone := dx == 1 && dy == 1 && dz == 1
  let power := if bit role 2 then 1 else if bit role 0 || bit role 1 then 2 else 3
  if !(dimsPermitted dx dy dz) then some (0x20, A.TOP_SPAN_DIM)
  else if dx ≤ nodeX node ∨ dy ≤ nodeY node ∨ dz ≤ nodeZ node then some (0x21, A.TOP_NODE)
  else if bit role 1 && !(bit role 0) && decide (5 ≤ (dx / 4) * (dy / 4) * (dz / 4)) then some (0x22, A.TOP_ROLE)
  else if bit role 2 && (bit role 0 || bit role 1) then some (0x23, A.TOP_ROLE)
  else if (if bit role 1 then decide (4 < idx) else idx != 0) then some (0x24, A.TOP_ROLE)
  else if alone && bits role 0 3 != 0 then some (0x25, A.TOP_ROLE)
  else if (if bit role 0 then !(bit members (posOf node)) else members != 0) then some (0x26, A.TOP_GROUP_MEMBERS)
  else if !alone && decide (power < d.power) then some (0x27, A.TOP_ROLE)
  else none

/-- The address of a register where the set changes some of its bits. -/
def Dev.changes (d : Dev) (a : Nat) (mask : Word) : Option Nat := if (d.stagedReg a ^^^ d.reg a) &&& mask ≠ 0 then some a else none

/-- A change of the node number or of SPAN_ID while an extent is SEALED (R145). -/
def Dev.brokenTweak (d : Dev) : Option Broken :=
  let hit := (d.changes A.TOP_NODE 0x3FFF#64).orElse fun _ => d.changes A.TOP_SPAN_DIM 0xFFFF00000000#64
  if (List.range 384).any fun e => d.extCls e == 1 then hit.map fun a => (0x30, a) else none

/-- Staged creates and destroys (R137). -/
def Dev.brokenDomains (d : Dev) : Option Broken :=
  let bad (n : Nat) : Bool :=
    (d.stagedCreates.contains n && (d.domState n != 0 || decide (256 < d.slotQuotaSum + d.stagedQuotaSum))) ||
      (d.stagedDestroys.contains n && d.domState n != 1)
  ((List.range 32).find? bad).map fun n => (0x34, A.DOM_CFG n)

/-- Staged opens and closes of windows, against the staged and committed state together (R180). -/
def Dev.brokenWindows (d : Dev) : Option Broken :=
  let isOpen (n : Nat) : Bool := bit (d.stagedReg (A.STN_WIN n)) 0
  let bad (n : Nat) : Bool :=
    let dom := n / 64
    let others := countBelow 64 fun i => 64 * dom + i != n && isOpen (64 * dom + i)
    let quota := d.stagedFld (A.DOM_CFG dom) F.DOM_CFG_WIN_QUOTA
    if isOpen n then
      (d.winRefusal dom (d.stagedReg (A.STN_WIN n)) (bit (d.win n) 0) (min others quota) quota).isSome
    else !(bit (d.win n) 0)
  ((List.range 2048).find? fun n => d.isStaged (A.STN_WIN n) && bad n).map fun n => (0x40, A.STN_WIN n)

/-- Objects staged VALID (R242). -/
def Dev.brokenObjects (d : Dev) : Option Broken :=
  let bad (i : Nat) : Bool :=
    let v := d.stagedReg (A.HOM_PUB_CFG i)
    let off := F.HOM_PUB_CFG_RECORD.of v * 64
    let inBuf := (List.range 64).any fun j => (d.pubBuffers j).any fun b => decide (b.1 ≤ off >>> 21) && decide (off >>> 21 < b.1 + b.2)
    d.isStaged (A.HOM_PUB_CFG i) && bit v 0 && (decide (storeEnd ≤ off) || d.extDom (extentOf off) != F.HOM_PUB_CFG_DOMAIN.of v || inBuf)
  ((List.range 64).find? bad).map fun i => (0x60, A.HOM_PUB_CFG i)

/-- SERVICE staged while an extent has several holders (R273). -/
def Dev.brokenMode (d : Dev) : Option Broken :=
  if d.isStaged A.LSE_MODE && !(bit (d.stagedReg A.LSE_MODE) 0) && F.LSE_STATUS_MULTI.of d.viewLse != 0 then some (0x70, A.LSE_MODE) else none

/-- The external link (R310). -/
def Dev.brokenExt (d : Dev) : Option Broken :=
  let v := d.stagedReg A.GWY_CFG
  if (bit v 4 && !(bit (d.stagedReg A.TOP_ROLE) 2)) || decide (11 < F.GWY_CFG_EXT_PORT.of v) then some (0x80, A.GWY_CFG) else none

/-- A gateway channel as it would stand: OUT, IN and their length in regions, the record's offset, and the domain. -/
structure Chan where
  out : Nat
  inn : Nat
  len : Nat
  rec_ : Nat
  dom : Nat
deriving DecidableEq, Repr

/-- A channel as it would stand with the set applied, where it is in use. -/
def Dev.stagedChan (d : Dev) (k : Nat) : Option Chan :=
  let w0 := d.stagedReg (A.GWY_CHAN0 k)
  let w1 := d.stagedReg (A.GWY_CHAN1 k)
  if bit w0 0 then some ⟨F.GWY_CHAN1_OUT.of w1, F.GWY_CHAN1_IN.of w1, F.GWY_CHAN0_LEN_M1.of w0 + 1,
    F.GWY_CHAN2_RECORD.of (d.stagedReg (A.GWY_CHAN2 k)) * 64, F.GWY_CHAN0_DOMAIN.of w0⟩
  else none

/-- The runs of regions of a channel. -/
def Chan.runs (c : Chan) : List (Nat × Nat) := [(c.out, c.len), (c.inn, c.len)]

/-- Whether the regions and the record of a channel lie in the store and in extents of its domain, apart from each other. -/
def Dev.chanSound (d : Dev) (c : Chan) : Bool :=
  let inDom (e : Nat) : Bool := d.extDom e == c.dom
  (c.runs.all fun b => decide (b.1 + b.2 ≤ 196608) && (runExts b).all inDom) && decide (c.rec_ < storeEnd) && inDom (extentOf c.rec_) &&
    !(runsMeet (c.out, c.len) (c.inn, c.len)) && !(c.runs.any fun b => runsMeet b (c.rec_ >>> 21, 1))

/-- Gateway channels (R311). -/
def Dev.brokenChannels (d : Dev) : Option Broken :=
  let all := (List.range 64).filterMap fun k => if k < 3 then none else (d.stagedChan k).map fun c => (k, c)
  let bad (x : Nat × Chan) : Bool :=
    !(d.chanSound x.2) || all.any fun y => y.1 != x.1 && y.2.runs.any fun b => x.2.runs.any (runsMeet b)
  (all.find? bad).map fun x => (0x81, A.GWY_CHAN0 x.1)

/-- Floors of the staging SRAMs (R408). -/
def Dev.brokenFloors (d : Dev) : Option Broken :=
  let bad (t : Nat) : Bool := d.isStaged (A.STG_CFG t) &&
    decide (4194304 < max 1 (d.stagedFld (A.STG_CFG t) F.STG_CFG_FLOOR) * 262144 + F.STG_RSV_RESERVED.of (d.viewRsv t))
  ((List.range 64).find? bad).map fun t => (0xB0, A.STG_CFG t)

/-- The clock (R544). -/
def Dev.brokenClock (d : Dev) : Option Broken :=
  if d.isStaged A.CLK_CFG && decide (70 < d.stagedFld A.CLK_CFG F.CLK_CFG_VMARGIN) then some (0x29, A.CLK_CFG) else none

/-- The rules that the set breaks, of the blocks whose registers it touches. -/
def Dev.brokenRules (d : Dev) : List Broken :=
  let top := d.touches 0 0x10000
  (if top then d.brokenRoles.toList ++ d.brokenTweak.toList else []) ++ d.brokenClock.toList ++ d.brokenDomains.toList ++ d.brokenWindows.toList ++
    d.brokenObjects.toList ++ d.brokenMode.toList ++ (if top || d.touches 0xC0000 0xD0000 then d.brokenExt.toList else []) ++
    (if d.touches 0xC0000 0xD0000 then d.brokenChannels.toList else []) ++ d.brokenFloors.toList

/-- The rule broken at the lowest address. -/
def firstBroken (l : List Broken) : Option Broken :=
  l.foldl (fun acc x => match acc with | none => some x | some y => if x.2 < y.2 then some x else some y) none

/-- The first check of R84 that the set fails: DETAIL and address. -/
def Dev.setFault (d : Dev) : Option Broken :=
  match d.staged.entries.find? fun e => d.inDownHalf e.1 with
  | some e => some (0x1B, e.1)
  | none => match d.staged.entries.find? d.outOfRange with
    | some e => some (0x17, e.1)
    | none => firstBroken d.brokenRules

/-- TOP_ROLE's bits of every device of the span as the set would leave them: this device's as staged, the others' as they are found at this
check, free values for which nothing in this device stands (assumption log 32). -/
def Dev.spanRole (d : Dev) (k n : Nat) : Word := if n = d.node then d.stagedReg A.TOP_ROLE else (Config.roleFound k n).setWidth 64

/-- Whether the roles across the span satisfy R34. -/
def Dev.rolesSound (d : Dev) (k : Nat) : Bool :=
  let role := d.spanRole k
  let gs := d.groups
  let inGroup (g : Nat) : List Nat := (List.range 64).map (groupNode g)
  let gms := gs.map fun g => (inGroup g).filter fun n => bit (role n) 0
  let sms := gs.flatMap fun g => (inGroup g).filter fun n => bit (role n) 1
  (gms.all fun l => l.length == 1) && sms.length == 5 &&
    ((List.range 5).all fun i => (sms.filter fun n => F.TOP_ROLE_SPAN_MGR_IDX.of (role n) == i).length == 1) &&
    (if 5 ≤ gs.length then (sms.all fun n => bit (role n) 0) && (sms.map groupOf).eraseDups.length == 5
     else gms.all fun l => l.all fun n => bit (role n) 1)

/-- Whether the leading span manager evaluates the span's roles with this CHECK: the span-scope command itself, or what its own group's
manager sends back to it of one (R34). -/
def Dev.checksSpan (d : Dev) (r : Run) : Bool :=
  d.leadsSpan && (r.scope == 2 || (r.iss == .unit && d.cmd.runs.any fun x => x.op == Op.check && x.scope == 2))

/-- Whether the set clears GROUP_MGR or SPAN_MGR (R44). -/
def Dev.clearsRole (d : Dev) : Bool :=
  let now := d.reg A.TOP_ROLE
  let new := d.stagedReg A.TOP_ROLE
  (bit now 0 && !(bit new 0)) || (bit now 1 && !(bit new 1))

/-- The set has failed CHECK: it stays OPEN. -/
def checkFails (r : Run) (b : Broken) : M Unit := do
  fset A.CMD_STAGE_STATUS F.CMD_STAGE_STATUS_STATE setOpen
  setCpl r { status := Sc.checkFailed, detail := b.1, result := b.2 }

/-- The set has passed CHECK. -/
def checkPasses (r : Run) : M Unit := do
  let d ← dev
  fset A.CMD_STAGE_STATUS F.CMD_STAGE_STATUS_STATE (if r.owner = unitOwner then setLocked else setChecked)
  modStaged fun x => { x with rolePend := x.rolePend || d.clearsRole }
  setCpl r {}

/-- A set of the issuer's own is checked; with a span-scope CHECK the leading span manager evaluates the roles across the span (R34). -/
def runCheck (r : Run) : M Unit := do
  let d ← dev
  modStaged fun x => { x with touch := d.now }
  match d.setFault with
  | some b => checkFails r b
  | none =>
    on (d.checksSpan r) (emit .free)
    if d.checksSpan r && !(d.rolesSound d.free) then checkFails r (0x28, A.TOP_ROLE) else checkPasses r

/-- CHECK. -/
def check (r : Run) : M Unit := do
  let d ← dev
  if d.committing then pure ()
  else match d.gate r (r.par 0 4) with
    | .empty => setCpl r (fail Sc.checkFailed 0x16)
    | .refused st dt => setCpl r (fail st dt)
    | .locked => setCpl r {}
    | .own => runCheck r

/-! ## COMMIT (R82, R85) -/

/-- Whether a COMMIT waits: for a change of the clock that is under way when the set makes another one, and, when the set clears a role, for
the commands of non-zero SCOPE in progress (R44). -/
def Dev.commitWaits (d : Dev) (r : Run) : Bool :=
  (d.isStaged A.CLK_CFG && d.sys.pwr.relock.isSome) ||
    (d.staged.rolePend && d.cmd.runs.any fun x => x.seq != r.seq && x.scope != 0 && !(x.op == Op.commit && x.par 0 4 == d.setId))

/-- The COMMIT passes R82 at cycle T: the set is frozen, its edge is at T + 2. -/
def passCommit (r : Run) : M Unit := do
  let d ← dev
  if d.commitWaits r then pure ()
  else modStaged fun x => { x with edge := some (d.now + 2), edgeSeq := r.seq, edgeDone := false }

/-- COMMIT. -/
def commit (r : Run) : M Unit := do
  let d ← dev
  let id := r.par 0 4
  if d.committing then pure ()
  else match d.gate r id with
    | .refused st dt => setCpl r (fail st dt)
    | .empty => setCpl r (if d.fld A.CMD_STAGE_LAST F.CMD_STAGE_LAST_LAST_SET_ID = id then {} else fail Sc.checkFailed 0x16)
    | .own => if d.setState = setChecked then passCommit r else setCpl r (fail Sc.checkFailed 0x16)
    | .locked => if r.owner = unitOwner then passCommit r else setCpl r (fail Sc.retry 0x13)

/-! ## The commit edge (R85, R527) -/

/-- A staged create or destroy takes effect (R137). -/
def commitDomain (n : Nat) (v : Word) : M Unit := do
  let d ← dev
  if bits v 0 2 = 1 then
    let ident := ((List.range 4).map fun w => (tget (0, 0) d.staged.entries (A.DOM_IDENT n w)).1.toNat * 2 ^ (64 * w)).sum
    createDomain n ident (F.DOM_CFG_SLOT_QUOTA.of v) (F.DOM_CFG_WIN_QUOTA.of v)
  else beginDestroy n none

/-- Whether a staged register is a setting, under whose former value the commands that have started complete (R85): not the staged creates and
destroys, windows and objects, and not the clock, which change by steps of their own. -/
def isSetting (a : Nat) : Bool :=
  !([A.DOM_CFG 0, A.DOM_IDENT 0 0, A.STN_WIN 0, A.HOM_PUB_CFG 0, A.CLK_CFG].contains (regBase a))

/-- A command keeps the bits of a register that an edge changes; what an earlier edge changed is kept already. -/
def keepBits (old : Nat → Word) (l : List (Nat × BitVec 64 × BitVec 64)) (e : Nat × BitVec 64 × BitVec 64) :
    List (Nat × BitVec 64 × BitVec 64) :=
  match l.find? (·.1 == e.1) with
  | some k => l.map fun x => if x.1 == e.1 then (k.1, k.2.1 ||| e.2.2, (k.2.2 &&& k.2.1) ||| (old e.1 &&& e.2.2 &&& ~~~k.2.1)) else x
  | none => l ++ [(e.1, e.2.2, old e.1)]

/-- The commands that have started keep the settings they started with (R85). -/
def keepSettings : M Unit := do
  let d ← dev
  let es := d.staged.entries.filter fun e => isSetting e.1
  modCmd fun c => { c with runs := c.runs.map fun r => { r with kept := es.foldl (keepBits d.reg) r.kept } }

/-- The bits of an entry load into the committed register. -/
def loadEntry (e : Nat × BitVec 64 × BitVec 64) : M Unit := do
  let d ← dev
  let b := regBase e.1
  if d.inDownHalf e.1 then pure ()
  else if b = A.DOM_CFG 0 then commitDomain (regInst e.1) e.2.1
  else if b = A.DOM_IDENT 0 0 then pure ()
  else if b = A.STN_WIN 0 then wr e.1 e.2.1
  else if e.1 = A.CLK_CFG then pure ()
  else storeBits e.1 e.2.1 e.2.2

/-- An object becomes VALID or ceases to be (R242). -/
def objectChanged (i : Nat) (old new : Word) : M Unit :=
  if !(bit old 0) && bit new 0 then do
    wr (A.HOM_PUB_VER i) 0
    wr (A.HOM_PUB_CUR i) 0
  else on (bit old 0 && !(bit new 0)) (clearPub i)

/-- The ports after a change of the span's dimensions: a device that has left standalone trains its Dorrus ports, one that has become standalone
runs none (R291). -/
def spanChanged (was : Bool) : M Unit := do
  let d ← dev
  on (was && !d.standalone) trainPorts
  on (!was && d.standalone) (each (List.range 12) fun n => linkTo (4 + n) Ps.disabled)

/-- A port leaves its trunk to be the external link: what its link held and what waits at it go on over the partner link, or do not go on. -/
def leaveTrunk (p : Nat) : M Unit := do
  failOverTo (some (partnerPort p)) p Ps.training
  trunkCheckDown ((p - 4) % 6)
  settlePort p

/-- A port ceases to be the external link: what waits at it moves to the new external link; without one its PMSG are discarded and counted
(R313), its BULK_WR and BULK_ACK are lost (assumption log 45). -/
def leaveExt (p : Nat) (next : Option Nat) : M Unit := do
  let d ← dev
  match next with
  | some q =>
    let mv (e : Egr) : Egr := if e.port == p then { e with port := q } else e
    modTrf fun t => { t with classq := t.classq.map mv, shaper := t.shaper.map mv }
  | none => do
    each (d.queuedOn p) fun e => on (match e.msg with | .d m => m.type == 0x66 | .t _ => false) (bump A.GWY_PMSG_DROP_CNT)
    modTrf fun t => { t with classq := t.classq.filter (fun e => e.port != p), shaper := t.shaper.filter fun e => e.port != p }

/-- The external link after a change of GWY_CFG: a port that has become or ceased to be the external link trains in full for its new partner
(R291, R310, assumption log 45). -/
def extChanged (old new : Word) : M Unit := do
  let port (v : Word) : Option Nat := if bit v 4 && decide (F.GWY_CFG_EXT_PORT.of v < 12) then some (4 + F.GWY_CFG_EXT_PORT.of v) else none
  on (port old != port new) (do
    each (port new).toList leaveTrunk
    each (port old).toList fun p => leaveExt p (port new)
    each ((port old).toList ++ (port new).toList) fun p => do
      let d ← dev
      on (d.linkState p != Ps.disabled && d.linkState p != Ps.off) (linkTo p Ps.training))

/-- What the new value of a committed register does beside standing there. -/
def entryActs (before : Dev) (e : Nat × BitVec 64 × BitVec 64) : M Unit := do
  let d ← dev
  let b := regBase e.1
  if d.inDownHalf e.1 then pure ()
  else if e.1 = A.CLK_CFG then beginRelock none (d.stagedFld A.CLK_CFG F.CLK_CFG_OP) (d.stagedFld A.CLK_CFG F.CLK_CFG_VMARGIN)
  else if b = A.HOM_PUB_CFG 0 then objectChanged (regInst e.1) (before.reg e.1) (d.reg e.1)
  else if e.1 = A.TOP_SPAN_DIM then spanChanged before.standalone
  else if e.1 = A.TOP_ROLE then on (!(bit (d.reg A.TOP_ROLE) 1)) (fset A.TOP_ROLE F.TOP_ROLE_LEAD_SPAN_MGR 0)
  else if e.1 = A.GWY_CFG then extChanged (before.reg e.1) (d.reg e.1)
  else act e.1 (before.reg e.1) (e.2.1 &&& e.2.2) e.2.2

/-- CFG_DIGEST as bytes: BOOT_CFG_DIGEST word w holds its bytes 8w to 8w + 7 (R532). -/
def Dev.cfgDigest (d : Dev) : List Byte := ((List.range 6).map fun w => toLe 8 (d.reg (A.BOOT_CFG_DIGEST w)).toNat).flatten

/-- CFG_DIGEST takes in the set: its SET_ID and each entry with the committed value after the edge (R527). -/
def extendDigest : M Unit := do
  let d ← dev
  let entry (e : Nat × BitVec 64 × BitVec 64) : List Byte := toLe 8 e.1 ++ toLe 8 (d.view e.1).toNat ++ toLe 8 e.2.2.toNat
  let h := digestBytes (Config.sha384 (d.cfgDigest ++ toLe 4 d.setId ++ (d.staged.entries.map entry).flatten))
  each (List.range 6) fun w => wr (A.BOOT_CFG_DIGEST w) (BitVec.ofNat 64 (leAt h (8 * w) 8))

/-- COMMIT_EDGE. -/
def commitEdge : M Unit := do
  let d ← dev
  match d.staged.edge with
  | none => pure ()
  | some t =>
    if d.staged.edgeDone then pure ()
    else
      passTo t
      modStaged fun x => { x with edgeDone := true }
      keepSettings
      each d.staged.entries loadEntry
      each d.staged.entries (entryActs d)
      extendDigest

/-- COMMIT_DONE: the set is EMPTY; the command, where it still runs, completes with the tick of the edge. -/
def commitDone : M Unit := do
  let d ← dev
  match d.staged.edge with
  | none => pure ()
  | some t =>
    if ¬ d.staged.edgeDone then pure ()
    else
      passTo (t + 5)
      fset A.CMD_STAGE_LAST F.CMD_STAGE_LAST_LAST_SET_ID d.setId
      wr A.CMD_COMMIT_TICK (BitVec.ofNat 64 t)
      emptySet
      match d.runSeq d.staged.edgeSeq with
      | some r => on r.cpl.isNone (setCpl r (okCpl 0 0 t))
      | none => pure ()

/-! ## ABANDON and expiry (R82, R87) -/

/-- The set is discarded. -/
def discardSet (r : Run) : M Unit := do
  let n ← look fun d => d.staged.entries.length
  emptySet
  setCpl r (okCpl n 0 0)

/-- ABANDON. -/
def abandon (r : Run) : M Unit := do
  let d ← dev
  if d.committing then pure ()
  else match d.gate r (r.par 0 4) with
    | .refused st dt => setCpl r (fail st dt)
    | .empty => setCpl r {}
    | .own => discardSet r
    | .locked => if r.owner = unitOwner then discardSet r else setCpl r (fail Sc.retry 0x13)

/-- STAGE_EXPIRE: an OPEN or CHECKED set that has been left alone for 10 s is discarded. -/
def stageExpire : M Unit := do
  let d ← dev
  if (d.setState = setOpen ∨ d.setState = setChecked) ∧ ¬ d.committing then
    passTo (d.staged.touch + 500000000)
    bump A.CMD_STAGE_EXPIRE_CNT
    raise Ev.stageExpired 0 d.setOwner none 0 0 d.setId
    emptySet
  else pure ()

/-! ## Rows -/

def execStage (r : Req) (s : State) : Host.Outcome State Fault Refusal := s.run (onRun Op.stage r stage)
def execCheck (r : Req) (s : State) : Host.Outcome State Fault Refusal := s.run (onRun Op.check r check)
def execCommit (r : Req) (s : State) : Host.Outcome State Fault Refusal := s.run (onRun Op.commit r commit)
def execCommitEdge (s : State) : Host.Outcome State Fault Refusal := s.run commitEdge
def execCommitDone (s : State) : Host.Outcome State Fault Refusal := s.run (do commitDone; settleFw)
def execAbandon (r : Req) (s : State) : Host.Outcome State Fault Refusal := s.run (onRun Op.abandon r abandon)
def execStageExpire (s : State) : Host.Outcome State Fault Refusal := s.run stageExpire

end Sys2Proof.Machine
end

