-- ==== Sys2Proof/Machine/Window.lean ====
section
/-! DEFINITION. The paths to the registers from outside: the Talku management window (R265, R269, R510, R517), the I3C sideband (R519, R569)
and the JTAG test port (R571). -/

namespace Sys2Proof.Machine

/-! ## Management window (R265) -/

/-- Whether an address is that of TOP_ID or of a register of the port's own TLK instance. -/
def ownRead (p a : Nat) : Bool :=
  a == A.TOP_ID || (decide (A.TLK_CFG p ≤ a) && decide (a < A.TLK_CFG p + 0x4000) && decide (a % 8 = 0) && assigned a)

/-- Whether a queue's port is the one given. -/
def Dev.queueOnPort (d : Dev) (a p : Nat) : Bool := d.fld (A.CMD_Q_CFG (regInst a)) F.CMD_Q_CFG_PORT == p

/-- What a port may read with WIN_FULL = 0. -/
def Dev.windowReads (d : Dev) (p a : Nat) : Bool :=
  let b := regBase a
  ownRead p a ||
    ((b == A.CMD_Q_PTR 0 || b == A.CMD_Q_STATE 0) && d.queueOnPort a p) ||
    ((b == A.LSE_EXT 0 || b == A.LSE_EXPIRY 0) && bit (d.reg (A.LSE_EXT (regInst a))) p)

/-- What a port may write with WIN_FULL = 0. -/
def Dev.windowWrites (d : Dev) (p a : Nat) : Bool :=
  let b := regBase a
  (b == A.CMD_Q_DB 0 || b == A.CMD_Q_CQ_DB 0) && d.queueOnPort a p

/-- Whether an address lies in the BOOT block. -/
def inBoot (a : Nat) : Bool := decide (0x30000 ≤ a) && decide (a < 0x40000)

/-- The allowance of a port's window: during start-up the BOOT block and TOP_ID (R510); in minimal mode every address, of which some read zero
(R517); otherwise what R265 gives. -/
def Dev.windowAllows (d : Dev) (p a : Nat) (write : Bool) : Bool :=
  let stage := d.fld A.BOOT_STATUS F.BOOT_STATUS_STAGE
  if d.minimal then true
  else if stage < 4 then inBoot a || a == A.TOP_ID
  else if d.fld (A.TLK_CFG p) F.TLK_CFG_WIN_FULL = 1 then true
  else if write then d.windowWrites p a else d.windowReads p a

/-- MW_DATA and MW_ACK. -/
def mwData (p tag : Nat) (st : Nat × Nat) (v : Word) : M Unit :=
  sendTlk p none { type := 0x60, tag := tag, status := st.1, detail := st.2, units := [v.setWidth 128] }
def mwAck (p tag : Nat) (st : Nat × Nat) : M Unit :=
  sendTlk p none { type := 0x61, tag := tag, status := st.1, detail := st.2 }

/-- Status RIGHTS, DETAIL 0x75: the address is outside the port's allowance, and the access is counted. -/
def deny (p : Nat) : M (Nat × Nat) := do
  bump (A.TLK_WIN_DENY_CNT p)
  return (Sc.rights, 0x75)

/-- Bits 63:0 of a message's unit. -/
def unitWord (m : TMsg) (k : Nat) : Word := (m.units.getD k 0).setWidth 64

/-- MW_READ. The value of a refused read is not stated (assumption log 3). -/
def windowRead (p : Nat) (m : TMsg) : M Unit := do
  let d ← dev
  let a := (unitWord m 0).toNat
  if !(d.windowAllows p a false) then do
    let st ← deny p
    mwData p m.tag st (← freeWord)
  else if d.minimal ∧ ¬ inMinimal a then mwData p m.tag (0, 0) 0
  else match addrRefusal a with
    | some st => mwData p m.tag st (← freeWord)
    | none => mwData p m.tag (0, 0) (← readReg a)

/-- Whether an address is a doorbell, whose write is a wake event of its own (R540). -/
def isDoorbell (a : Nat) : Bool := regBase a == A.CMD_Q_DB 0 || regBase a == A.CMD_Q_CQ_DB 0

/-- MW_WRITE: MASK of the message selects the bits, and the table of R577 sees a MASK of all ones. -/
def windowWrite (p : Nat) (m : TMsg) : M Unit := do
  let d ← dev
  let a := (unitWord m 0).toNat
  if !(d.windowAllows p a true) then do
    let st ← deny p
    mwAck p m.tag st
  else if d.minimal ∧ ¬ inMinimal a then mwAck p m.tag (0, 0)
  else match d.writeRefusal a (BitVec.allOnes 64) with
    | some st => do
      bump A.CMD_WIN_REJ_CNT
      mwAck p m.tag st
    | none => do
      mwAck p m.tag (0, 0)
      on (!(isDoorbell a)) (wakeEvent 2)
      writeReg a (unitWord m 1) (unitWord m 2)

/-- Whether an earlier write of a Talku port is not ordered yet: it waits at the arbiter or at its slices. -/
def Dev.writesBefore (d : Dev) (p : Nat) : Bool :=
  d.writePending p || d.trf.ing.any fun i => match i.src with | .tlk q m => q == p && isTlkWrite m.type | _ => false

/-- Whether a MW_WRITE waits for the earlier writes of its port to be ordered (R188). -/
def Dev.windowWaits (d : Dev) (p : Nat) (i : TIn) : Bool :=
  d.writesBefore p && (d.tlkViolation p i).isNone && d.portState p != Ps.quarantined && isUpState (d.linkState p)

/-- A message stays at the head of its port's inbox, for its row to be given again. -/
def keepInInbox (p : Nat) (m : OMsg) : M Unit := do
  let d ← dev
  on ((d.link p).inbox.head? != some m) (modLink p fun l => { l with inbox := m :: l.inbox })

/-- MW_READ arrives; a quarantined port serves it for TOP_ID and its own TLK registers (R269). -/
def mwReadRow (p : Nat) (i : TIn) : M Unit := hostMsg p i (i.m.type == 0x20 && ownRead p (unitWord i.m 0).toNat) false (windowRead p i.m)

/-- MW_WRITE arrives, and takes effect once every earlier write of its port is ordered (R188). -/
def mwWriteRow (p : Nat) (i : TIn) : M Unit := do
  let d ← dev
  if d.windowWaits p i then keepInInbox p (.t i.m) else hostMsg p i false false (windowWrite p i.m)

/-! ## I3C sideband (R519, R569) -/

/-- Whether the sideband is powered: the AON domain is out of power-on reset. -/
def Dev.sideband (d : Dev) : Bool := d.level 1

/-- The dynamic address, if one is assigned, and the static address. -/
def Dev.dynAddr (d : Dev) : Option Nat :=
  if d.fld A.PWR_I3C_STATUS F.PWR_I3C_STATUS_DA_VALID = 1 then some (d.fld A.PWR_I3C_STATUS F.PWR_I3C_STATUS_DYN_ADDR) else none
def Dev.staticAddr (d : Dev) : Nat := d.fld A.PWR_I3C_STATUS F.PWR_I3C_STATUS_STATIC_ADDR

/-- Whether the device answers a private transfer: at its dynamic address, or at its static one as legacy I2C does. -/
def Dev.answersPrivate (d : Dev) (addr : Nat) : Bool := d.sideband && (d.dynAddr == some addr || d.staticAddr == addr)

/-- Whether the device answers a CCC sent to an address: its dynamic one. -/
def Dev.answersCcc (d : Dev) (addr : Nat) : Bool := d.sideband && d.dynAddr == some addr

/-- A private transfer is ignored: it is counted, and GETSTATUS reports it. -/
def i3cIgnored : M Unit := do
  fadd A.PWR_I3C_STATUS F.PWR_I3C_STATUS_ERR 1
  modPwr fun p => { p with i3cErr := true }

/-- Bytes returned by a read, and whether an address is reachable in the device's mode: the AON blocks alone while every other block is held in
reset and in minimal mode (R510, R517). -/
def i3cReturn (l : List Byte) : M Unit := modPwr fun p => { p with i3cOut := l }
def Dev.i3cReaches (d : Dev) (a : Nat) : Bool := inMinimal a || !(d.minimal || d.sys.boot.phase == 0)

/-- A CSR write over I3C. -/
def i3cWrite (a : Nat) (v : Word) : M Unit := do
  let d ← dev
  let all := BitVec.allOnes 64
  on (d.i3cReaches a && (d.writeRefusal a all).isNone) (writeReg a v all)

/-- A CSR read over I3C; what a refused one returns is not stated (assumption log 3). -/
def i3cRead (a : Nat) : M Unit := do
  let d ← dev
  let v ← if !(d.i3cReaches a) then pure 0 else if (addrRefusal a).isSome then freeWord else readReg a
  i3cReturn (toLe 8 v.toNat)

/-- A private write of 4 or 12 bytes; one with a parity error is ignored as one of another length is. -/
def i3cPrivateWrite (addr : Nat) (bytes : List Byte) (parityOk : Bool) : M Unit := do
  let d ← dev
  if !(d.answersPrivate addr) then pure ()
  else
    modPwr fun p => { p with i3cAddr := none }
    if parityOk ∧ bytes.length = 12 then i3cWrite (leAt bytes 0 4) (BitVec.ofNat 64 (leAt bytes 4 8))
    else if parityOk ∧ bytes.length = 4 then modPwr fun p => { p with i3cAddr := some (leAt bytes 0 4) }
    else i3cIgnored

/-- A private read of 8 bytes. -/
def i3cPrivateRead (addr : Nat) : M Unit := do
  let d ← dev
  if !(d.answersPrivate addr) then pure ()
  else
    modPwr fun p => { p with i3cAddr := none, i3cOut := [] }
    match d.sys.pwr.i3cAddr with
    | some a => i3cRead a
    | none => i3cIgnored

/-- The dynamic address becomes one given, or none. -/
def setDynamic (a : Option Nat) : M Unit := do
  fset A.PWR_I3C_STATUS F.PWR_I3C_STATUS_DYN_ADDR (a.getD 0)
  fset A.PWR_I3C_STATUS F.PWR_I3C_STATUS_DA_VALID (b2n a.isSome)

/-- ENTDAA: a target that has no dynamic address takes one. -/
def entdaa (addr : Nat) : M Unit := do
  let d ← dev
  on (d.sideband && d.dynAddr.isNone) (setDynamic (some addr))

/-- SETDASA: the target at a static address that has no dynamic address takes one. -/
def setdasa (static dynamic : Nat) : M Unit := do
  let d ← dev
  on (d.sideband && d.dynAddr.isNone && d.staticAddr == static) (setDynamic (some dynamic))

/-- SETNEWDA: the target at a dynamic address takes another. -/
def setnewda (addr new : Nat) : M Unit := do
  let d ← dev
  on (d.answersCcc addr) (setDynamic (some new))

/-- RSTDAA. -/
def rstdaa : M Unit := do
  let d ← dev
  on d.sideband (setDynamic none)

/-- A CCC that returns bytes, the most significant first. -/
def cccGet (addr w v : Nat) : M Unit := do
  let d ← dev
  on (d.answersCcc addr) (i3cReturn (toLe w v).reverse)

/-- GETSTATUS: bit 5 is the protocol error, which the answer clears. -/
def getstatus (addr : Nat) : M Unit := do
  let d ← dev
  cccGet addr 2 (b2n d.sys.pwr.i3cErr * 32)
  on (d.answersCcc addr) (modPwr fun p => { p with i3cErr := false })

/-! ## JTAG (R571) -/

namespace Jtag
def bypass : Nat := 0
def idcode : Nat := 1
def sample : Nat := 2
def extest : Nat := 3
def clamp : Nat := 4
def highz : Nat := 5
end Jtag

/-- Whether the device is in service: PWR_OK and DEV_RESET_N high. -/
def Dev.inService (d : Dev) : Bool := d.level 1 && d.level 0

/-- The instruction that acts when one is selected: EXTEST, CLAMP and HIGHZ act as BYPASS in service. -/
def Dev.jtagActs (d : Dev) (ir : Nat) : Nat := if Jtag.extest ≤ ir ∧ d.inService then Jtag.bypass else ir

/-- The 32 bits of IDCODE. -/
def idcodeValue : Nat := 0xB * 2 ^ 28 + 0x0C90 * 2 ^ 12 + Config.jtagManufacturer.toNat * 2 + 1

/-- An instruction is selected: the register that it puts between TDI and TDO captures its value. The bypass register captures 0; what the
boundary register captures is not stated (assumption log 3). -/
def jtagSelect (ir : Nat) : M Unit := do
  let d ← dev
  let x := d.jtagActs ir
  let v ← if x = Jtag.idcode then pure idcodeValue else if x = Jtag.sample ∨ x = Jtag.extest then do pure (← freeWord).toNat else pure 0
  modPwr fun p => { p with jtagIr := x, jtagOut := v }

/-! ## Rows -/

def execMwRead (p : Fin 4) (i : TIn) (s : State) : Host.Outcome State Fault Refusal := s.runIf (rowTakes 0x20 i) (mwReadRow p.val i)
def execMwWrite (p : Fin 4) (i : TIn) (s : State) : Host.Outcome State Fault Refusal := s.runIf (rowTakes 0x21 i) (mwWriteRow p.val i)
def execI3cPrivateWrite (addr : BitVec 7) (bytes : List Byte) (parityOk : Bool) (s : State) : Host.Outcome State Fault Refusal :=
  s.run (i3cPrivateWrite addr.toNat bytes parityOk)
def execI3cPrivateRead (addr : BitVec 7) (s : State) : Host.Outcome State Fault Refusal := s.run (i3cPrivateRead addr.toNat)
def execEntdaa (addr : BitVec 7) (s : State) : Host.Outcome State Fault Refusal := s.run (entdaa addr.toNat)
def execSetdasa (static dynamic : BitVec 7) (s : State) : Host.Outcome State Fault Refusal := s.run (setdasa static.toNat dynamic.toNat)
def execSetnewda (addr new : BitVec 7) (s : State) : Host.Outcome State Fault Refusal := s.run (setnewda addr.toNat new.toNat)
def execRstdaa (s : State) : Host.Outcome State Fault Refusal := s.run rstdaa
def execGetpid (addr : BitVec 7) (s : State) : Host.Outcome State Fault Refusal := s.run (cccGet addr.toNat 6 Config.provisionedId.toNat)
def execGetbcr (addr : BitVec 7) (s : State) : Host.Outcome State Fault Refusal := s.run (cccGet addr.toNat 1 0)
def execGetdcr (addr : BitVec 7) (s : State) : Host.Outcome State Fault Refusal := s.run (cccGet addr.toNat 1 0)
def execGetstatus (addr : BitVec 7) (s : State) : Host.Outcome State Fault Refusal := s.run (getstatus addr.toNat)
def execGetmwl (addr : BitVec 7) (s : State) : Host.Outcome State Fault Refusal := s.run (cccGet addr.toNat 2 12)
def execGetmrl (addr : BitVec 7) (s : State) : Host.Outcome State Fault Refusal := s.run (cccGet addr.toNat 2 8)
def execJtagBypass (s : State) : Host.Outcome State Fault Refusal := s.run (jtagSelect Jtag.bypass)
def execJtagIdcode (s : State) : Host.Outcome State Fault Refusal := s.run (jtagSelect Jtag.idcode)
def execJtagSamplePreload (s : State) : Host.Outcome State Fault Refusal := s.run (jtagSelect Jtag.sample)
def execJtagExtest (s : State) : Host.Outcome State Fault Refusal := s.run (jtagSelect Jtag.extest)
def execJtagClamp (s : State) : Host.Outcome State Fault Refusal := s.run (jtagSelect Jtag.clamp)
def execJtagHighz (s : State) : Host.Outcome State Fault Refusal := s.run (jtagSelect Jtag.highz)

end Sys2Proof.Machine
end

