-- ==== Sys2Proof/Machine/Dispatch.lean ====
section
/-! DEFINITION. One arm for each command: the meaning of every row of the opcode table. -/

namespace Sys2Proof.Machine

open Sys2Proof

def exec (i : Instr) (s : State) : Host.Outcome State Fault Refusal :=
  match i with
  | .nop r => Sys2Proof.Machine.execNop r s
  | .csrRead r => Sys2Proof.Machine.execCsrRead r s
  | .csrWrite r => Sys2Proof.Machine.execCsrWrite r s
  | .stage r => Sys2Proof.Machine.execStage r s
  | .check r => Sys2Proof.Machine.execCheck r s
  | .commit r => Sys2Proof.Machine.execCommit r s
  | .commitEdge => Sys2Proof.Machine.execCommitEdge s
  | .commitDone => Sys2Proof.Machine.execCommitDone s
  | .abandon r => Sys2Proof.Machine.execAbandon r s
  | .stageExpire => Sys2Proof.Machine.execStageExpire s
  | .domainCreate r => Sys2Proof.Machine.execDomainCreate r s
  | .domainDestroy r => Sys2Proof.Machine.execDomainDestroy r s
  | .destroyStep d => Sys2Proof.Machine.execDestroyStep d s
  | .keyLoad r => Sys2Proof.Machine.execKeyLoad r s
  | .sanitise r => Sys2Proof.Machine.execSanitise r s
  | .gessoTake => Sys2Proof.Machine.execGessoTake s
  | .gessoExtentDone => Sys2Proof.Machine.execGessoExtentDone s
  | .segLoad r => Sys2Proof.Machine.execSegLoad r s
  | .rangeInvalidate r => Sys2Proof.Machine.execRangeInvalidate r s
  | .invalAck agent => Sys2Proof.Machine.execInvalAck agent s
  | .ackTimeout => Sys2Proof.Machine.execAckTimeout s
  | .missTimeout tag => Sys2Proof.Machine.execMissTimeout tag s
  | .windowOpen r => Sys2Proof.Machine.execWindowOpen r s
  | .windowClose r => Sys2Proof.Machine.execWindowClose r s
  | .leaseGrant r => Sys2Proof.Machine.execLeaseGrant r s
  | .leaseRenew r => Sys2Proof.Machine.execLeaseRenew r s
  | .leaseRevoke r => Sys2Proof.Machine.execLeaseRevoke r s
  | .leaseExpiryScan tick => Sys2Proof.Machine.execLeaseExpiryScan tick s
  | .publish r => Sys2Proof.Machine.execPublish r s
  | .ownTransfer r => Sys2Proof.Machine.execOwnTransfer r s
  | .ownAccept r => Sys2Proof.Machine.execOwnAccept r s
  | .ownReclaimTimer region => Sys2Proof.Machine.execOwnReclaimTimer region s
  | .ownReleaseTimeout region => Sys2Proof.Machine.execOwnReleaseTimeout region s
  | .ownAcceptTimeout node region => Sys2Proof.Machine.execOwnAcceptTimeout node region s
  | .copy r => Sys2Proof.Machine.execCopy r s
  | .fill r => Sys2Proof.Machine.execFill r s
  | .observe r => Sys2Proof.Machine.execObserve r s
  | .matmul r => Sys2Proof.Machine.execMatmul r s
  | .route r => Sys2Proof.Machine.execRoute r s
  | .streamWindow r => Sys2Proof.Machine.execStreamWindow r s
  | .stagingFillDone tile => Sys2Proof.Machine.execStagingFillDone tile s
  | .slotBind r => Sys2Proof.Machine.execSlotBind r s
  | .gatherPool r => Sys2Proof.Machine.execGatherPool r s
  | .rowReplace r => Sys2Proof.Machine.execRowReplace r s
  | .replaceApply key => Sys2Proof.Machine.execReplaceApply key s
  | .rowMigrate r => Sys2Proof.Machine.execRowMigrate r s
  | .migrateGraceEnd key => Sys2Proof.Machine.execMigrateGraceEnd key s
  | .prefetchIndices r => Sys2Proof.Machine.execPrefetchIndices r s
  | .search r => Sys2Proof.Machine.execSearch r s
  | .sideAppend r => Sys2Proof.Machine.execSideAppend r s
  | .sideDelete r => Sys2Proof.Machine.execSideDelete r s
  | .merge r => Sys2Proof.Machine.execMerge r s
  | .mergeBuildDone r => Sys2Proof.Machine.execMergeBuildDone r s
  | .mergeDrainEnd r => Sys2Proof.Machine.execMergeDrainEnd r s
  | .bitwise r => Sys2Proof.Machine.execBitwise r s
  | .powerState r => Sys2Proof.Machine.execPowerState r s
  | .p2Entry => Sys2Proof.Machine.execP2Entry s
  | .p2ExitDone => Sys2Proof.Machine.execP2ExitDone s
  | .p3Entry => Sys2Proof.Machine.execP3Entry s
  | .p3EntryDone => Sys2Proof.Machine.execP3EntryDone s
  | .p3ExitVddReady => Sys2Proof.Machine.execP3ExitVddReady s
  | .p3ExitPllLock => Sys2Proof.Machine.execP3ExitPllLock s
  | .p3ExitDone => Sys2Proof.Machine.execP3ExitDone s
  | .clockSet r => Sys2Proof.Machine.execClockSet r s
  | .clockRelockDone => Sys2Proof.Machine.execClockRelockDone s
  | .shadowBegin r => Sys2Proof.Machine.execShadowBegin r s
  | .shadowCompare r => Sys2Proof.Machine.execShadowCompare r s
  | .expelVote r => Sys2Proof.Machine.execExpelVote r s
  | .voteTimeout => Sys2Proof.Machine.execVoteTimeout s
  | .voteLapse j => Sys2Proof.Machine.execVoteLapse j s
  | .attest r => Sys2Proof.Machine.execAttest r s
  | .attestTimeout => Sys2Proof.Machine.execAttestTimeout s
  | .fwStage r => Sys2Proof.Machine.execFwStage r s
  | .fwActivate r => Sys2Proof.Machine.execFwActivate r s
  | .fwActivateReset => Sys2Proof.Machine.execFwActivateReset s
  | .cx6Nop q => Sys2Proof.Machine.execCx6Nop q s
  | .cx6Copy q => Sys2Proof.Machine.execCx6Copy q s
  | .cx6Fill q => Sys2Proof.Machine.execCx6Fill q s
  | .cx6GatherPool q => Sys2Proof.Machine.execCx6GatherPool q s
  | .cmdQDb q prod => Sys2Proof.Machine.execCmdQDb q prod s
  | .cmdQCqDb q head => Sys2Proof.Machine.execCmdQCqDb q head s
  | .queueEnable q => Sys2Proof.Machine.execQueueEnable q s
  | .queueDisable q => Sys2Proof.Machine.execQueueDisable q s
  | .queueReset q => Sys2Proof.Machine.execQueueReset q s
  | .commandAccept => Sys2Proof.Machine.execCommandAccept s
  | .commandStart r => Sys2Proof.Machine.execCommandStart r s
  | .completionWrite r => Sys2Proof.Machine.execCompletionWrite r s
  | .tileWakeDone tile => Sys2Proof.Machine.execTileWakeDone tile s
  | .tileGate tile => Sys2Proof.Machine.execTileGate tile s
  | .unitCmd p j => Sys2Proof.Machine.execUnitCmd p j s
  | .unitAck p j => Sys2Proof.Machine.execUnitAck p j s
  | .unitCpl p j => Sys2Proof.Machine.execUnitCpl p j s
  | .unitAckTimeout node => Sys2Proof.Machine.execUnitAckTimeout node s
  | .unitCplTimeout node => Sys2Proof.Machine.execUnitCplTimeout node s
  | .homeRead offset domain cls errs => Sys2Proof.Machine.execHomeRead offset domain cls errs s
  | .homeWrite offset domain cls mask data => Sys2Proof.Machine.execHomeWrite offset domain cls mask data s
  | .homeAtomic offset domain cls operand => Sys2Proof.Machine.execHomeAtomic offset domain cls operand s
  | .scrubRead k errs => Sys2Proof.Machine.execScrubRead k errs s
  | .stkRepair k pc pin => Sys2Proof.Machine.execStkRepair k pc pin s
  | .repairDone k => Sys2Proof.Machine.execRepairDone k s
  | .stkTempRead temps => Sys2Proof.Machine.execStkTempRead temps s
  | .stkParityError k second => Sys2Proof.Machine.execStkParityError k second s
  | .stkTrainDone k trained kat => Sys2Proof.Machine.execStkTrainDone k trained kat s
  | .stkInitDone k => Sys2Proof.Machine.execStkInitDone k s
  | .creditHoldExpire k => Sys2Proof.Machine.execCreditHoldExpire k s
  | .snoopTimeout p line => Sys2Proof.Machine.execSnoopTimeout p line s
  | .walkDone p => Sys2Proof.Machine.execWalkDone p s
  | .rdS p j => Sys2Proof.Machine.execRdS p j s
  | .rdO p j => Sys2Proof.Machine.execRdO p j s
  | .rdU p j => Sys2Proof.Machine.execRdU p j s
  | .wrU p j => Sys2Proof.Machine.execWrU p j s
  | .wrUp p j => Sys2Proof.Machine.execWrUp p j s
  | .tlkAtom p j => Sys2Proof.Machine.execTlkAtom p j s
  | .wb p j => Sys2Proof.Machine.execWb p j s
  | .evict p j => Sys2Proof.Machine.execEvict p j s
  | .snpAck p j => Sys2Proof.Machine.execSnpAck p j s
  | .snpData p j => Sys2Proof.Machine.execSnpData p j s
  | .mwRead p j => Sys2Proof.Machine.execMwRead p j s
  | .mwWrite p j => Sys2Proof.Machine.execMwWrite p j s
  | .missReply p j => Sys2Proof.Machine.execMissReply p j s
  | .tlkFlit p f => Sys2Proof.Machine.execTlkFlit p f s
  | .violWindowClose port => Sys2Proof.Machine.execViolWindowClose port s
  | .lostTimeExpire p => Sys2Proof.Machine.execLostTimeExpire p s
  | .tlkRetrain p => Sys2Proof.Machine.execTlkRetrain p s
  | .tlkRelease p => Sys2Proof.Machine.execTlkRelease p s
  | .declareLost p => Sys2Proof.Machine.execDeclareLost p s
  | .linkTrainDone port t => Sys2Proof.Machine.execLinkTrainDone port t s
  | .linkDown port => Sys2Proof.Machine.execLinkDown port s
  | .linkIdle port => Sys2Proof.Machine.execLinkIdle port s
  | .linkWakeDone port => Sys2Proof.Machine.execLinkWakeDone port s
  | .drsFlit p f => Sys2Proof.Machine.execDrsFlit p f s
  | .drsRetrain p => Sys2Proof.Machine.execDrsRetrain p s
  | .drsRelease p => Sys2Proof.Machine.execDrsRelease p s
  | .holdDownEnd trunk => Sys2Proof.Machine.execHoldDownEnd trunk s
  | .forward p j => Sys2Proof.Machine.execForward p j s
  | .rd p j => Sys2Proof.Machine.execRd p j s
  | .wr p j => Sys2Proof.Machine.execWr p j s
  | .wrp p j => Sys2Proof.Machine.execWrp p j s
  | .drsAtom p j => Sys2Proof.Machine.execDrsAtom p j s
  | .drsData p j => Sys2Proof.Machine.execDrsData p j s
  | .drsCmp p j => Sys2Proof.Machine.execDrsCmp p j s
  | .ares p j => Sys2Proof.Machine.execAres p j s
  | .drsRetry p j => Sys2Proof.Machine.execDrsRetry p j s
  | .drsCreditReady p j => Sys2Proof.Machine.execDrsCreditReady p j s
  | .noroute p j => Sys2Proof.Machine.execNoroute p j s
  | .drsNak p j => Sys2Proof.Machine.execDrsNak p j s
  | .routeFenceRelease node => Sys2Proof.Machine.execRouteFenceRelease node s
  | .deadEntryAgeOut j => Sys2Proof.Machine.execDeadEntryAgeOut j s
  | .rspTimeout tag => Sys2Proof.Machine.execRspTimeout tag s
  | .atomResendTimer tag => Sys2Proof.Machine.execAtomResendTimer tag s
  | .replayEntryExpire src atag age => Sys2Proof.Machine.execReplayEntryExpire src atag age s
  | .coalesceExpire => Sys2Proof.Machine.execCoalesceExpire s
  | .gatewayShip => Sys2Proof.Machine.execGatewayShip s
  | .bulkWr p j => Sys2Proof.Machine.execBulkWr p j s
  | .bulkAck p j => Sys2Proof.Machine.execBulkAck p j s
  | .pmsg p j => Sys2Proof.Machine.execPmsg p j s
  | .ownOffer p j => Sys2Proof.Machine.execOwnOffer p j s
  | .accept p j => Sys2Proof.Machine.execAccept p j s
  | .ownRelease p j => Sys2Proof.Machine.execOwnRelease p j s
  | .released p j => Sys2Proof.Machine.execReleased p j s
  | .ownReclaim p j => Sys2Proof.Machine.execOwnReclaim p j s
  | .ownAnswer p j => Sys2Proof.Machine.execOwnAnswer p j s
  | .tokenGrant p j => Sys2Proof.Machine.execTokenGrant p j s
  | .tokenAck p j => Sys2Proof.Machine.execTokenAck p j s
  | .tokenRenew tick => Sys2Proof.Machine.execTokenRenew tick s
  | .tokenExpire => Sys2Proof.Machine.execTokenExpire s
  | .beatTimer tick => Sys2Proof.Machine.execBeatTimer tick s
  | .leadTimeout => Sys2Proof.Machine.execLeadTimeout s
  | .beat p j => Sys2Proof.Machine.execBeat p j s
  | .claim p j => Sys2Proof.Machine.execClaim p j s
  | .quorumGrant p j => Sys2Proof.Machine.execQuorumGrant p j s
  | .vote p j => Sys2Proof.Machine.execVote p j s
  | .expel p j => Sys2Proof.Machine.execExpel p j s
  | .shadow p j => Sys2Proof.Machine.execShadow p j s
  | .clean p j => Sys2Proof.Machine.execClean p j s
  | .admitMember p j => Sys2Proof.Machine.execAdmit p j s
  | .quorumAck p j => Sys2Proof.Machine.execQuorumAck p j s
  | .attestRequest p j => Sys2Proof.Machine.execAttestRequest p j s
  | .attestAnswer p j => Sys2Proof.Machine.execAttestAnswer p j s
  | .engineWdtExpire engine => Sys2Proof.Machine.execEngineWdtExpire engine s
  | .easelWdtExpire east => Sys2Proof.Machine.execEaselWdtExpire east s
  | .easelCoreRestarted east => Sys2Proof.Machine.execEaselCoreRestarted east s
  | .petW => Sys2Proof.Machine.execPetW s
  | .petE => Sys2Proof.Machine.execPetE s
  | .shaperRefill tick => Sys2Proof.Machine.execShaperRefill tick s
  | .egressSend port => Sys2Proof.Machine.execEgressSend port s
  | .ingressTake east => Sys2Proof.Machine.execIngressTake east s
  | .trfSampleTick tick => Sys2Proof.Machine.execTrfSampleTick tick s
  | .trfClear => Sys2Proof.Machine.execTrfClear s
  | .recordEntry => Sys2Proof.Machine.execRecordEntry s
  | .evqPop x flips => Sys2Proof.Machine.execEvqPop x flips s
  | .flushEvent => Sys2Proof.Machine.execFlushEvent s
  | .flushFault => Sys2Proof.Machine.execFlushFault s
  | .flushTrace => Sys2Proof.Machine.execFlushTrace s
  | .evqTraceMark value => Sys2Proof.Machine.execEvqTraceMark value s
  | .topFatalStickyClear => Sys2Proof.Machine.execTopFatalStickyClear s
  | .registerWrite addr value mask => Sys2Proof.Machine.execRegisterWrite addr value mask s
  | .pwrOkRise tick => Sys2Proof.Machine.execPwrOkRise tick s
  | .pwrOkFall tick => Sys2Proof.Machine.execPwrOkFall tick s
  | .devResetNFall tick => Sys2Proof.Machine.execDevResetNFall tick s
  | .devResetNRise tick => Sys2Proof.Machine.execDevResetNRise tick s
  | .wakeNFall tick => Sys2Proof.Machine.execWakeNFall tick s
  | .wakeNRise tick => Sys2Proof.Machine.execWakeNRise tick s
  | .inputStuckTimeout j => Sys2Proof.Machine.execInputStuckTimeout j s
  | .inputOverrunEnd j edges level => Sys2Proof.Machine.execInputOverrunEnd j edges level s
  | .unmask j => Sys2Proof.Machine.execUnmask j s
  | .pwrCtrlWake => Sys2Proof.Machine.execPwrCtrlWake s
  | .flashReadDone image broke => Sys2Proof.Machine.execFlashReadDone image broke s
  | .startTimeoutExpire => Sys2Proof.Machine.execStartTimeoutExpire s
  | .startOk => Sys2Proof.Machine.execStartOk s
  | .clearFails => Sys2Proof.Machine.execClearFails s
  | .bootCtrlReset => Sys2Proof.Machine.execBootCtrlReset s
  | .imgBegin => Sys2Proof.Machine.execImgBegin s
  | .bootImgData value => Sys2Proof.Machine.execBootImgData value s
  | .imgEnd => Sys2Proof.Machine.execImgEnd s
  | .mboxGo => Sys2Proof.Machine.execMboxGo s
  | .i3cPrivateWrite addr bytes parityOk => Sys2Proof.Machine.execI3cPrivateWrite addr bytes parityOk s
  | .i3cPrivateRead addr => Sys2Proof.Machine.execI3cPrivateRead addr s
  | .entdaa addr => Sys2Proof.Machine.execEntdaa addr s
  | .setdasa static dynamic => Sys2Proof.Machine.execSetdasa static dynamic s
  | .setnewda addr new => Sys2Proof.Machine.execSetnewda addr new s
  | .rstdaa => Sys2Proof.Machine.execRstdaa s
  | .getpid addr => Sys2Proof.Machine.execGetpid addr s
  | .getbcr addr => Sys2Proof.Machine.execGetbcr addr s
  | .getdcr addr => Sys2Proof.Machine.execGetdcr addr s
  | .getstatus addr => Sys2Proof.Machine.execGetstatus addr s
  | .getmwl addr => Sys2Proof.Machine.execGetmwl addr s
  | .getmrl addr => Sys2Proof.Machine.execGetmrl addr s
  | .jctSensorRead temps => Sys2Proof.Machine.execJctSensorRead temps s
  | .thermalRestart => Sys2Proof.Machine.execThermalRestart s
  | .stackTempHoldRead temps => Sys2Proof.Machine.execStackTempHoldRead temps s
  | .avsFrameDone ok value => Sys2Proof.Machine.execAvsFrameDone ok value s
  | .avsReadbackTimer => Sys2Proof.Machine.execAvsReadbackTimer s
  | .avsMonitorPoll current temp => Sys2Proof.Machine.execAvsMonitorPoll current temp s
  | .avsRetryTimer => Sys2Proof.Machine.execAvsRetryTimer s
  | .halfReset east => Sys2Proof.Machine.execHalfReset east s
  | .halfResetRelease east => Sys2Proof.Machine.execHalfResetRelease east s
  | .portEnable port on => Sys2Proof.Machine.execPortEnable port on s
  | .pcPowerDown k pc => Sys2Proof.Machine.execPcPowerDown k pc s
  | .refpb k pc bank => Sys2Proof.Machine.execRefpb k pc bank s
  | .flashWriteDone ok => Sys2Proof.Machine.execFlashWriteDone ok s
  | .jtagBypass => Sys2Proof.Machine.execJtagBypass s
  | .jtagIdcode => Sys2Proof.Machine.execJtagIdcode s
  | .jtagSamplePreload => Sys2Proof.Machine.execJtagSamplePreload s
  | .jtagExtest => Sys2Proof.Machine.execJtagExtest s
  | .jtagClamp => Sys2Proof.Machine.execJtagClamp s
  | .jtagHighz => Sys2Proof.Machine.execJtagHighz s
  | .startPllLock => Sys2Proof.Machine.execStartPllLock s
  | .hostWaitExpire => Sys2Proof.Machine.execHostWaitExpire s
  | .imageVerifyDone => Sys2Proof.Machine.execImageVerifyDone s
  | .easelStart => Sys2Proof.Machine.execEaselStart s

end Sys2Proof.Machine
end

