-- ==== Sys2Proof/WellFormed.lean ====
section
/-! DEFINITION. Which commands are well-formed: the operands of a row can be what the spec's fields hold. A command that is not is refused
as an input of the model by a fault of its own (`Fault.illFormed`); no rule of the spec is about it. -/

namespace Sys2Proof

open Sys2Proof.Machine

/-- Whether the operands of a command fit the fields that the spec gives them. -/
def Instr.wf : Instr → Bool
  | .nop _ => true
  | .csrRead _ => true
  | .csrWrite _ => true
  | .stage _ => true
  | .check _ => true
  | .commit _ => true
  | .commitEdge => true
  | .commitDone => true
  | .abandon _ => true
  | .stageExpire => true
  | .domainCreate _ => true
  | .domainDestroy _ => true
  | .destroyStep _ => true
  | .keyLoad _ => true
  | .sanitise _ => true
  | .gessoTake => true
  | .gessoExtentDone => true
  | .segLoad _ => true
  | .rangeInvalidate _ => true
  | .invalAck _ => true
  | .ackTimeout => true
  | .missTimeout _ => true
  | .windowOpen _ => true
  | .windowClose _ => true
  | .leaseGrant _ => true
  | .leaseRenew _ => true
  | .leaseRevoke _ => true
  | .leaseExpiryScan _ => true
  | .publish _ => true
  | .ownTransfer _ => true
  | .ownAccept _ => true
  | .ownReclaimTimer _ => true
  | .ownReleaseTimeout _ => true
  | .ownAcceptTimeout _ _ => true
  | .copy _ => true
  | .fill _ => true
  | .observe _ => true
  | .matmul _ => true
  | .route _ => true
  | .streamWindow _ => true
  | .stagingFillDone _ => true
  | .slotBind _ => true
  | .gatherPool _ => true
  | .rowReplace _ => true
  | .replaceApply _ => true
  | .rowMigrate _ => true
  | .migrateGraceEnd _ => true
  | .prefetchIndices _ => true
  | .search _ => true
  | .sideAppend _ => true
  | .sideDelete _ => true
  | .merge _ => true
  | .mergeBuildDone _ => true
  | .mergeDrainEnd _ => true
  | .bitwise _ => true
  | .powerState _ => true
  | .p2Entry => true
  | .p2ExitDone => true
  | .p3Entry => true
  | .p3EntryDone => true
  | .p3ExitVddReady => true
  | .p3ExitPllLock => true
  | .p3ExitDone => true
  | .clockSet _ => true
  | .clockRelockDone => true
  | .shadowBegin _ => true
  | .shadowCompare _ => true
  | .expelVote _ => true
  | .voteTimeout => true
  | .voteLapse _ => true
  | .attest _ => true
  | .attestTimeout => true
  | .fwStage _ => true
  | .fwActivate _ => true
  | .fwActivateReset => true
  | .cx6Nop _ => true
  | .cx6Copy _ => true
  | .cx6Fill _ => true
  | .cx6GatherPool _ => true
  | .cmdQDb _ _ => true
  | .cmdQCqDb _ _ => true
  | .queueEnable _ => true
  | .queueDisable _ => true
  | .queueReset _ => true
  | .commandAccept => true
  | .commandStart _ => true
  | .completionWrite _ => true
  | .tileWakeDone _ => true
  | .tileGate _ => true
  | .unitCmd _ i => drsTakes (isType 0x60) i
  | .unitAck _ i => drsTakes (isType 0x67) i
  | .unitCpl _ i => drsTakes (isType 0x61) i
  | .unitAckTimeout _ => true
  | .unitCplTimeout _ => true
  | .homeRead offset _ _ errs => decide (offset < 2 ^ 39) && symErrsFit errs
  | .homeWrite offset _ _ _ _ => decide (offset < 2 ^ 39)
  | .homeAtomic offset _ _ operand => decide (offset < 2 ^ 39) && atomOk operand offset
  | .scrubRead _ errs => symErrsFit errs
  | .stkRepair _ _ _ => true
  | .repairDone _ => true
  | .stkTempRead temps => decide (temps.length = 8)
  | .stkParityError _ _ => true
  | .stkTrainDone _ _ _ => true
  | .stkInitDone _ => true
  | .creditHoldExpire _ => true
  | .snoopTimeout _ _ => true
  | .walkDone _ => true
  | .rdS _ i => rowTakes 0x01 i
  | .rdO _ i => rowTakes 0x02 i
  | .rdU _ i => rowTakes 0x03 i
  | .wrU _ i => rowTakes 0x04 i
  | .wrUp _ i => rowTakes 0x05 i
  | .tlkAtom _ i => rowTakes 0x06 i
  | .wb _ i => rowTakes 0x07 i
  | .evict _ i => rowTakes 0x08 i
  | .snpAck _ i => rowTakes 0x10 i
  | .snpData _ i => rowTakes 0x11 i
  | .mwRead _ i => rowTakes 0x20 i
  | .mwWrite _ i => rowTakes 0x21 i
  | .missReply _ i => rowTakes 0x22 i
  | .tlkFlit _ f => flitFits f
  | .violWindowClose _ => true
  | .lostTimeExpire _ => true
  | .tlkRetrain _ => true
  | .tlkRelease _ => true
  | .declareLost _ => true
  | .linkTrainDone _ t => decide (t.node < 16384) && decide (t.span < 65536)
  | .linkDown _ => true
  | .linkIdle _ => true
  | .linkWakeDone _ => true
  | .drsFlit _ f => flitFits f
  | .drsRetrain _ => true
  | .drsRelease _ => true
  | .holdDownEnd _ => true
  | .forward _ i => dmsgFits i.m && decide (i.cls < 4)
  | .rd _ i => drsTakes (isType 0x01) i
  | .wr _ i => drsTakes (isType 0x02) i
  | .wrp _ i => drsTakes (isType 0x03) i
  | .drsAtom _ i => drsTakes (isType 0x04) i
  | .drsData _ i => drsTakes (isType 0x41) i
  | .drsCmp _ i => drsTakes (isType 0x42) i
  | .ares _ i => drsTakes (isType 0x43) i
  | .drsRetry _ i => drsTakes (isType 0x44) i
  | .drsCreditReady _ i => drsTakes (isType 0x45) i
  | .noroute _ i => drsTakes (isType 0x46) i
  | .drsNak _ i => drsTakes (isType 0x7F) i
  | .routeFenceRelease _ => true
  | .deadEntryAgeOut _ => true
  | .rspTimeout tag => decide (tag < 65536)
  | .atomResendTimer tag => decide (tag < 65536)
  | .replayEntryExpire _ atag age => decide (atag < 2 ^ 24) && decide (12800 ≤ age) && decide (age ≤ 16000)
  | .coalesceExpire => true
  | .gatewayShip => true
  | .bulkWr _ i => drsTakes (isType 0x70) i
  | .bulkAck _ i => drsTakes (isType 0x71) i
  | .pmsg _ i => drsTakes (isType 0x66) i
  | .ownOffer _ i => drsTakes (isKind 0x62 1 6) i
  | .accept _ i => drsTakes (isKind 0x62 2 6) i
  | .ownRelease _ i => drsTakes (isKind 0x62 3 6) i
  | .released _ i => drsTakes (isKind 0x62 4 6) i
  | .ownReclaim _ i => drsTakes (isKind 0x62 5 6) i
  | .ownAnswer _ i => drsTakes (isKind 0x62 6 6) i
  | .tokenGrant _ i => drsTakes (isKind 0x63 1 2) i
  | .tokenAck _ i => drsTakes (isKind 0x63 2 2) i
  | .tokenRenew _ => true
  | .tokenExpire => true
  | .beatTimer _ => true
  | .leadTimeout => true
  | .beat _ i => drsTakes (isKind 0x64 1 9) i
  | .claim _ i => drsTakes (isKind 0x64 2 9) i
  | .quorumGrant _ i => drsTakes (isKind 0x64 3 9) i
  | .vote _ i => drsTakes (isKind 0x64 4 9) i
  | .expel _ i => drsTakes (isKind 0x64 5 9) i
  | .shadow _ i => drsTakes (isKind 0x64 6 9) i
  | .clean _ i => drsTakes (isKind 0x64 7 9) i
  | .admitMember _ i => drsTakes (isKind 0x64 8 9) i
  | .quorumAck _ i => drsTakes (isKind 0x64 9 9) i
  | .attestRequest _ i => drsTakes (isKind 0x65 1 2) i
  | .attestAnswer _ i => drsTakes (isKind 0x65 2 2) i
  | .engineWdtExpire engine => decide (engine < 82)
  | .easelWdtExpire _ => true
  | .easelCoreRestarted _ => true
  | .petW => true
  | .petE => true
  | .shaperRefill _ => true
  | .egressSend _ => true
  | .ingressTake _ => true
  | .trfSampleTick _ => true
  | .trfClear => true
  | .recordEntry => true
  | .evqPop _ flips => decide (flips.length ≤ 4)
  | .flushEvent => true
  | .flushFault => true
  | .flushTrace => true
  | .evqTraceMark _ => true
  | .topFatalStickyClear => true
  | .registerWrite _ _ _ => true
  | .pwrOkRise _ => true
  | .pwrOkFall _ => true
  | .devResetNFall _ => true
  | .devResetNRise _ => true
  | .wakeNFall _ => true
  | .wakeNRise _ => true
  | .inputStuckTimeout _ => true
  | .inputOverrunEnd _ _ _ => true
  | .unmask _ => true
  | .pwrCtrlWake => true
  | .flashReadDone _ _ => true
  | .startTimeoutExpire => true
  | .startOk => true
  | .clearFails => true
  | .bootCtrlReset => true
  | .imgBegin => true
  | .bootImgData _ => true
  | .imgEnd => true
  | .mboxGo => true
  | .i3cPrivateWrite _ _ _ => true
  | .i3cPrivateRead _ => true
  | .entdaa _ => true
  | .setdasa _ _ => true
  | .setnewda _ _ => true
  | .rstdaa => true
  | .getpid _ => true
  | .getbcr _ => true
  | .getdcr _ => true
  | .getstatus _ => true
  | .getmwl _ => true
  | .getmrl _ => true
  | .jctSensorRead temps => decide (temps.length = 18)
  | .thermalRestart => true
  | .stackTempHoldRead temps => decide (temps.length = 8)
  | .avsFrameDone _ _ => true
  | .avsReadbackTimer => true
  | .avsMonitorPoll _ _ => true
  | .avsRetryTimer => true
  | .halfReset _ => true
  | .halfResetRelease _ => true
  | .portEnable _ _ => true
  | .pcPowerDown _ _ => true
  | .refpb _ _ _ => true
  | .flashWriteDone _ => true
  | .jtagBypass => true
  | .jtagIdcode => true
  | .jtagSamplePreload => true
  | .jtagExtest => true
  | .jtagClamp => true
  | .jtagHighz => true
  | .startPllLock => true
  | .hostWaitExpire => true
  | .imageVerifyDone => true
  | .easelStart => true

end Sys2Proof
end

