-- ==== Sys2Proof/Safety.lean ====
section
/-! DEFINITION. What counts as a well-formed state and as a completed command, in the terms the statements use. -/

namespace Sys2Proof.Machine

/-- The keys of a table rise strictly. -/
def risingKeys {α : Type} : Tbl α → Bool
  | [] => true
  | [_] => true
  | x :: y :: t => decide (x.1 < y.1) && risingKeys (y :: t)

/-- The canonical form of the store: addresses strictly rising, every one below the end of the store (R96), and no byte listed that an
unlisted address reads as. -/
def Memory.wf (m : List Host.Cell) : Bool := risingKeys m && m.all fun c => decide (c.1 < storeEnd) && c.2 != 0

/-- The canonical form of the registers: addresses strictly rising, each one assigned to a register (R13), every bit that the register's
definition does not store at its Reset value (R11), and no register listed at its Reset value. -/
def Regs.wf (t : Tbl Word) : Bool :=
  risingKeys t && t.all fun e => assigned e.1 && e.2 &&& readMask e.1 == e.2 && e.2 != rstVal e.1

/-- The well-formed devices. Every command keeps this, whatever the rest of the state. -/
def Dev.wf (d : Dev) : Bool := Memory.wf d.mem && Regs.wf d.csr

/-- The well-formed states. -/
abbrev State.Inv (s : State) : Prop := s.dev.wf = true

/-- A command answers a next state in which something holds. -/
def Completes (c : Instr) (s : State) (post : State → Prop) : Prop := ∃ t, exec c s = .next t ∧ post t

/-! ## Frames -/

/-- The parts of the device beside its registers and the bytes of its store. -/
inductive Part where
  | now
  | free
  | store
  | evq
  | home
  | own
  | stn
  | trf
  | fab
  | links
  | cmd
  | staged
  | dom
  | eng
  | sys
deriving DecidableEq, Repr

/-- Whether a part of the device is the same in two devices. -/
def Part.same (d e : Dev) : Part → Prop
  | .now => e.now = d.now
  | .free => e.free = d.free
  | .store => e.store = d.store
  | .evq => e.evq = d.evq
  | .home => e.home = d.home
  | .own => e.own = d.own
  | .stn => e.stn = d.stn
  | .trf => e.trf = d.trf
  | .fab => e.fab = d.fab
  | .links => e.links = d.links
  | .cmd => e.cmd = d.cmd
  | .staged => e.staged = d.staged
  | .dom => e.dom = d.dom
  | .eng => e.eng = d.eng
  | .sys => e.sys = d.sys

/-- From one device to another nothing changes but the parts, the registers and the bytes of the store named: every other part is the
same, every other register and every other byte reads the same. -/
structure Touches (parts : List Part) (regs bytes : Nat → Prop) (d e : Dev) : Prop where
  parts : ∀ p, p ∉ parts → p.same d e
  regs : ∀ a, ¬ regs a → e.reg a = d.reg a
  bytes : ∀ a, ¬ bytes a → e.byte a = d.byte a

/-- From one device to another nothing changes but the parts and the registers named; every byte of the store reads the same. -/
abbrev Changes (parts : List Part) (regs : Nat → Prop) (d e : Dev) : Prop := Touches parts regs (fun _ => False) d e

/-- No register. -/
abbrev noReg : Nat → Prop := fun _ => False

/-! ## Terms of the statements -/

/-- The registers of the banks of event queue `x` (R478, R483). -/
def bankRegs (x : Nat) : List Nat :=
  (List.range 16).flatMap fun b => [A.EVQ_X_BANK_SEQ x b, A.EVQ_X_BANK1 x b, A.EVQ_X_BANK2 x b, A.EVQ_X_BANK3 x b]

/-- How many records a source holds for a queue (R472). -/
def Dev.holds (d : Dev) (row srcInst x : Nat) : Nat :=
  (d.evq.held.filter fun h => h.row == row && h.srcInst == srcInst && h.x == x).length

/-- Whether a wake event changes nothing: the device is in P0 or P1, no entry or exit of P3 is under way and no request for P2 or P3
waits (R540). -/
def Dev.awake (d : Dev) : Prop := d.power < 2 ∧ d.sys.pwr.p3 = 0 ∧ d.sys.pwr.req = none

/-- A record as its source holds it (R470, R472). -/
def heldOf (code srcInst inst : Nat) (dom : Option Nat) (detail countA addr tick : Nat) : Held :=
  ⟨recRow code, srcInst, recQueue code, ⟨code, recClass code, inst, dom, detail, countA, addr, tick⟩⟩

/-- Whether a source can hold one more record of a code (R472). -/
def Dev.hasRoom (d : Dev) (code srcInst : Nat) : Prop := d.holds (recRow code) srcInst (recQueue code) < 8

/-- Bits 31:0 of a counter register count one more, and hold at their maximum (R12). -/
def Counts (a n : Nat) (d e : Dev) : Prop := e.fld a ⟨0, 32⟩ = min (d.fld a ⟨0, 32⟩ + n) (2 ^ 32 - 1)

/-- No Talku port is about to be quarantined for its violations (R268). -/
abbrev Dev.calm (d : Dev) : Prop := ∀ q < 4, d.overThreshold q = false

/-- Nothing waits at the slices: no request, no credit, no port about to be quarantined. -/
abbrev Dev.quiet (d : Dev) : Prop := d.home.waiting = [] ∧ d.home.credits = [] ∧ d.calm

/-- Nothing stands between a request for a line of the store and the line: its stack serves it, no request waits at a slice, no snoop is
outstanding, the line holds no symbol error and is not poisoned, it is not published and its region is not in transfer (R217, R226), and no port
is about to be quarantined. -/
structure Dev.lineFree (d : Dev) (n : Nat) : Prop where
  calm : d.calm
  inStore : 64 * n < storeEnd
  serves : d.stackServes (stackOf (64 * n)) = true
  unrepaired : d.repairing (64 * n) = false
  waiting : d.home.waiting = []
  snoops : d.home.snoops = []
  errs : d.errsAt n = []
  sound : (d.meta_ n).poison = false
  unpublished : d.published n = false
  atHome : (d.ownRec (regionOf n)).st ≠ 1

/-- The bytes of a line, and every other byte of the store, after a store of the line (R105). -/
def Stores (n : Nat) (v : Line) (d e : Dev) : Prop :=
  (∀ i, i < 64 → e.byte (64 * n + i) = byteOf v i) ∧ ∀ a, a / 64 ≠ n → e.byte a = d.byte a

/-- A message that the device sends to the host of a Talku port, as it waits for egress (R319, R323). -/
def Dev.tlkEgr (d : Dev) (p : Nat) (dom : Option Nat) (m : TMsg) : Egr :=
  ⟨p, tlkClass m, tlkVc m.type, if tlkClass m = 0 then none else dom, false, d.now, .t m⟩

/-- A message waits for egress behind those that were there (R323 to R325): in its class queue where no shaper acts on it; else, with no other
message of its domain at the shaper, in its class queue too unless it carries data and a limited domain has no tokens left. -/
def Queued (x : Egr) (d e : Dev) : Prop :=
  let sent := e.trf.classq = d.trf.classq ++ [x] ∧ e.trf.shaper = d.trf.shaper
  (x.dom = none → sent) ∧
  ∀ n ∈ x.dom.toList, (∀ y ∈ d.trf.shaper, y.dom ≠ some n) →
    if x.msg.carriesData && d.trf.limited.contains n && decide (d.tokens n ≤ 0)
    then e.trf.classq = d.trf.classq ∧ e.trf.shaper = d.trf.shaper ++ [{ x with held := true }] else sent

/-- The registers of a domain's shaper that a message of the domain changes (R325, R327). -/
def shaperRegs (dom : Nat) (a : Nat) : Prop := a = A.TRF_SHP_STAT dom ∨ a = A.TRF_SHP_HELD_CNT dom

/-- A message of a size has come over a virtual channel of a port and given up its place in the receive buffer: its units are owed as credits,
and nothing else of the links changes (R256, R295). -/
def Heard (port vc size : Nat) (d e : Dev) : Prop :=
  let l := d.link port
  e.links = d.links.set port
    { l with rxUsed := putAt l.rxUsed vc (l.rxUsed.getD vc 0), rxOwed := putAt l.rxOwed vc (l.rxOwed.getD vc 0 + size / 16) }

/-- A message of a host, or of another node, has come over its port and has not kept its place in the receive buffer. -/
abbrev HeardTlk (p : Nat) (i : TIn) (d e : Dev) : Prop := Heard p i.vc (tmsgSize i.m) d e
abbrev HeardDrs (n : Nat) (i : DIn) (d e : Dev) : Prop := Heard (n + 4) (drsInVc i) (dmsgSize i.m) d e

/-- No request waits at the arbiter of a half, and none for the delivery buffer at the other (R305, R331). -/
abbrev Dev.arbiterIdle (d : Dev) (east : Bool) : Prop := ∀ x ∈ d.trf.ing, x.east ≠ east ∧ (x.fromDrs = true → x.buf = none)

/-- A request of a host for one line is served at once: the device is not in P3, its port is UP, it is no violation and carries no credit, the
port's meter is off and its arbiter idle, the port holds the lease of the extent for a domain, and nothing stands between it and its line (R217,
R267, R272, R331). -/
structure Dev.hostServed (d : Dev) (p : Nat) (i : TIn) (dom : Nat) : Prop where
  power : d.power ≠ 3
  up : d.portState p = Ps.up
  valid : d.tlkViolation p i = none
  calm : ∀ q < 4, d.overThreshold q = false
  inbox : (d.link p).inbox = []
  errs : i.errs = []
  credit : i.m.credit = none
  unmetered : (d.meterCfg p).1 = 0
  idle : d.arbiterIdle (portEast p)
  credits : d.home.credits = []
  groups : d.home.groups = []
  held : d.fld (A.TLK_STATUS p) F.TLK_STATUS_RETRY_HOLD = 0
  lease : d.leaseCheck p i.m.addr = .inl dom
  line : d.lineFree (i.m.addr / 64)

/-- A message of another node for this device, or one of another span, over a link that is UP is handled at once: it fits its format, is no
violation and its port is not about to be quarantined (R269, R294). -/
structure Dev.drsServed (d : Dev) (n : Nat) (i : DIn) : Prop where
  up : d.portState (n + 4) = Ps.up
  valid : d.drsViolation n i = none
  calm : d.overThreshold (n + 4) = false
  inbox : (d.link (n + 4)).inbox = []
  fits : dmsgFits i.m = true
  errs : i.errs = []
  here : d.isExt (n + 4) = true ∨ i.m.dst = d.node

/-- A message of this device on its way to another node on behalf of a domain, as it waits for egress: the first route that avoids the dead list,
when its first trunk is available (R292, R300, R302, R323). -/
def Dev.drsEgrFor (d : Dev) (dom : Option Nat) (m : DMsg) : Option Egr := do
  let c ← d.chooseRoute m.dst
  let m' := withRoute d m c
  let dir ← nextDir d.node m'
  if d.trunkOk dir then
    let m2 := { m' with dateline := m'.dateline || crossesDateline d.dims d.node dir, hops := m'.hops + 1 }
    some ⟨d.trunkPort dir m' + 4, drsClass m', drsVc m2, if drsCls m.type = 0 then none else dom, false, d.now, .d m2⟩
  else none

/-- A message of this device on behalf of the domain that it names. -/
abbrev Dev.drsEgr (d : Dev) (m : DMsg) : Option Egr := d.drsEgrFor (some m.srcDomain) m

/-- A message of this device on behalf of a domain leaves on its first good route, if that can be taken now. -/
def SentFor (dom : Option Nat) (m : DMsg) (d e : Dev) : Prop := ∀ x, d.drsEgrFor dom m = some x → Queued x d e

/-- A message of this device leaves on behalf of the domain that it names. -/
abbrev Sent (m : DMsg) (d e : Dev) : Prop := SentFor (some m.srcDomain) m d e

/-- A remote request of this device has ended: it leaves the table and its command has the outcome (R303, R306). -/
def Ended (o : Outst) (g : Got) (d e : Dev) : Prop :=
  e.fab = { d.fab with out := d.fab.out.filter fun x => x.m.tag != o.m.tag } ∧
  e.cmd = { d.cmd with runs := d.cmd.runs.map fun r => if r.seq == o.seq then r.give { g with key := o.key } else r }

/-- No request for a node is held back behind another (R220, R303). -/
def Dev.nothingHeld (d : Dev) (node : Nat) : Prop := ∀ x ∈ d.fab.out, x.m.dst = node → x.heldBack = false

/-- A message of this device to each of some nodes waits for egress, if its first good route can be taken now. -/
def Tells (l : List Nat) (m : Nat → DMsg) (d e : Dev) : Prop := ∀ n ∈ l, ∀ x, d.drsEgr (m n) = some x → x ∈ e.trf.classq

/-- A command in progress whose sequence number no other one has. -/
def Dev.only (d : Dev) (r : Run) : Prop := r ∈ d.cmd.runs ∧ ∀ x ∈ d.cmd.runs, x.seq = r.seq → x = r

/-- The completion of a command in progress is decided (R62). -/
def Completed (r : Run) (c : Cpl) (e : Dev) : Prop := (e.runSeq r.seq).bind (·.cpl) = some c

/-- What a device remembers of a QUORUM message: which manager was heard, when it is a span manager, and the highest term (R494). -/
def Dev.remembers (d : Dev) (u : Line) : ResSt :=
  { d.sys.res with
    heard := if le u 1 1 < 5 ∧ d.isSpanMgr = true then tset 0 d.sys.res.heard (le u 1 1) (d.now + 1) else d.sys.res.heard
    maxTerm := max d.sys.res.maxTerm (le u 4 4) }

/-- What a read of a register shows (R11, R49). -/
def Dev.shows (d : Dev) (a : Nat) : Word := if d.inDownHalf a then 0 else d.view a

/-- A register whose read changes nothing and shows nothing that the spec leaves open (R478). -/
def plainRead (a : Nat) : Prop :=
  addrRefusal a = none ∧
    regBase a ∉ [A.EVQ_X_POP 0, A.MTX_STATUS 0 0, A.XPD_STATUS 0, A.TSR_STATUS 0, A.CRD_STATUS 0, A.GES_STATUS]

/-- A register above the AON and command blocks that a write does nothing to but store bits as written (R10), on which no quarantine and no
rate in force depends (R268, R326, R329). -/
def plainWrite (a : Nat) : Prop :=
  0x58000 ≤ a ∧ regBase a ∉ [A.TLK_CFG 0, A.DRS_CFG 0, A.TLK_LIMIT 0, A.TRF_NODE_METER, A.TLK_CTRL 0, A.DRS_CTRL 0, A.TRF_SAMPLE,
    A.STK_REPAIR 0, A.GES_CFG, A.STK_CFG 0, A.STG_CFG 0, A.TLK_VIOL_CFG 0, A.DOM_BW 0]

/-- A register after a write of the bits of a mask: RW bits take the value, W1C bits written as 1 are cleared, the others stay (R10). -/
def written (a : Nat) (old v m : Word) : Word :=
  (((old &&& ~~~(rwMask a &&& m)) ||| (v &&& (rwMask a &&& m))) &&& ~~~(v &&& m &&& w1cMask a)) &&& readMask a

/-- A row carries a command on: an issuer that is not firmware has it running under this opcode with its completion not decided, its sequence
number is its own, firmware has no command of its own in progress, and no commit edge has passed since it started (R15, R67, R85). -/
structure Dev.carries (d : Dev) (q : Req) (op : Nat) (r : Run) : Prop where
  issuer : issOf q ≠ .fw
  run : d.runOf (issOf q) = some r
  goes : r.goes op = true
  only : d.only r
  firmware : d.runOf .fw = none
  kept : r.kept = []

/-- The completion of a command in progress is decided, and nothing else of the command interface changes (R62). -/
def Concludes (r : Run) (c : Cpl) (d e : Dev) : Prop :=
  e.cmd = { d.cmd with runs := d.cmd.runs.map fun x => if x.seq = r.seq then { x with cpl := some c } else x }

/-- The byte that a write of a command stores at an address of the store, if any (R191). -/
def Wr.byteAt (w : Wr) (a : Nat) : Option Byte :=
  match w.tgt with
  | .loc off _ => if off / 64 = a / 64 ∧ w.mask.getLsbD (a % 64) = true then some (byteOf w.data (a % 64)) else none
  | .win .. => none

/-- A write of a command lands at once: it is local, allowed and sound, and nothing stands between it and its line, which no host holds
(R131, R191, R226). -/
def Dev.landsNow (d : Dev) (r : Run) (w : Wr) : Prop :=
  w.pcause = 0 ∧ match w.tgt with
  | .loc off cls => d.lineFree (off / 64) ∧ d.dirOf (off / 64) = (0, 0) ∧ d.refusal (64 * (off / 64)) (some r.dom) (some cls) = none
  | .win .. => False

/-- Every byte of the store after some writes, newest first: the newest write of it, or the byte as it was (R191). -/
def Lands (l : List Wr) (d e : Dev) : Prop := ∀ a, e.byte a = (l.findSome? (·.byteAt a)).getD (d.byte a)

/-- A command goes on to a phase of its own with its own words, and nothing else of the command interface changes. -/
def MovesOn (r : Run) (phase : Nat) (aux : List Nat) (d e : Dev) : Prop :=
  e.cmd = { d.cmd with runs := d.cmd.runs.map fun x => if x.seq = r.seq then { x with phase := phase, aux := aux } else x }

end Sys2Proof.Machine
end

