-- ==== Sys2Proof/Certificates/Slice0/Obligations.lean ====
section
/-! DEFINITION. The statements for the provers. Conventions of the model's own that many of them share: where a clause gives the AON
counter after a row it rests on assumption log 6; a row of an opcode carries on the oldest running command of its opcode and issuer (log
20); a message row carries its message itself (log 119); a request that finds its arbiter idle is taken at once (log 16). -/

open Sys2Proof Sys2Proof.Machine

/-! ## The machine as a whole -/

/-- A step takes the command at the front of the queue and is that command's effect with the rest of the queue; with an empty queue the
block idles (assumption log 7). -/
def Obligations.StepRunsFrontCommand : Prop :=
  (∀ (c : Instr) (rest : List Instr) (d : Dev), step ⟨d, c :: rest⟩ = exec c ⟨d, rest⟩) ∧ ∀ d : Dev, step ⟨d, []⟩ = .next ⟨d, []⟩

/-- The state after reset is well-formed; no command waits, the AON counter stands at 0, every register reads its Reset value and every
byte of the store zero. -/
def Obligations.ResetState : Prop :=
  State.reset.Inv ∧ State.reset.pending = [] ∧ State.reset.dev.now = 0 ∧ (∀ a, State.reset.dev.reg a = rstVal a) ∧
    ∀ a, State.reset.dev.byte a = 0

/-- Every step from any well-formed state keeps it well-formed: the store lists rising addresses below its end and no zero byte, and the
registers list rising assigned addresses, no bit that the register does not store, and no Reset value. -/
def Obligations.StepKeepsStateWellFormed : Prop :=
  ∀ s t : State, s.Inv → step s = .next t → t.Inv

/-- Every command whose operands fit the fields of its row runs: it answers a next state, never a fault or a refusal, and leaves the
queue as it is. One whose operands do not fit is turned away as ill-formed. -/
def Obligations.WellFormedCommandsRun : Prop :=
  ∀ (c : Instr) (s : State), if c.wf = true then ∃ t, exec c s = .next t ∧ t.pending = s.pending else exec c s = .fault .illFormed

/-- In a well-formed state a register reads zero in every bit that its definition does not store, except a bit of its Reset value; an
address that is not assigned to a register holds nothing. -/
def Obligations.ReservedBitsHoldNothing : Prop :=
  ∀ s : State, s.Inv → (∀ a, s.dev.reg a = rstVal a ∨ s.dev.reg a &&& readMask a = s.dev.reg a) ∧
    ∀ a, assigned a = false → s.dev.reg a = 0

/-! ## Event, fault and trace queues -/

/-- RECORD_ENTRY: of the records that sources offer for a queue the one first in order, carried over its source's crossing, enters it with the next
number of its series and leaves its source; into a full queue it overwrites the oldest record, which is counted. A crossing with 4 events pending
loses it, and its bit is set. -/
def Obligations.RecordEntersQueue : Prop :=
  ∀ (s : State) (x : Fin 3) (h : Held),
    let e := s.dev.evq
    let f := if x = 2 then F.EVQ_SEQ_TRACE_NEXT else F.EVQ_SEQ_NEXT
    let owed := e.owed.contains (h.row, h.srcInst, h.x)
    let full := evqCap x ≤ (e.queue x).length
    let cycle := max s.dev.now e.entryAt
    let pend (c : Nat) : List Nat := (tget [] s.dev.sys.pwr.cdc c).filter fun t => decide (cycle < t)
    let carried : SysSt := match h.crossing with
      | some c => { s.dev.sys with pwr := { s.dev.sys.pwr with cdc := tset [] s.dev.sys.pwr.cdc c (pend c ++ [(pend c).getLastD cycle + 2]) } }
      | none => s.dev.sys
    e.pick x = some h → h.x = x → (∀ y : Fin 3, y ≠ x → e.pick y = none) →
    ((∀ c, h.crossing = some c → (pend c).length < 4) → Completes .recordEntry s fun t =>
      t.dev.evq = { e.setQueue x ((if full then (e.queue x).drop 1 else e.queue x) ++ [⟨s.dev.fld A.EVQ_SEQ f, owed, h.r⟩]) with
        held := e.held.erase h, owed := e.owed.erase (h.row, h.srcInst, h.x), entryAt := cycle + 1 } ∧
      t.dev.sys = carried ∧ t.dev.fld A.EVQ_SEQ f = (s.dev.fld A.EVQ_SEQ f + 1) % 2 ^ 32 ∧
      (¬ full → t.dev.reg (A.EVQ_X_LOST_CNT x) = s.dev.reg (A.EVQ_X_LOST_CNT x)) ∧
      (full → t.dev.fld (A.EVQ_X_LOST_CNT x) ⟨0, 32⟩ = min (s.dev.fld (A.EVQ_X_LOST_CNT x) ⟨0, 32⟩ + 1) (2 ^ 32 - 1)) ∧
      Changes [.evq, .sys] (· ∈ [A.EVQ_SEQ, A.EVQ_X_LOST_CNT x]) s.dev t.dev) ∧
    ∀ c, h.crossing = some c → 4 ≤ (pend c).length →
      let lost := bit (s.dev.reg (A.PWR_CDC_OVR (c / 64))) (c % 64)
      (lost = true → Completes .recordEntry s fun t =>
        t.dev.evq = { e with held := e.held.erase h, entryAt := cycle + 1 } ∧ Changes [.evq] noReg s.dev t.dev) ∧
      (lost = false → s.dev.hasRoom Ev.cdcOverrun 0 → Completes .recordEntry s fun t =>
        t.dev.evq = { e with held := (e.held ++ [heldOf Ev.cdcOverrun 0 c none 0 0 0 s.dev.now]).erase h, entryAt := cycle + 1 } ∧
        bit (t.dev.reg (A.PWR_CDC_OVR (c / 64))) (c % 64) = true ∧ Changes [.evq] (· = A.PWR_CDC_OVR (c / 64)) s.dev t.dev)

/-- The event, fault and trace queues hold at most 4,096, 2,048 and 8,192 records: record entry keeps each within its capacity. -/
def Obligations.QueuesKeepTheirCapacity : Prop :=
  evqCap 0 = 4096 ∧ evqCap 1 = 2048 ∧ evqCap 2 = 8192 ∧
  ∀ s t : State, (∀ x : Fin 3, (s.dev.evq.queue x).length ≤ evqCap x) → exec .recordEntry s = .next t →
    ∀ x : Fin 3, (t.dev.evq.queue x).length ≤ evqCap x

/-- A read of EVQ_X_POP without bit errors takes the oldest record, puts words 1 to 3 and SEQ into the next bank and moves to the bank
after it; a read of an empty queue changes nothing. -/
def Clause.PopTakesOldestRecord : Prop :=
  ∀ (s : State) (x : Fin 3),
    (s.dev.evq.queue x = [] → Completes (.evqPop x []) s fun t => t = s) ∧
    ∀ q rest, s.dev.evq.queue x = q :: rest → s.dev.evq.bank x < 16 →
      let b := s.dev.evq.bank x
      Completes (.evqPop x []) s fun t =>
        t.dev.evq = (s.dev.evq.setQueue x rest).setBank x ((b + 1) % 16) ∧
        t.dev.reg (A.EVQ_X_BANK_SEQ x b) = BitVec.ofNat 64 (q.seq % 2 ^ 32) ∧ t.dev.reg (A.EVQ_X_BANK1 x b) = q.word1 ∧
        t.dev.reg (A.EVQ_X_BANK2 x b) = q.word2 ∧ t.dev.reg (A.EVQ_X_BANK3 x b) = q.word3 ∧
        (∀ a ∈ [A.EVQ_X_CE_CNT x, A.EVQ_X_UE_CNT x], t.dev.fld a ⟨0, 32⟩ = s.dev.fld a ⟨0, 32⟩) ∧
        Changes [.evq] (· ∈ [A.EVQ_X_BANK_SEQ x b, A.EVQ_X_BANK1 x b, A.EVQ_X_BANK2 x b, A.EVQ_X_BANK3 x b, A.EVQ_X_CE_CNT x,
          A.EVQ_X_UE_CNT x]) s.dev t.dev

/-- A write of 1 to a FLUSH field of EVQ_CTRL empties that queue with its banks and changes nothing else; a write of 1 to
TOP_FATAL_STICKY.ANY clears that register. -/
def Clause.FlushesAndStickyClear : Prop := ∀ s : State,
  let post (x : Nat) (t : State) : Prop := t.dev.evq = (s.dev.evq.setQueue x []).setBank x 0 ∧
    (∀ a ∈ bankRegs x, t.dev.reg a = 0) ∧ Changes [.evq] (· ∈ bankRegs x) s.dev t.dev
  Completes .flushEvent s (post 0) ∧ Completes .flushFault s (post 1) ∧ Completes .flushTrace s (post 2) ∧
    Completes .topFatalStickyClear s fun t => t.dev.reg A.TOP_FATAL_STICKY = 0 ∧ Changes [] (· = A.TOP_FATAL_STICKY) s.dev t.dev

/-- A write of EVQ_TRACE_MARK raises TRC_MARK for the trace queue with the value in ADDR while trace runs, and does nothing while it
does not; a source that holds 8 records discards it, counted. -/
def Clause.TraceMark : Prop := ∀ (s : State) (v : Word),
  (s.dev.fld A.EVQ_TRACE_CFG F.EVQ_TRACE_CFG_EN ≠ 1 → Completes (.evqTraceMark v) s fun t => t = s) ∧
  (s.dev.fld A.EVQ_TRACE_CFG F.EVQ_TRACE_CFG_EN = 1 → s.dev.holds 17 0 2 < 8 →
    Completes (.evqTraceMark v) s fun t =>
      t.dev.evq = { s.dev.evq with held := s.dev.evq.held ++ [⟨17, 0, 2, ⟨0x0F10, 0, 0x3FF, none, 0, 0, v.toNat, s.dev.now⟩⟩] } ∧
      Changes [.evq] noReg s.dev t.dev) ∧
  (s.dev.fld A.EVQ_TRACE_CFG F.EVQ_TRACE_CFG_EN = 1 → 8 ≤ s.dev.holds 17 0 2 →
    Completes (.evqTraceMark v) s fun t =>
      t.dev.evq.held = s.dev.evq.held ∧
      t.dev.fld (A.EVQ_X_DROP_CNT 2) ⟨0, 32⟩ = min (s.dev.fld (A.EVQ_X_DROP_CNT 2) ⟨0, 32⟩ + 1) (2 ^ 32 - 1) ∧
      Changes [.evq] (· = A.EVQ_X_DROP_CNT 2) s.dev t.dev)

/-- What software does to the event queues: reads that take the oldest record, flushes, the clear of the fatal bit and trace marks. -/
def Obligations.EventQueueReads : Prop :=
  Clause.PopTakesOldestRecord ∧ Clause.FlushesAndStickyClear ∧ Clause.TraceMark

/-! ## Command queues -/

/-- ENABLE written 1: a DISABLED queue with a valid descriptor runs with ERR 0, one with an invalid descriptor is HALTED with ERR 1, and
a queue in any other state takes the bit and nothing else. -/
def Clause.QueueEnable : Prop := ∀ (s : State) (q : Fin 512),
  (s.dev.qstate q = Qs.disabled → s.dev.queueOk q = true → Completes (.queueEnable q) s fun t =>
    t.dev.qcfg q F.CMD_Q_CFG_ENABLE = 1 ∧ t.dev.qstate q = Qs.running ∧ t.dev.fld (A.CMD_Q_STATE q) F.CMD_Q_STATE_ERR = 0 ∧
    Changes [] (· ∈ [A.CMD_Q_CFG q, A.CMD_Q_STATE q]) s.dev t.dev) ∧
  (s.dev.qstate q = Qs.disabled → s.dev.queueOk q = false → Completes (.queueEnable q) s fun t =>
    t.dev.qcfg q F.CMD_Q_CFG_ENABLE = 1 ∧ t.dev.qstate q = Qs.halted ∧ t.dev.fld (A.CMD_Q_STATE q) F.CMD_Q_STATE_ERR = 1) ∧
  (s.dev.qstate q ≠ Qs.disabled → Completes (.queueEnable q) s fun t =>
    t.dev.qcfg q F.CMD_Q_CFG_ENABLE = 1 ∧ Changes [] (· = A.CMD_Q_CFG q) s.dev t.dev)

/-- ENABLE written 0: a RUNNING queue drains, or is DISABLED at once where no command of it is accepted and not complete; packets not
yet accepted are no longer accepted and its job is released. -/
def Clause.QueueDisable : Prop := ∀ (s : State) (q : Fin 512),
  (s.dev.qstate q = Qs.running → Completes (.queueDisable q) s fun t =>
    t.dev.qcfg q F.CMD_Q_CFG_ENABLE = 0 ∧ t.dev.qstate q = (if s.dev.queueBusy q then Qs.draining else Qs.disabled) ∧
    t.dev.cmd.bells = s.dev.cmd.bells.filter (fun b => b.q != q.val) ∧ t.dev.cmd.acc = s.dev.cmd.acc ∧
    t.dev.eng.jobs = s.dev.eng.jobs.filter (fun j => j.queue != q.val) ∧ t.dev.own.ret = s.dev.own.ret.filter (fun x => x.queue != q.val) ∧
    Changes [.cmd, .eng, .own] (fun a => a = A.CMD_Q_CFG q ∨ a = A.CMD_Q_STATE q ∨ ∃ i, a = A.STR_RELEASE_CNT i) s.dev t.dev) ∧
  (s.dev.qstate q ≠ Qs.running → Completes (.queueDisable q) s fun t =>
    t.dev.qcfg q F.CMD_Q_CFG_ENABLE = 0 ∧ Changes [] (· = A.CMD_Q_CFG q) s.dev t.dev)

/-- RESET written 1 (R73): a HALTED or DRAINING queue is DISABLED with its pointers, ERR and ENABLE zero, and what was accepted from its ring
and not started is gone (assumption log 22); in the other states nothing happens. -/
def Clause.QueueReset : Prop := ∀ (s : State) (q : Fin 512),
  (s.dev.qstate q = Qs.halted ∨ s.dev.qstate q = Qs.draining → Completes (.queueReset q) s fun t =>
    t.dev.reg (A.CMD_Q_PTR q) = 0 ∧ t.dev.qstate q = Qs.disabled ∧ t.dev.fld (A.CMD_Q_STATE q) F.CMD_Q_STATE_ERR = 0 ∧
    t.dev.qcfg q F.CMD_Q_CFG_ENABLE = 0 ∧
    t.dev.cmd = { s.dev.cmd with bells := s.dev.cmd.bells.filter (fun b => b.q != q.val),
                                 acc := s.dev.cmd.acc.filter fun a => a.iss != .q q.val } ∧
    Changes [.cmd] (· ∈ [A.CMD_Q_PTR q, A.CMD_Q_STATE q, A.CMD_Q_CFG q]) s.dev t.dev) ∧
  (¬ (s.dev.qstate q = Qs.halted ∨ s.dev.qstate q = Qs.draining) → Completes (.queueReset q) s fun t => t = s)

/-- The three control bits of a command queue: ENABLE written 1, ENABLE written 0 and RESET, in every state of the queue. -/
def Obligations.QueueControl : Prop :=
  Clause.QueueEnable ∧ Clause.QueueDisable ∧ Clause.QueueReset

/-- CMD_Q_DB of a RUNNING queue in P0 or P1: a PROD within the ring is taken and its packets wait to be accepted, one beyond the ring halts
the queue with ERR 2; a queue that does not run takes no doorbell. -/
def Clause.DoorbellMovesProd : Prop := ∀ (s : State) (q : Fin 512) (prod : BitVec 16),
  let d := s.dev
  let old := d.qptr q F.CMD_Q_PTR_PROD
  let cons := d.qptr q F.CMD_Q_PTR_CONS
  let fits := ptrSub prod.toNat cons ≤ d.ringSize q ∧ ptrSub prod.toNat old ≤ d.ringSize q - ptrSub old cons
  d.awake →
  (d.qstate q = Qs.running → fits → Completes (.cmdQDb q prod) s fun t =>
    t.dev.qptr q F.CMD_Q_PTR_PROD = prod.toNat ∧
    (∀ f ∈ [F.CMD_Q_PTR_CONS, F.CMD_Q_PTR_CQ_HEAD, F.CMD_Q_PTR_CQ_TAIL], t.dev.qptr q f = d.qptr q f) ∧
    t.dev.cmd = (if prod.toNat = old then d.cmd else { d.cmd with bells := d.cmd.bells ++ [⟨q, old, prod.toNat⟩] }) ∧
    Changes [.cmd] (· = A.CMD_Q_PTR q) d t.dev) ∧
  (d.qstate q = Qs.running → ¬ fits → Completes (.cmdQDb q prod) s fun t =>
    t.dev.qstate q = Qs.halted ∧ t.dev.fld (A.CMD_Q_STATE q) F.CMD_Q_STATE_ERR = 2 ∧ t.dev.reg (A.CMD_Q_PTR q) = d.reg (A.CMD_Q_PTR q)) ∧
  (d.qstate q ≠ Qs.running → Completes (.cmdQDb q prod) s fun t => t = s)

/-- CMD_Q_CQ_DB of a RUNNING queue in P0 or P1: a CQ_HEAD up to CQ_TAIL is taken, one beyond it halts the queue with ERR 3; a queue that
does not run takes none. -/
def Clause.CompletionDoorbellMovesHead : Prop := ∀ (s : State) (q : Fin 512) (head : BitVec 16),
  let d := s.dev
  let old := d.qptr q F.CMD_Q_PTR_CQ_HEAD
  let fits := ptrSub head.toNat old ≤ ptrSub (d.qptr q F.CMD_Q_PTR_CQ_TAIL) old
  d.awake →
  (d.qstate q = Qs.running → fits → Completes (.cmdQCqDb q head) s fun t =>
    t.dev.qptr q F.CMD_Q_PTR_CQ_HEAD = head.toNat ∧
    (∀ f ∈ [F.CMD_Q_PTR_PROD, F.CMD_Q_PTR_CONS, F.CMD_Q_PTR_CQ_TAIL], t.dev.qptr q f = d.qptr q f) ∧
    Changes [] (· = A.CMD_Q_PTR q) d t.dev) ∧
  (d.qstate q = Qs.running → ¬ fits → Completes (.cmdQCqDb q head) s fun t =>
    t.dev.qstate q = Qs.halted ∧ t.dev.fld (A.CMD_Q_STATE q) F.CMD_Q_STATE_ERR = 3 ∧ t.dev.reg (A.CMD_Q_PTR q) = d.reg (A.CMD_Q_PTR q)) ∧
  (d.qstate q ≠ Qs.running → Completes (.cmdQCqDb q head) s fun t => t = s)

/-- The two doorbells of a command queue, inside the ring, beyond it and on a queue that does not run. -/
def Obligations.Doorbells : Prop :=
  Clause.DoorbellMovesProd ∧ Clause.CompletionDoorbellMovesHead

/-! ## The store -/

/-- STK_REPAIR with no reason to refuse it starts the repair, and STK_REPAIR_STAT shows it running; with a reason nothing is repaired and
the register shows the refusal and its reason. -/
def Clause.LaneRepairStartsOrIsRefused : Prop := ∀ (s : State) (k : Fin 8) (pc pin : Fin 64),
  (s.dev.repairRefusal k pc pin = none → Completes (.stkRepair k pc pin) s fun t =>
    t.dev.fld (A.STK_REPAIR_STAT k) F.STK_REPAIR_STAT_RESULT = 1 ∧ t.dev.fld (A.STK_REPAIR_STAT k) F.STK_REPAIR_STAT_PC = pc ∧
    t.dev.fld (A.STK_REPAIR_STAT k) F.STK_REPAIR_STAT_PIN = pin ∧
    t.dev.store = { s.dev.store with repairs := s.dev.store.repairs ++ [⟨k, pc, pin⟩] } ∧
    Changes [.store] (· = A.STK_REPAIR_STAT k) s.dev t.dev) ∧
  ∀ why, s.dev.repairRefusal k pc pin = some why → Completes (.stkRepair k pc pin) s fun t =>
    t.dev.fld (A.STK_REPAIR_STAT k) F.STK_REPAIR_STAT_RESULT = 3 ∧ t.dev.fld (A.STK_REPAIR_STAT k) F.STK_REPAIR_STAT_REASON = why ∧
    Changes [] (· = A.STK_REPAIR_STAT k) s.dev t.dev

/-- REPAIR_DONE: the spare lane carries the repaired pin, an erasure of that pin is cleared and of another stays, the repair is over, and
PIN_SPARED is raised. With no repair under way nothing happens. -/
def Clause.LaneRepairEnds : Prop := ∀ (s : State) (k : Fin 8), s.dev.quiet →
  ((∀ r ∈ s.dev.store.repairs, r.stack ≠ k.val) → Completes (.repairDone k) s fun t => t = s) ∧
  ∀ (r : Repair), s.dev.store.repairs.find? (fun r => r.stack == k.val) = some r → r.pc < 64 → r.pin < 64 → s.dev.holds 3 k 1 < 8 →
    Completes (.repairDone k) s fun t =>
      t.dev.fld (A.STK_PC_ERASE k r.pc) F.STK_PC_ERASE_SPARED = 1 ∧ t.dev.fld (A.STK_PC_ERASE k r.pc) F.STK_PC_ERASE_SPARE_PIN = r.pin ∧
      t.dev.fld (A.STK_PC_ERASE k r.pc) F.STK_PC_ERASE_ERASED =
        (if s.dev.erasedPin k r.pc = some r.pin then 0 else s.dev.fld (A.STK_PC_ERASE k r.pc) F.STK_PC_ERASE_ERASED) ∧
      t.dev.fld (A.STK_REPAIR_STAT k) F.STK_REPAIR_STAT_RESULT = 2 ∧ t.dev.fld (A.STK_REPAIR_STAT k) F.STK_REPAIR_STAT_REASON = 0 ∧
      t.dev.store = { s.dev.store with repairs := s.dev.store.repairs.erase r } ∧
      t.dev.evq = { s.dev.evq with held := s.dev.evq.held ++ [⟨3, k, 1, ⟨0x0204, 1, k, none, 0, 0, r.pc * 256 + r.pin, s.dev.now⟩⟩] } ∧
      Changes [.store, .evq] (· ∈ [A.STK_PC_ERASE k r.pc, A.STK_STATUS k, A.STK_REPAIR_STAT k]) s.dev t.dev

/-- A lane repair from its register write to its end. -/
def Obligations.LaneRepair : Prop :=
  Clause.LaneRepairStartsOrIsRefused ∧ Clause.LaneRepairEnds

/-- REFPB of a stack that refreshes marks the time of the bank's refresh, closes its row and issues the RFM commands that its activations require
(assumption log 122); of another stack it does nothing. PC_POWER_DOWN: in P2 a pseudo-channel of a READY stack is in power-down, 1 µs after its
last access at the earliest, and the stack reads POWER_DOWN once all 64 are; outside P2 nothing happens. -/
def Clause.RefreshAndPowerDown : Prop := ∀ (s : State) (k : Fin 8) (pc : Fin 64) (bank : Fin 48),
  let key := k.val * 64 + pc
  let down := key :: s.dev.store.down
  let b := tallyKey k pc bank
  let thr := max 1 (Config.rfmThreshold k)
  let acts := tget 0 s.dev.store.acts b
  (s.dev.refreshes k = true → Completes (.refpb k pc bank) s fun t =>
    t.dev.store = { s.dev.store with lastRef := tset 0 s.dev.store.lastRef b s.dev.now, openRow := tset 0 s.dev.store.openRow b 0,
                                     acts := tset 0 s.dev.store.acts b (acts % thr) } ∧
    Counts (A.STK_RFM_CNT k) (acts / thr) s.dev t.dev ∧ Changes [.store] (· = A.STK_RFM_CNT k) s.dev t.dev) ∧
  (s.dev.refreshes k = false → Completes (.refpb k pc bank) s fun t => t = s) ∧
  (s.dev.power = 2 → s.dev.fld (A.STK_STATUS k) F.STK_STATUS_STATE = Ks.ready → key ∉ s.dev.store.down →
    Completes (.pcPowerDown k pc) s fun t =>
      t.dev.now = max s.dev.now (tget 0 s.dev.store.lastUse key + 50) ∧ t.dev.store = { s.dev.store with down := down } ∧
      t.dev.fld (A.STK_STATUS k) F.STK_STATUS_STATE =
        (if 64 ≤ (down.filter fun j => j / 64 == k.val).length then Ks.powerDown else Ks.ready) ∧
      Changes [.now, .store] (· = A.STK_STATUS k) s.dev t.dev) ∧
  (s.dev.power ≠ 2 → Completes (.pcPowerDown k pc) s fun t => t = s)

/-- STK_TRAIN_DONE outside a P3 exit: a trained stack that passes the known-answer test is in INIT. STK_INIT_DONE: every byte of a stack in
INIT reads zero, no byte of another stack changes, and the stack is READY. A stack in another state ignores both. STK_PARITY_ERROR: the first
error on a command is retried, the second makes the stack FAILED with reason 2 and latches the sticky fatal register. -/
def Clause.StackTrainsAndInitialises : Prop := ∀ (s : State) (k : Fin 8),
  (s.dev.fld (A.STK_STATUS k) F.STK_STATUS_STATE = Ks.training → s.dev.sys.pwr.p3 ≠ 4 →
    Completes (.stkTrainDone k true true) s fun t =>
      t.dev.fld (A.STK_STATUS k) F.STK_STATUS_STATE = Ks.init ∧ Changes [] (· = A.STK_STATUS k) s.dev t.dev) ∧
  (s.dev.fld (A.STK_STATUS k) F.STK_STATUS_STATE = Ks.init → s.Inv →
    Completes (.stkInitDone k) s fun t =>
      t.dev.fld (A.STK_STATUS k) F.STK_STATUS_STATE = Ks.ready ∧ (∀ a, stackOf a = k → t.dev.byte a = 0) ∧
      Touches [.store] (· = A.STK_STATUS k) (fun a => stackOf a = k) s.dev t.dev) ∧
  (Completes (.stkParityError k false) s fun t => t = s) ∧
  (s.dev.home.waiting = [] → s.dev.calm → (∀ j ∈ s.dev.dom.jobs, j.taken = false) → s.dev.hasRoom 0x0208 k → Completes (.stkParityError k true) s fun t =>
    t.dev.fld (A.STK_STATUS k) F.STK_STATUS_STATE = Ks.failed ∧
    t.dev.evq.held = s.dev.evq.held ++ [heldOf 0x0208 k k none 2 0 0 s.dev.now] ∧
    t.dev.fld A.TOP_FATAL_STICKY F.TOP_FATAL_STICKY_ANY = 1 ∧
    Changes [.evq] (· ∈ [A.STK_STATUS k, A.TOP_FATAL_STICKY]) s.dev t.dev) ∧
  (s.dev.fld (A.STK_STATUS k) F.STK_STATUS_STATE ≠ Ks.training → ∀ trained kat, Completes (.stkTrainDone k trained kat) s fun t => t = s) ∧
  (s.dev.fld (A.STK_STATUS k) F.STK_STATUS_STATE ≠ Ks.init → Completes (.stkInitDone k) s fun t => t = s)

/-- The states of a memory stack: training, initialisation, refresh, power-down and the parity error that fails it. -/
def Obligations.StackStates : Prop :=
  Clause.RefreshAndPowerDown ∧ Clause.StackTrainsAndInitialises

/-- HOME_WRITE of a line that nothing stands in the way of: the bytes selected by the mask take the data, the others keep theirs, the line is
sound and no port holds it. -/
def Obligations.HomeWriteStores : Prop :=
  ∀ (s : State) (offset : Nat) (domain : Fin 32) (cls : Option Bool) (mask : BitVec 64) (data : Line),
    let n := lineNo offset
    offset < 2 ^ 39 → s.dev.lineFree n → s.dev.home.groups = [] → s.dev.dirOf n = (0, 0) → s.dev.refusal (64 * n) (some domain.val) (cls.map b2n) = none →
    Completes (.homeWrite offset domain cls mask data) s fun t =>
      (∀ i < 64, t.dev.byte (64 * n + i) = if mask.getLsbD i then byteOf data i else s.dev.byte (64 * n + i)) ∧
      (t.dev.meta_ n).poison = false ∧ t.dev.dirOf n = (0, 0) ∧ t.dev.home.waiting = [] ∧
      Touches [.home, .store, .fab] (· ∈ [A.STK_STATUS (stackOf (64 * n)), A.RIND_ENC_CNT (stackOf (64 * n))]) (· / 64 = n) s.dev t.dev

/-- HOME_ATOMIC with a permitted operand block on a line that nothing stands in the way of: the operand of 2^SIZE bytes takes the value that OP
gives from its old value and the operands, and no other byte changes. -/
def Obligations.HomeAtomicApplies : Prop :=
  ∀ (s : State) (offset : Nat) (domain : Fin 32) (cls : Option Bool) (o : Line),
    let n := lineNo offset
    let v := s.dev.line n
    let size := le o 1 1
    let new := atomNew (le o 0 1) size (le v (offset % 64) (2 ^ size)) (le o 16 16) (le o 32 16)
    offset < 2 ^ 39 → atomOk o offset = true → s.dev.lineFree n → s.dev.home.groups = [] → s.dev.dirOf n = (0, 0) →
    s.dev.refusal (64 * n) (some domain.val) (cls.map b2n) = none →
    Completes (.homeAtomic offset domain cls o) s fun t =>
      Stores n (putLe v (offset % 64) (2 ^ size) new) s.dev t.dev ∧ t.dev.home.waiting = [] ∧
      Touches [.home, .store, .fab] (· ∈ [A.STK_STATUS (stackOf (64 * n)), A.RIND_ENC_CNT (stackOf (64 * n))]) (· / 64 = n) s.dev t.dev

/-- HOME_READ of a line of a stack that serves, with no erased pin: without symbol errors no byte and no directory entry changes; one or two wrong
symbols are corrected and counted; three or four make the line poisoned with PCAUSE 1, with the data bits as read. A report of the stack's on-die
ECC is counted and decides nothing (R109). -/
def Clause.HomeReadDecodes : Prop :=
  ∀ (s : State) (offset : Nat) (domain : Fin 32) (cls : Option Bool) (errs : SymErrs),
    let n := lineNo offset
    let k := stackOf (64 * n)
    let new := errs.filter fun e => decide (e.1 < 72)
    offset < 2 ^ 39 → symErrsFit errs = true → s.dev.errsAt n = [] → s.dev.stackServes k = true → s.dev.repairing (64 * n) = false →
    s.dev.quiet → (∀ x ∈ s.dev.home.snoops, x.line ≠ n) → s.dev.home.groups = [] →
    s.dev.erasedPin k (pcOf (64 * n)) = none → s.dev.refusal (64 * n) (some domain.val) (cls.map b2n) = none →
    (new = [] → Completes (.homeRead offset domain cls errs) s fun t =>
      Counts (A.STK_ODECC_CNT k) errs.length s.dev t.dev ∧ t.dev.store.lines = s.dev.store.lines ∧ t.dev.home.dc = s.dev.home.dc ∧
      Changes [.store, .home] (· ∈ [A.STK_STATUS k, A.RIND_DEC_CNT k, A.STK_ODECC_CNT k]) s.dev t.dev) ∧
    ((realErrs new).length ∈ [1, 2] → Completes (.homeRead offset domain cls errs) s fun t =>
      Counts (A.STK_CE_CNT k) 1 s.dev t.dev ∧ t.dev.errsAt n = [] ∧ t.dev.store.lines = s.dev.store.lines ∧
      ∀ a, t.dev.byte a = s.dev.byte a) ∧
    ((realErrs new).length ∈ [3, 4] → (∀ e ∈ s.dev.home.dc, e.line ≠ n) → Completes (.homeRead offset domain cls errs) s fun t =>
      Counts (A.STK_UE_CNT k) 1 s.dev t.dev ∧ t.dev.errsAt n = [] ∧ (t.dev.meta_ n).poison = true ∧ (t.dev.meta_ n).pcause = 1 ∧
      Stores n (s.dev.asRead n new) s.dev t.dev)

/-- SCRUB_READ of a stack that serves, outside P3, at a line without symbol errors that no repair and no snoop holds up: it comes INTERVAL, at least
64, cycles after the stack's last one, and the position moves to the line after it; the end of a pass is counted and the position starts again. -/
def Clause.ScrubAdvances : Prop := ∀ (s : State) (k : Fin 8),
  let n := s.dev.fld (A.STK_SCRUB_POS k) F.STK_SCRUB_POS_LINE
  let line := offsetOf k n / 64
  let last := linesPerStack ≤ n + 1
  s.dev.fld (A.STK_CFG k) F.STK_CFG_SCRUB_EN = 1 → s.dev.power ≠ 3 → s.dev.stackServes k = true → s.dev.repairing (64 * line) = false →
  (∀ x ∈ s.dev.home.snoops, x.line ≠ line) → s.dev.errsAt line = [] →
  Completes (.scrubRead k []) s fun t =>
    t.dev.now = max s.dev.now (tget 0 s.dev.store.lastScrub k + max 64 (s.dev.fld (A.STK_SCRUB_CFG k) F.STK_SCRUB_CFG_INTERVAL)) ∧
    tget 0 t.dev.store.lastScrub k = t.dev.now ∧
    t.dev.fld (A.STK_SCRUB_POS k) F.STK_SCRUB_POS_LINE = (if last then 0 else n + 1) ∧
    (last → Counts (A.STK_SCRUB_PASS_CNT k) 1 s.dev t.dev ∧ ∀ e ∈ t.dev.store.tally, e.1 / 4096 ≠ k) ∧
    (¬ last → t.dev.reg (A.STK_SCRUB_PASS_CNT k) = s.dev.reg (A.STK_SCRUB_PASS_CNT k) ∧ t.dev.store.tally = s.dev.store.tally) ∧
    Changes [.now, .store] (· ∈ [A.STK_SCRUB_POS k, A.STK_SCRUB_PASS_CNT k, A.STK_STATUS k]) s.dev t.dev

/-- Reads that decode stored lines: at the home of a line and by the scrubber. -/
def Obligations.HomeReads : Prop :=
  Clause.HomeReadDecodes ∧ Clause.ScrubAdvances

/-- CREDIT_HOLD_EXPIRE voids the credit of a reserved entry and counts it. WALK_DONE ends the walk of a lost port and raises HOST_LOST with the
lines poisoned. SNOOP_TIMEOUT of the owner's snoop, with quarantine disabled: the port leaves the directory, the line is poisoned with its
data as stored, and a violation is counted. -/
def Obligations.HomeTimers : Prop := ∀ s : State,
  (∀ (k : Fin 8) (c : Credit) (due : Nat), s.dev.home.credits.find? (fun c => c.slc == k.val && c.due.isSome) = some c → c.due = some due →
    (∀ x ∈ s.dev.home.credits, x.due.isSome = true) → Completes (.creditHoldExpire k) s fun t =>
      t.dev.now = max s.dev.now due ∧ t.dev.home = { s.dev.home with credits := s.dev.home.credits.erase c } ∧
      Counts (A.HOM_CREDIT_EXP_CNT k) 1 s.dev t.dev ∧
      (c.holder < 16 → t.dev.fld (A.TLK_STATUS c.holder) F.TLK_STATUS_RETRY_HOLD = 0) ∧
      Changes [.now, .home] (fun a => a = A.HOM_CREDIT_EXP_CNT k ∨ (c.holder < 16 ∧ a = A.TLK_STATUS c.holder)) s.dev t.dev) ∧
  (∀ (p : Fin 4) (n : Nat), s.dev.home.walks.find? (·.1 == p.val) = some (p.val, n) → s.dev.hasRoom 0x0402 0 →
    Completes (.walkDone p) s fun t =>
      t.dev.home = { s.dev.home with walks := s.dev.home.walks.erase (p.val, n) } ∧
      t.dev.fld A.HOM_STATUS F.HOM_STATUS_WALK = dropPort (s.dev.fld A.HOM_STATUS F.HOM_STATUS_WALK) p ∧
      t.dev.evq.held = s.dev.evq.held ++ [heldOf 0x0402 0 p none 0 n 0 s.dev.now] ∧
      Changes [.home, .evq] (· = A.HOM_STATUS) s.dev t.dev) ∧
  ∀ (p : Fin 4) (n : Nat) (x : Snoop), s.dev.home.snoops.find? (fun x => x.line == n && x.port == p.val) = some x →
    s.dev.dirOf n = (2, 2 ^ p.val) → s.dev.quiet → (s.dev.violCfg p).1 = 0 →
    Completes (.snoopTimeout p n) s fun t =>
      t.dev.now = max s.dev.now x.due ∧ t.dev.home.snoops = s.dev.home.snoops.filter (fun x => !(x.line == n && x.port == p.val)) ∧
      t.dev.dirOf n = (0, 0) ∧ (t.dev.meta_ n).poison = true ∧ (t.dev.meta_ n).pcause = 2 ∧ (∀ a, t.dev.byte a = s.dev.byte a) ∧
      Counts (A.HOM_SNOOP_TO_CNT (stackOf (64 * n))) 1 s.dev t.dev ∧ Counts (A.TLK_VIOL_CNT p) 1 s.dev t.dev ∧
      t.dev.fld (A.TLK_LAST_VIOL p) F.TLK_LAST_VIOL_REASON = 0x0C

/-! ## Power, clocks and temperatures -/

/-- TILE_GATE in P1 gates an idle tile, drops the staging copies and translations that it holds and acknowledges an invalidation that runs for it
(R174, R181); the registers that need the tile to run have their Reset values from then on (R214, R370, R389, R466). Outside P1, of a tile that is
not idle or of one gated already nothing happens. -/
def Clause.TileGate : Prop := ∀ (s : State) (tile : Fin 64),
  let mayGate := s.dev.power = 1 ∧ s.dev.tileIdle tile = true ∧ s.dev.tileGated tile = false
  (mayGate → s.dev.stn.invals = [] → Completes (.tileGate tile) s fun t =>
    t.dev.reg A.PWR_TILE_GATED = s.dev.reg A.PWR_TILE_GATED ||| BitVec.ofNat 64 (2 ^ tile.val) ∧
    (∀ a, gatedReg a = some tile.val → t.dev.reg a = rstVal a) ∧
    t.dev.own = { s.dev.own with ret := s.dev.own.ret.filter fun x => x.tile != tile.val } ∧
    t.dev.stn = { s.dev.stn with caches := s.dev.stn.caches.filter fun c => !((agentTile c.1).any (· == tile.val)) } ∧
    Changes [.own, .stn, .eng] (fun a => a = A.PWR_TILE_GATED ∨ gatedReg a = some tile.val) s.dev t.dev) ∧
  (∀ i rest, mayGate → s.dev.stn.invals = i :: rest → Completes (.tileGate tile) s fun t =>
    t.dev.tileGated tile = true ∧ ∀ j ∈ t.dev.stn.invals.head?, j.seq = i.seq → ∀ a < 640, agentTile a = some tile.val → a ∈ j.acked) ∧
  (¬ mayGate → Completes (.tileGate tile) s fun t => t = s)

/-- P2_ENTRY after the completion of a request for P2 has been written: STATE reads P2, every tile is gated and the entry is counted.
P2_EXIT_DONE after a wake event: STATE reads P1 and TRANS 0. Without a request, or without a wake event, nothing happens. -/
def Clause.PowerStateP2 : Prop := ∀ s : State,
  (∀ seq, s.dev.sys.pwr.req = some (2, seq) → s.dev.runSeq seq = none → Completes .p2Entry s fun t =>
    t.dev.power = 2 ∧ t.dev.reg A.PWR_TILE_GATED = BitVec.allOnes 64 ∧
    t.dev.fld A.PWR_STATUS F.PWR_STATUS_TRANS = b2n s.dev.sys.pwr.wakeAt.isSome ∧
    t.dev.fld A.PWR_ENTRY_CNT F.PWR_ENTRY_CNT_P2 = min (s.dev.fld A.PWR_ENTRY_CNT F.PWR_ENTRY_CNT_P2 + 1) (2 ^ 32 - 1) ∧
    t.dev.sys = { s.dev.sys with pwr := { s.dev.sys.pwr with req := none } } ∧
    t.dev.own.ret = [] ∧
    Changes [.own, .stn, .eng, .cmd, .links, .sys] (fun a => a ∈ [A.PWR_TILE_GATED, A.PWR_STATUS, A.PWR_ENTRY_CNT] ∨ (∃ p < 16, a = portStatusAddr p) ∨
      (gatedReg a).isSome) s.dev t.dev) ∧
  (s.dev.sys.pwr.req = none → Completes .p2Entry s fun t => t = s) ∧
  (s.dev.power = 2 → s.dev.sys.pwr.wakeAt.isSome = true → Completes .p2ExitDone s fun t =>
    t.dev.power = 1 ∧ t.dev.fld A.PWR_STATUS F.PWR_STATUS_TRANS = 0 ∧
    t.dev.sys = { s.dev.sys with pwr := { s.dev.sys.pwr with wakeAt := none } }) ∧
  (s.dev.power ≠ 2 → Completes .p2ExitDone s fun t => t = s)

/-- P3_ENTRY after the completion of a request for P3 has been written begins the entry; P3_ENTRY_DONE with no recall, request, credit, directory
entry or repair left and no wake event held makes STATE read P3 with the PLLs stopped and no half running. -/
def Clause.PowerStateP3Entry : Prop := ∀ s : State,
  (∀ seq, s.dev.sys.pwr.req = some (3, seq) → s.dev.runSeq seq = none → Completes .p3Entry s fun t =>
    t.dev.sys.pwr.p3 = 1 ∧ t.dev.sys.pwr.req = none ∧ t.dev.fld A.PWR_STATUS F.PWR_STATUS_TRANS = 1 ∧
    t.dev.reg A.PWR_TILE_GATED = BitVec.allOnes 64) ∧
  (s.dev.sys.pwr.p3 = 1 → s.dev.home.snoops = [] → s.dev.home.waiting = [] → s.dev.home.credits = [] → s.dev.home.dc = [] →
    s.dev.store.repairs = [] → s.dev.sys.pwr.wakeAt = none → Completes .p3EntryDone s fun t =>
      t.dev.power = 3 ∧ t.dev.fld A.PWR_STATUS F.PWR_STATUS_TRANS = 0 ∧ t.dev.sys.pwr.p3 = 0 ∧
      t.dev.sys.pwr.halves = bits (s.dev.reg A.TOP_HALF_STATUS) 0 2 ∧ bits (t.dev.reg A.TOP_HALF_STATUS) 0 2 = 0 ∧
      t.dev.fld A.CLK_STATUS F.CLK_STATUS_LOCK = 1 ∧
      t.dev.fld A.PWR_ENTRY_CNT F.PWR_ENTRY_CNT_P3 = min (s.dev.fld A.PWR_ENTRY_CNT F.PWR_ENTRY_CNT_P3 + 1) (2 ^ 32 - 1) ∧
      ∀ a, t.dev.byte a = s.dev.byte a)

/-- The exit from P3: P3_EXIT_VDD_READY comes 500 cycles after the wake event at the earliest, P3_EXIT_PLL_LOCK 750 and resumes the halves that
ran, and P3_EXIT_DONE, once every stack serves or has failed, makes STATE read P1. -/
def Clause.PowerStateP3Exit : Prop := ∀ s : State,
  let wake := s.dev.sys.pwr.wakeAt.getD s.dev.now
  (s.dev.sys.pwr.p3 = 2 → s.dev.sys.pwr.avs = none → Completes .p3ExitVddReady s fun t =>
    t.dev.now = max s.dev.now (wake + 500) ∧ t.dev.sys = { s.dev.sys with pwr := { s.dev.sys.pwr with p3 := 3 } } ∧
    Changes [.now, .sys] noReg s.dev t.dev) ∧
  (s.dev.sys.pwr.p3 = 3 → Completes .p3ExitPllLock s fun t =>
    t.dev.now = max s.dev.now (wake + 750) ∧ t.dev.sys.pwr.p3 = 4 ∧ t.dev.fld A.CLK_STATUS F.CLK_STATUS_LOCK = 31 ∧
    t.dev.sys.res.petW = t.dev.now ∧ t.dev.sys.res.petE = t.dev.now) ∧
  (s.dev.sys.pwr.p3 = 4 → (∀ k < 8, s.dev.stackServes k = true ∨ s.dev.stackFailed k = true) → Completes .p3ExitDone s fun t =>
    wake + 2000 ≤ t.dev.now ∧ t.dev.power = 1 ∧ t.dev.fld A.PWR_STATUS F.PWR_STATUS_TRANS = 0 ∧
    t.dev.fld A.CLK_STATUS F.CLK_STATUS_CHANGING = 0 ∧ t.dev.sys.pwr.p3 = 0 ∧ t.dev.sys.pwr.wakeAt = none)

/-- Entry to P3 and each step of the exit from it. -/
def Obligations.PowerStateP3 : Prop :=
  Clause.PowerStateP3Entry ∧ Clause.PowerStateP3Exit

/-- CLOCK_RELOCK_DONE puts the new operating point and margin in force: after a lowering of the clock the voltage follows, after a raising
the change is complete and counted. -/
def Clause.ClockRelock : Prop := ∀ (s : State) (k : Relock),
  s.dev.sys.pwr.relock = some k → k.locking = true → k.op < 4 → k.margin < 128 →
  let lowering := s.dev.fld A.CLK_STATUS F.CLK_STATUS_OP < k.op
  Completes .clockRelockDone s fun t =>
    t.dev.fld A.CLK_STATUS F.CLK_STATUS_OP = k.op ∧ t.dev.fld A.CLK_CFG F.CLK_CFG_OP = k.op ∧
    t.dev.fld A.CLK_CFG F.CLK_CFG_VMARGIN = k.margin ∧
    (lowering → t.dev.sys.pwr.relock = some { k with locking := false } ∧
      t.dev.sys.pwr.avs = some ⟨1, vddOf k.op k.margin, 0, false, s.dev.now⟩) ∧
    (¬ lowering → t.dev.sys.pwr.relock = none ∧ t.dev.fld A.CLK_STATUS F.CLK_STATUS_CHANGING = 0 ∧
      t.dev.fld A.CLK_CHANGE_CNT F.CLK_CHANGE_CNT_COUNT = min (s.dev.fld A.CLK_CHANGE_CNT F.CLK_CHANGE_CNT_COUNT + 1) (2 ^ 32 - 1)) ∧
    Changes [.sys, .cmd] (· ∈ [A.CLK_STATUS, A.CLK_CFG, A.CLK_CHANGE_CNT]) s.dev t.dev

/-- The frames of AVSBus: an acknowledged write is followed by read-backs, a read-back within 10 mV ends a change that no clock change
waits for, a fourth failure sets FAIL, and a monitor poll shows current and temperature. -/
def Clause.AvsFrames : Prop := ∀ (s : State) (a : Avs) (value current temp : Nat),
  (s.dev.sys.pwr.avs = some a → a.readBack = false → s.dev.avsTarget a < 1024 → Completes (.avsFrameDone true value) s fun t =>
    t.dev.fld A.CLK_STATUS F.CLK_STATUS_VDD_MV = s.dev.avsTarget a ∧
    t.dev.sys = { s.dev.sys with pwr := { s.dev.sys.pwr with avs := some { a with readBack := true, sent := s.dev.now } } } ∧
    Changes [.sys] (· = A.CLK_STATUS) s.dev t.dev) ∧
  (s.dev.sys.pwr.avs = some a → a.readBack = true → a.occ ≠ 1 → s.dev.avsTarget a ≤ value + 10 → value ≤ s.dev.avsTarget a + 10 →
    Completes (.avsFrameDone true value) s fun t =>
      t.dev.fld A.PWR_AVS_STATUS F.PWR_AVS_STATUS_VOUT_MV = min value 1023 ∧ t.dev.fld A.PWR_AVS_STATUS F.PWR_AVS_STATUS_FAIL = 0 ∧
      t.dev.sys = { s.dev.sys with pwr := { s.dev.sys.pwr with avs := none } } ∧ Changes [.sys] (· = A.PWR_AVS_STATUS) s.dev t.dev) ∧
  (s.dev.sys.pwr.avs = some a → a.failed = 3 → Completes (.avsFrameDone false value) s fun t =>
    t.dev.fld A.PWR_AVS_STATUS F.PWR_AVS_STATUS_FAIL = 1 ∧
    t.dev.sys.pwr.avs = some { a with failed := 4, readBack := false, sent := s.dev.now }) ∧
  (s.dev.sys.pwr.avs = some a → a.readBack = true → s.dev.now + 50 ≤ a.sent + 5000 → Completes .avsReadbackTimer s fun t =>
    t.dev.now = max (a.sent + 250) (s.dev.now + 50) ∧ Changes [.now] noReg s.dev t.dev) ∧
  (s.dev.sys.pwr.avs = some a → 4 ≤ a.failed → Completes .avsRetryTimer s fun t =>
    t.dev.now = max s.dev.now (a.sent + 50000) ∧
    t.dev.sys = { s.dev.sys with pwr := { s.dev.sys.pwr with avs := some { a with readBack := false, sent := t.dev.now } } } ∧
    Changes [.now, .sys] noReg s.dev t.dev) ∧
  Completes (.avsMonitorPoll current temp) s fun t =>
    t.dev.fld A.PWR_AVS_STATUS F.PWR_AVS_STATUS_IOUT_A = min current 1023 ∧ t.dev.fld A.PWR_AVS_STATUS F.PWR_AVS_STATUS_TEMP_C = min temp 255 ∧
    Changes [.now] (· = A.PWR_AVS_STATUS) s.dev t.dev

/-- A change of clock and voltage: the relock of the PLLs and the frames to the regulator. -/
def Obligations.ClocksAndVoltage : Prop :=
  Clause.ClockRelock ∧ Clause.AvsFrames

/-- JCT_SENSOR_READ below the throttle and trip temperatures: the 18 sensors and the hottest of them show. STK_TEMP_READ with every stack
below 105 °C shows the reading of a stack that is read. -/
def Clause.TemperatureReadings : Prop := ∀ (s : State) (temps : List Nat),
  (temps.length = 18 → (∀ x ∈ temps, x < s.dev.jctThrottle) → s.dev.fld A.PWR_STATUS F.PWR_STATUS_THROTTLED = 0 →
    Completes (.jctSensorRead temps) s fun t =>
      (∀ i < 18, t.dev.fld (A.PWR_SENS i) F.PWR_SENS_TEMP = temps.getD i 0) ∧
      t.dev.fld A.PWR_THERM_STATUS F.PWR_THERM_STATUS_MAX_C = (hottest temps).1 ∧
      t.dev.fld A.PWR_THERM_STATUS F.PWR_THERM_STATUS_MAX_SENS = (hottest temps).2 ∧
      Changes [.now, .sys] (fun a => a = A.PWR_THERM_STATUS ∨ ∃ i < 18, a = A.PWR_SENS i) s.dev t.dev) ∧
  (temps.length = 8 → (∀ x ∈ temps, x < 105) → Completes (.stkTempRead temps) s fun t =>
    (∀ k < 8, s.dev.fld (A.STK_STATUS k) F.STK_STATUS_STATE ∈ [Ks.init, Ks.ready, Ks.powerDown, Ks.failed] →
      t.dev.fld (A.STK_STATUS k) F.STK_STATUS_TEMP = temps.getD k 0) ∧
    Changes [.now, .evq] (fun a => a = A.EVQ_X_DROP_CNT 0 ∨ a = A.EVQ_X_DROP_CNT 1 ∨ ∃ k < 8, a = A.STK_STATUS k) s.dev t.dev)

/-- THERMAL_RESTART of a device that has tripped, with TRIP_RESTART set and every junction sensor at or below 95 °C: after 1 s, or 5 s for a
stack's trip, the device restarts with CAUSE 6. STACK_TEMP_HOLD_READ with every stack at or below 95 °C ends the hold, and the stacks that are OFF
train. -/
def Clause.ThermalRestart : Prop := ∀ (s : State) (temps : List Nat),
  (∀ tick byStack, s.dev.sys.pwr.trip = some (tick, byStack) → s.dev.cool = true → s.dev.fld A.PWR_CFG F.PWR_CFG_TRIP_RESTART = 1 →
    s.dev.sys.pwr.rstHeld = false → Completes .thermalRestart s fun t =>
      t.dev.now = max s.dev.now (tick + if byStack then 250000000 else 50000000) ∧
      t.dev.fld A.BOOT_STATUS F.BOOT_STATUS_CAUSE = 6 ∧ t.dev.sys.pwr.thermtrip = false ∧ t.dev.sys.pwr.trip = none ∧
      t.dev.sys.pwr.holdTemp = true) ∧
  (temps.length = 8 → (∀ x ∈ temps, x ≤ 95) → s.dev.sys.pwr.holdTemp = true → 2 ≤ s.dev.sys.boot.phase →
    Completes (.stackTempHoldRead temps) s fun t =>
      t.dev.now = s.dev.now + 50000 ∧ t.dev.sys = { s.dev.sys with pwr := { s.dev.sys.pwr with holdTemp := false } } ∧
      (∀ k < 8, t.dev.fld (A.STK_STATUS k) F.STK_STATUS_TEMP = temps.getD k 0) ∧
      (∀ k < 8, s.dev.fld (A.STK_STATUS k) F.STK_STATUS_STATE = Ks.off → t.dev.fld (A.STK_STATUS k) F.STK_STATUS_STATE = Ks.training) ∧
      Changes [.now, .sys, .evq] (fun a => a = A.EVQ_X_DROP_CNT 0 ∨ a = A.EVQ_X_DROP_CNT 1 ∨ ∃ k < 8, a = A.STK_STATUS k) s.dev t.dev)

/-- What a reading of the temperatures does to the clamp and the stop, and the restart after a stop. -/
def Obligations.Temperatures : Prop :=
  Clause.TemperatureReadings ∧ Clause.ThermalRestart

/-! ## Inputs and halves -/

/-- PWR_OK rising in power-on reset: the device leaves it with CAUSE 1, and the level shows. Falling: the AON domain returns to power-on
reset, every register that is not fused or a lane repair reads its Reset value, every queue is empty and the store reads zero. -/
def Clause.PwrOk : Prop := ∀ (s : State) (tick : Nat),
  (s.dev.level 1 = false → Completes (.pwrOkRise tick) s fun t =>
    t.dev.now = max s.dev.now tick ∧ t.dev.level 1 = true ∧ t.dev.fld A.BOOT_STATUS F.BOOT_STATUS_CAUSE = 1 ∧
    t.dev.fld A.PWR_I3C_STATUS F.PWR_I3C_STATUS_STATIC_ADDR = (0x58 + Config.strapSa.toNat) % 128 ∧
    (t.dev.sys.boot.phase = if (s.dev.inp 0).high then 1 else s.dev.sys.boot.phase) ∧
    Changes [.now, .sys] (· ∈ [A.PWR_IN_STATUS, A.BOOT_STATUS, A.CLK_STATUS, A.PWR_I3C_STATUS]) s.dev t.dev) ∧
  (s.dev.level 1 = true → s.Inv → Completes (.pwrOkFall tick) s fun t =>
    (∀ a, isFused a = false → isPcErase a = false → t.dev.reg a = rstVal a) ∧ (∀ a, t.dev.byte a = 0) ∧
    t.dev.now = 0 ∧ t.dev.evq = {} ∧ t.dev.cmd = {} ∧ t.dev.links = List.replicate 16 {} ∧ t.dev.sys.boot.phase = 0) ∧
  (s.dev.level 1 = true → Completes (.pwrOkRise tick) s fun t => t = s) ∧
  (s.dev.level 1 = false → Completes (.pwrOkFall tick) s fun t => t = s)

/-- An edge of DEV_RESET_N or WAKE_N with PWR_OK high, within 64 cycles of the input's last taken level: it is refused, counted and marked in
OVR. Later than that a rising edge of WAKE_N shows in LEVEL and ends a masking. -/
def Clause.InputEdges : Prop := ∀ (s : State) (tick last : Nat),
  s.dev.level 1 = true → s.dev.sys.pwr.ins.length = 3 →
  let refused (i : Nat) (t : State) : Prop :=
    t.dev.now = max s.dev.now tick ∧ bit (t.dev.reg A.PWR_IN_STATUS) (8 + i) = true ∧ t.dev.level i = s.dev.level i ∧
    t.dev.fld A.PWR_IN_OVR_CNT ⟨16 * i, 16⟩ = min (s.dev.fld A.PWR_IN_OVR_CNT ⟨16 * i, 16⟩ + 1) 65535 ∧
    (t.dev.inp i).refused = (s.dev.inp i).refused + 1 ∧ Changes [.now, .sys] (· ∈ [A.PWR_IN_STATUS, A.PWR_IN_OVR_CNT]) s.dev t.dev
  ((s.dev.inp 0).taken = some last → max s.dev.now tick < last + 64 →
    Completes (.devResetNFall tick) s (refused 0) ∧ Completes (.devResetNRise tick) s (refused 0)) ∧
  ((s.dev.inp 2).taken = some last → max s.dev.now tick < last + 64 →
    Completes (.wakeNFall tick) s (refused 2) ∧ Completes (.wakeNRise tick) s (refused 2)) ∧
  ((s.dev.inp 2).taken = some last → last + 64 ≤ max s.dev.now tick → Completes (.wakeNRise tick) s fun t =>
    t.dev.now = max s.dev.now tick ∧ t.dev.level 2 = true ∧ t.dev.maskedIn 2 = false ∧ (t.dev.inp 2).taken = some t.dev.now ∧
    Changes [.now, .sys] (· = A.PWR_IN_STATUS) s.dev t.dev)

/-- A level of DEV_RESET_N taken low resets the device with CAUSE 2, one taken high shows in LEVEL; a level of WAKE_N taken low in P2 is the wake
event 3. -/
def Clause.InputLevelsAct : Prop := ∀ (s : State) (tick : Nat),
  s.dev.level 1 = true → s.dev.sys.pwr.ins.length = 3 →
  ((∀ last, (s.dev.inp 0).taken = some last → last + 64 ≤ max s.dev.now tick) →
    (s.dev.level 0 = true → s.dev.sys.pwr.trip = none → Completes (.devResetNFall tick) s fun t =>
      t.dev.now = max s.dev.now tick ∧ t.dev.level 0 = false ∧ t.dev.fld A.BOOT_STATUS F.BOOT_STATUS_CAUSE = 2 ∧
      t.dev.cmd = {} ∧ ∀ a, a < storeEnd → t.dev.byte a = 0) ∧
    Completes (.devResetNRise tick) s fun t => t.dev.now = max s.dev.now tick ∧ t.dev.level 0 = true ∧ t.dev.maskedIn 0 = false) ∧
  ((∀ last, (s.dev.inp 2).taken = some last → last + 64 ≤ max s.dev.now tick) → s.dev.level 2 = true → s.dev.power = 2 →
    s.dev.sys.pwr.p3 = 0 → s.dev.sys.pwr.req = none → Completes (.wakeNFall tick) s fun t =>
      t.dev.level 2 = false ∧ t.dev.fld A.PWR_STATUS F.PWR_STATUS_WAKE_SRC = 3 ∧ t.dev.fld A.PWR_STATUS F.PWR_STATUS_TRANS = 1 ∧
      t.dev.sys.pwr.wakeAt.isSome = true)

/-- INPUT_STUCK_TIMEOUT masks an input that has been low for more than 100 ms and raises STUCK_INPUT; INPUT_OVERRUN_END reports the refused levels
64 cycles after the last taken one; UNMASK ends a masking. -/
def Clause.StuckAndOverrunInputs : Prop := ∀ (s : State) (i : Fin 3) (edges low last : Nat),
  (i ≠ 1 → s.dev.sys.pwr.ins.length = 3 → (s.dev.inp i).lowAt = some low → s.dev.maskedIn i = false → Completes (.inputStuckTimeout i) s fun t =>
    low + 5000001 ≤ t.dev.now ∧ t.dev.maskedIn i = true ∧ (t.dev.inp i).lowAt = none ∧
    (s.dev.holds 15 0 1 < 8 → ∃ h ∈ t.dev.evq.held, h.r.code = 0x0904 ∧ h.r.inst = i.val) ∧
    Changes [.now, .sys, .evq] (· ∈ [A.PWR_IN_STATUS, A.EVQ_X_DROP_CNT 1]) s.dev t.dev) ∧
  (i = 2 → s.dev.sys.pwr.ins.length = 3 → (s.dev.inp 2).taken = some last → 0 < max (s.dev.inp 2).refused edges → s.dev.holds 15 0 0 < 8 →
    Completes (.inputOverrunEnd i edges true) s fun t =>
      t.dev.now = max s.dev.now (last + 64) ∧ t.dev.level 2 = true ∧ bit (t.dev.reg A.PWR_IN_STATUS) 10 = true ∧
      (∃ h ∈ t.dev.evq.held, h.r.code = 0x0905 ∧ h.r.inst = 2 ∧ h.r.countA = max (s.dev.inp 2).refused edges)) ∧
  Completes (.unmask i) s fun t => t.dev.maskedIn i = false ∧ t.dev.level i = s.dev.level i ∧ Changes [] (· = A.PWR_IN_STATUS) s.dev t.dev

/-- The input pins: power, the edges and levels of the sideband inputs, stuck and overrun inputs. -/
def Obligations.InputPins : Prop :=
  Clause.PwrOk ∧ Clause.InputEdges ∧ Clause.InputLevelsAct ∧ Clause.StuckAndOverrunInputs

/-- PWR_CTRL.WAKE in P2 is the wake event 4: the exit begins and the source shows; in P0 and P1 it changes nothing. -/
def Clause.WakeByRegister : Prop := ∀ s : State,
  (s.dev.power = 2 → s.dev.sys.pwr.p3 = 0 → s.dev.sys.pwr.req = none → Completes .pwrCtrlWake s fun t =>
    t.dev.fld A.PWR_STATUS F.PWR_STATUS_WAKE_SRC = 4 ∧ t.dev.fld A.PWR_STATUS F.PWR_STATUS_TRANS = 1 ∧ t.dev.power = 2 ∧
    t.dev.sys = { s.dev.sys with pwr := { s.dev.sys.pwr with wakeAt := some (s.dev.sys.pwr.wakeAt.getD s.dev.now) } } ∧
    Changes [.sys] (· = A.PWR_STATUS) s.dev t.dev) ∧
  (s.dev.awake → Completes .pwrCtrlWake s fun t => t = s)

/-- Gated tiles, entry to and exit from P2, and the register write that wakes the device. -/
def Obligations.TilesAndP2 : Prop :=
  Clause.TileGate ∧ Clause.PowerStateP2 ∧ Clause.WakeByRegister

/-- HALF_RESET holds a half in reset: its bit of TOP_HALF_STATUS shows it, every register of its blocks but the lane repairs reads its Reset
value, its tiles hold no copies or translations and its ports' links nothing. HALF_RESET_RELEASE clears the bit and nothing else. -/
def Obligations.HalfReset : Prop := ∀ (s : State) (east : Bool),
  (Completes (.halfReset east) s fun t =>
    t.dev.halfDown east = true ∧
    (∀ a, regHalf a = some east → isPcErase a = false → (∀ k < 12, a ≠ A.DRS_STATUS k) → t.dev.reg a = rstVal a) ∧
    (∀ x ∈ t.dev.own.ret, tileInHalf x.tile east = false) ∧ (∀ c ∈ t.dev.stn.caches, tileInHalf c.1 east = false) ∧
    (∀ p < 16, portInHalf p east = true → t.dev.links.length = 16 → t.dev.link p = {}) ∧ ∀ a, t.dev.byte a = s.dev.byte a) ∧
  Completes (.halfResetRelease east) s fun t =>
    t.dev.halfDown east = false ∧ t.dev.halfDown (!east) = s.dev.halfDown (!east) ∧ Changes [] (· = A.TOP_HALF_STATUS) s.dev t.dev

/-! ## Watchdogs -/

/-- PET_W and PET_E restart the count of a half that runs. EASEL_WDT_EXPIRE outside start stage 4 and P3 resets the core of a half that runs, and
counts it; EASEL_CORE_RESTARTED lets it run again. -/
def Clause.EaselWatchdogs : Prop := ∀ (s : State) (east : Bool),
  (s.dev.halfUp false = true → Completes .petW s fun t =>
    t.dev.sys = { s.dev.sys with res := { s.dev.sys.res with petW := s.dev.now } } ∧ Changes [.sys] noReg s.dev t.dev) ∧
  (s.dev.halfUp true = true → Completes .petE s fun t =>
    t.dev.sys = { s.dev.sys with res := { s.dev.sys.res with petE := s.dev.now } } ∧ Changes [.sys] noReg s.dev t.dev) ∧
  (s.dev.halfUp false = false → Completes .petW s fun t => t = s) ∧ (s.dev.halfUp true = false → Completes .petE s fun t => t = s) ∧
  (s.dev.halfUp east = true → s.dev.power ≠ 3 → s.dev.stage ≠ 4 →
    let f := if east then F.TOP_WDT_CNT_E else F.TOP_WDT_CNT_W
    Completes (.easelWdtExpire east) s fun t =>
      t.dev.now = max s.dev.now ((if east then s.dev.sys.res.petE else s.dev.sys.res.petW) + s.dev.easelTimeout) ∧
      t.dev.halfUp east = false ∧ t.dev.halfUp (!east) = s.dev.halfUp (!east) ∧
      (if east then t.dev.sys.res.backE else t.dev.sys.res.backW) = some (t.dev.now + 1000000) ∧
      t.dev.fld A.TOP_WDT_CNT f = min (s.dev.fld A.TOP_WDT_CNT f + 1) 65535) ∧
  ((if east then s.dev.sys.res.backE else s.dev.sys.res.backW).isSome = true → Completes (.easelCoreRestarted east) s fun t =>
    t.dev.halfUp east = true ∧ t.dev.halfUp (!east) = s.dev.halfUp (!east) ∧
    (if east then t.dev.sys.res.backE else t.dev.sys.res.backW) = none ∧
    (if east then t.dev.sys.res.petE else t.dev.sys.res.petW) = s.dev.now)

/-- ENGINE_WDT_EXPIRE ends the command that an engine is stuck with ABORTED 0xE0, no earlier than ENG_TIMEOUT after its start, and counts it. -/
def Clause.EngineWatchdog : Prop := ∀ (s : State) (e : Nat) (r : Run),
  e < 82 → s.dev.stuckRun e = some r → r.bf = false → r.pastSwitch = false → (∀ x ∈ s.dev.cmd.runs, x.seq = r.seq → x = r) →
  Completes (.engineWdtExpire e) s fun t =>
    t.dev.now = max s.dev.now (r.tick + s.dev.engTimeout) ∧
    (t.dev.runSeq r.seq).bind (·.cpl) = some { status := 0x0B, detail := 0xE0, result := e } ∧
    t.dev.fld A.TOP_WDT_CNT F.TOP_WDT_CNT_ENG = min (s.dev.fld A.TOP_WDT_CNT F.TOP_WDT_CNT_ENG + 1) (2 ^ 32 - 1)

/-- The watchdogs of the management processors and of the engines. -/
def Obligations.Watchdogs : Prop :=
  Clause.EaselWatchdogs ∧ Clause.EngineWatchdog

/-! ## Translation misses and invalidations -/

/-- An agent's acknowledgement joins those there; the last one completes the invalidation with its counts. ACK_TIMEOUT completes it however many
have not acknowledged. MISS_TIMEOUT ends a miss for every command that waits for it with TIMEOUT 0x40. -/
def Obligations.InvalidationsAndMisses : Prop := ∀ (s : State) (i : Inval) (rest : List Inval),
  (∀ agent : Fin 658, s.dev.stn.invals = i :: rest → agent.val ∉ i.acked → i.acked.length < 657 → s.dev.agentWaits agent i.ctx i.lo i.hi = false →
    Completes (.invalAck agent) s fun t =>
    t.dev.stn.invals = { i with acked := i.acked ++ [agent.val] } :: rest ∧ Changes [.stn] noReg s.dev t.dev) ∧
  (∀ agent : Fin 658, s.dev.stn.invals = [i] → agent.val ∉ i.acked → i.acked.length = 657 → i.release = false → i.reset = none →
    s.dev.agentWaits agent i.ctx i.lo i.hi = false → Completes (.invalAck agent) s fun t =>
      t.dev.stn.invals = [] ∧ t.dev.fld A.STN_STATUS F.STN_STATUS_INV_BUSY = 0 ∧ Counts A.STN_INV_CNT 1 s.dev t.dev ∧
      t.dev.cmd = { s.dev.cmd with runs := s.dev.cmd.runs.map fun r => if r.seq == i.seq then { r with cpl := some { a := i.count, b := 658 } } else r } ∧
      Changes [.stn, .cmd] (· ∈ [A.STN_STATUS, A.STN_INV_CNT]) s.dev t.dev) ∧
  (s.dev.stn.invals = [i] → Completes .ackTimeout s fun t =>
    i.due ≤ t.dev.now ∧ t.dev.stn.invals = [] ∧ t.dev.fld A.STN_STATUS F.STN_STATUS_INV_BUSY = 0 ∧ Counts A.STN_INV_CNT 1 s.dev t.dev) ∧
  ∀ (tag : Fin 128) (m : Miss), s.dev.missOf tag = some m → m.ahead = false → Completes (.missTimeout tag) s fun t =>
    t.dev.now = max s.dev.now (m.start + s.dev.missTimeout) ∧ Counts A.STN_MISS_TO_CNT 1 s.dev t.dev ∧
    (∀ x ∈ t.dev.stn.misses, ¬ (x.ctx = m.ctx ∧ x.gran = m.gran)) ∧
    (∀ r ∈ s.dev.cmd.runs, 4 * (m.ctx * 2 ^ 27 + m.gran) + 2 ∈ r.asked →
      ∃ r' ∈ t.dev.cmd.runs, r'.seq = r.seq ∧ { key := 4 * (m.ctx * 2 ^ 27 + m.gran) + 2, status := 0x0D, detail := 0x40 } ∈ r'.got) ∧
    ∀ a, t.dev.byte a = s.dev.byte a

/-! ## Traffic -/

/-- SHAPER_REFILL with no message waiting at a shaper, by the rates committed before its edge: a domain without a rate, or whose shaper was not limited, holds its burst; any other gains
its rate for the period, up to the burst; the rate shows as RATE_NOW and a changed REFILL acts from here on. -/
def Clause.ShaperRefill : Prop := ∀ (s : State) (tick : Nat), s.dev.trf.shaper = [] →
  Completes (.shaperRefill tick) s fun t =>
    t.dev.now = max s.dev.now tick ∧ t.dev.trf.period = max 5 (s.dev.fld A.TRF_CFG F.TRF_CFG_REFILL) ∧
    (∀ n < 32,
      let v := s.dev.regBefore (A.DOM_BW n) tick
      let rate := F.DOM_BW_EGRESS_RATE.of v
      let burst := max 4 (F.DOM_BW_BURST.of v) * 1024
      t.dev.fld (A.TRF_SHP_STAT n) F.TRF_SHP_STAT_RATE_NOW = rate ∧ (n ∈ t.dev.trf.limited ↔ rate ≠ 0) ∧
      t.dev.tokens n = if rate = 0 ∨ n ∉ s.dev.trf.limited then (burst : Int) else min (s.dev.tokens n + rate * s.dev.trf.period * 20) burst) ∧
    Changes [.now, .trf] (fun a => ∃ n < 32, a = A.TRF_SHP_STAT n) s.dev t.dev

/-- EGRESS_SEND on a link that is UP with room in its replay buffer: a management message that has its credits leaves first, uses them, and its
flits enter the replay buffer with the next sequence numbers. -/
def Clause.EgressSendsManagementFirst : Prop := ∀ (s : State) (port : Fin 16) (e : Egr),
  s.dev.trf.shaper = [] → s.dev.portState port = Ps.up → s.dev.maySend port = true →
  s.dev.classHead port 0 = some e → Completes (.egressSend port) s fun t =>
    t.dev.trf.classq = s.dev.trf.classq.erase e ∧ t.dev.trf.sent = (port.val, e.msg) :: s.dev.trf.sent ∧
    (t.dev.link port).cred.getD e.vc 0 + e.msg.size / 16 = (s.dev.link port).cred.getD e.vc 0 ∧
    (t.dev.link port).txSeq = seqAfter (s.dev.link port).txSeq e.msg.flits.length ∧
    (t.dev.link port).replay = (s.dev.link port).replay ++ e.msg.txFlits (s.dev.link port).txSeq ∧
    t.dev.trf.flits.length = s.dev.trf.flits.length + e.msg.flits.length ∧ (t.dev.link port).nakOwed = false ∧
    (∀ q : Fin 16, q ≠ port → t.dev.link q = s.dev.link q) ∧ Changes [.trf, .links] noReg s.dev t.dev

/-- TRF_SAMPLE_TICK while RUN is 1 and the device is not in P3: every queue's depth and delay are counted in their bins and shown; while RUN is
0 only the time passes. TRF_CLEAR: every bin reads zero and nothing else changes. -/
def Clause.QueueSamples : Prop := ∀ (s : State) (tick : Nat),
  (s.dev.fld A.TRF_SAMPLE F.TRF_SAMPLE_RUN = 1 → s.dev.power ≠ 3 → Completes (.trfSampleTick tick) s fun t =>
    t.dev.now = max s.dev.now tick ∧
    (∀ q < 86,
      let x := s.dev.queueNow q
      let delay := s.dev.corePerAon * (match x.2 with | some t0 => t.dev.now - t0 | none => 0)
      Counts (A.TRF_HIST_DEPTH q (binDepth x.1)) 1 s.dev t.dev ∧ Counts (A.TRF_HIST_DELAY q (binDelay x.1 delay)) 1 s.dev t.dev ∧
      t.dev.fld (A.TRF_Q_NOW q) F.TRF_Q_NOW_DEPTH = min x.1 0xFFFFFF ∧ t.dev.fld (A.TRF_Q_NOW q) F.TRF_Q_NOW_HOL = min delay 0xFFFFFF) ∧
    Changes [.now] (fun a => ∃ q < 86, a = A.TRF_Q_NOW q ∨ ∃ b < 16, a = A.TRF_HIST_DEPTH q b ∨ a = A.TRF_HIST_DELAY q b) s.dev t.dev) ∧
  (s.dev.fld A.TRF_SAMPLE F.TRF_SAMPLE_RUN ≠ 1 → Completes (.trfSampleTick tick) s fun t =>
    t.dev.now = max s.dev.now tick ∧ Changes [.now] noReg s.dev t.dev) ∧
  Completes .trfClear s fun t => (∀ q < 86, ∀ b < 16, t.dev.reg (A.TRF_HIST_DEPTH q b) = 0 ∧ t.dev.reg (A.TRF_HIST_DELAY q b) = 0) ∧
    Changes [] (fun a => A.TRF_HIST_DEPTH 0 0 ≤ a ∧ a < A.TRF_HIST_DEPTH 86 0) s.dev t.dev

/-- The traffic of a port: its shaper, the order in which it sends, and the samples of its queues. -/
def Obligations.TrafficShaping : Prop :=
  Clause.ShaperRefill ∧ Clause.EgressSendsManagementFirst ∧ Clause.QueueSamples

/-! ## Links -/

/-- The states of a link: RETRAIN of a trained link, RELEASE of a quarantined one, loss of signal, the return to LOW_POWER and the wake from it. A
port to an expelled device is held DOWN instead. -/
def Clause.LinkStates : Prop := ∀ s : State,
  let d := s.dev
  (∀ p : Fin 4, d.portState p = Ps.up → Completes (.tlkRetrain p) s fun t =>
    t.dev.portState p = Ps.retrain ∧ Counts (A.TLK_RETRAIN_CNT p) 1 d t.dev ∧ Changes [.links] (· ∈ [A.TLK_STATUS p, A.TLK_RETRAIN_CNT p]) d t.dev) ∧
  (∀ n : Fin 12, d.portState (n + 4) = Ps.up → d.heldState (n + 4) Ps.retrain = Ps.retrain → Completes (.drsRetrain n) s fun t =>
    t.dev.portState (n + 4) = Ps.retrain ∧ Counts (A.DRS_RETRAIN_CNT n) 1 d t.dev) ∧
  (∀ p : Fin 4, d.portState p = Ps.quarantined → (d.link p).phys = Ps.up → Completes (.tlkRelease p) s fun t =>
    t.dev.portState p = Ps.retrain ∧ t.dev.fld (A.TLK_STATUS p) F.TLK_STATUS_WIN_VIOL = 0 ∧ (t.dev.link p).winEnd = none ∧
    Counts (A.TLK_RETRAIN_CNT p) 1 d t.dev ∧ Changes [.links] (· ∈ [A.TLK_STATUS p, A.TLK_RETRAIN_CNT p]) d t.dev) ∧
  (∀ n : Fin 12, d.portState (n + 4) = Ps.quarantined → (d.link (n + 4)).phys = Ps.up → d.heldState (n + 4) Ps.retrain = Ps.retrain →
    Completes (.drsRelease n) s fun t =>
      t.dev.portState (n + 4) = Ps.retrain ∧ t.dev.fld (A.DRS_STATUS n) F.DRS_STATUS_WIN_VIOL = 0 ∧ (t.dev.link (n + 4)).winEnd = none ∧
      Counts (A.DRS_RETRAIN_CNT n) 1 d t.dev ∧ Changes [.links] (· ∈ [A.DRS_STATUS n, A.DRS_RETRAIN_CNT n]) d t.dev) ∧
  (∀ port : Fin 16, d.portState port = Ps.up → Completes (.linkDown port) s fun t =>
    t.dev.portState port = Ps.down ∧ (∀ q : Fin 16, q ≠ port → t.dev.portState q = d.portState q) ∧ ∀ a, t.dev.byte a = d.byte a) ∧
  (∀ port : Fin 16, d.power = 2 → d.portState port = Ps.up → (∀ e ∈ d.trf.classq ++ d.trf.shaper, e.port ≠ port) →
    d.heldState port Ps.lowPower = Ps.lowPower → Completes (.linkIdle port) s fun t =>
      t.dev.now = d.now + 50 ∧ t.dev.portState port = Ps.lowPower) ∧
  (∀ port : Fin 16, d.portState port = Ps.lowPower → d.heldState port Ps.up = Ps.up → Completes (.linkWakeDone port) s fun t =>
    t.dev.portState port = Ps.up) ∧
  ∀ port : Fin 16, d.portState port = Ps.disabled → Completes (.linkDown port) s (fun t => t = s) ∧ Completes (.linkWakeDone port) s (fun t => t = s)

/-- Training: a full training on eight lanes with the expected partner brings the link UP with the partner's credits and nothing to replay.
PORT_ENABLE makes a DISABLED port of a device in service train, or any port DISABLED. HOLD_DOWN_END makes a trunk with a link that is UP available. -/
def Clause.LinkTraining : Prop := ∀ s : State, s.dev.links.length = 16 →
  (∀ (port : Fin 16) (r : TrainResult), r.node < 16384 → r.span < 65536 → r.ok = true → r.lanes = 0xff →
    s.dev.portState port = Ps.training → s.dev.heldState port Ps.up = Ps.up → (4 ≤ port.val → s.dev.rightPartner port r = true) →
    Completes (.linkTrainDone port r) s fun t =>
      t.dev.portState port = Ps.up ∧ t.dev.fld (portStatusAddr port) ⟨8, 8⟩ = 255 ∧ t.dev.fld (portStatusAddr port) ⟨3, 1⟩ = 0 ∧
      (t.dev.link port).cred = r.buffers ∧ (t.dev.link port).replay = [] ∧ (t.dev.link port).txSeq = 0 ∧
      (port.val < 4 → t.dev.fld (A.TLK_STATUS port) F.TLK_STATUS_LOST = 0) ∧ ∀ a, t.dev.byte a = s.dev.byte a) ∧
  (∀ port : Fin 16, s.dev.portState port = Ps.disabled → s.dev.stage = 5 → (4 ≤ port.val → s.dev.standalone = false) →
    s.dev.heldState port Ps.training = Ps.training → Completes (.portEnable port true) s fun t =>
      t.dev.portEnabled port = true ∧ t.dev.portState port = Ps.training) ∧
  (∀ port : Fin 16, s.dev.portState port ≠ Ps.quarantined → Completes (.portEnable port false) s fun t =>
    t.dev.portEnabled port = false ∧ t.dev.portState port = Ps.disabled) ∧
  ∀ (k : Fin 6) (since : Nat), s.dev.trunkDownAt k = some since → s.dev.linkUp k = true → Completes (.holdDownEnd k) s fun t =>
    t.dev.now = max s.dev.now (since + s.dev.holdDown) ∧ t.dev.trunkDownAt k = none ∧
    t.dev.fld (A.DRS_STATUS k) F.DRS_STATUS_HOLD = 0 ∧ t.dev.fld (A.DRS_STATUS (k + 6)) F.DRS_STATUS_HOLD = 0 ∧
    Changes [.now, .fab] (· ∈ [A.DRS_STATUS k, A.DRS_STATUS (k + 6)]) s.dev t.dev

/-- The states of a link and its training. -/
def Obligations.Links : Prop :=
  Clause.LinkStates ∧ Clause.LinkTraining

/-- A message flit that is next in order on a link that is UP: its messages join the inbox and its sequence number is taken. An uncorrectable flit
is counted, asks for a replay and brings nothing. -/
def Obligations.FlitsReceived : Prop := ∀ (s : State) (port : Fin 16) (f : Flit),
  let d := s.dev
  let l := d.link port
  let r := takeMsgs (decide (port.val < 4)) (l.rxBuf.length + f.body.length + 1) (l.rxBuf ++ f.body)
  let good := f.uncorrectable = false ∧ f.corrected = 0 ∧ flitCrcOk f = true ∧ flitNakf f = false ∧ flitFtype f = 1 ∧
    flitSeq f = seqAfter l.rxSeq 1 ∧ (4 ≤ port.val → flitFovr f = false)
  let taken (t : State) : Prop := (t.dev.link port).rxSeq = flitSeq f ∧ (t.dev.link port).inbox = l.inbox ++ r.1 ∧ (t.dev.link port).rxBuf = r.2 ∧
    (∀ q : Fin 16, q ≠ port → t.dev.link q = d.link q) ∧ Changes [.links] noReg d t.dev
  let lost (a : Nat) (t : State) : Prop := (t.dev.link port).nakOwed = true ∧ (t.dev.link port).rxSeq = l.rxSeq ∧ (t.dev.link port).inbox = l.inbox ∧
    Counts a 1 d t.dev ∧ Changes [.links] (· = a) d t.dev
  d.links.length = 16 → d.portState port = Ps.up → flitFits f = true →
  (∀ p : Fin 4, p.val = port.val → (good → Completes (.tlkFlit p f) s taken) ∧
    (f.uncorrectable = true → Completes (.tlkFlit p f) s (lost (A.TLK_FEC_UE_CNT p)))) ∧
  ∀ n : Fin 12, n.val + 4 = port.val → (good → Completes (.drsFlit n f) s taken) ∧
    (f.uncorrectable = true → Completes (.drsFlit n f) s (lost (A.DRS_FEC_UE_CNT n)))

/-- VIOL_WINDOW_CLOSE without a quarantine clears the window and its count. LOST_TIME_EXPIRE and DECLARE_LOST with nothing waiting at the slices: the
port reads LOST, a walk begins, every line it owns in the directory cache is poisoned, and PORT_LOST is raised. -/
def Obligations.ViolationWindowsAndPortLoss : Prop := ∀ s : State,
  let lost (p : Fin 4) (row : Nat) (t : State) : Prop :=
    t.dev.fld (A.TLK_STATUS p) F.TLK_STATUS_LOST = 1 ∧ (t.dev.fld A.HOM_STATUS F.HOM_STATUS_WALK).testBit p = true ∧
    (∃ n, t.dev.home.walks = s.dev.home.walks ++ [(p.val, n)]) ∧
    t.dev.evq.held = s.dev.evq.held ++ [heldOf 0x0503 p p none row 0 0 t.dev.now] ∧
    (∀ e ∈ s.dev.home.dc, dirDecode e.dir = (2, 2 ^ p.val) → (t.dev.meta_ e.line).poison = true) ∧ ∀ a, t.dev.byte a = s.dev.byte a
  (∀ (port : Fin 16) (wend : Nat), (s.dev.link port).winEnd = some wend → s.dev.overThreshold port = false →
    Completes (.violWindowClose port) s fun t =>
      t.dev.now = max s.dev.now wend ∧ (t.dev.link port).winEnd = none ∧ t.dev.fld (portStatusAddr port) winViolFld = 0 ∧
      (∀ q : Fin 16, q ≠ port → t.dev.link q = s.dev.link q) ∧ Changes [.now, .links] (· = portStatusAddr port) s.dev t.dev) ∧
  ∀ p : Fin 4, s.dev.home.snoops = [] → s.dev.home.waiting = [] → s.dev.calm → s.dev.hasRoom 0x0503 p →
    Completes (.declareLost p) s (fun t => t.dev.now = s.dev.now ∧ lost p 4 t) ∧
    ∀ due, (s.dev.link p).lostDue = some due →
      Completes (.lostTimeExpire p) s fun t => t.dev.now = max s.dev.now due ∧ (t.dev.link p).lostDue = none ∧ lost p 1 t

/-! ## Messages of a host -/

/-- The requests of a host for one line: each is ordered at the line's home, has its effect on the line and its directory entry, and its answer
waits for egress. -/
def Obligations.HostRequests : Prop := ∀ (s : State) (p : Fin 4) (i : TIn) (dom : Nat),
  let m := i.m
  let n := m.addr / 64
  let v := s.dev.line n
  let free := s.dev.dirOf n = (0, 0)
  let room := (s.dev.home.dc.filter fun e => dcSet e.line == dcSet n).length < 16
  let answers (a : TMsg) (t : State) : Prop := Queued (s.dev.tlkEgr p (some dom) a) s.dev t.dev
  let kept (t : State) : Prop := ∀ a, t.dev.byte a = s.dev.byte a
  s.dev.hostServed p i dom →
  (rowTakes 0x01 i = true → free → room → Completes (.rdS p i) s fun t =>
    answers { type := 0x41, len := 1, tag := m.tag, data := [v] } t ∧ t.dev.dirOf n = (1, 2 ^ p.val) ∧ kept t) ∧
  (rowTakes 0x02 i = true → free → room → Completes (.rdO p i) s fun t =>
    answers { type := 0x42, len := 1, tag := m.tag, data := [v] } t ∧ t.dev.dirOf n = (2, 2 ^ p.val) ∧ kept t) ∧
  (rowTakes 0x03 i = true → m.len ≤ 1 → free → Completes (.rdU p i) s fun t =>
    answers { type := 0x43, len := 1, bulk := m.bulk, tag := m.tag, data := [v] } t ∧ t.dev.dirOf n = (0, 0) ∧ kept t) ∧
  (∀ w, rowTakes 0x04 i = true → m.data = [w] → free → Completes (.wrU p i) s fun t =>
    answers { type := 0x44, bulk := m.bulk, tag := m.tag } t ∧ t.dev.dirOf n = (0, 0) ∧ Stores n w s.dev t.dev) ∧
  (∀ w u, rowTakes 0x05 i = true → m.data = [w] → m.units = [u] → free → Completes (.wrUp p i) s fun t =>
    answers { type := 0x44, tag := m.tag } t ∧ t.dev.dirOf n = (0, 0) ∧
    Stores n (mergeLine v w (u.setWidth 64)) s.dev t.dev) ∧
  (∀ o, rowTakes 0x06 i = true → m.data = [o] → free →
    let off := m.addr % 64
    let size := le o 1 1
    Completes (.tlkAtom p i) s fun t =>
      answers { type := 0x43, len := 1, tag := m.tag, data := [BitVec.ofNat 512 (le v off (2 ^ size))] } t ∧ t.dev.dirOf n = (0, 0) ∧
      Stores n (putLe v off (2 ^ size) (atomNew (le o 0 1) size (le v off (2 ^ size)) (le o 16 16) (le o 32 16))) s.dev t.dev) ∧
  (∀ w, rowTakes 0x07 i = true → m.data = [w] → s.dev.dirOf n = (2, 2 ^ p.val) → Completes (.wb p i) s fun t =>
    answers { type := 0x44, tag := m.tag } t ∧ t.dev.dirOf n = (0, 0) ∧ Stores n w s.dev t.dev) ∧
  (rowTakes 0x08 i = true → s.dev.dirOf n = (2, 2 ^ p.val) → Completes (.evict p i) s fun t =>
    answers { type := 0x44, tag := m.tag } t ∧ t.dev.dirOf n = (0, 0) ∧ kept t)

/-- INGRESS_TAKE: the request that waits alone at the arbiter of a half, a WR_U of one line, leaves it and stores its line, and its answer waits
for egress. -/
def Clause.IngressServes : Prop := ∀ (s : State) (east : Bool) (p : Fin 4) (m : TMsg) (x : Ing) (g dom : Nat) (w : Line),
  let n := m.addr / 64
  s.dev.trf.ing = [x] → x = ⟨east, p, 1, 0, 80, false, x.tick, .tlk p m, [⟨g, 0, .tlk p m, .wr (BitVec.allOnes 64) w 0, n, none, none⟩], none⟩ →
  s.dev.home.groups = [⟨g, .tlk p m, 1, []⟩] → m.type = 0x04 → m.credit = none → s.dev.home.credits = [] →
  s.dev.fld (A.TLK_STATUS p) F.TLK_STATUS_RETRY_HOLD = 0 → s.dev.calm → s.dev.leaseCheck p m.addr = .inl dom →
  s.dev.lineFree n → s.dev.dirOf n = (0, 0) → Completes (.ingressTake east) s fun t =>
    t.dev.trf.ing = [] ∧ t.dev.home.groups = [] ∧ Stores n w s.dev t.dev ∧
    Queued (s.dev.tlkEgr p (some dom) { type := 0x44, bulk := m.bulk, tag := m.tag }) s.dev t.dev

/-- The answers of a host: SNP_ACK ends the one snoop of its line and port and takes the port out of the directory, SNP_DATA stores the line as
well, and a MISS_REPLY with a sound descriptor that covers the miss enters the device table and ends the miss. -/
def Clause.HostAnswers : Prop := ∀ (s : State) (p : Fin 4) (i : TIn),
  let m := i.m
  let n := m.addr / 64
  s.dev.portState p = Ps.up → s.dev.tlkViolation p i = none → s.dev.calm → (s.dev.link p).inbox = [] →
  (∀ x, s.dev.home.snoops = [x] → x.line = n → x.port = p.val → s.dev.power ≠ 3 → s.dev.arbiterIdle (portEast p) → s.dev.home.ghosts = [] → s.dev.home.ue = [] → s.dev.quiet → s.dev.dirOf n = (2, 2 ^ p.val) →
    (rowTakes 0x10 i = true → Completes (.snpAck p i) s fun t =>
      t.dev.home.snoops = [] ∧ t.dev.dirOf n = (0, 0) ∧ ∀ a, t.dev.byte a = s.dev.byte a) ∧
    ∀ w, rowTakes 0x11 i = true → m.data = [w] → 64 * n < storeEnd → s.dev.extState (extentOf (64 * n)) < 2 →
      s.dev.stackFailed (stackOf (64 * n)) = false → Completes (.snpData p i) s fun t =>
        t.dev.home.snoops = [] ∧ t.dev.dirOf n = (0, 0) ∧ (t.dev.meta_ n).poison = false ∧ Stores n w s.dev t.dev) ∧
  ∀ (x : Miss) (u0 u1 : BitVec 128),
    let k := bits u0 8 3
    let w0 : Word := u1.setWidth 64
    let w1 : Word := (u1 >>> 64).setWidth 64
    rowTakes 0x22 i = true → s.dev.missOf m.tag = some x → m.units = [u0, u1] → x.ctx < 256 → bits u0 0 8 = x.ctx →
    bits u0 16 16 = s.dev.invGen x.ctx → bit u0 15 = false → bit w0 0 = true →
    s.dev.segCheck w0 w1 ((List.range 8).filterMap (s.dev.seg x.ctx)) = none → (segOf w0 w1).covers x.va = true → s.dev.seg x.ctx k = none →
    Completes (.missReply p i) s fun t =>
      t.dev.seg x.ctx k = some (segOf w0 w1) ∧ (∀ j < 8, j ≠ k → t.dev.seg x.ctx j = s.dev.seg x.ctx j) ∧
      (∀ y ∈ t.dev.stn.misses, ¬ (y.ctx = x.ctx ∧ y.gran = x.gran)) ∧ ∀ a, t.dev.byte a = s.dev.byte a

/-- The answers of a host and the arbiter that serves host requests. -/
def Obligations.HostAnswersAndIngress : Prop :=
  Clause.IngressServes ∧ Clause.HostAnswers

/-! ## Registers from outside -/

/-- A write of a register that a write only stores bits of: by REGISTER_WRITE, by MW_WRITE of a port that may write it, and by an I3C private write.
A refused write, and one to a half held in reset, changes nothing. MW_READ and an I3C private read return what the register shows. -/
def Obligations.RegisterAccesses : Prop := ∀ (s : State) (a : Nat) (v m : Word),
  let d := s.dev
  let all := BitVec.allOnes 64
  let stored (mask : Word) (t : State) : Prop := t.dev.reg a = written a (d.reg a) v mask
  (d.writeRefusal a m = none → d.inDownHalf a = false → plainWrite a → Completes (.registerWrite a v m) s fun t =>
    stored m t ∧ Changes [] (· = a) d t.dev) ∧
  (d.writeRefusal a m ≠ none ∨ d.inDownHalf a = true → Completes (.registerWrite a v m) s fun t => t = s) ∧
  (∀ (p : Fin 4) (i : TIn), d.portState p = Ps.up → d.tlkViolation p i = none → d.calm → (d.link p).inbox = [] →
    (unitWord i.m 0).toNat = a →
    (rowTakes 0x20 i = true → plainRead a → d.windowAllows p a false = true → d.minimal = false → Completes (.mwRead p i) s fun t =>
      Queued (d.tlkEgr p none { type := 0x60, tag := i.m.tag, units := [(d.shows a).setWidth 128] }) d t.dev ∧ HeardTlk p i d t.dev ∧
      Changes [.trf, .links] noReg d t.dev) ∧
    (rowTakes 0x21 i = true → unitWord i.m 1 = v → unitWord i.m 2 = m → d.windowAllows p a true = true → d.minimal = false →
      d.writeRefusal a all = none → plainWrite a → d.inDownHalf a = false → d.awake → d.writesBefore p = false →
      Completes (.mwWrite p i) s fun t =>
        stored m t ∧ Queued (d.tlkEgr p none { type := 0x61, tag := i.m.tag }) d t.dev ∧ HeardTlk p i d t.dev ∧ Changes [.trf, .links] (· = a) d t.dev)) ∧
  ∀ addr : BitVec 7, d.answersPrivate addr.toNat = true → d.i3cReaches a = true →
    (∀ bytes : List Byte, bytes.length = 12 → leAt bytes 0 4 = a → BitVec.ofNat 64 (leAt bytes 4 8) = v → d.writeRefusal a all = none →
      plainWrite a → d.inDownHalf a = false → Completes (.i3cPrivateWrite addr bytes true) s fun t =>
        stored all t ∧ t.dev.sys = { d.sys with pwr := { d.sys.pwr with i3cAddr := none } } ∧ Changes [.sys] (· = a) d t.dev) ∧
    (∀ bytes : List Byte, bytes.length = 4 → Completes (.i3cPrivateWrite addr bytes true) s fun t =>
      t.dev.sys = { d.sys with pwr := { d.sys.pwr with i3cAddr := some (leAt bytes 0 4) } } ∧ Changes [.sys] noReg d t.dev) ∧
    (d.sys.pwr.i3cAddr = some a → plainRead a → Completes (.i3cPrivateRead addr) s fun t =>
      t.dev.sys = { d.sys with pwr := { d.sys.pwr with i3cAddr := none, i3cOut := toLe 8 (d.shows a).toNat } } ∧ Changes [.sys] noReg d t.dev)

/-- The I3C addresses and GET codes of a device out of power-on reset, and the JTAG instructions: BYPASS and IDCODE capture what the spec gives, a
device in service takes EXTEST, CLAMP and HIGHZ as BYPASS. -/
def Obligations.SidebandAndTestPort : Prop := ∀ (s : State) (addr new : BitVec 7),
  let d := s.dev
  let dynamic (x valid : Nat) (t : State) : Prop := t.dev.fld A.PWR_I3C_STATUS F.PWR_I3C_STATUS_DYN_ADDR = x ∧
    t.dev.fld A.PWR_I3C_STATUS F.PWR_I3C_STATUS_DA_VALID = valid ∧ Changes [] (· = A.PWR_I3C_STATUS) d t.dev
  let returns (l : List Byte) (t : State) : Prop :=
    t.dev.sys = { d.sys with pwr := { d.sys.pwr with i3cOut := l } } ∧ Changes [.sys] noReg d t.dev
  let jtag (ir out : Nat) (t : State) : Prop :=
    t.dev.sys = { d.sys with pwr := { d.sys.pwr with jtagIr := ir, jtagOut := out } } ∧ Changes [.sys] noReg d t.dev
  (d.sideband = true →
    (d.dynAddr = none → Completes (.entdaa addr) s (dynamic addr.toNat 1)) ∧
    (d.dynAddr = none → d.staticAddr = addr.toNat → Completes (.setdasa addr new) s (dynamic new.toNat 1)) ∧
    Completes .rstdaa s (dynamic 0 0) ∧
    (d.dynAddr = some addr.toNat →
      Completes (.setnewda addr new) s (dynamic new.toNat 1) ∧
      Completes (.getpid addr) s (returns (toLe 6 Config.provisionedId.toNat).reverse) ∧
      Completes (.getbcr addr) s (returns [0]) ∧ Completes (.getdcr addr) s (returns [0]) ∧
      Completes (.getmwl addr) s (returns [0, 12]) ∧ Completes (.getmrl addr) s (returns [0, 8]) ∧
      Completes (.getstatus addr) s fun t =>
        t.dev.sys = { d.sys with pwr := { d.sys.pwr with i3cOut := [0, if d.sys.pwr.i3cErr then 32 else 0], i3cErr := false } } ∧
        Changes [.sys] noReg d t.dev)) ∧
  Completes .jtagBypass s (jtag 0 0) ∧ Completes .jtagIdcode s (jtag 1 idcodeValue) ∧
  (Completes .jtagSamplePreload s fun t => t.dev.sys.pwr.jtagIr = 2 ∧ Changes [.sys, .free] noReg d t.dev) ∧
  (d.inService = true → Completes .jtagExtest s (jtag 0 0) ∧ Completes .jtagClamp s (jtag 0 0) ∧ Completes .jtagHighz s (jtag 0 0)) ∧
  (d.inService = false → Completes .jtagClamp s (jtag 4 0) ∧ Completes .jtagHighz s (jtag 5 0) ∧
    Completes .jtagExtest s fun t => t.dev.sys.pwr.jtagIr = 3 ∧ Changes [.sys, .free] noReg d t.dev)

/-! ## Messages of other nodes -/

/-- A memory request of another node through a valid window of this device, on a line that nothing stands in the way of: it is ordered at the line's
home, has its effect on the line, and its answer leaves on the first good route. A message for another node is switched to its next trunk. -/
def Obligations.DorrusRequests : Prop := ∀ (s : State) (p : Fin 12) (i : DIn),
  let m := i.m
  let d := s.dev
  (∀ (off dom cls : Nat) (right : Right),
    let n := off / 64
    let v := d.line n
    let base : DMsg := { dst := m.src, src := d.node, srcDomain := m.srcDomain, tag := m.tag, win := m.win, atag := m.atag }
    let owner := d.ownRec (off >>> 21)
    let answers (a : DMsg) (t : State) : Prop := SentFor (some dom) a d t.dev ∧ HeardDrs p i d t.dev ∧ t.dev.home.waiting = [] ∧ t.dev.home.groups = [] ∧
      Touches [.home, .store, .fab, .trf, .links]
        (fun a => a ∈ [A.STK_STATUS (stackOf (64 * n)), A.RIND_ENC_CNT (stackOf (64 * n)), A.RIND_DEC_CNT (stackOf (64 * n))] ∨ shaperRegs dom a)
        (· / 64 = n) d t.dev
    d.power ≠ 3 → d.drsServed p i → m.len = 1 → m.credit = none → i.errs = [] → (d.meterCfg (16 + m.src)).1 = 0 → d.arbiterIdle (portEast (p + 4)) →
    d.home.credits = [] → d.home.groups = [] → right = memRight m.type → d.winCheck m right = .inr (off, dom, cls) → d.lineFree n → d.dirOf n = (0, 0) →
    d.refusal (64 * n) (some dom) (some cls) = none → (d.drsEgr { base with type := 0x42 }).isSome = true →
    (m.type = 0x01 → Completes (.rd p i) s fun t =>
      answers { base with type := 0x41, len := 1, units := [v],
                          atag := if owner.st = 2 ∧ owner.owner = m.src ∧ owner.epoch = m.atag then m.atag else 0 } t ∧ ∀ a, t.dev.byte a = d.byte a) ∧
    (∀ w, m.type = 0x02 → m.units = [w] → Completes (.wr p i) s fun t =>
      answers { base with type := 0x42 } t ∧ Stores n w d t.dev ∧ (t.dev.meta_ n).poison = m.poison) ∧
    (∀ u w, m.type = 0x03 → m.units = [u, w] → Completes (.wrp p i) s fun t =>
      answers { base with type := 0x42 } t ∧ Stores n (mergeLine v w (u.setWidth 64)) d t.dev) ∧
    (∀ o, m.type = 0x04 → m.units = [o] → tget 0 d.fab.boot m.src = m.srcBoot → d.fab.replay = [] →
      serialLe24 m.atag (tget 0 d.fab.aged m.src) = false →
      let at_ := off % 64
      let size := le o 1 1
      let ans : DMsg := { base with type := 0x43, len := 1, units := [BitVec.ofNat 512 (le v at_ (2 ^ size))] }
      Completes (.drsAtom p i) s fun t =>
        answers ans t ∧ t.dev.fab.replay = [⟨m.src, m.atag, stackOf (64 * n), ans, d.now⟩] ∧
        Stores n (putLe v at_ (2 ^ size) (atomNew (le o 0 1) size (le v at_ (2 ^ size)) (le o 16 16) (le o 32 16))) d t.dev)) ∧
  ∀ dir, d.portState (p + 4) = Ps.up → d.drsViolation p i = none → d.overThreshold (p + 4) = false → (d.link (p + 4)).inbox = [] →
    d.isExt (p + 4) = false → dmsgFits m = true → i.cls < 4 → m.dst ≠ d.node → d.resState ≠ 2 → nextDir d.node m = some dir → d.trunkOk dir = true →
    let m' := turnDateline (some (p.val % 6 / 2)) dir m
    let m2 := { m' with dateline := m'.dateline || crossesDateline d.dims d.node dir, hops := m'.hops + 1 }
    Completes (.forward p i) s fun t =>
      Queued ⟨d.trunkPort dir m' + 4, 4, drsVc m2, none, false, d.now, .d m2⟩ d t.dev ∧ HeardDrs p i d t.dev ∧ Changes [.trf, .links] noReg d t.dev

/-- The answers to a remote request of this device: DATA, CMP and ARES end it with what they bring; RETRY makes it wait for its credit, and
CREDIT_READY sends it again with it; NOROUTE starts the fence of its destination and enters the trunk into the dead list; a NAK has no effect. -/
def Obligations.DorrusResponses : Prop := ∀ (s : State) (p : Fin 12) (i : DIn),
  let m := i.m
  let d := s.dev
  let many := m.poison = true ∧ 1 < m.len
  let data : Got := { key := 0, detail := m.detail, poison := if many then le (m.units.headD 0) 0 8 else b2n m.poison,
                      data := if many then m.units.drop 1 else m.units }
  let region (o : Outst) : Nat := (Config.windowBase o.m.dst o.m.win + o.m.woff) >>> 21 <<< 21
  let heard (parts : List Part) (regs : Nat → Prop) (t : State) : Prop := HeardDrs p i d t.dev ∧ Changes (.links :: parts) regs d t.dev
  d.drsServed p i →
  (m.type = 0x7F → Completes (.drsNak p i) s (heard [] noReg)) ∧
  (∀ o, d.answered m = some o → d.nothingHeld o.m.dst →
    (m.type = 0x41 → o.m.type = 1 → (o.m.atag = 0 ∨ m.atag = o.m.atag) → Completes (.drsData p i) s fun t =>
      Ended o { data with keep := decide (o.m.atag ≠ 0) } d t.dev ∧ heard [.fab, .cmd] noReg t) ∧
    (∀ x, m.type = 0x41 → o.m.type = 1 → o.m.atag ≠ 0 → m.atag ≠ o.m.atag → d.own.ownedHere.find? (fun x => x.1 == o.m.dst && x.2.1 == region o) = some x →
      d.hasRoom Ev.ownLost 0 → Completes (.drsData p i) s fun t =>
        Ended o data d t.dev ∧ t.dev.own = { d.own with ownedHere := d.own.ownedHere.filter fun y => y != x } ∧
        t.dev.evq = { d.evq with held := d.evq.held ++ [heldOf Ev.ownLost 0 o.m.dst none 0 x.2.2 (region o) d.now] } ∧
        heard [.fab, .cmd, .own, .evq] noReg t) ∧
    (m.type = 0x42 → Completes (.drsCmp p i) s fun t =>
      Ended o { key := 0, status := m.status, detail := m.detail } d t.dev ∧
      (m.status = Sc.indeterminate → Counts A.GWY_INDET_CNT 1 d t.dev) ∧
      (m.status ≠ Sc.indeterminate → t.dev.reg A.GWY_INDET_CNT = d.reg A.GWY_INDET_CNT) ∧
      heard [.fab, .cmd] (· = A.GWY_INDET_CNT) t) ∧
    (m.type = 0x43 → o.m.type = 4 → o.m.atag = m.atag → Completes (.ares p i) s fun t =>
      Ended o { key := 0, data := m.units } d t.dev ∧ heard [.fab, .cmd] noReg t) ∧
    (m.type = 0x44 → Completes (.drsRetry p i) s fun t =>
      t.dev.fab = { d.fab with out := d.fab.out.map fun x => if x.m.tag == m.tag then
        { x with credWait := some (m.credit.getD 0), returned := false, m := { x.m with credit := none },
                 due := if x.m.type = 4 then d.now + d.rspTimeout else x.due } else x } ∧
      heard [.fab] noReg t)) ∧
  (m.type ∈ [0x41, 0x42, 0x43, 0x44] → d.answered m = none →
    (m.type = 0x41 → Completes (.drsData p i) s (heard [] noReg)) ∧ (m.type = 0x42 → Completes (.drsCmp p i) s (heard [] noReg)) ∧
    (m.type = 0x43 → Completes (.ares p i) s (heard [] noReg)) ∧ (m.type = 0x44 → Completes (.drsRetry p i) s (heard [] noReg))) ∧
  (∀ o, m.type = 0x45 → (d.fab.out.find? fun o => o.m.tag == m.tag && o.m.dst == m.src && o.credWait == some (m.credit.getD 0)) = some o →
    let m' := { o.m with credit := o.credWait, retx := false }
    let o' := { o with credWait := none, m := m', copies := 1, atomStart := d.now }
    let put (o2 : Outst) : FabSt := { d.fab with out := d.fab.out.map fun x => if x.m.tag == m.tag then o2 else x }
    (d.fab.fences.contains o.m.dst = true → Completes (.drsCreditReady p i) s fun t =>
      t.dev.fab = put { o' with returned := true, copies := 0 } ∧ heard [.fab] noReg t) ∧
    (∀ dir, d.fab.fences.contains o.m.dst = false →
      nextDir d.node (withRoute d m' ((tget 0 d.fab.routes o.m.dst - 1) / 8, (tget 0 d.fab.routes o.m.dst - 1) % 8)) = some dir →
      d.trunkOk dir = true → Completes (.drsCreditReady p i) s fun t =>
        t.dev.fab = put { o' with due := d.now + d.rspTimeout, returned := false, heldBack := false } ∧
        (t.dev.trf.shaper.length + t.dev.trf.classq.length = d.trf.shaper.length + d.trf.classq.length + 1) ∧
        heard [.fab, .trf] (shaperRegs m'.srcDomain) t)) ∧
  ∀ o, m.type = 0x46 → drsCls m.detail = 1 → (∀ e ∈ d.fab.dead, e.1 < 64) →
    (d.fab.out.find? fun o => o.m.tag == m.tag && o.m.type == m.detail && o.m.win == m.win && o.m.atag == m.atag && !o.heldBack) = some o →
    Completes (.noroute p i) s fun t =>
      (∃ slot < 64, (slot, m.failNode, m.failDir) ∈ t.dev.fab.dead) ∧
      t.dev.fab.out = d.fab.out.map (fun x => if x.m.tag == m.tag then { x with returned := true } else x) ∧
      t.dev.fab.fences = (if d.fab.fences.contains o.m.dst then d.fab.fences else d.fab.fences ++ [o.m.dst]) ∧
      heard [.fab] (fun a => ∃ k < 64, a = A.GWY_DEAD k) t

/-- The fabric's timers: the fence of a node, the age of a dead-list entry, the response time and the atomics' schedule of a request, the age of
a replay entry, and the waiting time of a dirty tile. -/
def Obligations.FabricTimers : Prop := ∀ s : State,
  let d := s.dev
  (∀ node : Fin 16384, d.fab.fences.contains node.val = true →
    let free : List Nat := d.fab.fences.filter (· != node.val)
    let mine := d.fab.out.filter fun o => o.m.dst == node.val
    ((mine.any fun o => !o.returned && !o.heldBack && o.credWait.isNone) = true → Completes (.routeFenceRelease node) s fun t => t = s) ∧
    (∀ c, mine = [] → d.chooseRoute node = some c → Completes (.routeFenceRelease node) s fun t =>
      t.dev.fab = { d.fab with fences := free, routes := tset 0 d.fab.routes node (1 + c.1 * 8 + c.2) } ∧ Changes [.fab] noReg d t.dev) ∧
    (∀ o, mine = [o] → o.returned = true → o.heldBack = false → d.chooseRoute node = none → Completes (.routeFenceRelease node) s fun t =>
      t.dev.fab = { d.fab with fences := free, routes := tset 0 d.fab.routes node 0, out := d.fab.out.filter fun x => x.m.tag != o.m.tag } ∧
      t.dev.cmd = { d.cmd with runs := d.cmd.runs.map fun r =>
        if r.seq == o.seq then r.give { key := o.key, status := Sc.timeout, detail := 0x81 } else r } ∧
      Changes [.fab, .cmd] noReg d t.dev) ∧
    ∀ o c x, mine = [o] → o.returned = true → o.heldBack = false → d.chooseRoute node = some c →
      let again := o.m.type = 4 ∧ o.copies ≠ 0
      let m' := { o.m with retx := decide again }
      d.drsEgr m' = some x → Completes (.routeFenceRelease node) s fun t =>
        t.dev.fab = { d.fab with fences := free, routes := tset 0 d.fab.routes node (1 + c.1 * 8 + c.2), out := d.fab.out.map fun y =>
          if y.m.tag == o.m.tag then { o with m := m', due := d.now + d.rspTimeout, returned := false, copies := max 1 o.copies,
                                              atomStart := if o.copies = 0 then d.now else o.atomStart } else y } ∧
        Queued x d t.dev ∧ (again → Counts A.GWY_RETX_CNT 1 d t.dev) ∧ (¬ again → t.dev.reg A.GWY_RETX_CNT = d.reg A.GWY_RETX_CNT) ∧
        Changes [.fab, .trf] (fun a => a = A.GWY_RETX_CNT ∨ shaperRegs o.m.srcDomain a) d t.dev) ∧
  (∀ k : Fin 64, (d.fab.dead.any fun e => e.1 == k.val) = true → Completes (.deadEntryAgeOut k) s fun t =>
    let age := (d.now % 2 ^ 32 + 2 ^ 32 - bits (d.reg (A.GWY_DEAD k)) 32 32) % 2 ^ 32
    t.dev.now = max d.now (d.now - age + d.deadAge) ∧ t.dev.fab = { d.fab with dead := d.fab.dead.filter fun e => e.1 != k.val } ∧
    t.dev.reg (A.GWY_DEAD k) = 0 ∧ Changes [.now, .fab] (· = A.GWY_DEAD k) d t.dev) ∧
  (∀ tag o, tag < 65536 → d.outst tag = some o → o.heldBack = false → d.nothingHeld o.m.dst →
    (o.m.type ≠ 4 → Completes (.rspTimeout tag) s fun t =>
      t.dev.now = max d.now o.due ∧ Ended o { key := 0, status := Sc.timeout, detail := 0x80 } d t.dev ∧
      Counts A.GWY_RSP_TO_CNT 1 d t.dev ∧ Changes [.now, .fab, .cmd] (· = A.GWY_RSP_TO_CNT) d t.dev) ∧
    (o.m.type = 4 → o.credWait.isSome = true → Completes (.rspTimeout tag) s fun t =>
      t.dev.now = max d.now o.due ∧ Ended o { key := 0, status := Sc.indeterminate, detail := 0x80 } d t.dev ∧
      Counts A.GWY_INDET_CNT 1 d t.dev ∧ Changes [.now, .fab, .cmd] (· = A.GWY_INDET_CNT) d t.dev) ∧
    (o.m.type = 4 → o.credWait = none →
      let due := o.atomStart + [800, 2400, 5600, 12000].getD (o.copies - 1) 16000
      let m' := { o.m with retx := true }
      (o.copies = 0 → Completes (.atomResendTimer tag) s fun t => t = s) ∧
      (5 ≤ o.copies → Completes (.atomResendTimer tag) s fun t =>
        t.dev.now = max d.now due ∧ Ended o { key := 0, status := Sc.indeterminate, detail := 0x80 } d t.dev ∧
        Counts A.GWY_INDET_CNT 1 d t.dev ∧ Changes [.now, .fab, .cmd] (· = A.GWY_INDET_CNT) d t.dev) ∧
      ∀ dir, 0 < o.copies → o.copies < 5 → o.returned = false → d.fab.fences.contains o.m.dst = false →
        nextDir d.node (withRoute d m' ((tget 0 d.fab.routes o.m.dst - 1) / 8, (tget 0 d.fab.routes o.m.dst - 1) % 8)) = some dir →
        d.trunkOk dir = true → Completes (.atomResendTimer tag) s fun t =>
          t.dev.now = max d.now due ∧
          t.dev.fab = { d.fab with out := d.fab.out.map fun x => if x.m.tag == tag then { o with copies := o.copies + 1, m := m' } else x } ∧
          Counts A.GWY_RETX_CNT 1 d t.dev ∧
          t.dev.trf.shaper.length + t.dev.trf.classq.length = d.trf.shaper.length + d.trf.classq.length + 1 ∧
          Changes [.now, .fab, .trf] (fun a => a = A.GWY_RETX_CNT ∨ shaperRegs o.m.srcDomain a) d t.dev)) ∧
  (∀ (src : Fin 16384) (atag age : Nat) (e : Replay), atag < 2 ^ 24 → 12800 ≤ age → age ≤ 16000 →
    d.fab.replay.find? (fun e => e.src == src.val && e.atag == atag) = some e → Completes (.replayEntryExpire src atag age) s fun t =>
      t.dev.now = max d.now (e.tick + age) ∧
      t.dev.fab = { d.fab with
        replay := d.fab.replay.erase e,
        aged := tset 0 d.fab.aged src (if serialLe24 (tget 0 d.fab.aged src) atag then atag else tget 0 d.fab.aged src) } ∧
      Changes [.now, .fab] noReg d t.dev) ∧
  ∀ x, (d.fab.dirty.find? fun x => !(d.shipReady x)) = some x → Completes .coalesceExpire s fun t =>
    t.dev.now = x.since + d.fld A.GWY_CFG F.GWY_CFG_COALESCE ∧ t.dev.shipReady x = true ∧ Changes [.now] noReg d t.dev

/-- The gateway: a ready tile of sound lines is read and leaves over the external link; a BULK_WR that lands stores its 64 lines, writes the
channel's record line and is acknowledged; the acknowledgement ends a tile in flight; a PMSG for another node of the span is passed to it, and one
with too many stages is dropped and counted. -/
def Obligations.Gateway : Prop := ∀ s : State,
  let d := s.dev
  let ext := d.fld A.GWY_CFG F.GWY_CFG_EXT_PORT
  let overLink (dom : Nat) (m : DMsg) (t : State) : Prop := Queued ⟨ext + 4, 3, drsVc m, some dom, false, d.now, .d { m with hops := m.hops + 1 }⟩ d t.dev
  (∀ x : Dirty, d.fab.dirty.find? d.shipReady = some x → d.fab.bulk.length < 256 → d.fld A.GWY_CFG F.GWY_CFG_EXT_EN = 1 →
    let w0 := d.reg (A.GWY_CHAN0 x.chan)
    let off := F.GWY_CHAN1_OUT.of (d.reg (A.GWY_CHAN1 x.chan)) * 2 ^ 21 + 4096 * x.tile
    let dom := F.GWY_CHAN0_DOMAIN.of w0
    F.GWY_CHAN0_VALID.of w0 = 1 → (∀ i < 64, d.lineFree (off / 64 + i) ∧ d.refusal (off + 64 * i) (some dom) none = none) →
    Completes .gatewayShip s fun t =>
      t.dev.fab = { d.fab with dirty := d.fab.dirty.erase x, bulk := d.fab.bulk ++ [(d.fab.nextTag, d.now)],
                               nextTag := (d.fab.nextTag + 1) % 65536 } ∧
      t.dev.fld A.GWY_SHIP_CNT ⟨0, 48⟩ = min (d.fld A.GWY_SHIP_CNT ⟨0, 48⟩ + 1) (2 ^ 48 - 1) ∧
      overLink dom
               { type := 0x70, len := 64, dst := d.fld (A.DRS_STATUS ext) F.DRS_STATUS_PEER_NODE, src := d.node, srcDomain := dom, tag := d.fab.nextTag,
                 win := F.GWY_CHAN0_PEER_CHAN.of w0, woff := 4096 * x.tile,
                 units := (List.range 64).map fun i => d.line (off / 64 + i) } t ∧
      ∀ a, t.dev.byte a = d.byte a) ∧
  (∀ (p : Fin 12) (i : DIn), d.drsServed p i →
    let m := i.m
    let w0 := d.reg (A.GWY_CHAN0 m.win)
    let first := (F.GWY_CHAN1_IN.of (d.reg (A.GWY_CHAN1 m.win)) * 2 ^ 21 + m.woff) / 64
    let rec_ := bits (d.reg (A.GWY_CHAN2 m.win)) 0 33
    let dom := F.GWY_CHAN0_DOMAIN.of w0
    let count := min (d.fld A.GWY_LAND_CNT ⟨0, 48⟩ + 1) (2 ^ 48 - 1)
    (m.type = 0x70 → 3 ≤ m.win → m.win < 64 → F.GWY_CHAN0_VALID.of w0 = 1 → m.woff + 4096 ≤ (F.GWY_CHAN0_LEN_M1.of w0 + 1) * 2 ^ 21 →
      d.fld A.GWY_CFG F.GWY_CFG_EXT_EN = 1 → d.power ≠ 3 → d.arbiterIdle (portEast (p + 4)) → d.home.credits = [] → d.home.groups = [] →
      let free (n : Nat) : Prop := d.lineFree n ∧ d.dirOf n = (0, 0) ∧ d.refusal (64 * n) (some dom) none = none
      (∀ j < 64, free (first + j)) → free rec_ → (rec_ < first ∨ first + 64 ≤ rec_) → Completes (.bulkWr p i) s fun t =>
        (∀ j < 64, (t.dev.meta_ (first + j)).poison = decide (((drsLines m).getD j (0, 0)).2 ≠ 0) ∧
          ∀ b < 64, t.dev.byte (64 * (first + j) + b) = byteOf ((drsLines m).getD j (0, 0)).1 b) ∧
        (∀ b < 64, t.dev.byte (64 * rec_ + b) = byteOf (putLe (putLe 0 0 8 count) 8 8 m.woff) b) ∧
        (∀ a, a / 64 ≠ rec_ → (a / 64 < first ∨ first + 64 ≤ a / 64) → t.dev.byte a = d.byte a) ∧
        t.dev.fld A.GWY_LAND_CNT ⟨0, 48⟩ = count ∧
        overLink dom { type := 0x71, dst := m.src, src := d.node, srcDomain := dom, tag := m.tag, win := m.win } t ∧ HeardDrs p i d t.dev) ∧
    (m.type = 0x71 → Completes (.bulkAck p i) s fun t =>
      t.dev.fab = { d.fab with bulk := d.fab.bulk.filter fun b => b.1 != m.tag } ∧ HeardDrs p i d t.dev ∧ Changes [.fab, .links] noReg d t.dev) ∧
    (m.type = 0x66 → max 1 (d.fld A.GWY_CFG F.GWY_CFG_MAX_STAGES) < pmsgStages m → Completes (.pmsg p i) s fun t =>
      Counts A.GWY_PMSG_DROP_CNT 1 d t.dev ∧ HeardDrs p i d t.dev ∧ Changes [.links] (· = A.GWY_PMSG_DROP_CNT) d t.dev) ∧
    (m.type = 0x66 → pmsgStages m ≤ max 1 (d.fld A.GWY_CFG F.GWY_CFG_MAX_STAGES) → pmsgDstSpan m = d.span → pmsgDstNode m ≠ d.node →
      pmsgChan m ≤ 2 →
      let us := linesOf (((pmsgPayload m).length + 63) / 64) (pmsgPayload m)
      let out : DMsg := { type := [0x60, 0x64, 0x65].getD (pmsgChan m) 0x65, len := us.length, dst := pmsgDstNode m, src := d.node, units := us }
      (d.drsEgr out).isSome = true → Completes (.pmsg p i) s fun t => Sent out d t.dev ∧ HeardDrs p i d t.dev ∧ Changes [.trf, .links] noReg d t.dev))

/-! ## Ownership and leases -/

/-- The OWN messages: OFFER and RECLAIM raise their events, a RELEASE drops the copies and the entry of the region and is answered, RELEASED lets
the home offer the region to its new owner, a valid ACCEPT makes its sender the owner, and an ANSWER of OK enters the owned table. -/
def Clause.OwnershipMessages : Prop := ∀ (s : State) (p : Fin 12) (i : DIn),
  let m := i.m
  let d := s.dev
  let u := m.units.headD 0
  let off := le u 8 8
  let epoch := le u 16 2
  let region := off >>> 21
  let o := d.ownRec region
  let own (kind e st : Nat) (dst : Nat) : DMsg := { type := 0x62, len := 1, dst := dst, src := d.node,
                                                     units := [putLe (putLe (putLe (putLe 0 0 1 kind) 8 8 off) 16 2 e) 18 1 st] }
  let heard (parts : List Part) (regs : Nat → Prop) (t : State) : Prop := HeardDrs p i d t.dev ∧ Changes (.links :: parts) regs d t.dev
  d.drsServed p i → m.type = 0x62 →
  (le u 0 1 = 1 → d.hasRoom 0x0404 0 → Completes (.ownOffer p i) s fun t =>
    t.dev.evq = { d.evq with held := d.evq.held ++ [heldOf 0x0404 0 m.src none 0 epoch off d.now] } ∧ heard [.evq] noReg t) ∧
  (le u 0 1 = 5 → d.hasRoom 0x0405 0 → Completes (.ownReclaim p i) s fun t =>
    t.dev.evq = { d.evq with held := d.evq.held ++ [heldOf 0x0405 0 m.src none 0 epoch off d.now] } ∧ heard [.evq] noReg t) ∧
  (le u 0 1 = 3 → (d.drsEgr (own 4 epoch 0 m.src)).isSome = true → Completes (.ownRelease p i) s fun t =>
    t.dev.own = { d.own with
      ownedHere := d.own.ownedHere.filter fun x => !(x.1 == m.src && x.2.1 == off),
      ret := d.own.ret.filter fun x => !(x.kind == 2 && x.node == m.src && decide (off / 64 ≤ x.line) && decide (x.line < off / 64 + 32768)) } ∧
    Sent (own 4 epoch 0 m.src) d t.dev ∧ heard [.own, .trf] noReg t) ∧
  (∀ x, le u 0 1 = 4 → off % 2 ^ 21 = 0 → d.own.xfers.find? (fun x => x.region == region && x.releaseDue.isSome) = some x → x.region = region →
    o.owner = m.src → o.st = 2 → x.newOwner ≠ d.node → (d.drsEgr (own 1 (epochNext o.epoch) 0 x.newOwner)).isSome = true →
    Completes (.released p i) s fun t =>
      t.dev.ownRec region = { o with st := 1, pend := x.newOwner, epoch := epochNext o.epoch, stateful := x.stateful, reclaimed := false } ∧
      (∀ r, r ≠ region → t.dev.ownRec r = d.ownRec r) ∧
      t.dev.own.xfers = d.own.xfers.map (fun y => if y == x then { x with releaseDue := none, acceptDue := some (d.now + 50000) } else y) ∧
      Sent (own 1 (epochNext o.epoch) 0 x.newOwner) d t.dev ∧ heard [.own, .trf] noReg t) ∧
  (∀ x, le u 0 1 = 2 → off % 2 ^ 21 = 0 → off < storeEnd → o.st = 1 → o.pend = m.src → o.epoch = epoch →
    d.own.xfers.find? (fun x => x.region == region && x.acceptDue.isSome) = some x → x.region = region →
    d.quiet → (d.drsEgr (own 6 epoch 0 m.src)).isSome = true → Completes (.accept p i) s fun t =>
      t.dev.ownRec region = { o with st := 2, owner := m.src, pend := 0 } ∧ (∀ r, r ≠ region → t.dev.ownRec r = d.ownRec r) ∧
      t.dev.own.xfers = d.own.xfers.filter (fun y => y != x) ∧
      t.dev.cmd = { d.cmd with runs := d.cmd.runs.map fun r => if r.seq == x.seq then
        { r with cpl := some (r.cpl.getD { detail := if x.noRel then 0x60 else 0, result := epoch }) } else r } ∧
      Sent (own 6 epoch 0 m.src) d t.dev ∧ heard [.own, .cmd, .trf] noReg t) ∧
  (∀ a, le u 0 1 = 6 → d.own.accepting.find? (fun a => a.node == m.src && a.off == off && a.epoch == epoch) = some a → le u 18 1 = 0 →
    Completes (.ownAnswer p i) s fun t =>
      t.dev.own = { d.own with accepting := d.own.accepting.filter (fun x => x != a),
                               ownedHere := (d.own.ownedHere.filter fun x => !(x.1 == m.src && x.2.1 == off)) ++ [(m.src, off, epoch)] } ∧
      t.dev.cmd = { d.cmd with runs := d.cmd.runs.map fun r => if r.seq == a.seq then { r with cpl := some (r.cpl.getD {}) } else r } ∧
      heard [.own, .cmd] noReg t)

/-- The timers of ownership: a former owner that does not release is passed over and counted, an offered region that is not accepted comes home
reclaimed, and an ACCEPT without an answer ends TIMEOUT. -/
def Clause.OwnershipTimers : Prop := ∀ s : State,
  let d := s.dev
  (∀ (region : Fin 196608) (x : Xfer) (due : Nat), d.own.xfers.find? (fun x => x.region == region.val && x.acceptDue.isSome) = some x →
    x.region = region → x.acceptDue = some due → d.quiet → Completes (.ownReclaimTimer region) s fun t =>
      let o := d.ownRec region
      t.dev.now = max d.now due ∧
      t.dev.ownRec region = { o with st := 0, owner := 0, pend := 0, epoch := epochNext o.epoch, reclaimed := true } ∧
      (∀ r, r ≠ region.val → t.dev.ownRec r = d.ownRec r) ∧ t.dev.own.xfers = d.own.xfers.filter (fun y => y != x) ∧
      t.dev.cmd = { d.cmd with runs := d.cmd.runs.map fun r => if r.seq == x.seq then
        { r with cpl := some (r.cpl.getD { status := Sc.reclaimed, detail := 0x60, result := epochNext o.epoch }) } else r } ∧
      Counts A.HOM_RECLAIM_CNT 1 d t.dev) ∧
  (∀ (region : Fin 196608) (x : Xfer) (due : Nat), d.own.xfers.find? (fun x => x.region == region.val && x.releaseDue.isSome) = some x →
    x.region = region → x.releaseDue = some due → (d.ownRec region).st = 2 → d.hasRoom 0x0403 (region % 8) →
    Completes (.ownReleaseTimeout region) s fun t =>
      let o := d.ownRec region
      t.dev.now = max d.now due ∧ Counts A.HOM_NOREL_CNT 1 d t.dev ∧
      t.dev.evq.held = d.evq.held ++ [heldOf 0x0403 (region % 8) o.owner none 0 0 (region.val <<< 21) t.dev.now] ∧
      (x.newOwner ≠ d.node → (t.dev.ownRec region).st = 1 ∧ (t.dev.ownRec region).pend = x.newOwner) ∧
      (x.newOwner = d.node → (t.dev.ownRec region).st = 0) ∧
      (t.dev.ownRec region).epoch = epochNext o.epoch) ∧
  ∀ (node : Fin 16384) (region : Nat) (a : Accepting), d.own.accepting.find? (fun a => a.node == node.val && a.off >>> 21 == region) = some a →
    Completes (.ownAcceptTimeout node region) s fun t =>
      t.dev.now = max d.now a.due ∧ t.dev.own = { d.own with accepting := d.own.accepting.filter fun x => x != a } ∧
      t.dev.cmd = { d.cmd with runs := d.cmd.runs.map fun r => if r.seq == a.seq then
        { r with cpl := some (r.cpl.getD { status := Sc.timeout, detail := 0x60 }) } else r } ∧
      Changes [.now, .own, .cmd] noReg d t.dev

/-- The ownership of regions: its messages and its timers. -/
def Obligations.OwnershipOfRegions : Prop :=
  Clause.OwnershipMessages ∧ Clause.OwnershipTimers

/-- LEASE_EXPIRY_SCAN outside P3 with no request waiting: the extents that are ASSIGNED and whose EXPIRY has passed are FENCED, their EXPIRY reads
zero, and each is counted; the other extents keep their state. In P3 nothing happens. -/
def Clause.LeaseExpiry : Prop := ∀ (s : State) (tick : Nat),
  let d := s.dev
  let now := max d.now tick
  let gone (e : Nat) : Bool := d.extState e == 1 && tickPassed (d.fld (A.LSE_EXPIRY e) F.LSE_EXPIRY_TICK) now
  (d.power ≠ 3 → d.quiet → Completes (.leaseExpiryScan tick) s fun t =>
    t.dev.now = now ∧ (∀ e < 384, t.dev.extState e = if gone e then 2 else d.extState e) ∧
    (∀ e < 384, t.dev.reg (A.LSE_EXPIRY e) = if gone e then 0 else d.reg (A.LSE_EXPIRY e)) ∧
    (∀ e < 384, t.dev.extDom e = d.extDom e ∧ t.dev.reg (A.LSE_EXT e) = d.reg (A.LSE_EXT e)) ∧
    Counts A.LSE_EXPIRE_CNT ((List.range 384).filter gone).length d t.dev ∧ ∀ a, t.dev.byte a = d.byte a) ∧
  (d.power = 3 → Completes (.leaseExpiryScan tick) s fun t => t = s)

/-! ## Tokens, quorum and expulsion -/

/-- Lease tokens: a GRANT to this device of an epoch not lower than its own becomes the current token, the half it names leads if it runs, and an
ACK goes back; an ACK is remembered; TOKEN_RENEW grants to every other device served; TOKEN_EXPIRE ends the token and LEADER falls back. -/
def Obligations.Tokens : Prop := ∀ s : State,
  let d := s.dev
  (∀ (p : Fin 12) (i : DIn), d.drsServed p i → i.m.type = 0x63 →
    let m := i.m
    let u := m.units.headD 0
    let half := bits u 8 1
    let epoch := le u 8 4
    let heard (parts : List Part) (regs : Nat → Prop) (t : State) : Prop := HeardDrs p i d t.dev ∧ Changes (.links :: parts) regs d t.dev
    (le u 0 1 = 1 → bits u 32 14 = d.node → d.fld A.TOP_TOKEN F.TOP_TOKEN_EPOCH ≤ epoch → d.halfUp (half == 1) = true →
      Completes (.tokenGrant p i) s fun t =>
        t.dev.fld A.TOP_TOKEN F.TOP_TOKEN_VALID = 1 ∧ t.dev.fld A.TOP_TOKEN F.TOP_TOKEN_HALF = half ∧
        t.dev.fld A.TOP_TOKEN F.TOP_TOKEN_ISSUER = bits u 16 14 ∧ t.dev.fld A.TOP_TOKEN F.TOP_TOKEN_EPOCH = epoch ∧
        t.dev.sys.res.tokenDue = some (d.now + le u 12 4) ∧ t.dev.fld A.TOP_HALF_STATUS F.TOP_HALF_STATUS_LEADER = half + 1 ∧
        (d.fld A.TOP_HALF_STATUS F.TOP_HALF_STATUS_LEADER = half + 1 →
          let ack : DMsg := { type := 0x63, len := 1, dst := m.src, src := d.node,
                              units := [tokenUnit 2 half (bits u 16 14) d.node epoch 0 t.dev.tokenState] }
          Sent ack d t.dev ∧ ((d.drsEgr ack).isSome = true → heard [.sys, .trf] (· ∈ [A.TOP_TOKEN, A.TOP_HALF_STATUS]) t))) ∧
    (le u 0 1 = 1 → bits u 32 14 ≠ d.node →
      let ack : DMsg := { type := 0x63, len := 1, dst := m.src, src := d.node,
                          units := [tokenUnit 2 (d.fld A.TOP_TOKEN F.TOP_TOKEN_HALF) (bits u 16 14) d.node (d.fld A.TOP_TOKEN F.TOP_TOKEN_EPOCH) 0
                                      d.tokenState] }
      (d.drsEgr ack).isSome = true → Completes (.tokenGrant p i) s fun t => Sent ack d t.dev ∧ heard [.trf] noReg t) ∧
    (le u 0 1 = 2 → Completes (.tokenAck p i) s fun t =>
      t.dev.sys = { d.sys with res := { d.sys.res with served := d.sys.res.served.map fun x =>
        if x.node = m.src then { x with ack := some (bit (byteOf u 16) 0, bit (byteOf u 16) 1, epoch) } else x } } ∧
      heard [.sys] noReg t)) ∧
  (∀ tick : Nat, (∀ dir < 6, d.trunkOk dir = true) → Completes (.tokenRenew tick) s fun t =>
    t.dev.now = max d.now tick ∧ (∀ a, t.dev.byte a = d.byte a) ∧ (d.leadsSpan = false → Changes [.now, .sys, .trf] noReg d t.dev) ∧
    ∀ n ∈ d.tokenHolders, n ≠ d.node →
      let x := (d.sys.res.served.find? fun x => x.node == n).getD ⟨n, 1, 0, none⟩
      let g := nextGrant x
      let grant : DMsg := { type := 0x63, len := 1, dst := n, src := d.node, units := [tokenUnit 1 g.1 d.node n g.2 d.tokenTerm 0] }
      { x with half := g.1, epoch := g.2 } ∈ t.dev.sys.res.served ∧
      ∀ e, ({ d with now := max d.now tick } : Dev).drsEgr grant = some e → e ∈ t.dev.trf.classq) ∧
  ∀ due, d.sys.res.tokenDue = some due → Completes .tokenExpire s fun t =>
    t.dev.now = max d.now due ∧ t.dev.fld A.TOP_TOKEN F.TOP_TOKEN_VALID = 0 ∧ t.dev.sys.res.tokenDue = none ∧
    t.dev.fld A.TOP_HALF_STATUS F.TOP_HALF_STATUS_LEADER = (if d.halfUp true then 2 else if d.halfUp false then 1 else 0)

/-- The timers of the quorum at a span manager: its BEAT, a claim of the next term while no leader is heard and three managers are live, the end
of a vote, and the end of an EXPEL_VOTE that no leader answers. -/
def Clause.QuorumTimers : Prop := ∀ s : State,
  let d := s.dev
  let msg (u : Line) (n : Nat) : DMsg := { type := 0x64, len := 1, dst := n, src := d.node, units := [u] }
  (∀ tick,
    let d' := { d with now := max d.now tick }
    let u := putLe (putLe (d.quorumUnit 1) 8 1 d'.liveMask) 9 1 d.leaderIdx
    d.isSpanMgr = true → (d.leadsSpan = false ∨ 3 ≤ liveCount d'.liveMask) → (∀ dir < 6, d.trunkOk dir = true) →
    Completes (.beatTimer tick) s fun t =>
      t.dev.now = max d.now tick ∧ t.dev.fld A.TOP_QUORUM_STATUS F.TOP_QUORUM_STATUS_LIVE = d'.liveMask ∧ Tells d.otherManagers (msg u) d' t.dev ∧
      Changes [.now, .trf] (· = A.TOP_QUORUM_STATUS) d t.dev) ∧
  (d.isSpanMgr = true → d.leaderIdx ≠ d.ownIdx →
    let wait := d.deadTime + d.ownIdx * d.beat
    let d' := { d with now := max d.now (match d.sys.res.leadBeat with | some b => b + wait + 1 | none => wait) }
    let term := (d.sys.res.maxTerm + 1) % 2 ^ 32
    let u := putLe (d.quorumUnit 2) 4 4 term
    3 ≤ liveCount d'.liveMask → (∀ dir < 6, d.trunkOk dir = true) → Completes .leadTimeout s fun t =>
      t.dev.now = d'.now ∧ t.dev.fld A.TOP_QUORUM_STATUS F.TOP_QUORUM_STATUS_TERM = term ∧
      t.dev.sys = { d.sys with res := { d.sys.res with voted := term, maxTerm := max d.sys.res.maxTerm term, grants := 0 } } ∧
      Tells d.otherManagers (msg u) d' t.dev ∧ Changes [.now, .sys, .trf] (· = A.TOP_QUORUM_STATUS) d t.dev) ∧
  (∀ j : Fin 5, d.fld (A.TOP_VOTE j) F.TOP_VOTE_VALID = 1 → Completes (.voteLapse j) s fun t =>
    t.dev.now = max d.now (tget 0 d.sys.res.votedAt j + d.fld A.TOP_QUORUM_CFG F.TOP_QUORUM_CFG_VOTE_TTL) ∧ t.dev.reg (A.TOP_VOTE j) = 0 ∧
    Changes [.now, .sys] (· = A.TOP_VOTE j) d t.dev) ∧
  ∀ r, (d.cmd.runs.find? fun r => r.goes Op.expelVote && decide (r.phase = 1)) = some r → d.only r → Completes .voteTimeout s fun t =>
    t.dev.now = max d.now (r.aux.getD 1 0) ∧ Completed r { status := Sc.timeout, detail := 0xE0 } t.dev ∧ Changes [.now, .cmd] noReg d t.dev

/-- The QUORUM messages at a span manager, and those about an expelled, shadowing or admitted node at any device. -/
def Clause.QuorumMessages : Prop := ∀ (s : State) (p : Fin 12) (i : DIn),
  let m := i.m
  let d := s.dev
  let u := m.units.headD 0
  let j := le u 1 1
  let term := le u 4 4
  let target := bits u 128 14
  let elsewhere (t : State) : Prop := ∀ n < 16384, n ≠ target → t.dev.expelled n = d.expelled n ∧ t.dev.shadowed n = d.shadowed n
  let heard (parts : List Part) (regs : Nat → Prop) (t : State) : Prop := HeardDrs p i d t.dev ∧ Changes (.links :: parts) regs d t.dev
  d.drsServed p i → m.type = 0x64 →
  (d.isSpanMgr = true → j < 5 →
    (le u 0 1 = 1 → le u 9 1 = j → d.fld A.TOP_QUORUM_STATUS F.TOP_QUORUM_STATUS_TERM ≤ term → Completes (.beat p i) s fun t =>
      t.dev.fld A.TOP_QUORUM_STATUS F.TOP_QUORUM_STATUS_TERM = term ∧ t.dev.leaderIdx = j ∧
      t.dev.fld A.TOP_ROLE F.TOP_ROLE_LEAD_SPAN_MGR = b2n (j == d.ownIdx) ∧ t.dev.sys.res.leadBeat = some d.now ∧
      t.dev.sys.res.heard = (d.remembers u).heard ∧ t.dev.sys.res.maxTerm = (d.remembers u).maxTerm ∧
      heard [.sys] (· ∈ [A.TOP_QUORUM_STATUS, A.TOP_ROLE]) t) ∧
    (le u 0 1 = 2 → d.sys.res.voted < term → d.sys.res.maxTerm < term → d.leaderSilent d.deadTime = true → d.votesFor m.src < 3 →
      let grant : DMsg := { type := 0x64, len := 1, dst := m.src, src := d.node, units := [putLe (d.quorumUnit 3) 4 4 term] }
      (d.drsEgr grant).isSome = true → Completes (.claim p i) s fun t =>
        t.dev.sys = { d.sys with res := { d.remembers u with voted := term } } ∧ Sent grant d t.dev ∧ heard [.sys, .trf] noReg t) ∧
    (le u 0 1 = 3 → term = d.fld A.TOP_QUORUM_STATUS F.TOP_QUORUM_STATUS_TERM →
      (d.sys.res.grants ≠ 1 → Completes (.quorumGrant p i) s fun t =>
        t.dev.sys = { d.sys with res := { d.remembers u with grants := d.sys.res.grants + 1 } } ∧ heard [.sys] noReg t) ∧
      (d.sys.res.grants = 1 → d.ownIdx < 5 → Completes (.quorumGrant p i) s fun t =>
        t.dev.leaderIdx = d.ownIdx ∧ t.dev.leadsSpan = true ∧ t.dev.sys.res.grants = 2)) ∧
    (le u 0 1 = 4 → d.leadsSpan = false → le u 24 1 < 128 → Completes (.vote p i) s fun t =>
      t.dev.fld (A.TOP_VOTE j) F.TOP_VOTE_VALID = 1 ∧ t.dev.fld (A.TOP_VOTE j) F.TOP_VOTE_TARGET = target ∧
      t.dev.sys = { d.sys with res := { d.remembers u with votedAt := tset 0 d.sys.res.votedAt j d.now } } ∧
      heard [.sys] (· = A.TOP_VOTE j) t) ∧
    (∀ r, le u 0 1 = 9 → (d.cmd.runs.find? fun r => r.goes Op.expelVote && decide (r.phase = 1)) = some r → d.only r → j = d.leaderIdx →
      d.votesFor (r.aux.headD 0) < 3 → Completes (.quorumAck p i) s fun t =>
        Completed r { b := 0, result := d.votesFor (r.aux.headD 0) } t.dev ∧ t.dev.sys = { d.sys with res := d.remembers u } ∧
        heard [.sys, .cmd] noReg t)) ∧
  (le u 0 1 = 5 → d.expelled target = false → Completes (.expel p i) s fun t =>
    t.dev.expelled target = true ∧ t.dev.shadowed target = d.shadowed target ∧ elsewhere t ∧
    (target = d.node → t.dev.resState = 1) ∧ (target ≠ d.node → t.dev.resState = d.resState)) ∧
  (le u 0 1 = 6 → d.shadowed target = false →
    (target ≠ d.node → Completes (.shadow p i) s fun t =>
      t.dev.shadowed target = true ∧ t.dev.expelled target = false ∧ elsewhere t ∧ t.dev.resState = d.resState) ∧
    (target = d.node → Completes (.shadow p i) s fun t =>
      t.dev.shadowed target = true ∧ t.dev.expelled target = false ∧ t.dev.resState = 2 ∧
      t.dev.fld A.TOP_RES_STATUS F.TOP_RES_STATUS_PRIMARY = bits u 144 14 ∧ t.dev.sys.res.runLen = le u 20 4)) ∧
  (le u 0 1 = 7 → d.leadsSpan = true → d.shadowed target = true → Completes (.clean p i) s fun t =>
    t.dev.shadowed target = false ∧ t.dev.expelled target = d.expelled target ∧ elsewhere t) ∧
  (le u 0 1 = 8 → d.shadowed target = true → Completes (.admitMember p i) s fun t =>
    t.dev.shadowed target = false ∧ t.dev.expelled target = d.expelled target ∧ elsewhere t ∧
    (target = d.node → t.dev.resState = 0) ∧
    (target ≠ d.node → d.isGroupMgr = false → heard [.sys] (· = A.TOP_SHADOW_MAP (target / 64)) t))

/-- The quorum: its messages and its timers. -/
def Obligations.Quorum : Prop :=
  Clause.QuorumTimers ∧ Clause.QuorumMessages

/-! ## Commands of other devices and attestation -/

/-- A command that arrives over the management class enters the internal management queue and is acknowledged; an acknowledgement starts the wait
for the completion, a completion is kept for its member, one that nobody waits for is counted, and a member that does not answer in time fails
with TIMEOUT. -/
def Clause.UnitScopeMessages : Prop := ∀ s : State,
  let d := s.dev
  let settled := ∀ f ∈ d.cmd.fans, f.seq ≠ askStatus
  let set (seq node : Nat) (g : Member → Member) (t : State) : Prop :=
    t.dev.cmd = { d.cmd with fans := d.cmd.fans.map fun x => if x.seq = seq then
      { x with members := x.members.map fun y => if y.node = node ∧ y.cpl.isNone = true then g y else y } else x }
  (∀ (p : Fin 12) (i : DIn), d.drsServed p i →
    let m := i.m
    let ack : DMsg := { type := 0x67, dst := m.src, src := d.node, tag := m.tag }
    let seq := d.fld A.CMD_SEQ F.CMD_SEQ_SEQ
    let heard (t : State) : Prop := HeardDrs p i d t.dev
    (m.type = 0x60 → d.awake → (d.drsEgr ack).isSome = true → Completes (.unitCmd p i) s fun t =>
      t.dev.cmd = { d.cmd with acc := d.cmd.acc ++ [⟨.unit, seq, m.units.headD 0, 0⟩], senders := d.cmd.senders ++ [(seq, m.src, m.tag)] } ∧
      t.dev.fld A.CMD_SEQ F.CMD_SEQ_SEQ = (seq + 1) % 2 ^ 32 ∧ Sent ack d t.dev ∧ heard t ∧ Changes [.cmd, .trf, .links] (· = A.CMD_SEQ) d t.dev) ∧
    (∀ f, m.type = 0x67 → d.fanOf m.src m.tag = some f → Completes (.unitAck p i) s fun t =>
      set f.seq m.src (fun x => if x.acked then x else { x with acked := true, due := d.now + d.unitDoneWait x.mgr }) t ∧
      heard t ∧ Changes [.cmd, .links] noReg d t.dev) ∧
    (∀ f, m.type = 0x61 → settled → d.fanOf m.src m.tag = some f →
      let u := m.units.headD 0
      Completes (.unitCpl p i) s fun t =>
        set f.seq m.src (fun x => { x with cpl := some { status := le u 2 1, detail := le u 3 1, a := le u 4 4, b := le u 8 4, result := le u 24 8, raw := (lineBytes u).take 32 } }) t ∧
        heard t ∧ Changes [.cmd, .links] noReg d t.dev) ∧
    (m.type = 0x61 → settled → d.fanOf m.src m.tag = none → Completes (.unitCpl p i) s fun t =>
      Counts A.TOP_UNIT_LATE_CNT 1 d t.dev ∧ heard t ∧ Changes [.links] (· = A.TOP_UNIT_LATE_CNT) d t.dev)) ∧
  ∀ (node : Fin 16384) (acked : Bool) (f : Fan) (x : Member), settled →
    (d.cmd.fans.find? fun f => f.members.any fun m => m.node == node.val && m.cpl.isNone && m.acked == acked) = some f →
    (f.members.find? fun m => m.node == node.val && m.cpl.isNone && m.acked == acked) = some x →
    Completes (if acked then .unitCplTimeout node else .unitAckTimeout node) s fun t =>
      t.dev.now = max d.now x.due ∧ set f.seq node (fun y => { y with cpl := some { status := Sc.timeout } }) t ∧
      Changes [.now, .cmd] noReg d t.dev

/-- Attestation between devices: a request to a device whose firmware runs is answered with its report, an answer completes the ATTEST that waits
for it, and one that gets no answer ends TIMEOUT. -/
def Clause.RemoteAttestation : Prop := ∀ s : State,
  let d := s.dev
  (∀ (p : Fin 12) (i : DIn), d.drsServed p i → i.m.type = 0x65 →
    let m := i.m
    let u := m.units.headD 0
    let heard (t : State) : Prop := HeardDrs p i d t.dev
    let ans : DMsg := { type := 0x65, len := 5, dst := m.src, src := d.node, tag := m.tag, units := d.attestAns u }
    (le u 0 1 = 1 → d.canStart = true → (d.drsEgr ans).isSome = true → Completes (.attestRequest p i) s fun t =>
      Sent ans d t.dev ∧ heard t ∧ Changes [.trf, .links] noReg d t.dev) ∧
    (le u 0 1 = 1 → d.canStart = false → Completes (.attestRequest p i) s fun t => heard t ∧ Changes [.links] noReg d t.dev) ∧
    (∀ a r, le u 0 1 = 2 → (d.sys.boot.asks.find? fun a => a.2.1 == le u 4 2 && d.node == bits u 16 14) = some a →
      d.runSeq a.1 = some r → r.cpl = none → Completes (.attestAnswer p i) s fun t =>
        t.dev.sys = { d.sys with boot := { d.sys.boot with asks := d.sys.boot.asks.erase a } } ∧
        ∃ c, Completed r c t.dev ∧ c.a = 0 ∧ c.b = leAt ((m.units.drop 1).flatMap lineBytes) 6 1 % 64) ∧
    (le u 0 1 = 2 → d.sys.boot.asks = [] → Completes (.attestAnswer p i) s fun t => heard t ∧ Changes [.links] noReg d t.dev)) ∧
  ∀ a rest r, d.sys.boot.asks = a :: rest → d.runSeq a.1 = some r → r.cpl = none → Completes .attestTimeout s fun t =>
    t.dev.now = max d.now a.2.2 ∧ t.dev.sys = { d.sys with boot := { d.sys.boot with asks := rest } } ∧
    Completed r { status := Sc.timeout, detail := 0xF0 } t.dev ∧ Changes [.now, .sys, .cmd] noReg d t.dev

/-- Commands that other devices carry out, and attestation by another node. -/
def Obligations.RemoteCommands : Prop :=
  Clause.UnitScopeMessages ∧ Clause.RemoteAttestation

/-! ## From doorbell to completion record -/

/-- COMMAND_ACCEPT takes the next packet of the oldest doorbell: it gets the next number, waits as accepted, and CONS moves on; a packet that may
not be read halts its queue with ERR 4. -/
def Clause.PacketAcceptance : Prop := ∀ (s : State) (b : Bell),
  let d := s.dev
  let off := d.ringSlot b.q b.next
  let dom := d.qcfg b.q F.CMD_Q_CFG_DOMAIN
  let seq := d.fld A.CMD_SEQ F.CMD_SEQ_SEQ
  let next := (b.next + 1) % 65536
  b.q < 512 → (d.cmd.bells.find? fun b => !(d.queueBarred b.q)) = some b →
  (d.refusal off (some dom) none = none → d.lineFree (off / 64) → d.home.ue = [] → Completes .commandAccept s fun t =>
    t.dev.cmd = { d.cmd with
      bells := (if next = b.last then d.cmd.bells.erase b else d.cmd.bells.map fun x => if x == b then { b with next := next } else x)
      acc := d.cmd.acc ++ [⟨.q b.q, seq, d.line (off / 64), d.traceKinds b.q seq⟩] } ∧
    t.dev.fld A.CMD_SEQ F.CMD_SEQ_SEQ = (seq + 1) % 2 ^ 32 ∧ t.dev.qptr b.q F.CMD_Q_PTR_CONS = next ∧
    (∀ f ∈ [F.CMD_Q_PTR_PROD, F.CMD_Q_PTR_CQ_HEAD, F.CMD_Q_PTR_CQ_TAIL], t.dev.qptr b.q f = d.qptr b.q f) ∧ ∀ a, t.dev.byte a = d.byte a) ∧
  (d.refusal off (some dom) none ≠ none → Completes .commandAccept s fun t =>
    t.dev.qstate b.q = Qs.halted ∧ t.dev.fld (A.CMD_Q_STATE b.q) F.CMD_Q_STATE_ERR = 4 ∧ (∀ x ∈ t.dev.cmd.bells, x.q ≠ b.q) ∧
    t.dev.cmd.acc = d.cmd.acc)

/-- COMMAND_START of a queue with its oldest command ready and its executor free: the command runs, with the completion of the first check that
it fails if it fails one; TILE_WAKE_DONE ungates a tile that waits for a command. -/
def Clause.CommandStarts : Prop := ∀ s : State,
  let d := s.dev
  (∀ (q : Fin 512) (a : Acc),
    let run : Run := { iss := .q q, seq := a.seq, pkt := d.execPkt (.q q) a.pkt, tick := d.now, trace := a.trace }
    let acc := d.cmd.acc.filter fun x => x.seq != a.seq || x.iss != a.iss
    let engine := d.isEngine (.q q) = true ∧ d.tilesDown q = false ∧ d.tilesFree a = true ∧ d.gatedOf q = []
    let mgmt := d.isEngine (.q q) = false ∧ d.coreServes = true ∧ d.nextMgmt = some a ∧ d.mgmtRuns < 8
    let high := d.mgmtPrio (.q q) = 1
    let rr := if d.isEngine (.q q) ∨ high then d.cmd.rr else q.val + 1
    let rrHi := if ¬ d.isEngine (.q q) ∧ high then q.val + 1 else d.cmd.rrHi
    d.runOf (.q q) = none → d.head (.q q) = some a → d.headReady a = true → d.canStart = true → engine ∨ mgmt → (∀ x ∈ d.cmd.runs, x.seq ≠ a.seq) →
    (d.packetRefusal a.pkt run = none → run.ptr = 0 → run.scope = 0 → d.domainRefusal run = none → Completes (.commandStart (.q q)) s fun t =>
      t.dev.cmd = { d.cmd with acc := acc, runs := d.cmd.runs ++ [run], rr := rr, rrHi := rrHi } ∧ (∀ a, t.dev.byte a = d.byte a)) ∧
    (∀ st dt, d.packetRefusal a.pkt run = some (st, dt) → Completes (.commandStart (.q q)) s fun t =>
      t.dev.cmd = { d.cmd with acc := acc, runs := d.cmd.runs ++ [{ run with cpl := some { status := st, detail := dt } }], rr := rr, rrHi := rrHi } ∧
      (∀ a, t.dev.byte a = d.byte a))) ∧
  ∀ tile : Fin 64,
    (d.cmd.waking.contains tile.val = true → Completes (.tileWakeDone tile) s fun t =>
      t.dev.cmd = { d.cmd with waking := d.cmd.waking.filter (· != tile.val) } ∧
      t.dev.reg A.PWR_TILE_GATED = d.reg A.PWR_TILE_GATED &&& ~~~(BitVec.ofNat 64 (2 ^ tile.val)) ∧ Changes [.cmd] (· = A.PWR_TILE_GATED) d t.dev) ∧
    (d.cmd.waking.contains tile.val = false → Completes (.tileWakeDone tile) s fun t => t = s)

/-- A packet from the doorbell to the start of its command. -/
def Obligations.CommandAcceptance : Prop :=
  Clause.PacketAcceptance ∧ Clause.CommandStarts

/-- COMPLETION_WRITE of a command whose completion is decided and whose writes are ordered: its record stands in the queue's next slot, CQ_TAIL
moves past it, the command is counted and gone. One with a write outstanding waits. A command of the mailbox shows its record in BOOT_MBOX_CPL. -/
def Obligations.CompletionRecords : Prop := ∀ (s : State) (r : Run) (c : Cpl),
  let d := s.dev
  let rec_ := recordBytes r.tag r.seq d.now c
  d.finalCpl r = some c → (∀ x ∈ d.cmd.runs, x.seq = r.seq → x = r) →
  (∀ q : Fin 512, d.runOf (.q q) = some r → r.kept = [] →
    let tail := d.qptr q F.CMD_Q_PTR_CQ_TAIL
    let off := d.cqSlot q tail
    (r.outs ≠ 0 → Completes (.completionWrite (.q q)) s fun t => t = s) ∧
    (r.outs = 0 → d.qstate q ≠ Qs.disabled → r.find cqKey = none → r.asked.contains cqKey = false → d.lineFree (off / 64) → d.dirOf (off / 64) = (0, 0) →
      d.refusal (64 * (off / 64)) (some (d.qcfg q F.CMD_Q_CFG_DOMAIN)) none = none → Completes (.completionWrite (.q q)) s fun t =>
        (∀ i < 32, t.dev.byte (off + i) = rec_.getD i 0) ∧ (∀ a, (a < off ∨ off + 32 ≤ a) → t.dev.byte a = d.byte a) ∧
        t.dev.qptr q F.CMD_Q_PTR_CQ_TAIL = (tail + 1) % 65536 ∧
        (∀ f ∈ [F.CMD_Q_PTR_PROD, F.CMD_Q_PTR_CONS, F.CMD_Q_PTR_CQ_HEAD], t.dev.qptr q f = d.qptr q f) ∧
        t.dev.fld (A.CMD_Q_DONE_CNT q) ⟨0, 48⟩ = min (d.fld (A.CMD_Q_DONE_CNT q) ⟨0, 48⟩ + 1) (2 ^ 48 - 1) ∧
        t.dev.cmd.runs = d.cmd.runs.filter (fun x => x.seq != r.seq))) ∧
  (d.runOf .mbox = some r → r.iss = .mbox → r.outs = 0 → Completes (.completionWrite .mbox) s fun t =>
    (∀ w < 4, t.dev.reg (A.BOOT_MBOX_CPL w) = BitVec.ofNat 64 (leAt rec_ (8 * w) 8)) ∧
    t.dev.fld A.BOOT_MBOX_STATUS F.BOOT_MBOX_STATUS_BUSY = 0 ∧ t.dev.fld A.BOOT_MBOX_STATUS F.BOOT_MBOX_STATUS_DONE = 1 ∧
    t.dev.cmd.runs = d.cmd.runs.filter (fun x => x.seq != r.seq) ∧ ∀ a, t.dev.byte a = d.byte a)

/-! ## Commands on registers and on the staged set -/

/-- NOP completes and does nothing else. CSR_READ returns what the register shows. CSR_WRITE returns that value and stores the bits of its mask.
A refused access has no effect but its completion. -/
def Obligations.RegisterCommands : Prop := ∀ (s : State) (r : Run),
  let d := s.dev
  let a := r.par 0 8
  let v := BitVec.ofNat 64 (r.par 8 8)
  let m := BitVec.ofNat 64 (r.par 16 8)
  let ends (c : Cpl) (t : State) : Prop := Concludes r c d t.dev ∧ Changes [.cmd] noReg d t.dev
  (∀ n : Fin 512, d.carries (.q n) Op.nop r → r.isCx6 = true → Completes (.cx6Nop n) s (ends {})) ∧
  (∀ pkt, le pkt 0 2 = Op.nop → bit pkt 23 = false → d.runOf .fw = none → (∀ x ∈ d.cmd.runs, x.seq ≠ fwSeq) → Completes (.nop (.fw pkt)) s fun t =>
    t.dev.cmd = { d.cmd with fwCpl := some {} } ∧ Changes [.cmd, .home, .sys] noReg d t.dev) ∧
  ∀ q : Req,
    (d.carries q Op.nop r → r.isCx6 = false → Completes (.nop q) s (ends {})) ∧
    (d.carries q Op.csrRead r → d.mboxBarred r a = false →
      (plainRead a → Completes (.csrRead q) s (ends (okCpl 0 0 (d.shows a).toNat))) ∧
      ∀ st dt, addrRefusal a = some (st, dt) → Completes (.csrRead q) s (ends (fail st dt))) ∧
    (d.carries q Op.csrWrite r → d.mboxBarred r a = false → r.isStaged = false →
      (d.writeRefusal a m = none → d.inDownHalf a = false → plainWrite a → plainRead a → Completes (.csrWrite q) s fun t =>
        Concludes r (okCpl 0 0 (d.view a).toNat) d t.dev ∧ t.dev.reg a = written a (d.reg a) v m ∧ Changes [.cmd] (· = a) d t.dev) ∧
      ∀ st dt, d.writeRefusal a m = some (st, dt) → Completes (.csrWrite q) s (ends (fail st dt)))

/-- STAGE merges its entries into an EMPTY set or the issuer's own, which is then OPEN. CHECK of a sound set makes it CHECKED, or LOCKED for the
unit-scope path; one that breaks a rule stays OPEN. COMMIT of a CHECKED set freezes it until an edge two cycles later. ABANDON empties it. -/
def Clause.StagedSetCommands : Prop := ∀ (s : State) (q : Req) (r : Run),
  let d := s.dev
  let id := r.par 0 4
  let entries := mergeEntries d.staged.entries (stageEntries r)
  let st := A.CMD_STAGE_STATUS
  d.committing = false →
  (d.carries q Op.stage r → 1 ≤ r.par 4 2 → r.par 4 2 ≤ 64 → (r.par 4 2 = 1 ∨ r.ptr ≠ 0) → (d.gate r id = .empty ∨ d.gate r id = .own) →
    (stageEntries r).findSome? entryRefusal = none → entries.length ≤ 256 → Completes (.stage q) s fun t =>
      t.dev.staged = { d.staged with entries := entries, touch := d.now } ∧ t.dev.setState = setOpen ∧ t.dev.setOwner = r.owner ∧
      t.dev.setId = id ∧ t.dev.fld st F.CMD_STAGE_STATUS_ENTRIES = entries.length ∧ Concludes r (okCpl entries.length 0 0) d t.dev ∧
      Changes [.staged, .cmd] (· = st) d t.dev) ∧
  (d.carries q Op.check r → d.gate r id = .own →
    (d.setFault = none → d.checksSpan r = false → Completes (.check q) s fun t =>
      t.dev.staged = { d.staged with touch := d.now, rolePend := d.staged.rolePend || d.clearsRole } ∧
      t.dev.setState = (if r.owner = unitOwner then setLocked else setChecked) ∧ t.dev.setOwner = d.setOwner ∧ t.dev.setId = id ∧
      Concludes r {} d t.dev ∧ Changes [.staged, .cmd] (· = st) d t.dev) ∧
    ∀ b, d.setFault = some b → Completes (.check q) s fun t =>
      t.dev.staged = { d.staged with touch := d.now } ∧ t.dev.setState = setOpen ∧ t.dev.setOwner = d.setOwner ∧ t.dev.setId = id ∧
      Concludes r { status := Sc.checkFailed, detail := b.1, result := b.2 } d t.dev ∧ Changes [.staged, .cmd] (· = st) d t.dev) ∧
  (d.carries q Op.commit r → d.gate r id = .own →
    (d.setState = setChecked → d.commitWaits r = false → Completes (.commit q) s fun t =>
      t.dev.staged = { d.staged with edge := some (d.now + 2), edgeSeq := r.seq, edgeDone := false } ∧ Changes [.staged] noReg d t.dev) ∧
    (d.setState = setOpen → Completes (.commit q) s fun t =>
      Concludes r (fail Sc.checkFailed 0x16) d t.dev ∧ Changes [.cmd] noReg d t.dev)) ∧
  (d.carries q Op.abandon r →
    (d.gate r id = .own → Completes (.abandon q) s fun t =>
      t.dev.staged = {} ∧ t.dev.reg st = 0 ∧ Concludes r (okCpl d.staged.entries.length 0 0) d t.dev ∧ Changes [.staged, .cmd] (· = st) d t.dev) ∧
    ∀ c dt, d.gate r id = .refused c dt → Completes (.abandon q) s fun t => Concludes r (fail c dt) d t.dev ∧ Changes [.cmd] noReg d t.dev)

/-- COMMIT_EDGE loads the bits of an entry into its register at the tick of the edge, where the commands that have started keep the former ones, and
takes the set into CFG_DIGEST. COMMIT_DONE empties the
set 5 cycles later, records its SET_ID and the tick, and completes the COMMIT. STAGE_EXPIRE discards an OPEN or CHECKED set left alone for 10 s,
counts and reports it; a LOCKED set stays (R87). -/
def Clause.StagedSetTimes : Prop := ∀ s : State,
  let d := s.dev
  (∀ (tick a : Nat) (v m : Word), d.staged.edge = some tick → d.staged.edgeDone = false → d.staged.entries = [(a, v, m)] → assigned a = true → plainWrite a →
    regBase a ∉ [A.DOM_CFG 0, A.DOM_IDENT 0 0, A.STN_WIN 0, A.HOM_PUB_CFG 0, A.GWY_CFG] → d.inDownHalf a = false → Completes .commitEdge s fun t =>
      t.dev.now = max d.now tick ∧ t.dev.staged = { d.staged with edgeDone := true } ∧ t.dev.reg a = written a (d.reg a) v m ∧
      t.dev.cmd = { d.cmd with runs := d.cmd.runs.map fun r => { r with kept := keepBits d.reg r.kept (a, v, m) } } ∧
      Changes [.now, .staged, .cmd] (fun x => x = a ∨ ∃ w < 6, x = A.BOOT_CFG_DIGEST w) d t.dev) ∧
  (∀ (tick : Nat) (r : Run), d.staged.edge = some tick → d.staged.edgeDone = true → tick < 2 ^ 64 → d.only r → r.seq = d.staged.edgeSeq → r.cpl = none →
    d.runOf .fw = none → Completes .commitDone s fun t =>
      t.dev.now = max d.now (tick + 5) ∧ t.dev.staged = {} ∧ t.dev.reg A.CMD_STAGE_STATUS = 0 ∧
      t.dev.fld A.CMD_STAGE_LAST F.CMD_STAGE_LAST_LAST_SET_ID = d.setId ∧ (t.dev.reg A.CMD_COMMIT_TICK).toNat = tick ∧
      Concludes r (okCpl 0 0 tick) d t.dev ∧
      Changes [.now, .staged, .cmd] (· ∈ [A.CMD_STAGE_STATUS, A.CMD_STAGE_LAST, A.CMD_COMMIT_TICK]) d t.dev) ∧
  (d.setState = setOpen ∨ d.setState = setChecked → d.committing = false → Completes .stageExpire s fun t =>
    t.dev.now = max d.now (d.staged.touch + 500000000) ∧ t.dev.staged = {} ∧ t.dev.reg A.CMD_STAGE_STATUS = 0 ∧
    Counts A.CMD_STAGE_EXPIRE_CNT 1 d t.dev ∧
    (d.hasRoom 0x0102 0 → t.dev.evq.held = d.evq.held ++ [heldOf 0x0102 0 d.setOwner none 0 0 d.setId t.dev.now] ∧
      t.dev.reg (A.EVQ_X_DROP_CNT 0) = d.reg (A.EVQ_X_DROP_CNT 0)) ∧
    Changes [.now, .staged, .evq] (· ∈ [A.CMD_STAGE_STATUS, A.CMD_STAGE_EXPIRE_CNT, A.EVQ_X_DROP_CNT 0]) d t.dev) ∧
  (d.setState = setLocked → Completes .stageExpire s fun t => t = s)

/-- The staged set: its commands, and its commit. -/
def Obligations.StagedSet : Prop :=
  Clause.StagedSetCommands ∧ Clause.StagedSetTimes

/-! ## Domains and sanitisation -/

/-- DOMAIN_CREATE makes the domain ACTIVE with its quotas, the next GEN and IDENT. DOMAIN_DESTROY makes it DESTROYING at step 2. KEY_LOAD of a key
that unwraps puts it into every Rind engine. SANITISE waits for Gesso. A refused command has no effect but its completion. -/
def Obligations.DomainCommands : Prop := ∀ (s : State) (q : Req) (r : Run),
  let d := s.dev
  let n := r.dom
  let ends (c : Cpl) (t : State) : Prop := Concludes r c d t.dev ∧ Changes [.cmd] noReg d t.dev
  (d.carries q Op.domainCreate r →
    (r.isStaged = false → d.createRefusal n (r.par 32 2) (r.par 34 1) false = none → Completes (.domainCreate q) s fun t =>
      t.dev.domState n = 1 ∧ t.dev.fld (A.DOM_CFG n) F.DOM_CFG_GEN = d.nextGen n ∧
      t.dev.fld (A.DOM_CFG n) F.DOM_CFG_SLOT_QUOTA = r.par 32 2 ∧ t.dev.fld (A.DOM_CFG n) F.DOM_CFG_WIN_QUOTA = r.par 34 1 ∧
      (∀ w < 4, (t.dev.reg (A.DOM_IDENT n w)).toNat = r.par (8 * w) 8) ∧ t.dev.reg (A.DOM_BW n) = 0 ∧
      Concludes r (okCpl 0 0 (d.nextGen n)) d t.dev ∧
      Changes [.cmd] (fun a => a = A.DOM_CFG n ∨ a = A.DOM_BW n ∨ ∃ w < 4, a = A.DOM_IDENT n w) d t.dev) ∧
    ∀ st dt, d.createRefusal n (r.par 32 2) (r.par 34 1) r.isStaged = some (st, dt) → Completes (.domainCreate q) s (ends (fail st dt))) ∧
  (d.carries q Op.domainDestroy r → (∀ x ∈ d.dom.teardowns, x.dom ≠ n ∧ x.seq ≠ some r.seq) →
    (r.isStaged = false → d.destroyRefusal n false = none → d.domStalled n = false →
      (∀ j ∈ d.dom.jobs, j.dom ≠ n ∨ j.taken = true ∨ j.teardown.isSome = true) → Completes (.domainDestroy q) s fun t =>
        t.dev.domState n = 2 ∧ t.dev.domStep n = 2 ∧ t.dev.domStalled n = false ∧
        t.dev.dom = { d.dom with teardowns := d.dom.teardowns ++ [⟨n, some r.seq, 0, 0, false⟩] } ∧ Changes [.dom] (· = A.DOM_CFG n) d t.dev) ∧
    ∀ st dt, d.destroyRefusal n r.isStaged = some (st, dt) → Completes (.domainDestroy q) s (ends (fail st dt))) ∧
  (d.carries q Op.keyLoad r → Completes (.keyLoad q) s fun t =>
    (∀ k ∈ (d.keyLoadCheck n r.params).getRight?,
      t.dev.store = { d.store with keys := (d.store.keys.filter fun k => k.1 != n) ++ [(n, k)] } ∧
      (∀ k < 8, bit (t.dev.reg (A.RIND_STATUS k)) n = true) ∧ t.dev.fld (A.DOM_CFG n) F.DOM_CFG_KEYED = 1 ∧
      t.dev.fld (A.DOM_BW n) F.DOM_BW_KEY_ID = r.par 0 4 ∧ Concludes r {} d t.dev ∧
      Changes [.store, .cmd] (fun a => a = A.DOM_CFG n ∨ a = A.DOM_BW n ∨ ∃ k < 8, a = A.RIND_STATUS k) d t.dev) ∧
    ∀ e ∈ (d.keyLoadCheck n r.params).getLeft?, ends (fail e.1 e.2) t) ∧
  (d.carries q Op.sanitise r → (∀ j ∈ d.dom.jobs, j.seq ≠ r.seq) →
    let all := d.allDomains r.iss
    let first := r.par 0 2
    let count := r.par 2 2
    let dom := r.par 4 1 % 32
    let cls := r.par 5 1
    (d.sanitiseRefusal all n first count dom cls = none → Completes (.sanitise q) s fun t =>
      t.dev.dom = { d.dom with jobs := d.dom.jobs ++ [⟨r.seq, extsFrom first count, dom, cls, 0, none, false, all, n, first, count, 0⟩] } ∧
      Changes [.dom] noReg d t.dev) ∧
    ∀ st dt, d.sanitiseRefusal all n first count dom cls = some (st, dt) → Completes (.sanitise q) s (ends (fail st dt)))

/-- The steps of a teardown: with nothing running it goes on from step 2; at step 4 the extents of the domain are fenced; step 6 erases key and IDENT;
step 7 makes the domain FREE with its GEN kept and completes the DOMAIN_DESTROY. -/
def Clause.TeardownSteps : Prop := ∀ (s : State) (n : Fin 32) (x : Teardown),
  let d := s.dev
  let cfg := A.DOM_CFG n
  d.dom.teardowns.find? (fun y => y.dom == n.val) = some x →
  (d.domStep n = 2 → (∀ i < 512, d.qcfg i F.CMD_Q_CFG_DOMAIN ≠ n) → d.engineRuns n = [] → d.engineWaits n = [] → Completes (.destroyStep n) s fun t =>
    t.dev.domStep n = 3 ∧ Changes [.dom] (· = cfg) d t.dev) ∧
  (d.domStep n = 3 → (∀ c < 256, d.ctxBound c = false) → (∀ c < 256, d.fld (A.RTE_SLOT_CFG c) F.RTE_SLOT_CFG_STATE ≠ 1) →
    Completes (.destroyStep n) s fun t =>
      t.dev.domStep n = 4 ∧ (∀ w < 64, t.dev.reg (A.STN_WIN (64 * n + w)) = 0) ∧
      Changes [] (fun a => a = cfg ∨ ∃ w < 64, a = A.STN_WIN (64 * n + w)) d t.dev) ∧
  (d.domStep n = 4 → d.quiet → d.home.groups = [] → Completes (.destroyStep n) s fun t =>
    t.dev.domStep n = 5 ∧ ∀ e < 384, d.extDom e = n → d.extState e = Xs.assigned → t.dev.extState e = Xs.fenced ∧ t.dev.reg (A.LSE_EXPIRY e) = 0) ∧
  (d.domStep n = 5 → x.queued = false → (∃ e < 384, d.extDom e = n) →
    Completes (.destroyStep n) s fun t =>
      (∃ j, t.dev.dom.jobs = d.dom.jobs ++ [j] ∧ j.teardown = some n.val) ∧ Changes [.dom] noReg d t.dev) ∧
  (d.domStep n = 6 → Completes (.destroyStep n) s fun t =>
    t.dev.domStep n = 7 ∧ t.dev.store = { d.store with keys := d.store.keys.filter fun k => k.1 != n.val } ∧
    (∀ k < 8, bit (t.dev.reg (A.RIND_STATUS k)) n = false) ∧ t.dev.fld cfg F.DOM_CFG_KEYED = 0 ∧ t.dev.fld (A.DOM_BW n) F.DOM_BW_KEY_ID = 0 ∧
    (∀ w < 4, t.dev.reg (A.DOM_IDENT n w) = 0) ∧
    Changes [.store] (fun a => a = cfg ∨ a = A.DOM_BW n ∨ (∃ k < 8, a = A.RIND_STATUS k) ∨ ∃ w < 4, a = A.DOM_IDENT n w) d t.dev) ∧
  ∀ r, d.domStep n = 7 → x.dom = n → x.seq = some r.seq → d.only r → r.cpl = none → Completes (.destroyStep n) s fun t =>
    t.dev.domState n = 0 ∧ t.dev.fld cfg F.DOM_CFG_GEN = d.fld cfg F.DOM_CFG_GEN ∧
    t.dev.dom = { d.dom with teardowns := d.dom.teardowns.filter fun y => y.dom != n.val } ∧
    Concludes r { a := x.sanitised, b := x.aborted } d t.dev ∧ Changes [.dom, .cmd] (· = cfg) d t.dev

/-- Gesso takes the first sanitisation waiting when it works on none: its extents are SANITISING and the first one shows. With the last line of an
extent written, every byte of the extent reads zero and no other byte changes, its tag has the target, its lease record is clear; after the last
extent the SANITISE completes. -/
def Clause.Sanitisation : Prop := ∀ (s : State) (j : GJob),
  let d := s.dev
  (∀ rest, d.dom.jobs = j :: rest → d.gessoBusy = false → j.teardown = none → j.exts = [j.first] → j.first < 384 →
    d.sanitiseRefusal j.allDom j.issDom j.first j.count j.dom j.cls = none → d.anyStackFailed = false → d.heldOfExtent j.first = [] →
    d.quiet → d.home.groups = [] → Completes .gessoTake s fun t =>
      t.dev.extState j.first = Xs.sanitising ∧ (∀ e < 384, e ≠ j.first → t.dev.extState e = d.extState e) ∧
      t.dev.fld A.GES_STATUS F.GES_STATUS_BUSY = 1 ∧ t.dev.fld A.GES_STATUS F.GES_STATUS_EXTENT = j.first ∧ t.dev.gessoBusy = true ∧
      ∀ a, t.dev.byte a = d.byte a) ∧
  ∀ (e : Nat) (r : Run), d.dom.jobs = [j] → j.taken = true → j.teardown = none → j.exts = [e] → e < 384 → j.dom < 32 → j.cls < 2 →
    d.only r → r.seq = j.seq → r.cpl = none → d.anyStackFailed = false → d.heldOfExtent e = [] → d.quiet →
    d.home.groups = [] → Completes .gessoExtentDone s fun t =>
      (∀ a, t.dev.byte a = if a / 2 ^ 30 = e then 0 else d.byte a) ∧ t.dev.now = max d.now (j.since + d.extentTime) ∧
      t.dev.extDom e = j.dom ∧ t.dev.extCls e = j.cls ∧ t.dev.extState e = Xs.clean ∧ t.dev.reg (A.LSE_EXT e) = 0 ∧ t.dev.reg (A.LSE_EXPIRY e) = 0 ∧
      Counts A.GES_EXT_CNT 1 d t.dev ∧ t.dev.fld A.GES_STATUS F.GES_STATUS_BUSY = 0 ∧ t.dev.dom.jobs = [] ∧
      Concludes r { a := j.done + 1 } d t.dev

/-- The steps of a teardown and the sanitising of store. -/
def Obligations.Teardown : Prop :=
  Clause.TeardownSteps ∧ Clause.Sanitisation

/-! ## Commands on contexts, windows, leases and regions -/

/-- SEG_LOAD of checked descriptors binds a FREE context and installs them. SEG_LOAD in release mode and RANGE_INVALIDATE start an invalidation when none
runs: the entries that overlap the range become invalid and every agent is asked; behind a running one they wait. -/
def Obligations.ContextCommands : Prop := ∀ (s : State) (q : Req) (r : Run),
  let d := s.dev
  let c := r.ctx
  let lo := r.par 0 8
  let len := r.par 8 8
  let segRegs (a : Nat) : Prop := ∃ k < 8, a = A.STN_SEG0 c k ∨ a = A.STN_SEG1 c k
  let started (lo hi : Nat) (release : Bool) (t : State) : Prop :=
    let hit := (List.range 8).filter fun k => match d.seg c k with
      | some g => decide (g.lo < hi) && decide (lo < g.lo + g.len)
      | none => false
    t.dev.stn = { d.stn with invals := [⟨r.seq, c, lo, hi, hit.length, release, d.ackedAtOnce, d.now + d.ackTimeout, none⟩] } ∧
    (∀ k < 8, t.dev.seg c k = if k ∈ hit then none else d.seg c k) ∧ t.dev.invGen c = (d.invGen c + 1) % 65536 ∧
    t.dev.fld A.STN_STATUS F.STN_STATUS_INV_BUSY = 1 ∧ Changes [.stn] (fun a => a = A.STN_STATUS ∨ a = A.STN_CTX_CFG c ∨ segRegs a) d t.dev
  let waits (lo hi : Nat) (release : Bool) (t : State) : Prop :=
    t.dev.stn = { d.stn with invals := d.stn.invals ++ [⟨r.seq, c, lo, hi, 0, release, [], 0, none⟩] } ∧ Changes [.stn] noReg d t.dev
  d.invalOf r.seq = false →
  (d.carries q Op.segLoad r →
    (d.segLoadRefusal r = none → r.par 0 1 = 0 → d.segLoadCheck c (segWrites r) = none → Completes (.segLoad q) s fun t =>
      (∀ x ∈ segWrites r, t.dev.seg c x.1 = some (segOf x.2.1 x.2.2)) ∧ t.dev.ctxBound c = true ∧ t.dev.ctxDom c = r.dom ∧
      t.dev.invGen c = (d.invGen c + 1) % 65536 ∧ (d.ctxBound c = false → t.dev.ctxPort c = d.issPort r.iss) ∧
      (d.ctxBound c = true → t.dev.ctxPort c = d.ctxPort c) ∧ Concludes r (okCpl (segWrites r).length 0 0) d t.dev ∧
      Changes [.cmd] (fun a => a = A.STN_CTX_CFG c ∨ a = A.STN_CTX_BASE c ∨ segRegs a) d t.dev) ∧
    (d.segLoadRefusal r = none → r.par 0 1 = 1 → d.stn.invals = [] → Completes (.segLoad q) s (started 0 (2 ^ 48) true)) ∧
    (d.segLoadRefusal r = none → r.par 0 1 = 1 → d.stn.invals ≠ [] → Completes (.segLoad q) s (waits 0 (2 ^ 48) true)) ∧
    ∀ st dt, d.segLoadRefusal r = some (st, dt) → Completes (.segLoad q) s fun t =>
      Concludes r (fail st dt) d t.dev ∧ Changes [.cmd] noReg d t.dev) ∧
  (d.carries q Op.rangeInvalidate r → lo % 2 ^ 21 = 0 → 0 < len → len % 2 ^ 21 = 0 → lo + len ≤ 2 ^ 48 →
    (d.ctxBound c = true → d.ctxDom c = r.dom → d.stn.invals = [] → Completes (.rangeInvalidate q) s (started lo (lo + len) false)) ∧
    (d.ctxBound c = true → d.ctxDom c = r.dom → d.stn.invals ≠ [] → Completes (.rangeInvalidate q) s (waits lo (lo + len) false)) ∧
    (d.ctxBound c = false ∨ d.ctxDom c ≠ r.dom → Completes (.rangeInvalidate q) s fun t =>
      Concludes r (fail Sc.rights 0x42) d t.dev ∧ Changes [.cmd] noReg d t.dev))

/-- WINDOW_OPEN with nothing against it makes the window's entry; WINDOW_CLOSE clears it at once and completes when no request that passed its
check waits. One with STAGED = 1 adds its change to the set. -/
def Obligations.WindowCommands : Prop := ∀ (s : State) (q : Req) (r : Run),
  let d := s.dev
  let n := 64 * r.dom + r.par 0 1 % 64
  let ends (c : Cpl) (t : State) : Prop := Concludes r c d t.dev ∧ Changes [.cmd] noReg d t.dev
  let refused := d.winRefusal r.dom (winEntry r) (bit (d.win n) 0) (d.openWins r.dom) (d.fld (A.DOM_CFG r.dom) F.DOM_CFG_WIN_QUOTA)
  (d.carries q Op.windowOpen r →
    (winParams r = false → Completes (.windowOpen q) s (ends (fail Sc.malformed 0x41))) ∧
    (winParams r = true → r.isStaged = false → refused = none → Completes (.windowOpen q) s fun t =>
      t.dev.reg (A.STN_WIN n) = winEntry r ∧ Concludes r {} d t.dev ∧ Changes [.cmd] (· = A.STN_WIN n) d t.dev) ∧
    (∀ st dt, winParams r = true → r.isStaged = false → refused = some (st, dt) → Completes (.windowOpen q) s (ends (fail st dt))) ∧
    (winParams r = true → r.isStaged = true → d.committing = false → d.setState = setOpen → d.setOwner = r.owner →
      let entries := mergeEntries d.staged.entries [(A.STN_WIN n, winEntry r, BitVec.allOnes 64)]
      entries.length ≤ 256 → Completes (.windowOpen q) s fun t =>
        t.dev.staged = { d.staged with entries := entries, touch := d.now } ∧ t.dev.setState = setOpen ∧
        Concludes r (okCpl entries.length 0 0) d t.dev ∧ Changes [.staged, .cmd] (· = A.CMD_STAGE_STATUS) d t.dev)) ∧
  (d.carries q Op.windowClose r → r.phase = 0 → r.isStaged = false →
    (bit (d.win n) 0 = false → Completes (.windowClose q) s (ends (fail Sc.rights 0x45))) ∧
    (bit (d.win n) 0 = true → d.winPassed n = false → Completes (.windowClose q) s fun t =>
      t.dev.reg (A.STN_WIN n) = 0 ∧ Completed r {} t.dev ∧ Changes [.cmd] (· = A.STN_WIN n) d t.dev) ∧
    (bit (d.win n) 0 = true → d.winPassed n = true → Completes (.windowClose q) s fun t =>
      t.dev.reg (A.STN_WIN n) = 0 ∧ MovesOn r 1 [] d t.dev ∧ Changes [.cmd] (· = A.STN_WIN n) d t.dev))

/-- LEASE_GRANT leases the extents to its ports under the next LEASE_ID and tells each port. LEASE_RENEW sets their EXPIRY to their term from now.
LEASE_REVOKE fences those that are ASSIGNED and counts the others. -/
def Clause.LeaseCommands : Prop := ∀ (s : State) (q : Req) (r : Run),
  let d := s.dev
  let first := r.par 0 2
  let count := r.par 2 2
  let exts := extsFrom first count
  let ends (c : Cpl) (t : State) : Prop := Concludes r c d t.dev ∧ Changes [.cmd] noReg d t.dev
  (d.carries q Op.leaseGrant r →
    let ports := r.par 4 1
    let term := d.leaseTerm (r.par 6 2)
    let id := max 1 (d.fld A.LSE_STATUS F.LSE_STATUS_NEXT_ID)
    let expiry := d.now + term * 50000
    (d.grantRefusal r.dom first count ports (r.par 6 2) = none → Completes (.leaseGrant q) s fun t =>
      (∀ e ∈ exts, t.dev.extState e = Xs.assigned ∧ t.dev.extDom e = d.extDom e ∧ t.dev.holders e = ports % 16 ∧ t.dev.leaseId e = id ∧
        t.dev.fld (A.LSE_EXT e) F.LSE_EXT_TERM_MS = term ∧ t.dev.fld (A.LSE_EXPIRY e) F.LSE_EXPIRY_TICK = expiry % 2 ^ 48) ∧
      t.dev.fld A.LSE_STATUS F.LSE_STATUS_NEXT_ID = (if id = 0xFFFF then 1 else id + 1) ∧ Counts A.LSE_GRANT_CNT count d t.dev ∧
      t.dev.trf.classq = d.trf.classq ++ (portsOf ports).map (fun p =>
        d.tlkEgr p none { type := 0x64, units := [noticeUnit first count id 1 r.dom expiry] }) ∧
      Concludes r (okCpl count 0 id) d t.dev ∧
      Changes [.cmd, .trf] (fun a => a = A.LSE_STATUS ∨ a = A.LSE_GRANT_CNT ∨ ∃ e ∈ exts, a = A.DOM_EXT_TAG e ∨ a = A.LSE_EXT e ∨ a = A.LSE_EXPIRY e)
        d t.dev) ∧
    ∀ st dt, d.grantRefusal r.dom first count ports (r.par 6 2) = some (st, dt) → Completes (.leaseGrant q) s (ends (fail st dt))) ∧
  (d.carries q Op.leaseRenew r →
    let term (e : Nat) := d.fld (A.LSE_EXT e) F.LSE_EXT_TERM_MS
    (d.renewRefusal r.iss first count (r.par 4 2) = none → Completes (.leaseRenew q) s fun t =>
      (∀ e ∈ exts, t.dev.fld (A.LSE_EXPIRY e) F.LSE_EXPIRY_TICK = (d.now + term e * 50000) % 2 ^ 48) ∧
      Concludes r (okCpl 0 0 (d.now + (exts.map term).foldl min 65535 * 50000)) d t.dev ∧
      Changes [.cmd] (fun a => ∃ e ∈ exts, a = A.LSE_EXPIRY e) d t.dev) ∧
    ∀ st dt, d.renewRefusal r.iss first count (r.par 4 2) = some (st, dt) → Completes (.leaseRenew q) s (ends (fail st dt))) ∧
  (d.carries q Op.leaseRevoke r →
    let held := exts.filter fun e => d.extState e == Xs.assigned
    (d.revokeRefusal first count = none → d.quiet → d.home.groups = [] → Completes (.leaseRevoke q) s fun t =>
      (∀ e ∈ held, t.dev.extState e = Xs.fenced ∧ t.dev.reg (A.LSE_EXPIRY e) = 0) ∧ (∀ e < 384, e ∉ held → t.dev.extState e = d.extState e) ∧
      Counts A.LSE_REVOKE_CNT held.length d t.dev ∧ Concludes r (okCpl held.length (count - held.length) 0) d t.dev ∧
      ∀ a, t.dev.byte a = d.byte a) ∧
    ∀ st dt, d.revokeRefusal first count = some (st, dt) → Completes (.leaseRevoke q) s (ends (fail st dt)))

/-- Leases: their commands and their expiry. -/
def Obligations.Leases : Prop :=
  Clause.LeaseExpiry ∧ Clause.LeaseCommands

/-- OWN_TRANSFER of a region at HOME offers it to its new owner under the next EPOCH, of an owned one asks its owner to release it first. OWN_ACCEPT
asks the home. A transfer home ends at once. -/
def Clause.OwnershipCommands : Prop := ∀ (s : State) (q : Req) (r : Run),
  let d := s.dev
  let own (kind dst off e : Nat) : DMsg := { type := 0x62, len := 1, dst := dst, src := d.node, units := [ownUnit kind off e 0] }
  let ends (c : Cpl) (t : State) : Prop := Concludes r c d t.dev ∧ Changes [.cmd] noReg d t.dev
  (d.carries q Op.ownTransfer r → (∀ x ∈ d.own.xfers, x.seq ≠ r.seq) →
    let region := r.par 0 8 >>> 21
    let new := r.par 8 2
    let o := d.ownRec region
    let stateful := r.par 12 1 % 2 == 1
    (∀ x ∈ d.own.xfers, x.region = region → x.releaseDue = none) →
    (d.transferRefusal r = none → o.st = 0 → new ≠ d.node → (d.drsEgr (own 1 new (region <<< 21) (epochNext o.epoch))).isSome = true →
      Completes (.ownTransfer q) s fun t =>
        t.dev.ownRec region = { o with st := 1, owner := d.node, pend := new, epoch := epochNext o.epoch, stateful := stateful, reclaimed := false } ∧
        (∀ x, x ≠ region → t.dev.ownRec x = d.ownRec x) ∧
        t.dev.own.xfers = d.own.xfers ++ [⟨r.seq, region, new, stateful, none, some (d.now + 50000), false⟩] ∧
        Sent (own 1 new (region <<< 21) (epochNext o.epoch)) d t.dev ∧ Changes [.own, .trf] noReg d t.dev) ∧
    (d.transferRefusal r = none → o.st = 2 → o.owner ≠ new → (d.drsEgr (own 3 o.owner (region <<< 21) o.epoch)).isSome = true →
      Completes (.ownTransfer q) s fun t =>
        (∀ x, t.dev.ownRec x = d.ownRec x) ∧
        t.dev.own.xfers = d.own.xfers ++ [⟨r.seq, region, new, stateful, some (d.now + 50000), none, false⟩] ∧
        Sent (own 3 o.owner (region <<< 21) o.epoch) d t.dev ∧ Changes [.own, .trf] noReg d t.dev) ∧
    (d.transferRefusal r = none → o.st = 0 → new = d.node → Completes (.ownTransfer q) s fun t =>
      t.dev.ownRec region = { o with owner := 0, pend := 0, epoch := epochNext o.epoch, stateful := stateful, reclaimed := false } ∧
      Concludes r { result := epochNext o.epoch } d t.dev ∧ Changes [.own, .cmd] noReg d t.dev) ∧
    ∀ st dt, d.transferRefusal r = some (st, dt) → Completes (.ownTransfer q) s (ends (fail st dt))) ∧
  (d.carries q Op.ownAccept r → (∀ x ∈ d.own.accepting, x.seq ≠ r.seq) →
    let home := r.par 0 2
    let off := r.par 8 8
    let epoch := r.par 16 2
    (4096 ≤ d.own.ownedHere.length → Completes (.ownAccept q) s (ends (fail Sc.limit 0x60))) ∧
    (d.own.ownedHere.length < 4096 → home ≠ d.node → (d.drsEgr (own 2 home off epoch)).isSome = true → Completes (.ownAccept q) s fun t =>
      t.dev.own = { d.own with accepting := d.own.accepting ++ [⟨r.seq, home, off, epoch, d.now + 50000⟩] } ∧
      Sent (own 2 home off epoch) d t.dev ∧ Changes [.own, .trf] noReg d t.dev) ∧
    (d.own.ownedHere.length < 4096 → home = d.node → (d.ownRec (off >>> 21)).st ≠ 1 → (d.ownRec (off >>> 21)).reclaimed = false →
      Completes (.ownAccept q) s fun t => t.dev.own = d.own ∧ Concludes r (fail Sc.stale 0x61) d t.dev))

/-- PUBLISH of the right version, no line of whose new buffer a host port holds: the object has its next version and the new buffer, its record line
says so, and no other byte changes. One with the wrong version is STALE. -/
def Clause.PublishedVersions : Prop := ∀ (s : State) (q : Req) (r : Run),
  let d := s.dev
  let obj := r.par 0 1 % 64
  let off := r.par 8 8
  let lenM1 := d.fld (A.HOM_PUB_CFG obj) F.HOM_PUB_CFG_LEN_M1
  let buf := (off >>> 21, lenM1 + 1)
  let n := d.fld (A.HOM_PUB_CFG obj) F.HOM_PUB_CFG_RECORD
  let v := d.fld (A.HOM_PUB_VER obj) F.HOM_PUB_VER_VERSION
  let old := d.reg (A.HOM_PUB_CUR obj)
  d.carries q Op.publish r → r.phase = 0 → d.publishBefore r.seq obj = false →
  (d.publishRefusal r.dom obj off = none → r.par 4 4 = v → d.heldLines buf = [] → d.bufSnooped buf = false → d.lineFree n → d.dirOf n = (0, 0) →
    d.home.credits = [] → d.home.groups = [] → d.refusal (64 * n) (some r.dom) none = none → ¬ (buf.1 ≤ regionOf n ∧ regionOf n < buf.1 + buf.2) →
    Completes (.publish q) s fun t =>
      t.dev.fld (A.HOM_PUB_VER obj) F.HOM_PUB_VER_VERSION = (v + 1) % 2 ^ 32 ∧
      t.dev.fld (A.HOM_PUB_CUR obj) F.HOM_PUB_CUR_CUR = off >>> 21 ∧ t.dev.fld (A.HOM_PUB_CUR obj) F.HOM_PUB_CUR_CUR_VALID = 1 ∧
      t.dev.fld (A.HOM_PUB_CUR obj) F.HOM_PUB_CUR_PREV_VALID = F.HOM_PUB_CUR_CUR_VALID.of old ∧
      (F.HOM_PUB_CUR_CUR_VALID.of old = 1 → t.dev.fld (A.HOM_PUB_CUR obj) F.HOM_PUB_CUR_PREV = F.HOM_PUB_CUR_CUR.of old) ∧
      Stores n (recordLine ((v + 1) % 2 ^ 32) off (if bit old 63 then F.HOM_PUB_CUR_CUR.of old <<< 21 else 0) lenM1) d t.dev ∧
      Completed r { result := (v + 1) % 2 ^ 32 } t.dev) ∧
  (d.publishRefusal r.dom obj off = none → r.par 4 4 ≠ v → Completes (.publish q) s fun t =>
    Concludes r (fail Sc.stale 0x62) d t.dev ∧ Changes [.cmd] noReg d t.dev) ∧
  ∀ st dt, d.publishRefusal r.dom obj off = some (st, dt) → Completes (.publish q) s fun t =>
    Concludes r (fail st dt) d t.dev ∧ Changes [.cmd] noReg d t.dev

/-- The commands on ownership and on published versions. -/
def Obligations.OwnershipAndVersions : Prop :=
  Clause.OwnershipCommands ∧ Clause.PublishedVersions

/-! ## Commands on power, the span and firmware -/

/-- POWER_STATE: P1 and P0 with no gated tile are entered at once, P2 and P3 are asked for when nothing stands against them. CLOCK_SET begins a
change: a point not above the present one raises or keeps the voltage first. -/
def Obligations.PowerCommands : Prop := ∀ (s : State) (q : Req) (r : Run),
  let d := s.dev
  let st := r.par 0 1 % 4
  r.phase = 0 →
  (d.carries q Op.powerState r →
    (st = d.power → Completes (.powerState q) s fun t => Concludes r { result := st } d t.dev ∧ Changes [.cmd] noReg d t.dev) ∧
    (st = 1 → d.power ≠ 1 → Completes (.powerState q) s fun t =>
      t.dev.power = 1 ∧ t.dev.fld A.PWR_STATUS F.PWR_STATUS_TRANS = 0 ∧ Concludes r { result := 1 } d t.dev ∧ Changes [.cmd] (· = A.PWR_STATUS) d t.dev) ∧
    (st = 0 → d.power ≠ 0 → d.reg A.PWR_TILE_GATED = 0 → d.eng.wins = [] → Completes (.powerState q) s fun t =>
      t.dev.power = 0 ∧ t.dev.fld A.PWR_STATUS F.PWR_STATUS_TRANS = 0 ∧ Completed r { result := 0 } t.dev ∧
      Changes [.cmd, .eng] (· = A.PWR_STATUS) d t.dev) ∧
    (2 ≤ st → st ≠ d.power → d.powerRefusal r st = none → Completes (.powerState q) s fun t =>
      t.dev.sys = { d.sys with pwr := { d.sys.pwr with req := some (st, r.seq) } } ∧ Concludes r { result := st } d t.dev ∧
      Changes [.cmd, .sys] noReg d t.dev) ∧
    ∀ c dt, 2 ≤ st → st ≠ d.power → d.powerRefusal r st = some (c, dt) → Completes (.powerState q) s fun t =>
      Concludes r (fail c dt) d t.dev ∧ Changes [.cmd] noReg d t.dev) ∧
  (d.carries q Op.clockSet r → r.par 0 1 = 0 →
    let op := r.par 1 1 % 4
    let margin := r.par 2 1
    let cur := d.fld A.CLK_STATUS F.CLK_STATUS_OP
    (70 < margin → Completes (.clockSet q) s fun t => Concludes r (fail Sc.malformed 0x06) d t.dev ∧ Changes [.cmd] noReg d t.dev) ∧
    (margin ≤ 70 → r.isStaged = false → d.sys.pwr.relock = none → Completes (.clockSet q) s fun t =>
      t.dev.sys = { d.sys with pwr := { d.sys.pwr with
        relock := some ⟨some r.seq, op, margin, decide (cur < op)⟩
        avs := if op ≤ cur then some ⟨1, vddOf op margin, 0, false, d.now⟩ else d.sys.pwr.avs } } ∧
      t.dev.fld A.CLK_STATUS F.CLK_STATUS_CHANGING = 1 ∧ MovesOn r 1 [] d t.dev ∧ Changes [.cmd, .sys] (· = A.CLK_STATUS) d t.dev))

/-- EXPEL_VOTE of a span manager that follows records its vote, tells the other managers and waits. SHADOW_BEGIN at the leader makes an expelled device
a shadow. SHADOW_COMPARE of a shadow with no tile that differs counts the comparison, with one that differs starts the run again and raises
SHADOW_MISMATCH. -/
def Obligations.SpanCommands : Prop := ∀ (s : State) (q : Req) (r : Run),
  let d := s.dev
  let ends (c : Cpl) (t : State) : Prop := Concludes r c d t.dev ∧ Changes [.cmd] noReg d t.dev
  r.phase = 0 →
  (d.carries q Op.expelVote r →
    let target := bits (BitVec.ofNat 16 (r.par 0 2)) 0 14
    let reason := r.par 2 1 % 128
    let u := putLe (putLe (d.quorumUnit 4) 16 2 target) 24 1 reason
    let msg (n : Nat) : DMsg := { type := 0x64, len := 1, dst := n, src := d.node, units := [u] }
    (d.isSpanMgr = false → Completes (.expelVote q) s (ends (fail Sc.unsupported 0xE0))) ∧
    (d.isSpanMgr = true → d.leaderIdx = 7 → Completes (.expelVote q) s (ends (fail Sc.retry 0xE0))) ∧
    (d.isSpanMgr = true → d.leaderIdx ≠ 7 → d.inSpan target = true → d.expelled target = false → d.shadowed target = false → d.leadsSpan = false →
      r.par 3 1 % 2 = 0 → d.ownIdx < 5 → (∀ dir < 6, d.trunkOk dir = true) → Completes (.expelVote q) s fun t =>
        t.dev.fld (A.TOP_VOTE d.ownIdx) F.TOP_VOTE_VALID = 1 ∧ t.dev.fld (A.TOP_VOTE d.ownIdx) F.TOP_VOTE_TARGET = target ∧
        MovesOn r 1 [target, d.now + 500000] d t.dev ∧ Tells d.otherManagers msg d t.dev ∧
        Changes [.cmd, .sys, .trf] (· = A.TOP_VOTE d.ownIdx) d t.dev)) ∧
  (d.carries q Op.shadowBegin r →
    let sh := r.par 0 2
    let pr := r.par 2 2
    let n := r.par 4 4
    (d.isSpanMgr = false → Completes (.shadowBegin q) s (ends (fail Sc.unsupported 0xE0))) ∧
    (d.leadsSpan = true → d.isSpanMgr = true → d.leaderIdx ≠ 7 → d.inSpan sh = true → d.inSpan pr = true → sh ≠ pr → 1 ≤ n → n ≤ 1048576 →
      (d.expelled sh = false → Completes (.shadowBegin q) s (ends (fail Sc.rights 0xE1))) ∧
      (d.expelled sh = true → d.expelled pr = false → d.shadowed pr = false → d.shadowCount < 64 → sh ≠ d.node → Completes (.shadowBegin q) s fun t =>
        t.dev.shadowed sh = true ∧ t.dev.expelled sh = false ∧ (∀ x < 16384, x ≠ sh → t.dev.expelled x = d.expelled x ∧ t.dev.shadowed x = d.shadowed x) ∧
        ∃ c, Completed r c t.dev ∧ c.status = Sc.ok ∧ c.detail = 0))) ∧
  (d.carries q Op.shadowCompare r →
    let tiles := r.par 16 8 / 4096
    let run := d.fld A.TOP_RES_STATUS F.TOP_RES_STATUS_RUN
    (d.resState ≠ 2 → Completes (.shadowCompare q) s (ends (fail Sc.unsupported 0xE0))) ∧
    ∀ bad tr, d.resState = 2 → compareOk r = true → (compareWork d r).run.run {} = (.ok bad, tr) → tr.wrs = [] → tr.cnts = [] →
      d.sys.res.runLen ≤ 1048576 → d.hasRoom 0x0804 0 → Completes (.shadowCompare q) s fun t =>
        (bad = [] → run + 1 < d.sys.res.runLen → t.dev.fld A.TOP_RES_STATUS F.TOP_RES_STATUS_RUN = run + 1 ∧ Completed r { b := tiles } t.dev ∧
          ∀ a, t.dev.byte a = d.byte a) ∧
        ∀ i x, bad.head? = some (i, x) → t.dev.fld A.TOP_RES_STATUS F.TOP_RES_STATUS_RUN = 0 ∧
          Completed r { detail := 0xE1, a := bad.length, b := tiles, result := i } t.dev ∧ ∃ h ∈ t.dev.evq.held, h.r.code = 0x0804 ∧ h.r.addr = x)

/-- ATTEST answers with the counts of domains. FW_STAGE takes the image that it has read and hands it to verification. FW_ACTIVATE of a staged image
for the next start alone completes with its SVN and arms the reset; one for the flash waits for the write, which may fail. -/
def Obligations.FirmwareCommands : Prop := ∀ (s : State) (q : Req) (r : Run),
  let d := s.dev
  let ends (c : Cpl) (t : State) : Prop := Concludes r c d t.dev ∧ Changes [.cmd] noReg d t.dev
  (d.carries q Op.attest r → r.phase = 0 →
    let all := tb (r.par 28 1) 0
    let need := 256 + (d.domSection all r.dom ++ (if tb (r.par 28 1) 1 then certBytes else [])).length
    tb (r.par 30 2) 15 = false →
    (d.attestOk r need = true → (all = true → d.allDomains r.iss = true) → need ≤ r.par 24 4 → Completes (.attest q) s fun t =>
      ∃ c, Completed r c t.dev ∧ c.a = (attDoms all r.dom).length ∧ c.b = d.activeDoms) ∧
    (d.attestOk r need = false → Completes (.attest q) s (ends (fail Sc.malformed 0xF0)))) ∧
  (d.carries q Op.fwStage r →
    (∀ st dt, r.phase = 0 → d.stageRefusal r = some (st, dt) → Completes (.fwStage q) s (ends (fail st dt))) ∧
    ∀ l tr, r.phase = 1 → (stageRead d r).run.run {} = (.ok l, tr) → tr.wrs = [] → tr.cnts = [] → l.length < 2 ^ 24 → Completes (.fwStage q) s fun t =>
      t.dev.sys = { d.sys with boot := { d.sys.boot with img := l, verify := some ⟨5, some r.seq⟩ } } ∧
      t.dev.fld A.BOOT_IMG_STATUS F.BOOT_IMG_STATUS_LENGTH = l.length ∧ MovesOn r 2 [] d t.dev ∧ ∀ a, t.dev.byte a = d.byte a) ∧
  (d.carries q Op.fwActivate r → r.phase = 0 →
    (∀ st dt, d.activateRefusal r = some (st, dt) → Completes (.fwActivate q) s (ends (fail st dt))) ∧
    (d.activateRefusal r = none → r.par 0 1 = 1 → r.par 1 1 = 0 → Completes (.fwActivate q) s fun t =>
      t.dev.fld A.BOOT_STATUS F.BOOT_STATUS_FAILS = 0 ∧
      t.dev.sys = { d.sys with boot := { d.sys.boot with resetSeq := some r.seq, resetOnly := true } } ∧
      Concludes r (okCpl (imgSvn d.sys.boot.img) 0 0) d t.dev ∧ Changes [.cmd, .sys] (· = A.BOOT_STATUS) d t.dev) ∧
    (r.par 0 1 ∈ [0, 2] → r.activateDirty = false → d.imgState = 2 → d.sys.boot.verify = none →
      (r.params.drop 8).take 16 = (digestBytes d.sys.boot.digest).take 16 → d.sys.boot.act = none → Completes (.fwActivate q) s fun t =>
      if flashPresent then t.dev.sys = { d.sys with boot := { d.sys.boot with act := some (r.seq, r.par 0 1) } } ∧ MovesOn r 1 [] d t.dev ∧
        Changes [.cmd, .sys] noReg d t.dev
      else ends (fail Sc.unsupported 0xF1) t)) ∧
  ∀ mode, d.sys.boot.act = some (r.seq, mode) → d.only r → r.cpl = none → d.runOf .fw = none →
    (Completes (.flashWriteDone false) s fun t =>
      t.dev.sys = { d.sys with boot := { d.sys.boot with act := none } } ∧ Concludes r (fail Sc.checkFailed 0xF7) d t.dev ∧
      Changes [.cmd, .sys] noReg d t.dev) ∧
    (r.par 0 1 = 2 → r.par 1 1 = 0 → Completes (.flashWriteDone true) s fun t =>
      t.dev.sys = { d.sys with boot := { d.sys.boot with act := none } } ∧
      Concludes r (okCpl (imgSvn d.sys.boot.img) 0 ((d.sys.boot.img.length + 2 ^ flashErase - 1) / 2 ^ flashErase)) d t.dev ∧
      Changes [.cmd, .sys] noReg d t.dev)

/-- The start of the device: with sound fuses the PLLs lock and the boot ROM runs, in minimal mode after three failed starts; an image is taken from the
flash or awaited from the host; a verified one is the image that will run; Easel starts on it once every stack serves; START_OK ends the start. -/
def Clause.StartSequence : Prop := ∀ s : State,
  let d := s.dev
  let boot (f : BootSt → BootSt) : SysSt := { d.sys with boot := f d.sys.boot }
  (d.sys.boot.phase = 1 → d.sys.pwr.avs = none → Completes .startPllLock s fun t =>
    if Config.fuseOk then
      t.dev.fld A.CLK_STATUS F.CLK_STATUS_LOCK = 7 ∧ t.dev.sys.boot.phase = 2 ∧ t.dev.halfUp true = true ∧
      (3 ≤ d.fld A.BOOT_STATUS F.BOOT_STATUS_FAILS → t.dev.stage = 6) ∧
      (d.fld A.BOOT_STATUS F.BOOT_STATUS_FAILS < 3 → t.dev.stage ∈ [2, 3] ∧
        (t.dev.sys.boot.reading = true ∨ t.dev.sys.boot.hostDue.isSome = true ∨ t.dev.sys.boot.verify = some ⟨1, none⟩))
    else t.dev.fld A.BOOT_STATUS F.BOOT_STATUS_CAUSE = 5 ∧ t.dev.fld A.BOOT_STATUS F.BOOT_STATUS_LAST_REASON = 5) ∧
  (∀ image : List Byte, d.sys.boot.reading = true →
    let l := image.take (min imgMax (imgBody image + imgExtra))
    let wait := d.now + max 1 (d.fld A.BOOT_CFG F.BOOT_CFG_HOST_WAIT_MS) * 50000
    (Completes (.flashReadDone image false) s fun t =>
      t.dev.sys = boot (fun b => { b with img := l, reading := false, verify := some ⟨2, none⟩ }) ∧ t.dev.stage = 3 ∧
      t.dev.fld A.BOOT_IMG_STATUS F.BOOT_IMG_STATUS_LENGTH = l.length ∧ Changes [.sys] (· ∈ [A.BOOT_STATUS, A.BOOT_IMG_STATUS]) d t.dev) ∧
    Completes (.flashReadDone image true) s fun t =>
      t.dev.sys = boot (fun b => { b with reading := false, hostDue := some wait }) ∧ t.dev.stage = 2 ∧
      (d.hasRoom 0x0A01 0 → t.dev.evq.held = d.evq.held ++ [heldOf 0x0A01 0 0 none 0xF5 0 0 d.now])) ∧
  (∀ v : Verify, d.sys.boot.verify = some v →
    let l := d.sys.boot.img
    (v.src ≤ 3 → Completes .imageVerifyDone s fun t => d.imgFault l = none →
      t.dev.imgState = 2 ∧ t.dev.fld A.BOOT_STATUS F.BOOT_STATUS_SOURCE = v.src ∧ t.dev.fld A.BOOT_FW_INFO F.BOOT_FW_INFO_SVN = imgSvn l ∧
      t.dev.fld A.BOOT_FW_INFO F.BOOT_FW_INFO_BODY_LEN = imgBody l ∧ (t.dev.reg A.BOOT_FW_VERSION).toNat = leAt l 16 8 ∧
      (∀ w < 6, (t.dev.reg (A.BOOT_FW_DIGEST w)).toNat = leAt (digestBytes (imgDigest l)) (8 * w) 8) ∧ t.dev.sys.boot.phase = 3 ∧
      t.dev.sys.boot.digest = imgDigest l ∧ t.dev.sys.boot.verify = none) ∧
    (∀ r, v.src = 5 → v.seq = some r.seq → d.only r → r.cpl = none → d.runOf .fw = none →
      Completes .imageVerifyDone s fun t => Changes [.sys, .cmd] (· = A.BOOT_IMG_STATUS) d t.dev ∧
        (d.imgFault l = none → t.dev.imgState = 2 ∧ t.dev.sys = boot (fun b => { b with verify := none, digest := imgDigest l }) ∧
          Concludes r (okCpl (imgSvn l) 0 (leAt (digestBytes (imgDigest l)) 0 8)) d t.dev) ∧
        ∀ c ∈ d.imgFault l, t.dev.imgState = 3 ∧ t.dev.fld A.BOOT_IMG_STATUS F.BOOT_IMG_STATUS_CAUSE = c ∧
          t.dev.sys = boot (fun b => { b with verify := none }) ∧ Concludes r (fail Sc.checkFailed c) d t.dev)) ∧
  (d.sys.boot.phase = 3 → d.stage = 3 → d.anyStackFailed = false → (∀ k < 8, d.stackServes k = true) → Completes .easelStart s fun t =>
    t.dev.stage = 4 ∧ t.dev.halfUp false = true ∧ t.dev.fld A.CLK_STATUS F.CLK_STATUS_LOCK = 31 ∧ t.dev.reg A.PWR_TILE_GATED = 0 ∧
    t.dev.sys.boot.startDue = some (d.now + max 5000000 (d.fld A.BOOT_CFG F.BOOT_CFG_START_TIMEOUT)) ∧
    t.dev.sys.pwr.avs = some ⟨4, vddOf 0 (d.fld A.CLK_CFG F.CLK_CFG_VMARGIN), 0, false, d.now⟩ ∧
    t.dev.sys.res.petW = d.now ∧ t.dev.sys.res.petE = d.now ∧ ∀ a, t.dev.byte a = d.byte a) ∧
  (d.stage = 4 → Completes .startOk s fun t =>
    t.dev.stage = 5 ∧ t.dev.fld A.BOOT_STATUS F.BOOT_STATUS_FAILS = 0 ∧ Counts A.BOOT_START_CNT 1 d t.dev ∧
    t.dev.sys = boot (fun b => { b with startDue := none }) ∧ Changes [.sys] (· ∈ [A.BOOT_STATUS, A.BOOT_START_CNT]) d t.dev) ∧
  (d.stage ≠ 4 → Completes .startOk s fun t => t = s)

/-- A start that fails restarts the device with CAUSE 5, its reason and one more in FAILS; BOOT_CTRL.RESET and the reset that an FW_ACTIVATE arms restart
it with CAUSE 4 and 3. In each the store reads zero and no command is left. CLEAR_FAILS clears the count alone. -/
def Clause.FailedStartsAndResets : Prop := ∀ s : State,
  let d := s.dev
  let fails := min (d.fld A.BOOT_STATUS F.BOOT_STATUS_FAILS + 1) 15
  let restarts (cause tick : Nat) (t : State) : Prop :=
    t.dev.now = tick ∧ t.dev.fld A.BOOT_STATUS F.BOOT_STATUS_CAUSE = cause ∧ t.dev.cmd = {} ∧ t.dev.links = List.replicate 16 {} ∧
    (∀ a < storeEnd, t.dev.byte a = 0) ∧ t.dev.sys.boot.phase = b2n d.mayStart
  let failed (reason tick : Nat) (t : State) : Prop :=
    restarts 5 tick t ∧ t.dev.fld A.BOOT_STATUS F.BOOT_STATUS_FAILS = fails ∧ t.dev.fld A.BOOT_STATUS F.BOOT_STATUS_LAST_REASON = reason
  (∀ due, d.sys.boot.hostDue = some due → d.sys.boot.verify = none → Completes .hostWaitExpire s (failed 1 (max d.now due))) ∧
  (∀ due, d.sys.boot.startDue = some due → Completes .startTimeoutExpire s (failed 3 (max d.now due))) ∧
  (d.sys.boot.phase ≠ 0 → Completes .bootCtrlReset s (restarts 4 d.now)) ∧ (d.sys.boot.phase = 0 → Completes .bootCtrlReset s fun t => t = s) ∧
  (∀ due, d.sys.boot.resetDue = some due → Completes .fwActivateReset s (restarts 3 (max d.now due))) ∧
  Completes .clearFails s fun t => t.dev.fld A.BOOT_STATUS F.BOOT_STATUS_FAILS = 0 ∧ t.dev.stage = d.stage ∧ Changes [] (· = A.BOOT_STATUS) d t.dev

/-- A host load: BEGIN empties the buffer and opens it, each write of BOOT_IMG_DATA adds 8 bytes up to 8 MiB, END starts verification. GO of an idle
mailbox accepts the packet that stands in BOOT_MBOX_CMD; one while it is BUSY is ignored. -/
def Clause.HostLoadAndMailbox : Prop := ∀ (s : State) (v : Word),
  let d := s.dev
  let boot (f : BootSt → BootSt) : SysSt := { d.sys with boot := f d.sys.boot }
  let st := A.BOOT_IMG_STATUS
  (d.staging = false → d.sys.boot.act = none → Completes .imgBegin s fun t =>
    t.dev.sys.boot.img = [] ∧ t.dev.imgState = 1 ∧ t.dev.fld st F.BOOT_IMG_STATUS_LENGTH = 0 ∧ t.dev.fld st F.BOOT_IMG_STATUS_OVER = 0 ∧
    t.dev.fld st F.BOOT_IMG_STATUS_BUSY_REJ = 0 ∧ Changes [.sys] (· = st) d t.dev) ∧
  (d.staging = true ∨ d.sys.boot.act.isSome = true → Completes .imgBegin s fun t =>
    t.dev.fld st F.BOOT_IMG_STATUS_BUSY_REJ = 1 ∧ t.dev.imgState = d.imgState ∧ Changes [] (· = st) d t.dev) ∧
  (d.imgState = 1 → d.staging = false → d.sys.boot.verify = none →
    (d.sys.boot.img.length + 8 ≤ 8388608 → Completes (.bootImgData v) s fun t =>
      t.dev.sys = boot (fun b => { b with img := b.img ++ toLe 8 v.toNat }) ∧
      t.dev.fld st F.BOOT_IMG_STATUS_LENGTH = d.sys.boot.img.length + 8 ∧ Changes [.sys] (· = st) d t.dev) ∧
    (8388608 < d.sys.boot.img.length + 8 → Completes (.bootImgData v) s fun t =>
      t.dev.fld st F.BOOT_IMG_STATUS_OVER = 1 ∧ Changes [] (· = st) d t.dev) ∧
    (d.sys.boot.phase = 2 → d.sys.boot.hostDue.isSome = true → Completes .imgEnd s fun t =>
      t.dev.sys = boot (fun b => { b with verify := some ⟨3, none⟩ }) ∧ t.dev.stage = 3 ∧ Changes [.sys] (· = A.BOOT_STATUS) d t.dev) ∧
    (d.sys.boot.phase ≠ 2 ∨ d.sys.boot.hostDue = none → Completes .imgEnd s fun t =>
      t.dev.sys = boot (fun b => { b with verify := some ⟨4, none⟩ }) ∧ Changes [.sys] noReg d t.dev)) ∧
  (d.fld A.BOOT_MBOX_STATUS F.BOOT_MBOX_STATUS_BUSY = 0 →
    let seq := d.fld A.CMD_SEQ F.CMD_SEQ_SEQ
    Completes .mboxGo s fun t =>
      t.dev.fld A.BOOT_MBOX_STATUS F.BOOT_MBOX_STATUS_BUSY = 1 ∧ t.dev.fld A.BOOT_MBOX_STATUS F.BOOT_MBOX_STATUS_DONE = 0 ∧
      t.dev.cmd = { d.cmd with acc := d.cmd.acc ++ [⟨.mbox, seq, d.mboxPkt, 0⟩] } ∧ t.dev.fld A.CMD_SEQ F.CMD_SEQ_SEQ = (seq + 1) % 2 ^ 32 ∧
      Changes [.cmd] (· ∈ [A.BOOT_MBOX_STATUS, A.CMD_SEQ]) d t.dev) ∧
  (d.fld A.BOOT_MBOX_STATUS F.BOOT_MBOX_STATUS_BUSY = 1 → Completes .mboxGo s fun t => t = s)

/-- The start sequence of the device, its failures and resets, and the mailbox of the host. -/
def Obligations.StartAndReset : Prop :=
  Clause.StartSequence ∧ Clause.FailedStartsAndResets ∧ Clause.HostLoadAndMailbox

/-! ## The engines -/

/-- FILL and COPY of one line of the local store, in either layout: the destination line reads as the pattern or as the source, no other byte changes,
and the command ends with one tile counted. -/
def Obligations.FillAndCopyOneLine : Prop := ∀ (s : State) (q : Req) (r : Run) (k j : Nat) (g h : Seg),
  let d := s.dev
  let dst := if r.op = Op.fill then (fillArgs r).1 else (copyArgs r).2.1
  let src := (copyArgs r).1
  let len := if r.op = Op.fill then (fillArgs r).2.1 else (copyArgs r).2.2
  let off := (g.tgt <<< 21) + (dst - g.lo)
  let from_ := (h.tgt <<< 21) + (src - h.lo)
  let done (b : Nat → Byte) (t : State) : Prop :=
    (∀ i < 64, t.dev.byte (off + i) = b i) ∧ (∀ a, a / 64 ≠ off / 64 → t.dev.byte a = d.byte a) ∧ Completed r { a := 1 } t.dev
  dst % 64 = 0 → len = 64 → dst + 64 ≤ 2 ^ 48 → d.ctxBound r.ctx = true → d.findSeg r.ctx dst = some (k, g) → g.lo % 64 = 0 → g.w = true →
  g.isRemote = false → d.lineFree (off / 64) → d.dirOf (off / 64) = (0, 0) → d.refusal off (some r.dom) (some g.cls) = none →
  d.home.credits = [] → d.home.groups = [] →
  (∀ row, (d.carries q Op.fill r ∧ r.isCx6 = false ∧ row = .fill q) ∨ (∃ n, q = .q n ∧ d.carries q Op.fill r ∧ r.isCx6 = true ∧ row = .cx6Fill n) →
    Completes row s (done fun i => BitVec.ofNat 8 ((fillArgs r).2.2 / 256 ^ (i % 8)))) ∧
  (∀ row, (d.carries q Op.copy r ∧ r.isCx6 = false ∧ row = .copy q) ∨ (∃ n, q = .q n ∧ d.carries q Op.copy r ∧ r.isCx6 = true ∧ row = .cx6Copy n) →
    src % 64 = 0 → src + 64 ≤ 2 ^ 48 → (src + 64 ≤ dst ∨ dst + 64 ≤ src) → d.findSeg r.ctx src = some (j, h) → h.lo % 64 = 0 → h.r = true →
    h.isRemote = false → d.own.ret = [] → d.home.ue = [] → d.lineFree (from_ / 64) → d.refusal from_ (some r.dom) (some h.cls) = none →
    Completes row s (done fun i => d.byte (from_ + i)))

/-- COPY, FILL, BITWISE, GATHER_POOL, MATMUL once started and the last phase of ROUTE complete, COPY, FILL and GATHER_POOL in either layout. Where
their work ends well and nothing stands between its writes and their lines, the completion is that of the work and every byte written stands in
the store. In general the failure of one of the writes replaces OK and lowers COUNT_A of a COPY or FILL, and work that fails completes with its
failure. -/
def Obligations.EngineWorkCompletes : Prop := ∀ (s : State) (q : Req) (r : Run),
  let d := s.dev
  let near (c e : Cpl) : Prop := e.a ≤ c.a ∧ (r.counts = false → e.a = c.a) ∧ e.b = c.b ∧
    ((e.status = c.status ∧ e.detail = c.detail ∧ e.result = c.result) ∨ (c.status = Sc.ok ∧ e.status ≠ Sc.ok))
  let completes (w : Dev → Run → Rd Cpl) (row : Instr) : Prop :=
    (∀ c tr, (w d r).run.run {} = (.ok c, tr) → d.quiet → (∀ x ∈ tr.wrs, d.landsNow r x) →
      Completes row s fun t => Completed r c t.dev ∧ Lands tr.wrs d t.dev) ∧
    (∀ c tr, (w d r).run.run {} = (.ok c, tr) → Completes row s fun t => ∃ e, Completed r e t.dev ∧ near c e) ∧
    (∀ c tr, (w d r).run.run {} = (.error (.fail c), tr) → Completes row s fun t =>
      ∃ e, Completed r e t.dev ∧ near { c with a := c.a + tr.tiles, b := c.b + tr.bad.eraseDups.length } e)
  let noSet := ∀ x ∈ d.eng.pf, some x.queue ≠ r.queue
  (r.isCx6 = false →
    (d.carries q Op.copy r → completes copyWork (.copy q)) ∧ (d.carries q Op.fill r → completes fillWork (.fill q)) ∧
    (d.carries q Op.gatherPool r → d.crdTurn r = true → noSet → completes gatherWork (.gatherPool q))) ∧
  (r.isCx6 = true → ∀ n : Fin 512, q = .q n →
    (d.carries q Op.copy r → completes copyWork (.cx6Copy n)) ∧ (d.carries q Op.fill r → completes fillWork (.cx6Fill n)) ∧
    (d.carries q Op.gatherPool r → d.crdTurn r = true → noSet → completes gatherWork (.cx6GatherPool n))) ∧
  (d.carries q Op.bitwise r → completes bitwiseWork (.bitwise q)) ∧
  (d.carries q Op.matmul r → r.phase = 1 → completes matmulWork (.matmul q)) ∧
  (d.carries q Op.route r → r.phase = 5 → d.routeRunning.map (·.seq) = some r.seq →
    completes (writeRecords (keptExperts r) (toksOf r)) (.route q))

/-- A read-only work has its outcome: OBSERVE drops the retained copies that it names, PREFETCH_INDICES replaces the prefetch set of its queue, and
SLOT_BIND binds, frees or masks a slot. -/
def Obligations.StagingAndSlots : Prop := ∀ (s : State) (q : Req) (r : Run),
  let d := s.dev
  let ends (c : Cpl) (t : State) : Prop := Concludes r c d t.dev ∧ Changes [.cmd] noReg d t.dev
  (d.carries q Op.observe r → ∀ l tr, (observeTargets d r).run.run {} = (.ok l, tr) → tr.wrs = [] → d.eng.wins = [] →
    let hit (x : Ret) : Bool := x.dom == r.dom && l.any fun g => g.1 == x.node && decide (g.2 ≤ x.line) && decide (x.line < g.2 + 32768)
    Completes (.observe q) s fun t =>
      t.dev.own = { d.own with ret := d.own.ret.filter fun x => !hit x } ∧ Completed r { a := (d.own.ret.filter hit).length, b := r.par 0 2 } t.dev ∧
      ∀ a, t.dev.byte a = d.byte a) ∧
  (∀ n : Fin 512, q = .q n → d.carries q Op.prefetchIndices r → d.crdTurn r = true → ∀ k tr, (prefetchWork d r).run.run {} = (.ok k, tr) → tr.wrs = [] →
    Completes (.prefetchIndices q) s fun t =>
      t.dev.eng.pf = (d.eng.pf.filter fun x => x.queue != n.val) ++ [⟨n, r.dom, r.ctx, r.par 0 8, r.par 8 8, k.keys.map (·.2), none⟩] ∧
      Completed r { a := k.keys.length, b := k.drops } t.dev) ∧
  (d.carries q Op.slotBind r →
    let slot := r.par 0 1
    let mask := BitVec.ofNat 256 (r.par 16 32)
    let word (w : Nat) : Word := (mask >>> (64 * w)).setWidth 64
    let regs (a : Nat) : Prop := ∃ w < 4, a = A.RTE_SLOT_MASK slot w
    (∀ st dt, d.slotBindCheck r = some (st, dt) → Completes (.slotBind q) s (ends (fail st dt))) ∧
    (∀ tr, d.slotBindCheck r = none → r.par 1 1 = 0 →
      ((do let _ ← Machine.tr d r (r.par 8 8) .r; let _ ← Machine.tr d r (r.par 8 8) .w) : Rd Unit).run.run {} = (.ok (), tr) → Completes (.slotBind q) s fun t =>
        t.dev.slotBound slot r.dom r.ctx = true ∧ (t.dev.reg (A.RTE_SLOT_STATE slot)).toNat = r.par 8 8 ∧
        (∀ w < 4, t.dev.reg (A.RTE_SLOT_MASK slot w) = word w) ∧ Completed r {} t.dev ∧ ∀ a, t.dev.byte a = d.byte a) ∧
    (d.slotBindCheck r = none → r.par 1 1 = 1 → Completes (.slotBind q) s fun t =>
      t.dev.reg (A.RTE_SLOT_CFG slot) = 0 ∧ t.dev.reg (A.RTE_SLOT_STATE slot) = 0 ∧ (∀ w < 4, t.dev.reg (A.RTE_SLOT_MASK slot w) = 0) ∧
      Concludes r {} d t.dev ∧ Changes [.cmd] (fun a => a = A.RTE_SLOT_CFG slot ∨ a = A.RTE_SLOT_STATE slot ∨ regs a ∨ a = A.DOM_USE r.dom ∨
        a = A.RTE_STATUS) d t.dev) ∧
    (d.slotBindCheck r = none → r.par 1 1 = 2 → Completes (.slotBind q) s fun t =>
      (∀ w < 4, t.dev.reg (A.RTE_SLOT_MASK slot w) = word w) ∧ Concludes r {} d t.dev ∧ Changes [.cmd] regs d t.dev) ∧
    (d.slotBindCheck r = none → r.par 1 1 = 3 → Completes (.slotBind q) s fun t =>
      (∀ w < 4, t.dev.reg (A.RTE_SLOT_MASK slot w) = d.reg (A.RTE_SLOT_MASK slot w) ||| word w) ∧ Concludes r {} d t.dev ∧ Changes [.cmd] regs d t.dev))

/-- STREAM_WINDOW: ADMIT reserves what is free or is refused and counts as refused, RELEASE ends the job, CLOSE ends the window. The last fill of a window
stands in its tile's staging SRAM. -/
def Obligations.JobsAndWindows : Prop := ∀ (s : State) (n : Fin 512) (r : Run),
  let d := s.dev
  let job (st stage near far slots : Nat) : Job := ⟨n, st, d.tileFirst n, d.tileCount n, r.dom, stage, near, far, slots⟩
  let others := d.eng.jobs.filter fun x => x.queue != n.val
  (d.carries (.q n) Op.streamWindow r → r.phase = 0 → streamOk r = true → d.streamModeOk n r = true →
    (r.par 0 1 = 0 → d.admitCheck n r = none → Completes (.streamWindow (.q n)) s fun t =>
      t.dev.eng = { d.eng with jobs := others ++ [job 1 (r.par 8 8) (r.par 16 8) (r.par 24 8) (r.par 32 2)] } ∧ Concludes r {} d t.dev ∧
      Changes [.cmd, .eng] noReg d t.dev) ∧
    (∀ dt res, r.par 0 1 = 0 → d.admitCheck n r = some (dt, res) → Completes (.streamWindow (.q n)) s fun t =>
      t.dev.eng = (if (d.job n).map (·.st) = some 1 then d.eng else { d.eng with jobs := others ++ [job 2 0 0 0 0] }) ∧
      Concludes r { status := Sc.limit, detail := dt, result := res } d t.dev ∧ Changes [.cmd, .eng] noReg d t.dev) ∧
    (r.par 0 1 = 1 → Completes (.streamWindow (.q n)) s fun t =>
      t.dev.job n = none ∧ t.dev.window n = none ∧ (∀ x ∈ t.dev.eng.pf, x.queue ≠ n) ∧ (∀ x ∈ t.dev.own.ret, x.queue ≠ n) ∧
      t.dev.eng.jobs = others ∧ Completed r {} t.dev ∧ ∀ a, t.dev.byte a = d.byte a) ∧
    (r.par 0 1 = 4 → Completes (.streamWindow (.q n)) s fun t =>
      t.dev.window n = none ∧ t.dev.eng.jobs = d.eng.jobs ∧ (∀ x ∈ t.dev.own.ret, x.queue = n → x.kind ≠ 0) ∧ Completed r {} t.dev ∧
      Changes [.cmd, .eng, .own] noReg d t.dev)) ∧
  ∀ (tile : Fin 64) (w : Window) (b : Run) (layer i : Nat) (tg : Tgt) (ls : List Rline) (tr : Trail),
    let va := (w.layers.getD layer (0, 0)).1 + 4096 * i
    let w' := { w with done := w.done ++ [(layer, i, 0, 0)] }
    d.power < 2 → d.eng.wins = [w] → w.queue = n → w.nextAt tile = some (layer, i) → (∀ x < 64, w'.nextAt x = none) → w.first + w.count ≤ 64 →
    (d.cmd.runs.find? fun x => x.iss == .bg n.val && x.aux == [0, tile.val, layer, i]) = some b → d.runOf (.q n) = none →
    (tileRead va d b).run.run {} = (.ok (tg, ls), tr) → Completes (.stagingFillDone tile) s fun t =>
      t.dev.own = { d.own with ret :=
        (d.own.ret.filter fun x => !(x.queue == n.val && x.kind == 0 && x.layer == layer && x.idx == i)) ++ copiesOf d tile n 0 layer i b tg ls } ∧ t.dev.eng.wins = [w'] ∧
      t.dev.cmd = { d.cmd with runs := d.cmd.runs.filter fun x => x.seq != b.seq } ∧ ∀ a, t.dev.byte a = d.byte a

/-- ROW_REPLACE completes when each row taken has been applied or superseded, ROW_MIGRATE leaves its row to the replaces that wait once its switch is
ordered, and completes GRACE after it. The row whose image and map entry are written is applied. -/
def Obligations.RowChanges : Prop := ∀ (s : State) (q : Req) (r : Run) (key n k b : Nat) (e : Rpl) (w : Repl),
  let d := s.dev
  let settled (x : Rpl) : Rpl := { x with cur := none, step := 0, last := some d.now, fresh := false }
  (d.carries q Op.rowReplace r → d.crdTurn r = true → r.phase = 2 → r.aux = [n, k, b, 0, 0, 0] → k + b = n →
    (∀ x ∈ d.eng.rpl, x.cur.map (·.seq) ≠ some r.seq ∧ ∀ y ∈ x.waiting, y.seq ≠ r.seq) → Completes (.rowReplace q) s fun t =>
      Concludes r { detail := if b = 0 then 0 else 0xC1, a := k, b := b } d t.dev ∧ Changes [.cmd] noReg d t.dev) ∧
  (d.rplOf key = some e → e.migr = none → e.cur = some w → e.waiting = [] → e.step = 4 → d.only r → r.seq = w.seq → r.cpl = none → r.outs = 0 →
    r.op = Op.rowReplace → r.phase = 2 → r.aux = [n, k, b, 0, 0, 0] → k + 1 + b = n → Completes (.replaceApply key) s fun t =>
      t.dev.eng = { d.eng with rpl := d.eng.rpl.map fun x => if x.key = key then settled x else x } ∧
      Completed r { detail := if b = 0 then 0 else 0xC1, a := k + 1, b := b } t.dev ∧
      t.dev.fld A.CRD_RPL_CNT ⟨0, 48⟩ = min (d.fld A.CRD_RPL_CNT ⟨0, 48⟩ + 1) (2 ^ 48 - 1) ∧ Changes [.eng, .cmd] (· = A.CRD_RPL_CNT) d t.dev) ∧
  (d.carries q Op.rowMigrate r → d.crdTurn r = true → r.phase = 3 → r.outs = 0 → r.aux.length = 7 → r.aux.getD 0 0 = key → d.rplOf key = some e →
    e.waiting = [] → e.cur = none → Completes (.rowMigrate q) s fun t =>
      t.dev.eng = { d.eng with rpl := d.eng.rpl.map fun x => if x.key = key then { x with migr := none, last := some d.now, fresh := true } else x } ∧
      MovesOn r 4 (r.aux.set 6 d.now) d t.dev ∧ Changes [.eng, .cmd] noReg d t.dev) ∧
  (d.cmd.runs.find? (fun x => x.goes Op.rowMigrate && x.phase == 4 && x.aux.getD 0 0 == key) = some r → d.only r →
    let dt := r.aux.getD 4 0
    Completes (.migrateGraceEnd key) s fun t =>
      t.dev.now = max d.now (r.aux.getD 6 0 + d.grace) ∧ Counts A.CRD_MIG_CNT 1 d t.dev ∧
      Concludes r { status := if dt = 0 then Sc.ok else Sc.poisoned, detail := dt, a := r.aux.getD 5 0, result := r.aux.getD 2 0 } d t.dev ∧
      Changes [.now, .eng, .cmd] (· = A.CRD_MIG_CNT) d t.dev)

/-- SEARCH and the side-list commands complete once their last write is ordered; a MERGE starts on its index, lists the searches of the old snapshot when
its switch is ordered and completes when they have ended. -/
def Obligations.SearchCommands : Prop := ∀ (s : State) (q : Req) (r : Run),
  let d := s.dev
  let ends (c : Cpl) (t : State) : Prop := Concludes r c d t.dev ∧ Changes [.cmd] noReg d t.dev
  let counted (a by_ : Nat) (t : State) : Prop := t.dev.fld a ⟨0, 48⟩ = min (d.fld a ⟨0, 48⟩ + by_) (2 ^ 48 - 1)
  let p := spOf r
  let w (i : Nat) : Nat := r.aux.getD i 0
  let side (row : Instr) : Prop :=
    (r.phase = 0 → sideFields r = false → Completes row s (ends (fail Sc.malformed 0xD2))) ∧
    (r.phase = 3 → r.outs = 0 → Completes row s fun t =>
      counted A.SRH_SIDE_CNT (r.par 16 2) t ∧ Concludes r { a := r.par 16 2, result := (snapHdr r).seq } d t.dev ∧
      Changes [.cmd] (· = A.SRH_SIDE_CNT) d t.dev)
  (d.carries q Op.search r →
    (r.phase = 0 → p.ok = false → Completes (.search q) s (ends (fail Sc.malformed 0xD0))) ∧
    (r.phase = 3 → r.outs = 0 → Completes (.search q) s fun t =>
      counted A.SRH_SEARCH_CNT 1 t ∧
      Concludes r { detail := if w 3 = 0 then 0 else if p.mode = 0 then 0xD0 else 0xD1, a := w 2, b := w 3, result := if p.mode = 0 then w 1 else 0 } d t.dev ∧
      Changes [.cmd] (· = A.SRH_SEARCH_CNT) d t.dev)) ∧
  (d.carries q Op.sideAppend r → side (.sideAppend q)) ∧ (d.carries q Op.sideDelete r → side (.sideDelete q)) ∧
  (d.carries q Op.merge r →
    (∀ x tr, r.phase = 0 → r.par 0 8 % 64 = 0 → (openIndex d r true (r.par 0 8)).run.run {} = (.ok x, tr) → tr.wrs = [] →
      ((hdrOf x.2).kind = 1 → 16 ≤ r.par 8 2 ∧ r.par 8 2 ≤ 4096) → d.merging r.seq x.1 = false → d.canTrack x.1 = true → Completes (.merge q) s fun t =>
        (∃ r', t.dev.runSeq r.seq = some r' ∧ r'.phase = 1 ∧ r'.aux = [x.1] ∧ r'.cpl = none ∧ snapHdr r' = hdrOf x.2) ∧ ∀ a, t.dev.byte a = d.byte a) ∧
    (r.phase = 3 → r.outs = 0 → Completes (.mergeBuildDone q) s fun t =>
      MovesOn r 4 (r.aux ++ (d.cmd.runs.filter fun x => x.onIndex && x.op == Op.search && x.idxKey == r.idxKey).map (·.seq)) d t.dev ∧
      Changes [.cmd] noReg d t.dev) ∧
    (r.phase = 4 → (∀ x ∈ d.cmd.runs, x.seq ∈ r.aux.drop 6 → x.cpl.isSome = true) → Completes (.mergeDrainEnd q) s fun t =>
      Counts A.SRH_MERGE_CNT 1 d t.dev ∧ Concludes r { a := w 4, b := w 5, result := w 1 } d t.dev ∧ Changes [.cmd] (· = A.SRH_MERGE_CNT) d t.dev))
end

