-- ==== Sys2Proof/Laws/State.lean ====
section
/-! SUPPORT. One lemma per primitive change and field of the device: what the change makes of the field. -/

namespace Sys2Proof.Machine

@[simp] theorem Upd.now_now (t : Nat) (d : Dev) : ((Upd.now t).apply d).now = max d.now t := (rfl)
@[simp] theorem Upd.now_free (t : Nat) (d : Dev) : ((Upd.now t).apply d).free = d.free := (rfl)
@[simp] theorem Upd.now_csr (t : Nat) (d : Dev) : ((Upd.now t).apply d).csr = d.csr := (rfl)
@[simp] theorem Upd.now_mem (t : Nat) (d : Dev) : ((Upd.now t).apply d).mem = d.mem := (rfl)
@[simp] theorem Upd.now_store (t : Nat) (d : Dev) : ((Upd.now t).apply d).store = d.store := (rfl)
@[simp] theorem Upd.now_evq (t : Nat) (d : Dev) : ((Upd.now t).apply d).evq = d.evq := (rfl)
@[simp] theorem Upd.now_home (t : Nat) (d : Dev) : ((Upd.now t).apply d).home = d.home := (rfl)
@[simp] theorem Upd.now_own (t : Nat) (d : Dev) : ((Upd.now t).apply d).own = d.own := (rfl)
@[simp] theorem Upd.now_stn (t : Nat) (d : Dev) : ((Upd.now t).apply d).stn = d.stn := (rfl)
@[simp] theorem Upd.now_trf (t : Nat) (d : Dev) : ((Upd.now t).apply d).trf = d.trf := (rfl)
@[simp] theorem Upd.now_fab (t : Nat) (d : Dev) : ((Upd.now t).apply d).fab = d.fab := (rfl)
@[simp] theorem Upd.now_links (t : Nat) (d : Dev) : ((Upd.now t).apply d).links = d.links := (rfl)
@[simp] theorem Upd.now_cmd (t : Nat) (d : Dev) : ((Upd.now t).apply d).cmd = d.cmd := (rfl)
@[simp] theorem Upd.now_staged (t : Nat) (d : Dev) : ((Upd.now t).apply d).staged = d.staged := (rfl)
@[simp] theorem Upd.now_dom (t : Nat) (d : Dev) : ((Upd.now t).apply d).dom = d.dom := (rfl)
@[simp] theorem Upd.now_eng (t : Nat) (d : Dev) : ((Upd.now t).apply d).eng = d.eng := (rfl)
@[simp] theorem Upd.now_sys (t : Nat) (d : Dev) : ((Upd.now t).apply d).sys = d.sys := (rfl)

@[simp] theorem Upd.nowSet_now (t : Nat) (d : Dev) : ((Upd.nowSet t).apply d).now = t := (rfl)
@[simp] theorem Upd.nowSet_free (t : Nat) (d : Dev) : ((Upd.nowSet t).apply d).free = d.free := (rfl)
@[simp] theorem Upd.nowSet_csr (t : Nat) (d : Dev) : ((Upd.nowSet t).apply d).csr = d.csr := (rfl)
@[simp] theorem Upd.nowSet_mem (t : Nat) (d : Dev) : ((Upd.nowSet t).apply d).mem = d.mem := (rfl)
@[simp] theorem Upd.nowSet_store (t : Nat) (d : Dev) : ((Upd.nowSet t).apply d).store = d.store := (rfl)
@[simp] theorem Upd.nowSet_evq (t : Nat) (d : Dev) : ((Upd.nowSet t).apply d).evq = d.evq := (rfl)
@[simp] theorem Upd.nowSet_home (t : Nat) (d : Dev) : ((Upd.nowSet t).apply d).home = d.home := (rfl)
@[simp] theorem Upd.nowSet_own (t : Nat) (d : Dev) : ((Upd.nowSet t).apply d).own = d.own := (rfl)
@[simp] theorem Upd.nowSet_stn (t : Nat) (d : Dev) : ((Upd.nowSet t).apply d).stn = d.stn := (rfl)
@[simp] theorem Upd.nowSet_trf (t : Nat) (d : Dev) : ((Upd.nowSet t).apply d).trf = d.trf := (rfl)
@[simp] theorem Upd.nowSet_fab (t : Nat) (d : Dev) : ((Upd.nowSet t).apply d).fab = d.fab := (rfl)
@[simp] theorem Upd.nowSet_links (t : Nat) (d : Dev) : ((Upd.nowSet t).apply d).links = d.links := (rfl)
@[simp] theorem Upd.nowSet_cmd (t : Nat) (d : Dev) : ((Upd.nowSet t).apply d).cmd = d.cmd := (rfl)
@[simp] theorem Upd.nowSet_staged (t : Nat) (d : Dev) : ((Upd.nowSet t).apply d).staged = d.staged := (rfl)
@[simp] theorem Upd.nowSet_dom (t : Nat) (d : Dev) : ((Upd.nowSet t).apply d).dom = d.dom := (rfl)
@[simp] theorem Upd.nowSet_eng (t : Nat) (d : Dev) : ((Upd.nowSet t).apply d).eng = d.eng := (rfl)
@[simp] theorem Upd.nowSet_sys (t : Nat) (d : Dev) : ((Upd.nowSet t).apply d).sys = d.sys := (rfl)

@[simp] theorem Upd.free_now  (d : Dev) : (Upd.free.apply d).now = d.now := (rfl)
@[simp] theorem Upd.free_free (d : Dev) : (Upd.free.apply d).free = d.free + 1 := (rfl)
@[simp] theorem Upd.free_csr  (d : Dev) : (Upd.free.apply d).csr = d.csr := (rfl)
@[simp] theorem Upd.free_mem  (d : Dev) : (Upd.free.apply d).mem = d.mem := (rfl)
@[simp] theorem Upd.free_store  (d : Dev) : (Upd.free.apply d).store = d.store := (rfl)
@[simp] theorem Upd.free_evq  (d : Dev) : (Upd.free.apply d).evq = d.evq := (rfl)
@[simp] theorem Upd.free_home  (d : Dev) : (Upd.free.apply d).home = d.home := (rfl)
@[simp] theorem Upd.free_own  (d : Dev) : (Upd.free.apply d).own = d.own := (rfl)
@[simp] theorem Upd.free_stn  (d : Dev) : (Upd.free.apply d).stn = d.stn := (rfl)
@[simp] theorem Upd.free_trf  (d : Dev) : (Upd.free.apply d).trf = d.trf := (rfl)
@[simp] theorem Upd.free_fab  (d : Dev) : (Upd.free.apply d).fab = d.fab := (rfl)
@[simp] theorem Upd.free_links  (d : Dev) : (Upd.free.apply d).links = d.links := (rfl)
@[simp] theorem Upd.free_cmd  (d : Dev) : (Upd.free.apply d).cmd = d.cmd := (rfl)
@[simp] theorem Upd.free_staged  (d : Dev) : (Upd.free.apply d).staged = d.staged := (rfl)
@[simp] theorem Upd.free_dom  (d : Dev) : (Upd.free.apply d).dom = d.dom := (rfl)
@[simp] theorem Upd.free_eng  (d : Dev) : (Upd.free.apply d).eng = d.eng := (rfl)
@[simp] theorem Upd.free_sys  (d : Dev) : (Upd.free.apply d).sys = d.sys := (rfl)

@[simp] theorem Upd.csr_now (a : Nat) (v : BitVec 64) (d : Dev) : ((Upd.csr a v).apply d).now = d.now := by simp only [Upd.apply]; split <;> rfl
@[simp] theorem Upd.csr_free (a : Nat) (v : BitVec 64) (d : Dev) : ((Upd.csr a v).apply d).free = d.free := by simp only [Upd.apply]; split <;> rfl
@[simp] theorem Upd.csr_mem (a : Nat) (v : BitVec 64) (d : Dev) : ((Upd.csr a v).apply d).mem = d.mem := by simp only [Upd.apply]; split <;> rfl
@[simp] theorem Upd.csr_store (a : Nat) (v : BitVec 64) (d : Dev) : ((Upd.csr a v).apply d).store = d.store := by simp only [Upd.apply]; split <;> rfl
@[simp] theorem Upd.csr_evq (a : Nat) (v : BitVec 64) (d : Dev) : ((Upd.csr a v).apply d).evq = d.evq := by simp only [Upd.apply]; split <;> rfl
@[simp] theorem Upd.csr_home (a : Nat) (v : BitVec 64) (d : Dev) : ((Upd.csr a v).apply d).home = d.home := by simp only [Upd.apply]; split <;> rfl
@[simp] theorem Upd.csr_own (a : Nat) (v : BitVec 64) (d : Dev) : ((Upd.csr a v).apply d).own = d.own := by simp only [Upd.apply]; split <;> rfl
@[simp] theorem Upd.csr_stn (a : Nat) (v : BitVec 64) (d : Dev) : ((Upd.csr a v).apply d).stn = d.stn := by simp only [Upd.apply]; split <;> rfl
@[simp] theorem Upd.csr_trf (a : Nat) (v : BitVec 64) (d : Dev) : ((Upd.csr a v).apply d).trf = d.trf := by simp only [Upd.apply]; split <;> rfl
@[simp] theorem Upd.csr_fab (a : Nat) (v : BitVec 64) (d : Dev) : ((Upd.csr a v).apply d).fab = d.fab := by simp only [Upd.apply]; split <;> rfl
@[simp] theorem Upd.csr_links (a : Nat) (v : BitVec 64) (d : Dev) : ((Upd.csr a v).apply d).links = d.links := by simp only [Upd.apply]; split <;> rfl
@[simp] theorem Upd.csr_cmd (a : Nat) (v : BitVec 64) (d : Dev) : ((Upd.csr a v).apply d).cmd = d.cmd := by simp only [Upd.apply]; split <;> rfl
@[simp] theorem Upd.csr_staged (a : Nat) (v : BitVec 64) (d : Dev) : ((Upd.csr a v).apply d).staged = d.staged := by simp only [Upd.apply]; split <;> rfl
@[simp] theorem Upd.csr_dom (a : Nat) (v : BitVec 64) (d : Dev) : ((Upd.csr a v).apply d).dom = d.dom := by simp only [Upd.apply]; split <;> rfl
@[simp] theorem Upd.csr_eng (a : Nat) (v : BitVec 64) (d : Dev) : ((Upd.csr a v).apply d).eng = d.eng := by simp only [Upd.apply]; split <;> rfl
@[simp] theorem Upd.csr_sys (a : Nat) (v : BitVec 64) (d : Dev) : ((Upd.csr a v).apply d).sys = d.sys := by simp only [Upd.apply]; split <;> rfl

@[simp] theorem Upd.csrReset_now (k : List Nat) (d : Dev) : ((Upd.csrReset k).apply d).now = d.now := (rfl)
@[simp] theorem Upd.csrReset_free (k : List Nat) (d : Dev) : ((Upd.csrReset k).apply d).free = d.free := (rfl)
@[simp] theorem Upd.csrReset_mem (k : List Nat) (d : Dev) : ((Upd.csrReset k).apply d).mem = d.mem := (rfl)
@[simp] theorem Upd.csrReset_store (k : List Nat) (d : Dev) : ((Upd.csrReset k).apply d).store = d.store := (rfl)
@[simp] theorem Upd.csrReset_evq (k : List Nat) (d : Dev) : ((Upd.csrReset k).apply d).evq = d.evq := (rfl)
@[simp] theorem Upd.csrReset_home (k : List Nat) (d : Dev) : ((Upd.csrReset k).apply d).home = d.home := (rfl)
@[simp] theorem Upd.csrReset_own (k : List Nat) (d : Dev) : ((Upd.csrReset k).apply d).own = d.own := (rfl)
@[simp] theorem Upd.csrReset_stn (k : List Nat) (d : Dev) : ((Upd.csrReset k).apply d).stn = d.stn := (rfl)
@[simp] theorem Upd.csrReset_trf (k : List Nat) (d : Dev) : ((Upd.csrReset k).apply d).trf = d.trf := (rfl)
@[simp] theorem Upd.csrReset_fab (k : List Nat) (d : Dev) : ((Upd.csrReset k).apply d).fab = d.fab := (rfl)
@[simp] theorem Upd.csrReset_links (k : List Nat) (d : Dev) : ((Upd.csrReset k).apply d).links = d.links := (rfl)
@[simp] theorem Upd.csrReset_cmd (k : List Nat) (d : Dev) : ((Upd.csrReset k).apply d).cmd = d.cmd := (rfl)
@[simp] theorem Upd.csrReset_staged (k : List Nat) (d : Dev) : ((Upd.csrReset k).apply d).staged = d.staged := (rfl)
@[simp] theorem Upd.csrReset_dom (k : List Nat) (d : Dev) : ((Upd.csrReset k).apply d).dom = d.dom := (rfl)
@[simp] theorem Upd.csrReset_eng (k : List Nat) (d : Dev) : ((Upd.csrReset k).apply d).eng = d.eng := (rfl)
@[simp] theorem Upd.csrReset_sys (k : List Nat) (d : Dev) : ((Upd.csrReset k).apply d).sys = d.sys := (rfl)

@[simp] theorem Upd.csrBlock_now (lo : Nat) (hi : Nat) (d : Dev) : ((Upd.csrBlock lo hi).apply d).now = d.now := (rfl)
@[simp] theorem Upd.csrBlock_free (lo : Nat) (hi : Nat) (d : Dev) : ((Upd.csrBlock lo hi).apply d).free = d.free := (rfl)
@[simp] theorem Upd.csrBlock_mem (lo : Nat) (hi : Nat) (d : Dev) : ((Upd.csrBlock lo hi).apply d).mem = d.mem := (rfl)
@[simp] theorem Upd.csrBlock_store (lo : Nat) (hi : Nat) (d : Dev) : ((Upd.csrBlock lo hi).apply d).store = d.store := (rfl)
@[simp] theorem Upd.csrBlock_evq (lo : Nat) (hi : Nat) (d : Dev) : ((Upd.csrBlock lo hi).apply d).evq = d.evq := (rfl)
@[simp] theorem Upd.csrBlock_home (lo : Nat) (hi : Nat) (d : Dev) : ((Upd.csrBlock lo hi).apply d).home = d.home := (rfl)
@[simp] theorem Upd.csrBlock_own (lo : Nat) (hi : Nat) (d : Dev) : ((Upd.csrBlock lo hi).apply d).own = d.own := (rfl)
@[simp] theorem Upd.csrBlock_stn (lo : Nat) (hi : Nat) (d : Dev) : ((Upd.csrBlock lo hi).apply d).stn = d.stn := (rfl)
@[simp] theorem Upd.csrBlock_trf (lo : Nat) (hi : Nat) (d : Dev) : ((Upd.csrBlock lo hi).apply d).trf = d.trf := (rfl)
@[simp] theorem Upd.csrBlock_fab (lo : Nat) (hi : Nat) (d : Dev) : ((Upd.csrBlock lo hi).apply d).fab = d.fab := (rfl)
@[simp] theorem Upd.csrBlock_links (lo : Nat) (hi : Nat) (d : Dev) : ((Upd.csrBlock lo hi).apply d).links = d.links := (rfl)
@[simp] theorem Upd.csrBlock_cmd (lo : Nat) (hi : Nat) (d : Dev) : ((Upd.csrBlock lo hi).apply d).cmd = d.cmd := (rfl)
@[simp] theorem Upd.csrBlock_staged (lo : Nat) (hi : Nat) (d : Dev) : ((Upd.csrBlock lo hi).apply d).staged = d.staged := (rfl)
@[simp] theorem Upd.csrBlock_dom (lo : Nat) (hi : Nat) (d : Dev) : ((Upd.csrBlock lo hi).apply d).dom = d.dom := (rfl)
@[simp] theorem Upd.csrBlock_eng (lo : Nat) (hi : Nat) (d : Dev) : ((Upd.csrBlock lo hi).apply d).eng = d.eng := (rfl)
@[simp] theorem Upd.csrBlock_sys (lo : Nat) (hi : Nat) (d : Dev) : ((Upd.csrBlock lo hi).apply d).sys = d.sys := (rfl)

@[simp] theorem Upd.mem_now (a : Nat) (b : BitVec 8) (d : Dev) : ((Upd.mem a b).apply d).now = d.now := by simp only [Upd.apply]; split <;> rfl
@[simp] theorem Upd.mem_free (a : Nat) (b : BitVec 8) (d : Dev) : ((Upd.mem a b).apply d).free = d.free := by simp only [Upd.apply]; split <;> rfl
@[simp] theorem Upd.mem_csr (a : Nat) (b : BitVec 8) (d : Dev) : ((Upd.mem a b).apply d).csr = d.csr := by simp only [Upd.apply]; split <;> rfl
@[simp] theorem Upd.mem_store (a : Nat) (b : BitVec 8) (d : Dev) : ((Upd.mem a b).apply d).store = d.store := by simp only [Upd.apply]; split <;> rfl
@[simp] theorem Upd.mem_evq (a : Nat) (b : BitVec 8) (d : Dev) : ((Upd.mem a b).apply d).evq = d.evq := by simp only [Upd.apply]; split <;> rfl
@[simp] theorem Upd.mem_home (a : Nat) (b : BitVec 8) (d : Dev) : ((Upd.mem a b).apply d).home = d.home := by simp only [Upd.apply]; split <;> rfl
@[simp] theorem Upd.mem_own (a : Nat) (b : BitVec 8) (d : Dev) : ((Upd.mem a b).apply d).own = d.own := by simp only [Upd.apply]; split <;> rfl
@[simp] theorem Upd.mem_stn (a : Nat) (b : BitVec 8) (d : Dev) : ((Upd.mem a b).apply d).stn = d.stn := by simp only [Upd.apply]; split <;> rfl
@[simp] theorem Upd.mem_trf (a : Nat) (b : BitVec 8) (d : Dev) : ((Upd.mem a b).apply d).trf = d.trf := by simp only [Upd.apply]; split <;> rfl
@[simp] theorem Upd.mem_fab (a : Nat) (b : BitVec 8) (d : Dev) : ((Upd.mem a b).apply d).fab = d.fab := by simp only [Upd.apply]; split <;> rfl
@[simp] theorem Upd.mem_links (a : Nat) (b : BitVec 8) (d : Dev) : ((Upd.mem a b).apply d).links = d.links := by simp only [Upd.apply]; split <;> rfl
@[simp] theorem Upd.mem_cmd (a : Nat) (b : BitVec 8) (d : Dev) : ((Upd.mem a b).apply d).cmd = d.cmd := by simp only [Upd.apply]; split <;> rfl
@[simp] theorem Upd.mem_staged (a : Nat) (b : BitVec 8) (d : Dev) : ((Upd.mem a b).apply d).staged = d.staged := by simp only [Upd.apply]; split <;> rfl
@[simp] theorem Upd.mem_dom (a : Nat) (b : BitVec 8) (d : Dev) : ((Upd.mem a b).apply d).dom = d.dom := by simp only [Upd.apply]; split <;> rfl
@[simp] theorem Upd.mem_eng (a : Nat) (b : BitVec 8) (d : Dev) : ((Upd.mem a b).apply d).eng = d.eng := by simp only [Upd.apply]; split <;> rfl
@[simp] theorem Upd.mem_sys (a : Nat) (b : BitVec 8) (d : Dev) : ((Upd.mem a b).apply d).sys = d.sys := by simp only [Upd.apply]; split <;> rfl

@[simp] theorem Upd.memClear_now (lo : Nat) (hi : Nat) (d : Dev) : ((Upd.memClear lo hi).apply d).now = d.now := (rfl)
@[simp] theorem Upd.memClear_free (lo : Nat) (hi : Nat) (d : Dev) : ((Upd.memClear lo hi).apply d).free = d.free := (rfl)
@[simp] theorem Upd.memClear_csr (lo : Nat) (hi : Nat) (d : Dev) : ((Upd.memClear lo hi).apply d).csr = d.csr := (rfl)
@[simp] theorem Upd.memClear_store (lo : Nat) (hi : Nat) (d : Dev) : ((Upd.memClear lo hi).apply d).store = d.store := (rfl)
@[simp] theorem Upd.memClear_evq (lo : Nat) (hi : Nat) (d : Dev) : ((Upd.memClear lo hi).apply d).evq = d.evq := (rfl)
@[simp] theorem Upd.memClear_home (lo : Nat) (hi : Nat) (d : Dev) : ((Upd.memClear lo hi).apply d).home = d.home := (rfl)
@[simp] theorem Upd.memClear_own (lo : Nat) (hi : Nat) (d : Dev) : ((Upd.memClear lo hi).apply d).own = d.own := (rfl)
@[simp] theorem Upd.memClear_stn (lo : Nat) (hi : Nat) (d : Dev) : ((Upd.memClear lo hi).apply d).stn = d.stn := (rfl)
@[simp] theorem Upd.memClear_trf (lo : Nat) (hi : Nat) (d : Dev) : ((Upd.memClear lo hi).apply d).trf = d.trf := (rfl)
@[simp] theorem Upd.memClear_fab (lo : Nat) (hi : Nat) (d : Dev) : ((Upd.memClear lo hi).apply d).fab = d.fab := (rfl)
@[simp] theorem Upd.memClear_links (lo : Nat) (hi : Nat) (d : Dev) : ((Upd.memClear lo hi).apply d).links = d.links := (rfl)
@[simp] theorem Upd.memClear_cmd (lo : Nat) (hi : Nat) (d : Dev) : ((Upd.memClear lo hi).apply d).cmd = d.cmd := (rfl)
@[simp] theorem Upd.memClear_staged (lo : Nat) (hi : Nat) (d : Dev) : ((Upd.memClear lo hi).apply d).staged = d.staged := (rfl)
@[simp] theorem Upd.memClear_dom (lo : Nat) (hi : Nat) (d : Dev) : ((Upd.memClear lo hi).apply d).dom = d.dom := (rfl)
@[simp] theorem Upd.memClear_eng (lo : Nat) (hi : Nat) (d : Dev) : ((Upd.memClear lo hi).apply d).eng = d.eng := (rfl)
@[simp] theorem Upd.memClear_sys (lo : Nat) (hi : Nat) (d : Dev) : ((Upd.memClear lo hi).apply d).sys = d.sys := (rfl)

@[simp] theorem Upd.store_now (x : StoreSt) (d : Dev) : ((Upd.store x).apply d).now = d.now := (rfl)
@[simp] theorem Upd.store_free (x : StoreSt) (d : Dev) : ((Upd.store x).apply d).free = d.free := (rfl)
@[simp] theorem Upd.store_csr (x : StoreSt) (d : Dev) : ((Upd.store x).apply d).csr = d.csr := (rfl)
@[simp] theorem Upd.store_mem (x : StoreSt) (d : Dev) : ((Upd.store x).apply d).mem = d.mem := (rfl)
@[simp] theorem Upd.store_store (x : StoreSt) (d : Dev) : ((Upd.store x).apply d).store = x := (rfl)
@[simp] theorem Upd.store_evq (x : StoreSt) (d : Dev) : ((Upd.store x).apply d).evq = d.evq := (rfl)
@[simp] theorem Upd.store_home (x : StoreSt) (d : Dev) : ((Upd.store x).apply d).home = d.home := (rfl)
@[simp] theorem Upd.store_own (x : StoreSt) (d : Dev) : ((Upd.store x).apply d).own = d.own := (rfl)
@[simp] theorem Upd.store_stn (x : StoreSt) (d : Dev) : ((Upd.store x).apply d).stn = d.stn := (rfl)
@[simp] theorem Upd.store_trf (x : StoreSt) (d : Dev) : ((Upd.store x).apply d).trf = d.trf := (rfl)
@[simp] theorem Upd.store_fab (x : StoreSt) (d : Dev) : ((Upd.store x).apply d).fab = d.fab := (rfl)
@[simp] theorem Upd.store_links (x : StoreSt) (d : Dev) : ((Upd.store x).apply d).links = d.links := (rfl)
@[simp] theorem Upd.store_cmd (x : StoreSt) (d : Dev) : ((Upd.store x).apply d).cmd = d.cmd := (rfl)
@[simp] theorem Upd.store_staged (x : StoreSt) (d : Dev) : ((Upd.store x).apply d).staged = d.staged := (rfl)
@[simp] theorem Upd.store_dom (x : StoreSt) (d : Dev) : ((Upd.store x).apply d).dom = d.dom := (rfl)
@[simp] theorem Upd.store_eng (x : StoreSt) (d : Dev) : ((Upd.store x).apply d).eng = d.eng := (rfl)
@[simp] theorem Upd.store_sys (x : StoreSt) (d : Dev) : ((Upd.store x).apply d).sys = d.sys := (rfl)

@[simp] theorem Upd.evq_now (x : EvqSt) (d : Dev) : ((Upd.evq x).apply d).now = d.now := (rfl)
@[simp] theorem Upd.evq_free (x : EvqSt) (d : Dev) : ((Upd.evq x).apply d).free = d.free := (rfl)
@[simp] theorem Upd.evq_csr (x : EvqSt) (d : Dev) : ((Upd.evq x).apply d).csr = d.csr := (rfl)
@[simp] theorem Upd.evq_mem (x : EvqSt) (d : Dev) : ((Upd.evq x).apply d).mem = d.mem := (rfl)
@[simp] theorem Upd.evq_store (x : EvqSt) (d : Dev) : ((Upd.evq x).apply d).store = d.store := (rfl)
@[simp] theorem Upd.evq_evq (x : EvqSt) (d : Dev) : ((Upd.evq x).apply d).evq = x := (rfl)
@[simp] theorem Upd.evq_home (x : EvqSt) (d : Dev) : ((Upd.evq x).apply d).home = d.home := (rfl)
@[simp] theorem Upd.evq_own (x : EvqSt) (d : Dev) : ((Upd.evq x).apply d).own = d.own := (rfl)
@[simp] theorem Upd.evq_stn (x : EvqSt) (d : Dev) : ((Upd.evq x).apply d).stn = d.stn := (rfl)
@[simp] theorem Upd.evq_trf (x : EvqSt) (d : Dev) : ((Upd.evq x).apply d).trf = d.trf := (rfl)
@[simp] theorem Upd.evq_fab (x : EvqSt) (d : Dev) : ((Upd.evq x).apply d).fab = d.fab := (rfl)
@[simp] theorem Upd.evq_links (x : EvqSt) (d : Dev) : ((Upd.evq x).apply d).links = d.links := (rfl)
@[simp] theorem Upd.evq_cmd (x : EvqSt) (d : Dev) : ((Upd.evq x).apply d).cmd = d.cmd := (rfl)
@[simp] theorem Upd.evq_staged (x : EvqSt) (d : Dev) : ((Upd.evq x).apply d).staged = d.staged := (rfl)
@[simp] theorem Upd.evq_dom (x : EvqSt) (d : Dev) : ((Upd.evq x).apply d).dom = d.dom := (rfl)
@[simp] theorem Upd.evq_eng (x : EvqSt) (d : Dev) : ((Upd.evq x).apply d).eng = d.eng := (rfl)
@[simp] theorem Upd.evq_sys (x : EvqSt) (d : Dev) : ((Upd.evq x).apply d).sys = d.sys := (rfl)

@[simp] theorem Upd.home_now (x : HomeSt) (d : Dev) : ((Upd.home x).apply d).now = d.now := (rfl)
@[simp] theorem Upd.home_free (x : HomeSt) (d : Dev) : ((Upd.home x).apply d).free = d.free := (rfl)
@[simp] theorem Upd.home_csr (x : HomeSt) (d : Dev) : ((Upd.home x).apply d).csr = d.csr := (rfl)
@[simp] theorem Upd.home_mem (x : HomeSt) (d : Dev) : ((Upd.home x).apply d).mem = d.mem := (rfl)
@[simp] theorem Upd.home_store (x : HomeSt) (d : Dev) : ((Upd.home x).apply d).store = d.store := (rfl)
@[simp] theorem Upd.home_evq (x : HomeSt) (d : Dev) : ((Upd.home x).apply d).evq = d.evq := (rfl)
@[simp] theorem Upd.home_home (x : HomeSt) (d : Dev) : ((Upd.home x).apply d).home = x := (rfl)
@[simp] theorem Upd.home_own (x : HomeSt) (d : Dev) : ((Upd.home x).apply d).own = d.own := (rfl)
@[simp] theorem Upd.home_stn (x : HomeSt) (d : Dev) : ((Upd.home x).apply d).stn = d.stn := (rfl)
@[simp] theorem Upd.home_trf (x : HomeSt) (d : Dev) : ((Upd.home x).apply d).trf = d.trf := (rfl)
@[simp] theorem Upd.home_fab (x : HomeSt) (d : Dev) : ((Upd.home x).apply d).fab = d.fab := (rfl)
@[simp] theorem Upd.home_links (x : HomeSt) (d : Dev) : ((Upd.home x).apply d).links = d.links := (rfl)
@[simp] theorem Upd.home_cmd (x : HomeSt) (d : Dev) : ((Upd.home x).apply d).cmd = d.cmd := (rfl)
@[simp] theorem Upd.home_staged (x : HomeSt) (d : Dev) : ((Upd.home x).apply d).staged = d.staged := (rfl)
@[simp] theorem Upd.home_dom (x : HomeSt) (d : Dev) : ((Upd.home x).apply d).dom = d.dom := (rfl)
@[simp] theorem Upd.home_eng (x : HomeSt) (d : Dev) : ((Upd.home x).apply d).eng = d.eng := (rfl)
@[simp] theorem Upd.home_sys (x : HomeSt) (d : Dev) : ((Upd.home x).apply d).sys = d.sys := (rfl)

@[simp] theorem Upd.own_now (x : OwnSt) (d : Dev) : ((Upd.own x).apply d).now = d.now := (rfl)
@[simp] theorem Upd.own_free (x : OwnSt) (d : Dev) : ((Upd.own x).apply d).free = d.free := (rfl)
@[simp] theorem Upd.own_csr (x : OwnSt) (d : Dev) : ((Upd.own x).apply d).csr = d.csr := (rfl)
@[simp] theorem Upd.own_mem (x : OwnSt) (d : Dev) : ((Upd.own x).apply d).mem = d.mem := (rfl)
@[simp] theorem Upd.own_store (x : OwnSt) (d : Dev) : ((Upd.own x).apply d).store = d.store := (rfl)
@[simp] theorem Upd.own_evq (x : OwnSt) (d : Dev) : ((Upd.own x).apply d).evq = d.evq := (rfl)
@[simp] theorem Upd.own_home (x : OwnSt) (d : Dev) : ((Upd.own x).apply d).home = d.home := (rfl)
@[simp] theorem Upd.own_own (x : OwnSt) (d : Dev) : ((Upd.own x).apply d).own = x := (rfl)
@[simp] theorem Upd.own_stn (x : OwnSt) (d : Dev) : ((Upd.own x).apply d).stn = d.stn := (rfl)
@[simp] theorem Upd.own_trf (x : OwnSt) (d : Dev) : ((Upd.own x).apply d).trf = d.trf := (rfl)
@[simp] theorem Upd.own_fab (x : OwnSt) (d : Dev) : ((Upd.own x).apply d).fab = d.fab := (rfl)
@[simp] theorem Upd.own_links (x : OwnSt) (d : Dev) : ((Upd.own x).apply d).links = d.links := (rfl)
@[simp] theorem Upd.own_cmd (x : OwnSt) (d : Dev) : ((Upd.own x).apply d).cmd = d.cmd := (rfl)
@[simp] theorem Upd.own_staged (x : OwnSt) (d : Dev) : ((Upd.own x).apply d).staged = d.staged := (rfl)
@[simp] theorem Upd.own_dom (x : OwnSt) (d : Dev) : ((Upd.own x).apply d).dom = d.dom := (rfl)
@[simp] theorem Upd.own_eng (x : OwnSt) (d : Dev) : ((Upd.own x).apply d).eng = d.eng := (rfl)
@[simp] theorem Upd.own_sys (x : OwnSt) (d : Dev) : ((Upd.own x).apply d).sys = d.sys := (rfl)

@[simp] theorem Upd.stn_now (x : StnSt) (d : Dev) : ((Upd.stn x).apply d).now = d.now := (rfl)
@[simp] theorem Upd.stn_free (x : StnSt) (d : Dev) : ((Upd.stn x).apply d).free = d.free := (rfl)
@[simp] theorem Upd.stn_csr (x : StnSt) (d : Dev) : ((Upd.stn x).apply d).csr = d.csr := (rfl)
@[simp] theorem Upd.stn_mem (x : StnSt) (d : Dev) : ((Upd.stn x).apply d).mem = d.mem := (rfl)
@[simp] theorem Upd.stn_store (x : StnSt) (d : Dev) : ((Upd.stn x).apply d).store = d.store := (rfl)
@[simp] theorem Upd.stn_evq (x : StnSt) (d : Dev) : ((Upd.stn x).apply d).evq = d.evq := (rfl)
@[simp] theorem Upd.stn_home (x : StnSt) (d : Dev) : ((Upd.stn x).apply d).home = d.home := (rfl)
@[simp] theorem Upd.stn_own (x : StnSt) (d : Dev) : ((Upd.stn x).apply d).own = d.own := (rfl)
@[simp] theorem Upd.stn_stn (x : StnSt) (d : Dev) : ((Upd.stn x).apply d).stn = x := (rfl)
@[simp] theorem Upd.stn_trf (x : StnSt) (d : Dev) : ((Upd.stn x).apply d).trf = d.trf := (rfl)
@[simp] theorem Upd.stn_fab (x : StnSt) (d : Dev) : ((Upd.stn x).apply d).fab = d.fab := (rfl)
@[simp] theorem Upd.stn_links (x : StnSt) (d : Dev) : ((Upd.stn x).apply d).links = d.links := (rfl)
@[simp] theorem Upd.stn_cmd (x : StnSt) (d : Dev) : ((Upd.stn x).apply d).cmd = d.cmd := (rfl)
@[simp] theorem Upd.stn_staged (x : StnSt) (d : Dev) : ((Upd.stn x).apply d).staged = d.staged := (rfl)
@[simp] theorem Upd.stn_dom (x : StnSt) (d : Dev) : ((Upd.stn x).apply d).dom = d.dom := (rfl)
@[simp] theorem Upd.stn_eng (x : StnSt) (d : Dev) : ((Upd.stn x).apply d).eng = d.eng := (rfl)
@[simp] theorem Upd.stn_sys (x : StnSt) (d : Dev) : ((Upd.stn x).apply d).sys = d.sys := (rfl)

@[simp] theorem Upd.trf_now (x : TrfSt) (d : Dev) : ((Upd.trf x).apply d).now = d.now := (rfl)
@[simp] theorem Upd.trf_free (x : TrfSt) (d : Dev) : ((Upd.trf x).apply d).free = d.free := (rfl)
@[simp] theorem Upd.trf_csr (x : TrfSt) (d : Dev) : ((Upd.trf x).apply d).csr = d.csr := (rfl)
@[simp] theorem Upd.trf_mem (x : TrfSt) (d : Dev) : ((Upd.trf x).apply d).mem = d.mem := (rfl)
@[simp] theorem Upd.trf_store (x : TrfSt) (d : Dev) : ((Upd.trf x).apply d).store = d.store := (rfl)
@[simp] theorem Upd.trf_evq (x : TrfSt) (d : Dev) : ((Upd.trf x).apply d).evq = d.evq := (rfl)
@[simp] theorem Upd.trf_home (x : TrfSt) (d : Dev) : ((Upd.trf x).apply d).home = d.home := (rfl)
@[simp] theorem Upd.trf_own (x : TrfSt) (d : Dev) : ((Upd.trf x).apply d).own = d.own := (rfl)
@[simp] theorem Upd.trf_stn (x : TrfSt) (d : Dev) : ((Upd.trf x).apply d).stn = d.stn := (rfl)
@[simp] theorem Upd.trf_trf (x : TrfSt) (d : Dev) : ((Upd.trf x).apply d).trf = x := (rfl)
@[simp] theorem Upd.trf_fab (x : TrfSt) (d : Dev) : ((Upd.trf x).apply d).fab = d.fab := (rfl)
@[simp] theorem Upd.trf_links (x : TrfSt) (d : Dev) : ((Upd.trf x).apply d).links = d.links := (rfl)
@[simp] theorem Upd.trf_cmd (x : TrfSt) (d : Dev) : ((Upd.trf x).apply d).cmd = d.cmd := (rfl)
@[simp] theorem Upd.trf_staged (x : TrfSt) (d : Dev) : ((Upd.trf x).apply d).staged = d.staged := (rfl)
@[simp] theorem Upd.trf_dom (x : TrfSt) (d : Dev) : ((Upd.trf x).apply d).dom = d.dom := (rfl)
@[simp] theorem Upd.trf_eng (x : TrfSt) (d : Dev) : ((Upd.trf x).apply d).eng = d.eng := (rfl)
@[simp] theorem Upd.trf_sys (x : TrfSt) (d : Dev) : ((Upd.trf x).apply d).sys = d.sys := (rfl)

@[simp] theorem Upd.fab_now (x : FabSt) (d : Dev) : ((Upd.fab x).apply d).now = d.now := (rfl)
@[simp] theorem Upd.fab_free (x : FabSt) (d : Dev) : ((Upd.fab x).apply d).free = d.free := (rfl)
@[simp] theorem Upd.fab_csr (x : FabSt) (d : Dev) : ((Upd.fab x).apply d).csr = d.csr := (rfl)
@[simp] theorem Upd.fab_mem (x : FabSt) (d : Dev) : ((Upd.fab x).apply d).mem = d.mem := (rfl)
@[simp] theorem Upd.fab_store (x : FabSt) (d : Dev) : ((Upd.fab x).apply d).store = d.store := (rfl)
@[simp] theorem Upd.fab_evq (x : FabSt) (d : Dev) : ((Upd.fab x).apply d).evq = d.evq := (rfl)
@[simp] theorem Upd.fab_home (x : FabSt) (d : Dev) : ((Upd.fab x).apply d).home = d.home := (rfl)
@[simp] theorem Upd.fab_own (x : FabSt) (d : Dev) : ((Upd.fab x).apply d).own = d.own := (rfl)
@[simp] theorem Upd.fab_stn (x : FabSt) (d : Dev) : ((Upd.fab x).apply d).stn = d.stn := (rfl)
@[simp] theorem Upd.fab_trf (x : FabSt) (d : Dev) : ((Upd.fab x).apply d).trf = d.trf := (rfl)
@[simp] theorem Upd.fab_fab (x : FabSt) (d : Dev) : ((Upd.fab x).apply d).fab = x := (rfl)
@[simp] theorem Upd.fab_links (x : FabSt) (d : Dev) : ((Upd.fab x).apply d).links = d.links := (rfl)
@[simp] theorem Upd.fab_cmd (x : FabSt) (d : Dev) : ((Upd.fab x).apply d).cmd = d.cmd := (rfl)
@[simp] theorem Upd.fab_staged (x : FabSt) (d : Dev) : ((Upd.fab x).apply d).staged = d.staged := (rfl)
@[simp] theorem Upd.fab_dom (x : FabSt) (d : Dev) : ((Upd.fab x).apply d).dom = d.dom := (rfl)
@[simp] theorem Upd.fab_eng (x : FabSt) (d : Dev) : ((Upd.fab x).apply d).eng = d.eng := (rfl)
@[simp] theorem Upd.fab_sys (x : FabSt) (d : Dev) : ((Upd.fab x).apply d).sys = d.sys := (rfl)

@[simp] theorem Upd.links_now (x : List Link) (d : Dev) : ((Upd.links x).apply d).now = d.now := (rfl)
@[simp] theorem Upd.links_free (x : List Link) (d : Dev) : ((Upd.links x).apply d).free = d.free := (rfl)
@[simp] theorem Upd.links_csr (x : List Link) (d : Dev) : ((Upd.links x).apply d).csr = d.csr := (rfl)
@[simp] theorem Upd.links_mem (x : List Link) (d : Dev) : ((Upd.links x).apply d).mem = d.mem := (rfl)
@[simp] theorem Upd.links_store (x : List Link) (d : Dev) : ((Upd.links x).apply d).store = d.store := (rfl)
@[simp] theorem Upd.links_evq (x : List Link) (d : Dev) : ((Upd.links x).apply d).evq = d.evq := (rfl)
@[simp] theorem Upd.links_home (x : List Link) (d : Dev) : ((Upd.links x).apply d).home = d.home := (rfl)
@[simp] theorem Upd.links_own (x : List Link) (d : Dev) : ((Upd.links x).apply d).own = d.own := (rfl)
@[simp] theorem Upd.links_stn (x : List Link) (d : Dev) : ((Upd.links x).apply d).stn = d.stn := (rfl)
@[simp] theorem Upd.links_trf (x : List Link) (d : Dev) : ((Upd.links x).apply d).trf = d.trf := (rfl)
@[simp] theorem Upd.links_fab (x : List Link) (d : Dev) : ((Upd.links x).apply d).fab = d.fab := (rfl)
@[simp] theorem Upd.links_links (x : List Link) (d : Dev) : ((Upd.links x).apply d).links = x := (rfl)
@[simp] theorem Upd.links_cmd (x : List Link) (d : Dev) : ((Upd.links x).apply d).cmd = d.cmd := (rfl)
@[simp] theorem Upd.links_staged (x : List Link) (d : Dev) : ((Upd.links x).apply d).staged = d.staged := (rfl)
@[simp] theorem Upd.links_dom (x : List Link) (d : Dev) : ((Upd.links x).apply d).dom = d.dom := (rfl)
@[simp] theorem Upd.links_eng (x : List Link) (d : Dev) : ((Upd.links x).apply d).eng = d.eng := (rfl)
@[simp] theorem Upd.links_sys (x : List Link) (d : Dev) : ((Upd.links x).apply d).sys = d.sys := (rfl)

@[simp] theorem Upd.cmd_now (x : CmdSt) (d : Dev) : ((Upd.cmd x).apply d).now = d.now := (rfl)
@[simp] theorem Upd.cmd_free (x : CmdSt) (d : Dev) : ((Upd.cmd x).apply d).free = d.free := (rfl)
@[simp] theorem Upd.cmd_csr (x : CmdSt) (d : Dev) : ((Upd.cmd x).apply d).csr = d.csr := (rfl)
@[simp] theorem Upd.cmd_mem (x : CmdSt) (d : Dev) : ((Upd.cmd x).apply d).mem = d.mem := (rfl)
@[simp] theorem Upd.cmd_store (x : CmdSt) (d : Dev) : ((Upd.cmd x).apply d).store = d.store := (rfl)
@[simp] theorem Upd.cmd_evq (x : CmdSt) (d : Dev) : ((Upd.cmd x).apply d).evq = d.evq := (rfl)
@[simp] theorem Upd.cmd_home (x : CmdSt) (d : Dev) : ((Upd.cmd x).apply d).home = d.home := (rfl)
@[simp] theorem Upd.cmd_own (x : CmdSt) (d : Dev) : ((Upd.cmd x).apply d).own = d.own := (rfl)
@[simp] theorem Upd.cmd_stn (x : CmdSt) (d : Dev) : ((Upd.cmd x).apply d).stn = d.stn := (rfl)
@[simp] theorem Upd.cmd_trf (x : CmdSt) (d : Dev) : ((Upd.cmd x).apply d).trf = d.trf := (rfl)
@[simp] theorem Upd.cmd_fab (x : CmdSt) (d : Dev) : ((Upd.cmd x).apply d).fab = d.fab := (rfl)
@[simp] theorem Upd.cmd_links (x : CmdSt) (d : Dev) : ((Upd.cmd x).apply d).links = d.links := (rfl)
@[simp] theorem Upd.cmd_cmd (x : CmdSt) (d : Dev) : ((Upd.cmd x).apply d).cmd = x := (rfl)
@[simp] theorem Upd.cmd_staged (x : CmdSt) (d : Dev) : ((Upd.cmd x).apply d).staged = d.staged := (rfl)
@[simp] theorem Upd.cmd_dom (x : CmdSt) (d : Dev) : ((Upd.cmd x).apply d).dom = d.dom := (rfl)
@[simp] theorem Upd.cmd_eng (x : CmdSt) (d : Dev) : ((Upd.cmd x).apply d).eng = d.eng := (rfl)
@[simp] theorem Upd.cmd_sys (x : CmdSt) (d : Dev) : ((Upd.cmd x).apply d).sys = d.sys := (rfl)

@[simp] theorem Upd.staged_now (x : StagedSt) (d : Dev) : ((Upd.staged x).apply d).now = d.now := (rfl)
@[simp] theorem Upd.staged_free (x : StagedSt) (d : Dev) : ((Upd.staged x).apply d).free = d.free := (rfl)
@[simp] theorem Upd.staged_csr (x : StagedSt) (d : Dev) : ((Upd.staged x).apply d).csr = d.csr := (rfl)
@[simp] theorem Upd.staged_mem (x : StagedSt) (d : Dev) : ((Upd.staged x).apply d).mem = d.mem := (rfl)
@[simp] theorem Upd.staged_store (x : StagedSt) (d : Dev) : ((Upd.staged x).apply d).store = d.store := (rfl)
@[simp] theorem Upd.staged_evq (x : StagedSt) (d : Dev) : ((Upd.staged x).apply d).evq = d.evq := (rfl)
@[simp] theorem Upd.staged_home (x : StagedSt) (d : Dev) : ((Upd.staged x).apply d).home = d.home := (rfl)
@[simp] theorem Upd.staged_own (x : StagedSt) (d : Dev) : ((Upd.staged x).apply d).own = d.own := (rfl)
@[simp] theorem Upd.staged_stn (x : StagedSt) (d : Dev) : ((Upd.staged x).apply d).stn = d.stn := (rfl)
@[simp] theorem Upd.staged_trf (x : StagedSt) (d : Dev) : ((Upd.staged x).apply d).trf = d.trf := (rfl)
@[simp] theorem Upd.staged_fab (x : StagedSt) (d : Dev) : ((Upd.staged x).apply d).fab = d.fab := (rfl)
@[simp] theorem Upd.staged_links (x : StagedSt) (d : Dev) : ((Upd.staged x).apply d).links = d.links := (rfl)
@[simp] theorem Upd.staged_cmd (x : StagedSt) (d : Dev) : ((Upd.staged x).apply d).cmd = d.cmd := (rfl)
@[simp] theorem Upd.staged_staged (x : StagedSt) (d : Dev) : ((Upd.staged x).apply d).staged = x := (rfl)
@[simp] theorem Upd.staged_dom (x : StagedSt) (d : Dev) : ((Upd.staged x).apply d).dom = d.dom := (rfl)
@[simp] theorem Upd.staged_eng (x : StagedSt) (d : Dev) : ((Upd.staged x).apply d).eng = d.eng := (rfl)
@[simp] theorem Upd.staged_sys (x : StagedSt) (d : Dev) : ((Upd.staged x).apply d).sys = d.sys := (rfl)

@[simp] theorem Upd.dom_now (x : DomSt) (d : Dev) : ((Upd.dom x).apply d).now = d.now := (rfl)
@[simp] theorem Upd.dom_free (x : DomSt) (d : Dev) : ((Upd.dom x).apply d).free = d.free := (rfl)
@[simp] theorem Upd.dom_csr (x : DomSt) (d : Dev) : ((Upd.dom x).apply d).csr = d.csr := (rfl)
@[simp] theorem Upd.dom_mem (x : DomSt) (d : Dev) : ((Upd.dom x).apply d).mem = d.mem := (rfl)
@[simp] theorem Upd.dom_store (x : DomSt) (d : Dev) : ((Upd.dom x).apply d).store = d.store := (rfl)
@[simp] theorem Upd.dom_evq (x : DomSt) (d : Dev) : ((Upd.dom x).apply d).evq = d.evq := (rfl)
@[simp] theorem Upd.dom_home (x : DomSt) (d : Dev) : ((Upd.dom x).apply d).home = d.home := (rfl)
@[simp] theorem Upd.dom_own (x : DomSt) (d : Dev) : ((Upd.dom x).apply d).own = d.own := (rfl)
@[simp] theorem Upd.dom_stn (x : DomSt) (d : Dev) : ((Upd.dom x).apply d).stn = d.stn := (rfl)
@[simp] theorem Upd.dom_trf (x : DomSt) (d : Dev) : ((Upd.dom x).apply d).trf = d.trf := (rfl)
@[simp] theorem Upd.dom_fab (x : DomSt) (d : Dev) : ((Upd.dom x).apply d).fab = d.fab := (rfl)
@[simp] theorem Upd.dom_links (x : DomSt) (d : Dev) : ((Upd.dom x).apply d).links = d.links := (rfl)
@[simp] theorem Upd.dom_cmd (x : DomSt) (d : Dev) : ((Upd.dom x).apply d).cmd = d.cmd := (rfl)
@[simp] theorem Upd.dom_staged (x : DomSt) (d : Dev) : ((Upd.dom x).apply d).staged = d.staged := (rfl)
@[simp] theorem Upd.dom_dom (x : DomSt) (d : Dev) : ((Upd.dom x).apply d).dom = x := (rfl)
@[simp] theorem Upd.dom_eng (x : DomSt) (d : Dev) : ((Upd.dom x).apply d).eng = d.eng := (rfl)
@[simp] theorem Upd.dom_sys (x : DomSt) (d : Dev) : ((Upd.dom x).apply d).sys = d.sys := (rfl)

@[simp] theorem Upd.eng_now (x : EngSt) (d : Dev) : ((Upd.eng x).apply d).now = d.now := (rfl)
@[simp] theorem Upd.eng_free (x : EngSt) (d : Dev) : ((Upd.eng x).apply d).free = d.free := (rfl)
@[simp] theorem Upd.eng_csr (x : EngSt) (d : Dev) : ((Upd.eng x).apply d).csr = d.csr := (rfl)
@[simp] theorem Upd.eng_mem (x : EngSt) (d : Dev) : ((Upd.eng x).apply d).mem = d.mem := (rfl)
@[simp] theorem Upd.eng_store (x : EngSt) (d : Dev) : ((Upd.eng x).apply d).store = d.store := (rfl)
@[simp] theorem Upd.eng_evq (x : EngSt) (d : Dev) : ((Upd.eng x).apply d).evq = d.evq := (rfl)
@[simp] theorem Upd.eng_home (x : EngSt) (d : Dev) : ((Upd.eng x).apply d).home = d.home := (rfl)
@[simp] theorem Upd.eng_own (x : EngSt) (d : Dev) : ((Upd.eng x).apply d).own = d.own := (rfl)
@[simp] theorem Upd.eng_stn (x : EngSt) (d : Dev) : ((Upd.eng x).apply d).stn = d.stn := (rfl)
@[simp] theorem Upd.eng_trf (x : EngSt) (d : Dev) : ((Upd.eng x).apply d).trf = d.trf := (rfl)
@[simp] theorem Upd.eng_fab (x : EngSt) (d : Dev) : ((Upd.eng x).apply d).fab = d.fab := (rfl)
@[simp] theorem Upd.eng_links (x : EngSt) (d : Dev) : ((Upd.eng x).apply d).links = d.links := (rfl)
@[simp] theorem Upd.eng_cmd (x : EngSt) (d : Dev) : ((Upd.eng x).apply d).cmd = d.cmd := (rfl)
@[simp] theorem Upd.eng_staged (x : EngSt) (d : Dev) : ((Upd.eng x).apply d).staged = d.staged := (rfl)
@[simp] theorem Upd.eng_dom (x : EngSt) (d : Dev) : ((Upd.eng x).apply d).dom = d.dom := (rfl)
@[simp] theorem Upd.eng_eng (x : EngSt) (d : Dev) : ((Upd.eng x).apply d).eng = x := (rfl)
@[simp] theorem Upd.eng_sys (x : EngSt) (d : Dev) : ((Upd.eng x).apply d).sys = d.sys := (rfl)

@[simp] theorem Upd.sys_now (x : SysSt) (d : Dev) : ((Upd.sys x).apply d).now = d.now := (rfl)
@[simp] theorem Upd.sys_free (x : SysSt) (d : Dev) : ((Upd.sys x).apply d).free = d.free := (rfl)
@[simp] theorem Upd.sys_csr (x : SysSt) (d : Dev) : ((Upd.sys x).apply d).csr = d.csr := (rfl)
@[simp] theorem Upd.sys_mem (x : SysSt) (d : Dev) : ((Upd.sys x).apply d).mem = d.mem := (rfl)
@[simp] theorem Upd.sys_store (x : SysSt) (d : Dev) : ((Upd.sys x).apply d).store = d.store := (rfl)
@[simp] theorem Upd.sys_evq (x : SysSt) (d : Dev) : ((Upd.sys x).apply d).evq = d.evq := (rfl)
@[simp] theorem Upd.sys_home (x : SysSt) (d : Dev) : ((Upd.sys x).apply d).home = d.home := (rfl)
@[simp] theorem Upd.sys_own (x : SysSt) (d : Dev) : ((Upd.sys x).apply d).own = d.own := (rfl)
@[simp] theorem Upd.sys_stn (x : SysSt) (d : Dev) : ((Upd.sys x).apply d).stn = d.stn := (rfl)
@[simp] theorem Upd.sys_trf (x : SysSt) (d : Dev) : ((Upd.sys x).apply d).trf = d.trf := (rfl)
@[simp] theorem Upd.sys_fab (x : SysSt) (d : Dev) : ((Upd.sys x).apply d).fab = d.fab := (rfl)
@[simp] theorem Upd.sys_links (x : SysSt) (d : Dev) : ((Upd.sys x).apply d).links = d.links := (rfl)
@[simp] theorem Upd.sys_cmd (x : SysSt) (d : Dev) : ((Upd.sys x).apply d).cmd = d.cmd := (rfl)
@[simp] theorem Upd.sys_staged (x : SysSt) (d : Dev) : ((Upd.sys x).apply d).staged = d.staged := (rfl)
@[simp] theorem Upd.sys_dom (x : SysSt) (d : Dev) : ((Upd.sys x).apply d).dom = d.dom := (rfl)
@[simp] theorem Upd.sys_eng (x : SysSt) (d : Dev) : ((Upd.sys x).apply d).eng = d.eng := (rfl)
@[simp] theorem Upd.sys_sys (x : SysSt) (d : Dev) : ((Upd.sys x).apply d).sys = x := (rfl)

end Sys2Proof.Machine
end

