-- ==== Sys2Proof/Laws/Table.lean ====
section
/-! SUPPORT. Sparse tables: what a table reads after an entry is put in, taken out or kept, and that its canonical form is kept. -/

namespace Sys2Proof.Machine

variable {α : Type}

@[simp] theorem tget_nil (d : α) (a : Nat) : tget d [] a = d := rfl

theorem tget_cons (d : α) (k : Nat) (v : α) (t : Tbl α) (a : Nat) :
    tget d ((k, v) :: t) a = if k = a then v else tget d t a := rfl

/-- A table from which the keys outside a set have been taken. -/
theorem tget_filter (d : α) (p : Nat → Bool) (t : Tbl α) (a : Nat) :
    tget d (t.filter fun e => p e.1) a = if p a then tget d t a else d := by
  induction t with
  | nil => simp
  | cons e t ih =>
    obtain ⟨k, v⟩ := e
    by_cases hk : k = a
    · subst hk
      by_cases hp : p k <;> simp [hp, tget_cons, ih]
    · by_cases hp : p k <;> simp [hp, tget_cons, ih, hk]

@[simp] theorem tget_tdel (d : α) (b : Nat) (t : Tbl α) (a : Nat) :
    tget d (tdel b t) a = if a = b then d else tget d t a := by
  have h := tget_filter d (fun k => k != b) t a
  by_cases hab : a = b <;> simp_all [tdel]

@[simp] theorem tget_tins (d : α) (b : Nat) (v : α) (t : Tbl α) (a : Nat) :
    tget d (tins b v t) a = if a = b then v else tget d t a := by
  induction t with
  | nil => simp [tins, tget_cons, eq_comm]
  | cons e t ih =>
    obtain ⟨k, w⟩ := e
    simp only [tins]
    split
    · simp [tget_cons, eq_comm]
    · split
      · subst_vars
        by_cases h : a = k <;> simp [tget_cons, h, eq_comm]
      · simp only [tget_cons, ih]
        split
        · subst_vars; simp; intro h; omega
        · rfl

@[simp] theorem tget_tset [DecidableEq α] (d : α) (t : Tbl α) (b : Nat) (v : α) (a : Nat) :
    tget d (tset d t b v) a = if a = b then v else tget d t a := by
  unfold tset
  split <;> simp_all

/-! ## The canonical form: keys strictly rising -/

/-- The keys of a table rise strictly. -/
def Rising (t : Tbl α) : Prop := t.Pairwise fun x y => x.1 < y.1

theorem Rising.filter {t : Tbl α} (h : Rising t) (p : Nat × α → Bool) : Rising (t.filter p) := h.sublist List.filter_sublist

theorem Rising.tdel {t : Tbl α} (h : Rising t) (a : Nat) : Rising (tdel a t) := h.filter _

/-- An entry of a table with one put in is that one, or was there. -/
theorem mem_tins {a : Nat} {v : α} {t : Tbl α} {e : Nat × α} (h : e ∈ tins a v t) : e = (a, v) ∨ e ∈ t := by
  induction t with
  | nil => simpa [tins] using h
  | cons x t ih =>
    obtain ⟨k, w⟩ := x
    simp only [tins] at h
    split at h
    · simpa using h
    · split at h
      · simp only [List.mem_cons] at h ⊢; tauto
      · simp only [List.mem_cons] at h ⊢
        rcases h with h | h
        · exact .inr (.inl h)
        · exact (ih h).imp id .inr

theorem Rising.tins {t : Tbl α} (h : Rising t) (a : Nat) (v : α) : Rising (tins a v t) := by
  induction t with
  | nil => simp [Machine.tins, Rising]
  | cons x t ih =>
    obtain ⟨k, w⟩ := x
    have ht : Rising t := (List.pairwise_cons.mp h).2
    have hk := (List.pairwise_cons.mp h).1
    simp only [Machine.tins]
    split
    · rename_i hlt
      refine List.pairwise_cons.mpr ⟨fun e he => ?_, h⟩
      rcases List.mem_cons.mp he with rfl | he
      · exact hlt
      · exact Nat.lt_trans hlt (hk e he)
    · split
      · subst_vars
        exact List.pairwise_cons.mpr ⟨hk, ht⟩
      · refine List.pairwise_cons.mpr ⟨fun e he => ?_, ih ht⟩
        rcases mem_tins he with rfl | he
        · simp; omega
        · exact hk e he

theorem Rising.tset [DecidableEq α] {t : Tbl α} (h : Rising t) (d : α) (a : Nat) (v : α) : Rising (tset d t a v) := by
  unfold Machine.tset
  split
  · exact h.tdel a
  · exact h.tins a v

end Sys2Proof.Machine
end

