-- ==== Sys2Proof/Laws/Regs.lean ====
section
/-! SUPPORT. What every register and every byte of the store reads after each primitive change, and that each change keeps the canonical
form. -/

namespace Sys2Proof.Machine

/-! ## Reading a register -/

theorem Dev.reg_of_csr {d e : Dev} (h : e.csr = d.csr) (a : Nat) : e.reg a = d.reg a := by simp [Dev.reg, h]
theorem Dev.byte_of_mem {d e : Dev} (h : e.mem = d.mem) (a : Nat) : e.byte a = d.byte a := by simp [Dev.byte, h]

@[simp] theorem Upd.csr_reg (a : Nat) (v : Word) (d : Dev) (b : Nat) :
    ((Upd.csr a v).apply d).reg b = if b = a ∧ assigned a = true then v &&& readMask a else d.reg b := by
  unfold Upd.apply Dev.reg
  by_cases ha : assigned a
  · by_cases hb : b = a
    · subst hb
      by_cases hv : v &&& readMask b = rstVal b <;> simp [ha, hv]
    · by_cases hv : v &&& readMask a = rstVal a <;> simp [ha, hb, hv]
  · simp [ha]

@[simp] theorem Upd.csrReset_reg (k : List Nat) (d : Dev) (b : Nat) :
    ((Upd.csrReset k).apply d).reg b = if k.contains b then d.reg b else rstVal b :=
  tget_filter (rstVal b) (fun a => k.contains a) d.csr b

@[simp] theorem Upd.csrBlock_reg (lo hi : Nat) (d : Dev) (b : Nat) :
    ((Upd.csrBlock lo hi).apply d).reg b = if decide (b < lo) || decide (hi ≤ b) then d.reg b else rstVal b :=
  tget_filter (rstVal b) (fun a => decide (a < lo) || decide (hi ≤ a)) d.csr b

@[simp] theorem Upd.mem_byte (a : Nat) (v : Byte) (d : Dev) (b : Nat) :
    ((Upd.mem a v).apply d).byte b = if b = a ∧ a < storeEnd then v else d.byte b := by
  unfold Upd.apply Dev.byte
  by_cases ha : a < storeEnd
  · simp only [storeEnd] at ha
    simp [ha]
  · simp only [storeEnd] at ha
    simp [ha]

@[simp] theorem Upd.memClear_byte (lo hi : Nat) (d : Dev) (b : Nat) :
    ((Upd.memClear lo hi).apply d).byte b = if decide (b < lo) || decide (hi ≤ b) then d.byte b else 0 :=
  tget_filter 0 (fun a => decide (a < lo) || decide (hi ≤ a)) d.mem b

/-! ## What the other changes leave -/

@[simp] theorem Upd.now_reg (t : Nat) (d : Dev) (a : Nat) : ((Upd.now t).apply d).reg a = d.reg a := (rfl)
@[simp] theorem Upd.now_fld (t : Nat) (d : Dev) (a : Nat) (f : Fld) : ((Upd.now t).apply d).fld a f = d.fld a f := (rfl)
@[simp] theorem Upd.now_byte (t : Nat) (d : Dev) (a : Nat) : ((Upd.now t).apply d).byte a = d.byte a := (rfl)
@[simp] theorem Upd.nowSet_reg (t : Nat) (d : Dev) (a : Nat) : ((Upd.nowSet t).apply d).reg a = d.reg a := (rfl)
@[simp] theorem Upd.nowSet_fld (t : Nat) (d : Dev) (a : Nat) (f : Fld) : ((Upd.nowSet t).apply d).fld a f = d.fld a f := (rfl)
@[simp] theorem Upd.nowSet_byte (t : Nat) (d : Dev) (a : Nat) : ((Upd.nowSet t).apply d).byte a = d.byte a := (rfl)
@[simp] theorem Upd.store_reg (x : StoreSt) (d : Dev) (a : Nat) : ((Upd.store x).apply d).reg a = d.reg a := (rfl)
@[simp] theorem Upd.store_fld (x : StoreSt) (d : Dev) (a : Nat) (f : Fld) : ((Upd.store x).apply d).fld a f = d.fld a f := (rfl)
@[simp] theorem Upd.store_byte (x : StoreSt) (d : Dev) (a : Nat) : ((Upd.store x).apply d).byte a = d.byte a := (rfl)
@[simp] theorem Upd.evq_reg (x : EvqSt) (d : Dev) (a : Nat) : ((Upd.evq x).apply d).reg a = d.reg a := (rfl)
@[simp] theorem Upd.evq_fld (x : EvqSt) (d : Dev) (a : Nat) (f : Fld) : ((Upd.evq x).apply d).fld a f = d.fld a f := (rfl)
@[simp] theorem Upd.evq_byte (x : EvqSt) (d : Dev) (a : Nat) : ((Upd.evq x).apply d).byte a = d.byte a := (rfl)
@[simp] theorem Upd.home_reg (x : HomeSt) (d : Dev) (a : Nat) : ((Upd.home x).apply d).reg a = d.reg a := (rfl)
@[simp] theorem Upd.home_fld (x : HomeSt) (d : Dev) (a : Nat) (f : Fld) : ((Upd.home x).apply d).fld a f = d.fld a f := (rfl)
@[simp] theorem Upd.home_byte (x : HomeSt) (d : Dev) (a : Nat) : ((Upd.home x).apply d).byte a = d.byte a := (rfl)
@[simp] theorem Upd.own_reg (x : OwnSt) (d : Dev) (a : Nat) : ((Upd.own x).apply d).reg a = d.reg a := (rfl)
@[simp] theorem Upd.own_fld (x : OwnSt) (d : Dev) (a : Nat) (f : Fld) : ((Upd.own x).apply d).fld a f = d.fld a f := (rfl)
@[simp] theorem Upd.own_byte (x : OwnSt) (d : Dev) (a : Nat) : ((Upd.own x).apply d).byte a = d.byte a := (rfl)
@[simp] theorem Upd.stn_reg (x : StnSt) (d : Dev) (a : Nat) : ((Upd.stn x).apply d).reg a = d.reg a := (rfl)
@[simp] theorem Upd.stn_fld (x : StnSt) (d : Dev) (a : Nat) (f : Fld) : ((Upd.stn x).apply d).fld a f = d.fld a f := (rfl)
@[simp] theorem Upd.stn_byte (x : StnSt) (d : Dev) (a : Nat) : ((Upd.stn x).apply d).byte a = d.byte a := (rfl)
@[simp] theorem Upd.trf_reg (x : TrfSt) (d : Dev) (a : Nat) : ((Upd.trf x).apply d).reg a = d.reg a := (rfl)
@[simp] theorem Upd.trf_fld (x : TrfSt) (d : Dev) (a : Nat) (f : Fld) : ((Upd.trf x).apply d).fld a f = d.fld a f := (rfl)
@[simp] theorem Upd.trf_byte (x : TrfSt) (d : Dev) (a : Nat) : ((Upd.trf x).apply d).byte a = d.byte a := (rfl)
@[simp] theorem Upd.fab_reg (x : FabSt) (d : Dev) (a : Nat) : ((Upd.fab x).apply d).reg a = d.reg a := (rfl)
@[simp] theorem Upd.fab_fld (x : FabSt) (d : Dev) (a : Nat) (f : Fld) : ((Upd.fab x).apply d).fld a f = d.fld a f := (rfl)
@[simp] theorem Upd.fab_byte (x : FabSt) (d : Dev) (a : Nat) : ((Upd.fab x).apply d).byte a = d.byte a := (rfl)
@[simp] theorem Upd.links_reg (x : List Link) (d : Dev) (a : Nat) : ((Upd.links x).apply d).reg a = d.reg a := (rfl)
@[simp] theorem Upd.links_fld (x : List Link) (d : Dev) (a : Nat) (f : Fld) : ((Upd.links x).apply d).fld a f = d.fld a f := (rfl)
@[simp] theorem Upd.links_byte (x : List Link) (d : Dev) (a : Nat) : ((Upd.links x).apply d).byte a = d.byte a := (rfl)
@[simp] theorem Upd.cmd_reg (x : CmdSt) (d : Dev) (a : Nat) : ((Upd.cmd x).apply d).reg a = d.reg a := (rfl)
@[simp] theorem Upd.cmd_fld (x : CmdSt) (d : Dev) (a : Nat) (f : Fld) : ((Upd.cmd x).apply d).fld a f = d.fld a f := (rfl)
@[simp] theorem Upd.cmd_byte (x : CmdSt) (d : Dev) (a : Nat) : ((Upd.cmd x).apply d).byte a = d.byte a := (rfl)
@[simp] theorem Upd.staged_reg (x : StagedSt) (d : Dev) (a : Nat) : ((Upd.staged x).apply d).reg a = d.reg a := (rfl)
@[simp] theorem Upd.staged_fld (x : StagedSt) (d : Dev) (a : Nat) (f : Fld) : ((Upd.staged x).apply d).fld a f = d.fld a f := (rfl)
@[simp] theorem Upd.staged_byte (x : StagedSt) (d : Dev) (a : Nat) : ((Upd.staged x).apply d).byte a = d.byte a := (rfl)
@[simp] theorem Upd.dom_reg (x : DomSt) (d : Dev) (a : Nat) : ((Upd.dom x).apply d).reg a = d.reg a := (rfl)
@[simp] theorem Upd.dom_fld (x : DomSt) (d : Dev) (a : Nat) (f : Fld) : ((Upd.dom x).apply d).fld a f = d.fld a f := (rfl)
@[simp] theorem Upd.dom_byte (x : DomSt) (d : Dev) (a : Nat) : ((Upd.dom x).apply d).byte a = d.byte a := (rfl)
@[simp] theorem Upd.eng_reg (x : EngSt) (d : Dev) (a : Nat) : ((Upd.eng x).apply d).reg a = d.reg a := (rfl)
@[simp] theorem Upd.eng_fld (x : EngSt) (d : Dev) (a : Nat) (f : Fld) : ((Upd.eng x).apply d).fld a f = d.fld a f := (rfl)
@[simp] theorem Upd.eng_byte (x : EngSt) (d : Dev) (a : Nat) : ((Upd.eng x).apply d).byte a = d.byte a := (rfl)
@[simp] theorem Upd.sys_reg (x : SysSt) (d : Dev) (a : Nat) : ((Upd.sys x).apply d).reg a = d.reg a := (rfl)
@[simp] theorem Upd.sys_fld (x : SysSt) (d : Dev) (a : Nat) (f : Fld) : ((Upd.sys x).apply d).fld a f = d.fld a f := (rfl)
@[simp] theorem Upd.sys_byte (x : SysSt) (d : Dev) (a : Nat) : ((Upd.sys x).apply d).byte a = d.byte a := (rfl)
@[simp] theorem Upd.free_reg (d : Dev) (a : Nat) : (Upd.free.apply d).reg a = d.reg a := (rfl)
@[simp] theorem Upd.free_fld (d : Dev) (a : Nat) (f : Fld) : (Upd.free.apply d).fld a f = d.fld a f := (rfl)
@[simp] theorem Upd.free_byte (d : Dev) (a : Nat) : (Upd.free.apply d).byte a = d.byte a := (rfl)
@[simp] theorem Upd.csr_byte (a : Nat) (v : Word) (d : Dev) (b : Nat) : ((Upd.csr a v).apply d).byte b = d.byte b :=
  Dev.byte_of_mem (by simp) b
@[simp] theorem Upd.mem_reg (a : Nat) (v : Byte) (d : Dev) (b : Nat) : ((Upd.mem a v).apply d).reg b = d.reg b :=
  Dev.reg_of_csr (by simp) b
@[simp] theorem Upd.mem_fld (a : Nat) (v : Byte) (d : Dev) (b : Nat) (f : Fld) : ((Upd.mem a v).apply d).fld b f = d.fld b f := by
  simp [Dev.fld]

end Sys2Proof.Machine
end

