-- ==== Sys2Proof/Laws/Fields.lean ====
section
/-! SUPPORT. Bit fields of registers: what a field reads after a field of the same register has been set. -/

namespace Sys2Proof.Machine

theorem testBit_bits {n : Nat} (v : BitVec n) (lo w i : Nat) : (bits v lo w).testBit i = (decide (i < w) && v.getLsbD (lo + i)) := by
  simp [bits, Nat.testBit_mod_two_pow, Nat.testBit_shiftRight, BitVec.getLsbD]

theorem getLsbD_putBits {n : Nat} (v : BitVec n) (lo w x i : Nat) :
    (putBits v lo w x).getLsbD i =
      (decide (i < n) && if lo ≤ i ∧ i < lo + w then x.testBit (i - lo) else v.getLsbD i) := by
  simp only [putBits, BitVec.getLsbD_or, BitVec.getLsbD_and, BitVec.getLsbD_not, BitVec.getLsbD_ofNat, Nat.testBit_shiftLeft,
    Nat.testBit_mod_two_pow, Nat.testBit_two_pow_sub_one]
  by_cases hn : i < n
  · by_cases h1 : lo ≤ i
    · by_cases h2 : i < lo + w
      · have : i - lo < w := by omega
        simp [hn, h1, h2, this]
      · have : ¬ i - lo < w := by omega
        simp [hn, h1, h2, this]
    · simp [hn, h1]
  · have : v.getLsbD i = false := BitVec.getLsbD_of_ge _ _ (by omega)
    simp [hn, this]

/-- A field reads what was put in it, where the register stores all its bits. -/
theorem Fld.of_put_and {f : Fld} (hf : f.lo + f.w ≤ 64) {m : Word} (hm : f.of m = 2 ^ f.w - 1) (v : Word) (x : Nat) :
    f.of (f.put v x &&& m) = x % 2 ^ f.w := by
  apply Nat.eq_of_testBit_eq
  intro i
  have hb : ∀ i, i < f.w → m.getLsbD (f.lo + i) = true := fun i hi => by
    have := congrArg (fun k => k.testBit i) hm
    simpa [Fld.of, testBit_bits, hi] using this
  simp only [Fld.of, Fld.put, testBit_bits, BitVec.getLsbD_and, getLsbD_putBits, Nat.testBit_mod_two_pow]
  by_cases hi : i < f.w
  · have h1 : f.lo + i < 64 := by omega
    have h2 : f.lo ≤ f.lo + i ∧ f.lo + i < f.lo + f.w := by omega
    simp [hi, h1, hb i hi]
  · simp [hi]

/-- A field apart from the one put in reads as before, where the register stores all its bits. -/
theorem Fld.of_put_and_other {f g : Fld} (hg : g.lo + g.w ≤ 64) (h : g.lo + g.w ≤ f.lo ∨ f.lo + f.w ≤ g.lo) {m : Word}
    (hm : g.of m = 2 ^ g.w - 1) (v : Word) (x : Nat) : g.of (f.put v x &&& m) = g.of v := by
  apply Nat.eq_of_testBit_eq
  intro i
  have hb : ∀ i, i < g.w → m.getLsbD (g.lo + i) = true := fun i hi => by
    have := congrArg (fun k => k.testBit i) hm
    simpa [Fld.of, testBit_bits, hi] using this
  simp only [Fld.of, Fld.put, testBit_bits, BitVec.getLsbD_and, getLsbD_putBits]
  by_cases hi : i < g.w
  · have h1 : g.lo + i < 64 := by omega
    have h2 : ¬ (f.lo ≤ g.lo + i ∧ g.lo + i < f.lo + f.w) := by omega
    simp [hi, h1, h2, hb i hi]
  · simp [hi]

/-- A field reads what was stored in it. -/
theorem Dev.fld_csr_put {a : Nat} {f : Fld} (ha : assigned a = true) (hf : f.lo + f.w ≤ 64) (hm : f.of (readMask a) = 2 ^ f.w - 1)
    (v : Word) (x : Nat) (d : Dev) : ((Upd.csr a (f.put v x)).apply d).fld a f = x % 2 ^ f.w := by
  simp only [Dev.fld, Upd.csr_reg, ha, and_self, if_true]
  exact Fld.of_put_and hf hm v x

/-- Another field of a register in which a field was stored reads as before. -/
theorem Dev.fld_csr_put_other {a : Nat} {f g : Fld} (ha : assigned a = true) (hg : g.lo + g.w ≤ 64)
    (h : g.lo + g.w ≤ f.lo ∨ f.lo + f.w ≤ g.lo) (hm : g.of (readMask a) = 2 ^ g.w - 1) (v : Word) (x : Nat) (d : Dev) :
    ((Upd.csr a (f.put v x)).apply d).fld a g = g.of v := by
  simp only [Dev.fld, Upd.csr_reg, ha, and_self, if_true]
  exact Fld.of_put_and_other hg h hm v x

/-- A field of another register reads as before. -/
theorem Dev.fld_csr_ne {a b : Nat} (h : b ≠ a) (v : Word) (g : Fld) (d : Dev) : ((Upd.csr a v).apply d).fld b g = d.fld b g := by
  simp [Dev.fld, h]

end Sys2Proof.Machine
end

