-- ==== Sys2Proof/Laws/Run.lean ====
section
/-! SUPPORT. How the meanings run: one lemma for each way they are put together and for each named operation, and what every change of a
meaning's log keeps, the meaning keeps. -/

namespace Sys2Proof.Machine

variable {α β : Type}

/-- What a meaning answers. -/
def M.val (m : M α) (w : Work) : α := (m.run w).1

/-- The device and the log after a meaning. -/
def M.post (m : M α) (w : Work) : Work := (m.run w).2

@[simp] theorem val_pure (a : α) (w : Work) : M.val (pure a) w = a := (rfl)
@[simp] theorem post_pure (a : α) (w : Work) : M.post (pure a : M α) w = w := (rfl)
@[simp] theorem val_bind (m : M α) (f : α → M β) (w : Work) : M.val (m >>= f) w = M.val (f (M.val m w)) (M.post m w) := (rfl)
@[simp] theorem post_bind (m : M α) (f : α → M β) (w : Work) : M.post (m >>= f) w = M.post (f (M.val m w)) (M.post m w) := (rfl)
@[simp] theorem val_map (g : α → β) (m : M α) (w : Work) : M.val (g <$> m) w = g (M.val m w) := (rfl)
@[simp] theorem post_map (g : α → β) (m : M α) (w : Work) : M.post (g <$> m) w = M.post m w := (rfl)
theorem val_ite (c : Prop) [Decidable c] (m n : M α) (w : Work) : M.val (if c then m else n) w = if c then M.val m w else M.val n w := by
  split <;> rfl
theorem post_ite (c : Prop) [Decidable c] (m n : M α) (w : Work) :
    M.post (if c then m else n) w = if c then M.post m w else M.post n w := by
  split <;> rfl

/-- A device and log with one change more. -/
def Work.add (w : Work) (u : Upd) : Work := ⟨u.apply w.dev, u :: w.log⟩
@[simp] theorem Work.add_dev (w : Work) (u : Upd) : (w.add u).dev = u.apply w.dev := (rfl)
@[simp] theorem Work.add_log (w : Work) (u : Upd) : (w.add u).log = u :: w.log := (rfl)

@[simp] theorem post_emit (u : Upd) (w : Work) : M.post (emit u) w = w.add u := (rfl)
@[simp] theorem val_dev (w : Work) : M.val dev w = w.dev := (rfl)
@[simp] theorem post_dev (w : Work) : M.post dev w = w := (rfl)
@[simp] theorem val_look (f : Dev → α) (w : Work) : M.val (look f) w = f w.dev := (rfl)
@[simp] theorem post_look (f : Dev → α) (w : Work) : M.post (look f) w = w := (rfl)
@[simp] theorem val_rd (a : Nat) (w : Work) : M.val (rd a) w = w.dev.reg a := (rfl)
@[simp] theorem post_rd (a : Nat) (w : Work) : M.post (rd a) w = w := (rfl)
@[simp] theorem post_wr (a : Nat) (v : Word) (w : Work) : M.post (wr a v) w = w.add (.csr a v) := (rfl)
@[simp] theorem val_fget (a : Nat) (f : Fld) (w : Work) : M.val (fget a f) w = w.dev.fld a f := (rfl)
@[simp] theorem post_fget (a : Nat) (f : Fld) (w : Work) : M.post (fget a f) w = w := (rfl)
@[simp] theorem post_fset (a : Nat) (f : Fld) (x : Nat) (w : Work) :
    M.post (fset a f x) w = w.add (.csr a (f.put (w.dev.reg a) x)) := (rfl)
@[simp] theorem post_fadd (a : Nat) (f : Fld) (n : Nat) (w : Work) :
    M.post (fadd a f n) w = w.add (.csr a (f.put (w.dev.reg a) (min (w.dev.fld a f + n) f.max))) := (rfl)
@[simp] theorem post_bump (a : Nat) (w : Work) : M.post (bump a) w = M.post (fadd a ⟨0, 32⟩ 1) w := (rfl)
@[simp] theorem post_bump48 (a n : Nat) (w : Work) : M.post (bump48 a n) w = M.post (fadd a ⟨0, 48⟩ n) w := (rfl)
@[simp] theorem val_now (w : Work) : M.val now w = w.dev.now := (rfl)
@[simp] theorem post_now (w : Work) : M.post now w = w := (rfl)
@[simp] theorem post_passTo (t : Nat) (w : Work) : M.post (passTo t) w = w.add (.now t) := (rfl)
@[simp] theorem val_freeWord (w : Work) : M.val freeWord w = Config.freeValue w.dev.free := (rfl)
@[simp] theorem post_freeWord (w : Work) : M.post freeWord w = w.add .free := (rfl)
@[simp] theorem post_wrMeta (n : Nat) (x : Meta) (w : Work) : M.post (wrMeta n x) w =
    w.add (.store { w.dev.store with lines := tset {} w.dev.store.lines n x }) := (rfl)
@[simp] theorem post_modStore (f : StoreSt → StoreSt) (w : Work) : M.post (modStore f) w = w.add (.store (f w.dev.store)) := (rfl)
@[simp] theorem post_modEvq (f : EvqSt → EvqSt) (w : Work) : M.post (modEvq f) w = w.add (.evq (f w.dev.evq)) := (rfl)
@[simp] theorem post_modHome (f : HomeSt → HomeSt) (w : Work) : M.post (modHome f) w = w.add (.home (f w.dev.home)) := (rfl)
@[simp] theorem post_modOwn (f : OwnSt → OwnSt) (w : Work) : M.post (modOwn f) w = w.add (.own (f w.dev.own)) := (rfl)
@[simp] theorem post_modStn (f : StnSt → StnSt) (w : Work) : M.post (modStn f) w = w.add (.stn (f w.dev.stn)) := (rfl)
@[simp] theorem post_modTrf (f : TrfSt → TrfSt) (w : Work) : M.post (modTrf f) w = w.add (.trf (f w.dev.trf)) := (rfl)
@[simp] theorem post_modFab (f : FabSt → FabSt) (w : Work) : M.post (modFab f) w = w.add (.fab (f w.dev.fab)) := (rfl)
@[simp] theorem post_modCmd (f : CmdSt → CmdSt) (w : Work) : M.post (modCmd f) w = w.add (.cmd (f w.dev.cmd)) := (rfl)
@[simp] theorem post_modStaged (f : StagedSt → StagedSt) (w : Work) : M.post (modStaged f) w = w.add (.staged (f w.dev.staged)) := (rfl)
@[simp] theorem post_modDom (f : DomSt → DomSt) (w : Work) : M.post (modDom f) w = w.add (.dom (f w.dev.dom)) := (rfl)
@[simp] theorem post_modEng (f : EngSt → EngSt) (w : Work) : M.post (modEng f) w = w.add (.eng (f w.dev.eng)) := (rfl)
@[simp] theorem post_modSys (f : SysSt → SysSt) (w : Work) : M.post (modSys f) w = w.add (.sys (f w.dev.sys)) := (rfl)
@[simp] theorem post_modRes (f : ResSt → ResSt) (w : Work) :
    M.post (modRes f) w = w.add (.sys { w.dev.sys with res := f w.dev.sys.res }) := (rfl)
@[simp] theorem post_modPwr (f : PwrSt → PwrSt) (w : Work) :
    M.post (modPwr f) w = w.add (.sys { w.dev.sys with pwr := f w.dev.sys.pwr }) := (rfl)
@[simp] theorem post_modBoot (f : BootSt → BootSt) (w : Work) :
    M.post (modBoot f) w = w.add (.sys { w.dev.sys with boot := f w.dev.sys.boot }) := (rfl)
@[simp] theorem post_modLink (port : Nat) (f : Link → Link) (w : Work) :
    M.post (modLink port f) w = w.add (.links (w.dev.links.set port (f (w.dev.link port)))) := (rfl)

@[simp] theorem on_true (m : M Unit) : on true m = m := (rfl)
@[simp] theorem on_false (m : M Unit) : on false m = pure () := (rfl)
theorem post_on (c : Bool) (m : M Unit) (w : Work) : M.post (on c m) w = if c then M.post m w else w := by cases c <;> rfl
@[simp] theorem each_nil (f : α → M Unit) : each [] f = pure () := (rfl)
@[simp] theorem each_cons (a : α) (l : List α) (f : α → M Unit) : each (a :: l) f = (do f a; each l f) := (rfl)
theorem post_each (l : List α) (f : α → M Unit) (w : Work) : M.post (each l f) w = l.foldl (fun v a => M.post (f a) v) w := by
  induction l generalizing w with
  | nil => rfl
  | cons a l ih => simp [ih]

theorem Dev.run_eq (d : Dev) (m : M Unit) : d.run m = d.replay (M.post m ⟨d, []⟩).log := rfl

@[simp] theorem Dev.replay_nil (d : Dev) : d.replay [] = d := (rfl)
@[simp] theorem Dev.replay_cons (d : Dev) (u : Upd) (l : List Upd) : d.replay (u :: l) = u.apply (d.replay l) := (rfl)

@[simp] theorem State.run_eq (s : State) (m : M Unit) : s.run m = .next { s with dev := s.dev.run m } := (rfl)

/-! ## What every change keeps, the meaning keeps -/

/-- Whatever the device, a meaning adds to the log only changes with a property, and its device is the log's. -/
def Emits (p : Upd → Prop) (m : M α) : Prop :=
  ∀ w, ∃ l, (M.post m w).log = l ++ w.log ∧ (M.post m w).dev = w.dev.replay l ∧ ∀ u ∈ l, p u

variable {p : Upd → Prop}

theorem Emits.pure (a : α) : Emits p (Pure.pure a : M α) := fun _ => ⟨[], rfl, rfl, by simp⟩
theorem Emits.emit {u : Upd} (h : p u) : Emits p (Machine.emit u) := fun _ => ⟨[u], rfl, rfl, by simpa using h⟩
theorem Emits.look (f : Dev → α) : Emits p (Machine.look f) := fun _ => ⟨[], rfl, rfl, by simp⟩
theorem Emits.dev : Emits p Machine.dev := fun _ => ⟨[], rfl, rfl, by simp⟩
theorem Emits.bind {m : M α} {f : α → M β} (hm : Emits p m) (hf : ∀ a, Emits p (f a)) : Emits p (m >>= f) := fun w => by
  obtain ⟨l, h1, h2, h3⟩ := hm w
  obtain ⟨k, g1, g2, g3⟩ := hf (M.val m w) (M.post m w)
  refine ⟨k ++ l, by simp [g1, h1], by simp [g2, h2, Dev.replay], fun u hu => ?_⟩
  rcases List.mem_append.mp hu with hu | hu
  · exact g3 u hu
  · exact h3 u hu
theorem Emits.ite {c : Prop} [Decidable c] {m n : M α} (hm : Emits p m) (hn : Emits p n) : Emits p (if c then m else n) := by
  split <;> assumption
theorem Emits.on {c : Bool} {m : M Unit} (hm : Emits p m) : Emits p (Machine.on c m) := by
  cases c
  · exact Emits.pure ()
  · exact hm
theorem Emits.each {l : List α} {f : α → M Unit} (hf : ∀ a ∈ l, Emits p (f a)) : Emits p (Machine.each l f) := by
  induction l with
  | nil => exact Emits.pure ()
  | cons a l ih => exact Emits.bind (hf a (by simp)) fun _ => ih fun b hb => hf b (by simp [hb])

/-- What every change of a log keeps, the log keeps. -/
theorem Dev.replay_keeps {q : Dev → Prop} {l : List Upd} (h : ∀ u ∈ l, ∀ d, q d → q (u.apply d)) {d : Dev} (hd : q d) : q (d.replay l) := by
  induction l with
  | nil => exact hd
  | cons u l ih => exact h u (by simp) _ (ih fun v hv => h v (by simp [hv]))

/-- What every change that a meaning may make keeps, the meaning keeps. -/
theorem Emits.keeps {m : M Unit} (hm : Emits p m) {q : Dev → Prop} (h : ∀ u, p u → ∀ d, q d → q (u.apply d)) {d : Dev} (hd : q d) :
    q (d.run m) := by
  obtain ⟨l, h1, -, h3⟩ := hm ⟨d, []⟩
  rw [Dev.run_eq, h1, List.append_nil]
  exact Dev.replay_keeps (fun u hu => h u (h3 u hu)) hd

/-- What a meaning makes of the device is the device it ends with. -/
theorem Emits.run_eq {m : M Unit} (hm : Emits p m) (d : Dev) : d.run m = (M.post m ⟨d, []⟩).dev := by
  obtain ⟨l, h1, h2, -⟩ := hm ⟨d, []⟩
  rw [Dev.run_eq, h1, h2, List.append_nil]

end Sys2Proof.Machine
end

