-- ==== Sys2Proof/Laws/Memory.lean ====
section
/-! SUPPORT. Every change of the store and of the registers keeps the canonical form, and so does every meaning; the device after reset
has it. -/

namespace Sys2Proof.Machine

theorem risingKeys_iff {α : Type} (t : Tbl α) : risingKeys t = true ↔ Rising t := by
  induction t with
  | nil => simp [risingKeys, Rising]
  | cons x t ih =>
    cases t with
    | nil => simp [risingKeys, Rising]
    | cons y t =>
      simp only [risingKeys, Bool.and_eq_true, decide_eq_true_eq, ih]
      constructor
      · rintro ⟨hxy, h⟩
        refine List.pairwise_cons.mpr ⟨fun e he => ?_, h⟩
        rcases List.mem_cons.mp he with rfl | he
        · exact hxy
        · exact Nat.lt_trans hxy ((List.pairwise_cons.mp h).1 e he)
      · intro h
        exact ⟨(List.pairwise_cons.mp h).1 y (by simp), (List.pairwise_cons.mp h).2⟩

theorem mem_tset {α : Type} [DecidableEq α] {d : α} {a : Nat} {v : α} {t : Tbl α} {e : Nat × α} (h : e ∈ tset d t a v) :
    (e = (a, v) ∧ v ≠ d) ∨ e ∈ t := by
  unfold tset at h
  split at h
  · exact .inr (List.mem_filter.mp h).1
  · rename_i hv
    exact (mem_tins h).imp (fun he => ⟨he, hv⟩) id

theorem Memory.wf_iff (m : List Host.Cell) :
    Memory.wf m = true ↔ Rising m ∧ ∀ c ∈ m, c.1 < storeEnd ∧ c.2 ≠ 0 := by
  simp [Memory.wf, ← risingKeys_iff]

theorem Regs.wf_iff (t : Tbl Word) : Regs.wf t = true ↔
    Rising t ∧ ∀ e ∈ t, (assigned e.1 = true ∧ e.2 &&& readMask e.1 = e.2) ∧ e.2 ≠ rstVal e.1 := by
  simp [Regs.wf, ← risingKeys_iff]

/-- Storing a byte keeps the store's canonical form. -/
theorem Memory.wf_set {m : List Host.Cell} (h : Memory.wf m = true) {a : Nat} (ha : a < storeEnd) (v : Byte) :
    Memory.wf (tset 0 m a v) = true := by
  rw [Memory.wf_iff] at h ⊢
  refine ⟨h.1.tset _ _ _, fun c hc => ?_⟩
  rcases mem_tset hc with ⟨rfl, hv⟩ | hc
  · exact ⟨ha, hv⟩
  · exact h.2 c hc

/-- Clearing a part of the store keeps its canonical form. -/
theorem Memory.wf_filter {m : List Host.Cell} (h : Memory.wf m = true) (p : Host.Cell → Bool) : Memory.wf (m.filter p) = true := by
  rw [Memory.wf_iff] at h ⊢
  exact ⟨h.1.filter p, fun c hc => h.2 c (List.mem_filter.mp hc).1⟩

/-- Storing a register keeps the registers' canonical form. -/
theorem Regs.wf_csr {t : Tbl Word} (h : Regs.wf t = true) (a : Nat) (v : Word) (ha : assigned a = true) :
    Regs.wf (if v &&& readMask a = rstVal a then tdel a t else tins a (v &&& readMask a) t) = true := by
  rw [Regs.wf_iff] at h ⊢
  split
  · exact ⟨h.1.tdel a, fun e he => h.2 e (List.mem_filter.mp he).1⟩
  · rename_i hv
    refine ⟨h.1.tins _ _, fun e he => ?_⟩
    rcases mem_tins he with rfl | he
    · exact ⟨⟨ha, by simp [BitVec.and_assoc]⟩, hv⟩
    · exact h.2 e he

theorem Regs.wf_filter {t : Tbl Word} (h : Regs.wf t = true) (p : Nat × Word → Bool) : Regs.wf (t.filter p) = true := by
  rw [Regs.wf_iff] at h ⊢
  exact ⟨h.1.filter p, fun c hc => h.2 c (List.mem_filter.mp hc).1⟩

/-- Every primitive change keeps the device well-formed. -/
theorem Upd.apply_wf (u : Upd) {d : Dev} (h : d.wf = true) : (u.apply d).wf = true := by
  obtain ⟨hm, hr⟩ := Bool.and_eq_true_iff.mp h
  have mk : ∀ e : Dev, Memory.wf e.mem = true → Regs.wf e.csr = true → e.wf = true := fun e h1 h2 => by simp [Dev.wf, h1, h2]
  cases u with
  | csr a v =>
    by_cases ha : assigned a
    · exact mk _ (by simpa [Upd.apply, ha] using hm) (by simpa [Upd.apply, ha] using Regs.wf_csr hr a v ha)
    · simpa [Upd.apply, ha] using h
  | csrReset k => exact mk _ hm (Regs.wf_filter hr _)
  | csrBlock lo hi => exact mk _ hm (Regs.wf_filter hr _)
  | mem a v =>
    by_cases ha : a < 0x6000000000
    · exact mk _ (by simpa [Upd.apply, ha] using Memory.wf_set hm ha v) (by simpa [Upd.apply, ha] using hr)
    · simpa [Upd.apply, ha] using h
  | memClear lo hi => exact mk _ (Memory.wf_filter hm _) hr
  | _ => exact h

/-- Every meaning keeps the device well-formed. -/
theorem Dev.run_wf (m : M Unit) {d : Dev} (h : d.wf = true) : (d.run m).wf = true := by
  rw [Dev.run_eq]
  exact Dev.replay_keeps (q := fun d => d.wf = true) (fun u _ _ hd => Upd.apply_wf u hd) h

/-- The store after reset has its canonical form. -/
theorem State.reset_mem_wf : Memory.wf State.reset.dev.mem = true := rfl

end Sys2Proof.Machine
end

