-- ==== Sys2Proof/Laws/Frame.lean ====
section
/-! SUPPORT. The footprint of a meaning: the parts and registers that it may change, found from the operations that it is made of. -/

namespace Sys2Proof.Machine

/-- Whether a primitive change touches only the parts and registers named, and no byte of the store. -/
def Foot (parts : List Part) (regs : Nat → Prop) : Upd → Prop
  | .now _ => .now ∈ parts
  | .nowSet _ => .now ∈ parts
  | .free => .free ∈ parts
  | .csr a _ => regs a
  | .csrReset _ => False
  | .csrBlock _ _ => False
  | .mem _ _ => False
  | .memClear _ _ => False
  | .store _ => .store ∈ parts
  | .evq _ => .evq ∈ parts
  | .home _ => .home ∈ parts
  | .own _ => .own ∈ parts
  | .stn _ => .stn ∈ parts
  | .trf _ => .trf ∈ parts
  | .fab _ => .fab ∈ parts
  | .links _ => .links ∈ parts
  | .cmd _ => .cmd ∈ parts
  | .staged _ => .staged ∈ parts
  | .dom _ => .dom ∈ parts
  | .eng _ => .eng ∈ parts
  | .sys _ => .sys ∈ parts

theorem Changes.refl (parts : List Part) (regs : Nat → Prop) (d : Dev) : Changes parts regs d d :=
  ⟨fun p _ => by cases p <;> rfl, fun _ _ => rfl, fun _ _ => rfl⟩

/-- A change within a footprint keeps what lies outside it. -/
theorem Foot.changes {parts : List Part} {regs : Nat → Prop} {u : Upd} (hu : Foot parts regs u) {d e : Dev} (h : Changes parts regs d e) :
    Changes parts regs d (u.apply e) := by
  obtain ⟨h1, h2, h3⟩ := h
  cases u with
  | csr a v =>
    refine ⟨fun p hp => ?_, fun b hb => ?_, fun b h => ?_⟩
    · have := h1 p hp
      cases p <;> simp_all [Part.same]
    · have : b ≠ a := fun hba => hb (hba ▸ hu)
      simp [this, h2 b hb]
    · simpa using h3 b h
  | csrReset | csrBlock | mem | memClear => exact hu.elim
  | _ =>
    refine ⟨fun p hp => ?_, fun b hb => ?_, fun b h => ?_⟩
    · have := h1 p hp
      cases p <;> first | exact this | exact absurd hu hp
    · exact h2 b hb
    · exact h3 b h

/-- A meaning with a footprint changes nothing outside it. -/
theorem Emits.changes {parts : List Part} {regs : Nat → Prop} {m : M Unit} (hm : Emits (Foot parts regs) m) (d : Dev) :
    Changes parts regs d (d.run m) :=
  Emits.keeps hm (q := Changes parts regs d) (fun _ hu _ h => hu.changes h) (Changes.refl parts regs d)

section
variable {parts : List Part} {regs : Nat → Prop}

theorem Emits.rd {p : Upd → Prop} (a : Nat) : Emits p (Machine.rd a) := Emits.look _
theorem Emits.fget {p : Upd → Prop} (a : Nat) (f : Fld) : Emits p (Machine.fget a f) := Emits.look _
theorem Emits.now {p : Upd → Prop} : Emits p Machine.now := Emits.look _
theorem Emits.wr {a : Nat} {v : Word} (h : regs a) : Emits (Foot parts regs) (Machine.wr a v) := Emits.emit h
theorem Emits.fset {a : Nat} {f : Fld} {x : Nat} (h : regs a) : Emits (Foot parts regs) (Machine.fset a f x) :=
  (Emits.rd a).bind fun _ => Emits.wr h
theorem Emits.fadd {a : Nat} {f : Fld} {n : Nat} (h : regs a) : Emits (Foot parts regs) (Machine.fadd a f n) :=
  (Emits.fget a f).bind fun _ => Emits.fset h
theorem Emits.bump {a : Nat} (h : regs a) : Emits (Foot parts regs) (Machine.bump a) := Emits.fadd h
theorem Emits.bump48 {a n : Nat} (h : regs a) : Emits (Foot parts regs) (Machine.bump48 a n) := Emits.fadd h
theorem Emits.passTo {t : Nat} (h : Part.now ∈ parts) : Emits (Foot parts regs) (Machine.passTo t) := Emits.emit h
theorem Emits.freeWord (h : Part.free ∈ parts) : Emits (Foot parts regs) Machine.freeWord :=
  (Emits.look _).bind fun _ => (Emits.emit h).bind fun _ => Emits.pure _
theorem Emits.freeBelow (n : Nat) (h : Part.free ∈ parts) : Emits (Foot parts regs) (Machine.freeBelow n) :=
  (Emits.freeWord h).bind fun _ => Emits.pure _
theorem Emits.wrMeta {n : Nat} {x : Meta} (h : Part.store ∈ parts) : Emits (Foot parts regs) (Machine.wrMeta n x) :=
  (Emits.look _).bind fun _ => Emits.emit h
theorem Emits.modLink {n : Nat} {f : Link → Link} (h : Part.links ∈ parts) : Emits (Foot parts regs) (Machine.modLink n f) :=
  Emits.dev.bind fun _ => Emits.emit h
theorem Emits.modStore {f : StoreSt → StoreSt} (h : Part.store ∈ parts) : Emits (Foot parts regs) (Machine.modStore f) :=
  (Emits.look _).bind fun _ => Emits.emit h
theorem Emits.modEvq {f : EvqSt → EvqSt} (h : Part.evq ∈ parts) : Emits (Foot parts regs) (Machine.modEvq f) :=
  (Emits.look _).bind fun _ => Emits.emit h
theorem Emits.modHome {f : HomeSt → HomeSt} (h : Part.home ∈ parts) : Emits (Foot parts regs) (Machine.modHome f) :=
  (Emits.look _).bind fun _ => Emits.emit h
theorem Emits.modOwn {f : OwnSt → OwnSt} (h : Part.own ∈ parts) : Emits (Foot parts regs) (Machine.modOwn f) :=
  (Emits.look _).bind fun _ => Emits.emit h
theorem Emits.modStn {f : StnSt → StnSt} (h : Part.stn ∈ parts) : Emits (Foot parts regs) (Machine.modStn f) :=
  (Emits.look _).bind fun _ => Emits.emit h
theorem Emits.modTrf {f : TrfSt → TrfSt} (h : Part.trf ∈ parts) : Emits (Foot parts regs) (Machine.modTrf f) :=
  (Emits.look _).bind fun _ => Emits.emit h
theorem Emits.modFab {f : FabSt → FabSt} (h : Part.fab ∈ parts) : Emits (Foot parts regs) (Machine.modFab f) :=
  (Emits.look _).bind fun _ => Emits.emit h
theorem Emits.modCmd {f : CmdSt → CmdSt} (h : Part.cmd ∈ parts) : Emits (Foot parts regs) (Machine.modCmd f) :=
  (Emits.look _).bind fun _ => Emits.emit h
theorem Emits.modStaged {f : StagedSt → StagedSt} (h : Part.staged ∈ parts) : Emits (Foot parts regs) (Machine.modStaged f) :=
  (Emits.look _).bind fun _ => Emits.emit h
theorem Emits.modDom {f : DomSt → DomSt} (h : Part.dom ∈ parts) : Emits (Foot parts regs) (Machine.modDom f) :=
  (Emits.look _).bind fun _ => Emits.emit h
theorem Emits.modEng {f : EngSt → EngSt} (h : Part.eng ∈ parts) : Emits (Foot parts regs) (Machine.modEng f) :=
  (Emits.look _).bind fun _ => Emits.emit h
theorem Emits.modSys {f : SysSt → SysSt} (h : Part.sys ∈ parts) : Emits (Foot parts regs) (Machine.modSys f) :=
  (Emits.look _).bind fun _ => Emits.emit h
theorem Emits.modRes {f : ResSt → ResSt} (h : Part.sys ∈ parts) : Emits (Foot parts regs) (Machine.modRes f) :=
  Emits.modSys h
theorem Emits.modPwr {f : PwrSt → PwrSt} (h : Part.sys ∈ parts) : Emits (Foot parts regs) (Machine.modPwr f) :=
  Emits.modSys h
theorem Emits.modBoot {f : BootSt → BootSt} (h : Part.sys ∈ parts) : Emits (Foot parts regs) (Machine.modBoot f) :=
  Emits.modSys h

end

end Sys2Proof.Machine
end

