-- ==== Sys2Proof/Laws/Events.lean ====
section
/-! SUPPORT. What raising a record does. -/

namespace Sys2Proof.Machine

/-- Holding a record at its source: at the end of what the sources hold, or, where the source holds 8 for the queue, discarded and
counted, with a mark owed. -/
theorem post_holdRec (srcInst x : Nat) (r : Rec) (w : Work) : M.post (holdRec srcInst x r) w =
    if 8 ≤ w.dev.holds (recRow r.code) srcInst x then
      M.post (do
        bump (A.EVQ_X_DROP_CNT x)
        modEvq fun e => { e with owed := if e.owed.contains (recRow r.code, srcInst, x) then e.owed else e.owed ++ [(recRow r.code, srcInst, x)] }) w
    else w.add (.evq { w.dev.evq with held := w.dev.evq.held ++ [⟨recRow r.code, srcInst, x, r⟩] }) := by
  unfold holdRec Dev.holds
  simp only [post_bind, val_look, post_look, post_ite, post_modEvq]

/-- Raising a record of a class other than FATAL. -/
theorem post_raise (code srcInst inst : Nat) (dom : Option Nat) (detail countA addr : Nat) (h : (recClass code == 3) = false) (w : Work) :
    M.post (raise code srcInst inst dom detail countA addr) w =
      M.post (holdRec srcInst (recQueue code) ⟨code, recClass code, inst, dom, detail, countA, addr, w.dev.now⟩) w := by
  unfold raise
  simp only [post_bind, val_now, post_now, h, on_false, post_pure]

end Sys2Proof.Machine
end

