-- ==== Sys2Proof/Tests/Slice0.lean ====
section
/-! SUPPORT. Tests: for each statement, inputs that meet the hypotheses of each of its clauses together; ill-formed commands that each check of
`Instr.wf` refuses; and a few single steps whose results were worked out from the rules. No value stands in for a free value: a test that
needs one leaves it open. -/

namespace Sys2Proof.Tests

open Sys2Proof Sys2Proof.Machine

set_option Elab.async false
set_option linter.all false

/-! ## Small states -/

/-- Registers set to values. -/
def put (l : List (Nat × Word)) (d : Dev) : Dev := { d with csr := l.foldl (fun t e => tins e.1 e.2 t) d.csr }
/-- Fields of registers set. -/
def sf (l : List (Nat × Fld × Nat)) (d : Dev) : Dev := l.foldl (fun d e => put [(e.1, e.2.1.put (d.reg e.1) e.2.2)] d) d
/-- Bytes of the store set. -/
def mem (a : Nat) (l : List Byte) (d : Dev) : Dev := { d with mem := (l.zipIdx).foldl (fun t e => tset 0 t (a + e.2) e.1) d.mem }
/-- The device after reset. -/
def D0 : Dev := State.reset.dev
/-- A state with no command waiting. -/
def st (d : Dev) : State := ⟨d, []⟩
/-- A device that runs: both halves up, every stack READY. -/
def Up : Dev := put ((A.TOP_HALF_STATUS, 0x13) :: (List.range 8).map fun k => (A.STK_STATUS k, 3)) D0
/-- An extent assigned to a domain, leased to Talku ports. -/
def lent (e dom ports : Nat) (d : Dev) : Dev := sf [(A.DOM_EXT_TAG e, F.DOM_EXT_TAG_DOMAIN, dom), (A.DOM_EXT_TAG e, F.DOM_EXT_TAG_STATE, 1),
  (A.LSE_EXT e, F.LSE_EXT_HOLDERS, ports), (A.LSE_EXT e, F.LSE_EXT_LEASE_ID, 7)] d
/-- A queue of 64 entries in a state, in extent 1: its ring at page 0x40000, its completion ring at 0x40010. -/
def withQ (q kind dom state : Nat) (d : Dev) : Dev := sf [(A.CMD_Q_CFG q, F.CMD_Q_CFG_KIND, kind), (A.CMD_Q_CFG q, F.CMD_Q_CFG_DOMAIN, dom),
  (A.CMD_Q_CFG q, F.CMD_Q_CFG_ENABLE, if state = 1 then 1 else 0),
  (A.CMD_Q_RING q, F.CMD_Q_RING_LOG2_SIZE, 6), (A.CMD_Q_RING q, F.CMD_Q_RING_BASE, 0x40000), (A.CMD_Q_CQ q, F.CMD_Q_CQ_LOG2_SIZE, 6),
  (A.CMD_Q_CQ q, F.CMD_Q_CQ_BASE, 0x40010), (A.CMD_Q_STATE q, F.CMD_Q_STATE_STATE, state)] (lent 1 0 1 d)
/-- Ports in a state. -/
def ports (l : List Nat) (x : Nat) (d : Dev) : Dev := sf (l.map fun p => (portStatusAddr p, ⟨0, 3⟩, x)) d
/-- A command packet: an opcode and fields as (byte, bytes, value). -/
def pk (op : Nat) (l : List (Nat × Nat × Nat)) : Line := l.foldl (fun p x => putLe p x.1 x.2.1 x.2.2) (putLe 0 0 2 op)
/-- A command in progress that queue 5 issued. -/
def rn (p : Line) : Run := { iss := .q 5, seq := 3, pkt := p }
/-- A device of a 4 × 4 × 4 span at node (1, 1, 1), started, with every port UP and every trunk available. -/
def Spn : Dev := { ports (List.range 16) 2 (put [(A.TOP_NODE, 1057), (A.TOP_SPAN_DIM, 0x900030303), (A.BOOT_STATUS, Fld.put F.BOOT_STATUS_STAGE 0 5)] Up) with
  fab := { trunkDown := (List.range 6).map fun k => (k, 1) } }
/-- A data flit with a sequence number and a body. -/
def flitOf (seq : Nat) (l : List Byte) : Flit :=
  let body := (l ++ List.replicate 608 0).take 608
  ⟨false, 0, BitVec.ofNat 256 (seq + 4096 + crc32 (toLe 28 (seq + 4096) ++ body) * 2 ^ 224), body⟩
/-- A span device with domain 4 active, extent 1 assigned to it, and window 263 of it open to node (2, 1, 1), its neighbour on port 0. -/
def Wn : Dev := put [(A.DOM_CFG 4, 1), (A.TRF_NODE_METER, 0), (A.STN_WIN 263, BitVec.ofNat 64 (15 + 3 * 64 + 2081 * 2 ^ 11 + 512 * 2 ^ 25))] (lent 1 4 1 Spn)
/-- A message from that neighbour. -/
def near (m : DMsg) : DMsg := { m with dst := 1057, src := 2081, order := 0, neg := 1, hops := 1 }
/-- An outstanding remote request of command 3 to that neighbour. -/
def outst (m : DMsg) : Outst := ⟨{ m with dst := 2081, src := 1057, tag := 9 }, 3, 17, 5000, none, false, false, 1, 40⟩
/-- A span device with an outstanding request and the command it serves. -/
def Wo (o : Outst) : Dev := { Spn with fab := { Spn.fab with out := [o], routes := [(2081, 1)] }, cmd := { runs := [rn 0] } }
/-- The operand unit of an OWNERSHIP message of the neighbour: kind, offset, epoch, status. -/
def ownMsg (kind off epoch stat : Nat) : DIn := { cls := 0, m := near { type := 0x62, len := 1, units := [putLe (putLe (putLe (putLe 0 0 1 kind) 8 8 off) 16 2 epoch) 18 1 stat] } }
/-- A QUORUM message of the neighbour with fields as (byte, bytes, value). -/
def quoMsg (l : List (Nat × Nat × Nat)) : DIn := { cls := 0, m := near { type := 0x64, len := 1, units := [l.foldl (fun p x => putLe p x.1 x.2.1 x.2.2) 0] } }
/-- The span device as span manager 2. -/
def Mg : Dev := put [(A.TOP_ROLE, 0x202)] Spn
/-- The span device with a MGMT queue 5 that has a command in progress. -/
def Cm (p : Line) : Dev := { withQ 5 1 0 1 Spn with cmd := { runs := [rn p] } }
/-- A command whose parameter block has been read. -/
def rb (op : Nat) (l : List Byte) : Run := { rn (pk op [(8, 8, 4096)]) with blk := l }
/-- A list of bytes with fields as (byte, bytes, value). -/
def bl (n : Nat) (l : List (Nat × Nat × Nat)) : List Byte :=
  l.foldl (fun b x => b.take x.1 ++ toLe x.2.1 x.2.2 ++ b.drop (x.1 + x.2.1)) (List.replicate n 0)
/-- The span device with commands in progress. -/
def Cr (l : List Run) : Dev := { withQ 5 1 0 1 Spn with cmd := { runs := l } }
/-- What a work reads, and its trail. -/
def got {α : Type} (w : Rd α) (x : α) : α := match (w.run.run {}).1 with | .ok y => y | .error _ => x
def trail {α : Type} (w : Rd α) : Trail := (w.run.run {}).2
/-- Whether a work ends without a stop. -/
def okB {α : Type} (w : Rd α) : Bool := match (w.run.run {}).1 with | .ok _ => true | .error _ => false
theorem got_eq {α : Type} (w : Rd α) (x : α) (h : okB w = true) : w.run.run {} = (.ok (got w x), trail w) := by
  unfold got trail okB at *
  generalize w.run.run {} = y at *
  obtain ⟨_ | _, _⟩ := y <;> simp_all
theorem got_pair {α β : Type} (w : Rd (α × β)) (x : α × β) (h : okB w = true) :
    w.run.run {} = (.ok ((got w x).1, (got w x).2), trail w) := got_eq w x h
/-- The translations that SLOT_BIND makes. -/
abbrev slotReads (d : Dev) (r : Run) : Rd Unit := do
  let _ ← Machine.tr d r (r.par 8 8) .r
  let _ ← Machine.tr d r (r.par 8 8) .w
theorem got_unit (w : Rd Unit) (h : okB w = true) : w.run.run {} = (.ok (), trail w) := got_eq w () h
/-- A device with a fence at the neighbour. -/
def fenced (d : Dev) : Dev := { d with fab := { d.fab with fences := [2081] } }
/-- A device with an image in its buffer. -/
def withImg (l : List Byte) (d : Dev) : Dev := { d with sys := { boot := { img := l } } }
theorem withImg_len (a : List (Nat × Word)) (l : List Byte) (d : Dev) : (st (put a (withImg l d))).dev.sys.boot.img.length = l.length := rfl

/-! ## What the statements say of a state, from its parts -/

/-- A command goes on. -/
theorem carries_of {d : Dev} {q : Req} {op : Nat} {r : Run} (h : issOf q ≠ .fw ∧ d.runOf (issOf q) = some r ∧ r.goes op = true ∧
    (r ∈ d.cmd.runs ∧ ∀ x ∈ d.cmd.runs, x.seq = r.seq → x = r) ∧ d.runOf .fw = none ∧ r.kept = []) : d.carries q op r :=
  ⟨h.1, h.2.1, h.2.2.1, h.2.2.2.1, h.2.2.2.2.1, h.2.2.2.2.2⟩
/-- Nothing stands before a line. -/
abbrev LineFree (d : Dev) (n : Nat) : Prop :=
  d.calm ∧ 64 * n < storeEnd ∧ d.stackServes (stackOf (64 * n)) = true ∧ d.repairing (64 * n) = false ∧ d.home.waiting = [] ∧ d.home.snoops = [] ∧
    d.errsAt n = [] ∧ (d.meta_ n).poison = false ∧ d.published n = false ∧ (d.ownRec (regionOf n)).st ≠ 1
theorem lineFree_of {d : Dev} {n : Nat} (h : LineFree d n) : d.lineFree n :=
  ⟨h.1, h.2.1, h.2.2.1, h.2.2.2.1, h.2.2.2.2.1, h.2.2.2.2.2.1, h.2.2.2.2.2.2.1, h.2.2.2.2.2.2.2.1, h.2.2.2.2.2.2.2.2.1, h.2.2.2.2.2.2.2.2.2⟩
theorem allFree_of {d : Dev} {k : Nat} {f : Nat → Nat} {p : Nat → Prop} (h : ∀ i < k, LineFree d (f i) ∧ p i) :
    ∀ i < k, d.lineFree (f i) ∧ p i := fun i hi => ⟨lineFree_of (h i hi).1, (h i hi).2⟩
/-- A host request is served. -/
theorem hostServed_of {d : Dev} {p : Nat} {i : TIn} {dom : Nat} (h : (d.power ≠ 3 ∧ d.portState p = Ps.up ∧ d.tlkViolation p i = none ∧
    (∀ q < 4, d.overThreshold q = false) ∧ (d.link p).inbox = [] ∧ i.errs = [] ∧ i.m.credit = none ∧ (d.meterCfg p).1 = 0) ∧
    d.arbiterIdle (portEast p) ∧ d.home.credits = [] ∧ d.home.groups = [] ∧
    d.fld (A.TLK_STATUS p) F.TLK_STATUS_RETRY_HOLD = 0 ∧ d.leaseCheck p i.m.addr = .inl dom)
    (l : d.lineFree (i.m.addr / 64)) : d.hostServed p i dom :=
  ⟨h.1.1, h.1.2.1, h.1.2.2.1, h.1.2.2.2.1, h.1.2.2.2.2.1, h.1.2.2.2.2.2.1, h.1.2.2.2.2.2.2.1, h.1.2.2.2.2.2.2.2, h.2.1, h.2.2.1, h.2.2.2.1, h.2.2.2.2.1, h.2.2.2.2.2, l⟩
/-- A message of another node is handled. -/
theorem drsServed_of {d : Dev} {n : Nat} {i : DIn} (h : d.portState (n + 4) = Ps.up ∧ d.drsViolation n i = none ∧
    d.overThreshold (n + 4) = false ∧ (d.link (n + 4)).inbox = [] ∧ dmsgFits i.m = true ∧ i.errs = [] ∧
    (d.isExt (n + 4) = true ∨ i.m.dst = d.node)) : d.drsServed n i :=
  ⟨h.1, h.2.1, h.2.2.1, h.2.2.2.1, h.2.2.2.2.1, h.2.2.2.2.2.1, h.2.2.2.2.2.2⟩
/-- Whether a work ends well, and every write of it lands at once. -/
def landsB (d : Dev) (r : Run) (w : Rd Cpl) : Bool := match w.run.run {} with
  | (.ok _, tr) => decide d.quiet && tr.wrs.all fun x => decide (x.pcause = 0) && match x.tgt with
    | .loc off cls => decide (LineFree d (off / 64) ∧ d.dirOf (off / 64) = (0, 0) ∧ d.refusal (64 * (off / 64)) (some r.dom) (some cls) = none)
    | .win .. => false
  | _ => false
theorem lands_ex {d : Dev} {r : Run} {w : Rd Cpl} (h : landsB d r w = true) :
    ∃ c tr, w.run.run {} = (.ok c, tr) ∧ d.quiet ∧ ∀ x ∈ tr.wrs, d.landsNow r x := by
  unfold landsB at h
  generalize w.run.run {} = y at *
  match y with
  | (.ok c, tr) =>
    simp only [Bool.and_eq_true, decide_eq_true_eq, List.all_eq_true] at h
    refine ⟨c, tr, rfl, h.1, fun x hx => ⟨(h.2 x hx).1, ?_⟩⟩
    have g := (h.2 x hx).2
    cases ht : x.tgt with
    | loc off cls =>
      rw [ht] at g
      have g' := of_decide_eq_true g
      exact ⟨lineFree_of g'.1, g'.2⟩
    | win => rw [ht] at g; exact absurd g (by simp)
/-- Whether a work fails. -/
def failsB (w : Rd Cpl) : Bool := match (w.run.run {}).1 with | .error (.fail _) => true | _ => false
theorem fails_ex {w : Rd Cpl} (h : failsB w = true) : ∃ c tr, w.run.run {} = (.error (.fail c), tr) := by
  unfold failsB at h
  generalize w.run.run {} = y at *
  match y with
  | (.error (.fail c), tr) => exact ⟨c, tr, rfl⟩
theorem crc32_lt (l : List Byte) : crc32 l < 2 ^ 32 := by
  have hb : ∀ c, c < 2 ^ 32 → crcBit c < 2 ^ 32 := fun c h => by
    unfold crcBit
    split
    · exact Nat.xor_lt_two_pow (by omega) (by omega)
    · omega
  have h8 : ∀ (r : List Nat) c, c < 2 ^ 32 → r.foldl (fun x _ => crcBit x) c < 2 ^ 32 := fun r => by
    induction r with
    | nil => exact fun c h => h
    | cons _ r ih => exact fun c h => ih _ (hb c h)
  have hl : ∀ (l : List Byte) c, c < 2 ^ 32 →
      l.foldl (fun c b => (List.range 8).foldl (fun x _ => crcBit x) (c ^^^ b.toNat)) c < 2 ^ 32 := fun l => by
    induction l with
    | nil => exact fun c h => h
    | cons b l ih => exact fun c h => ih _ (h8 _ _ (Nat.xor_lt_two_pow h (by have := b.isLt; omega)))
  exact Nat.xor_lt_two_pow (hl _ _ (by decide)) (by decide)
theorem toLe_add (w x y : Nat) : toLe w (x + y * 256 ^ w) = toLe w x := by
  induction w generalizing x y with
  | zero => rfl
  | succ w ih =>
    have h : x + y * 256 ^ (w + 1) = x + (y * 256 ^ w) * 256 := by ring
    have h1 : BitVec.ofNat 8 (x + (y * 256 ^ w) * 256) = BitVec.ofNat 8 x := by
      apply BitVec.eq_of_toNat_eq
      simp [BitVec.toNat_ofNat]
    simp only [toLe, h, h1, Nat.add_mul_div_right _ _ (by decide : 0 < 256), ih]
theorem flitOf_hdr (seq : Nat) (l : List Byte) (h : seq < 4096) :
    ∃ c < 2 ^ 32, (flitOf seq l).hdr.toNat = seq + 4096 + c * 2 ^ 224 ∧
      crc32 (toLe 28 (seq + 4096) ++ (flitOf seq l).body) = c := by
  refine ⟨_, crc32_lt _, ?_, rfl⟩
  have := crc32_lt (toLe 28 (seq + 4096) ++ (flitOf seq l).body)
  simp only [flitOf, BitVec.toNat_ofNat] at *
  omega
/-- A flit so made is good: its CRC holds, it carries no NAK and no FEC overflow, and has its number. -/
theorem flitOf_good (seq : Nat) (l : List Byte) (h : seq < 4096) :
    flitCrcOk (flitOf seq l) = true ∧ flitNakf (flitOf seq l) = false ∧ flitFtype (flitOf seq l) = 1 ∧ flitSeq (flitOf seq l) = seq ∧
      flitFovr (flitOf seq l) = false := by
  obtain ⟨c, hc, e, k⟩ := flitOf_hdr seq l h
  have e' : (flitOf seq l).hdr.toNat = seq + 4096 + c * 256 ^ 28 := by rw [e]; norm_num
  refine ⟨?_, ?_, ?_, ?_, ?_⟩
  · rw [flitCrcOk, e', toLe_add, k, beq_iff_eq, flitCrc, bits, e, Nat.shiftRight_eq_div_pow]
    omega
  · simp only [flitNakf, bit, BitVec.getLsbD, e, Nat.testBit_eq_decide_div_mod_eq, decide_eq_false_iff_not]; omega
  · simp only [flitFtype, bits, e, Nat.shiftRight_eq_div_pow]; omega
  · simp only [flitSeq, bits, e, Nat.shiftRight_eq_div_pow]; omega
  · simp only [flitFovr, bit, BitVec.getLsbD, e, Nat.testBit_eq_decide_div_mod_eq, decide_eq_false_iff_not]; omega
theorem flitGood_of {seq n : Nat} {l : List Byte} {p : Prop} (h : seq < 4096) (e : seq = n) :
    (flitOf seq l).uncorrectable = false ∧ (flitOf seq l).corrected = 0 ∧ flitCrcOk (flitOf seq l) = true ∧ flitNakf (flitOf seq l) = false ∧
      flitFtype (flitOf seq l) = 1 ∧ flitSeq (flitOf seq l) = n ∧ (p → flitFovr (flitOf seq l) = false) :=
  have g := flitOf_good seq l h
  ⟨rfl, rfl, g.1, g.2.1, g.2.2.1, g.2.2.2.1.trans e, fun _ => g.2.2.2.2⟩
theorem tget_absent {α : Type} (x : α) (t : Tbl α) (a : Nat) (h : ∀ e ∈ t, e.1 ≠ a) : tget x t a = x := by
  induction t with
  | nil => rfl
  | cons e t ih =>
    obtain ⟨k, v⟩ := e
    rw [tget, if_neg (h (k, v) (by simp)), ih fun e he => h e (by simp [he])]
theorem shadowMap_rst : ∀ w < 256, rstVal (A.TOP_SHADOW_MAP w) = 0 := by decide +kernel
/-- A device whose registers list no shadow map has no shadow. -/
theorem noShadow {d : Dev} (h : ∀ e ∈ d.csr, e.1 < A.TOP_SHADOW_MAP 0 ∨ A.TOP_SHADOW_MAP 256 ≤ e.1) : d.shadowCount < 64 := by
  have hs : ∀ n, d.shadowed n = false := fun n => by
    have hw : n % 16384 / 64 < 256 := by omega
    have hr := shadowMap_rst _ hw
    unfold Dev.shadowed Dev.reg
    rw [tget_absent, hr]
    · simp [bit]
    · intro e he
      have := h e he
      simp only [A.TOP_SHADOW_MAP] at *
      omega
  rw [Dev.shadowCount, List.filter_eq_nil_iff.mpr fun n _ => by simp [hs]]
  decide

/-! ## Ill-formed commands: each check of `Instr.wf` refuses a command that breaks it -/

/-- A device with a message on no port at all takes no ill-formed command. -/
def refuses (c : Instr) : Bool := !c.wf && (match exec c (st D0) with | .fault .illFormed => true | _ => false)

theorem test_wf_offset : refuses (.homeRead (2 ^ 39) 0 none []) = true := by decide +kernel
theorem test_wf_symbol : refuses (.homeRead 0 0 none [(73, 1)]) = true := by decide +kernel
theorem test_wf_write_offset : refuses (.homeWrite (2 ^ 39) 0 none 1 0) = true := by decide +kernel
theorem test_wf_atomic : refuses (.homeAtomic 0 0 none (putLe 0 0 1 255)) = true := by decide +kernel
theorem test_wf_scrub : refuses (.scrubRead 0 [(99, 1)]) = true := by decide +kernel
theorem test_wf_temps : (refuses (.stkTempRead [1]) && refuses (.jctSensorRead [1]) && refuses (.stackTempHoldRead [])) = true := by decide +kernel
theorem test_wf_talku_type : refuses (.rdU 0 { m := { type := 4, len := 1, data := [0] } }) = true := by decide +kernel
theorem test_wf_talku_units : refuses (.wrU 0 { m := { type := 4, len := 1 } }) = true := by decide +kernel
theorem test_wf_talku_vc : refuses (.rdU 0 { vc := 3, m := { type := 3 } }) = true := by decide +kernel
theorem test_wf_flit : (refuses (.tlkFlit 0 {}) && refuses (.drsFlit 0 { corrected := 16, body := List.replicate 608 0 })) = true := by decide +kernel
theorem test_wf_train : refuses (.linkTrainDone 4 { node := 16384 }) = true := by decide +kernel
theorem test_wf_train_span : refuses (.linkTrainDone 4 { span := 65536 }) = true := by decide +kernel
theorem test_wf_dorrus_class : refuses (.forward 0 { cls := 4, m := { type := 0x42 } }) = true := by decide +kernel
theorem test_wf_dorrus_type : refuses (.rd 0 { cls := 0, m := { type := 0x42 } }) = true := by decide +kernel
theorem test_wf_dorrus_kind : refuses (.beat 0 (quoMsg [(0, 1, 2)])) = true := by decide +kernel
theorem test_wf_tag : (refuses (.rspTimeout 65536) && refuses (.atomResendTimer 65536)) = true := by decide +kernel
theorem test_wf_replay : (refuses (.replayEntryExpire 0 0 12799) && refuses (.replayEntryExpire 0 0 16001) &&
    refuses (.replayEntryExpire 0 (2 ^ 24) 12800)) = true := by decide +kernel
theorem test_wf_engine : refuses (.engineWdtExpire 82) = true := by decide +kernel
theorem test_wf_flips : refuses (.evqPop 0 [0, 1, 2, 3, 4]) = true := by decide +kernel

/-! ## Rows, one step each; the expected values are worked out by hand from the rules named -/

/-- Whether a command answers a next state in which a test holds. -/
def after (c : Instr) (s : State) (p : Dev → Bool) : Bool := match exec c s with | .next t => p t.dev | _ => false

/-- An idle block stays as it is (assumption log 7), and no word spells a command. -/
theorem test_idle : step (st D0) = .next (st D0) := rfl
theorem test_decode : decodeTableWord 32 0xFFFFFFFF = none := rfl
/-- The front command runs on the rest of the queue. -/
theorem test_front : step ⟨D0, [.petW, .petE]⟩ = exec .petW ⟨D0, [.petE]⟩ := rfl
/-- A doorbell within the ring moves PROD (R65). -/
theorem test_doorbell : after (.cmdQDb 5 64) (st (withQ 5 1 0 1 Up)) (fun d => d.qptr 5 F.CMD_Q_PTR_PROD == 64) = true := by decide +kernel
/-- One beyond the ring does not (R65). -/
theorem test_doorbell_beyond : after (.cmdQDb 5 65) (st (withQ 5 1 0 1 Up)) (fun d => d.qptr 5 F.CMD_Q_PTR_PROD == 0) = true := by decide +kernel
/-- A home write stores the bytes that its mask names and no other (R105). -/
theorem test_home_write :
    after (.homeWrite 0x40000000 4 (some false) 1 (putLe (putLe 0 0 1 9) 1 1 7)) (st (mem 0x40000000 [1, 2] (lent 1 4 1 Up)))
      (fun d => d.byte 0x40000000 == 9 && d.byte 0x40000001 == 2) = true := by decide +kernel
/-- A write of a domain that does not hold the extent stores nothing (R131). -/
theorem test_home_write_rights :
    after (.homeWrite 0x40000000 5 (some false) 1 (putLe 0 0 1 9)) (st (mem 0x40000000 [1, 2] (lent 1 4 1 Up)))
      (fun d => d.byte 0x40000000 == 1) = true := by decide +kernel
/-- The image data register takes eight bytes, the lowest first (R520). -/
theorem test_image_data :
    after (.bootImgData 0x1122334455667788) (st (put [(A.BOOT_IMG_STATUS, 1)] Spn))
      (fun d => d.sys.boot.img == [0x88, 0x77, 0x66, 0x55, 0x44, 0x33, 0x22, 0x11]) = true := by decide +kernel
/-- DOMAIN_CREATE makes the domain ACTIVE with GEN 1 more than before (R133). -/
theorem test_domain_create :
    after (.domainCreate (.q 5)) (st (Cm (pk Op.domainCreate [(3, 1, 4), (16, 8, 77), (48, 2, 16), (50, 1, 64)])))
      (fun d => d.reg (A.DOM_CFG 4) &&& 3 == 1 && d.reg (A.DOM_IDENT 4 0) == 77) = true := by decide +kernel
/-- START_OK ends the start in stage 5 with no failure counted. -/
theorem test_start_ok :
    after .startOk (st (put [(A.BOOT_STATUS, 0x204)] { D0 with sys := { boot := { phase := 3, startDue := some 9 } } }))
      (fun d => d.reg A.BOOT_STATUS == 5) = true := by decide +kernel

/-! ## The statements about well-formed states and commands -/

theorem witness_StepKeepsStateWellFormed : ∃ s t : State, s.Inv ∧ step s = .next t := ⟨st D0, st D0, by decide +kernel, rfl⟩
theorem witness_ReservedBitsHoldNothing : ∃ s : State, s.Inv ∧ s.dev.csr ≠ [] := ⟨st (put [(A.TOP_HALF_STATUS, 0x13)] D0), by decide +kernel⟩
theorem witness_WellFormedCommandsRun : Instr.petW.wf = true ∧ (Instr.engineWdtExpire 82).wf = false := ⟨rfl, by decide⟩
theorem witness_QueuesKeepTheirCapacity :
    ∃ s t : State, (∀ x : Fin 3, (s.dev.evq.queue x).length ≤ evqCap x) ∧ exec .recordEntry s = .next t :=
  ⟨st D0, _, by decide +kernel, rfl⟩

/-! ## The hypotheses of the statements -/

/-- Inputs that meet the hypotheses of each clause of RecordEntersQueue. -/
theorem witness_RecordEntersQueue :
    (∃ (s : State) (x : Fin 3) (h : Held), let e := s.dev.evq; let cycle := max s.dev.now e.entryAt;
      let pend (c : Nat) : List Nat := (tget [] s.dev.sys.pwr.cdc c).filter fun t => decide (cycle < t); e.pick x = some h ∧ h.x = x ∧ (∀ y : Fin
      3, y ≠ x → e.pick y = none) ∧ (∀ c, h.crossing = some c → (pend c).length < 4)) ∧
    (∃ (s : State) (x : Fin 3) (h : Held), let e := s.dev.evq; let cycle := max s.dev.now e.entryAt;
      let pend (c : Nat) : List Nat := (tget [] s.dev.sys.pwr.cdc c).filter fun t => decide (cycle < t); (e.pick x = some h ∧ h.x = x ∧ (∀ y : Fin
      3, y ≠ x → e.pick y = none)) ∧ ∃ (c : _), let lost := bit (s.dev.reg (A.PWR_CDC_OVR (c / 64))) (c % 64); h.crossing = some c ∧ 4 ≤ (pend
      c).length ∧ lost = true) ∧
    (∃ (s : State) (x : Fin 3) (h : Held), let e := s.dev.evq; let cycle := max s.dev.now e.entryAt;
      let pend (c : Nat) : List Nat := (tget [] s.dev.sys.pwr.cdc c).filter fun t => decide (cycle < t); (e.pick x = some h ∧ h.x = x ∧ (∀ y : Fin
      3, y ≠ x → e.pick y = none)) ∧ ∃ (c : _), let lost := bit (s.dev.reg (A.PWR_CDC_OVR (c / 64))) (c % 64); s.dev.hasRoom Ev.cdcOverrun 0 ∧
      h.crossing = some c ∧ 4 ≤ (pend c).length ∧ lost = false) :=
  ⟨⟨st
     { D0 with evq := { held := [heldOf 0x0208 1 1 none 2 0 0 5], fault := List.replicate 2048 ⟨8, true, ⟨0x0203, 2, 1, none, 2, 0, 0, 5⟩⟩ }, sys := { pwr := { cdc := [(1, [3, 1000009, 1000011])] } } },
     1, heldOf 0x0208 1 1 none 2 0 0 5, by decide +kernel⟩,
   ⟨st (put [(A.PWR_CDC_OVR 0, 2)]
     { D0 with evq := { held := [heldOf 0x0208 1 1 none 2 0 0 5] }, sys := { pwr := { cdc := [(1, [2000009, 2000011, 2000013, 2000015])] } } }), 1,
     heldOf 0x0208 1 1 none 2 0 0 5, by decide +kernel, 1, by decide +kernel⟩,
   ⟨st { D0 with evq := { held := [heldOf 0x0208 1 1 none 2 0 0 5] }, sys := { pwr := { cdc := [(1, [2000009, 2000011, 2000013, 2000015])] } } },
     1, heldOf 0x0208 1 1 none 2 0 0 5, by decide +kernel, 1, (by unfold Dev.hasRoom; decide +kernel), by decide +kernel⟩⟩

/-- Inputs that meet the hypotheses of each clause of PopTakesOldestRecord. -/
theorem witness_PopTakesOldestRecord :
    (∃ (s : State) (x : Fin 3), s.dev.evq.queue x = []) ∧
    (∃ (s : State) (x : Fin 3) (q : _) (rest : _), s.dev.evq.queue x = q :: rest ∧ s.dev.evq.bank x < 16) :=
  ⟨⟨st D0, 1, by decide +kernel⟩,
   ⟨st { D0 with evq := { fault := [⟨7, true, ⟨0x0208, 2, 1, none, 2, 0, 0, 5⟩⟩], bankFault := 15 } }, 1, ⟨7, true, ⟨0x0208, 2, 1, none, 2, 0, 0,
     5⟩⟩, [], by decide +kernel⟩⟩

/-- Inputs that meet the hypotheses of each clause of TraceMark. -/
theorem witness_TraceMark :
    (∃ (s : State) (v : Word), s.dev.fld A.EVQ_TRACE_CFG F.EVQ_TRACE_CFG_EN ≠ 1) ∧
    (∃ (s : State) (v : Word), s.dev.fld A.EVQ_TRACE_CFG F.EVQ_TRACE_CFG_EN = 1 ∧ s.dev.holds 17 0 2 < 8) ∧
    (∃ (s : State) (v : Word), s.dev.fld A.EVQ_TRACE_CFG F.EVQ_TRACE_CFG_EN = 1 ∧ 8 ≤ s.dev.holds 17 0 2) :=
  ⟨⟨st D0, 0x123456789abcdef0, by decide +kernel⟩,
   ⟨st (sf [(A.EVQ_TRACE_CFG, F.EVQ_TRACE_CFG_EN, 1)] D0), 0x123456789abcdef0, by decide +kernel⟩,
   ⟨st (sf [(A.EVQ_TRACE_CFG, F.EVQ_TRACE_CFG_EN, 1)]
     { D0 with evq := { held := List.replicate 8 ⟨17, 0, 2, ⟨0x0F10, 0, 0x3FF, none, 0, 0, 1, 1⟩⟩ } }), 0x123456789abcdef0, by decide +kernel⟩⟩

/-- Inputs that meet the hypotheses of each clause of QueueEnable. -/
theorem witness_QueueEnable :
    (∃ (s : State) (q : Fin 512), s.dev.qstate q = Qs.disabled ∧ s.dev.queueOk q = true) ∧
    (∃ (s : State) (q : Fin 512), s.dev.qstate q = Qs.disabled ∧ s.dev.queueOk q = false) ∧
    (∃ (s : State) (q : Fin 512), s.dev.qstate q ≠ Qs.disabled) :=
  ⟨⟨st (withQ 5 1 0 0 Up), 5, by decide +kernel⟩,
   ⟨st (sf [(A.CMD_Q_RING 5, F.CMD_Q_RING_LOG2_SIZE, 5)] (withQ 5 1 0 0 Up)), 5, by decide +kernel⟩,
   ⟨st (withQ 5 1 0 2 Up), 5, by decide +kernel⟩⟩

/-- Inputs that meet the hypotheses of each clause of QueueDisable. -/
theorem witness_QueueDisable :
    (∃ (s : State) (q : Fin 512), s.dev.qstate q = Qs.running) ∧
    (∃ (s : State) (q : Fin 512), s.dev.qstate q ≠ Qs.running) :=
  ⟨⟨st { withQ 5 0 0 1 Up with cmd := { bells := [⟨5, 0, 3⟩, ⟨6, 0, 1⟩], acc := [⟨.q 5, 1, 0, 0⟩] } }, 5, by decide +kernel⟩,
   ⟨st (withQ 5 1 0 3 Up), 5, by decide +kernel⟩⟩

/-- Inputs that meet the hypotheses of each clause of QueueReset. -/
theorem witness_QueueReset :
    (∃ (s : State) (q : Fin 512), (s.dev.qstate q = Qs.halted ∨ s.dev.qstate q = Qs.draining)) ∧
    (∃ (s : State) (q : Fin 512), (¬ (s.dev.qstate q = Qs.halted ∨ s.dev.qstate q = Qs.draining))) :=
  ⟨⟨st { sf [(A.CMD_Q_PTR 5, F.CMD_Q_PTR_PROD, 9)] (withQ 5 0 0 2 Up) with cmd := { bells := [⟨6, 0, 1⟩], acc := [⟨.q 5, 1, 0, 0⟩] } }, 5,
     by decide +kernel⟩,
   ⟨st (withQ 5 1 0 1 Up), 5, by decide +kernel⟩⟩

/-- Inputs that meet the hypotheses of each clause of DoorbellMovesProd. -/
theorem witness_DoorbellMovesProd :
    (∃ (s : State) (q : Fin 512) (prod : BitVec 16), let d := s.dev; let old := d.qptr q F.CMD_Q_PTR_PROD; let cons := d.qptr q F.CMD_Q_PTR_CONS;
      let fits := ptrSub prod.toNat cons ≤ d.ringSize q ∧ ptrSub prod.toNat old ≤ d.ringSize q - ptrSub old cons; d.awake ∧ d.qstate q = Qs.running
      ∧ fits) ∧
    (∃ (s : State) (q : Fin 512) (prod : BitVec 16), let d := s.dev; let old := d.qptr q F.CMD_Q_PTR_PROD; let cons := d.qptr q F.CMD_Q_PTR_CONS;
      let fits := ptrSub prod.toNat cons ≤ d.ringSize q ∧ ptrSub prod.toNat old ≤ d.ringSize q - ptrSub old cons; d.awake ∧ d.qstate q = Qs.running
      ∧ ¬ fits) ∧
    (∃ (s : State) (q : Fin 512) (prod : BitVec 16), let d := s.dev; d.awake ∧ d.qstate q ≠ Qs.running) :=
  ⟨⟨st (withQ 5 1 0 1 Up), 5, 64, (by unfold Dev.awake; decide +kernel), by decide +kernel⟩,
   ⟨st (withQ 5 1 0 1 Up), 5, 65, (by unfold Dev.awake; decide +kernel), by decide +kernel⟩,
   ⟨st (withQ 5 1 0 2 Up), 5, 64, (by unfold Dev.awake; decide +kernel), by decide +kernel⟩⟩

/-- Inputs that meet the hypotheses of each clause of CompletionDoorbellMovesHead. -/
theorem witness_CompletionDoorbellMovesHead :
    (∃ (s : State) (q : Fin 512) (head : BitVec 16), let d := s.dev; let old := d.qptr q F.CMD_Q_PTR_CQ_HEAD;
      let fits := ptrSub head.toNat old ≤ ptrSub (d.qptr q F.CMD_Q_PTR_CQ_TAIL) old; d.awake ∧ d.qstate q = Qs.running ∧ fits) ∧
    (∃ (s : State) (q : Fin 512) (head : BitVec 16), let d := s.dev; let old := d.qptr q F.CMD_Q_PTR_CQ_HEAD;
      let fits := ptrSub head.toNat old ≤ ptrSub (d.qptr q F.CMD_Q_PTR_CQ_TAIL) old; d.awake ∧ d.qstate q = Qs.running ∧ ¬ fits) ∧
    (∃ (s : State) (q : Fin 512) (head : BitVec 16), let d := s.dev; d.awake ∧ d.qstate q ≠ Qs.running) :=
  ⟨⟨st (sf [(A.CMD_Q_PTR 5, F.CMD_Q_PTR_CQ_TAIL, 3)] (withQ 5 1 0 1 Up)), 5, 3, (by unfold Dev.awake; decide +kernel), by decide +kernel⟩,
   ⟨st (sf [(A.CMD_Q_PTR 5, F.CMD_Q_PTR_CQ_TAIL, 3)] (withQ 5 1 0 1 Up)), 5, 4, (by unfold Dev.awake; decide +kernel), by decide +kernel⟩,
   ⟨st (withQ 5 1 0 2 Up), 5, 0, (by unfold Dev.awake; decide +kernel), by decide +kernel⟩⟩

/-- Inputs that meet the hypotheses of each clause of LaneRepairStartsOrIsRefused. -/
theorem witness_LaneRepairStartsOrIsRefused :
    (∃ (s : State) (k : Fin 8) (pc : Fin 64) (pin : Fin 64), s.dev.repairRefusal k pc pin = none) ∧
    (∃ (s : State) (k : Fin 8) (pc : Fin 64) (pin : Fin 64) (why : _), s.dev.repairRefusal k pc pin = some why) :=
  ⟨⟨st Up, 2, 63, 35, by decide +kernel⟩,
   ⟨st Up, 2, 63, 36, 0, by decide +kernel⟩⟩

/-- Inputs that meet the hypotheses of each clause of LaneRepairEnds. -/
theorem witness_LaneRepairEnds :
    (∃ (s : State) (k : Fin 8), s.dev.quiet ∧ (∀ r ∈ s.dev.store.repairs, r.stack ≠ k.val)) ∧
    (∃ (s : State) (k : Fin 8), s.dev.quiet ∧ ∃ (r : Repair), s.dev.store.repairs.find? (fun r => r.stack == k.val) = some r ∧ r.pc < 64 ∧ r.pin <
      64 ∧ s.dev.holds 3 k 1 < 8) :=
  ⟨⟨st { Up with store := { repairs := [⟨3, 63, 35⟩] } }, 2, by decide +kernel⟩,
   ⟨st { Up with store := { repairs := [⟨2, 63, 35⟩] } }, 2, by decide +kernel, ⟨2, 63, 35⟩, by decide +kernel⟩⟩

/-- Inputs that meet the hypotheses of each clause of RefreshAndPowerDown. -/
theorem witness_RefreshAndPowerDown :
    (∃ (s : State) (k : Fin 8) (pc : Fin 64) (bank : Fin 48), s.dev.refreshes k = true) ∧
    (∃ (s : State) (k : Fin 8) (pc : Fin 64) (bank : Fin 48), s.dev.refreshes k = false) ∧
    (∃ (s : State) (k : Fin 8) (pc : Fin 64) (bank : Fin 48), let key := k.val * 64 + pc; let down := key :: s.dev.store.down; s.dev.power = 2 ∧
      s.dev.fld (A.STK_STATUS k) F.STK_STATUS_STATE = Ks.ready ∧ key ∉ s.dev.store.down) ∧
    (∃ (s : State) (k : Fin 8) (pc : Fin 64) (bank : Fin 48), s.dev.power ≠ 2) :=
  ⟨⟨st { Up with store := { acts := [(tallyKey 2 63 47, 500)], openRow := [(tallyKey 2 63 47, 9)] } }, 2, 63, 47, by decide +kernel⟩,
   ⟨st D0, 2, 63, 47, by decide +kernel⟩,
   ⟨st (sf [(A.PWR_STATUS, F.PWR_STATUS_STATE, 2)] { Up with store := { down := (List.range 63).map (· + 128), lastUse := [(191, 77)] } }), 2, 63,
     47, by decide +kernel⟩,
   ⟨st Up, 2, 63, 47, by decide +kernel⟩⟩

/-- Inputs that meet the hypotheses of each clause of StackTrainsAndInitialises. -/
theorem witness_StackTrainsAndInitialises :
    (∃ (s : State) (k : Fin 8), s.dev.fld (A.STK_STATUS k) F.STK_STATUS_STATE = Ks.training ∧ s.dev.sys.pwr.p3 ≠ 4) ∧
    (∃ (s : State) (k : Fin 8), s.dev.fld (A.STK_STATUS k) F.STK_STATUS_STATE = Ks.init ∧ s.Inv) ∧
    (∃ (s : State) (k : Fin 8), s.dev.hasRoom 0x0208 k ∧ s.dev.home.waiting = [] ∧ s.dev.calm ∧ (∀ j ∈ s.dev.dom.jobs, j.taken = false)) ∧
    (∃ (s : State) (k : Fin 8), s.dev.fld (A.STK_STATUS k) F.STK_STATUS_STATE ≠ Ks.training) ∧
    (∃ (s : State) (k : Fin 8), s.dev.fld (A.STK_STATUS k) F.STK_STATUS_STATE ≠ Ks.init) :=
  ⟨⟨st (sf [(A.STK_STATUS 2, F.STK_STATUS_STATE, 1)] Up), 2, by decide +kernel⟩,
   ⟨st (sf [(A.STK_STATUS 2, F.STK_STATUS_STATE, 2)] (mem 0 [1, 2, 3] (mem 512 [5, 6, 7] Up))), 2, by decide +kernel⟩,
   ⟨st Up, 2, (by unfold Dev.hasRoom; decide +kernel), by decide +kernel⟩,
   ⟨st Up, 2, by decide +kernel⟩,
   ⟨st Up, 2, by decide +kernel⟩⟩

/-- Inputs that meet the hypotheses of each clause of HomeWriteStores. -/
theorem witness_HomeWriteStores :
    (∃ (s : State) (offset : Nat) (domain : Fin 32) (cls : Option Bool) (mask : BitVec 64) (data : Line), let n := lineNo offset; s.dev.lineFree n
      ∧ offset < 2 ^ 39 ∧ s.dev.home.groups = [] ∧ s.dev.dirOf n = (0, 0) ∧ s.dev.refusal (64 * n) (some domain.val) (cls.map b2n) = none) :=
  ⟨st (mem 0x40000000 [1, 2, 3] (lent 1 4 1 Up)), 0x40000000, 4, some false, 0x8000000000000005, putLe (putLe (putLe 0 0 1 9) 2 1 0) 63 1 255,
    lineFree_of (by decide +kernel), by decide +kernel⟩

/-- Inputs that meet the hypotheses of each clause of HomeAtomicApplies. -/
theorem witness_HomeAtomicApplies :
    (∃ (s : State) (offset : Nat) (domain : Fin 32) (cls : Option Bool) (o : Line), let n := lineNo offset; s.dev.lineFree n ∧ offset < 2 ^ 39 ∧
      atomOk o offset = true ∧ s.dev.home.groups = [] ∧ s.dev.dirOf n = (0, 0) ∧ s.dev.refusal (64 * n) (some domain.val) (cls.map b2n) = none) :=
  ⟨st (mem 0x40000008 [255, 255, 255, 255] (lent 1 4 1 Up)), 0x40000008, 4, none, putLe (putLe (putLe 0 0 1 2) 1 1 2) 16 1 1, lineFree_of
    (by decide +kernel), by decide +kernel⟩

/-- Inputs that meet the hypotheses of each clause of HomeReadDecodes. -/
theorem witness_HomeReadDecodes :
    (∃ (s : State) (offset : Nat) (domain : Fin 32) (cls : Option Bool) (errs : SymErrs), let n := lineNo offset; let k := stackOf (64 * n);
      let new := errs.filter fun e => decide (e.1 < 72); offset < 2 ^ 39 ∧ symErrsFit errs = true ∧ s.dev.errsAt n = [] ∧ s.dev.stackServes k =
      true ∧ s.dev.repairing (64 * n) = false ∧ s.dev.quiet ∧ (∀ x ∈ s.dev.home.snoops, x.line ≠ n) ∧ s.dev.home.groups = [] ∧ s.dev.erasedPin k
      (pcOf (64 * n)) = none ∧ s.dev.refusal (64 * n) (some domain.val) (cls.map b2n) = none ∧ new = []) ∧
    (∃ (s : State) (offset : Nat) (domain : Fin 32) (cls : Option Bool) (errs : SymErrs), let n := lineNo offset; let k := stackOf (64 * n);
      let new := errs.filter fun e => decide (e.1 < 72); offset < 2 ^ 39 ∧ symErrsFit errs = true ∧ s.dev.errsAt n = [] ∧ s.dev.stackServes k =
      true ∧ s.dev.repairing (64 * n) = false ∧ s.dev.quiet ∧ (∀ x ∈ s.dev.home.snoops, x.line ≠ n) ∧ s.dev.home.groups = [] ∧ s.dev.erasedPin k
      (pcOf (64 * n)) = none ∧ s.dev.refusal (64 * n) (some domain.val) (cls.map b2n) = none ∧ (realErrs new).length ∈ [1, 2]) ∧
    (∃ (s : State) (offset : Nat) (domain : Fin 32) (cls : Option Bool) (errs : SymErrs), let n := lineNo offset; let k := stackOf (64 * n);
      let new := errs.filter fun e => decide (e.1 < 72); offset < 2 ^ 39 ∧ symErrsFit errs = true ∧ s.dev.errsAt n = [] ∧ s.dev.stackServes k =
      true ∧ s.dev.repairing (64 * n) = false ∧ s.dev.quiet ∧ (∀ x ∈ s.dev.home.snoops, x.line ≠ n) ∧ s.dev.home.groups = [] ∧ s.dev.erasedPin k
      (pcOf (64 * n)) = none ∧ s.dev.refusal (64 * n) (some domain.val) (cls.map b2n) = none ∧ (realErrs new).length ∈ [3, 4] ∧ (∀ e ∈
      s.dev.home.dc, e.line ≠ n)) :=
  ⟨⟨st (mem 0x40000000 [1, 2, 3] (lent 1 4 1 Up)), 0x40000000, 4, some false, [], by decide +kernel⟩,
   ⟨st (mem 0x40000000 [1, 2, 3] (lent 1 4 1 Up)), 0x40000000, 4, some false, [(0, 1), (71, 255)], by decide +kernel⟩,
   ⟨st (mem 0x40000000 [1, 2, 3] (lent 1 4 1 Up)), 0x40000000, 4, some false, [(0, 1), (71, 255), (5, 3)], by decide +kernel⟩⟩

/-- Inputs that meet the hypotheses of each clause of ScrubAdvances. -/
theorem witness_ScrubAdvances :
    (∃ (s : State) (k : Fin 8), let n := s.dev.fld (A.STK_SCRUB_POS k) F.STK_SCRUB_POS_LINE; let line := offsetOf k n / 64; s.dev.fld (A.STK_CFG k)
      F.STK_CFG_SCRUB_EN = 1 ∧ s.dev.power ≠ 3 ∧ s.dev.stackServes k = true ∧ s.dev.repairing (64 * line) = false ∧ (∀ x ∈ s.dev.home.snoops,
      x.line ≠ line) ∧ s.dev.errsAt line = []) :=
  ⟨st (sf [(A.STK_CFG 2, F.STK_CFG_SCRUB_EN, 1), (A.STK_SCRUB_POS 2, F.STK_SCRUB_POS_LINE, 805306367)]
    { Up with store := { tally := [(8195, 2)] } }), 2, by decide +kernel⟩

/-- Inputs that meet the hypotheses of each clause of HomeTimers. -/
theorem witness_HomeTimers :
    (∃ (s : State) (k : Fin 8) (c : Credit) (due : Nat), s.dev.home.credits.find? (fun c => c.slc == k.val && c.due.isSome) = some c ∧ c.due = some
      due ∧ (∀ x ∈ s.dev.home.credits, x.due.isSome = true)) ∧
    (∃ (s : State) (p : Fin 4) (n : Nat), s.dev.hasRoom 0x0402 0 ∧ s.dev.home.walks.find? (·.1 == p.val) = some (p.val, n)) ∧
    (∃ (s : State) (p : Fin 4) (n : Nat) (x : Snoop), s.dev.home.snoops.find? (fun x => x.line == n && x.port == p.val) = some x ∧ s.dev.dirOf n =
      (2, 2 ^ p.val) ∧ s.dev.quiet ∧ (s.dev.violCfg p).1 = 0) :=
  ⟨⟨st { Up with home := { credits := [⟨2, 1, 3, 4, some 500, none⟩] } }, 2, ⟨2, 1, 3, 4, some 500, none⟩, 500, by decide +kernel⟩,
   ⟨st { sf [(A.HOM_STATUS, F.HOM_STATUS_WALK, 6)] Up with home := { walks := [(1, 5)] } }, 1, 5, (by unfold Dev.hasRoom; decide +kernel),
     by decide +kernel⟩,
   ⟨st { put [(A.TLK_VIOL_CFG 1, 0)] Up with home := { snoops := [⟨9, 1, false, 800⟩], dc := [⟨9, 10⟩] } }, 1, 9, ⟨9, 1, false, 800⟩,
     by decide +kernel⟩⟩

/-- Inputs that meet the hypotheses of each clause of TileGate. -/
theorem witness_TileGate :
    (∃ (s : State) (tile : Fin 64), let mayGate := s.dev.power = 1 ∧ s.dev.tileIdle tile = true ∧ s.dev.tileGated tile = false; mayGate ∧
      s.dev.stn.invals = []) ∧
    (∃ (s : State) (tile : Fin 64), let mayGate := s.dev.power = 1 ∧ s.dev.tileIdle tile = true ∧ s.dev.tileGated tile = false; ∃ (i : _) (rest :
      _), mayGate ∧ s.dev.stn.invals = i :: rest) ∧
    (∃ (s : State) (tile : Fin 64), let mayGate := s.dev.power = 1 ∧ s.dev.tileIdle tile = true ∧ s.dev.tileGated tile = false; ¬ mayGate) :=
  ⟨⟨st (sf [(A.PWR_STATUS, F.PWR_STATUS_STATE, 1), (A.PWR_TILE_GATED, ⟨0, 64⟩, 1)]
     { Up with own := { ret := [⟨63, 1, 0, 0, 0, 0, 0, 0, 0, 0, 0⟩] }, stn := { caches := [(63, [1])] } }), 63, by decide +kernel⟩,
   ⟨st (sf [(A.PWR_STATUS, F.PWR_STATUS_STATE, 1), (A.PWR_TILE_GATED, ⟨0, 64⟩, 1)]
     { Up with stn := { invals := [⟨3, 9, 0, 100, 100, false, [2], 900, none⟩, ⟨4, 9, 0, 100, 100, false, [], 900, none⟩] } }), 63, ⟨3, 9, 0, 100,
     100, false, [2], 900, none⟩, [⟨4, 9, 0, 100, 100, false, [], 900, none⟩], by decide +kernel⟩,
   ⟨st Up, 63, by decide +kernel⟩⟩

/-- Inputs that meet the hypotheses of each clause of PowerStateP2. -/
theorem witness_PowerStateP2 :
    (∃ (s : State) (seq : _), s.dev.sys.pwr.req = some (2, seq) ∧ s.dev.runSeq seq = none) ∧
    (∃ (s : State), s.dev.sys.pwr.req = none) ∧
    (∃ (s : State), s.dev.power = 2 ∧ s.dev.sys.pwr.wakeAt.isSome = true) ∧
    (∃ (s : State), s.dev.power ≠ 2) :=
  ⟨⟨st { Up with sys := { pwr := { req := some (2, 4) } } }, 4, by decide +kernel⟩,
   ⟨st Up, by decide +kernel⟩,
   ⟨st (sf [(A.PWR_STATUS, F.PWR_STATUS_STATE, 2)] { Up with sys := { pwr := { wakeAt := some 9 } } }), by decide +kernel⟩,
   ⟨st Up, by decide +kernel⟩⟩

/-- Inputs that meet the hypotheses of each clause of PowerStateP3Entry. -/
theorem witness_PowerStateP3Entry :
    (∃ (s : State) (seq : _), s.dev.sys.pwr.req = some (3, seq) ∧ s.dev.runSeq seq = none) ∧
    (∃ (s : State), s.dev.sys.pwr.p3 = 1 ∧ s.dev.home.snoops = [] ∧ s.dev.home.waiting = [] ∧ s.dev.home.credits = [] ∧ s.dev.home.dc = [] ∧
      s.dev.store.repairs = [] ∧ s.dev.sys.pwr.wakeAt = none) :=
  ⟨⟨st { Up with sys := { pwr := { req := some (3, 4) } } }, 4, by decide +kernel⟩,
   ⟨st { Up with sys := { pwr := { p3 := 1 } } }, by decide +kernel⟩⟩

/-- Inputs that meet the hypotheses of each clause of PowerStateP3Exit. -/
theorem witness_PowerStateP3Exit :
    (∃ (s : State), s.dev.sys.pwr.p3 = 2 ∧ s.dev.sys.pwr.avs = none) ∧
    (∃ (s : State), s.dev.sys.pwr.p3 = 3) ∧
    (∃ (s : State), s.dev.sys.pwr.p3 = 4 ∧ (∀ k < 8, s.dev.stackServes k = true ∨ s.dev.stackFailed k = true)) :=
  ⟨⟨st { Up with sys := { pwr := { p3 := 2, wakeAt := some 40 } } }, by decide +kernel⟩,
   ⟨st { Up with sys := { pwr := { p3 := 3, wakeAt := some 40 } } }, by decide +kernel⟩,
   ⟨st { Up with sys := { pwr := { p3 := 4, wakeAt := some 40 } } }, by decide +kernel⟩⟩

/-- Inputs that meet the hypotheses of each clause of ClockRelock. -/
theorem witness_ClockRelock :
    (∃ (s : State) (k : Relock), s.dev.sys.pwr.relock = some k ∧ k.locking = true ∧ k.op < 4 ∧ k.margin < 128) ∧
    (∃ (s : State) (k : Relock), s.dev.sys.pwr.relock = some k ∧ k.locking = true ∧ k.op < 4 ∧ k.margin < 128) :=
  ⟨⟨st { Up with sys := { pwr := { relock := some ⟨none, 0, 3, true⟩ } } }, ⟨none, 0, 3, true⟩, by decide +kernel⟩,
   ⟨st { Up with sys := { pwr := { relock := some ⟨none, 3, 3, true⟩ } } }, ⟨none, 3, 3, true⟩, by decide +kernel⟩⟩

/-- Inputs that meet the hypotheses of each clause of AvsFrames. -/
theorem witness_AvsFrames :
    (∃ (s : State) (a : Avs) (value : Nat) (current : Nat) (temp : Nat), s.dev.sys.pwr.avs = some a ∧ a.readBack = false ∧ s.dev.avsTarget a <
      1024) ∧
    (∃ (s : State) (a : Avs) (value : Nat) (current : Nat) (temp : Nat), s.dev.sys.pwr.avs = some a ∧ a.readBack = true ∧ a.occ ≠ 1 ∧
      s.dev.avsTarget a ≤ value + 10 ∧ value ≤ s.dev.avsTarget a + 10) ∧
    (∃ (s : State) (a : Avs) (value : Nat) (current : Nat) (temp : Nat), s.dev.sys.pwr.avs = some a ∧ a.failed = 3) ∧
    (∃ (s : State) (a : Avs) (value : Nat) (current : Nat) (temp : Nat), s.dev.sys.pwr.avs = some a ∧ a.readBack = true ∧ s.dev.now + 50 ≤ a.sent +
      5000) ∧
    (∃ (s : State) (a : Avs) (value : Nat) (current : Nat) (temp : Nat), s.dev.sys.pwr.avs = some a ∧ 4 ≤ a.failed) :=
  ⟨⟨st { Up with sys := { pwr := { avs := some ⟨1, 700, 0, false, 50⟩ } } }, ⟨1, 700, 0, false, 50⟩, 705, 2000, 60, by decide +kernel⟩,
   ⟨st { Up with sys := { pwr := { avs := some ⟨2, 700, 0, true, 50⟩ } } }, ⟨2, 700, 0, true, 50⟩, 705, 2000, 60, by decide +kernel⟩,
   ⟨st { Up with sys := { pwr := { avs := some ⟨2, 700, 3, true, 50⟩ } } }, ⟨2, 700, 3, true, 50⟩, 705, 2000, 60, by decide +kernel⟩,
   ⟨st { Up with sys := { pwr := { avs := some ⟨2, 700, 0, true, 50⟩ } } }, ⟨2, 700, 0, true, 50⟩, 705, 2000, 60, by decide +kernel⟩,
   ⟨st { Up with sys := { pwr := { avs := some ⟨2, 700, 4, true, 50⟩ } } }, ⟨2, 700, 4, true, 50⟩, 705, 2000, 60, by decide +kernel⟩⟩

/-- Inputs that meet the hypotheses of each clause of TemperatureReadings. -/
theorem witness_TemperatureReadings :
    (∃ (s : State) (temps : List Nat), temps.length = 18 ∧ (∀ x ∈ temps, x < s.dev.jctThrottle) ∧ s.dev.fld A.PWR_STATUS F.PWR_STATUS_THROTTLED =
      0) ∧
    (∃ (s : State) (temps : List Nat), temps.length = 8 ∧ (∀ x ∈ temps, x < 105)) :=
  ⟨⟨st Up, (List.range 18).map (· + 40), by decide +kernel⟩,
   ⟨st Up, (List.range 8).map (· + 83), by decide +kernel⟩⟩

/-- Inputs that meet the hypotheses of each clause of ThermalRestart. -/
theorem witness_ThermalRestart :
    (∃ (s : State) (temps : List Nat) (tick : _) (byStack : _), s.dev.sys.pwr.trip = some (tick, byStack) ∧ s.dev.cool = true ∧ s.dev.fld A.PWR_CFG
      F.PWR_CFG_TRIP_RESTART = 1 ∧ s.dev.sys.pwr.rstHeld = false) ∧
    (∃ (s : State) (temps : List Nat), temps.length = 8 ∧ (∀ x ∈ temps, x ≤ 95) ∧ s.dev.sys.pwr.holdTemp = true ∧ 2 ≤ s.dev.sys.boot.phase) :=
  ⟨⟨st (sf [(A.PWR_CFG, F.PWR_CFG_TRIP_RESTART, 1)] { Up with sys := { pwr := { trip := some (70, true) } } }), [], 70, true, by decide +kernel⟩,
   ⟨st { D0 with sys := { pwr := { holdTemp := true }, boot := { phase := 2 } } }, List.replicate 8 95, by decide +kernel⟩⟩

/-- Inputs that meet the hypotheses of each clause of PwrOk. -/
theorem witness_PwrOk :
    (∃ (s : State) (tick : Nat), s.dev.level 1 = false) ∧
    (∃ (s : State) (tick : Nat), s.dev.level 1 = true ∧ s.Inv) ∧
    (∃ (s : State) (tick : Nat), s.dev.level 1 = true) :=
  ⟨⟨st D0, 99, by decide +kernel⟩,
   ⟨st (sf [(A.PWR_IN_STATUS, ⟨1, 1⟩, 1)] (mem 512 [3] Up)), 99, by decide +kernel⟩,
   ⟨st (sf [(A.PWR_IN_STATUS, ⟨1, 1⟩, 1)] (mem 512 [3] Up)), 99, by decide +kernel⟩⟩

/-- Inputs that meet the hypotheses of each clause of InputEdges. -/
theorem witness_InputEdges :
    (∃ (s : State) (tick : Nat) (last : Nat), s.dev.level 1 = true ∧ s.dev.sys.pwr.ins.length = 3 ∧ (s.dev.inp 0).taken = some last ∧ max s.dev.now
      tick < last + 64) ∧
    (∃ (s : State) (tick : Nat) (last : Nat), s.dev.level 1 = true ∧ s.dev.sys.pwr.ins.length = 3 ∧ (s.dev.inp 2).taken = some last ∧ max s.dev.now
      tick < last + 64) ∧
    (∃ (s : State) (tick : Nat) (last : Nat), s.dev.level 1 = true ∧ s.dev.sys.pwr.ins.length = 3 ∧ (s.dev.inp 2).taken = some last ∧ last + 64 ≤
      max s.dev.now tick) :=
  ⟨⟨st (sf [(A.PWR_IN_STATUS, ⟨1, 1⟩, 1)] { Up with sys := { pwr := { ins := [{ taken := some 60 }, {}, {}] } } }), 99, 60, by decide +kernel⟩,
   ⟨st (sf [(A.PWR_IN_STATUS, ⟨1, 1⟩, 1)] { Up with sys := { pwr := { ins := [{}, {}, { taken := some 60 }] } } }), 99, 60, by decide +kernel⟩,
   ⟨st (sf [(A.PWR_IN_STATUS, ⟨1, 1⟩, 1)] { Up with sys := { pwr := { ins := [{}, {}, { taken := some 60 }] } } }), 124, 60, by decide +kernel⟩⟩

/-- Inputs that meet the hypotheses of each clause of InputLevelsAct. -/
theorem witness_InputLevelsAct :
    (∃ (s : State) (tick : Nat), s.dev.level 1 = true ∧ s.dev.sys.pwr.ins.length = 3 ∧ (∀ last, (s.dev.inp 0).taken = some last → last + 64 ≤ max
      s.dev.now tick) ∧ s.dev.level 0 = true ∧ s.dev.sys.pwr.trip = none) ∧
    (∃ (s : State) (tick : Nat), s.dev.level 1 = true ∧ s.dev.sys.pwr.ins.length = 3 ∧ (∀ last, (s.dev.inp 0).taken = some last → last + 64 ≤ max
      s.dev.now tick)) ∧
    (∃ (s : State) (tick : Nat), s.dev.level 1 = true ∧ s.dev.sys.pwr.ins.length = 3 ∧ (∀ last, (s.dev.inp 2).taken = some last → last + 64 ≤ max
      s.dev.now tick) ∧ s.dev.level 2 = true ∧ s.dev.power = 2 ∧ s.dev.sys.pwr.p3 = 0 ∧ s.dev.sys.pwr.req = none) :=
  ⟨⟨st (sf [(A.PWR_IN_STATUS, ⟨0, 3⟩, 7)] Up), 99, by decide +kernel⟩,
   ⟨st (sf [(A.PWR_IN_STATUS, ⟨0, 3⟩, 6)] Up), 99, by decide +kernel⟩,
   ⟨st (sf [(A.PWR_IN_STATUS, ⟨0, 3⟩, 7), (A.PWR_STATUS, F.PWR_STATUS_STATE, 2)] Up), 99, by decide +kernel⟩⟩

/-- Inputs that meet the hypotheses of each clause of StuckAndOverrunInputs. -/
theorem witness_StuckAndOverrunInputs :
    (∃ (s : State) (i : Fin 3) (edges : Nat) (low : Nat) (last : Nat), i ≠ 1 ∧ s.dev.sys.pwr.ins.length = 3 ∧ (s.dev.inp i).lowAt = some low ∧
      s.dev.maskedIn i = false) ∧
    (∃ (s : State) (i : Fin 3) (edges : Nat) (low : Nat) (last : Nat), i = 2 ∧ s.dev.sys.pwr.ins.length = 3 ∧ (s.dev.inp 2).taken = some last ∧ 0 <
      max (s.dev.inp 2).refused edges ∧ s.dev.holds 15 0 0 < 8) :=
  ⟨⟨st { Up with sys := { pwr := { ins := [{}, {}, { lowAt := some 50 }] } } }, 2, 1, 50, 60, by decide +kernel⟩,
   ⟨st { Up with sys := { pwr := { ins := [{}, {}, { taken := some 60, refused := 1 }] } } }, 2, 1, 50, 60, by decide +kernel⟩⟩

/-- Inputs that meet the hypotheses of each clause of WakeByRegister. -/
theorem witness_WakeByRegister :
    (∃ (s : State), s.dev.power = 2 ∧ s.dev.sys.pwr.p3 = 0 ∧ s.dev.sys.pwr.req = none) ∧
    (∃ (s : State), s.dev.awake) :=
  ⟨⟨st (sf [(A.PWR_STATUS, F.PWR_STATUS_STATE, 2)] Up), by decide +kernel⟩,
   ⟨st Up, (by unfold Dev.awake; decide +kernel)⟩⟩

/-- Inputs that meet the hypotheses of each clause of EaselWatchdogs. -/
theorem witness_EaselWatchdogs :
    (∃ (s : State) (east : Bool), s.dev.halfUp false = true) ∧
    (∃ (s : State) (east : Bool), s.dev.halfUp true = true) ∧
    (∃ (s : State) (east : Bool), s.dev.halfUp false = false) ∧
    (∃ (s : State) (east : Bool), s.dev.halfUp true = false) ∧
    (∃ (s : State) (east : Bool), s.dev.halfUp east = true ∧ s.dev.power ≠ 3 ∧ s.dev.stage ≠ 4) ∧
    (∃ (s : State) (east : Bool), (if east then s.dev.sys.res.backE else s.dev.sys.res.backW).isSome = true) :=
  ⟨⟨st Up, true, by decide +kernel⟩,
   ⟨st Up, true, by decide +kernel⟩,
   ⟨st D0, true, by decide +kernel⟩,
   ⟨st D0, true, by decide +kernel⟩,
   ⟨st Up, true, by decide +kernel⟩,
   ⟨st { D0 with sys := { res := { backE := some 80 } } }, true, by decide +kernel⟩⟩

/-- Inputs that meet the hypotheses of each clause of EngineWatchdog. -/
theorem witness_EngineWatchdog :
    (∃ (s : State) (e : Nat) (r : Run), e < 82 ∧ s.dev.stuckRun e = some r ∧ r.bf = false ∧ r.pastSwitch = false ∧ (∀ x ∈ s.dev.cmd.runs, x.seq =
      r.seq → x = r)) :=
  ⟨st { withQ 5 0 0 1 Up with cmd := { runs := [rn (pk 0x0500 [])] } }, 0, rn (pk 0x0500 []), by decide +kernel⟩

/-- Inputs that meet the hypotheses of each clause of InvalidationsAndMisses. -/
theorem witness_InvalidationsAndMisses :
    (∃ (s : State) (i : Inval) (rest : List Inval) (agent : Fin 658), s.dev.stn.invals = i :: rest ∧ agent.val ∉ i.acked ∧ i.acked.length < 657 ∧
      s.dev.agentWaits agent i.ctx i.lo i.hi = false) ∧
    (∃ (s : State) (i : Inval) (rest : List Inval) (agent : Fin 658), s.dev.stn.invals = [i] ∧ agent.val ∉ i.acked ∧ i.acked.length = 657 ∧
      i.release = false ∧ i.reset = none ∧ s.dev.agentWaits agent i.ctx i.lo i.hi = false) ∧
    (∃ (s : State) (i : Inval) (rest : List Inval), s.dev.stn.invals = [i]) ∧
    (∃ (s : State) (i : Inval) (rest : List Inval) (tag : Fin 128) (m : Miss), s.dev.missOf tag = some m ∧ m.ahead = false) :=
  ⟨⟨st { Up with stn := { invals := [⟨3, 9, 0, 100, 100, false, [2], 900, none⟩] } }, ⟨3, 9, 0, 100, 100, false, [2], 900, none⟩, [], 657,
     by decide +kernel⟩,
   ⟨st { Up with stn := { invals := [⟨3, 9, 0, 100, 100, false, List.range 657, 900, none⟩] } }, ⟨3, 9, 0, 100, 100, false, List.range 657, 900,
     none⟩, [], 657, by decide +kernel⟩,
   ⟨st { Up with stn := { invals := [⟨3, 9, 0, 100, 100, false, List.range 657, 900, none⟩] } }, ⟨3, 9, 0, 100, 100, false, List.range 657, 900,
     none⟩, [], by decide +kernel⟩,
   ⟨st { Up with stn := { misses := [⟨9, 5, 4096, some 127, 0, 40, false⟩] } }, ⟨3, 9, 0, 100, 100, false, List.range 657, 900, none⟩, [], 127, ⟨9,
     5, 4096, some 127, 0, 40, false⟩, by decide +kernel⟩⟩

/-- Inputs that meet the hypotheses of each clause of ShaperRefill. -/
theorem witness_ShaperRefill :
    (∃ (s : State) (tick : Nat), s.dev.trf.shaper = []) :=
  ⟨st { Up with trf := { limited := [3], meters := [(18, some ⟨5, 6, 7⟩)] } }, 12, by decide +kernel⟩

/-- Inputs that meet the hypotheses of each clause of EgressSendsManagementFirst. -/
theorem witness_EgressSendsManagementFirst :
    (∃ (s : State) (port : Fin 16) (e : Egr), s.dev.trf.shaper = [] ∧ s.dev.portState port = Ps.up ∧ s.dev.maySend port = true ∧ s.dev.classHead
      port 0 = some e) :=
  ⟨st
    { Spn with trf := { classq := [⟨2, 0, 2, none, false, 0, .t { type := 0x60, units := [0] }⟩, ⟨2, 1, 0, some 3, false, 0, .t { type := 0x44 }⟩] }, links := List.replicate 16 { cred := List.replicate 16 100 } },
    2, ⟨2, 0, 2, none, false, 0, .t { type := 0x60, units := [0] }⟩, by decide +kernel⟩

/-- Inputs that meet the hypotheses of each clause of QueueSamples. -/
theorem witness_QueueSamples :
    (∃ (s : State) (tick : Nat), s.dev.fld A.TRF_SAMPLE F.TRF_SAMPLE_RUN = 1 ∧ s.dev.power ≠ 3) ∧
    (∃ (s : State) (tick : Nat), s.dev.fld A.TRF_SAMPLE F.TRF_SAMPLE_RUN ≠ 1) :=
  ⟨⟨st (sf [(A.TRF_SAMPLE, F.TRF_SAMPLE_RUN, 1)] Up), 12, by decide +kernel⟩,
   ⟨st (sf [(A.TRF_SAMPLE, F.TRF_SAMPLE_RUN, 0)] Up), 12, by decide +kernel⟩⟩

/-- Inputs that meet the hypotheses of each clause of LinkStates. -/
theorem witness_LinkStates :
    (∃ (s : State), let d := s.dev; ∃ (p : Fin 4), d.portState p = Ps.up) ∧
    (∃ (s : State), let d := s.dev; ∃ (n : Fin 12), d.portState (n + 4) = Ps.up ∧ d.heldState (n + 4) Ps.retrain = Ps.retrain) ∧
    (∃ (s : State), let d := s.dev; ∃ (p : Fin 4), d.portState p = Ps.quarantined ∧ (d.link p).phys = Ps.up) ∧
    (∃ (s : State), let d := s.dev; ∃ (n : Fin 12), d.portState (n + 4) = Ps.quarantined ∧ (d.link (n + 4)).phys = Ps.up ∧ d.heldState (n + 4)
      Ps.retrain = Ps.retrain) ∧
    (∃ (s : State), let d := s.dev; ∃ (port : Fin 16), d.portState port = Ps.up) ∧
    (∃ (s : State), let d := s.dev; ∃ (port : Fin 16), d.power = 2 ∧ d.portState port = Ps.up ∧ (∀ e ∈ d.trf.classq ++ d.trf.shaper, e.port ≠ port)
      ∧ d.heldState port Ps.lowPower = Ps.lowPower) ∧
    (∃ (s : State), let d := s.dev; ∃ (port : Fin 16), d.portState port = Ps.lowPower ∧ d.heldState port Ps.up = Ps.up) ∧
    (∃ (s : State), let d := s.dev; ∃ (port : Fin 16), d.portState port = Ps.disabled) :=
  ⟨⟨st Spn, 3, by decide +kernel⟩,
   ⟨st Spn, 11, by decide +kernel⟩,
   ⟨st { ports (List.range 16) 5 Spn with links := List.replicate 16 { phys := 2 } }, 3, by decide +kernel⟩,
   ⟨st { ports (List.range 16) 5 Spn with links := List.replicate 16 { phys := 2 } }, 11, by decide +kernel⟩,
   ⟨st Spn, 15, by decide +kernel⟩,
   ⟨st (sf [(A.PWR_STATUS, F.PWR_STATUS_STATE, 2)] Spn), 15, by decide +kernel⟩,
   ⟨st (ports (List.range 16) 6 Spn), 15, by decide +kernel⟩,
   ⟨st (ports (List.range 16) 0 Spn), 15, by decide +kernel⟩⟩

/-- Inputs that meet the hypotheses of each clause of LinkTraining. -/
theorem witness_LinkTraining :
    (∃ (s : State), s.dev.links.length = 16 ∧ ∃ (port : Fin 16) (r : TrainResult), r.node < 16384 ∧ r.span < 65536 ∧ r.ok = true ∧ r.lanes = 0xff ∧
      s.dev.portState port = Ps.training ∧ s.dev.heldState port Ps.up = Ps.up ∧ (4 ≤ port.val → s.dev.rightPartner port r = true)) ∧
    (∃ (s : State), s.dev.links.length = 16 ∧ ∃ (port : Fin 16), s.dev.portState port = Ps.disabled ∧ s.dev.stage = 5 ∧ (4 ≤ port.val →
      s.dev.standalone = false) ∧ s.dev.heldState port Ps.training = Ps.training) ∧
    (∃ (s : State), s.dev.links.length = 16 ∧ ∃ (port : Fin 16), s.dev.portState port ≠ Ps.quarantined) ∧
    (∃ (s : State), s.dev.links.length = 16 ∧ ∃ (k : Fin 6) (since : Nat), s.dev.trunkDownAt k = some since ∧ s.dev.linkUp k = true) :=
  ⟨⟨st (ports [15] 1 Spn), by decide +kernel, 15, { node := nodeAt 1 1 0, span := 9, buffers := [4, 4] }, by decide +kernel⟩,
   ⟨st (ports [15] 0 Spn), by decide +kernel, 15, by decide +kernel⟩,
   ⟨st Spn, by decide +kernel, 15, by decide +kernel⟩,
   ⟨st { Spn with fab := { trunkDown := [(5, 72)] } }, by decide +kernel, 5, 70, by decide +kernel⟩⟩

/-- Inputs that meet the hypotheses of each clause of FlitsReceived. -/
theorem witness_FlitsReceived :
    (∃ (s : State) (port : Fin 16) (f : Flit), let d := s.dev; let l := d.link port;
      let good := f.uncorrectable = false ∧ f.corrected = 0 ∧ flitCrcOk f = true ∧ flitNakf f = false ∧ flitFtype f = 1 ∧ flitSeq f = seqAfter l.rxSeq 1 ∧ (4 ≤ port.val → flitFovr f = false);
      (d.links.length = 16 ∧ d.portState port = Ps.up ∧ flitFits f = true) ∧ ∃ (p : Fin 4), good ∧ p.val = port.val) ∧
    (∃ (s : State) (port : Fin 16) (f : Flit), let d := s.dev; (d.links.length = 16 ∧ d.portState port = Ps.up ∧ flitFits f = true) ∧ ∃ (p : Fin
      4), p.val = port.val ∧ f.uncorrectable = true) ∧
    (∃ (s : State) (port : Fin 16) (f : Flit), let d := s.dev; let l := d.link port;
      let good := f.uncorrectable = false ∧ f.corrected = 0 ∧ flitCrcOk f = true ∧ flitNakf f = false ∧ flitFtype f = 1 ∧ flitSeq f = seqAfter l.rxSeq 1 ∧ (4 ≤ port.val → flitFovr f = false);
      (d.links.length = 16 ∧ d.portState port = Ps.up ∧ flitFits f = true) ∧ ∃ (n : Fin 12), good ∧ n.val + 4 = port.val) ∧
    (∃ (s : State) (port : Fin 16) (f : Flit), let d := s.dev; (d.links.length = 16 ∧ d.portState port = Ps.up ∧ flitFits f = true) ∧ ∃ (n : Fin
      12), n.val + 4 = port.val ∧ f.uncorrectable = true) :=
  ⟨⟨st Spn, 3, flitOf 0 (tmsgBytes { type := 0x08, tag := 4, addr := 64 }), by decide +kernel, 3, flitGood_of (by decide) (by decide +kernel),
     by decide +kernel⟩,
   ⟨st Spn, 3, { uncorrectable := true, body := List.replicate 608 0 }, by decide +kernel, 3, by decide +kernel⟩,
   ⟨st Spn, 15, flitOf 0 [], by decide +kernel, 11, flitGood_of (by decide) (by decide +kernel), by decide +kernel⟩,
   ⟨st Spn, 15, { uncorrectable := true, body := List.replicate 608 0 }, by decide +kernel, 11, by decide +kernel⟩⟩

/-- Inputs that meet the hypotheses of each clause of ViolationWindowsAndPortLoss. -/
theorem witness_ViolationWindowsAndPortLoss :
    (∃ (s : State) (port : Fin 16) (wend : Nat), (s.dev.link port).winEnd = some wend ∧ s.dev.overThreshold port = false) ∧
    (∃ (s : State) (p : Fin 4), s.dev.hasRoom 0x0503 p ∧ s.dev.home.snoops = [] ∧ s.dev.home.waiting = [] ∧ s.dev.calm) ∧
    (∃ (s : State) (p : Fin 4), s.dev.hasRoom 0x0503 p ∧ (s.dev.home.snoops = [] ∧ s.dev.home.waiting = [] ∧ s.dev.calm) ∧ ∃ (due : _), (s.dev.link
      p).lostDue = some due) :=
  ⟨⟨st { Spn with links := List.replicate 16 { winEnd := some 60 } }, 2, 60, by decide +kernel⟩,
   ⟨st { Spn with home := { dc := [⟨9, 18⟩, ⟨10, 2⟩] } }, 2, (by unfold Dev.hasRoom; decide +kernel), by decide +kernel⟩,
   ⟨st { Spn with links := List.replicate 16 { lostDue := some 80 }, home := { dc := [⟨9, 18⟩, ⟨10, 2⟩] } }, 2,
     (by unfold Dev.hasRoom; decide +kernel), by decide +kernel, 80, by decide +kernel⟩⟩

/-- Inputs that meet the hypotheses of each clause of HostRequests. -/
theorem witness_HostRequests :
    (∃ (s : State) (p : Fin 4) (i : TIn) (dom : Nat), let m := i.m; let n := m.addr / 64; let free := s.dev.dirOf n = (0, 0);
      let room := (s.dev.home.dc.filter fun e => dcSet e.line == dcSet n).length < 16; s.dev.hostServed p i dom ∧ rowTakes 0x01 i = true ∧ free ∧
      room) ∧
    (∃ (s : State) (p : Fin 4) (i : TIn) (dom : Nat), let m := i.m; let n := m.addr / 64; let free := s.dev.dirOf n = (0, 0);
      let room := (s.dev.home.dc.filter fun e => dcSet e.line == dcSet n).length < 16; s.dev.hostServed p i dom ∧ rowTakes 0x02 i = true ∧ free ∧
      room) ∧
    (∃ (s : State) (p : Fin 4) (i : TIn) (dom : Nat), let m := i.m; let n := m.addr / 64; let free := s.dev.dirOf n = (0, 0); s.dev.hostServed p i
      dom ∧ rowTakes 0x03 i = true ∧ m.len ≤ 1 ∧ free) ∧
    (∃ (s : State) (p : Fin 4) (i : TIn) (dom : Nat), let m := i.m; let n := m.addr / 64; let free := s.dev.dirOf n = (0, 0); s.dev.hostServed p i
      dom ∧ ∃ (w : _), rowTakes 0x04 i = true ∧ m.data = [w] ∧ free) ∧
    (∃ (s : State) (p : Fin 4) (i : TIn) (dom : Nat), let m := i.m; let n := m.addr / 64; let free := s.dev.dirOf n = (0, 0); s.dev.hostServed p i
      dom ∧ ∃ (w : _) (u : _), rowTakes 0x05 i = true ∧ m.data = [w] ∧ m.units = [u] ∧ free) ∧
    (∃ (s : State) (p : Fin 4) (i : TIn) (dom : Nat), let m := i.m; let n := m.addr / 64; let free := s.dev.dirOf n = (0, 0); s.dev.hostServed p i
      dom ∧ ∃ (o : _), rowTakes 0x06 i = true ∧ m.data = [o] ∧ free) ∧
    (∃ (s : State) (p : Fin 4) (i : TIn) (dom : Nat), let m := i.m; let n := m.addr / 64; s.dev.hostServed p i dom ∧ ∃ (w : _), rowTakes 0x07 i =
      true ∧ m.data = [w] ∧ s.dev.dirOf n = (2, 2 ^ p.val)) ∧
    (∃ (s : State) (p : Fin 4) (i : TIn) (dom : Nat), let m := i.m; let n := m.addr / 64; s.dev.hostServed p i dom ∧ rowTakes 0x08 i = true ∧
      s.dev.dirOf n = (2, 2 ^ p.val)) :=
  ⟨⟨st (ports [1] 2 (mem 0x40000000 [1, 2, 3] (lent 1 4 2 Up))), 1, { vc := 0, m := { type := 1, tag := 9, addr := 0x40000000 } }, 4, hostServed_of
     (by decide +kernel) (lineFree_of (by decide +kernel)), by decide +kernel⟩,
   ⟨st (ports [1] 2 (mem 0x40000000 [1, 2, 3] (lent 1 4 2 Up))), 1, { vc := 0, m := { type := 2, tag := 9, addr := 0x40000000 } }, 4, hostServed_of
     (by decide +kernel) (lineFree_of (by decide +kernel)), by decide +kernel⟩,
   ⟨st (ports [1] 2 (mem 0x40000000 [1, 2, 3] (lent 1 4 2 Up))), 1, { vc := 0, m := { type := 3, tag := 9, addr := 0x40000000 } }, 4, hostServed_of
     (by decide +kernel) (lineFree_of (by decide +kernel)), by decide +kernel⟩,
   ⟨st (ports [1] 2 (mem 0x40000000 [1, 2, 3] (lent 1 4 2 Up))), 1,
     { vc := 0, m := { type := 4, len := 1, tag := 9, addr := 0x40000000, data := [putLe 7 63 1 9] } }, 4, hostServed_of (by decide +kernel)
     (lineFree_of (by decide +kernel)), putLe 7 63 1 9, by decide +kernel⟩,
   ⟨st (ports [1] 2 (mem 0x40000000 [1, 2, 3] (lent 1 4 2 Up))), 1,
     { vc := 0, m := { type := 5, len := 1, tag := 9, addr := 0x40000000, data := [putLe 7 63 1 9], units := [5] } }, 4, hostServed_of
     (by decide +kernel) (lineFree_of (by decide +kernel)), putLe 7 63 1 9, 5, by decide +kernel⟩,
   ⟨st (ports [1] 2 (mem 0x40000000 [1, 2, 3] (lent 1 4 2 Up))), 1,
     { vc := 0, m := { type := 6, len := 1, tag := 9, addr := 0x40000000, data := [putLe (putLe (putLe 0 0 1 1) 1 1 2) 16 1 1] } }, 4,
     hostServed_of (by decide +kernel) (lineFree_of (by decide +kernel)), putLe (putLe (putLe 0 0 1 1) 1 1 2) 16 1 1, by decide +kernel⟩,
   ⟨st { ports [1] 2 (lent 1 4 2 Up) with home := { dc := [⟨0x1000000, 10⟩] } }, 1,
     { vc := 1, m := { type := 7, len := 1, tag := 9, addr := 0x40000000, data := [putLe 7 63 1 9] } }, 4, hostServed_of (by decide +kernel)
     (lineFree_of (by decide +kernel)), putLe 7 63 1 9, by decide +kernel⟩,
   ⟨st { ports [1] 2 (lent 1 4 2 Up) with home := { dc := [⟨0x1000000, 10⟩] } }, 1, { vc := 1, m := { type := 8, tag := 9, addr := 0x40000000 } },
     4, hostServed_of (by decide +kernel) (lineFree_of (by decide +kernel)), by decide +kernel⟩⟩

/-- Inputs that meet the hypotheses of each clause of IngressServes. -/
theorem witness_IngressServes :
    (∃ (s : State) (east : Bool) (p : Fin 4) (m : TMsg) (x : Ing) (g : Nat) (dom : Nat) (w : Line), let n := m.addr / 64; s.dev.lineFree n ∧
      s.dev.trf.ing = [x] ∧ x = ⟨east, p, 1, 0, 80, false, x.tick, .tlk p m, [⟨g, 0, .tlk p m, .wr (BitVec.allOnes 64) w 0, n, none, none⟩], none⟩
      ∧ s.dev.home.groups = [⟨g, .tlk p m, 1, []⟩] ∧ m.type = 0x04 ∧ m.credit = none ∧ s.dev.home.credits = [] ∧ s.dev.fld (A.TLK_STATUS p)
      F.TLK_STATUS_RETRY_HOLD = 0 ∧ s.dev.calm ∧ s.dev.leaseCheck p m.addr = .inl dom ∧ s.dev.dirOf n = (0, 0)) :=
  ⟨st
    { ports [1] 2 (lent 1 4 2 Up) with trf := { ing := [⟨false, 1, 1, 0, 80, false, 3, .tlk 1 { type := 4, len := 1, tag := 9, addr := 0x40000000, data := [7] }, [⟨6, 0, .tlk 1 { type := 4, len := 1, tag := 9, addr := 0x40000000, data := [7] }, .wr (BitVec.allOnes 64) 7 0, 0x1000000, none, none⟩], none⟩] }, home := { groups := [⟨6, .tlk 1 { type := 4, len := 1, tag := 9, addr := 0x40000000, data := [7] }, 1, []⟩] } },
    false, 1, { type := 4, len := 1, tag := 9, addr := 0x40000000, data := [7] }, ⟨false, 1, 1, 0, 80, false, 3, .tlk 1
    { type := 4, len := 1, tag := 9, addr := 0x40000000, data := [7] }, [⟨6, 0, .tlk 1
    { type := 4, len := 1, tag := 9, addr := 0x40000000, data := [7] }, .wr (BitVec.allOnes 64) 7 0, 0x1000000, none, none⟩], none⟩, 6, 4, 7,
    lineFree_of (by decide +kernel), by decide +kernel⟩

/-- Inputs that meet the hypotheses of each clause of HostAnswers. -/
theorem witness_HostAnswers :
    (∃ (s : State) (p : Fin 4) (i : TIn), let m := i.m; let n := m.addr / 64; (s.dev.portState p = Ps.up ∧ s.dev.tlkViolation p i = none ∧
      s.dev.calm ∧ (s.dev.link p).inbox = []) ∧ ∃ (x : _), s.dev.home.snoops = [x] ∧ x.line = n ∧ x.port = p.val ∧ s.dev.power ≠ 3 ∧
      s.dev.arbiterIdle (portEast p) ∧ s.dev.home.ghosts = [] ∧ s.dev.home.ue = [] ∧ s.dev.quiet ∧ s.dev.dirOf n = (2, 2 ^ p.val) ∧ rowTakes 0x10 i
      = true) ∧
    (∃ (s : State) (p : Fin 4) (i : TIn), let m := i.m; let n := m.addr / 64; (s.dev.portState p = Ps.up ∧ s.dev.tlkViolation p i = none ∧
      s.dev.calm ∧ (s.dev.link p).inbox = []) ∧ ∃ (x : _), (s.dev.home.snoops = [x] ∧ x.line = n ∧ x.port = p.val ∧ s.dev.power ≠ 3 ∧
      s.dev.arbiterIdle (portEast p) ∧ s.dev.home.ghosts = [] ∧ s.dev.home.ue = [] ∧ s.dev.quiet ∧ s.dev.dirOf n = (2, 2 ^ p.val)) ∧ ∃ (w : _),
      rowTakes 0x11 i = true ∧ m.data = [w] ∧ 64 * n < storeEnd ∧ s.dev.extState (extentOf (64 * n)) < 2 ∧ s.dev.stackFailed (stackOf (64 * n)) =
      false) ∧
    (∃ (s : State) (p : Fin 4) (i : TIn), let m := i.m; (s.dev.portState p = Ps.up ∧ s.dev.tlkViolation p i = none ∧ s.dev.calm ∧ (s.dev.link
      p).inbox = []) ∧ ∃ (x : Miss) (u0 : BitVec 128) (u1 : BitVec 128), let k := bits u0 8 3; let w0 : Word := u1.setWidth 64;
      let w1 : Word := (u1 >>> 64).setWidth 64; rowTakes 0x22 i = true ∧ s.dev.missOf m.tag = some x ∧ m.units = [u0, u1] ∧ x.ctx < 256 ∧ bits u0 0
      8 = x.ctx ∧ bits u0 16 16 = s.dev.invGen x.ctx ∧ bit u0 15 = false ∧ bit w0 0 = true ∧ s.dev.segCheck w0 w1 ((List.range 8).filterMap
      (s.dev.seg x.ctx)) = none ∧ (segOf w0 w1).covers x.va = true ∧ s.dev.seg x.ctx k = none) :=
  ⟨⟨st { ports [1] 2 (lent 1 4 2 Up) with home := { snoops := [⟨0x1000000, 1, false, 800⟩], dc := [⟨0x1000000, 10⟩] } }, 1,
     { vc := 1, m := { type := 0x10, tag := 0x4000, addr := 0x40000000 } }, by decide +kernel, ⟨0x1000000, 1, false, 800⟩, by decide +kernel⟩,
   ⟨st { ports [1] 2 (lent 1 4 2 Up) with home := { snoops := [⟨0x1000000, 1, false, 800⟩], dc := [⟨0x1000000, 10⟩] } }, 1,
     { vc := 1, m := { type := 0x11, tag := 0x4000, len := 1, addr := 0x40000000, data := [7] } }, by decide +kernel, ⟨0x1000000, 1, false, 800⟩,
     by decide +kernel, 7, by decide +kernel⟩,
   ⟨st { sf [(A.STN_CTX_CFG 9, F.STN_CTX_CFG_PORT, 1)] (ports [1] 2 Up) with stn := { misses := [⟨9, 5, 4096, some 127, 0, 40, false⟩] } }, 1,
     { vc := 2, m := { type := 0x22, tag := 127, len := 0, units := [9, 1] } }, by decide +kernel, ⟨9, 5, 4096, some 127, 0, 40, false⟩, 9, 1,
     by decide +kernel⟩⟩

/-- Inputs that meet the hypotheses of each clause of RegisterAccesses. -/
theorem witness_RegisterAccesses :
    (∃ (s : State) (a : Nat) (v : Word) (m : Word), let d := s.dev; plainWrite a ∧ d.writeRefusal a m = none ∧ d.inDownHalf a = false) ∧
    (∃ (s : State) (a : Nat) (v : Word) (m : Word), let d := s.dev; (d.writeRefusal a m ≠ none ∨ d.inDownHalf a = true)) ∧
    (∃ (s : State) (a : Nat) (v : Word) (m : Word), let d := s.dev; ∃ (p : Fin 4) (i : TIn), plainRead a ∧ d.portState p = Ps.up ∧ d.tlkViolation p
      i = none ∧ d.calm ∧ (d.link p).inbox = [] ∧ (unitWord i.m 0).toNat = a ∧ rowTakes 0x20 i = true ∧ d.windowAllows p a false = true ∧ d.minimal
      = false) ∧
    (∃ (s : State) (a : Nat) (v : Word) (m : Word), let d := s.dev; let all := BitVec.allOnes 64; ∃ (p : Fin 4) (i : TIn), plainWrite a ∧ d.awake ∧
      d.portState p = Ps.up ∧ d.tlkViolation p i = none ∧ d.calm ∧ (d.link p).inbox = [] ∧ (unitWord i.m 0).toNat = a ∧ rowTakes 0x21 i = true ∧
      unitWord i.m 1 = v ∧ unitWord i.m 2 = m ∧ d.windowAllows p a true = true ∧ d.minimal = false ∧ d.writeRefusal a all = none ∧ d.inDownHalf a =
      false ∧ d.writesBefore p = false) ∧
    (∃ (s : State) (a : Nat) (v : Word) (m : Word), let d := s.dev; let all := BitVec.allOnes 64; ∃ (addr : BitVec 7), (d.answersPrivate addr.toNat
      = true ∧ d.i3cReaches a = true) ∧ ∃ (bytes : List Byte), plainWrite a ∧ bytes.length = 12 ∧ leAt bytes 0 4 = a ∧ BitVec.ofNat 64 (leAt bytes
      4 8) = v ∧ d.writeRefusal a all = none ∧ d.inDownHalf a = false) ∧
    (∃ (s : State) (a : Nat) (v : Word) (m : Word), let d := s.dev; ∃ (addr : BitVec 7), (d.answersPrivate addr.toNat = true ∧ d.i3cReaches a =
      true) ∧ ∃ (bytes : List Byte), bytes.length = 4) ∧
    (∃ (s : State) (a : Nat) (v : Word) (m : Word), let d := s.dev; ∃ (addr : BitVec 7), plainRead a ∧ d.answersPrivate addr.toNat = true ∧
      d.i3cReaches a = true ∧ d.sys.pwr.i3cAddr = some a) :=
  ⟨⟨st Up, A.CRD_CFG, 0xffffffffffffffff, 0xff, (by unfold plainWrite; decide +kernel), by decide +kernel⟩,
   ⟨st Up, 7, 0xffffffffffffffff, 0xff, by decide +kernel⟩,
   ⟨st (sf [(A.TLK_CFG 1, F.TLK_CFG_WIN_FULL, 1)] Spn), 0, 0xffffffffffffffff, 0xff, 1, { vc := 2, m := { type := 0x20, tag := 6, units := [0] } },
     (by unfold plainRead; decide +kernel), by decide +kernel⟩,
   ⟨st (sf [(A.TLK_CFG 1, F.TLK_CFG_WIN_FULL, 1)] Spn), A.CRD_CFG, 0xffffffffffffffff, 0xff, 1,
     { vc := 2, m := { type := 0x21, tag := 6, units := [0x500000, 0xffffffffffffffff, 0xff] } }, (by unfold plainWrite; decide +kernel),
     (by unfold Dev.awake; decide +kernel), by decide +kernel⟩,
   ⟨st (sf [(A.PWR_IN_STATUS, ⟨0, 3⟩, 7), (A.PWR_I3C_STATUS, F.PWR_I3C_STATUS_DA_VALID, 1), (A.PWR_I3C_STATUS, F.PWR_I3C_STATUS_DYN_ADDR, 9)]
     { Spn with sys := { boot := { phase := 4 } } }), A.CRD_CFG, 0xffffffffffffffff, 0xff, 9, by decide +kernel, [0, 0, 0x50, 0, 255, 255, 255,
     255, 255, 255, 255, 255], (by unfold plainWrite; decide +kernel), by decide +kernel⟩,
   ⟨st (sf [(A.PWR_IN_STATUS, ⟨0, 3⟩, 7), (A.PWR_I3C_STATUS, F.PWR_I3C_STATUS_DA_VALID, 1), (A.PWR_I3C_STATUS, F.PWR_I3C_STATUS_DYN_ADDR, 9)]
     { Spn with sys := { boot := { phase := 4 } } }), A.CRD_CFG, 0xffffffffffffffff, 0xff, 9, by decide +kernel, [0, 0, 0x50, 0],
     by decide +kernel⟩,
   ⟨st (sf [(A.PWR_IN_STATUS, ⟨0, 3⟩, 7), (A.PWR_I3C_STATUS, F.PWR_I3C_STATUS_DA_VALID, 1), (A.PWR_I3C_STATUS, F.PWR_I3C_STATUS_DYN_ADDR, 9)]
     { Spn with sys := { boot := { phase := 4 }, pwr := { i3cAddr := some 0x500000 } } }), A.CRD_CFG, 0xffffffffffffffff, 0xff, 9,
     (by unfold plainRead; decide +kernel), by decide +kernel⟩⟩

/-- Inputs that meet the hypotheses of each clause of SidebandAndTestPort. -/
theorem witness_SidebandAndTestPort :
    (∃ (s : State) (addr : BitVec 7) (new : BitVec 7), let d := s.dev; d.sideband = true ∧ d.dynAddr = none) ∧
    (∃ (s : State) (addr : BitVec 7) (new : BitVec 7), let d := s.dev; d.sideband = true ∧ d.dynAddr = none ∧ d.staticAddr = addr.toNat) ∧
    (∃ (s : State) (addr : BitVec 7) (new : BitVec 7), let d := s.dev; d.sideband = true) ∧
    (∃ (s : State) (addr : BitVec 7) (new : BitVec 7), let d := s.dev; d.sideband = true ∧ d.dynAddr = some addr.toNat) ∧
    (∃ (s : State) (addr : BitVec 7) (new : BitVec 7), let d := s.dev; d.inService = true) ∧
    (∃ (s : State) (addr : BitVec 7) (new : BitVec 7), let d := s.dev; d.inService = false) :=
  ⟨⟨st (sf [(A.PWR_IN_STATUS, ⟨0, 3⟩, 7)] Up), 9, 0x7d, by decide +kernel⟩,
   ⟨st (sf [(A.PWR_IN_STATUS, ⟨0, 3⟩, 7), (A.PWR_I3C_STATUS, F.PWR_I3C_STATUS_STATIC_ADDR, 9)] Up), 9, 0x7d, by decide +kernel⟩,
   ⟨st (sf [(A.PWR_IN_STATUS, ⟨0, 3⟩, 7), (A.PWR_I3C_STATUS, F.PWR_I3C_STATUS_DA_VALID, 1), (A.PWR_I3C_STATUS, F.PWR_I3C_STATUS_DYN_ADDR, 9)] Up),
     9, 0x7d, by decide +kernel⟩,
   ⟨st (sf [(A.PWR_IN_STATUS, ⟨0, 3⟩, 7), (A.PWR_I3C_STATUS, F.PWR_I3C_STATUS_DA_VALID, 1), (A.PWR_I3C_STATUS, F.PWR_I3C_STATUS_DYN_ADDR, 9)] Up),
     9, 0x7d, by decide +kernel⟩,
   ⟨st (sf [(A.PWR_IN_STATUS, ⟨0, 3⟩, 7), (A.PWR_I3C_STATUS, F.PWR_I3C_STATUS_DA_VALID, 1), (A.PWR_I3C_STATUS, F.PWR_I3C_STATUS_DYN_ADDR, 9)] Up),
     9, 0x7d, by decide +kernel⟩,
   ⟨st (sf [(A.PWR_IN_STATUS, ⟨0, 3⟩, 6)] Up), 9, 0x7d, by decide +kernel⟩⟩

/-- Inputs that meet the hypotheses of each clause of DorrusRequests. -/
theorem witness_DorrusRequests :
    (∃ (s : State) (p : Fin 12) (i : DIn), let m := i.m; let d := s.dev; ∃ (off : Nat) (dom : Nat) (cls : Nat) (right : Right), let n := off / 64;
      let base : DMsg := { dst := m.src, src := d.node, srcDomain := m.srcDomain, tag := m.tag, win := m.win, atag := m.atag }; d.drsServed p i ∧
      d.lineFree n ∧ d.power ≠ 3 ∧ m.len = 1 ∧ m.credit = none ∧ i.errs = [] ∧ (d.meterCfg (16 + m.src)).1 = 0 ∧ d.arbiterIdle (portEast (p + 4)) ∧
      d.home.credits = [] ∧ d.home.groups = [] ∧ right = memRight m.type ∧ d.winCheck m right = .inr (off, dom, cls) ∧ d.dirOf n = (0, 0) ∧
      d.refusal (64 * n) (some dom) (some cls) = none ∧ (d.drsEgr { base with type := 0x42 }).isSome = true ∧ m.type = 0x01) ∧
    (∃ (s : State) (p : Fin 12) (i : DIn), let m := i.m; let d := s.dev; ∃ (off : Nat) (dom : Nat) (cls : Nat) (right : Right), let n := off / 64;
      let base : DMsg := { dst := m.src, src := d.node, srcDomain := m.srcDomain, tag := m.tag, win := m.win, atag := m.atag }; d.drsServed p i ∧
      d.lineFree n ∧ (d.power ≠ 3 ∧ m.len = 1 ∧ m.credit = none ∧ i.errs = [] ∧ (d.meterCfg (16 + m.src)).1 = 0 ∧ d.arbiterIdle (portEast (p + 4))
      ∧ d.home.credits = [] ∧ d.home.groups = [] ∧ right = memRight m.type ∧ d.winCheck m right = .inr (off, dom, cls) ∧ d.dirOf n = (0, 0) ∧
      d.refusal (64 * n) (some dom) (some cls) = none ∧ (d.drsEgr { base with type := 0x42 }).isSome = true) ∧ ∃ (w : _), m.type = 0x02 ∧ m.units =
      [w]) ∧
    (∃ (s : State) (p : Fin 12) (i : DIn), let m := i.m; let d := s.dev; ∃ (off : Nat) (dom : Nat) (cls : Nat) (right : Right), let n := off / 64;
      let base : DMsg := { dst := m.src, src := d.node, srcDomain := m.srcDomain, tag := m.tag, win := m.win, atag := m.atag }; d.drsServed p i ∧
      d.lineFree n ∧ (d.power ≠ 3 ∧ m.len = 1 ∧ m.credit = none ∧ i.errs = [] ∧ (d.meterCfg (16 + m.src)).1 = 0 ∧ d.arbiterIdle (portEast (p + 4))
      ∧ d.home.credits = [] ∧ d.home.groups = [] ∧ right = memRight m.type ∧ d.winCheck m right = .inr (off, dom, cls) ∧ d.dirOf n = (0, 0) ∧
      d.refusal (64 * n) (some dom) (some cls) = none ∧ (d.drsEgr { base with type := 0x42 }).isSome = true) ∧ ∃ (u : _) (w : _), m.type = 0x03 ∧
      m.units = [u, w]) ∧
    (∃ (s : State) (p : Fin 12) (i : DIn), let m := i.m; let d := s.dev; ∃ (off : Nat) (dom : Nat) (cls : Nat) (right : Right), let n := off / 64;
      let base : DMsg := { dst := m.src, src := d.node, srcDomain := m.srcDomain, tag := m.tag, win := m.win, atag := m.atag }; d.drsServed p i ∧
      d.lineFree n ∧ (d.power ≠ 3 ∧ m.len = 1 ∧ m.credit = none ∧ i.errs = [] ∧ (d.meterCfg (16 + m.src)).1 = 0 ∧ d.arbiterIdle (portEast (p + 4))
      ∧ d.home.credits = [] ∧ d.home.groups = [] ∧ right = memRight m.type ∧ d.winCheck m right = .inr (off, dom, cls) ∧ d.dirOf n = (0, 0) ∧
      d.refusal (64 * n) (some dom) (some cls) = none ∧ (d.drsEgr { base with type := 0x42 }).isSome = true) ∧ ∃ (o : _), m.type = 0x04 ∧ m.units =
      [o] ∧ tget 0 d.fab.boot m.src = m.srcBoot ∧ d.fab.replay = [] ∧ serialLe24 m.atag (tget 0 d.fab.aged m.src) = false) ∧
    (∃ (s : State) (p : Fin 12) (i : DIn), let m := i.m; let d := s.dev; ∃ (dir : _), d.portState (p + 4) = Ps.up ∧ d.drsViolation p i = none ∧
      d.overThreshold (p + 4) = false ∧ (d.link (p + 4)).inbox = [] ∧ d.isExt (p + 4) = false ∧ dmsgFits m = true ∧ i.cls < 4 ∧ m.dst ≠ d.node ∧
      d.resState ≠ 2 ∧ nextDir d.node m = some dir ∧ d.trunkOk dir = true) :=
  ⟨⟨st (mem 0x40000000 [1, 2, 3] Wn), 0, { cls := 1, m := near { type := 1, len := 1, win := 263, srcDomain := 3, tag := 6 } }, 0x40000000, 4, 0,
     .r, drsServed_of (by decide +kernel), lineFree_of (by decide +kernel), by decide +kernel⟩,
   ⟨st (mem 0x40000000 [1, 2, 3] Wn), 0, { cls := 1, m := near { type := 2, len := 1, win := 263, srcDomain := 3, tag := 6, units := [77] } },
     0x40000000, 4, 0, .w, drsServed_of (by decide +kernel), lineFree_of (by decide +kernel), by decide +kernel, 77, by decide +kernel⟩,
   ⟨st (mem 0x40000000 [1, 2, 3] Wn), 0, { cls := 1, m := near { type := 3, len := 1, win := 263, srcDomain := 3, tag := 6, units := [5, 77] } },
     0x40000000, 4, 0, .w, drsServed_of (by decide +kernel), lineFree_of (by decide +kernel), by decide +kernel, 5, 77, by decide +kernel⟩,
   ⟨st (mem 0x40000000 [1, 2, 3] Wn), 0,
     { cls := 1, m := near { type := 4, len := 1, win := 263, srcDomain := 3, tag := 6, atag := 1, units := [putLe (putLe (putLe 0 0 1 1) 1 1 2) 16 1 1] } },
     0x40000000, 4, 0, .a, drsServed_of (by decide +kernel), lineFree_of (by decide +kernel), by decide +kernel, putLe (putLe (putLe 0 0 1 1) 1 1
     2) 16 1 1, by decide +kernel⟩,
   ⟨st (mem 0x40000000 [1, 2, 3] Wn), 0,
     { cls := 1, m := { type := 4, len := 1, dst := 1058, src := 2081, order := 0, neg := 1, win := 263, srcDomain := 3, hops := 1, units := [putLe (putLe (putLe 0 0 1 1) 1 1 2) 16 1 1] } },
     4, by decide +kernel⟩⟩

/-- Inputs that meet the hypotheses of each clause of DorrusResponses. -/
theorem witness_DorrusResponses :
    (∃ (s : State) (p : Fin 12) (i : DIn), let m := i.m; let d := s.dev; d.drsServed p i ∧ m.type = 0x7F) ∧
    (∃ (s : State) (p : Fin 12) (i : DIn), let m := i.m; let d := s.dev; d.drsServed p i ∧ ∃ (o : _), d.nothingHeld o.m.dst ∧ d.answered m = some o
      ∧ m.type = 0x41 ∧ o.m.type = 1 ∧ (o.m.atag = 0 ∨ m.atag = o.m.atag)) ∧
    (∃ (s : State) (p : Fin 12) (i : DIn), let m := i.m; let d := s.dev; d.drsServed p i ∧ ∃ (o : _), d.nothingHeld o.m.dst ∧ d.answered m = some o
      ∧ m.type = 0x41 ∧ o.m.type = 1 ∧ (o.m.atag = 0 ∨ m.atag = o.m.atag)) ∧
    (∃ (s : State) (p : Fin 12) (i : DIn), let m := i.m; let d := s.dev; d.drsServed p i ∧ ∃ (o : _), d.nothingHeld o.m.dst ∧ d.answered m = some o
      ∧ m.type = 0x41 ∧ o.m.type = 1 ∧ (o.m.atag = 0 ∨ m.atag = o.m.atag)) ∧
    (∃ (s : State) (p : Fin 12) (i : DIn), let m := i.m; let d := s.dev;
      let region (o : Outst) : Nat := (Config.windowBase o.m.dst o.m.win + o.m.woff) >>> 21 <<< 21; d.drsServed p i ∧ ∃ (o : _), d.nothingHeld
      o.m.dst ∧ d.answered m = some o ∧ ∃ (x : _), d.own.ownedHere.find? (fun x => x.1 == o.m.dst && x.2.1 == region o) = some x ∧ d.hasRoom
      Ev.ownLost 0 ∧ m.type = 0x41 ∧ o.m.type = 1 ∧ o.m.atag ≠ 0 ∧ m.atag ≠ o.m.atag) ∧
    (∃ (s : State) (p : Fin 12) (i : DIn), let m := i.m; let d := s.dev; d.drsServed p i ∧ ∃ (o : _), d.nothingHeld o.m.dst ∧ d.answered m = some o
      ∧ m.type = 0x42) ∧
    (∃ (s : State) (p : Fin 12) (i : DIn), let m := i.m; let d := s.dev; d.drsServed p i ∧ ∃ (o : _), d.nothingHeld o.m.dst ∧ d.answered m = some o
      ∧ m.type = 0x43 ∧ o.m.type = 4 ∧ o.m.atag = m.atag) ∧
    (∃ (s : State) (p : Fin 12) (i : DIn), let m := i.m; let d := s.dev; d.drsServed p i ∧ ∃ (o : _), d.nothingHeld o.m.dst ∧ d.answered m = some o
      ∧ m.type = 0x44) ∧
    (∃ (s : State) (p : Fin 12) (i : DIn), let m := i.m; let d := s.dev; d.drsServed p i ∧ m.type ∈ [0x41, 0x42, 0x43, 0x44] ∧ d.answered m = none
      ∧ m.type = 0x41) ∧
    (∃ (s : State) (p : Fin 12) (i : DIn), let m := i.m; let d := s.dev; d.drsServed p i ∧ m.type ∈ [0x41, 0x42, 0x43, 0x44] ∧ d.answered m = none
      ∧ m.type = 0x42) ∧
    (∃ (s : State) (p : Fin 12) (i : DIn), let m := i.m; let d := s.dev; d.drsServed p i ∧ m.type ∈ [0x41, 0x42, 0x43, 0x44] ∧ d.answered m = none
      ∧ m.type = 0x43) ∧
    (∃ (s : State) (p : Fin 12) (i : DIn), let m := i.m; let d := s.dev; d.drsServed p i ∧ m.type ∈ [0x41, 0x42, 0x43, 0x44] ∧ d.answered m = none
      ∧ m.type = 0x44) ∧
    (∃ (s : State) (p : Fin 12) (i : DIn), let m := i.m; let d := s.dev; d.drsServed p i ∧ ∃ (o : _), m.type = 0x45 ∧ (d.fab.out.find? fun o =>
      o.m.tag == m.tag && o.m.dst == m.src && o.credWait == some (m.credit.getD 0)) = some o ∧ d.fab.fences.contains o.m.dst = true) ∧
    (∃ (s : State) (p : Fin 12) (i : DIn), let m := i.m; let d := s.dev; d.drsServed p i ∧ ∃ (o : _),
      let m' := { o.m with credit := o.credWait, retx := false }; (m.type = 0x45 ∧ (d.fab.out.find? fun o => o.m.tag == m.tag && o.m.dst == m.src
      && o.credWait == some (m.credit.getD 0)) = some o) ∧ ∃ (dir : _), d.fab.fences.contains o.m.dst = false ∧ nextDir d.node (withRoute d m'
      ((tget 0 d.fab.routes o.m.dst - 1) / 8, (tget 0 d.fab.routes o.m.dst - 1) % 8)) = some dir ∧ d.trunkOk dir = true) ∧
    (∃ (s : State) (p : Fin 12) (i : DIn), let m := i.m; let d := s.dev; d.drsServed p i ∧ ∃ (o : _), m.type = 0x46 ∧ drsCls m.detail = 1 ∧ (∀ e ∈
      d.fab.dead, e.1 < 64) ∧ (d.fab.out.find? fun o => o.m.tag == m.tag && o.m.type == m.detail && o.m.win == m.win && o.m.atag == m.atag &&
      !o.heldBack) = some o) :=
  ⟨⟨st Spn, 0, { cls := 0, m := near { type := 0x7F } }, drsServed_of (by decide +kernel), by decide +kernel⟩,
   ⟨st (Wo (outst { type := 1, len := 1 })), 0, { cls := 2, m := near { type := 0x41, len := 1, tag := 9, units := [77] } }, drsServed_of
     (by decide +kernel), outst { type := 1, len := 1 }, (by unfold Dev.nothingHeld; decide +kernel), by decide +kernel⟩,
   ⟨st (Wo (outst { type := 1, len := 2 })), 0,
     { cls := 2, m := near { type := 0x41, len := 2, tag := 9, poison := true, detail := 0x21, units := [2, 77, 78] } }, drsServed_of
     (by decide +kernel), outst { type := 1, len := 2 }, (by unfold Dev.nothingHeld; decide +kernel), by decide +kernel⟩,
   ⟨st (Wo (outst { type := 1, len := 1, atag := 5 })), 0, { cls := 2, m := near { type := 0x41, len := 1, tag := 9, atag := 5, units := [77] } },
     drsServed_of (by decide +kernel), outst { type := 1, len := 1, atag := 5 }, (by unfold Dev.nothingHeld; decide +kernel), by decide +kernel⟩,
   ⟨st
     { Wo (outst { type := 1, len := 1, atag := 5, woff := 64 }) with own := { ownedHere := [(2081, (Config.windowBase 2081 0 + 64) >>> 21 <<< 21, 5)] } },
     0, { cls := 2, m := near { type := 0x41, len := 1, tag := 9, units := [77] } }, drsServed_of (by decide +kernel), outst
     { type := 1, len := 1, atag := 5, woff := 64 }, (by unfold Dev.nothingHeld; decide +kernel), by decide +kernel, (2081, (Config.windowBase 2081
     0 + 64) >>> 21 <<< 21, 5), (by simp [st, Wo, outst, List.find?]), (by unfold Dev.hasRoom; decide +kernel), by decide +kernel⟩,
   ⟨st (Wo (outst { type := 2, len := 1 })), 0, { cls := 2, m := near { type := 0x42, tag := 9, status := 10, detail := 3 } }, drsServed_of
     (by decide +kernel), outst { type := 2, len := 1 }, (by unfold Dev.nothingHeld; decide +kernel), by decide +kernel⟩,
   ⟨st (Wo (outst { type := 4, len := 1, atag := 1 })), 0, { cls := 2, m := near { type := 0x43, len := 1, tag := 9, atag := 1, units := [77] } },
     drsServed_of (by decide +kernel), outst { type := 4, len := 1, atag := 1 }, (by unfold Dev.nothingHeld; decide +kernel), by decide +kernel⟩,
   ⟨st (Wo (outst { type := 2, len := 1 })), 0, { cls := 2, m := near { type := 0x44, tag := 9 } }, drsServed_of (by decide +kernel), outst
     { type := 2, len := 1 }, (by unfold Dev.nothingHeld; decide +kernel), by decide +kernel⟩,
   ⟨st Spn, 0, { cls := 2, m := near { type := 0x41, len := 1, tag := 9, units := [77] } }, drsServed_of (by decide +kernel), by decide +kernel⟩,
   ⟨st Spn, 0, { cls := 2, m := near { type := 0x42, tag := 9 } }, drsServed_of (by decide +kernel), by decide +kernel⟩,
   ⟨st Spn, 0, { cls := 2, m := near { type := 0x43, len := 1, tag := 9, atag := 1, units := [77] } }, drsServed_of (by decide +kernel),
     by decide +kernel⟩,
   ⟨st Spn, 0, { cls := 2, m := near { type := 0x44, tag := 9 } }, drsServed_of (by decide +kernel), by decide +kernel⟩,
   ⟨st (let d := Wo { outst { type := 2, len := 1, units := [7] } with credWait := some 5 }; { d with fab := { d.fab with fences := [2081] } }), 0,
     { cls := 2, m := near { type := 0x45, tag := 9, credit := some 5 } }, drsServed_of (by decide +kernel),
     { outst { type := 2, len := 1, units := [7] } with credWait := some 5 }, by decide +kernel⟩,
   ⟨st (Wo { outst { type := 2, len := 1, units := [7] } with credWait := some 5 }), 0,
     { cls := 2, m := near { type := 0x45, tag := 9, credit := some 5 } }, drsServed_of (by decide +kernel),
     { outst { type := 2, len := 1, units := [7] } with credWait := some 5 }, by decide +kernel, 0, by decide +kernel⟩,
   ⟨st (Wo (outst { type := 2, len := 1 })), 0, { cls := 2, m := near { type := 0x46, tag := 9, detail := 2, failNode := 1057, failDir := 0 } },
     drsServed_of (by decide +kernel), outst { type := 2, len := 1 }, by decide +kernel⟩⟩

/-- Inputs that meet the hypotheses of each clause of FabricTimers. -/
theorem witness_FabricTimers :
    (∃ (s : State), let d := s.dev; ∃ (node : Fin 16384), let mine := d.fab.out.filter fun o => o.m.dst == node.val; d.fab.fences.contains node.val
      = true ∧ (mine.any fun o => !o.returned && !o.heldBack && o.credWait.isNone) = true) ∧
    (∃ (s : State), let d := s.dev; ∃ (node : Fin 16384), let mine := d.fab.out.filter fun o => o.m.dst == node.val; d.fab.fences.contains node.val
      = true ∧ ∃ (c : _), mine = [] ∧ d.chooseRoute node = some c) ∧
    (∃ (s : State), let d := s.dev; ∃ (node : Fin 16384), let mine := d.fab.out.filter fun o => o.m.dst == node.val; d.fab.fences.contains node.val
      = true ∧ ∃ (o : _), mine = [o] ∧ o.returned = true ∧ o.heldBack = false ∧ d.chooseRoute node = none) ∧
    (∃ (s : State), let d := s.dev; ∃ (node : Fin 16384), let mine := d.fab.out.filter fun o => o.m.dst == node.val; d.fab.fences.contains node.val
      = true ∧ ∃ (o : _) (c : _) (x : _), let again := o.m.type = 4 ∧ o.copies ≠ 0; let m' := { o.m with retx := decide again }; mine = [o] ∧
      o.returned = true ∧ o.heldBack = false ∧ d.chooseRoute node = some c ∧ d.drsEgr m' = some x) ∧
    (∃ (s : State), let d := s.dev; ∃ (node : Fin 16384), let mine := d.fab.out.filter fun o => o.m.dst == node.val; d.fab.fences.contains node.val
      = true ∧ ∃ (o : _) (c : _) (x : _), let again := o.m.type = 4 ∧ o.copies ≠ 0; let m' := { o.m with retx := decide again }; mine = [o] ∧
      o.returned = true ∧ o.heldBack = false ∧ d.chooseRoute node = some c ∧ d.drsEgr m' = some x) ∧
    (∃ (s : State), let d := s.dev; ∃ (k : Fin 64), (d.fab.dead.any fun e => e.1 == k.val) = true) ∧
    (∃ (s : State), let d := s.dev; ∃ (tag : _) (o : _), d.nothingHeld o.m.dst ∧ tag < 65536 ∧ d.outst tag = some o ∧ o.heldBack = false ∧ o.m.type
      ≠ 4) ∧
    (∃ (s : State), let d := s.dev; ∃ (tag : _) (o : _), d.nothingHeld o.m.dst ∧ tag < 65536 ∧ d.outst tag = some o ∧ o.heldBack = false ∧ o.m.type
      = 4 ∧ o.credWait.isSome = true) ∧
    (∃ (s : State), let d := s.dev; ∃ (tag : _) (o : _), d.nothingHeld o.m.dst ∧ tag < 65536 ∧ d.outst tag = some o ∧ o.heldBack = false ∧ o.m.type
      = 4 ∧ o.credWait = none ∧ o.copies = 0) ∧
    (∃ (s : State), let d := s.dev; ∃ (tag : _) (o : _), d.nothingHeld o.m.dst ∧ tag < 65536 ∧ d.outst tag = some o ∧ o.heldBack = false ∧ o.m.type
      = 4 ∧ o.credWait = none ∧ 5 ≤ o.copies) ∧
    (∃ (s : State), let d := s.dev; ∃ (tag : _) (o : _), let m' := { o.m with retx := true }; d.nothingHeld o.m.dst ∧ (tag < 65536 ∧ d.outst tag =
      some o ∧ o.heldBack = false ∧ o.m.type = 4 ∧ o.credWait = none) ∧ ∃ (dir : _), 0 < o.copies ∧ o.copies < 5 ∧ o.returned = false ∧
      d.fab.fences.contains o.m.dst = false ∧ nextDir d.node (withRoute d m' ((tget 0 d.fab.routes o.m.dst - 1) / 8, (tget 0 d.fab.routes o.m.dst -
      1) % 8)) = some dir ∧ d.trunkOk dir = true) ∧
    (∃ (s : State), let d := s.dev; ∃ (src : Fin 16384) (atag : Nat) (age : Nat) (e : Replay), atag < 2 ^ 24 ∧ 12800 ≤ age ∧ age ≤ 16000 ∧
      d.fab.replay.find? (fun e => e.src == src.val && e.atag == atag) = some e) ∧
    (∃ (s : State), let d := s.dev; ∃ (x : _), (d.fab.dirty.find? fun x => !(d.shipReady x)) = some x) :=
  ⟨⟨st (fenced (Wo (outst { type := 2, len := 1 }))), 2081, by decide +kernel⟩,
   ⟨st { Spn with fab := { Spn.fab with fences := [2081, 7] } }, 2081, by decide +kernel, (0, 0), by decide +kernel⟩,
   ⟨st (let d := Wo { outst { type := 2, len := 1 } with returned := true };
     { d with fab := { d.fab with fences := [2081], dead := (List.range 6).map fun k => (k, 1057, k) } }), 2081, by decide +kernel,
     { outst { type := 2, len := 1 } with returned := true }, by decide +kernel⟩,
   ⟨st (fenced (Wo { outst { type := 2, len := 1 } with returned := true })), 2081, by decide +kernel,
     { outst { type := 2, len := 1 } with returned := true }, (0, 0), ((fenced (Wo { outst { type := 2, len := 1 } with returned := true })).drsEgr
     (outst { type := 2, len := 1 }).m).getD ⟨0, 0, 0, none, false, 0, .d {}⟩, by decide +kernel⟩,
   ⟨st (fenced (Wo { outst { type := 4, len := 1, units := [putLe (putLe (putLe 0 0 1 1) 1 1 2) 16 1 1] } with returned := true, copies := 2 })),
     2081, by decide +kernel,
     { outst { type := 4, len := 1, units := [putLe (putLe (putLe 0 0 1 1) 1 1 2) 16 1 1] } with returned := true, copies := 2 }, (0, 0), ((fenced
     (Wo { outst { type := 4, len := 1 } with returned := true })).drsEgr (outst
     { type := 4, len := 1, units := [putLe (putLe (putLe 0 0 1 1) 1 1 2) 16 1 1], retx := true }).m).getD ⟨0, 0, 0, none, false, 0, .d {}⟩,
     by decide +kernel⟩,
   ⟨st (put [(A.GWY_DEAD 63, BitVec.ofNat 64 (1 + 50 * 2 ^ 32))] { Spn with fab := { Spn.fab with dead := [(63, 1057, 0)] } }), 63,
     by decide +kernel⟩,
   ⟨st (Wo (outst { type := 2, len := 1 })), 9, outst { type := 2, len := 1 }, (by unfold Dev.nothingHeld; decide +kernel), by decide +kernel⟩,
   ⟨st (Wo { outst { type := 4, len := 1 } with credWait := some 4 }), 9, { outst { type := 4, len := 1 } with credWait := some 4 },
     (by unfold Dev.nothingHeld; decide +kernel), by decide +kernel⟩,
   ⟨st (Wo { outst { type := 4, len := 1 } with copies := 0, returned := true }), 9,
     { outst { type := 4, len := 1 } with copies := 0, returned := true }, (by unfold Dev.nothingHeld; decide +kernel), by decide +kernel⟩,
   ⟨st (Wo { outst { type := 4, len := 1 } with copies := 5 }), 9, { outst { type := 4, len := 1 } with copies := 5 },
     (by unfold Dev.nothingHeld; decide +kernel), by decide +kernel⟩,
   ⟨st (Wo { outst { type := 4, len := 1 } with copies := 4 }), 9, { outst { type := 4, len := 1 } with copies := 4 },
     (by unfold Dev.nothingHeld; decide +kernel), by decide +kernel, 0, by decide +kernel⟩,
   ⟨st { Spn with fab := { Spn.fab with replay := [⟨2081, 1, 3, {}, 30⟩] } }, 2081, 1, 16000, ⟨2081, 1, 3, {}, 30⟩, by decide +kernel⟩,
   ⟨st { Spn with fab := { Spn.fab with dirty := [⟨3, 1, 0, 5⟩] } }, ⟨3, 1, 0, 5⟩, by decide +kernel⟩⟩

/-- Inputs that meet the hypotheses of each clause of Gateway. -/
theorem witness_Gateway :
    (∃ (s : State), let d := s.dev; ∃ (x : Dirty), let w0 := d.reg (A.GWY_CHAN0 x.chan);
      let off := F.GWY_CHAN1_OUT.of (d.reg (A.GWY_CHAN1 x.chan)) * 2 ^ 21 + 4096 * x.tile; let dom := F.GWY_CHAN0_DOMAIN.of w0; (∀ i < 64,
      d.lineFree (off / 64 + i) ∧ d.refusal (off + 64 * i) (some dom) none = none) ∧ d.fab.dirty.find? d.shipReady = some x ∧ d.fab.bulk.length <
      256 ∧ d.fld A.GWY_CFG F.GWY_CFG_EXT_EN = 1 ∧ F.GWY_CHAN0_VALID.of w0 = 1) ∧
    (∃ (s : State), let d := s.dev; ∃ (p : Fin 12) (i : DIn), let m := i.m; let w0 := d.reg (A.GWY_CHAN0 m.win);
      let first := (F.GWY_CHAN1_IN.of (d.reg (A.GWY_CHAN1 m.win)) * 2 ^ 21 + m.woff) / 64; let rec_ := bits (d.reg (A.GWY_CHAN2 m.win)) 0 33;
      let dom := F.GWY_CHAN0_DOMAIN.of w0;
      let free (n : Nat) : Prop := d.lineFree n ∧ d.dirOf n = (0, 0) ∧ d.refusal (64 * n) (some dom) none = none; d.drsServed p i ∧ (∀ j < 64, free
      (first + j)) ∧ free rec_ ∧ m.type = 0x70 ∧ 3 ≤ m.win ∧ m.win < 64 ∧ F.GWY_CHAN0_VALID.of w0 = 1 ∧ m.woff + 4096 ≤ (F.GWY_CHAN0_LEN_M1.of w0 +
      1) * 2 ^ 21 ∧ d.fld A.GWY_CFG F.GWY_CFG_EXT_EN = 1 ∧ d.power ≠ 3 ∧ d.arbiterIdle (portEast (p + 4)) ∧ d.home.credits = [] ∧ d.home.groups =
      [] ∧ (rec_ < first ∨ first + 64 ≤ rec_)) ∧
    (∃ (s : State), let d := s.dev; ∃ (p : Fin 12) (i : DIn), let m := i.m; d.drsServed p i ∧ m.type = 0x71) ∧
    (∃ (s : State), let d := s.dev; ∃ (p : Fin 12) (i : DIn), let m := i.m; d.drsServed p i ∧ m.type = 0x66 ∧ max 1 (d.fld A.GWY_CFG
      F.GWY_CFG_MAX_STAGES) < pmsgStages m) ∧
    (∃ (s : State), let d := s.dev; ∃ (p : Fin 12) (i : DIn), let m := i.m; let us := linesOf (((pmsgPayload m).length + 63) / 64) (pmsgPayload m);
      let out : DMsg := { type := [0x60, 0x64, 0x65].getD (pmsgChan m) 0x65, len := us.length, dst := pmsgDstNode m, src := d.node, units := us };
      d.drsServed p i ∧ m.type = 0x66 ∧ pmsgStages m ≤ max 1 (d.fld A.GWY_CFG F.GWY_CFG_MAX_STAGES) ∧ pmsgDstSpan m = d.span ∧ pmsgDstNode m ≠
      d.node ∧ pmsgChan m ≤ 2 ∧ (d.drsEgr out).isSome = true) :=
  ⟨⟨st (sf [(A.GWY_CFG, F.GWY_CFG_EXT_EN, 1), (A.GWY_CFG, F.GWY_CFG_EXT_PORT, 11), (A.GWY_CHAN0 63, F.GWY_CHAN0_VALID, 1), (A.GWY_CHAN0 63,
     F.GWY_CHAN0_DOMAIN, 4), (A.GWY_CHAN1 63, F.GWY_CHAN1_OUT, 512)] (mem 0x40000040 [9]
     { Wn with fab := { Wn.fab with dirty := [⟨63, 0, 0, BitVec.allOnes 64⟩] } })), ⟨63, 0, 0, BitVec.allOnes 64⟩, allFree_of (by decide +kernel),
     by decide +kernel⟩,
   ⟨st (sf [(A.GWY_CFG, F.GWY_CFG_EXT_EN, 1), (A.GWY_CFG, F.GWY_CFG_EXT_PORT, 11), (A.GWY_CHAN0 63, F.GWY_CHAN0_VALID, 1), (A.GWY_CHAN0 63,
     F.GWY_CHAN0_DOMAIN, 4), (A.GWY_CHAN1 63, F.GWY_CHAN1_IN, 512), (A.GWY_CHAN2 63, F.GWY_CHAN2_RECORD, 0x1000040)] Wn), 11,
     { cls := 3, m := { type := 0x70, len := 64, win := 63, tag := 6, units := (List.range 64).map fun k => BitVec.ofNat 512 (k + 1) } },
     drsServed_of (by decide +kernel), allFree_of (by decide +kernel), ⟨lineFree_of (by decide +kernel), by decide +kernel⟩, by decide +kernel⟩,
   ⟨st (sf [(A.GWY_CFG, F.GWY_CFG_EXT_EN, 1), (A.GWY_CFG, F.GWY_CFG_EXT_PORT, 11)]
     { Spn with fab := { Spn.fab with bulk := [(6, 30), (7, 30)] } }), 11, { cls := 3, m := { type := 0x71, tag := 6 } }, drsServed_of
     (by decide +kernel), by decide +kernel⟩,
   ⟨st (sf [(A.GWY_CFG, F.GWY_CFG_EXT_EN, 1), (A.GWY_CFG, F.GWY_CFG_EXT_PORT, 11), (A.GWY_CFG, F.GWY_CFG_MAX_STAGES, 2)] Spn), 11,
     { cls := 0, m := { type := 0x66, len := 1, units := [putLe 0 1 1 3] } }, drsServed_of (by decide +kernel), by decide +kernel⟩,
   ⟨st (sf [(A.GWY_CFG, F.GWY_CFG_EXT_EN, 1), (A.GWY_CFG, F.GWY_CFG_EXT_PORT, 11)] Spn), 11,
     { cls := 0, m := { type := 0x66, len := 2, units := [putLe (putLe (putLe (putLe (putLe 0 1 1 1) 2 2 9) 4 2 2081) 10 2 64) 16 1 7, 0] } },
     drsServed_of (by decide +kernel), by decide +kernel⟩⟩

/-- Inputs that meet the hypotheses of each clause of OwnershipMessages. -/
theorem witness_OwnershipMessages :
    (∃ (s : State) (p : Fin 12) (i : DIn), let m := i.m; let d := s.dev; let u := m.units.headD 0; d.drsServed p i ∧ d.hasRoom 0x0404 0 ∧ m.type =
      0x62 ∧ le u 0 1 = 1) ∧
    (∃ (s : State) (p : Fin 12) (i : DIn), let m := i.m; let d := s.dev; let u := m.units.headD 0; d.drsServed p i ∧ d.hasRoom 0x0405 0 ∧ m.type =
      0x62 ∧ le u 0 1 = 5) ∧
    (∃ (s : State) (p : Fin 12) (i : DIn), let m := i.m; let d := s.dev; let u := m.units.headD 0; let off := le u 8 8; let epoch := le u 16 2;
      let own (kind e st : Nat) (dst : Nat) : DMsg := { type := 0x62, len := 1, dst := dst, src := d.node, units := [putLe (putLe (putLe (putLe 0 0 1 kind) 8 8 off) 16 2 e) 18 1 st] };
      d.drsServed p i ∧ m.type = 0x62 ∧ le u 0 1 = 3 ∧ (d.drsEgr (own 4 epoch 0 m.src)).isSome = true) ∧
    (∃ (s : State) (p : Fin 12) (i : DIn), let m := i.m; let d := s.dev; let u := m.units.headD 0; let off := le u 8 8; let epoch := le u 16 2;
      let region := off >>> 21; let o := d.ownRec region;
      let own (kind e st : Nat) (dst : Nat) : DMsg := { type := 0x62, len := 1, dst := dst, src := d.node, units := [putLe (putLe (putLe (putLe 0 0 1 kind) 8 8 off) 16 2 e) 18 1 st] };
      d.drsServed p i ∧ m.type = 0x62 ∧ ∃ (x : _), le u 0 1 = 4 ∧ off % 2 ^ 21 = 0 ∧ d.own.xfers.find? (fun x => x.region == region &&
      x.releaseDue.isSome) = some x ∧ x.region = region ∧ o.owner = m.src ∧ o.st = 2 ∧ x.newOwner ≠ d.node ∧ (d.drsEgr (own 1 (epochNext o.epoch) 0
      x.newOwner)).isSome = true) ∧
    (∃ (s : State) (p : Fin 12) (i : DIn), let m := i.m; let d := s.dev; let u := m.units.headD 0; let off := le u 8 8; let epoch := le u 16 2;
      let region := off >>> 21; let o := d.ownRec region;
      let own (kind e st : Nat) (dst : Nat) : DMsg := { type := 0x62, len := 1, dst := dst, src := d.node, units := [putLe (putLe (putLe (putLe 0 0 1 kind) 8 8 off) 16 2 e) 18 1 st] };
      d.drsServed p i ∧ m.type = 0x62 ∧ ∃ (x : _), le u 0 1 = 2 ∧ off % 2 ^ 21 = 0 ∧ off < storeEnd ∧ o.st = 1 ∧ o.pend = m.src ∧ o.epoch = epoch ∧
      d.own.xfers.find? (fun x => x.region == region && x.acceptDue.isSome) = some x ∧ x.region = region ∧ d.quiet ∧ (d.drsEgr (own 6 epoch 0
      m.src)).isSome = true) ∧
    (∃ (s : State) (p : Fin 12) (i : DIn), let m := i.m; let d := s.dev; let u := m.units.headD 0; let off := le u 8 8; let epoch := le u 16 2;
      let own (kind e st : Nat) (dst : Nat) : DMsg := { type := 0x62, len := 1, dst := dst, src := d.node, units := [putLe (putLe (putLe (putLe 0 0 1 kind) 8 8 off) 16 2 e) 18 1 st] };
      d.drsServed p i ∧ m.type = 0x62 ∧ ∃ (a : _), le u 0 1 = 6 ∧ d.own.accepting.find? (fun a => a.node == m.src && a.off == off && a.epoch ==
      epoch) = some a ∧ le u 18 1 = 0) :=
  ⟨⟨st Spn, 0, ownMsg 1 0x40000000 5 0, drsServed_of (by decide +kernel), (by unfold Dev.hasRoom; decide +kernel), by decide +kernel⟩,
   ⟨st Spn, 0, ownMsg 5 0x40000000 5 0, drsServed_of (by decide +kernel), (by unfold Dev.hasRoom; decide +kernel), by decide +kernel⟩,
   ⟨st { Spn with own := { ownedHere := [(2081, 0x40000000, 5), (7, 0, 1)] } }, 0, ownMsg 3 0x40000000 5 0, drsServed_of (by decide +kernel),
     by decide +kernel⟩,
   ⟨st { Spn with own := { xfers := [⟨8, 512, 9, true, some 700, none, false⟩], recs := [(512, { st := 2, owner := 2081, epoch := 5 })] } }, 0,
     ownMsg 4 0x40000000 5 0, drsServed_of (by decide +kernel), by decide +kernel, ⟨8, 512, 9, true, some 700, none, false⟩, by decide +kernel⟩,
   ⟨st { Spn with own := { xfers := [⟨8, 512, 2081, true, none, some 700, false⟩], recs := [(512, { st := 1, pend := 2081, epoch := 5 })] } }, 0,
     ownMsg 2 0x40000000 5 0, drsServed_of (by decide +kernel), by decide +kernel, ⟨8, 512, 2081, true, none, some 700, false⟩, by decide +kernel⟩,
   ⟨st { Spn with own := { accepting := [⟨3, 2081, 0x40000000, 5, 700⟩] }, cmd := { runs := [rn 0] } }, 0, ownMsg 6 0x40000000 5 0, drsServed_of
     (by decide +kernel), by decide +kernel, ⟨3, 2081, 0x40000000, 5, 700⟩, by decide +kernel⟩⟩

/-- Inputs that meet the hypotheses of each clause of OwnershipTimers. -/
theorem witness_OwnershipTimers :
    (∃ (s : State), let d := s.dev; ∃ (region : Fin 196608) (x : Xfer) (due : Nat), d.own.xfers.find? (fun x => x.region == region.val &&
      x.acceptDue.isSome) = some x ∧ x.region = region ∧ x.acceptDue = some due ∧ d.quiet) ∧
    (∃ (s : State), let d := s.dev; ∃ (region : Fin 196608) (x : Xfer) (due : Nat), d.hasRoom 0x0403 (region % 8) ∧ d.own.xfers.find? (fun x =>
      x.region == region.val && x.releaseDue.isSome) = some x ∧ x.region = region ∧ x.releaseDue = some due ∧ (d.ownRec region).st = 2) ∧
    (∃ (s : State), let d := s.dev; ∃ (node : Fin 16384) (region : Nat) (a : Accepting), d.own.accepting.find? (fun a => a.node == node.val &&
      a.off >>> 21 == region) = some a) :=
  ⟨⟨st { Spn with own := { xfers := [⟨8, 512, 2081, true, none, some 700, false⟩], recs := [(512, { st := 1, pend := 2081, epoch := 5 })] } }, 512,
     ⟨8, 512, 2081, true, none, some 700, false⟩, 700, by decide +kernel⟩,
   ⟨st { Spn with own := { xfers := [⟨8, 512, 9, true, some 700, none, false⟩], recs := [(512, { st := 2, owner := 2081, epoch := 5 })] } }, 512,
     ⟨8, 512, 9, true, some 700, none, false⟩, 700, (by unfold Dev.hasRoom; decide +kernel), by decide +kernel⟩,
   ⟨st { Spn with own := { accepting := [⟨3, 2081, 0x40000000, 5, 700⟩] }, cmd := { runs := [rn 0] } }, 2081, 512, ⟨3, 2081, 0x40000000, 5, 700⟩,
     by decide +kernel⟩⟩

/-- Inputs that meet the hypotheses of each clause of LeaseExpiry. -/
theorem witness_LeaseExpiry :
    (∃ (s : State) (tick : Nat), let d := s.dev; d.power ≠ 3 ∧ d.quiet) ∧
    (∃ (s : State) (tick : Nat), let d := s.dev; d.power = 3) :=
  ⟨⟨st (sf [(A.LSE_EXPIRY 1, F.LSE_EXPIRY_TICK, 79), (A.LSE_EXPIRY 2, F.LSE_EXPIRY_TICK, 81)] (lent 2 4 3 Wn)), 80, by decide +kernel⟩,
   ⟨st (sf [(A.PWR_STATUS, F.PWR_STATUS_STATE, 3)] Up), 80, by decide +kernel⟩⟩

/-- Inputs that meet the hypotheses of each clause of Tokens. -/
theorem witness_Tokens :
    (∃ (s : State), let d := s.dev; ∃ (p : Fin 12) (i : DIn), let m := i.m; let u := m.units.headD 0; let half := bits u 8 1;
      let epoch := le u 8 4; d.drsServed p i ∧ i.m.type = 0x63 ∧ le u 0 1 = 1 ∧ bits u 32 14 = d.node ∧ d.fld A.TOP_TOKEN F.TOP_TOKEN_EPOCH ≤ epoch
      ∧ d.halfUp (half == 1) = true) ∧
    (∃ (s : State), let d := s.dev; ∃ (p : Fin 12) (i : DIn), let m := i.m; let u := m.units.headD 0;
      let ack : DMsg := { type := 0x63, len := 1, dst := m.src, src := d.node, units := [tokenUnit 2 (d.fld A.TOP_TOKEN F.TOP_TOKEN_HALF) (bits u 16 14) d.node (d.fld A.TOP_TOKEN F.TOP_TOKEN_EPOCH) 0 d.tokenState] };
      d.drsServed p i ∧ i.m.type = 0x63 ∧ le u 0 1 = 1 ∧ bits u 32 14 ≠ d.node ∧ (d.drsEgr ack).isSome = true) ∧
    (∃ (s : State), let d := s.dev; ∃ (p : Fin 12) (i : DIn), let m := i.m; let u := m.units.headD 0; d.drsServed p i ∧ i.m.type = 0x63 ∧ le u 0 1
      = 2) ∧
    (∃ (s : State), let d := s.dev; ∃ (tick : Nat), (∀ dir < 6, d.trunkOk dir = true)) ∧
    (∃ (s : State), let d := s.dev; ∃ (tick : Nat), (∀ dir < 6, d.trunkOk dir = true)) ∧
    (∃ (s : State), let d := s.dev; ∃ (due : _), d.sys.res.tokenDue = some due) :=
  ⟨⟨st Spn, 0, { cls := 0, m := near { type := 0x63, len := 1, units := [tokenUnit 1 1 2081 1057 7 100 0] } }, drsServed_of (by decide +kernel),
     by decide +kernel⟩,
   ⟨st Spn, 0, { cls := 0, m := near { type := 0x63, len := 1, units := [tokenUnit 1 1 2081 1058 7 100 0] } }, drsServed_of (by decide +kernel),
     by decide +kernel⟩,
   ⟨st { Spn with sys := { res := { served := [⟨2081, 1, 6, none⟩, ⟨9, 1, 6, none⟩] } } }, 0,
     { cls := 0, m := near { type := 0x63, len := 1, units := [tokenUnit 2 1 2081 1057 7 0 3] } }, drsServed_of (by decide +kernel),
     by decide +kernel⟩,
   ⟨st (put [(A.TOP_ROLE, 1), (A.TOP_GROUP_MEMBERS, 7)]
     { Spn with sys := { res := { served := [⟨0, 1, 6, some (true, true, 6)⟩, ⟨9, 1, 6, none⟩] } } }), 99, by decide +kernel⟩,
   ⟨st (put [(A.TOP_ROLE, 0xA02)] Spn), 99, by decide +kernel⟩,
   ⟨st (put [(A.TOP_TOKEN, BitVec.ofNat 64 (7 + 3 * 2 ^ 32))] { Spn with sys := { res := { tokenDue := some 90 } } }), 90, by decide +kernel⟩⟩

/-- Inputs that meet the hypotheses of each clause of QuorumTimers. -/
theorem witness_QuorumTimers :
    (∃ (s : State), let d := s.dev; ∃ (tick : _), let d' := { d with now := max d.now tick }; d.isSpanMgr = true ∧ (d.leadsSpan = false ∨ 3 ≤
      liveCount d'.liveMask) ∧ (∀ dir < 6, d.trunkOk dir = true)) ∧
    (∃ (s : State), let d := s.dev; let wait := d.deadTime + d.ownIdx * d.beat;
      let d' := { d with now := max d.now (match d.sys.res.leadBeat with | some b => b + wait + 1 | none => wait) }; d.isSpanMgr = true ∧
      d.leaderIdx ≠ d.ownIdx ∧ 3 ≤ liveCount d'.liveMask ∧ (∀ dir < 6, d.trunkOk dir = true)) ∧
    (∃ (s : State), let d := s.dev; ∃ (j : Fin 5), d.fld (A.TOP_VOTE j) F.TOP_VOTE_VALID = 1) ∧
    (∃ (s : State), let d := s.dev; ∃ (r : _), d.only r ∧ (d.cmd.runs.find? fun r => r.goes Op.expelVote && decide (r.phase = 1)) = some r) :=
  ⟨⟨st Mg, 99, by decide +kernel⟩,
   ⟨st (put [(A.TOP_QUORUM_STATUS, 0xe0)]
     { Mg with sys := { res := { heard := [(0, 10000000), (1, 10000000), (4, 3)], leadBeat := some 70, maxTerm := 6 } } }), by decide +kernel⟩,
   ⟨st (put [(A.TOP_VOTE 4, 0xff4007)] { Mg with sys := { res := { votedAt := [(4, 20)] } } }), 4, by decide +kernel⟩,
   ⟨st { Mg with cmd := { runs := [{ rn (pk Op.expelVote []) with phase := 1, aux := [2081, 900] }] } },
     { rn (pk Op.expelVote []) with phase := 1, aux := [2081, 900] }, (by unfold Dev.only; decide +kernel), by decide +kernel⟩⟩

/-- Inputs that meet the hypotheses of each clause of QuorumMessages. -/
theorem witness_QuorumMessages :
    (∃ (s : State) (p : Fin 12) (i : DIn), let m := i.m; let d := s.dev; let u := m.units.headD 0; let j := le u 1 1; let term := le u 4 4;
      d.drsServed p i ∧ m.type = 0x64 ∧ d.isSpanMgr = true ∧ j < 5 ∧ le u 0 1 = 1 ∧ le u 9 1 = j ∧ d.fld A.TOP_QUORUM_STATUS
      F.TOP_QUORUM_STATUS_TERM ≤ term) ∧
    (∃ (s : State) (p : Fin 12) (i : DIn), let m := i.m; let d := s.dev; let u := m.units.headD 0; let j := le u 1 1; let term := le u 4 4;
      let grant : DMsg := { type := 0x64, len := 1, dst := m.src, src := d.node, units := [putLe (d.quorumUnit 3) 4 4 term] }; d.drsServed p i ∧
      m.type = 0x64 ∧ d.isSpanMgr = true ∧ j < 5 ∧ le u 0 1 = 2 ∧ d.sys.res.voted < term ∧ d.sys.res.maxTerm < term ∧ d.leaderSilent d.deadTime =
      true ∧ d.votesFor m.src < 3 ∧ (d.drsEgr grant).isSome = true) ∧
    (∃ (s : State) (p : Fin 12) (i : DIn), let m := i.m; let d := s.dev; let u := m.units.headD 0; let j := le u 1 1; let term := le u 4 4;
      d.drsServed p i ∧ m.type = 0x64 ∧ d.isSpanMgr = true ∧ j < 5 ∧ le u 0 1 = 3 ∧ term = d.fld A.TOP_QUORUM_STATUS F.TOP_QUORUM_STATUS_TERM ∧
      d.sys.res.grants ≠ 1) ∧
    (∃ (s : State) (p : Fin 12) (i : DIn), let m := i.m; let d := s.dev; let u := m.units.headD 0; let j := le u 1 1; let term := le u 4 4;
      d.drsServed p i ∧ m.type = 0x64 ∧ d.isSpanMgr = true ∧ j < 5 ∧ le u 0 1 = 3 ∧ term = d.fld A.TOP_QUORUM_STATUS F.TOP_QUORUM_STATUS_TERM ∧
      d.sys.res.grants = 1 ∧ d.ownIdx < 5) ∧
    (∃ (s : State) (p : Fin 12) (i : DIn), let m := i.m; let d := s.dev; let u := m.units.headD 0; let j := le u 1 1; d.drsServed p i ∧ m.type =
      0x64 ∧ d.isSpanMgr = true ∧ j < 5 ∧ le u 0 1 = 4 ∧ d.leadsSpan = false ∧ le u 24 1 < 128) ∧
    (∃ (s : State) (p : Fin 12) (i : DIn), let m := i.m; let d := s.dev; let u := m.units.headD 0; let j := le u 1 1; d.drsServed p i ∧ (m.type =
      0x64 ∧ d.isSpanMgr = true ∧ j < 5) ∧ ∃ (r : _), d.only r ∧ le u 0 1 = 9 ∧ (d.cmd.runs.find? fun r => r.goes Op.expelVote && decide (r.phase =
      1)) = some r ∧ j = d.leaderIdx ∧ d.votesFor (r.aux.headD 0) < 3) ∧
    (∃ (s : State) (p : Fin 12) (i : DIn), let m := i.m; let d := s.dev; let u := m.units.headD 0; let target := bits u 128 14; d.drsServed p i ∧
      m.type = 0x64 ∧ le u 0 1 = 5 ∧ d.expelled target = false) ∧
    (∃ (s : State) (p : Fin 12) (i : DIn), let m := i.m; let d := s.dev; let u := m.units.headD 0; let target := bits u 128 14; d.drsServed p i ∧
      m.type = 0x64 ∧ le u 0 1 = 5 ∧ d.expelled target = false) ∧
    (∃ (s : State) (p : Fin 12) (i : DIn), let m := i.m; let d := s.dev; let u := m.units.headD 0; let target := bits u 128 14; d.drsServed p i ∧
      m.type = 0x64 ∧ le u 0 1 = 6 ∧ d.shadowed target = false ∧ target ≠ d.node) ∧
    (∃ (s : State) (p : Fin 12) (i : DIn), let m := i.m; let d := s.dev; let u := m.units.headD 0; let target := bits u 128 14; d.drsServed p i ∧
      m.type = 0x64 ∧ le u 0 1 = 6 ∧ d.shadowed target = false ∧ target = d.node) ∧
    (∃ (s : State) (p : Fin 12) (i : DIn), let m := i.m; let d := s.dev; let u := m.units.headD 0; let target := bits u 128 14; d.drsServed p i ∧
      m.type = 0x64 ∧ le u 0 1 = 7 ∧ d.leadsSpan = true ∧ d.shadowed target = true) ∧
    (∃ (s : State) (p : Fin 12) (i : DIn), let m := i.m; let d := s.dev; let u := m.units.headD 0; let target := bits u 128 14; d.drsServed p i ∧
      m.type = 0x64 ∧ le u 0 1 = 8 ∧ d.shadowed target = true) ∧
    (∃ (s : State) (p : Fin 12) (i : DIn), let m := i.m; let d := s.dev; let u := m.units.headD 0; let target := bits u 128 14; d.drsServed p i ∧
      m.type = 0x64 ∧ le u 0 1 = 8 ∧ d.shadowed target = true) :=
  ⟨⟨st Mg, 0, quoMsg [(0, 1, 1), (1, 1, 4), (4, 4, 6), (8, 1, 0x14), (9, 1, 4)], drsServed_of (by decide +kernel), by decide +kernel⟩,
   ⟨st Mg, 0, quoMsg [(0, 1, 2), (1, 1, 4), (4, 4, 6)], drsServed_of (by decide +kernel), by decide +kernel⟩,
   ⟨st (sf [(A.TOP_QUORUM_STATUS, F.TOP_QUORUM_STATUS_TERM, 6)] Mg), 0, quoMsg [(0, 1, 3), (1, 1, 4), (4, 4, 6)], drsServed_of (by decide +kernel),
     by decide +kernel⟩,
   ⟨st (sf [(A.TOP_QUORUM_STATUS, F.TOP_QUORUM_STATUS_TERM, 6)] { Mg with sys := { res := { grants := 1 } } }), 0, quoMsg [(0, 1, 3), (1, 1, 4),
     (4, 4, 6)], drsServed_of (by decide +kernel), by decide +kernel⟩,
   ⟨st Mg, 0, quoMsg [(0, 1, 4), (1, 1, 4), (4, 4, 6), (16, 2, 2081), (24, 1, 5)], drsServed_of (by decide +kernel), by decide +kernel⟩,
   ⟨st (sf [(A.TOP_QUORUM_STATUS, F.TOP_QUORUM_STATUS_LEADER, 4)]
     { Mg with cmd := { runs := [{ rn (pk Op.expelVote []) with phase := 1, aux := [7, 900] }] } }), 0, quoMsg [(0, 1, 9), (1, 1, 4), (4, 4, 6)],
     drsServed_of (by decide +kernel), by decide +kernel, { rn (pk Op.expelVote []) with phase := 1, aux := [7, 900] },
     (by unfold Dev.only; decide +kernel), by decide +kernel⟩,
   ⟨st Mg, 0, quoMsg [(0, 1, 5), (1, 1, 4), (4, 4, 6), (16, 2, 16383)], drsServed_of (by decide +kernel), by decide +kernel⟩,
   ⟨st Mg, 0, quoMsg [(0, 1, 5), (1, 1, 4), (4, 4, 6), (16, 2, 1057)], drsServed_of (by decide +kernel), by decide +kernel⟩,
   ⟨st Mg, 0, quoMsg [(0, 1, 6), (1, 1, 4), (4, 4, 6), (16, 2, 63)], drsServed_of (by decide +kernel), by decide +kernel⟩,
   ⟨st (put [(A.TOP_EXPEL_MAP 16, BitVec.ofNat 64 (2 ^ 33))] Mg), 0, quoMsg [(0, 1, 6), (1, 1, 4), (4, 4, 6), (16, 2, 1057), (18, 2, 9), (20, 4,
     77)], drsServed_of (by decide +kernel), by decide +kernel⟩,
   ⟨st (put [(A.TOP_SHADOW_MAP 0, BitVec.ofNat 64 (2 ^ 63)), (A.TOP_ROLE, 0xA02)] Mg), 0, quoMsg [(0, 1, 7), (1, 1, 7), (4, 4, 6), (16, 2, 63)],
     drsServed_of (by decide +kernel), by decide +kernel⟩,
   ⟨st (put [(A.TOP_SHADOW_MAP 0, BitVec.ofNat 64 (2 ^ 63))] Spn), 0, quoMsg [(0, 1, 8), (1, 1, 7), (4, 4, 6), (16, 2, 63)], drsServed_of
     (by decide +kernel), by decide +kernel⟩,
   ⟨st (put [(A.TOP_SHADOW_MAP 16, BitVec.ofNat 64 (2 ^ 33)), (A.TOP_RES_STATUS, 2)] Spn), 0, quoMsg [(0, 1, 8), (1, 1, 7), (4, 4, 6), (16, 2,
     1057)], drsServed_of (by decide +kernel), by decide +kernel⟩⟩

/-- Inputs that meet the hypotheses of each clause of UnitScopeMessages. -/
theorem witness_UnitScopeMessages :
    (∃ (s : State), let d := s.dev; ∃ (p : Fin 12) (i : DIn), let m := i.m;
      let ack : DMsg := { type := 0x67, dst := m.src, src := d.node, tag := m.tag }; d.drsServed p i ∧ d.awake ∧ m.type = 0x60 ∧ (d.drsEgr
      ack).isSome = true) ∧
    (∃ (s : State), let d := s.dev; ∃ (p : Fin 12) (i : DIn), let m := i.m; d.drsServed p i ∧ ∃ (f : _), m.type = 0x67 ∧ d.fanOf m.src m.tag = some
      f) ∧
    (∃ (s : State), let d := s.dev; let settled := ∀ f ∈ d.cmd.fans, f.seq ≠ askStatus; ∃ (p : Fin 12) (i : DIn), let m := i.m; d.drsServed p i ∧ ∃
      (f : _), m.type = 0x61 ∧ settled ∧ d.fanOf m.src m.tag = some f) ∧
    (∃ (s : State), let d := s.dev; let settled := ∀ f ∈ d.cmd.fans, f.seq ≠ askStatus; ∃ (p : Fin 12) (i : DIn), let m := i.m; d.drsServed p i ∧
      m.type = 0x61 ∧ settled ∧ d.fanOf m.src m.tag = none) ∧
    (∃ (s : State), let d := s.dev; let settled := ∀ f ∈ d.cmd.fans, f.seq ≠ askStatus; ∃ (node : Fin 16384) (acked : Bool) (f : Fan) (x : Member),
      settled ∧ (d.cmd.fans.find? fun f => f.members.any fun m => m.node == node.val && m.cpl.isNone && m.acked == acked) = some f ∧
      (f.members.find? fun m => m.node == node.val && m.cpl.isNone && m.acked == acked) = some x) ∧
    (∃ (s : State), let d := s.dev; let settled := ∀ f ∈ d.cmd.fans, f.seq ≠ askStatus; ∃ (node : Fin 16384) (acked : Bool) (f : Fan) (x : Member),
      settled ∧ (d.cmd.fans.find? fun f => f.members.any fun m => m.node == node.val && m.cpl.isNone && m.acked == acked) = some f ∧
      (f.members.find? fun m => m.node == node.val && m.cpl.isNone && m.acked == acked) = some x) :=
  ⟨⟨st Spn, 0, { cls := 0, m := near { type := 0x60, len := 1, tag := 6, units := [pk 1 []] } }, drsServed_of (by decide +kernel),
     (by unfold Dev.awake; decide +kernel), by decide +kernel⟩,
   ⟨st { Spn with cmd := { fans := [⟨3, 6, false, [⟨2081, false, false, 700, none⟩, ⟨9, false, false, 700, none⟩]⟩], runs := [rn 0] } }, 0,
     { cls := 0, m := near { type := 0x67, tag := 6 } }, drsServed_of (by decide +kernel), ⟨3, 6, false, [⟨2081, false, false, 700, none⟩, ⟨9,
     false, false, 700, none⟩]⟩, by decide +kernel⟩,
   ⟨st { Spn with cmd := { fans := [⟨3, 6, false, [⟨2081, false, true, 700, none⟩, ⟨9, false, false, 700, none⟩]⟩], runs := [rn 0] } }, 0,
     { cls := 0, m := near { type := 0x61, len := 1, tag := 6, units := [putLe 0 0 8 0x10000000506] } }, drsServed_of (by decide +kernel), ⟨3, 6,
     false, [⟨2081, false, true, 700, none⟩, ⟨9, false, false, 700, none⟩]⟩, by decide +kernel⟩,
   ⟨st Spn, 0, { cls := 0, m := near { type := 0x61, len := 1, tag := 6, units := [0] } }, drsServed_of (by decide +kernel), by decide +kernel⟩,
   ⟨st { Spn with cmd := { fans := [⟨3, 6, false, [⟨2081, false, true, 700, none⟩, ⟨9, false, false, 700, none⟩]⟩], runs := [rn 0] } }, 2081, true,
     ⟨3, 6, false, [⟨2081, false, true, 700, none⟩, ⟨9, false, false, 700, none⟩]⟩, ⟨2081, false, true, 700, none⟩, by decide +kernel⟩,
   ⟨st { Spn with cmd := { fans := [⟨3, 6, false, [⟨2081, false, true, 700, none⟩, ⟨9, false, false, 700, none⟩]⟩], runs := [rn 0] } }, 9, false,
     ⟨3, 6, false, [⟨2081, false, true, 700, none⟩, ⟨9, false, false, 700, none⟩]⟩, ⟨9, false, false, 700, none⟩, by decide +kernel⟩⟩

/-- Inputs that meet the hypotheses of each clause of RemoteAttestation. -/
theorem witness_RemoteAttestation :
    (∃ (s : State), let d := s.dev; ∃ (p : Fin 12) (i : DIn), let m := i.m; let u := m.units.headD 0;
      let ans : DMsg := { type := 0x65, len := 5, dst := m.src, src := d.node, tag := m.tag, units := d.attestAns u }; d.drsServed p i ∧ i.m.type =
      0x65 ∧ le u 0 1 = 1 ∧ d.canStart = true ∧ (d.drsEgr ans).isSome = true) ∧
    (∃ (s : State), let d := s.dev; ∃ (p : Fin 12) (i : DIn), let m := i.m; let u := m.units.headD 0; d.drsServed p i ∧ i.m.type = 0x65 ∧ le u 0 1
      = 1 ∧ d.canStart = false) ∧
    (∃ (s : State), let d := s.dev; ∃ (p : Fin 12) (i : DIn), let m := i.m; let u := m.units.headD 0; d.drsServed p i ∧ i.m.type = 0x65 ∧ ∃ (a : _)
      (r : _), le u 0 1 = 2 ∧ (d.sys.boot.asks.find? fun a => a.2.1 == le u 4 2 && d.node == bits u 16 14) = some a ∧ d.runSeq a.1 = some r ∧ r.cpl
      = none) ∧
    (∃ (s : State), let d := s.dev; ∃ (p : Fin 12) (i : DIn), let m := i.m; let u := m.units.headD 0; d.drsServed p i ∧ i.m.type = 0x65 ∧ le u 0 1
      = 2 ∧ d.sys.boot.asks = []) ∧
    (∃ (s : State), let d := s.dev; ∃ (a : _) (rest : _) (r : _), d.sys.boot.asks = a :: rest ∧ d.runSeq a.1 = some r ∧ r.cpl = none) :=
  ⟨⟨st Spn, 0, { cls := 0, m := near { type := 0x65, len := 2, tag := 6, units := [putLe (putLe (putLe 0 0 1 1) 4 2 6) 16 2 2081, 0] } },
     drsServed_of (by decide +kernel), by decide +kernel⟩,
   ⟨st (sf [(A.BOOT_STATUS, F.BOOT_STATUS_STAGE, 3)] Spn), 0,
     { cls := 0, m := near { type := 0x65, len := 2, tag := 6, units := [putLe (putLe (putLe 0 0 1 1) 4 2 6) 16 2 2081, 0] } }, drsServed_of
     (by decide +kernel), by decide +kernel⟩,
   ⟨st { Spn with cmd := { runs := [rn (pk Op.attest [])] }, sys := { boot := { asks := [(3, 6, 800)] } } }, 0,
     { cls := 0, m := near { type := 0x65, len := 5, tag := 6, units := [putLe (putLe (putLe 0 0 1 2) 4 2 6) 2 2 1057, 0, 0, 0, 0] } },
     drsServed_of (by decide +kernel), by decide +kernel, (3, 6, 800), rn (pk Op.attest []), by decide +kernel⟩,
   ⟨st Spn, 0, { cls := 0, m := near { type := 0x65, len := 5, tag := 6, units := [putLe (putLe 0 0 1 2) 4 2 6, 0, 0, 0, 0] } }, drsServed_of
     (by decide +kernel), by decide +kernel⟩,
   ⟨st { Spn with cmd := { runs := [rn (pk Op.attest [])] }, sys := { boot := { asks := [(3, 6, 800)] } } }, (3, 6, 800), [], rn (pk Op.attest []),
     by decide +kernel⟩⟩

/-- Inputs that meet the hypotheses of each clause of PacketAcceptance. -/
theorem witness_PacketAcceptance :
    (∃ (s : State) (b : Bell), let d := s.dev; let off := d.ringSlot b.q b.next; let dom := d.qcfg b.q F.CMD_Q_CFG_DOMAIN; d.lineFree (off / 64) ∧
      b.q < 512 ∧ (d.cmd.bells.find? fun b => !(d.queueBarred b.q)) = some b ∧ d.refusal off (some dom) none = none ∧ d.home.ue = []) ∧
    (∃ (s : State) (b : Bell), let d := s.dev; let off := d.ringSlot b.q b.next; let dom := d.qcfg b.q F.CMD_Q_CFG_DOMAIN; b.q < 512 ∧
      (d.cmd.bells.find? fun b => !(d.queueBarred b.q)) = some b ∧ d.refusal off (some dom) none ≠ none) :=
  ⟨⟨st (mem 0x40000fc0 [1, 0, 7] { withQ 5 1 0 1 Spn with cmd := { bells := [⟨5, 65535, 1⟩] } }), ⟨5, 65535, 1⟩, lineFree_of (by decide +kernel),
     by decide +kernel⟩,
   ⟨st (sf [(A.DOM_EXT_TAG 1, F.DOM_EXT_TAG_STATE, 2)]
     { withQ 5 1 0 1 Spn with cmd := { bells := [⟨5, 65535, 1⟩, ⟨6, 0, 1⟩], acc := [⟨.q 5, 1, 0, 0⟩] } }), ⟨5, 65535, 1⟩, by decide +kernel⟩⟩

/-- Inputs that meet the hypotheses of each clause of CommandStarts. -/
theorem witness_CommandStarts :
    (∃ (s : State), let d := s.dev; ∃ (q : Fin 512) (a : Acc),
      let run : Run := { iss := .q q, seq := a.seq, pkt := d.execPkt (.q q) a.pkt, tick := d.now, trace := a.trace };
      let engine := d.isEngine (.q q) = true ∧ d.tilesDown q = false ∧ d.tilesFree a = true ∧ d.gatedOf q = [];
      let mgmt := d.isEngine (.q q) = false ∧ d.coreServes = true ∧ d.nextMgmt = some a ∧ d.mgmtRuns < 8; d.runOf (.q q) = none ∧ d.head (.q q) =
      some a ∧ d.headReady a = true ∧ d.canStart = true ∧ (engine ∨ mgmt) ∧ (∀ x ∈ d.cmd.runs, x.seq ≠ a.seq) ∧ d.packetRefusal a.pkt run = none ∧
      run.ptr = 0 ∧ run.scope = 0 ∧ d.domainRefusal run = none) ∧
    (∃ (s : State), let d := s.dev; ∃ (q : Fin 512) (a : Acc),
      let run : Run := { iss := .q q, seq := a.seq, pkt := d.execPkt (.q q) a.pkt, tick := d.now, trace := a.trace };
      let engine := d.isEngine (.q q) = true ∧ d.tilesDown q = false ∧ d.tilesFree a = true ∧ d.gatedOf q = [];
      let mgmt := d.isEngine (.q q) = false ∧ d.coreServes = true ∧ d.nextMgmt = some a ∧ d.mgmtRuns < 8; d.runOf (.q q) = none ∧ d.head (.q q) =
      some a ∧ d.headReady a = true ∧ d.canStart = true ∧ (engine ∨ mgmt) ∧ (∀ x ∈ d.cmd.runs, x.seq ≠ a.seq) ∧ d.packetRefusal a.pkt run = none ∧
      run.ptr = 0 ∧ run.scope = 0 ∧ d.domainRefusal run = none) ∧
    (∃ (s : State), let d := s.dev; ∃ (q : Fin 512) (a : Acc),
      let run : Run := { iss := .q q, seq := a.seq, pkt := d.execPkt (.q q) a.pkt, tick := d.now, trace := a.trace };
      let engine := d.isEngine (.q q) = true ∧ d.tilesDown q = false ∧ d.tilesFree a = true ∧ d.gatedOf q = [];
      let mgmt := d.isEngine (.q q) = false ∧ d.coreServes = true ∧ d.nextMgmt = some a ∧ d.mgmtRuns < 8; (d.runOf (.q q) = none ∧ d.head (.q q) =
      some a ∧ d.headReady a = true ∧ d.canStart = true ∧ (engine ∨ mgmt) ∧ (∀ x ∈ d.cmd.runs, x.seq ≠ a.seq)) ∧ ∃ (st : _) (dt : _),
      d.packetRefusal a.pkt run = some (st, dt)) ∧
    (∃ (s : State), let d := s.dev; ∃ (tile : Fin 64), d.cmd.waking.contains tile.val = true) ∧
    (∃ (s : State), let d := s.dev; ∃ (tile : Fin 64), d.cmd.waking.contains tile.val = false) :=
  ⟨⟨st { withQ 5 1 0 1 Spn with cmd := { acc := [⟨.q 5, 3, pk 1 [], 0⟩] } }, 5, ⟨.q 5, 3, pk 1 [], 0⟩, by decide +kernel⟩,
   ⟨st (put [(A.PWR_TILE_GATED, 0), (A.STN_CTX_CFG 0, 1)] { withQ 5 0 0 1 Spn with cmd := { acc := [⟨.q 5, 3, pk 0x401 [], 0⟩] } }), 5, ⟨.q 5, 3,
     pk 0x401 [], 0⟩, by decide +kernel⟩,
   ⟨st { withQ 5 1 0 1 Spn with cmd := { acc := [⟨.q 5, 3, pk 0x777 [], 0⟩] } }, 5, ⟨.q 5, 3, pk 0x777 [], 0⟩, by decide +kernel, Sc.unsupported,
     8, by decide +kernel⟩,
   ⟨st { Spn with cmd := { waking := [63] } }, 63, by decide +kernel⟩,
   ⟨st Spn, 63, by decide +kernel⟩⟩

/-- Inputs that meet the hypotheses of each clause of CompletionRecords. -/
theorem witness_CompletionRecords :
    (∃ (s : State) (r : Run) (c : Cpl), let d := s.dev; (d.finalCpl r = some c ∧ (∀ x ∈ d.cmd.runs, x.seq = r.seq → x = r)) ∧ ∃ (q : Fin 512),
      d.runOf (.q q) = some r ∧ r.kept = [] ∧ r.outs ≠ 0) ∧
    (∃ (s : State) (r : Run) (c : Cpl), let d := s.dev; (d.finalCpl r = some c ∧ (∀ x ∈ d.cmd.runs, x.seq = r.seq → x = r)) ∧ ∃ (q : Fin 512),
      let tail := d.qptr q F.CMD_Q_PTR_CQ_TAIL; let off := d.cqSlot q tail; d.lineFree (off / 64) ∧ d.runOf (.q q) = some r ∧ r.kept = [] ∧ r.outs
      = 0 ∧ d.qstate q ≠ Qs.disabled ∧ r.find cqKey = none ∧ r.asked.contains cqKey = false ∧ d.dirOf (off / 64) = (0, 0) ∧ d.refusal (64 * (off /
      64)) (some (d.qcfg q F.CMD_Q_CFG_DOMAIN)) none = none) ∧
    (∃ (s : State) (r : Run) (c : Cpl), let d := s.dev; d.finalCpl r = some c ∧ (∀ x ∈ d.cmd.runs, x.seq = r.seq → x = r) ∧ d.runOf .mbox = some r
      ∧ r.iss = .mbox ∧ r.outs = 0) :=
  ⟨⟨st (Cr [{ rn (pk 1 []) with cpl := some { a := 3, result := 9 }, outs := 1 }]),
     { rn (pk 1 []) with cpl := some { a := 3, result := 9 }, outs := 1 }, { a := 3, result := 9 }, by decide +kernel, 5, by decide +kernel⟩,
   ⟨st (sf [(A.CMD_Q_PTR 5, F.CMD_Q_PTR_CQ_TAIL, 65535)] (Cr [{ rn (pk 1 []) with cpl := some { a := 3, result := 9 } }])),
     { rn (pk 1 []) with cpl := some { a := 3, result := 9 } }, { a := 3, result := 9 }, by decide +kernel, 5, lineFree_of (by decide +kernel),
     by decide +kernel⟩,
   ⟨st (Cr [{ rn (pk 1 []) with cpl := some { a := 3, result := 9 }, iss := .mbox }]),
     { rn (pk 1 []) with cpl := some { a := 3, result := 9 }, iss := .mbox }, { a := 3, result := 9 }, by decide +kernel⟩⟩

/-- Inputs that meet the hypotheses of each clause of RegisterCommands. -/
theorem witness_RegisterCommands :
    (∃ (s : State) (r : Run), let d := s.dev; ∃ (n : Fin 512), d.carries (.q n) Op.nop r ∧ r.isCx6 = true) ∧
    (∃ (s : State) (r : Run), let d := s.dev; ∃ (pkt : _), le pkt 0 2 = Op.nop ∧ bit pkt 23 = false ∧ d.runOf .fw = none ∧ (∀ x ∈ d.cmd.runs, x.seq
      ≠ fwSeq)) ∧
    (∃ (s : State) (r : Run), let d := s.dev; ∃ (q : Req), d.carries q Op.nop r ∧ r.isCx6 = false) ∧
    (∃ (s : State) (r : Run), let d := s.dev; let a := r.par 0 8; ∃ (q : Req), d.carries q Op.csrRead r ∧ plainRead a ∧ d.mboxBarred r a = false) ∧
    (∃ (s : State) (r : Run), let d := s.dev; let a := r.par 0 8; ∃ (q : Req), d.carries q Op.csrRead r ∧ d.mboxBarred r a = false ∧ ∃ (st : _) (dt
      : _), addrRefusal a = some (st, dt)) ∧
    (∃ (s : State) (r : Run), let d := s.dev; let a := r.par 0 8; let m := BitVec.ofNat 64 (r.par 16 8); ∃ (q : Req), d.carries q Op.csrWrite r ∧
      plainWrite a ∧ plainRead a ∧ d.mboxBarred r a = false ∧ r.isStaged = false ∧ d.writeRefusal a m = none ∧ d.inDownHalf a = false) ∧
    (∃ (s : State) (r : Run), let d := s.dev; let a := r.par 0 8; let m := BitVec.ofNat 64 (r.par 16 8); ∃ (q : Req), d.carries q Op.csrWrite r ∧
      (d.mboxBarred r a = false ∧ r.isStaged = false) ∧ ∃ (st : _) (dt : _), d.writeRefusal a m = some (st, dt)) :=
  ⟨⟨st (Cm (pk 1 [(2, 1, 0x80)])), rn (pk 1 [(2, 1, 0x80)]), 5, carries_of (by decide +kernel), by decide +kernel⟩,
   ⟨st Spn, rn (pk 1 []), pk 1 [], by decide +kernel⟩,
   ⟨st (Cm (pk 1 [])), rn (pk 1 []), .q 5, carries_of (by decide +kernel), by decide +kernel⟩,
   ⟨st (Cm (pk 2 [(16, 8, 0x500000)])), rn (pk 2 [(16, 8, 0x500000)]), .q 5, carries_of (by decide +kernel), (by unfold plainRead; decide +kernel),
     by decide +kernel⟩,
   ⟨st (Cm (pk 2 [(16, 8, 7)])), rn (pk 2 [(16, 8, 7)]), .q 5, carries_of (by decide +kernel), by decide +kernel, Sc.malformed, 4,
     by decide +kernel⟩,
   ⟨st (Cm (pk 3 [(16, 8, 0x500000), (24, 8, 0xffffff), (32, 8, 0xff)])), rn (pk 3 [(16, 8, 0x500000), (24, 8, 0xffffff), (32, 8, 0xff)]), .q 5,
     carries_of (by decide +kernel), (by unfold plainWrite; decide +kernel), (by unfold plainRead; decide +kernel), by decide +kernel⟩,
   ⟨st (Cm (pk 3 [(16, 8, 0x500000), (24, 8, 0xffffff)])), rn (pk 3 [(16, 8, 0x500000), (24, 8, 0xffffff)]), .q 5, carries_of (by decide +kernel),
     by decide +kernel, Sc.malformed, 6, by decide +kernel⟩⟩

/-- Inputs that meet the hypotheses of each clause of StagedSetCommands. -/
theorem witness_StagedSetCommands :
    (∃ (s : State) (q : Req) (r : Run), let d := s.dev; let id := r.par 0 4; let entries := mergeEntries d.staged.entries (stageEntries r);
      d.carries q Op.stage r ∧ d.committing = false ∧ 1 ≤ r.par 4 2 ∧ r.par 4 2 ≤ 64 ∧ (r.par 4 2 = 1 ∨ r.ptr ≠ 0) ∧ (d.gate r id = .empty ∨ d.gate
      r id = .own) ∧ (stageEntries r).findSome? entryRefusal = none ∧ entries.length ≤ 256) ∧
    (∃ (s : State) (q : Req) (r : Run), let d := s.dev; let id := r.par 0 4; let entries := mergeEntries d.staged.entries (stageEntries r);
      d.carries q Op.stage r ∧ d.committing = false ∧ 1 ≤ r.par 4 2 ∧ r.par 4 2 ≤ 64 ∧ (r.par 4 2 = 1 ∨ r.ptr ≠ 0) ∧ (d.gate r id = .empty ∨ d.gate
      r id = .own) ∧ (stageEntries r).findSome? entryRefusal = none ∧ entries.length ≤ 256) ∧
    (∃ (s : State) (q : Req) (r : Run), let d := s.dev; let id := r.par 0 4; d.carries q Op.check r ∧ d.committing = false ∧ d.gate r id = .own ∧
      d.setFault = none ∧ d.checksSpan r = false) ∧
    (∃ (s : State) (q : Req) (r : Run), let d := s.dev; let id := r.par 0 4; d.carries q Op.check r ∧ (d.committing = false ∧ d.gate r id = .own) ∧
      ∃ (b : _), d.setFault = some b) ∧
    (∃ (s : State) (q : Req) (r : Run), let d := s.dev; let id := r.par 0 4; d.carries q Op.commit r ∧ d.committing = false ∧ d.gate r id = .own ∧
      d.setState = setChecked ∧ d.commitWaits r = false) ∧
    (∃ (s : State) (q : Req) (r : Run), let d := s.dev; let id := r.par 0 4; d.carries q Op.commit r ∧ d.committing = false ∧ d.gate r id = .own ∧
      d.setState = setOpen) ∧
    (∃ (s : State) (q : Req) (r : Run), let d := s.dev; let id := r.par 0 4; d.carries q Op.abandon r ∧ d.committing = false ∧ d.gate r id = .own) ∧
    (∃ (s : State) (q : Req) (r : Run), let d := s.dev; let id := r.par 0 4; d.carries q Op.abandon r ∧ d.committing = false ∧ ∃ (c : _) (dt : _),
      d.gate r id = .refused c dt) :=
  ⟨⟨st (Cm (pk Op.stage [(16, 4, 7), (20, 2, 1), (32, 8, 0x500000), (40, 8, 5), (48, 8, 7)])), .q 5, rn (pk Op.stage [(16, 4, 7), (20, 2, 1), (32,
     8, 0x500000), (40, 8, 5), (48, 8, 7)]), carries_of (by decide +kernel), by decide +kernel⟩,
   ⟨st (Cr [rb Op.stage (bl 80 [(0, 4, 7), (4, 2, 2), (16, 8, 0x500000), (24, 8, 5), (32, 8, 7), (40, 8, A.GES_CFG), (48, 8, 5), (56, 8, 7)])]), .q
     5, rb Op.stage (bl 80 [(0, 4, 7), (4, 2, 2), (16, 8, 0x500000), (24, 8, 5), (32, 8, 7), (40, 8, A.GES_CFG), (48, 8, 5), (56, 8, 7)]),
     carries_of (by decide +kernel), by decide +kernel⟩,
   ⟨st (sf [(A.CMD_STAGE_STATUS, F.CMD_STAGE_STATUS_STATE, 1), (A.CMD_STAGE_STATUS, F.CMD_STAGE_STATUS_OWNER, 5), (A.CMD_STAGE_STATUS,
     F.CMD_STAGE_STATUS_SET_ID, 7)] { Cm (pk Op.check [(16, 4, 7)]) with staged := { entries := [(0x500000, 5, 7)] } }), .q 5, rn (pk Op.check
     [(16, 4, 7)]), carries_of (by decide +kernel), by decide +kernel⟩,
   ⟨st (sf [(A.CMD_STAGE_STATUS, F.CMD_STAGE_STATUS_STATE, 1), (A.CMD_STAGE_STATUS, F.CMD_STAGE_STATUS_OWNER, 5), (A.CMD_STAGE_STATUS,
     F.CMD_STAGE_STATUS_SET_ID, 7)] { Cm (pk Op.check [(16, 4, 7)]) with staged := { entries := [(A.TLK_LIMIT 0, 0xffff, 0xffff)] } }), .q 5, rn
     (pk Op.check [(16, 4, 7)]), carries_of (by decide +kernel), by decide +kernel, (0x17, A.TLK_LIMIT 0), by decide +kernel⟩,
   ⟨st (sf [(A.CMD_STAGE_STATUS, F.CMD_STAGE_STATUS_STATE, 2), (A.CMD_STAGE_STATUS, F.CMD_STAGE_STATUS_OWNER, 5), (A.CMD_STAGE_STATUS,
     F.CMD_STAGE_STATUS_SET_ID, 7)] { Cm (pk Op.commit [(16, 4, 7)]) with staged := { entries := [(0x500000, 5, 7)] } }), .q 5, rn (pk Op.commit
     [(16, 4, 7)]), carries_of (by decide +kernel), by decide +kernel⟩,
   ⟨st (sf [(A.CMD_STAGE_STATUS, F.CMD_STAGE_STATUS_STATE, 1), (A.CMD_STAGE_STATUS, F.CMD_STAGE_STATUS_OWNER, 5), (A.CMD_STAGE_STATUS,
     F.CMD_STAGE_STATUS_SET_ID, 7)] { Cm (pk Op.commit [(16, 4, 7)]) with staged := { entries := [(0x500000, 5, 7)] } }), .q 5, rn (pk Op.commit
     [(16, 4, 7)]), carries_of (by decide +kernel), by decide +kernel⟩,
   ⟨st (sf [(A.CMD_STAGE_STATUS, F.CMD_STAGE_STATUS_STATE, 1), (A.CMD_STAGE_STATUS, F.CMD_STAGE_STATUS_OWNER, 5), (A.CMD_STAGE_STATUS,
     F.CMD_STAGE_STATUS_SET_ID, 7)] { Cm (pk Op.abandon [(16, 4, 7)]) with staged := { entries := [(0x500000, 5, 7)] } }), .q 5, rn (pk Op.abandon
     [(16, 4, 7)]), carries_of (by decide +kernel), by decide +kernel⟩,
   ⟨st (sf [(A.CMD_STAGE_STATUS, F.CMD_STAGE_STATUS_STATE, 1), (A.CMD_STAGE_STATUS, F.CMD_STAGE_STATUS_OWNER, 5), (A.CMD_STAGE_STATUS,
     F.CMD_STAGE_STATUS_SET_ID, 7)] { Cm (pk Op.abandon [(16, 4, 8)]) with staged := { entries := [(0x500000, 5, 7)] } }), .q 5, rn (pk Op.abandon
     [(16, 4, 8)]), carries_of (by decide +kernel), by decide +kernel, Sc.checkFailed, 0x16, by decide +kernel⟩⟩

/-- Inputs that meet the hypotheses of each clause of StagedSetTimes. -/
theorem witness_StagedSetTimes :
    (∃ (s : State), let d := s.dev; ∃ (tick : Nat) (a : Nat) (v : Word) (m : Word), plainWrite a ∧ d.staged.edge = some tick ∧ d.staged.edgeDone =
      false ∧ d.staged.entries = [(a, v, m)] ∧ assigned a = true ∧ regBase a ∉ [A.DOM_CFG 0, A.DOM_IDENT 0 0, A.STN_WIN 0, A.HOM_PUB_CFG 0,
      A.GWY_CFG] ∧ d.inDownHalf a = false) ∧
    (∃ (s : State), let d := s.dev; ∃ (tick : Nat) (r : Run), d.only r ∧ d.staged.edge = some tick ∧ d.staged.edgeDone = true ∧ tick < 2 ^ 64 ∧
      r.seq = d.staged.edgeSeq ∧ r.cpl = none ∧ d.runOf .fw = none) ∧
    (∃ (s : State), let d := s.dev; (d.setState = setOpen ∨ d.setState = setChecked) ∧ d.committing = false) ∧
    (∃ (s : State), let d := s.dev; d.setState = setLocked) :=
  ⟨⟨st (sf [(A.CMD_STAGE_STATUS, F.CMD_STAGE_STATUS_STATE, 2)]
     { Cm (pk Op.commit [(16, 4, 7)]) with staged := { entries := [(A.CRD_CFG, 5, 7)], edge := some 500, edgeSeq := 3 } }), 500, A.CRD_CFG, 5, 7,
     (by unfold plainWrite; decide +kernel), by decide +kernel⟩,
   ⟨st (sf [(A.CMD_STAGE_STATUS, F.CMD_STAGE_STATUS_STATE, 2)]
     { Cm (pk Op.commit [(16, 4, 7)]) with staged := { entries := [(A.CRD_CFG, 5, 7)], edge := some 500, edgeSeq := 3, edgeDone := true } }), 500,
     rn (pk Op.commit [(16, 4, 7)]), (by unfold Dev.only; decide +kernel), by decide +kernel⟩,
   ⟨st (sf [(A.CMD_STAGE_STATUS, F.CMD_STAGE_STATUS_STATE, 2)] { Spn with staged := { entries := [(A.CRD_CFG, 5, 7)] } }), by decide +kernel⟩,
   ⟨st (sf [(A.CMD_STAGE_STATUS, F.CMD_STAGE_STATUS_STATE, 3)] { Spn with staged := { entries := [(A.CRD_CFG, 5, 7)] } }), by decide +kernel⟩⟩

/-- Inputs that meet the hypotheses of each clause of DomainCommands. -/
theorem witness_DomainCommands :
    (∃ (s : State) (q : Req) (r : Run), let d := s.dev; let n := r.dom; d.carries q Op.domainCreate r ∧ r.isStaged = false ∧ d.createRefusal n
      (r.par 32 2) (r.par 34 1) false = none) ∧
    (∃ (s : State) (q : Req) (r : Run), let d := s.dev; let n := r.dom; d.carries q Op.domainCreate r ∧ ∃ (st : _) (dt : _), d.createRefusal n
      (r.par 32 2) (r.par 34 1) r.isStaged = some (st, dt)) ∧
    (∃ (s : State) (q : Req) (r : Run), let d := s.dev; let n := r.dom; d.carries q Op.domainDestroy r ∧ (∀ x ∈ d.dom.teardowns, x.dom ≠ n ∧ x.seq
      ≠ some r.seq) ∧ r.isStaged = false ∧ d.destroyRefusal n false = none ∧ d.domStalled n = false ∧ (∀ j ∈ d.dom.jobs, j.dom ≠ n ∨ j.taken = true
      ∨ j.teardown.isSome = true)) ∧
    (∃ (s : State) (q : Req) (r : Run), let d := s.dev; let n := r.dom; d.carries q Op.domainDestroy r ∧ (∀ x ∈ d.dom.teardowns, x.dom ≠ n ∧ x.seq
      ≠ some r.seq) ∧ ∃ (st : _) (dt : _), d.destroyRefusal n r.isStaged = some (st, dt)) ∧
    (∃ (s : State) (q : Req) (r : Run), let d := s.dev; d.carries q Op.keyLoad r) ∧
    (∃ (s : State) (q : Req) (r : Run), let d := s.dev; let n := r.dom; let all := d.allDomains r.iss; let first := r.par 0 2;
      let count := r.par 2 2; let dom := r.par 4 1 % 32; let cls := r.par 5 1; d.carries q Op.sanitise r ∧ (∀ j ∈ d.dom.jobs, j.seq ≠ r.seq) ∧
      d.sanitiseRefusal all n first count dom cls = none) ∧
    (∃ (s : State) (q : Req) (r : Run), let d := s.dev; let n := r.dom; let all := d.allDomains r.iss; let first := r.par 0 2;
      let count := r.par 2 2; let dom := r.par 4 1 % 32; let cls := r.par 5 1; d.carries q Op.sanitise r ∧ (∀ j ∈ d.dom.jobs, j.seq ≠ r.seq) ∧ ∃
      (st : _) (dt : _), d.sanitiseRefusal all n first count dom cls = some (st, dt)) :=
  ⟨⟨st (Cm (pk Op.domainCreate [(3, 1, 4), (16, 8, 77), (48, 2, 16), (50, 1, 64)])), .q 5, rn (pk Op.domainCreate [(3, 1, 4), (16, 8, 77), (48, 2,
     16), (50, 1, 64)]), carries_of (by decide +kernel), by decide +kernel⟩,
   ⟨st (Cm (pk Op.domainCreate [(48, 2, 16)])), .q 5, rn (pk Op.domainCreate [(48, 2, 16)]), carries_of (by decide +kernel), Sc.rights, 0x31,
     by decide +kernel⟩,
   ⟨st (put [(A.DOM_CFG 4, 1)] (Cm (pk Op.domainDestroy [(3, 1, 4)]))), .q 5, rn (pk Op.domainDestroy [(3, 1, 4)]), carries_of (by decide +kernel),
     by decide +kernel⟩,
   ⟨st (Cm (pk Op.domainDestroy [(3, 1, 4)])), .q 5, rn (pk Op.domainDestroy [(3, 1, 4)]), carries_of (by decide +kernel), by decide +kernel,
     Sc.rights, 0x33, by decide +kernel⟩,
   ⟨st (put [(A.DOM_CFG 0, 1), (A.DOM_CFG 4, 1)] (Cr [{ rn (pk Op.keyLoad [(3, 1, 4), (8, 8, 4096)]) with blk := bl 192 [(0, 4, 7)] }])), .q 5,
     ({ rn (pk Op.keyLoad [(3, 1, 4), (8, 8, 4096)]) with blk := bl 192 [(0, 4, 7)] }), carries_of (by decide +kernel)⟩,
   ⟨st (put [(A.DOM_CFG 4, 1)] (sf [(A.CMD_Q_CFG 5, F.CMD_Q_CFG_ALL_DOMAINS, 1)] (Cm (pk Op.sanitise [(16, 2, 2), (18, 2, 2), (20, 1, 4)])))), .q
     5, rn (pk Op.sanitise [(16, 2, 2), (18, 2, 2), (20, 1, 4)]), carries_of (by decide +kernel), by decide +kernel⟩,
   ⟨st (put [(A.DOM_CFG 4, 1)] (Cm (pk Op.sanitise [(16, 2, 2), (18, 2, 2), (20, 1, 4)]))), .q 5, rn (pk Op.sanitise [(16, 2, 2), (18, 2, 2), (20,
     1, 4)]), carries_of (by decide +kernel), by decide +kernel, Sc.rights, 0x12, by decide +kernel⟩⟩

/-- Inputs that meet the hypotheses of each clause of TeardownSteps. -/
theorem witness_TeardownSteps :
    (∃ (s : State) (n : Fin 32) (x : Teardown), let d := s.dev; d.dom.teardowns.find? (fun y => y.dom == n.val) = some x ∧ d.domStep n = 2 ∧ (∀ i <
      512, d.qcfg i F.CMD_Q_CFG_DOMAIN ≠ n) ∧ d.engineRuns n = [] ∧ d.engineWaits n = []) ∧
    (∃ (s : State) (n : Fin 32) (x : Teardown), let d := s.dev; d.dom.teardowns.find? (fun y => y.dom == n.val) = some x ∧ d.domStep n = 3 ∧ (∀ c <
      256, d.ctxBound c = false) ∧ (∀ c < 256, d.fld (A.RTE_SLOT_CFG c) F.RTE_SLOT_CFG_STATE ≠ 1)) ∧
    (∃ (s : State) (n : Fin 32) (x : Teardown), let d := s.dev; d.dom.teardowns.find? (fun y => y.dom == n.val) = some x ∧ d.domStep n = 4 ∧
      d.quiet ∧ d.home.groups = []) ∧
    (∃ (s : State) (n : Fin 32) (x : Teardown), let d := s.dev; d.dom.teardowns.find? (fun y => y.dom == n.val) = some x ∧ d.domStep n = 5 ∧
      x.queued = false ∧ (∃ e < 384, d.extDom e = n)) ∧
    (∃ (s : State) (n : Fin 32) (x : Teardown), let d := s.dev; d.dom.teardowns.find? (fun y => y.dom == n.val) = some x ∧ d.domStep n = 6) ∧
    (∃ (s : State) (n : Fin 32) (x : Teardown), let d := s.dev; d.dom.teardowns.find? (fun y => y.dom == n.val) = some x ∧ ∃ (r : _), d.only r ∧
      d.domStep n = 7 ∧ x.dom = n ∧ x.seq = some r.seq ∧ r.cpl = none) :=
  ⟨⟨st (put [(A.DOM_CFG 4, 0x22)] { Cm (pk Op.domainDestroy [(3, 1, 4)]) with dom := { teardowns := [⟨4, some 3, 0, 0, false⟩] } }), 4, ⟨4, some 3,
     0, 0, false⟩, by decide +kernel⟩,
   ⟨st (put [(A.DOM_CFG 4, 0x32), (A.STN_WIN 263, 1)]
     { Cm (pk Op.domainDestroy [(3, 1, 4)]) with dom := { teardowns := [⟨4, some 3, 0, 0, false⟩] } }), 4, ⟨4, some 3, 0, 0, false⟩,
     by decide +kernel⟩,
   ⟨st (put [(A.DOM_CFG 4, 0x42)] (lent 2 4 1 { Cm (pk Op.domainDestroy [(3, 1, 4)]) with dom := { teardowns := [⟨4, some 3, 0, 0, false⟩] } })),
     4, ⟨4, some 3, 0, 0, false⟩, by decide +kernel⟩,
   ⟨st (put [(A.DOM_CFG 4, 0x52)] (sf [(A.DOM_EXT_TAG 2, F.DOM_EXT_TAG_STATE, 2)] (lent 2 4 1
     { Cm (pk Op.domainDestroy [(3, 1, 4)]) with dom := { teardowns := [⟨4, some 3, 0, 0, false⟩] } }))), 4, ⟨4, some 3, 0, 0, false⟩,
     by decide +kernel⟩,
   ⟨st (put [(A.DOM_CFG 4, 0x62), (A.DOM_IDENT 4 0, 5)]
     { Cm (pk Op.domainDestroy [(3, 1, 4)]) with dom := { teardowns := [⟨4, some 3, 0, 0, false⟩] } }), 4, ⟨4, some 3, 0, 0, false⟩,
     by decide +kernel⟩,
   ⟨st (put [(A.DOM_CFG 4, 0x72)] { Cm (pk Op.domainDestroy [(3, 1, 4)]) with dom := { teardowns := [⟨4, some 3, 0, 0, false⟩] } }), 4, ⟨4, some 3,
     0, 0, false⟩, by decide +kernel, rn (pk Op.domainDestroy [(3, 1, 4)]), (by unfold Dev.only; decide +kernel), by decide +kernel⟩⟩

/-- Inputs that meet the hypotheses of each clause of Sanitisation. -/
theorem witness_Sanitisation :
    (∃ (s : State) (j : GJob), let d := s.dev; ∃ (rest : _), d.dom.jobs = j :: rest ∧ d.gessoBusy = false ∧ j.teardown = none ∧ j.exts = [j.first]
      ∧ j.first < 384 ∧ d.sanitiseRefusal j.allDom j.issDom j.first j.count j.dom j.cls = none ∧ d.anyStackFailed = false ∧ d.heldOfExtent j.first
      = [] ∧ d.quiet ∧ d.home.groups = []) ∧
    (∃ (s : State) (j : GJob), let d := s.dev; ∃ (e : Nat) (r : Run), d.only r ∧ d.dom.jobs = [j] ∧ j.taken = true ∧ j.teardown = none ∧ j.exts =
      [e] ∧ e < 384 ∧ j.dom < 32 ∧ j.cls < 2 ∧ r.seq = j.seq ∧ r.cpl = none ∧ d.anyStackFailed = false ∧ d.heldOfExtent e = [] ∧ d.quiet ∧
      d.home.groups = []) :=
  ⟨⟨st (put [(A.DOM_CFG 4, 1)] (mem 0x80000000 [3]
     { Cm (pk Op.sanitise [(16, 2, 2), (18, 2, 1), (20, 1, 4)]) with dom := { jobs := [⟨3, [2], 4, 0, 0, none, false, true, 0, 2, 1, 0⟩] } })), ⟨3,
     [2], 4, 0, 0, none, false, true, 0, 2, 1, 0⟩, [], by decide +kernel⟩,
   ⟨st (put [(A.DOM_CFG 4, 1), (A.DOM_EXT_TAG 2, 0x3000)] (mem 0x80000000 [3]
     { Cm (pk Op.sanitise [(16, 2, 2), (18, 2, 1), (20, 1, 4)]) with dom := { jobs := [⟨3, [2], 4, 0, 0, none, true, true, 0, 2, 1, 0⟩] } })), ⟨3,
     [2], 4, 0, 0, none, true, true, 0, 2, 1, 0⟩, 2, rn (pk Op.sanitise [(16, 2, 2), (18, 2, 1), (20, 1, 4)]),
     (by unfold Dev.only; decide +kernel), by decide +kernel⟩⟩

/-- Inputs that meet the hypotheses of each clause of ContextCommands. -/
theorem witness_ContextCommands :
    (∃ (s : State) (q : Req) (r : Run), let d := s.dev; let c := r.ctx; d.carries q Op.segLoad r ∧ d.invalOf r.seq = false ∧ d.segLoadRefusal r =
      none ∧ r.par 0 1 = 0 ∧ d.segLoadCheck c (segWrites r) = none) ∧
    (∃ (s : State) (q : Req) (r : Run), let d := s.dev; d.carries q Op.segLoad r ∧ d.invalOf r.seq = false ∧ d.segLoadRefusal r = none ∧ r.par 0 1
      = 1 ∧ d.stn.invals = []) ∧
    (∃ (s : State) (q : Req) (r : Run), let d := s.dev; d.carries q Op.segLoad r ∧ d.invalOf r.seq = false ∧ d.segLoadRefusal r = none ∧ r.par 0 1
      = 1 ∧ d.stn.invals ≠ []) ∧
    (∃ (s : State) (q : Req) (r : Run), let d := s.dev; d.carries q Op.segLoad r ∧ d.invalOf r.seq = false ∧ ∃ (st : _) (dt : _), d.segLoadRefusal
      r = some (st, dt)) ∧
    (∃ (s : State) (q : Req) (r : Run), let d := s.dev; let c := r.ctx; let lo := r.par 0 8; let len := r.par 8 8; d.carries q Op.rangeInvalidate r
      ∧ d.invalOf r.seq = false ∧ lo % 2 ^ 21 = 0 ∧ 0 < len ∧ len % 2 ^ 21 = 0 ∧ lo + len ≤ 2 ^ 48 ∧ d.ctxBound c = true ∧ d.ctxDom c = r.dom ∧
      d.stn.invals = []) ∧
    (∃ (s : State) (q : Req) (r : Run), let d := s.dev; let c := r.ctx; let lo := r.par 0 8; let len := r.par 8 8; d.carries q Op.rangeInvalidate r
      ∧ d.invalOf r.seq = false ∧ lo % 2 ^ 21 = 0 ∧ 0 < len ∧ len % 2 ^ 21 = 0 ∧ lo + len ≤ 2 ^ 48 ∧ d.ctxBound c = true ∧ d.ctxDom c = r.dom ∧
      d.stn.invals ≠ []) ∧
    (∃ (s : State) (q : Req) (r : Run), let d := s.dev; let c := r.ctx; let lo := r.par 0 8; let len := r.par 8 8; d.carries q Op.rangeInvalidate r
      ∧ d.invalOf r.seq = false ∧ lo % 2 ^ 21 = 0 ∧ 0 < len ∧ len % 2 ^ 21 = 0 ∧ lo + len ≤ 2 ^ 48 ∧ (d.ctxBound c = false ∨ d.ctxDom c ≠ r.dom)) :=
  ⟨⟨st (Cm (pk Op.segLoad [(4, 1, 9), (17, 1, 7), (18, 1, 1), (32, 8, 0xf), (40, 8, 0x40000000)])), .q 5, rn (pk Op.segLoad [(4, 1, 9), (17, 1, 7),
     (18, 1, 1), (32, 8, 0xf), (40, 8, 0x40000000)]), carries_of (by decide +kernel), by decide +kernel⟩,
   ⟨st (put [(A.STN_CTX_CFG 9, 0x10001), (A.STN_SEG0 9 0, 0xf), (A.STN_SEG1 9 0, 0x40000000)] (Cm (pk Op.segLoad [(4, 1, 9), (16, 1, 1)]))), .q 5,
     rn (pk Op.segLoad [(4, 1, 9), (16, 1, 1)]), carries_of (by decide +kernel), by decide +kernel⟩,
   ⟨st (put [(A.STN_CTX_CFG 9, 0x10001), (A.STN_SEG0 9 0, 0xf), (A.STN_SEG1 9 0, 0x40000000)]
     { Cm (pk Op.segLoad [(4, 1, 9), (16, 1, 1)]) with stn := { invals := [⟨2, 8, 0, 100, 0, false, [], 0, none⟩] } }), .q 5, rn (pk Op.segLoad
     [(4, 1, 9), (16, 1, 1)]), carries_of (by decide +kernel), by decide +kernel⟩,
   ⟨st (Cm (pk Op.segLoad [(4, 1, 9), (16, 1, 1)])), .q 5, rn (pk Op.segLoad [(4, 1, 9), (16, 1, 1)]), carries_of (by decide +kernel),
     by decide +kernel, Sc.rights, 0x42, by decide +kernel⟩,
   ⟨st (put [(A.STN_CTX_CFG 9, 0x10001), (A.STN_SEG0 9 0, 0xf), (A.STN_SEG1 9 0, 0x40000000)] (Cm (pk Op.rangeInvalidate [(4, 1, 9), (16, 8, 0),
     (24, 8, 0x200000)]))), .q 5, rn (pk Op.rangeInvalidate [(4, 1, 9), (16, 8, 0), (24, 8, 0x200000)]), carries_of (by decide +kernel),
     by decide +kernel⟩,
   ⟨st (put [(A.STN_CTX_CFG 9, 0x10001), (A.STN_SEG0 9 0, 0xf), (A.STN_SEG1 9 0, 0x40000000)]
     { Cm (pk Op.rangeInvalidate [(4, 1, 9), (16, 8, 0), (24, 8, 0x200000)]) with stn := { invals := [⟨2, 8, 0, 100, 0, false, [], 0, none⟩] } }),
     .q 5, rn (pk Op.rangeInvalidate [(4, 1, 9), (16, 8, 0), (24, 8, 0x200000)]), carries_of (by decide +kernel), by decide +kernel⟩,
   ⟨st (Cm (pk Op.rangeInvalidate [(4, 1, 9), (16, 8, 0), (24, 8, 0x200000)])), .q 5, rn (pk Op.rangeInvalidate [(4, 1, 9), (16, 8, 0), (24, 8,
     0x200000)]), carries_of (by decide +kernel), by decide +kernel⟩⟩

/-- Inputs that meet the hypotheses of each clause of WindowCommands. -/
theorem witness_WindowCommands :
    (∃ (s : State) (q : Req) (r : Run), let d := s.dev; d.carries q Op.windowOpen r ∧ winParams r = false) ∧
    (∃ (s : State) (q : Req) (r : Run), let d := s.dev; let n := 64 * r.dom + r.par 0 1 % 64;
      let refused := d.winRefusal r.dom (winEntry r) (bit (d.win n) 0) (d.openWins r.dom) (d.fld (A.DOM_CFG r.dom) F.DOM_CFG_WIN_QUOTA); d.carries
      q Op.windowOpen r ∧ winParams r = true ∧ r.isStaged = false ∧ refused = none) ∧
    (∃ (s : State) (q : Req) (r : Run), let d := s.dev; let n := 64 * r.dom + r.par 0 1 % 64;
      let refused := d.winRefusal r.dom (winEntry r) (bit (d.win n) 0) (d.openWins r.dom) (d.fld (A.DOM_CFG r.dom) F.DOM_CFG_WIN_QUOTA); d.carries
      q Op.windowOpen r ∧ ∃ (st : _) (dt : _), winParams r = true ∧ r.isStaged = false ∧ refused = some (st, dt)) ∧
    (∃ (s : State) (q : Req) (r : Run), let d := s.dev; let n := 64 * r.dom + r.par 0 1 % 64;
      let entries := mergeEntries d.staged.entries [(A.STN_WIN n, winEntry r, BitVec.allOnes 64)]; d.carries q Op.windowOpen r ∧ winParams r = true
      ∧ r.isStaged = true ∧ d.committing = false ∧ d.setState = setOpen ∧ d.setOwner = r.owner ∧ entries.length ≤ 256) ∧
    (∃ (s : State) (q : Req) (r : Run), let d := s.dev; let n := 64 * r.dom + r.par 0 1 % 64; d.carries q Op.windowClose r ∧ r.phase = 0 ∧
      r.isStaged = false ∧ bit (d.win n) 0 = false) ∧
    (∃ (s : State) (q : Req) (r : Run), let d := s.dev; let n := 64 * r.dom + r.par 0 1 % 64; d.carries q Op.windowClose r ∧ r.phase = 0 ∧
      r.isStaged = false ∧ bit (d.win n) 0 = true ∧ d.winPassed n = false) ∧
    (∃ (s : State) (q : Req) (r : Run), let d := s.dev; let n := 64 * r.dom + r.par 0 1 % 64; d.carries q Op.windowClose r ∧ r.phase = 0 ∧
      r.isStaged = false ∧ bit (d.win n) 0 = true ∧ d.winPassed n = true) :=
  ⟨⟨st (Cm (pk Op.windowOpen [(3, 1, 4), (16, 1, 7), (17, 1, 0), (24, 8, 0x40000000)])), .q 5, rn (pk Op.windowOpen [(3, 1, 4), (16, 1, 7), (17, 1,
     0), (24, 8, 0x40000000)]), carries_of (by decide +kernel), by decide +kernel⟩,
   ⟨st (put [(A.DOM_CFG 4, 0x40001)] (lent 2 4 1 (Cm (pk Op.windowOpen [(3, 1, 4), (16, 1, 7), (17, 1, 7), (24, 8, 0x80000000)])))), .q 5, rn (pk
     Op.windowOpen [(3, 1, 4), (16, 1, 7), (17, 1, 7), (24, 8, 0x80000000)]), carries_of (by decide +kernel), by decide +kernel⟩,
   ⟨st (put [(A.STN_WIN 263, 1)] (put [(A.DOM_CFG 4, 0x40001)] (lent 2 4 1 (Cm (pk Op.windowOpen [(3, 1, 4), (16, 1, 7), (17, 1, 7), (24, 8,
     0x80000000)]))))), .q 5, rn (pk Op.windowOpen [(3, 1, 4), (16, 1, 7), (17, 1, 7), (24, 8, 0x80000000)]), carries_of (by decide +kernel),
     Sc.rights, 0x4A, by decide +kernel⟩,
   ⟨st (sf [(A.CMD_STAGE_STATUS, F.CMD_STAGE_STATUS_STATE, 1), (A.CMD_STAGE_STATUS, F.CMD_STAGE_STATUS_OWNER, 5), (A.CMD_STAGE_STATUS,
     F.CMD_STAGE_STATUS_SET_ID, 7)] (put [(A.DOM_CFG 4, 0x40001)] (lent 2 4 1 (Cm (pk Op.windowOpen [(2, 1, 4), (3, 1, 4), (16, 1, 7), (17, 1, 7),
     (24, 8, 0x80000000)]))))), .q 5, rn (pk Op.windowOpen [(2, 1, 4), (3, 1, 4), (16, 1, 7), (17, 1, 7), (24, 8, 0x80000000)]), carries_of
     (by decide +kernel), by decide +kernel⟩,
   ⟨st (Cm (pk Op.windowClose [(3, 1, 4), (16, 1, 7)])), .q 5, rn (pk Op.windowClose [(3, 1, 4), (16, 1, 7)]), carries_of (by decide +kernel),
     by decide +kernel⟩,
   ⟨st (put [(A.STN_WIN 263, 1)] (Cm (pk Op.windowClose [(3, 1, 4), (16, 1, 7)]))), .q 5, rn (pk Op.windowClose [(3, 1, 4), (16, 1, 7)]),
     carries_of (by decide +kernel), by decide +kernel⟩,
   ⟨st (put [(A.STN_WIN 263, 1)]
     { Cm (pk Op.windowClose [(3, 1, 4), (16, 1, 7)]) with home := { waiting := [⟨0, 0, .drs { type := 1, win := 263 }, .rdE, 5, none, none⟩] } }),
     .q 5, rn (pk Op.windowClose [(3, 1, 4), (16, 1, 7)]), carries_of (by decide +kernel), by decide +kernel⟩⟩

/-- Inputs that meet the hypotheses of each clause of LeaseCommands. -/
theorem witness_LeaseCommands :
    (∃ (s : State) (q : Req) (r : Run), let d := s.dev; let first := r.par 0 2; let count := r.par 2 2; let ports := r.par 4 1; d.carries q
      Op.leaseGrant r ∧ d.grantRefusal r.dom first count ports (r.par 6 2) = none) ∧
    (∃ (s : State) (q : Req) (r : Run), let d := s.dev; let first := r.par 0 2; let count := r.par 2 2; let ports := r.par 4 1; d.carries q
      Op.leaseGrant r ∧ ∃ (st : _) (dt : _), d.grantRefusal r.dom first count ports (r.par 6 2) = some (st, dt)) ∧
    (∃ (s : State) (q : Req) (r : Run), let d := s.dev; let first := r.par 0 2; let count := r.par 2 2; d.carries q Op.leaseRenew r ∧
      d.renewRefusal r.iss first count (r.par 4 2) = none) ∧
    (∃ (s : State) (q : Req) (r : Run), let d := s.dev; let first := r.par 0 2; let count := r.par 2 2; d.carries q Op.leaseRenew r ∧ ∃ (st : _)
      (dt : _), d.renewRefusal r.iss first count (r.par 4 2) = some (st, dt)) ∧
    (∃ (s : State) (q : Req) (r : Run), let d := s.dev; let first := r.par 0 2; let count := r.par 2 2; d.carries q Op.leaseRevoke r ∧
      d.revokeRefusal first count = none ∧ d.quiet ∧ d.home.groups = []) ∧
    (∃ (s : State) (q : Req) (r : Run), let d := s.dev; let first := r.par 0 2; let count := r.par 2 2; d.carries q Op.leaseRevoke r ∧ ∃ (st : _)
      (dt : _), d.revokeRefusal first count = some (st, dt)) :=
  ⟨⟨st (put [(A.DOM_CFG 4, 1), (A.DOM_EXT_TAG 2, 4), (A.DOM_EXT_TAG 3, 4)] (Cm (pk Op.leaseGrant [(3, 1, 4), (16, 2, 2), (18, 2, 2), (20, 1, 8),
     (22, 2, 60000)]))), .q 5, rn (pk Op.leaseGrant [(3, 1, 4), (16, 2, 2), (18, 2, 2), (20, 1, 8), (22, 2, 60000)]), carries_of
     (by decide +kernel), by decide +kernel⟩,
   ⟨st (Cm (pk Op.leaseGrant [(3, 1, 4), (16, 2, 2), (18, 2, 2), (20, 1, 8), (22, 2, 60000)])), .q 5, rn (pk Op.leaseGrant [(3, 1, 4), (16, 2, 2),
     (18, 2, 2), (20, 1, 8), (22, 2, 60000)]), carries_of (by decide +kernel), Sc.rights, 0x35, by decide +kernel⟩,
   ⟨st (Cm (pk Op.leaseRenew [(16, 2, 1), (18, 2, 1), (20, 2, 7)])), .q 5, rn (pk Op.leaseRenew [(16, 2, 1), (18, 2, 1), (20, 2, 7)]), carries_of
     (by decide +kernel), by decide +kernel⟩,
   ⟨st (put [(A.DOM_EXT_TAG 1, 0x2000)] (Cm (pk Op.leaseRenew [(16, 2, 1), (18, 2, 1), (20, 2, 7)]))), .q 5, rn (pk Op.leaseRenew [(16, 2, 1), (18,
     2, 1), (20, 2, 7)]), carries_of (by decide +kernel), Sc.revoked, 0x30, by decide +kernel⟩,
   ⟨st (Cm (pk Op.leaseRevoke [(16, 2, 1), (18, 2, 1)])), .q 5, rn (pk Op.leaseRevoke [(16, 2, 1), (18, 2, 1)]), carries_of (by decide +kernel),
     by decide +kernel⟩,
   ⟨st (put [(A.DOM_EXT_TAG 1, 0)] (Cm (pk Op.leaseRevoke [(16, 2, 1), (18, 2, 1)]))), .q 5, rn (pk Op.leaseRevoke [(16, 2, 1), (18, 2, 1)]),
     carries_of (by decide +kernel), Sc.rights, 0x73, by decide +kernel⟩⟩

/-- Inputs that meet the hypotheses of each clause of OwnershipCommands. -/
theorem witness_OwnershipCommands :
    (∃ (s : State) (q : Req) (r : Run), let d := s.dev;
      let own (kind dst off e : Nat) : DMsg := { type := 0x62, len := 1, dst := dst, src := d.node, units := [ownUnit kind off e 0] };
      let region := r.par 0 8 >>> 21; let new := r.par 8 2; let o := d.ownRec region; d.carries q Op.ownTransfer r ∧ (∀ x ∈ d.own.xfers, x.seq ≠
      r.seq) ∧ (∀ x ∈ d.own.xfers, x.region = region → x.releaseDue = none) ∧ d.transferRefusal r = none ∧ o.st = 0 ∧ new ≠ d.node ∧ (d.drsEgr (own
      1 new (region <<< 21) (epochNext o.epoch))).isSome = true) ∧
    (∃ (s : State) (q : Req) (r : Run), let d := s.dev;
      let own (kind dst off e : Nat) : DMsg := { type := 0x62, len := 1, dst := dst, src := d.node, units := [ownUnit kind off e 0] };
      let region := r.par 0 8 >>> 21; let new := r.par 8 2; let o := d.ownRec region; d.carries q Op.ownTransfer r ∧ (∀ x ∈ d.own.xfers, x.seq ≠
      r.seq) ∧ (∀ x ∈ d.own.xfers, x.region = region → x.releaseDue = none) ∧ d.transferRefusal r = none ∧ o.st = 2 ∧ o.owner ≠ new ∧ (d.drsEgr
      (own 3 o.owner (region <<< 21) o.epoch)).isSome = true) ∧
    (∃ (s : State) (q : Req) (r : Run), let d := s.dev;
      let own (kind dst off e : Nat) : DMsg := { type := 0x62, len := 1, dst := dst, src := d.node, units := [ownUnit kind off e 0] };
      let region := r.par 0 8 >>> 21; let new := r.par 8 2; let o := d.ownRec region; d.carries q Op.ownTransfer r ∧ (∀ x ∈ d.own.xfers, x.seq ≠
      r.seq) ∧ (∀ x ∈ d.own.xfers, x.region = region → x.releaseDue = none) ∧ d.transferRefusal r = none ∧ o.st = 0 ∧ new = d.node) ∧
    (∃ (s : State) (q : Req) (r : Run), let d := s.dev;
      let own (kind dst off e : Nat) : DMsg := { type := 0x62, len := 1, dst := dst, src := d.node, units := [ownUnit kind off e 0] };
      let region := r.par 0 8 >>> 21; d.carries q Op.ownTransfer r ∧ ((∀ x ∈ d.own.xfers, x.seq ≠ r.seq) ∧ (∀ x ∈ d.own.xfers, x.region = region →
      x.releaseDue = none)) ∧ ∃ (st : _) (dt : _), d.transferRefusal r = some (st, dt)) ∧
    (∃ (s : State) (q : Req) (r : Run), let d := s.dev;
      let own (kind dst off e : Nat) : DMsg := { type := 0x62, len := 1, dst := dst, src := d.node, units := [ownUnit kind off e 0] }; d.carries q
      Op.ownAccept r ∧ (∀ x ∈ d.own.accepting, x.seq ≠ r.seq) ∧ 4096 ≤ d.own.ownedHere.length) ∧
    (∃ (s : State) (q : Req) (r : Run), let d := s.dev;
      let own (kind dst off e : Nat) : DMsg := { type := 0x62, len := 1, dst := dst, src := d.node, units := [ownUnit kind off e 0] };
      let home := r.par 0 2; let off := r.par 8 8; let epoch := r.par 16 2; d.carries q Op.ownAccept r ∧ (∀ x ∈ d.own.accepting, x.seq ≠ r.seq) ∧
      d.own.ownedHere.length < 4096 ∧ home ≠ d.node ∧ (d.drsEgr (own 2 home off epoch)).isSome = true) ∧
    (∃ (s : State) (q : Req) (r : Run), let d := s.dev;
      let own (kind dst off e : Nat) : DMsg := { type := 0x62, len := 1, dst := dst, src := d.node, units := [ownUnit kind off e 0] };
      let home := r.par 0 2; let off := r.par 8 8; d.carries q Op.ownAccept r ∧ (∀ x ∈ d.own.accepting, x.seq ≠ r.seq) ∧ d.own.ownedHere.length <
      4096 ∧ home = d.node ∧ (d.ownRec (off >>> 21)).st ≠ 1 ∧ (d.ownRec (off >>> 21)).reclaimed = false) :=
  ⟨⟨st (Cm (pk Op.ownTransfer [(16, 8, 0x40000000), (24, 2, 2081), (26, 2, 0), (28, 1, 1)])), .q 5, rn (pk Op.ownTransfer [(16, 8, 0x40000000),
     (24, 2, 2081), (26, 2, 0), (28, 1, 1)]), carries_of (by decide +kernel), by decide +kernel⟩,
   ⟨st
     { Cm (pk Op.ownTransfer [(16, 8, 0x40000000), (24, 2, 2080), (26, 2, 6)]) with own := { recs := [(512, { st := 2, owner := 2081, epoch := 6 })] } },
     .q 5, rn (pk Op.ownTransfer [(16, 8, 0x40000000), (24, 2, 2080), (26, 2, 6)]), carries_of (by decide +kernel), by decide +kernel⟩,
   ⟨st (Cm (pk Op.ownTransfer [(16, 8, 0x40000000), (24, 2, 1057), (26, 2, 0)])), .q 5, rn (pk Op.ownTransfer [(16, 8, 0x40000000), (24, 2, 1057),
     (26, 2, 0)]), carries_of (by decide +kernel), by decide +kernel⟩,
   ⟨st (Cm (pk Op.ownTransfer [(16, 8, 0x40000000), (24, 2, 2080), (26, 2, 6)])), .q 5, rn (pk Op.ownTransfer [(16, 8, 0x40000000), (24, 2, 2080),
     (26, 2, 6)]), carries_of (by decide +kernel), by decide +kernel, Sc.stale, 0x60, by decide +kernel⟩,
   ⟨st { Cm (pk Op.ownAccept [(16, 2, 2081), (24, 8, 0x40000000), (32, 2, 5)]) with own := { ownedHere := List.replicate 4096 (1, 2, 3) } }, .q 5,
     rn (pk Op.ownAccept [(16, 2, 2081), (24, 8, 0x40000000), (32, 2, 5)]), carries_of (by decide +kernel), by decide +kernel⟩,
   ⟨st (Cm (pk Op.ownAccept [(16, 2, 2081), (24, 8, 0x40000000), (32, 2, 5)])), .q 5, rn (pk Op.ownAccept [(16, 2, 2081), (24, 8, 0x40000000), (32,
     2, 5)]), carries_of (by decide +kernel), by decide +kernel⟩,
   ⟨st (Cm (pk Op.ownAccept [(16, 2, 1057), (24, 8, 0x40000000), (32, 2, 5)])), .q 5, rn (pk Op.ownAccept [(16, 2, 1057), (24, 8, 0x40000000), (32,
     2, 5)]), carries_of (by decide +kernel), by decide +kernel⟩⟩

/-- Inputs that meet the hypotheses of each clause of PublishedVersions. -/
theorem witness_PublishedVersions :
    (∃ (s : State) (q : Req) (r : Run), let d := s.dev; let obj := r.par 0 1 % 64; let off := r.par 8 8;
      let lenM1 := d.fld (A.HOM_PUB_CFG obj) F.HOM_PUB_CFG_LEN_M1; let buf := (off >>> 21, lenM1 + 1);
      let n := d.fld (A.HOM_PUB_CFG obj) F.HOM_PUB_CFG_RECORD; let v := d.fld (A.HOM_PUB_VER obj) F.HOM_PUB_VER_VERSION; d.carries q Op.publish r ∧
      d.lineFree n ∧ r.phase = 0 ∧ d.publishBefore r.seq obj = false ∧ d.publishRefusal r.dom obj off = none ∧ r.par 4 4 = v ∧ d.heldLines buf = []
      ∧ d.bufSnooped buf = false ∧ d.dirOf n = (0, 0) ∧ d.home.credits = [] ∧ d.home.groups = [] ∧ d.refusal (64 * n) (some r.dom) none = none ∧ (¬
      (buf.1 ≤ regionOf n ∧ regionOf n < buf.1 + buf.2))) ∧
    (∃ (s : State) (q : Req) (r : Run), let d := s.dev; let obj := r.par 0 1 % 64; let off := r.par 8 8;
      let v := d.fld (A.HOM_PUB_VER obj) F.HOM_PUB_VER_VERSION; d.carries q Op.publish r ∧ r.phase = 0 ∧ d.publishBefore r.seq obj = false ∧
      d.publishRefusal r.dom obj off = none ∧ r.par 4 4 ≠ v) ∧
    (∃ (s : State) (q : Req) (r : Run), let d := s.dev; let obj := r.par 0 1 % 64; let off := r.par 8 8; d.carries q Op.publish r ∧ (r.phase = 0 ∧
      d.publishBefore r.seq obj = false) ∧ ∃ (st : _) (dt : _), d.publishRefusal r.dom obj off = some (st, dt)) :=
  ⟨⟨st (put [(A.HOM_PUB_CFG 63, BitVec.ofNat 64 (1 + 0x1008000 * 65536)), (A.HOM_PUB_VER 63, 8), (A.HOM_PUB_CUR 63, BitVec.ofNat 64 (2 ^ 63 +
     600))] (Cm (pk Op.publish [(16, 1, 63), (20, 4, 8), (24, 8, 0x40000000)]))), .q 5, rn (pk Op.publish [(16, 1, 63), (20, 4, 8), (24, 8,
     0x40000000)]), carries_of (by decide +kernel), lineFree_of (by decide +kernel), by decide +kernel⟩,
   ⟨st (put [(A.HOM_PUB_CFG 63, BitVec.ofNat 64 (1 + 0x1008000 * 65536)), (A.HOM_PUB_VER 63, 8), (A.HOM_PUB_CUR 63, BitVec.ofNat 64 (2 ^ 63 +
     600))] (Cm (pk Op.publish [(16, 1, 63), (20, 4, 7), (24, 8, 0x40000000)]))), .q 5, rn (pk Op.publish [(16, 1, 63), (20, 4, 7), (24, 8,
     0x40000000)]), carries_of (by decide +kernel), by decide +kernel⟩,
   ⟨st (Cm (pk Op.publish [(16, 1, 63), (20, 4, 8), (24, 8, 0x40000000)])), .q 5, rn (pk Op.publish [(16, 1, 63), (20, 4, 8), (24, 8,
     0x40000000)]), carries_of (by decide +kernel), by decide +kernel, Sc.rights, 0x62, by decide +kernel⟩⟩

/-- Inputs that meet the hypotheses of each clause of PowerCommands. -/
theorem witness_PowerCommands :
    (∃ (s : State) (q : Req) (r : Run), let d := s.dev; let st := r.par 0 1 % 4; d.carries q Op.powerState r ∧ r.phase = 0 ∧ st = d.power) ∧
    (∃ (s : State) (q : Req) (r : Run), let d := s.dev; let st := r.par 0 1 % 4; d.carries q Op.powerState r ∧ r.phase = 0 ∧ st = 1 ∧ d.power ≠ 1) ∧
    (∃ (s : State) (q : Req) (r : Run), let d := s.dev; let st := r.par 0 1 % 4; d.carries q Op.powerState r ∧ r.phase = 0 ∧ st = 0 ∧ d.power ≠ 0 ∧
      d.reg A.PWR_TILE_GATED = 0 ∧ d.eng.wins = []) ∧
    (∃ (s : State) (q : Req) (r : Run), let d := s.dev; let st := r.par 0 1 % 4; d.carries q Op.powerState r ∧ r.phase = 0 ∧ 2 ≤ st ∧ st ≠ d.power
      ∧ d.powerRefusal r st = none) ∧
    (∃ (s : State) (q : Req) (r : Run), let d := s.dev; let st := r.par 0 1 % 4; d.carries q Op.powerState r ∧ r.phase = 0 ∧ ∃ (c : _) (dt : _), 2
      ≤ st ∧ st ≠ d.power ∧ d.powerRefusal r st = some (c, dt)) ∧
    (∃ (s : State) (q : Req) (r : Run), let d := s.dev; let margin := r.par 2 1; d.carries q Op.clockSet r ∧ r.phase = 0 ∧ r.par 0 1 = 0 ∧ 70 <
      margin) ∧
    (∃ (s : State) (q : Req) (r : Run), let d := s.dev; let margin := r.par 2 1; d.carries q Op.clockSet r ∧ r.phase = 0 ∧ r.par 0 1 = 0 ∧ margin ≤
      70 ∧ r.isStaged = false ∧ d.sys.pwr.relock = none) :=
  ⟨⟨st (Cm (pk Op.powerState [])), .q 5, rn (pk Op.powerState []), carries_of (by decide +kernel), by decide +kernel⟩,
   ⟨st (Cm (pk Op.powerState [(16, 1, 1)])), .q 5, rn (pk Op.powerState [(16, 1, 1)]), carries_of (by decide +kernel), by decide +kernel⟩,
   ⟨st (put [(A.PWR_STATUS, 1), (A.PWR_TILE_GATED, 0)] (Cm (pk Op.powerState []))), .q 5, rn (pk Op.powerState []), carries_of (by decide +kernel),
     by decide +kernel⟩,
   ⟨st (Cm (pk Op.powerState [(16, 1, 2)])), .q 5, rn (pk Op.powerState [(16, 1, 2)]), carries_of (by decide +kernel), by decide +kernel⟩,
   ⟨st (put [(A.CMD_STAGE_STATUS, 1)] (Cm (pk Op.powerState [(16, 1, 2)]))), .q 5, rn (pk Op.powerState [(16, 1, 2)]), carries_of
     (by decide +kernel), by decide +kernel, Sc.retry, 0x13, by decide +kernel⟩,
   ⟨st (Cm (pk Op.clockSet [(17, 1, 3), (18, 1, 71)])), .q 5, rn (pk Op.clockSet [(17, 1, 3), (18, 1, 71)]), carries_of (by decide +kernel),
     by decide +kernel⟩,
   ⟨st (Cm (pk Op.clockSet [(17, 1, 3), (18, 1, 70)])), .q 5, rn (pk Op.clockSet [(17, 1, 3), (18, 1, 70)]), carries_of (by decide +kernel),
     by decide +kernel⟩⟩

/-- Inputs that meet the hypotheses of each clause of SpanCommands. -/
theorem witness_SpanCommands :
    (∃ (s : State) (q : Req) (r : Run), let d := s.dev; d.carries q Op.expelVote r ∧ r.phase = 0 ∧ d.isSpanMgr = false) ∧
    (∃ (s : State) (q : Req) (r : Run), let d := s.dev; d.carries q Op.expelVote r ∧ r.phase = 0 ∧ d.isSpanMgr = true ∧ d.leaderIdx = 7) ∧
    (∃ (s : State) (q : Req) (r : Run), let d := s.dev; let target := bits (BitVec.ofNat 16 (r.par 0 2)) 0 14; d.carries q Op.expelVote r ∧ r.phase
      = 0 ∧ d.isSpanMgr = true ∧ d.leaderIdx ≠ 7 ∧ d.inSpan target = true ∧ d.expelled target = false ∧ d.shadowed target = false ∧ d.leadsSpan =
      false ∧ r.par 3 1 % 2 = 0 ∧ d.ownIdx < 5 ∧ (∀ dir < 6, d.trunkOk dir = true)) ∧
    (∃ (s : State) (q : Req) (r : Run), let d := s.dev; d.carries q Op.shadowBegin r ∧ r.phase = 0 ∧ d.isSpanMgr = false) ∧
    (∃ (s : State) (q : Req) (r : Run), let d := s.dev; let sh := r.par 0 2; let pr := r.par 2 2; let n := r.par 4 4; d.carries q Op.shadowBegin r
      ∧ r.phase = 0 ∧ d.leadsSpan = true ∧ d.isSpanMgr = true ∧ d.leaderIdx ≠ 7 ∧ d.inSpan sh = true ∧ d.inSpan pr = true ∧ sh ≠ pr ∧ 1 ≤ n ∧ n ≤
      1048576 ∧ d.expelled sh = false) ∧
    (∃ (s : State) (q : Req) (r : Run), let d := s.dev; let sh := r.par 0 2; let pr := r.par 2 2; let n := r.par 4 4; d.carries q Op.shadowBegin r
      ∧ d.shadowCount < 64 ∧ r.phase = 0 ∧ d.leadsSpan = true ∧ d.isSpanMgr = true ∧ d.leaderIdx ≠ 7 ∧ d.inSpan sh = true ∧ d.inSpan pr = true ∧ sh
      ≠ pr ∧ 1 ≤ n ∧ n ≤ 1048576 ∧ d.expelled sh = true ∧ d.expelled pr = false ∧ d.shadowed pr = false ∧ sh ≠ d.node) ∧
    (∃ (s : State) (q : Req) (r : Run), let d := s.dev; d.carries q Op.shadowCompare r ∧ r.phase = 0 ∧ d.resState ≠ 2) ∧
    (∃ (s : State) (q : Req) (r : Run), let d := s.dev; let run := d.fld A.TOP_RES_STATUS F.TOP_RES_STATUS_RUN; d.carries q Op.shadowCompare r ∧
      r.phase = 0 ∧ ∃ (bad : _) (tr : _), (compareWork d r).run.run {} = (.ok bad, tr) ∧ d.hasRoom 0x0804 0 ∧ d.resState = 2 ∧ compareOk r = true ∧
      tr.wrs = [] ∧ tr.cnts = [] ∧ d.sys.res.runLen ≤ 1048576) :=
  ⟨⟨st (put [(A.TOP_ROLE, 0)] (Cm (pk Op.expelVote [(16, 2, 33), (18, 1, 5)]))), .q 5, rn (pk Op.expelVote [(16, 2, 33), (18, 1, 5)]), carries_of
     (by decide +kernel), by decide +kernel⟩,
   ⟨st (put [(A.TOP_ROLE, 0x202)] (Cm (pk Op.expelVote [(16, 2, 33), (18, 1, 5)]))), .q 5, rn (pk Op.expelVote [(16, 2, 33), (18, 1, 5)]),
     carries_of (by decide +kernel), by decide +kernel⟩,
   ⟨st (sf [(A.TOP_ROLE, F.TOP_ROLE_SPAN_MGR, 1), (A.TOP_ROLE, F.TOP_ROLE_SPAN_MGR_IDX, 2), (A.TOP_QUORUM_STATUS, F.TOP_QUORUM_STATUS_LEADER, 4)]
     (Cm (pk Op.expelVote [(16, 2, 33), (18, 1, 5)]))), .q 5, rn (pk Op.expelVote [(16, 2, 33), (18, 1, 5)]), carries_of (by decide +kernel),
     by decide +kernel⟩,
   ⟨st (put [(A.TOP_ROLE, 0)] (Cm (pk Op.shadowBegin [(16, 2, 33), (18, 2, 2081), (20, 4, 100)]))), .q 5, rn (pk Op.shadowBegin [(16, 2, 33), (18,
     2, 2081), (20, 4, 100)]), carries_of (by decide +kernel), by decide +kernel⟩,
   ⟨st (sf [(A.TOP_ROLE, F.TOP_ROLE_SPAN_MGR, 1), (A.TOP_ROLE, F.TOP_ROLE_LEAD_SPAN_MGR, 1), (A.TOP_ROLE, F.TOP_ROLE_SPAN_MGR_IDX, 2),
     (A.TOP_QUORUM_STATUS, F.TOP_QUORUM_STATUS_LEADER, 2), (A.TOP_ROLE, F.TOP_ROLE_SPAN_MGR, 1)] (Cm (pk Op.shadowBegin [(16, 2, 33), (18, 2,
     2081), (20, 4, 100)]))), .q 5, rn (pk Op.shadowBegin [(16, 2, 33), (18, 2, 2081), (20, 4, 100)]), carries_of (by decide +kernel),
     by decide +kernel⟩,
   ⟨st (sf [(A.TOP_ROLE, F.TOP_ROLE_SPAN_MGR, 1), (A.TOP_ROLE, F.TOP_ROLE_LEAD_SPAN_MGR, 1), (A.TOP_ROLE, F.TOP_ROLE_SPAN_MGR_IDX, 2),
     (A.TOP_QUORUM_STATUS, F.TOP_QUORUM_STATUS_LEADER, 2), (A.TOP_ROLE, F.TOP_ROLE_SPAN_MGR, 1)] (put [(A.TOP_EXPEL_MAP 0, BitVec.ofNat 64 (2 ^
     33))] (Cm (pk Op.shadowBegin [(16, 2, 33), (18, 2, 2081), (20, 4, 100)])))), .q 5, rn (pk Op.shadowBegin [(16, 2, 33), (18, 2, 2081), (20, 4,
     100)]), carries_of (by decide +kernel), noShadow (by decide +kernel), by decide +kernel⟩,
   ⟨st (Cm (pk Op.shadowCompare [(4, 1, 9), (24, 8, 0x10000), (32, 8, 4096)])), .q 5, rn (pk Op.shadowCompare [(4, 1, 9), (24, 8, 0x10000), (32, 8,
     4096)]), carries_of (by decide +kernel), by decide +kernel⟩,
   ⟨st
     ({ put [(A.STN_CTX_CFG 9, 0x10001), (A.STN_SEG0 9 0, 0xf), (A.STN_SEG1 9 0, 1), (A.TOP_RES_STATUS, 2)] (Cm (pk Op.shadowCompare [(4, 1, 9), (24, 8, 0x10000), (32, 8, 4096)])) with sys := { res := { runLen := 100 } } }),
     .q 5, rn (pk Op.shadowCompare [(4, 1, 9), (24, 8, 0x10000), (32, 8, 4096)]), carries_of (by decide +kernel), by decide +kernel, got
     (compareWork
     ({ put [(A.STN_CTX_CFG 9, 0x10001), (A.STN_SEG0 9 0, 0xf), (A.STN_SEG1 9 0, 1), (A.TOP_RES_STATUS, 2)] (Cm (pk Op.shadowCompare [(4, 1, 9), (24, 8, 0x10000), (32, 8, 4096)])) with sys := { res := { runLen := 100 } } })
     (rn (pk Op.shadowCompare [(4, 1, 9), (24, 8, 0x10000), (32, 8, 4096)]))) [], trail (compareWork
     ({ put [(A.STN_CTX_CFG 9, 0x10001), (A.STN_SEG0 9 0, 0xf), (A.STN_SEG1 9 0, 1), (A.TOP_RES_STATUS, 2)] (Cm (pk Op.shadowCompare [(4, 1, 9), (24, 8, 0x10000), (32, 8, 4096)])) with sys := { res := { runLen := 100 } } })
     (rn (pk Op.shadowCompare [(4, 1, 9), (24, 8, 0x10000), (32, 8, 4096)]))), got_eq _ _ (by decide +kernel),
     (by unfold Dev.hasRoom; decide +kernel), by decide +kernel⟩⟩

/-- Inputs that meet the hypotheses of each clause of FirmwareCommands. -/
theorem witness_FirmwareCommands :
    (∃ (s : State) (q : Req) (r : Run), let d := s.dev; let all := tb (r.par 28 1) 0;
      let need := 256 + (d.domSection all r.dom ++ (if tb (r.par 28 1) 1 then certBytes else [])).length; d.carries q Op.attest r ∧ r.phase = 0 ∧
      tb (r.par 30 2) 15 = false ∧ d.attestOk r need = true ∧ (all = true → d.allDomains r.iss = true) ∧ need ≤ r.par 24 4) ∧
    (∃ (s : State) (q : Req) (r : Run), let d := s.dev; let all := tb (r.par 28 1) 0;
      let need := 256 + (d.domSection all r.dom ++ (if tb (r.par 28 1) 1 then certBytes else [])).length; d.carries q Op.attest r ∧ r.phase = 0 ∧
      tb (r.par 30 2) 15 = false ∧ d.attestOk r need = true ∧ (all = true → d.allDomains r.iss = true) ∧ need ≤ r.par 24 4) ∧
    (∃ (s : State) (q : Req) (r : Run), let d := s.dev; let all := tb (r.par 28 1) 0;
      let need := 256 + (d.domSection all r.dom ++ (if tb (r.par 28 1) 1 then certBytes else [])).length; d.carries q Op.attest r ∧ r.phase = 0 ∧
      tb (r.par 30 2) 15 = false ∧ d.attestOk r need = false) ∧
    (∃ (s : State) (q : Req) (r : Run), let d := s.dev; d.carries q Op.fwStage r ∧ ∃ (st : _) (dt : _), r.phase = 0 ∧ d.stageRefusal r = some (st,
      dt)) ∧
    (∃ (s : State) (q : Req) (r : Run), let d := s.dev; d.carries q Op.fwStage r ∧ ∃ (l : _) (tr : _), (stageRead d r).run.run {} = (.ok l, tr) ∧
      r.phase = 1 ∧ tr.wrs = [] ∧ tr.cnts = [] ∧ l.length < 2 ^ 24) ∧
    (∃ (s : State) (q : Req) (r : Run), let d := s.dev; d.carries q Op.fwActivate r ∧ r.phase = 0 ∧ ∃ (st : _) (dt : _), d.activateRefusal r = some
      (st, dt)) ∧
    (∃ (s : State) (q : Req) (r : Run), let d := s.dev; d.carries q Op.fwActivate r ∧ r.phase = 0 ∧ d.activateRefusal r = none ∧ r.par 0 1 = 1 ∧
      r.par 1 1 = 0) ∧
    (∃ (s : State) (q : Req) (r : Run), let d := s.dev; d.carries q Op.fwActivate r ∧ r.phase = 0 ∧ r.par 0 1 ∈ [0, 2] ∧ r.activateDirty = false ∧
      d.imgState = 2 ∧ d.sys.boot.verify = none ∧ (r.params.drop 8).take 16 = (digestBytes d.sys.boot.digest).take 16 ∧ d.sys.boot.act = none) ∧
    (∃ (s : State) (q : Req) (r : Run), let d := s.dev; ∃ (mode : _), d.only r ∧ d.sys.boot.act = some (r.seq, mode) ∧ r.cpl = none ∧ d.runOf .fw =
      none) ∧
    (∃ (s : State) (q : Req) (r : Run), let d := s.dev; ∃ (mode : _), d.only r ∧ d.sys.boot.act = some (r.seq, mode) ∧ r.cpl = none ∧ d.runOf .fw =
      none ∧ r.par 0 1 = 2 ∧ r.par 1 1 = 0) :=
  ⟨⟨st (Cm (pk Op.attest [(32, 8, 0x40100000), (40, 4, 8192)])), .q 5, rn (pk Op.attest [(32, 8, 0x40100000), (40, 4, 8192)]), carries_of
     (by decide +kernel), by decide +kernel⟩,
   ⟨st (sf [(A.CMD_Q_CFG 5, F.CMD_Q_CFG_ALL_DOMAINS, 1)] (Cm (pk Op.attest [(32, 8, 0x40100000), (40, 4, 8192), (44, 1, 1)]))), .q 5, rn (pk
     Op.attest [(32, 8, 0x40100000), (40, 4, 8192), (44, 1, 1)]), carries_of (by decide +kernel), by decide +kernel⟩,
   ⟨st (Cm (pk Op.attest [(32, 8, 0x40100000), (40, 4, 8192), (44, 1, 4)])), .q 5, rn (pk Op.attest [(32, 8, 0x40100000), (40, 4, 8192), (44, 1,
     4)]), carries_of (by decide +kernel), by decide +kernel⟩,
   ⟨st (Cm (pk Op.fwStage [(24, 8, 0x10001)])), .q 5, rn (pk Op.fwStage [(24, 8, 0x10001)]), carries_of (by decide +kernel), Sc.malformed, 0xF0,
     by decide +kernel⟩,
   ⟨st { Cm 0 with cmd := { runs := [{ rn (pk Op.fwStage [(16, 8, 0x10000), (32, 4, 448), (36, 2, 1057)]) with phase := 1 }] } }, .q 5,
     { rn (pk Op.fwStage [(16, 8, 0x10000), (32, 4, 448), (36, 2, 1057)]) with phase := 1 }, carries_of (by decide +kernel), got (stageRead
     ({ Cm 0 with cmd := { runs := [{ rn (pk Op.fwStage [(16, 8, 0x10000), (32, 4, 448), (36, 2, 1057)]) with phase := 1 }] } })
     { rn (pk Op.fwStage [(16, 8, 0x10000), (32, 4, 448), (36, 2, 1057)]) with phase := 1 }) [], trail (stageRead
     ({ Cm 0 with cmd := { runs := [{ rn (pk Op.fwStage [(16, 8, 0x10000), (32, 4, 448), (36, 2, 1057)]) with phase := 1 }] } })
     { rn (pk Op.fwStage [(16, 8, 0x10000), (32, 4, 448), (36, 2, 1057)]) with phase := 1 }), got_eq _ _ (by decide +kernel), by decide +kernel⟩,
   ⟨st (Cm (pk Op.fwActivate [(16, 1, 3)])), .q 5, rn (pk Op.fwActivate [(16, 1, 3)]), carries_of (by decide +kernel), by decide +kernel,
     Sc.malformed, 0xF0, by decide +kernel⟩,
   ⟨st (sf [(A.BOOT_IMG_STATUS, F.BOOT_IMG_STATUS_STATE, 2)] (Cm (pk Op.fwActivate [(16, 1, 1)]))), .q 5, rn (pk Op.fwActivate [(16, 1, 1)]),
     carries_of (by decide +kernel), by decide +kernel⟩,
   ⟨st (sf [(A.BOOT_IMG_STATUS, F.BOOT_IMG_STATUS_STATE, 2)] (Cm (pk Op.fwActivate [(16, 1, 2)]))), .q 5, rn (pk Op.fwActivate [(16, 1, 2)]),
     carries_of (by decide +kernel), by decide +kernel⟩,
   ⟨st { Cm 0 with cmd := { runs := [{ rn (pk Op.fwActivate [(16, 1, 2)]) with phase := 1 }] }, sys := { boot := { act := some (3, 2) } } }, .q 5,
     { rn (pk Op.fwActivate [(16, 1, 2)]) with phase := 1 }, 2, (by unfold Dev.only; decide +kernel), by decide +kernel⟩,
   ⟨st { Cm 0 with cmd := { runs := [{ rn (pk Op.fwActivate [(16, 1, 2)]) with phase := 1 }] }, sys := { boot := { act := some (3, 2) } } }, .q 5,
     { rn (pk Op.fwActivate [(16, 1, 2)]) with phase := 1 }, 2, (by unfold Dev.only; decide +kernel), by decide +kernel⟩⟩

/-- Inputs that meet the hypotheses of each clause of StartSequence. -/
theorem witness_StartSequence :
    (∃ (s : State), let d := s.dev; let boot (f : BootSt → BootSt) : SysSt := { d.sys with boot := f d.sys.boot }; d.sys.boot.phase = 1 ∧
      d.sys.pwr.avs = none) ∧
    (∃ (s : State), let d := s.dev; let boot (f : BootSt → BootSt) : SysSt := { d.sys with boot := f d.sys.boot }; d.sys.boot.phase = 1 ∧
      d.sys.pwr.avs = none) ∧
    (∃ (s : State), let d := s.dev; let boot (f : BootSt → BootSt) : SysSt := { d.sys with boot := f d.sys.boot }; ∃ (image : List Byte),
      d.sys.boot.reading = true) ∧
    (∃ (s : State), let d := s.dev; let boot (f : BootSt → BootSt) : SysSt := { d.sys with boot := f d.sys.boot }; ∃ (v : Verify),
      d.sys.boot.verify = some v ∧ v.src ≤ 3) ∧
    (∃ (s : State), let d := s.dev; let boot (f : BootSt → BootSt) : SysSt := { d.sys with boot := f d.sys.boot }; ∃ (v : Verify),
      d.sys.boot.verify = some v ∧ ∃ (r : _), d.only r ∧ v.src = 5 ∧ v.seq = some r.seq ∧ r.cpl = none ∧ d.runOf .fw = none) ∧
    (∃ (s : State), let d := s.dev; let boot (f : BootSt → BootSt) : SysSt := { d.sys with boot := f d.sys.boot }; d.sys.boot.phase = 3 ∧ d.stage =
      3 ∧ d.anyStackFailed = false ∧ (∀ k < 8, d.stackServes k = true)) ∧
    (∃ (s : State), let d := s.dev; d.stage = 4) ∧
    (∃ (s : State), let d := s.dev; d.stage ≠ 4) :=
  ⟨⟨st { D0 with sys := { boot := { phase := 1 } } }, by decide +kernel⟩,
   ⟨st (sf [(A.BOOT_STATUS, F.BOOT_STATUS_FAILS, 3)] { D0 with sys := { boot := { phase := 1 } } }), by decide +kernel⟩,
   ⟨st { D0 with sys := { boot := { phase := 2, reading := true } } }, List.replicate 500 7, by decide +kernel⟩,
   ⟨st { D0 with sys := { boot := { phase := 2, verify := some ⟨3, none⟩, img := List.replicate 448 5 } } }, ⟨3, none⟩, by decide +kernel⟩,
   ⟨st
     { Spn with sys := { boot := { verify := some ⟨5, some 3⟩, img := List.replicate 448 5 } }, cmd := { runs := [{ rn (pk Op.fwStage []) with phase := 2 }] } },
     ⟨5, some 3⟩, by decide +kernel, { rn (pk Op.fwStage []) with phase := 2 }, (by unfold Dev.only; decide +kernel), by decide +kernel⟩,
   ⟨st (put ((A.BOOT_STATUS, 3) :: (List.range 8).map fun k => (A.STK_STATUS k, 3)) { D0 with sys := { boot := { phase := 3 } } }),
     by decide +kernel⟩,
   ⟨st (put [(A.BOOT_STATUS, 0x204)] { D0 with sys := { boot := { phase := 3, startDue := some 9 } } }), by decide +kernel⟩,
   ⟨st D0, by decide +kernel⟩⟩

/-- Inputs that meet the hypotheses of each clause of FailedStartsAndResets. -/
theorem witness_FailedStartsAndResets :
    (∃ (s : State), let d := s.dev; ∃ (due : _), d.sys.boot.hostDue = some due ∧ d.sys.boot.verify = none) ∧
    (∃ (s : State), let d := s.dev; ∃ (due : _), d.sys.boot.startDue = some due) ∧
    (∃ (s : State), let d := s.dev; d.sys.boot.phase ≠ 0) ∧
    (∃ (s : State), let d := s.dev; d.sys.boot.phase ≠ 0) ∧
    (∃ (s : State), let d := s.dev; d.sys.boot.phase = 0) ∧
    (∃ (s : State), let d := s.dev; ∃ (due : _), d.sys.boot.resetDue = some due) :=
  ⟨⟨st { D0 with sys := { boot := { phase := 2, hostDue := some 900 } } }, 900, by decide +kernel⟩,
   ⟨st { Spn with sys := { boot := { phase := 3, startDue := some 900 } } }, 900, by decide +kernel⟩,
   ⟨st { Spn with sys := { boot := { phase := 3 } } }, by decide +kernel⟩,
   ⟨st { Cm 0 with sys := { boot := { phase := 3 } } }, by decide +kernel⟩,
   ⟨st D0, by decide +kernel⟩,
   ⟨st { Spn with sys := { boot := { phase := 3, resetDue := some 900 } } }, 900, by decide +kernel⟩⟩

/-- Inputs that meet the hypotheses of each clause of HostLoadAndMailbox. -/
theorem witness_HostLoadAndMailbox :
    (∃ (s : State) (v : Word), let d := s.dev; let boot (f : BootSt → BootSt) : SysSt := { d.sys with boot := f d.sys.boot }; d.staging = false ∧
      d.sys.boot.act = none) ∧
    (∃ (s : State) (v : Word), let d := s.dev; let boot (f : BootSt → BootSt) : SysSt := { d.sys with boot := f d.sys.boot }; (d.staging = true ∨
      d.sys.boot.act.isSome = true)) ∧
    (∃ (s : State) (v : Word), let d := s.dev; let boot (f : BootSt → BootSt) : SysSt := { d.sys with boot := f d.sys.boot }; (d.staging = true ∨
      d.sys.boot.act.isSome = true)) ∧
    (∃ (s : State) (v : Word), let d := s.dev; let boot (f : BootSt → BootSt) : SysSt := { d.sys with boot := f d.sys.boot }; d.imgState = 1 ∧
      d.staging = false ∧ d.sys.boot.verify = none ∧ d.sys.boot.img.length + 8 ≤ 8388608) ∧
    (∃ (s : State) (v : Word), let d := s.dev; let boot (f : BootSt → BootSt) : SysSt := { d.sys with boot := f d.sys.boot }; 8388608 <
      d.sys.boot.img.length + 8 ∧ d.imgState = 1 ∧ d.staging = false ∧ d.sys.boot.verify = none) ∧
    (∃ (s : State) (v : Word), let d := s.dev; let boot (f : BootSt → BootSt) : SysSt := { d.sys with boot := f d.sys.boot }; d.imgState = 1 ∧
      d.staging = false ∧ d.sys.boot.verify = none ∧ d.sys.boot.phase = 2 ∧ d.sys.boot.hostDue.isSome = true) ∧
    (∃ (s : State) (v : Word), let d := s.dev; let boot (f : BootSt → BootSt) : SysSt := { d.sys with boot := f d.sys.boot }; d.imgState = 1 ∧
      d.staging = false ∧ d.sys.boot.verify = none ∧ (d.sys.boot.phase ≠ 2 ∨ d.sys.boot.hostDue = none)) ∧
    (∃ (s : State) (v : Word), let d := s.dev; d.fld A.BOOT_MBOX_STATUS F.BOOT_MBOX_STATUS_BUSY = 0) ∧
    (∃ (s : State) (v : Word), let d := s.dev; d.fld A.BOOT_MBOX_STATUS F.BOOT_MBOX_STATUS_BUSY = 1) :=
  ⟨⟨st (put [(A.BOOT_IMG_STATUS, 0x700000000e)] Spn), 0x1122334455667788, by decide +kernel⟩,
   ⟨st { Spn with sys := { boot := { act := some (3, 0) } } }, 0x1122334455667788, by decide +kernel⟩,
   ⟨st { Cm 0 with cmd := { runs := [{ rn (pk Op.fwStage []) with phase := 1 }] } }, 0x1122334455667788, by decide +kernel⟩,
   ⟨st (put [(A.BOOT_IMG_STATUS, 1)] Spn), 0x1122334455667788, by decide +kernel⟩,
   ⟨st (put [(A.BOOT_IMG_STATUS, 1)] (withImg (List.replicate 8388608 0) Spn)), 0x1122334455667788,
     (by rw [withImg_len, List.length_replicate]; decide), by decide +kernel⟩,
   ⟨st (put [(A.BOOT_IMG_STATUS, 1)] { D0 with sys := { boot := { phase := 2, hostDue := some 9 } } }), 0x1122334455667788, by decide +kernel⟩,
   ⟨st (put [(A.BOOT_IMG_STATUS, 1)] Spn), 0x1122334455667788, by decide +kernel⟩,
   ⟨st Spn, 0x1122334455667788, by decide +kernel⟩,
   ⟨st (put [(A.BOOT_MBOX_STATUS, 1)] Spn), 0x1122334455667788, by decide +kernel⟩⟩

/-- Inputs that meet the hypotheses of each clause of FillAndCopyOneLine. -/
theorem witness_FillAndCopyOneLine :
    (∃ (s : State) (q : Req) (r : Run) (k : Nat) (j : Nat) (g : Seg) (h : Seg), let d := s.dev;
      let dst := if r.op = Op.fill then (fillArgs r).1 else (copyArgs r).2.1;
      let len := if r.op = Op.fill then (fillArgs r).2.1 else (copyArgs r).2.2; let off := (g.tgt <<< 21) + (dst - g.lo); d.lineFree (off / 64) ∧
      (dst % 64 = 0 ∧ len = 64 ∧ dst + 64 ≤ 2 ^ 48 ∧ d.ctxBound r.ctx = true ∧ d.findSeg r.ctx dst = some (k, g) ∧ g.lo % 64 = 0 ∧ g.w = true ∧
      g.isRemote = false ∧ d.dirOf (off / 64) = (0, 0) ∧ d.refusal off (some r.dom) (some g.cls) = none ∧ d.home.credits = [] ∧ d.home.groups = [])
      ∧ ∃ (row : Instr), ((d.carries q Op.fill r ∧ r.isCx6 = false ∧ row = .fill q) ∨ (∃ n, q = .q n ∧ d.carries q Op.fill r ∧ r.isCx6 = true ∧ row
      = .cx6Fill n))) ∧
    (∃ (s : State) (q : Req) (r : Run) (k : Nat) (j : Nat) (g : Seg) (h : Seg), let d := s.dev;
      let dst := if r.op = Op.fill then (fillArgs r).1 else (copyArgs r).2.1;
      let len := if r.op = Op.fill then (fillArgs r).2.1 else (copyArgs r).2.2; let off := (g.tgt <<< 21) + (dst - g.lo); d.lineFree (off / 64) ∧
      (dst % 64 = 0 ∧ len = 64 ∧ dst + 64 ≤ 2 ^ 48 ∧ d.ctxBound r.ctx = true ∧ d.findSeg r.ctx dst = some (k, g) ∧ g.lo % 64 = 0 ∧ g.w = true ∧
      g.isRemote = false ∧ d.dirOf (off / 64) = (0, 0) ∧ d.refusal off (some r.dom) (some g.cls) = none ∧ d.home.credits = [] ∧ d.home.groups = [])
      ∧ ∃ (row : Instr), ((d.carries q Op.fill r ∧ r.isCx6 = false ∧ row = .fill q) ∨ (∃ n, q = .q n ∧ d.carries q Op.fill r ∧ r.isCx6 = true ∧ row
      = .cx6Fill n))) ∧
    (∃ (s : State) (q : Req) (r : Run) (k : Nat) (j : Nat) (g : Seg) (h : Seg), let d := s.dev;
      let dst := if r.op = Op.fill then (fillArgs r).1 else (copyArgs r).2.1; let src := (copyArgs r).1;
      let len := if r.op = Op.fill then (fillArgs r).2.1 else (copyArgs r).2.2; let off := (g.tgt <<< 21) + (dst - g.lo);
      let from_ := (h.tgt <<< 21) + (src - h.lo); d.lineFree (off / 64) ∧ (dst % 64 = 0 ∧ len = 64 ∧ dst + 64 ≤ 2 ^ 48 ∧ d.ctxBound r.ctx = true ∧
      d.findSeg r.ctx dst = some (k, g) ∧ g.lo % 64 = 0 ∧ g.w = true ∧ g.isRemote = false ∧ d.dirOf (off / 64) = (0, 0) ∧ d.refusal off (some
      r.dom) (some g.cls) = none ∧ d.home.credits = [] ∧ d.home.groups = []) ∧ ∃ (row : Instr), ((d.carries q Op.copy r ∧ r.isCx6 = false ∧ row =
      .copy q) ∨ (∃ n, q = .q n ∧ d.carries q Op.copy r ∧ r.isCx6 = true ∧ row = .cx6Copy n)) ∧ d.lineFree (from_ / 64) ∧ src % 64 = 0 ∧ src + 64 ≤
      2 ^ 48 ∧ (src + 64 ≤ dst ∨ dst + 64 ≤ src) ∧ d.findSeg r.ctx src = some (j, h) ∧ h.lo % 64 = 0 ∧ h.r = true ∧ h.isRemote = false ∧ d.own.ret
      = [] ∧ d.home.ue = [] ∧ d.refusal from_ (some r.dom) (some h.cls) = none) ∧
    (∃ (s : State) (q : Req) (r : Run) (k : Nat) (j : Nat) (g : Seg) (h : Seg), let d := s.dev;
      let dst := if r.op = Op.fill then (fillArgs r).1 else (copyArgs r).2.1; let src := (copyArgs r).1;
      let len := if r.op = Op.fill then (fillArgs r).2.1 else (copyArgs r).2.2; let off := (g.tgt <<< 21) + (dst - g.lo);
      let from_ := (h.tgt <<< 21) + (src - h.lo); d.lineFree (off / 64) ∧ (dst % 64 = 0 ∧ len = 64 ∧ dst + 64 ≤ 2 ^ 48 ∧ d.ctxBound r.ctx = true ∧
      d.findSeg r.ctx dst = some (k, g) ∧ g.lo % 64 = 0 ∧ g.w = true ∧ g.isRemote = false ∧ d.dirOf (off / 64) = (0, 0) ∧ d.refusal off (some
      r.dom) (some g.cls) = none ∧ d.home.credits = [] ∧ d.home.groups = []) ∧ ∃ (row : Instr), ((d.carries q Op.copy r ∧ r.isCx6 = false ∧ row =
      .copy q) ∨ (∃ n, q = .q n ∧ d.carries q Op.copy r ∧ r.isCx6 = true ∧ row = .cx6Copy n)) ∧ d.lineFree (from_ / 64) ∧ src % 64 = 0 ∧ src + 64 ≤
      2 ^ 48 ∧ (src + 64 ≤ dst ∨ dst + 64 ≤ src) ∧ d.findSeg r.ctx src = some (j, h) ∧ h.lo % 64 = 0 ∧ h.r = true ∧ h.isRemote = false ∧ d.own.ret
      = [] ∧ d.home.ue = [] ∧ d.refusal from_ (some r.dom) (some h.cls) = none) :=
  ⟨⟨st (put [(A.STN_CTX_CFG 9, 0x10001), (A.STN_SEG0 9 0, 0xf), (A.STN_SEG1 9 0, 1)] (Cm (pk Op.fill [(4, 1, 9), (16, 8, 0x10000), (32, 8,
     0x1122334455667788), (24, 8, 64)]))), .q 5, rn (pk Op.fill [(4, 1, 9), (16, 8, 0x10000), (32, 8, 0x1122334455667788), (24, 8, 64)]), 0, 0,
     segOf 0xf 1, segOf 0xf 1, lineFree_of (by decide +kernel), by decide +kernel, .fill (.q 5), .inl ⟨carries_of (by decide +kernel),
     by decide +kernel, rfl⟩⟩,
   ⟨st (put [(A.STN_CTX_CFG 9, 0x10001), (A.STN_SEG0 9 0, 0xf), (A.STN_SEG1 9 0, 1)] (Cm (pk Op.fill [(2, 1, 0x80), (4, 1, 9), (16, 8, 0x10000),
     (24, 4, 64), (28, 4, 0x11223344)]))), .q 5, rn (pk Op.fill [(2, 1, 0x80), (4, 1, 9), (16, 8, 0x10000), (24, 4, 64), (28, 4, 0x11223344)]), 0,
     0, segOf 0xf 1, segOf 0xf 1, lineFree_of (by decide +kernel), by decide +kernel, .cx6Fill 5, .inr ⟨5, rfl, carries_of (by decide +kernel),
     by decide +kernel, rfl⟩⟩,
   ⟨st (mem 0x20000 (toLe 8 0x1122334455667788) (put [(A.STN_CTX_CFG 9, 0x10001), (A.STN_SEG0 9 0, 0xf), (A.STN_SEG1 9 0, 1)] (Cm (pk Op.copy [(4,
     1, 9), (16, 8, 0x20000), (24, 8, 0x10000), (32, 8, 64)])))), .q 5, rn (pk Op.copy [(4, 1, 9), (16, 8, 0x20000), (24, 8, 0x10000), (32, 8,
     64)]), 0, 0, segOf 0xf 1, segOf 0xf 1, lineFree_of (by decide +kernel), by decide +kernel, .copy (.q 5), .inl ⟨carries_of (by decide +kernel),
     by decide +kernel, rfl⟩, lineFree_of (by decide +kernel), by decide +kernel⟩,
   ⟨st (mem 0x20000 (toLe 8 0x1122334455667788) (put [(A.STN_CTX_CFG 9, 0x10001), (A.STN_SEG0 9 0, 0xf), (A.STN_SEG1 9 0, 1)] (Cm (pk Op.copy [(2,
     1, 0x80), (4, 1, 9), (16, 8, 0x20000), (24, 8, 0x10000), (32, 4, 64)])))), .q 5, rn (pk Op.copy [(2, 1, 0x80), (4, 1, 9), (16, 8, 0x20000),
     (24, 8, 0x10000), (32, 4, 64)]), 0, 0, segOf 0xf 1, segOf 0xf 1, lineFree_of (by decide +kernel), by decide +kernel, .cx6Copy 5, .inr ⟨5, rfl,
     carries_of (by decide +kernel), by decide +kernel, rfl⟩, lineFree_of (by decide +kernel), by decide +kernel⟩⟩

/-- Inputs that meet the hypotheses of each clause of EngineWorkCompletes. -/
theorem witness_EngineWorkCompletes :
    (∃ (s : State) (q : Req) (r : Run), let d := s.dev; d.carries q Op.copy r ∧ (∃ c tr, (copyWork d r).run.run {} = (.ok c, tr) ∧ d.quiet ∧ ∀ x ∈
      tr.wrs, d.landsNow r x) ∧ r.isCx6 = false) ∧
    (∃ (s : State) (q : Req) (r : Run), let d := s.dev; d.carries q Op.copy r ∧ (∃ c tr, (copyWork d r).run.run {} = (.error (.fail c), tr)) ∧
      r.isCx6 = false) ∧
    (∃ (s : State) (q : Req) (r : Run), let d := s.dev; d.carries q Op.fill r ∧ (∃ c tr, (fillWork d r).run.run {} = (.ok c, tr) ∧ d.quiet ∧ ∀ x ∈
      tr.wrs, d.landsNow r x) ∧ r.isCx6 = false) ∧
    (∃ (s : State) (q : Req) (r : Run), let d := s.dev; d.carries q Op.fill r ∧ (∃ c tr, (fillWork d r).run.run {} = (.error (.fail c), tr)) ∧
      r.isCx6 = false) ∧
    (∃ (s : State) (q : Req) (r : Run), let d := s.dev; let noSet := ∀ x ∈ d.eng.pf, some x.queue ≠ r.queue; d.carries q Op.gatherPool r ∧ (∃ c tr,
      (gatherWork d r).run.run {} = (.ok c, tr) ∧ d.quiet ∧ ∀ x ∈ tr.wrs, d.landsNow r x) ∧ r.isCx6 = false ∧ d.crdTurn r = true ∧ noSet) ∧
    (∃ (s : State) (q : Req) (r : Run), let d := s.dev; let noSet := ∀ x ∈ d.eng.pf, some x.queue ≠ r.queue; d.carries q Op.gatherPool r ∧ (∃ c tr,
      (gatherWork d r).run.run {} = (.error (.fail c), tr)) ∧ r.isCx6 = false ∧ d.crdTurn r = true ∧ noSet) ∧
    (∃ (s : State) (q : Req) (r : Run), let d := s.dev; r.isCx6 = true ∧ ∃ (n : Fin 512), d.carries q Op.copy r ∧ (∃ c tr, (copyWork d r).run.run
      {} = (.ok c, tr) ∧ d.quiet ∧ ∀ x ∈ tr.wrs, d.landsNow r x) ∧ q = .q n) ∧
    (∃ (s : State) (q : Req) (r : Run), let d := s.dev; r.isCx6 = true ∧ ∃ (n : Fin 512), d.carries q Op.copy r ∧ (∃ c tr, (copyWork d r).run.run
      {} = (.error (.fail c), tr)) ∧ q = .q n) ∧
    (∃ (s : State) (q : Req) (r : Run), let d := s.dev; r.isCx6 = true ∧ ∃ (n : Fin 512), d.carries q Op.fill r ∧ (∃ c tr, (fillWork d r).run.run
      {} = (.ok c, tr) ∧ d.quiet ∧ ∀ x ∈ tr.wrs, d.landsNow r x) ∧ q = .q n) ∧
    (∃ (s : State) (q : Req) (r : Run), let d := s.dev; r.isCx6 = true ∧ ∃ (n : Fin 512), d.carries q Op.fill r ∧ (∃ c tr, (fillWork d r).run.run
      {} = (.error (.fail c), tr)) ∧ q = .q n) ∧
    (∃ (s : State) (q : Req) (r : Run), let d := s.dev; let noSet := ∀ x ∈ d.eng.pf, some x.queue ≠ r.queue; r.isCx6 = true ∧ ∃ (n : Fin 512),
      d.carries q Op.gatherPool r ∧ (∃ c tr, (gatherWork d r).run.run {} = (.ok c, tr) ∧ d.quiet ∧ ∀ x ∈ tr.wrs, d.landsNow r x) ∧ q = .q n ∧
      d.crdTurn r = true ∧ noSet) ∧
    (∃ (s : State) (q : Req) (r : Run), let d := s.dev; let noSet := ∀ x ∈ d.eng.pf, some x.queue ≠ r.queue; r.isCx6 = true ∧ ∃ (n : Fin 512),
      d.carries q Op.gatherPool r ∧ (∃ c tr, (gatherWork d r).run.run {} = (.error (.fail c), tr)) ∧ q = .q n ∧ d.crdTurn r = true ∧ noSet) ∧
    (∃ (s : State) (q : Req) (r : Run), let d := s.dev; d.carries q Op.bitwise r ∧ (∃ c tr, (bitwiseWork d r).run.run {} = (.ok c, tr) ∧ d.quiet ∧
      ∀ x ∈ tr.wrs, d.landsNow r x)) ∧
    (∃ (s : State) (q : Req) (r : Run), let d := s.dev; d.carries q Op.bitwise r ∧ (∃ c tr, (bitwiseWork d r).run.run {} = (.error (.fail c), tr))) ∧
    (∃ (s : State) (q : Req) (r : Run), let d := s.dev; d.carries q Op.matmul r ∧ (∃ c tr, (matmulWork d r).run.run {} = (.ok c, tr) ∧ d.quiet ∧ ∀
      x ∈ tr.wrs, d.landsNow r x) ∧ r.phase = 1) ∧
    (∃ (s : State) (q : Req) (r : Run), let d := s.dev; d.carries q Op.matmul r ∧ (∃ c tr, (matmulWork d r).run.run {} = (.error (.fail c), tr)) ∧
      r.phase = 1) ∧
    (∃ (s : State) (q : Req) (r : Run), let d := s.dev; d.carries q Op.route r ∧ (∃ c tr, ((writeRecords (keptExperts r) (toksOf r)) d r).run.run
      {} = (.ok c, tr) ∧ d.quiet ∧ ∀ x ∈ tr.wrs, d.landsNow r x) ∧ r.phase = 5 ∧ d.routeRunning.map (·.seq) = some r.seq) ∧
    (∃ (s : State) (q : Req) (r : Run), let d := s.dev; d.carries q Op.route r ∧ (∃ c tr, ((writeRecords (keptExperts r) (toksOf r)) d r).run.run
      {} = (.error (.fail c), tr)) ∧ r.phase = 5 ∧ d.routeRunning.map (·.seq) = some r.seq) :=
  ⟨⟨st (put [(A.STN_CTX_CFG 9, 0x10001), (A.STN_SEG0 9 0, 0xf), (A.STN_SEG1 9 0, 1)] (Cm (pk Op.copy [(4, 1, 9), (16, 8, 0x20000), (24, 8,
     0x10000), (32, 8, 128)]))), .q 5, rn (pk Op.copy [(4, 1, 9), (16, 8, 0x20000), (24, 8, 0x10000), (32, 8, 128)]), carries_of
     (by decide +kernel), lands_ex (by decide +kernel), by decide +kernel⟩,
   ⟨st (put [] (Cm (pk Op.copy [(4, 1, 9), (16, 8, 0x20000), (24, 8, 0x10000), (32, 8, 128)]))), .q 5, rn (pk Op.copy [(4, 1, 9), (16, 8, 0x20000),
     (24, 8, 0x10000), (32, 8, 128)]), carries_of (by decide +kernel), fails_ex (by decide +kernel), by decide +kernel⟩,
   ⟨st (put [(A.STN_CTX_CFG 9, 0x10001), (A.STN_SEG0 9 0, 0xf), (A.STN_SEG1 9 0, 1)] (Cm (pk Op.fill [(4, 1, 9), (16, 8, 0x10000), (32, 8,
     0x1122334455667788), (24, 8, 100)]))), .q 5, rn (pk Op.fill [(4, 1, 9), (16, 8, 0x10000), (32, 8, 0x1122334455667788), (24, 8, 100)]),
     carries_of (by decide +kernel), lands_ex (by decide +kernel), by decide +kernel⟩,
   ⟨st (put [] (Cm (pk Op.fill [(4, 1, 9), (16, 8, 0x10000), (32, 8, 0x1122334455667788), (24, 8, 100)]))), .q 5, rn (pk Op.fill [(4, 1, 9), (16,
     8, 0x10000), (32, 8, 0x1122334455667788), (24, 8, 100)]), carries_of (by decide +kernel), fails_ex (by decide +kernel), by decide +kernel⟩,
   ⟨st (put [(A.STN_CTX_CFG 9, 0x10001), (A.STN_SEG0 9 0, 0xf), (A.STN_SEG1 9 0, 1)] (mem 0x13000 (bl 64 [(4, 4, 4), (8, 8, 4), (24, 4, 8), (32, 8,
     0x10000)]) (mem 0x11404 [1] (mem 0x10000 [0, 0x3c, 0, 0x40, 0, 0x3c, 0, 0x40] (Cr
     [{ rn (pk Op.gatherPool [(4, 1, 9), (8, 8, 4096)]) with blk := bl 128 [(0, 8, 0x13000), (8, 8, 0x11000), (16, 8, 0x11400), (24, 4, 1), (28, 4, 1), (32, 8, 0x12000), (40, 4, 64), (46, 1, 1)] }]))))),
     .q 5,
     { rn (pk Op.gatherPool [(4, 1, 9), (8, 8, 4096)]) with blk := bl 128 [(0, 8, 0x13000), (8, 8, 0x11000), (16, 8, 0x11400), (24, 4, 1), (28, 4, 1), (32, 8, 0x12000), (40, 4, 64), (46, 1, 1)] },
     carries_of (by decide +kernel), lands_ex (by decide +kernel), by decide +kernel⟩,
   ⟨st (put [] (mem 0x13000 (bl 64 [(4, 4, 4), (8, 8, 4), (24, 4, 8), (32, 8, 0x10000)]) (mem 0x11404 [1] (mem 0x10000 [0, 0x3c, 0, 0x40, 0, 0x3c,
     0, 0x40] (Cr
     [{ rn (pk Op.gatherPool [(4, 1, 9), (8, 8, 4096)]) with blk := bl 128 [(0, 8, 0x13000), (8, 8, 0x11000), (16, 8, 0x11400), (24, 4, 1), (28, 4, 1), (32, 8, 0x12000), (40, 4, 64), (46, 1, 1)] }]))))),
     .q 5,
     { rn (pk Op.gatherPool [(4, 1, 9), (8, 8, 4096)]) with blk := bl 128 [(0, 8, 0x13000), (8, 8, 0x11000), (16, 8, 0x11400), (24, 4, 1), (28, 4, 1), (32, 8, 0x12000), (40, 4, 64), (46, 1, 1)] },
     carries_of (by decide +kernel), fails_ex (by decide +kernel), by decide +kernel⟩,
   ⟨st (put [(A.STN_CTX_CFG 9, 0x10001), (A.STN_SEG0 9 0, 0xf), (A.STN_SEG1 9 0, 1)] (Cm (pk Op.copy [(2, 1, 0x80), (4, 1, 9), (16, 8, 0x20000),
     (24, 8, 0x10000), (32, 4, 64)]))), .q 5, rn (pk Op.copy [(2, 1, 0x80), (4, 1, 9), (16, 8, 0x20000), (24, 8, 0x10000), (32, 4, 64)]),
     by decide +kernel, 5, carries_of (by decide +kernel), lands_ex (by decide +kernel), by decide +kernel⟩,
   ⟨st (put [] (Cm (pk Op.copy [(2, 1, 0x80), (4, 1, 9), (16, 8, 0x20000), (24, 8, 0x10000), (32, 4, 64)]))), .q 5, rn (pk Op.copy [(2, 1, 0x80),
     (4, 1, 9), (16, 8, 0x20000), (24, 8, 0x10000), (32, 4, 64)]), by decide +kernel, 5, carries_of (by decide +kernel), fails_ex
     (by decide +kernel), by decide +kernel⟩,
   ⟨st (put [(A.STN_CTX_CFG 9, 0x10001), (A.STN_SEG0 9 0, 0xf), (A.STN_SEG1 9 0, 1)] (Cm (pk Op.fill [(2, 1, 0x80), (4, 1, 9), (16, 8, 0x10000),
     (24, 4, 64), (28, 4, 0x11223344)]))), .q 5, rn (pk Op.fill [(2, 1, 0x80), (4, 1, 9), (16, 8, 0x10000), (24, 4, 64), (28, 4, 0x11223344)]),
     by decide +kernel, 5, carries_of (by decide +kernel), lands_ex (by decide +kernel), by decide +kernel⟩,
   ⟨st (put [] (Cm (pk Op.fill [(2, 1, 0x80), (4, 1, 9), (16, 8, 0x10000), (24, 4, 64), (28, 4, 0x11223344)]))), .q 5, rn (pk Op.fill [(2, 1,
     0x80), (4, 1, 9), (16, 8, 0x10000), (24, 4, 64), (28, 4, 0x11223344)]), by decide +kernel, 5, carries_of (by decide +kernel), fails_ex
     (by decide +kernel), by decide +kernel⟩,
   ⟨st (put [(A.STN_CTX_CFG 9, 0x10001), (A.STN_SEG0 9 0, 0xf), (A.STN_SEG1 9 0, 1)] (mem 0x10000 [0, 0x3c, 0, 0x40, 0, 0x3c, 0, 0x40] (Cm (pk
     Op.gatherPool [(2, 1, 0x80), (4, 1, 9), (16, 8, 0x10000), (24, 8, 0x11000), (32, 4, 1), (36, 2, 4), (38, 2, 1), (40, 8, 0x12000)])))), .q 5,
     rn (pk Op.gatherPool [(2, 1, 0x80), (4, 1, 9), (16, 8, 0x10000), (24, 8, 0x11000), (32, 4, 1), (36, 2, 4), (38, 2, 1), (40, 8, 0x12000)]),
     by decide +kernel, 5, carries_of (by decide +kernel), lands_ex (by decide +kernel), by decide +kernel⟩,
   ⟨st (put [] (mem 0x10000 [0, 0x3c, 0, 0x40, 0, 0x3c, 0, 0x40] (Cm (pk Op.gatherPool [(2, 1, 0x80), (4, 1, 9), (16, 8, 0x10000), (24, 8,
     0x11000), (32, 4, 1), (36, 2, 4), (38, 2, 1), (40, 8, 0x12000)])))), .q 5, rn (pk Op.gatherPool [(2, 1, 0x80), (4, 1, 9), (16, 8, 0x10000),
     (24, 8, 0x11000), (32, 4, 1), (36, 2, 4), (38, 2, 1), (40, 8, 0x12000)]), by decide +kernel, 5, carries_of (by decide +kernel), fails_ex
     (by decide +kernel), by decide +kernel⟩,
   ⟨st (put [(A.STN_CTX_CFG 9, 0x10001), (A.STN_SEG0 9 0, 0xf), (A.STN_SEG1 9 0, 1)] (mem 0x10000 [1, 2, 3] (Cr
     [{ rn (pk Op.bitwise [(4, 1, 9), (8, 8, 4096)]) with blk := bl 128 [(0, 1, 1), (8, 8, 0x10000), (16, 8, 0x11000), (24, 8, 0x12000), (32, 8, 64)] }]))),
     .q 5,
     { rn (pk Op.bitwise [(4, 1, 9), (8, 8, 4096)]) with blk := bl 128 [(0, 1, 1), (8, 8, 0x10000), (16, 8, 0x11000), (24, 8, 0x12000), (32, 8, 64)] },
     carries_of (by decide +kernel), lands_ex (by decide +kernel)⟩,
   ⟨st (put [] (mem 0x10000 [1, 2, 3] (Cr
     [{ rn (pk Op.bitwise [(4, 1, 9), (8, 8, 4096)]) with blk := bl 128 [(0, 1, 1), (8, 8, 0x10000), (16, 8, 0x11000), (24, 8, 0x12000), (32, 8, 64)] }]))),
     .q 5,
     { rn (pk Op.bitwise [(4, 1, 9), (8, 8, 4096)]) with blk := bl 128 [(0, 1, 1), (8, 8, 0x10000), (16, 8, 0x11000), (24, 8, 0x12000), (32, 8, 64)] },
     carries_of (by decide +kernel), fails_ex (by decide +kernel)⟩,
   ⟨st (put [(A.STN_CTX_CFG 9, 0x10001), (A.STN_SEG0 9 0, 0xf), (A.STN_SEG1 9 0, 1)] (mem 0x11000 [5, 7] (mem 0x10000 [2, 3] (Cr
     [{ rn (pk Op.matmul [(4, 1, 9), (8, 8, 4096)]) with blk := bl 128 [(0, 1, 9), (1, 1, 9), (2, 1, 13), (16, 4, 1), (20, 4, 64), (24, 4, 64), (32, 8, 0x10000), (40, 8, 64), (64, 8, 0x11000), (88, 8, 0x12000), (96, 8, 256)], phase := 1 }])))),
     .q 5,
     { rn (pk Op.matmul [(4, 1, 9), (8, 8, 4096)]) with blk := bl 128 [(0, 1, 9), (1, 1, 9), (2, 1, 13), (16, 4, 1), (20, 4, 64), (24, 4, 64), (32, 8, 0x10000), (40, 8, 64), (64, 8, 0x11000), (88, 8, 0x12000), (96, 8, 256)], phase := 1 },
     carries_of (by decide +kernel), lands_ex (by decide +kernel), by decide +kernel⟩,
   ⟨st (put [] (mem 0x11000 [5, 7] (mem 0x10000 [2, 3] (Cr
     [{ rn (pk Op.matmul [(4, 1, 9), (8, 8, 4096)]) with blk := bl 128 [(0, 1, 9), (1, 1, 9), (2, 1, 13), (16, 4, 1), (20, 4, 64), (24, 4, 64), (32, 8, 0x10000), (40, 8, 64), (64, 8, 0x11000), (88, 8, 0x12000), (96, 8, 256)], phase := 1 }])))),
     .q 5,
     { rn (pk Op.matmul [(4, 1, 9), (8, 8, 4096)]) with blk := bl 128 [(0, 1, 9), (1, 1, 9), (2, 1, 13), (16, 4, 1), (20, 4, 64), (24, 4, 64), (32, 8, 0x10000), (40, 8, 64), (64, 8, 0x11000), (88, 8, 0x12000), (96, 8, 256)], phase := 1 },
     carries_of (by decide +kernel), fails_ex (by decide +kernel), by decide +kernel⟩,
   ⟨st (put [(A.STN_CTX_CFG 9, 0x10001), (A.STN_SEG0 9 0, 0xf), (A.STN_SEG1 9 0, 1)] (Cr
     [{ rn (pk Op.route [(4, 1, 9), (8, 8, 4096)]) with blk := bl 128 [(0, 4, 1), (4, 2, 1), (6, 1, 1), (64, 8, 0x20000)], phase := 5 }])), .q 5,
     { rn (pk Op.route [(4, 1, 9), (8, 8, 4096)]) with blk := bl 128 [(0, 4, 1), (4, 2, 1), (6, 1, 1), (64, 8, 0x20000)], phase := 5 }, carries_of
     (by decide +kernel), lands_ex (by decide +kernel), by decide +kernel⟩,
   ⟨st (put [] (Cr
     [{ rn (pk Op.route [(4, 1, 9), (8, 8, 4096)]) with blk := bl 128 [(0, 4, 1), (4, 2, 1), (6, 1, 1), (64, 8, 0x20000)], phase := 5 }])), .q 5,
     { rn (pk Op.route [(4, 1, 9), (8, 8, 4096)]) with blk := bl 128 [(0, 4, 1), (4, 2, 1), (6, 1, 1), (64, 8, 0x20000)], phase := 5 }, carries_of
     (by decide +kernel), fails_ex (by decide +kernel), by decide +kernel⟩⟩

/-- Inputs that meet the hypotheses of each clause of StagingAndSlots. -/
theorem witness_StagingAndSlots :
    (∃ (s : State) (q : Req) (r : Run), let d := s.dev; d.carries q Op.observe r ∧ ∃ (l : _) (tr : _), (observeTargets d r).run.run {} = (.ok l,
      tr) ∧ tr.wrs = [] ∧ d.eng.wins = []) ∧
    (∃ (s : State) (q : Req) (r : Run), let d := s.dev; ∃ (n : Fin 512), d.carries q Op.prefetchIndices r ∧ (q = .q n ∧ d.crdTurn r = true) ∧ ∃ (k
      : _) (tr : _), (prefetchWork d r).run.run {} = (.ok k, tr) ∧ tr.wrs = []) ∧
    (∃ (s : State) (q : Req) (r : Run), let d := s.dev; d.carries q Op.slotBind r ∧ ∃ (st : _) (dt : _), d.slotBindCheck r = some (st, dt)) ∧
    (∃ (s : State) (q : Req) (r : Run), let d := s.dev; d.carries q Op.slotBind r ∧ ∃ (tr : _),
      ((do let _ ← Machine.tr d r (r.par 8 8) .r; let _ ← Machine.tr d r (r.par 8 8) .w) : Rd Unit).run.run {} = (.ok (), tr) ∧ d.slotBindCheck r =
      none ∧ r.par 1 1 = 0) ∧
    (∃ (s : State) (q : Req) (r : Run), let d := s.dev; d.carries q Op.slotBind r ∧ d.slotBindCheck r = none ∧ r.par 1 1 = 1) ∧
    (∃ (s : State) (q : Req) (r : Run), let d := s.dev; d.carries q Op.slotBind r ∧ d.slotBindCheck r = none ∧ r.par 1 1 = 2) ∧
    (∃ (s : State) (q : Req) (r : Run), let d := s.dev; d.carries q Op.slotBind r ∧ d.slotBindCheck r = none ∧ r.par 1 1 = 3) :=
  ⟨⟨st
     ({ put [(A.STN_CTX_CFG 9, 0x10001), (A.STN_SEG0 9 0, 0xf), (A.STN_SEG1 9 0, 1)] (Cm (pk Op.observe [(4, 1, 9), (16, 2, 1), (32, 8, 0), (40, 8, 0x200000)])) with own := { ret := [⟨2, 5, 0, 0, 0x421, 64, 0, 0, 0, 0, 0⟩] } }),
     .q 5, rn (pk Op.observe [(4, 1, 9), (16, 2, 1), (32, 8, 0), (40, 8, 0x200000)]), carries_of (by decide +kernel), got (observeTargets
     ({ put [(A.STN_CTX_CFG 9, 0x10001), (A.STN_SEG0 9 0, 0xf), (A.STN_SEG1 9 0, 1)] (Cm (pk Op.observe [(4, 1, 9), (16, 2, 1), (32, 8, 0), (40, 8, 0x200000)])) with own := { ret := [⟨2, 5, 0, 0, 0x421, 64, 0, 0, 0, 0, 0⟩] } })
     (rn (pk Op.observe [(4, 1, 9), (16, 2, 1), (32, 8, 0), (40, 8, 0x200000)]))) [], trail (observeTargets
     ({ put [(A.STN_CTX_CFG 9, 0x10001), (A.STN_SEG0 9 0, 0xf), (A.STN_SEG1 9 0, 1)] (Cm (pk Op.observe [(4, 1, 9), (16, 2, 1), (32, 8, 0), (40, 8, 0x200000)])) with own := { ret := [⟨2, 5, 0, 0, 0x421, 64, 0, 0, 0, 0, 0⟩] } })
     (rn (pk Op.observe [(4, 1, 9), (16, 2, 1), (32, 8, 0), (40, 8, 0x200000)]))), got_eq _ _ (by decide +kernel), by decide +kernel⟩,
   ⟨st (put [(A.STN_CTX_CFG 9, 0x10001), (A.STN_SEG0 9 0, 0xf), (A.STN_SEG1 9 0, 1)] (mem 0x12004 [1] (mem 0x10000 (bl 64 [(4, 1, 4), (8, 8, 10),
     (24, 4, 8), (32, 8, 0x14000)]) (Cr
     [{ rn (pk Op.prefetchIndices [(4, 1, 9), (8, 8, 4096)]) with blk := bl 128 [(0, 8, 0x10000), (8, 8, 0x11000), (16, 8, 0x12000), (24, 4, 1), (28, 4, 1)] }])))),
     .q 5,
     { rn (pk Op.prefetchIndices [(4, 1, 9), (8, 8, 4096)]) with blk := bl 128 [(0, 8, 0x10000), (8, 8, 0x11000), (16, 8, 0x12000), (24, 4, 1), (28, 4, 1)] },
     5, carries_of (by decide +kernel), by decide +kernel, got (prefetchWork (put [(A.STN_CTX_CFG 9, 0x10001), (A.STN_SEG0 9 0, 0xf), (A.STN_SEG1 9
     0, 1)] (mem 0x12004 [1] (mem 0x10000 (bl 64 [(4, 1, 4), (8, 8, 10), (24, 4, 8), (32, 8, 0x14000)]) (Cr
     [{ rn (pk Op.prefetchIndices [(4, 1, 9), (8, 8, 4096)]) with blk := bl 128 [(0, 8, 0x10000), (8, 8, 0x11000), (16, 8, 0x12000), (24, 4, 1), (28, 4, 1)] }]))))
     ({ rn (pk Op.prefetchIndices [(4, 1, 9), (8, 8, 4096)]) with blk := bl 128 [(0, 8, 0x10000), (8, 8, 0x11000), (16, 8, 0x12000), (24, 4, 1), (28, 4, 1)] }))
     {}, trail (prefetchWork (put [(A.STN_CTX_CFG 9, 0x10001), (A.STN_SEG0 9 0, 0xf), (A.STN_SEG1 9 0, 1)] (mem 0x12004 [1] (mem 0x10000 (bl 64
     [(4, 1, 4), (8, 8, 10), (24, 4, 8), (32, 8, 0x14000)]) (Cr
     [{ rn (pk Op.prefetchIndices [(4, 1, 9), (8, 8, 4096)]) with blk := bl 128 [(0, 8, 0x10000), (8, 8, 0x11000), (16, 8, 0x12000), (24, 4, 1), (28, 4, 1)] }]))))
     ({ rn (pk Op.prefetchIndices [(4, 1, 9), (8, 8, 4096)]) with blk := bl 128 [(0, 8, 0x10000), (8, 8, 0x11000), (16, 8, 0x12000), (24, 4, 1), (28, 4, 1)] })),
     got_eq _ _ (by decide +kernel), by decide +kernel⟩,
   ⟨st (Cm (pk Op.slotBind [(4, 1, 9), (16, 1, 3), (17, 1, 4)])), .q 5, rn (pk Op.slotBind [(4, 1, 9), (16, 1, 3), (17, 1, 4)]), carries_of
     (by decide +kernel), Sc.malformed, 6, by decide +kernel⟩,
   ⟨st (sf [(A.DOM_CFG 0, F.DOM_CFG_SLOT_QUOTA, 5)] (put [(A.STN_CTX_CFG 9, 0x10001), (A.STN_SEG0 9 0, 0xf), (A.STN_SEG1 9 0, 1)] (Cr
     [{ rn (pk Op.slotBind [(4, 1, 9), (8, 8, 4096)]) with blk := bl 64 [(0, 1, 3), (8, 8, 0x10000), (16, 8, 0x55), (40, 8, 0x66)] }]))), .q 5,
     { rn (pk Op.slotBind [(4, 1, 9), (8, 8, 4096)]) with blk := bl 64 [(0, 1, 3), (8, 8, 0x10000), (16, 8, 0x55), (40, 8, 0x66)] }, carries_of
     (by decide +kernel), trail (slotReads (sf [(A.DOM_CFG 0, F.DOM_CFG_SLOT_QUOTA, 5)] (put [(A.STN_CTX_CFG 9, 0x10001), (A.STN_SEG0 9 0, 0xf),
     (A.STN_SEG1 9 0, 1)] (Cr
     [{ rn (pk Op.slotBind [(4, 1, 9), (8, 8, 4096)]) with blk := bl 64 [(0, 1, 3), (8, 8, 0x10000), (16, 8, 0x55), (40, 8, 0x66)] }])))
     ({ rn (pk Op.slotBind [(4, 1, 9), (8, 8, 4096)]) with blk := bl 64 [(0, 1, 3), (8, 8, 0x10000), (16, 8, 0x55), (40, 8, 0x66)] })), got_unit _
     (by decide +kernel), by decide +kernel⟩,
   ⟨st (sf [(A.RTE_SLOT_CFG 3, F.RTE_SLOT_CFG_STATE, 1), (A.RTE_SLOT_CFG 3, F.RTE_SLOT_CFG_CONTEXT, 9), (A.RTE_SLOT_MASK 3 0, ⟨0, 64⟩, 0x101),
     (A.DOM_USE 0, F.DOM_USE_SLOTS_BOUND, 1)] (put [(A.STN_CTX_CFG 9, 0x10001), (A.STN_SEG0 9 0, 0xf), (A.STN_SEG1 9 0, 1)] (Cr
     [{ rn (pk Op.slotBind [(4, 1, 9), (8, 8, 4096)]) with blk := bl 64 [(0, 1, 3), (1, 1, 1)] }]))), .q 5,
     { rn (pk Op.slotBind [(4, 1, 9), (8, 8, 4096)]) with blk := bl 64 [(0, 1, 3), (1, 1, 1)] }, carries_of (by decide +kernel), by decide +kernel⟩,
   ⟨st (sf [(A.RTE_SLOT_CFG 3, F.RTE_SLOT_CFG_STATE, 1), (A.RTE_SLOT_CFG 3, F.RTE_SLOT_CFG_CONTEXT, 9), (A.RTE_SLOT_MASK 3 0, ⟨0, 64⟩, 0x101),
     (A.DOM_USE 0, F.DOM_USE_SLOTS_BOUND, 1)] (put [(A.STN_CTX_CFG 9, 0x10001), (A.STN_SEG0 9 0, 0xf), (A.STN_SEG1 9 0, 1)] (Cr
     [{ rn (pk Op.slotBind [(4, 1, 9), (8, 8, 4096)]) with blk := bl 64 [(0, 1, 3), (1, 1, 2), (16, 8, 0x55), (40, 8, 0x66)] }]))), .q 5,
     { rn (pk Op.slotBind [(4, 1, 9), (8, 8, 4096)]) with blk := bl 64 [(0, 1, 3), (1, 1, 2), (16, 8, 0x55), (40, 8, 0x66)] }, carries_of
     (by decide +kernel), by decide +kernel⟩,
   ⟨st (sf [(A.RTE_SLOT_CFG 3, F.RTE_SLOT_CFG_STATE, 1), (A.RTE_SLOT_CFG 3, F.RTE_SLOT_CFG_CONTEXT, 9), (A.RTE_SLOT_MASK 3 0, ⟨0, 64⟩, 0x101),
     (A.DOM_USE 0, F.DOM_USE_SLOTS_BOUND, 1)] (put [(A.STN_CTX_CFG 9, 0x10001), (A.STN_SEG0 9 0, 0xf), (A.STN_SEG1 9 0, 1)] (Cr
     [{ rn (pk Op.slotBind [(4, 1, 9), (8, 8, 4096)]) with blk := bl 64 [(0, 1, 3), (1, 1, 3), (16, 8, 0x55), (40, 8, 0x66)] }]))), .q 5,
     { rn (pk Op.slotBind [(4, 1, 9), (8, 8, 4096)]) with blk := bl 64 [(0, 1, 3), (1, 1, 3), (16, 8, 0x55), (40, 8, 0x66)] }, carries_of
     (by decide +kernel), by decide +kernel⟩⟩

/-- Inputs that meet the hypotheses of each clause of JobsAndWindows. -/
theorem witness_JobsAndWindows :
    (∃ (s : State) (n : Fin 512) (r : Run), let d := s.dev; d.carries (.q n) Op.streamWindow r ∧ r.phase = 0 ∧ streamOk r = true ∧ d.streamModeOk n
      r = true ∧ r.par 0 1 = 0 ∧ d.admitCheck n r = none) ∧
    (∃ (s : State) (n : Fin 512) (r : Run), let d := s.dev; d.carries (.q n) Op.streamWindow r ∧ (r.phase = 0 ∧ streamOk r = true ∧ d.streamModeOk
      n r = true) ∧ ∃ (dt : _) (res : _), r.par 0 1 = 0 ∧ d.admitCheck n r = some (dt, res)) ∧
    (∃ (s : State) (n : Fin 512) (r : Run), let d := s.dev; d.carries (.q n) Op.streamWindow r ∧ (r.phase = 0 ∧ streamOk r = true ∧ d.streamModeOk
      n r = true) ∧ ∃ (dt : _) (res : _), r.par 0 1 = 0 ∧ d.admitCheck n r = some (dt, res)) ∧
    (∃ (s : State) (n : Fin 512) (r : Run), let d := s.dev; d.carries (.q n) Op.streamWindow r ∧ r.phase = 0 ∧ streamOk r = true ∧ d.streamModeOk n
      r = true ∧ r.par 0 1 = 1) ∧
    (∃ (s : State) (n : Fin 512) (r : Run), let d := s.dev; d.carries (.q n) Op.streamWindow r ∧ r.phase = 0 ∧ streamOk r = true ∧ d.streamModeOk n
      r = true ∧ r.par 0 1 = 4) ∧
    (∃ (s : State) (n : Fin 512) (r : Run), let d := s.dev; ∃ (tile : Fin 64) (w : Window) (b : Run) (layer : Nat) (i : Nat) (tg : Tgt) (ls : List
      Rline) (tr : Trail), let va := (w.layers.getD layer (0, 0)).1 + 4096 * i; let w' := { w with done := w.done ++ [(layer, i, 0, 0)] };
      (tileRead va d b).run.run {} = (.ok (tg, ls), tr) ∧ d.power < 2 ∧ d.eng.wins = [w] ∧ w.queue = n ∧ w.nextAt tile = some (layer, i) ∧ (∀ x <
      64, w'.nextAt x = none) ∧ w.first + w.count ≤ 64 ∧ (d.cmd.runs.find? fun x => x.iss == .bg n.val && x.aux == [0, tile.val, layer, i]) = some
      b ∧ d.runOf (.q n) = none) :=
  ⟨⟨st (Cr [{ rn (pk Op.streamWindow [(4, 1, 9), (8, 8, 4096)]) with blk := bl 64 [(8, 8, 4096), (16, 8, 1000)] }]), 5,
     { rn (pk Op.streamWindow [(4, 1, 9), (8, 8, 4096)]) with blk := bl 64 [(8, 8, 4096), (16, 8, 1000)] }, carries_of (by decide +kernel),
     by decide +kernel⟩,
   ⟨st (Cr [{ rn (pk Op.streamWindow [(4, 1, 9), (8, 8, 4096)]) with blk := bl 64 [(8, 8, 4194304), (16, 8, 1000)] }]), 5,
     { rn (pk Op.streamWindow [(4, 1, 9), (8, 8, 4096)]) with blk := bl 64 [(8, 8, 4194304), (16, 8, 1000)] }, carries_of (by decide +kernel),
     by decide +kernel, 0xB0, 3145728, by decide +kernel⟩,
   ⟨st (Cr [{ rn (pk Op.streamWindow [(4, 1, 9), (8, 8, 4096)]) with blk := bl 64 [(8, 8, 4096), (32, 2, 1)] }]), 5,
     { rn (pk Op.streamWindow [(4, 1, 9), (8, 8, 4096)]) with blk := bl 64 [(8, 8, 4096), (32, 2, 1)] }, carries_of (by decide +kernel),
     by decide +kernel, 0xB3, 0, by decide +kernel⟩,
   ⟨st
     { Cr [rn (pk Op.streamWindow [(4, 1, 9), (16, 1, 1)])] with eng := { jobs := [⟨5, 1, 0, 1, 0, 8192, 0, 0, 0⟩], wins := [⟨5, 0, 1, 0, 9, [(0x10000, 1)], 1, 0, 4096, []⟩] }, own := { ret := [⟨0, 5, 0, 0, 0x421, 64, 0, 0, 0, 0, 0⟩] } },
     5, rn (pk Op.streamWindow [(4, 1, 9), (16, 1, 1)]), carries_of (by decide +kernel), by decide +kernel⟩,
   ⟨st
     { Cr [rn (pk Op.streamWindow [(4, 1, 9), (16, 1, 4)])] with eng := { jobs := [⟨5, 1, 0, 1, 0, 8192, 0, 0, 0⟩], wins := [⟨5, 0, 1, 0, 9, [(0x10000, 1)], 1, 0, 4096, []⟩] }, own := { ret := [⟨0, 5, 0, 0, 0x421, 64, 0, 0, 0, 0, 0⟩] } },
     5, rn (pk Op.streamWindow [(4, 1, 9), (16, 1, 4)]), carries_of (by decide +kernel), by decide +kernel⟩,
   ⟨st (put [(A.STN_CTX_CFG 9, 0x10001), (A.STN_SEG0 9 0, 0xf), (A.STN_SEG1 9 0, 1)]
     { Cr [{ iss := .bg 5, seq := 2 ^ 33, pkt := putBits (putBits 0 24 5 0) 32 8 9, aux := [0, 0, 0, 0] }] with eng := { jobs := [⟨5, 1, 0, 1, 0, 8192, 0, 0, 0⟩], wins := [⟨5, 0, 1, 0, 9, [(0x10000, 1)], 1, 0, 4096, []⟩] } }),
     5, rn 0, 0, ⟨5, 0, 1, 0, 9, [(0x10000, 1)], 1, 0, 4096, []⟩,
     { iss := .bg 5, seq := 2 ^ 33, pkt := putBits (putBits 0 24 5 0) 32 8 9, aux := [0, 0, 0, 0] }, 0, 0, (got (tileRead (((⟨5, 0, 1, 0, 9,
     [(0x10000, 1)], 1, 0, 4096, []⟩ : Window).layers.getD 0 (0, 0)).1 + 4096 * 0) (put [(A.STN_CTX_CFG 9, 0x10001), (A.STN_SEG0 9 0, 0xf),
     (A.STN_SEG1 9 0, 1)]
     { Cr [{ iss := .bg 5, seq := 2 ^ 33, pkt := putBits (putBits 0 24 5 0) 32 8 9, aux := [0, 0, 0, 0] }] with eng := { jobs := [⟨5, 1, 0, 1, 0, 8192, 0, 0, 0⟩], wins := [⟨5, 0, 1, 0, 9, [(0x10000, 1)], 1, 0, 4096, []⟩] } })
     { iss := .bg 5, seq := 2 ^ 33, pkt := putBits (putBits 0 24 5 0) 32 8 9, aux := [0, 0, 0, 0] }) (.loc 0 0, [])).1, (got (tileRead (((⟨5, 0, 1,
     0, 9, [(0x10000, 1)], 1, 0, 4096, []⟩ : Window).layers.getD 0 (0, 0)).1 + 4096 * 0) (put [(A.STN_CTX_CFG 9, 0x10001), (A.STN_SEG0 9 0, 0xf),
     (A.STN_SEG1 9 0, 1)]
     { Cr [{ iss := .bg 5, seq := 2 ^ 33, pkt := putBits (putBits 0 24 5 0) 32 8 9, aux := [0, 0, 0, 0] }] with eng := { jobs := [⟨5, 1, 0, 1, 0, 8192, 0, 0, 0⟩], wins := [⟨5, 0, 1, 0, 9, [(0x10000, 1)], 1, 0, 4096, []⟩] } })
     { iss := .bg 5, seq := 2 ^ 33, pkt := putBits (putBits 0 24 5 0) 32 8 9, aux := [0, 0, 0, 0] }) (.loc 0 0, [])).2, trail (tileRead (((⟨5, 0,
     1, 0, 9, [(0x10000, 1)], 1, 0, 4096, []⟩ : Window).layers.getD 0 (0, 0)).1 + 4096 * 0) (put [(A.STN_CTX_CFG 9, 0x10001), (A.STN_SEG0 9 0,
     0xf), (A.STN_SEG1 9 0, 1)]
     { Cr [{ iss := .bg 5, seq := 2 ^ 33, pkt := putBits (putBits 0 24 5 0) 32 8 9, aux := [0, 0, 0, 0] }] with eng := { jobs := [⟨5, 1, 0, 1, 0, 8192, 0, 0, 0⟩], wins := [⟨5, 0, 1, 0, 9, [(0x10000, 1)], 1, 0, 4096, []⟩] } })
     { iss := .bg 5, seq := 2 ^ 33, pkt := putBits (putBits 0 24 5 0) 32 8 9, aux := [0, 0, 0, 0] }), got_pair _ _ (by decide +kernel),
     by decide +kernel⟩⟩

/-- Inputs that meet the hypotheses of each clause of RowChanges. -/
theorem witness_RowChanges :
    (∃ (s : State) (q : Req) (r : Run) (key : Nat) (n : Nat) (k : Nat) (b : Nat) (e : Rpl) (w : Repl), let d := s.dev; d.carries q Op.rowReplace r
      ∧ d.crdTurn r = true ∧ r.phase = 2 ∧ r.aux = [n, k, b, 0, 0, 0] ∧ k + b = n ∧ (∀ x ∈ d.eng.rpl, x.cur.map (·.seq) ≠ some r.seq ∧ ∀ y ∈
      x.waiting, y.seq ≠ r.seq)) ∧
    (∃ (s : State) (q : Req) (r : Run) (key : Nat) (n : Nat) (k : Nat) (b : Nat) (e : Rpl) (w : Repl), let d := s.dev; d.only r ∧ d.rplOf key =
      some e ∧ e.migr = none ∧ e.cur = some w ∧ e.waiting = [] ∧ e.step = 4 ∧ r.seq = w.seq ∧ r.cpl = none ∧ r.outs = 0 ∧ r.op = Op.rowReplace ∧
      r.phase = 2 ∧ r.aux = [n, k, b, 0, 0, 0] ∧ k + 1 + b = n) ∧
    (∃ (s : State) (q : Req) (r : Run) (key : Nat) (n : Nat) (k : Nat) (b : Nat) (e : Rpl) (w : Repl), let d := s.dev; d.carries q Op.rowMigrate r
      ∧ d.crdTurn r = true ∧ r.phase = 3 ∧ r.outs = 0 ∧ r.aux.length = 7 ∧ r.aux.getD 0 0 = key ∧ d.rplOf key = some e ∧ e.waiting = [] ∧ e.cur =
      none) ∧
    (∃ (s : State) (q : Req) (r : Run) (key : Nat) (n : Nat) (k : Nat) (b : Nat) (e : Rpl) (w : Repl), let d := s.dev; d.only r ∧ d.cmd.runs.find?
      (fun x => x.goes Op.rowMigrate && x.phase == 4 && x.aux.getD 0 0 == key) = some r) :=
  ⟨⟨st (Cr [{ rn (pk Op.rowReplace []) with phase := 2, aux := [3, 2, 1, 0, 0, 0] }]), .q 5,
     { rn (pk Op.rowReplace []) with phase := 2, aux := [3, 2, 1, 0, 0, 0] }, 0, 3, 2, 1, ⟨64, 64, [], none, none, false, 0, none⟩, ⟨3, 0, 0, 64⟩,
     carries_of (by decide +kernel), by decide +kernel⟩,
   ⟨st
     { Cr [{ rn (pk Op.rowReplace []) with phase := 2, aux := [4, 2, 1, 0, 0, 0] }] with eng := { rpl := [⟨64, 64, [], none, none, false, 4, some ⟨3, 0, 0, 64⟩⟩] } },
     .q 5, { rn (pk Op.rowReplace []) with phase := 2, aux := [4, 2, 1, 0, 0, 0] }, 64, 4, 2, 1, ⟨64, 64, [], none, none, false, 4, some ⟨3, 0, 0,
     64⟩⟩, ⟨3, 0, 0, 64⟩, (by unfold Dev.only; decide +kernel), by decide +kernel⟩,
   ⟨st
     { Cr [{ rn (pk Op.rowMigrate []) with phase := 3, aux := [64, 0, 0, 0, 0, 0, 0] }] with eng := { rpl := [⟨64, 64, [], some 3, none, false, 0, none⟩] } },
     .q 5, { rn (pk Op.rowMigrate []) with phase := 3, aux := [64, 0, 0, 0, 0, 0, 0] }, 64, 3, 2, 1, ⟨64, 64, [], some 3, none, false, 0, none⟩,
     ⟨3, 0, 0, 64⟩, carries_of (by decide +kernel), by decide +kernel⟩,
   ⟨st
     { Cr [{ rn (pk Op.rowMigrate []) with phase := 4, aux := [64, 0, 0, 0, 0xC2, 5, 20] }] with eng := { rpl := [⟨64, 64, [], none, some 20, true, 0, none⟩] } },
     .q 5, { rn (pk Op.rowMigrate []) with phase := 4, aux := [64, 0, 0, 0, 0xC2, 5, 20] }, 64, 3, 2, 1, ⟨64, 64, [], none, none, false, 0, none⟩,
     ⟨3, 0, 0, 64⟩, (by unfold Dev.only; decide +kernel), by decide +kernel⟩⟩

/-- Inputs that meet the hypotheses of each clause of SearchCommands. -/
theorem witness_SearchCommands :
    (∃ (s : State) (q : Req) (r : Run), let d := s.dev; let p := spOf r; d.carries q Op.search r ∧ r.phase = 0 ∧ p.ok = false) ∧
    (∃ (s : State) (q : Req) (r : Run), let d := s.dev; d.carries q Op.search r ∧ r.phase = 3 ∧ r.outs = 0) ∧
    (∃ (s : State) (q : Req) (r : Run), (r.phase = 0 ∧ sideFields r = false)) ∧
    (∃ (s : State) (q : Req) (r : Run), (r.phase = 3 ∧ r.outs = 0)) ∧
    (∃ (s : State) (q : Req) (r : Run), (r.phase = 0 ∧ sideFields r = false)) ∧
    (∃ (s : State) (q : Req) (r : Run), (r.phase = 3 ∧ r.outs = 0)) ∧
    (∃ (s : State) (q : Req) (r : Run), let d := s.dev; d.carries q Op.merge r ∧ ∃ (x : _) (tr : _), (openIndex d r true (r.par 0 8)).run.run {} =
      (.ok x, tr) ∧ r.phase = 0 ∧ r.par 0 8 % 64 = 0 ∧ tr.wrs = [] ∧ ((hdrOf x.2).kind = 1 → 16 ≤ r.par 8 2 ∧ r.par 8 2 ≤ 4096) ∧ d.merging r.seq
      x.1 = false ∧ d.canTrack x.1 = true) ∧
    (∃ (s : State) (q : Req) (r : Run), let d := s.dev; d.carries q Op.merge r ∧ r.phase = 3 ∧ r.outs = 0) ∧
    (∃ (s : State) (q : Req) (r : Run), let d := s.dev; d.carries q Op.merge r ∧ r.phase = 4 ∧ (∀ x ∈ d.cmd.runs, x.seq ∈ r.aux.drop 6 →
      x.cpl.isSome = true)) :=
  ⟨⟨st (Cr [rn (pk Op.search [(16, 1, 2)])]), .q 5, rn (pk Op.search [(16, 1, 2)]), carries_of (by decide +kernel), by decide +kernel⟩,
   ⟨st (Cr [{ rn (pk Op.search [(18, 2, 1), (20, 2, 1)]) with phase := 3, aux := [0, 7, 8, 9] }]), .q 5,
     { rn (pk Op.search [(18, 2, 1), (20, 2, 1)]) with phase := 3, aux := [0, 7, 8, 9] }, carries_of (by decide +kernel), by decide +kernel⟩,
   ⟨st (Cr [rn (pk Op.sideAppend [(16, 1, 2)])]), .q 5, rn (pk Op.sideAppend [(16, 1, 2)]), by decide +kernel⟩,
   ⟨st (Cr [{ rn (pk Op.sideAppend [(32, 2, 4)]) with phase := 3 }]), .q 5, { rn (pk Op.sideAppend [(32, 2, 4)]) with phase := 3 },
     by decide +kernel⟩,
   ⟨st (Cr [rn (pk Op.sideDelete [(16, 1, 2)])]), .q 5, rn (pk Op.sideDelete [(16, 1, 2)]), by decide +kernel⟩,
   ⟨st (Cr [{ rn (pk Op.sideDelete [(32, 2, 4)]) with phase := 3 }]), .q 5, { rn (pk Op.sideDelete [(32, 2, 4)]) with phase := 3 },
     by decide +kernel⟩,
   ⟨st (mem 0x10000 (lineBytes (hdrLine
     { kind := 0, deg := 0, wq := 1, cur := 0, n := 0, cap := 16, sideCap := 4, seq := 0, base := 0, buf0 := 0x11000, buf1 := 0x12000, side := 0x13000, entry := 0 }))
     (put [(A.STN_CTX_CFG 9, 0x10001), (A.STN_SEG0 9 0, 0xf), (A.STN_SEG1 9 0, 1)] (Cr [rn (pk Op.merge [(4, 1, 9), (16, 8, 0x10000)])]))), .q 5,
     rn (pk Op.merge [(4, 1, 9), (16, 8, 0x10000)]), carries_of (by decide +kernel), got (openIndex (mem 0x10000 (lineBytes (hdrLine
     { kind := 0, deg := 0, wq := 1, cur := 0, n := 0, cap := 16, sideCap := 4, seq := 0, base := 0, buf0 := 0x11000, buf1 := 0x12000, side := 0x13000, entry := 0 }))
     (put [(A.STN_CTX_CFG 9, 0x10001), (A.STN_SEG0 9 0, 0xf), (A.STN_SEG1 9 0, 1)] (Cr [rn (pk Op.merge [(4, 1, 9), (16, 8, 0x10000)])]))) (rn (pk
     Op.merge [(4, 1, 9), (16, 8, 0x10000)])) true ((rn (pk Op.merge [(4, 1, 9), (16, 8, 0x10000)])).par 0 8)) (0, 0), trail (openIndex (mem
     0x10000 (lineBytes (hdrLine
     { kind := 0, deg := 0, wq := 1, cur := 0, n := 0, cap := 16, sideCap := 4, seq := 0, base := 0, buf0 := 0x11000, buf1 := 0x12000, side := 0x13000, entry := 0 }))
     (put [(A.STN_CTX_CFG 9, 0x10001), (A.STN_SEG0 9 0, 0xf), (A.STN_SEG1 9 0, 1)] (Cr [rn (pk Op.merge [(4, 1, 9), (16, 8, 0x10000)])]))) (rn (pk
     Op.merge [(4, 1, 9), (16, 8, 0x10000)])) true ((rn (pk Op.merge [(4, 1, 9), (16, 8, 0x10000)])).par 0 8)), got_eq _ _ (by decide +kernel),
     by decide +kernel⟩,
   ⟨st (Cr [{ rn (pk Op.merge []) with phase := 3, aux := [64, 1, 2, 3, 4, 5] }]), .q 5,
     { rn (pk Op.merge []) with phase := 3, aux := [64, 1, 2, 3, 4, 5] }, carries_of (by decide +kernel), by decide +kernel⟩,
   ⟨st (Cr [{ rn (pk Op.merge []) with phase := 4, aux := [64, 1, 2, 3, 4, 5, 9] }]), .q 5,
     { rn (pk Op.merge []) with phase := 4, aux := [64, 1, 2, 3, 4, 5, 9] }, carries_of (by decide +kernel), by decide +kernel⟩⟩

end Sys2Proof.Tests
end

section
/-! PROOFS. Every command is a meaning on a guard, so what every meaning keeps every step keeps; what the canonical form says of the registers. -/

namespace Sys2Proof.Machine

/-- Every command is the run of a meaning, guarded by its operands being well-formed. -/
theorem exec_eq_runIf (c : Instr) (s : State) : ∃ m, exec c s = s.runIf c.wf m := by
  cases c <;> exact ⟨_, rfl⟩

/-- A command that answers a next state is well-formed, and that state is the run of a meaning on the device. -/
theorem exec_eq_next {c : Instr} {s t : State} (h : exec c s = .next t) : c.wf = true ∧ ∃ m, t = { s with dev := s.dev.run m } := by
  obtain ⟨m, hm⟩ := exec_eq_runIf c s
  rw [hm, State.runIf] at h
  split at h
  · exact ⟨‹_›, m, (Host.Outcome.next.inj h).symm⟩
  · cases h

/-- A step leaves the device as it is or runs one meaning on it. -/
theorem step_dev {s t : State} (h : step s = .next t) : t.dev = s.dev ∨ ∃ m, t.dev = s.dev.run m := by
  unfold step at h
  split at h
  · cases h; exact .inl rfl
  · obtain ⟨-, m, rfl⟩ := exec_eq_next h
    exact .inr ⟨m, rfl⟩

/-- Settles O3: a step is at most the run of one meaning, and every meaning keeps the canonical form. -/
theorem stepKeepsStateWellFormed : Obligations.StepKeepsStateWellFormed := by
  intro s t hs h
  obtain heq | ⟨m, heq⟩ := step_dev h
  · exact (congrArg Dev.wf heq).trans hs
  · exact (congrArg Dev.wf heq).trans (Dev.run_wf m hs)

/-- A table reads its default or lists what it reads. -/
theorem tget_eq_default_or_mem {α : Type} (d : α) (t : Tbl α) (a : Nat) : tget d t a = d ∨ (a, tget d t a) ∈ t := by
  induction t with
  | nil => exact .inl rfl
  | cons e t ih =>
    obtain ⟨k, v⟩ := e
    rw [tget_cons]
    split
    · subst_vars; exact .inr List.mem_cons_self
    · exact ih.imp_right (List.mem_cons_of_mem _)

theorem rstVal_of_unassigned {a : Nat} (h : assigned a = false) : rstVal a = 0 := by
  have hcfg : a ≠ A.DOM_CFG 0 := by rintro rfl; exact absurd h (by decide +kernel)
  have huse : a ≠ A.DOM_USE 0 := by rintro rfl; exact absurd h (by decide +kernel)
  have hnone : regAt a = none := Option.isNone_iff_eq_none.mp (by simpa [assigned] using h)
  simp [rstVal, hcfg, huse, hnone]

/-- A register of a well-formed device reads its Reset value, or is assigned and reads no bit that it does not store. -/
theorem Dev.reg_of_wf {d : Dev} (h : d.wf = true) (a : Nat) :
    d.reg a = rstVal a ∨ assigned a = true ∧ d.reg a &&& readMask a = d.reg a := by
  obtain ⟨-, hregs⟩ := Bool.and_eq_true_iff.mp h
  obtain ⟨-, hall⟩ := (Regs.wf_iff d.csr).mp hregs
  exact (tget_eq_default_or_mem (rstVal a) d.csr a).imp_right fun hmem => (hall _ hmem).1

/-- Settles O5: what a listed register may hold, and what an unlisted one reads. -/
theorem reservedBitsHoldNothing : Obligations.ReservedBitsHoldNothing := by
  intro s hs
  refine ⟨fun a => (Dev.reg_of_wf hs a).imp_right And.right, fun a ha => ?_⟩
  obtain hrst | ⟨hassigned, -⟩ := Dev.reg_of_wf hs a
  · rw [hrst, rstVal_of_unassigned ha]
  · simp [ha] at hassigned

/-- Settles O2: the tables of the device after reset are empty, so every register and byte reads its default. -/
theorem resetState : Obligations.ResetState := by
  exact ⟨rfl, rfl, rfl, fun a => tget_nil (rstVal a) a, fun a => tget_nil 0 a⟩

end Sys2Proof.Machine
end

section
/-! PROOFS. Register accesses: what a read shows and what a write stores, where the register has no effect of its own. -/

namespace Sys2Proof.Machine

/-! ## From a meaning to a completed command -/

/-- A command that runs a meaning completes with the device that the meaning's log makes of the device. -/
theorem completes_run {c : Instr} {s : State} {m : M Unit} {w : Work} {e : Dev} {post : State → Prop} (hexec : exec c s = s.run m)
    (hpost : M.post m ⟨s.dev, []⟩ = w) (hlog : s.dev.replay w.log = e) (h : post { s with dev := e }) : Completes c s post := by
  refine ⟨_, hexec, ?_⟩
  rw [Dev.run_eq, hpost, hlog]
  exact h

/-- The same for a command whose operands are checked. -/
theorem completes_runIf {c : Instr} {s : State} {ok : Bool} {m : M Unit} {w : Work} {e : Dev} {post : State → Prop}
    (hexec : exec c s = s.runIf ok m) (hok : ok = true) (hpost : M.post m ⟨s.dev, []⟩ = w) (hlog : s.dev.replay w.log = e)
    (h : post { s with dev := e }) : Completes c s post :=
  completes_run (by rw [hexec, hok]; rfl) hpost hlog h

theorem post_each_of_fixed {α : Type} {l : List α} {f : α → M Unit} {w : Work} (h : ∀ a ∈ l, M.post (f a) w = w) :
    M.post (each l f) w = w := by
  induction l with
  | nil => rfl
  | cons a l ih => simp [h a, ih fun b hb => h b (List.mem_cons_of_mem a hb)]

/-- A store of one register changes that register at most. -/
theorem changes_csr (parts : List Part) {regs : Nat → Prop} {a : Nat} {v : Word} {d e : Dev} (ha : regs a) (h : Changes parts regs d e) :
    Changes parts regs d ((Upd.csr a v).apply e) :=
  Foot.changes (u := .csr a v) ha h

section
variable {parts : List Part} {regs : Nat → Prop} {d e : Dev} (h : Changes parts regs d e)
include h

theorem changes_cmd {x : CmdSt} (hcmd : Part.cmd ∈ parts) : Changes parts regs d ((Upd.cmd x).apply e) := Foot.changes (u := .cmd x) hcmd h
theorem changes_sys {x : SysSt} (hsys : Part.sys ∈ parts) : Changes parts regs d ((Upd.sys x).apply e) := Foot.changes (u := .sys x) hsys h

end

/-! ## Refusals -/

theorem addrRefusal_of_writeRefusal {d : Dev} {a : Nat} {m : Word} (h : d.writeRefusal a m = none) : addrRefusal a = none := by
  unfold Dev.writeRefusal at h
  split at h
  · cases h
  · split at h
    · cases h
    · assumption

theorem assigned_of_addrRefusal {a : Nat} (h : addrRefusal a = none) : assigned a = true := by
  unfold addrRefusal at h
  split_ifs at h with _ _ hassigned
  simpa using hassigned

theorem assigned_of_writeRefusal {d : Dev} {a : Nat} {m : Word} (h : d.writeRefusal a m = none) : assigned a = true :=
  assigned_of_addrRefusal (addrRefusal_of_writeRefusal h)

/-! ## Reads -/

/-- A plain register's read looks at what the register shows. -/
theorem readReg_plain {a : Nat} (h : plainRead a) : readReg a = look fun d => d.shows a := by
  obtain ⟨-, hbase⟩ := h
  simp only [List.mem_cons, List.not_mem_nil, or_false, not_or] at hbase
  funext w
  by_cases hd : w.dev.inDownHalf a <;>
    simp [readReg, look, Dev.shows, hbase, hd, dev, bind, StateT.bind, get, getThe, MonadStateOf.get, StateT.get, pure, StateT.pure]

/-! ## Writes -/

theorem le_last_of_regAt {a : Nat} {g : RegDef} (h : regAt a = some g) : a ≤ g.last := by
  have hits := List.find?_some h
  simp only [RegDef.hits, Bool.and_eq_true, Nat.ble_eq] at hits
  exact hits.1.2

/-- No register above the AON and command blocks has the base of one in them. -/
theorem regBase_ne_of_low {a b : Nat} (hlow : ∀ g ∈ regDefs, g.base = b → g.last < a) (hb : b ≠ 2 ^ 24) : regBase a ≠ b := by
  unfold regBase
  split
  case h_1 g hg =>
    intro hbase
    have hlast := hlow g (List.mem_of_find?_eq_some hg) hbase
    have hle := le_last_of_regAt hg
    omega
  case h_2 => exact hb.symm

theorem regBase_ne_therm {a : Nat} (h : 0x58000 ≤ a) : regBase a ≠ A.PWR_THERM_CFG :=
  regBase_ne_of_low (fun g hg hb => Nat.lt_of_lt_of_le
    ((by decide +kernel : ∀ g ∈ regDefs, g.base = A.PWR_THERM_CFG → g.last < 0x58000) g hg hb) h) (by decide)

theorem canonReg_plain {a : Nat} (h : plainWrite a) (v : Word) : canonReg a v = v := by
  obtain ⟨hlo, hbase⟩ := h
  simp only [List.mem_cons, List.not_mem_nil, or_false, not_or] at hbase
  simp [canonReg, hbase, regBase_ne_therm hlo]

/-- The value that a write stores in a plain register, before the bits that the register does not store are dropped. -/
def storedBits (a : Nat) (old v m : Word) : Word :=
  ((old &&& ~~~(rwMask a &&& m)) ||| (v &&& (rwMask a &&& m))) &&& ~~~(v &&& m &&& w1cMask a)

theorem reg_storedBits {a : Nat} (ha : assigned a = true) (old v m : Word) (d : Dev) :
    ((Upd.csr a (storedBits a old v m)).apply d).reg a = written a old v m := by
  simp [ha, storedBits, written]

theorem post_storeBits_plain {a : Nat} (h : plainWrite a) (v m : Word) (w : Work) :
    M.post (storeBits a v m) w = w.add (.csr a (storedBits a (w.dev.reg a) v m)) := by
  have hthr : (a == A.PWR_THROTTLE_CNT) = false := by
    have := h.1
    simp only [A.PWR_THROTTLE_CNT, beq_eq_false_iff_ne]
    omega
  simp [storeBits, hthr, canonReg_plain h, storedBits]

theorem post_act_plain {a : Nat} (h : plainWrite a) (old x m : Word) (w : Work) : M.post (act a old x m) w = w := by
  obtain ⟨hlo, hbase⟩ := h
  simp only [List.mem_cons, List.not_mem_nil, or_false, not_or] at hbase
  have haon : ¬ a < 0x50000 := by omega
  have hcmd : ¬ a < 0x58000 := by omega
  have hrate : isRateReg (regBase a) = false := by simp [isRateReg, hbase]
  simp [act, haon, hcmd, hrate, actLinks, hbase]

/-- A write to a register in a half held in reset is ignored. -/
theorem post_writeReg_down {a : Nat} {w : Work} (h : w.dev.inDownHalf a = true) (v m : Word) : M.post (writeReg a v m) w = w := by
  simp [writeReg, h]

/-- A write to a plain register stores its bits and does nothing else. -/
theorem post_writeReg_plain {a : Nat} {w : Work} (h : plainWrite a) (hup : w.dev.inDownHalf a = false) (v m : Word) :
    M.post (writeReg a v m) w = w.add (.csr a (storedBits a (w.dev.reg a) v m)) := by
  simp [writeReg, hup, post_storeBits_plain h, post_act_plain h]

end Sys2Proof.Machine
end

section
/-! PROOFS. A message of a host that is no violation, the answers that leave for it, and the paths to the registers from outside (O31). -/

namespace Sys2Proof.Machine

/-! ## Places of a list that grows -/

theorem getD_putAt_self (l : List Nat) (i n : Nat) : (putAt l i n).getD i 0 = n := by
  have hlt : i < (l ++ List.replicate (i + 1 - l.length) 0).length := by simp; omega
  simp [putAt, List.getD_eq_getElem?_getD, List.getElem?_set_self hlt]

theorem putAt_putAt (l : List Nat) (i m n : Nat) : putAt (putAt l i m) i n = putAt l i n := by
  have hlen : i + 1 - (putAt l i m).length = 0 := by simp [putAt]; omega
  rw [putAt, hlen]
  simp [putAt]

/-! ## The receive buffer -/

/-- A link after a message of a size has come and has given up its place: its units are owed as credits. -/
def Link.heard (l : Link) (vc size : Nat) : Link :=
  { l with rxUsed := putAt l.rxUsed vc (l.rxUsed.getD vc 0), rxOwed := putAt l.rxOwed vc (l.rxOwed.getD vc 0 + size / 16) }

/-- What the links read after one of them has been set, if it exists. -/
theorem Dev.link_of_set {d e : Dev} {p : Nat} {x : Link} (h : e.links = d.links.set p x) (q : Nat) :
    e.link q = if p = q ∧ q < d.links.length then x else d.link q := by
  simp only [Dev.link, h, List.getD_eq_getElem?_getD, List.getElem?_set]
  by_cases hp : p = q
  · subst hp
    by_cases hlt : p < d.links.length <;> simp [hlt]
  · simp [hp]

/-- A work after a message has taken its place in the receive buffer and given it up. -/
def Work.heard (w : Work) (port vc size : Nat) : Work := M.post (rxFree port vc size) (M.post (rxTake port vc size) w)

theorem Work.heard_log (w : Work) (port vc size : Nat) (d : Dev) (h : d.replay w.log = w.dev) :
    d.replay (w.heard port vc size).log = (w.heard port vc size).dev := by
  simp [Work.heard, rxFree, rxTake, h]

/-- Only the link of the port changes: it has heard the message. -/
theorem Work.heard_dev (w : Work) (port vc size : Nat) :
    (w.heard port vc size).dev = (Upd.links (w.dev.links.set port ((w.dev.link port).heard vc size))).apply w.dev := by
  simp only [Work.heard, rxFree, rxTake, post_modLink, Work.add_dev, Upd.links_links, List.set_set, Dev.link_of_set (Upd.links_links _ w.dev)]
  by_cases hlt : port < w.dev.links.length
  · simp only [hlt, and_self, if_true, getD_putAt_self, putAt_putAt, Nat.add_sub_cancel, Link.heard]
    rfl
  · simp only [List.set_eq_of_length_le (Nat.le_of_not_lt hlt)]
    rfl

/-! ## Quarantine for violations -/

/-- Whether a port is about to be quarantined is a matter of its configuration and of the violations that its link has counted. -/
theorem calm_of_counts {d e : Dev} (h : d.calm) (hcfg : ∀ q < 4, e.reg (A.TLK_VIOL_CFG q) = d.reg (A.TLK_VIOL_CFG q))
    (hcounts : ∀ q, (e.link q).viol = (d.link q).viol ∧ (e.link q).winEnd = (d.link q).winEnd) : e.calm := by
  intro q hq
  simpa [Dev.overThreshold, Dev.violCfg, hq, hcfg q hq, hcounts q] using h q hq

theorem post_checkTlkPorts_calm {w : Work} (h : w.dev.calm) : M.post checkTlkPorts w = w :=
  post_each_of_fixed fun q hq => by simp [checkQuarantine, h q (List.mem_range.mp hq)]

/-- A link that has heard a message has the violations and the window that it had. -/
theorem Heard.counts {d e : Dev} {p vc size : Nat} (h : Heard p vc size d e) (q : Nat) :
    (e.link q).viol = (d.link q).viol ∧ (e.link q).winEnd = (d.link q).winEnd := by
  rw [Dev.link_of_set h q]
  split
  · obtain ⟨rfl, -⟩ := ‹_›
    exact ⟨rfl, rfl⟩
  · exact ⟨rfl, rfl⟩

/-! ## A message of a host -/

/-- A chain of checks that finds no fault has passed the first. -/
theorem passed_of_ite_none {α : Type} {c : Prop} [Decidable c] {x : α} {rest : Option α} (h : (if c then some x else rest) = none) :
    ¬c ∧ rest = none := by
  split at h
  · cases h
  · exact ⟨‹_›, h⟩

theorem overrun_of_tlkViolation {d : Dev} {p : Nat} {i : TIn} (h : d.tlkViolation p i = none) : d.overrun p i.vc (tmsgSize i.m) = false := by
  obtain ⟨-, htype⟩ := passed_of_ite_none h
  obtain ⟨-, hclean⟩ := passed_of_ite_none htype
  obtain ⟨-, hlen⟩ := passed_of_ite_none hclean
  obtain ⟨-, haligned⟩ := passed_of_ite_none hlen
  obtain ⟨-, hvc⟩ := passed_of_ite_none haligned
  exact Bool.eq_false_of_not_eq_true (passed_of_ite_none hvc).1

/-- A host's message over a link that is UP, which is no violation, gives up its place in the receive buffer and acts; where no port is then
about to be quarantined, that is all. -/
theorem post_hostMsg_valid {p : Nat} {i : TIn} {w w' : Work} {act : M Unit} (hup : w.dev.portState p = Ps.up)
    (hvalid : w.dev.tlkViolation p i = none) (hinbox : (w.dev.link p).inbox = []) (served : Bool)
    (hact : M.post act (w.heard p i.vc (tmsgSize i.m)) = w') (hcalm : w'.dev.calm) : M.post (hostMsg p i served false act) w = w' := by
  have hlink : w.dev.linkState p = Ps.up := by simp [Dev.linkState, hup]
  have hawake : (Ps.up == Ps.lowPower) = false := rfl
  rw [Work.heard] at hact
  simp [hostMsg, hlink, hawake, hup, hvalid, isUpState, takeInbox, hinbox, overrun_of_tlkViolation hvalid, hact, post_checkTlkPorts_calm hcalm]

/-! ## Management answers -/

/-- The class queues with one message more. -/
def TrfSt.queue (t : TrfSt) (x : Egr) : TrfSt := { t with classq := t.classq ++ [x] }

/-- A message of the management class goes behind the others in the class queues (R319, R323). -/
theorem post_sendTlk_mg {m : TMsg} (h : tlkClass m = 0) (p : Nat) (dom : Option Nat) (w : Work) :
    M.post (sendTlk p dom m) w = w.add (.trf (w.dev.trf.queue (w.dev.tlkEgr p dom m))) := by
  simp [sendTlk, enqueue, Dev.tlkEgr, h, TrfSt.queue]

/-- A device that has heard a message on a port and has queued a message of its own. -/
def Dev.heardAndQueued (d : Dev) (p vc size : Nat) (x : Egr) : Dev :=
  (Upd.trf (d.trf.queue x)).apply ((Upd.links (d.links.set p ((d.link p).heard vc size))).apply d)

section
variable (d : Dev) (p vc size : Nat) (x : Egr)

theorem Dev.heard_heardAndQueued : Heard p vc size d (d.heardAndQueued p vc size x) := rfl

theorem Dev.queued_heardAndQueued (h : x.dom = none) : Queued x d (d.heardAndQueued p vc size x) :=
  ⟨fun _ => ⟨rfl, rfl⟩, by simp [h]⟩

theorem Dev.changes_heardAndQueued (regs : Nat → Prop) : Changes [.trf, .links] regs d (d.heardAndQueued p vc size x) :=
  Foot.changes (u := .trf _) (by simp [Foot]) (Foot.changes (u := .links _) (by simp [Foot]) (Changes.refl ..))

theorem Dev.calm_heardAndQueued (h : d.calm) : (d.heardAndQueued p vc size x).calm :=
  calm_of_counts h (fun _ _ => rfl) (d.heard_heardAndQueued p vc size x).counts

/-- A work that has heard a message and queued one of its own. -/
def Work.heardAndQueued (w : Work) : Work := (w.heard p vc size).add (.trf ((w.heard p vc size).dev.trf.queue x))

theorem Work.heardAndQueued_dev (w : Work) : (w.heardAndQueued p vc size x).dev = w.dev.heardAndQueued p vc size x := by
  rw [Work.heardAndQueued, Work.add_dev, Work.heard_dev]
  rfl

theorem replay_heardAndQueued : d.replay (Work.heardAndQueued p vc size x ⟨d, []⟩).log = d.heardAndQueued p vc size x := by
  rw [Work.heardAndQueued, Work.add_log, Dev.replay_cons, Work.heard_log _ _ _ _ _ rfl, ← Work.add_dev]
  exact Work.heardAndQueued_dev p vc size x ⟨d, []⟩

end

end Sys2Proof.Machine
end

section
/-! PROOFS. Register accesses from outside, path by path. -/

namespace Sys2Proof.Machine

/-! ## REGISTER_WRITE -/

theorem registerWrite_stores {s : State} {a : Nat} {v m : Word} (hok : s.dev.writeRefusal a m = none) (hup : s.dev.inDownHalf a = false)
    (hp : plainWrite a) : Completes (.registerWrite a v m) s fun t =>
      t.dev.reg a = written a (s.dev.reg a) v m ∧ Changes [] (· = a) s.dev t.dev := by
  have hpost : M.post (registerWrite a v m) ⟨s.dev, []⟩ = Work.add ⟨s.dev, []⟩ (.csr a (storedBits a (s.dev.reg a) v m)) := by
    simp [registerWrite, hok, post_writeReg_plain hp (w := ⟨s.dev, []⟩) hup]
  exact completes_run rfl hpost rfl
    ⟨reg_storedBits (assigned_of_writeRefusal hok) .., changes_csr [] rfl (Changes.refl ..)⟩

theorem registerWrite_refused {s : State} {a : Nat} {v m : Word} (h : s.dev.writeRefusal a m ≠ none ∨ s.dev.inDownHalf a = true) :
    Completes (.registerWrite a v m) s fun t => t = s := by
  have hpost : M.post (registerWrite a v m) ⟨s.dev, []⟩ = ⟨s.dev, []⟩ := by
    obtain hrefused | hdown := h
    · simp [registerWrite, Option.isNone_eq_false_iff.mpr (Option.isSome_iff_ne_none.mpr hrefused)]
    · simp [registerWrite, post_on, post_writeReg_down (w := ⟨s.dev, []⟩) hdown]
  exact completes_run rfl hpost rfl rfl

/-! ## The management window (R265) -/

theorem post_windowRead_plain {p : Nat} {m : TMsg} {w : Work} (hplain : plainRead (unitWord m 0).toNat)
    (hallow : w.dev.windowAllows p (unitWord m 0).toNat false = true) (hmin : w.dev.minimal = false) :
    M.post (windowRead p m) w = w.add (.trf (w.dev.trf.queue
      (w.dev.tlkEgr p none { type := 0x60, tag := m.tag, units := [(w.dev.shows (unitWord m 0).toNat).setWidth 128] }))) := by
  simp [windowRead, hallow, hmin, hplain.1, readReg_plain hplain, mwData, post_sendTlk_mg, tlkClass]

/-- A wake event does nothing to a device that is awake (R540). -/
theorem post_wakeEvent_awake {w : Work} (h : w.dev.awake) (src : Nat) : M.post (wakeEvent src) w = w := by
  obtain ⟨hpower, hp3, hreq⟩ := h
  have h2 : w.dev.power ≠ 2 := by omega
  have h3 : w.dev.power ≠ 3 := by omega
  simp [wakeEvent, h2, h3, hp3, hreq]

theorem post_windowWrite_plain {p : Nat} {m : TMsg} {w : Work} (hplain : plainWrite (unitWord m 0).toNat)
    (hallow : w.dev.windowAllows p (unitWord m 0).toNat true = true) (hmin : w.dev.minimal = false)
    (hok : w.dev.writeRefusal (unitWord m 0).toNat (BitVec.allOnes 64) = none) (hup : w.dev.inDownHalf (unitWord m 0).toNat = false)
    (hawake : w.dev.awake) :
    M.post (windowWrite p m) w = (w.add (.trf (w.dev.trf.queue (w.dev.tlkEgr p none { type := 0x61, tag := m.tag })))).add
      (.csr (unitWord m 0).toNat (storedBits (unitWord m 0).toNat (w.dev.reg (unitWord m 0).toNat) (unitWord m 1) (unitWord m 2))) := by
  have hsent : M.post (mwAck p m.tag (0, 0)) w =
      w.add (.trf (w.dev.trf.queue (w.dev.tlkEgr p none { type := 0x61, tag := m.tag }))) := by
    simp [mwAck, post_sendTlk_mg, tlkClass]
  have hwake : ∀ x, M.post (wakeEvent 2) (w.add (.trf x)) = w.add (.trf x) := fun x => post_wakeEvent_awake (w := w.add (.trf x)) hawake 2
  have hwrite : ∀ x, M.post (writeReg (unitWord m 0).toNat (unitWord m 1) (unitWord m 2)) (w.add (.trf x)) = (w.add (.trf x)).add
      (.csr (unitWord m 0).toNat (storedBits (unitWord m 0).toNat (w.dev.reg (unitWord m 0).toNat) (unitWord m 1) (unitWord m 2))) :=
    fun x => post_writeReg_plain (w := w.add (.trf x)) hplain hup _ _
  simp [windowWrite, hallow, hmin, hok, hsent, post_on, hwake, hwrite, -BitVec.reduceAllOnes]

/-- MW_READ hears its message and queues its answer. -/
theorem post_mwReadRow_plain {p : Nat} {i : TIn} {d : Dev} (hup : d.portState p = Ps.up) (hvalid : d.tlkViolation p i = none)
    (hcalm : d.calm) (hinbox : (d.link p).inbox = []) (hplain : plainRead (unitWord i.m 0).toNat)
    (hallow : d.windowAllows p (unitWord i.m 0).toNat false = true) (hmin : d.minimal = false) :
    M.post (mwReadRow p i) ⟨d, []⟩ = Work.heardAndQueued p i.vc (tmsgSize i.m)
      (d.tlkEgr p none { type := 0x60, tag := i.m.tag, units := [(d.shows (unitWord i.m 0).toNat).setWidth 128] }) ⟨d, []⟩ := by
  have hw := Work.heard_dev ⟨d, []⟩ p i.vc (tmsgSize i.m)
  refine post_hostMsg_valid (w := ⟨d, []⟩) hup hvalid hinbox _ ?_ (by rw [Work.heardAndQueued_dev]; exact Dev.calm_heardAndQueued _ _ _ _ _ hcalm)
  rw [post_windowRead_plain hplain (by rw [hw]; exact hallow) (by rw [hw]; exact hmin), Work.heardAndQueued, hw]
  rfl

/-- The violation windows of the Talku ports are no plain registers. -/
theorem violCfg_ne_of_plainWrite {a q : Nat} (h : plainWrite a) (hq : q < 4) : A.TLK_VIOL_CFG q ≠ a := by
  rintro rfl
  have hbase : ∀ q < 4, regBase (A.TLK_VIOL_CFG q) = A.TLK_VIOL_CFG 0 := by decide +kernel
  simp [plainWrite, hbase q hq] at h

/-- A write of a plain register brings no port to its quarantine. -/
theorem calm_csr_plain {a : Nat} (hp : plainWrite a) (v : Word) {d : Dev} (h : d.calm) : ((Upd.csr a v).apply d).calm :=
  calm_of_counts h (fun q hq => by simp [violCfg_ne_of_plainWrite hp hq]) fun q => by simp [Dev.link]

/-- MW_WRITE of a device that is awake hears its message, queues its answer and stores the bits of its mask. -/
theorem post_mwWriteRow_plain {p : Nat} {i : TIn} {d : Dev} (hup : d.portState p = Ps.up) (hvalid : d.tlkViolation p i = none)
    (hcalm : d.calm) (hinbox : (d.link p).inbox = []) (hplain : plainWrite (unitWord i.m 0).toNat)
    (hallow : d.windowAllows p (unitWord i.m 0).toNat true = true) (hmin : d.minimal = false)
    (hok : d.writeRefusal (unitWord i.m 0).toNat (BitVec.allOnes 64) = none) (hhalf : d.inDownHalf (unitWord i.m 0).toNat = false)
    (hawake : d.awake) (hbefore : d.writesBefore p = false) :
    M.post (mwWriteRow p i) ⟨d, []⟩ =
      (Work.heardAndQueued p i.vc (tmsgSize i.m) (d.tlkEgr p none { type := 0x61, tag := i.m.tag }) ⟨d, []⟩).add
        (.csr (unitWord i.m 0).toNat (storedBits (unitWord i.m 0).toNat (d.reg (unitWord i.m 0).toNat) (unitWord i.m 1) (unitWord i.m 2))) := by
  have hwaits : d.windowWaits p i = false := by simp [Dev.windowWaits, hbefore]
  have hw := Work.heard_dev ⟨d, []⟩ p i.vc (tmsgSize i.m)
  simp only [mwWriteRow, post_bind, val_dev, post_dev, hwaits, Bool.false_eq_true, if_false]
  refine post_hostMsg_valid (w := ⟨d, []⟩) hup hvalid hinbox _ ?_ ?_
  · rw [post_windowWrite_plain hplain (by rw [hw]; exact hallow) (by rw [hw]; exact hmin) (by rw [hw]; exact hok) (by rw [hw]; exact hhalf)
      (by rw [hw]; exact hawake), Work.heardAndQueued, hw]
    rfl
  · rw [Work.add_dev, Work.heardAndQueued_dev]
    exact calm_csr_plain hplain _ (Dev.calm_heardAndQueued _ _ _ _ _ hcalm)

section
variable {s : State} {p : Fin 4} {i : TIn} (hup : s.dev.portState p = Ps.up) (hvalid : s.dev.tlkViolation p i = none)
  (hcalm : s.dev.calm) (hinbox : (s.dev.link p).inbox = [])
include hup hvalid hcalm hinbox

theorem mwRead_answers (htakes : rowTakes 0x20 i = true) (hplain : plainRead (unitWord i.m 0).toNat)
    (hallow : s.dev.windowAllows p (unitWord i.m 0).toNat false = true) (hmin : s.dev.minimal = false) :
    Completes (.mwRead p i) s fun t =>
      Queued (s.dev.tlkEgr p none { type := 0x60, tag := i.m.tag, units := [(s.dev.shows (unitWord i.m 0).toNat).setWidth 128] }) s.dev t.dev ∧
      HeardTlk p i s.dev t.dev ∧ Changes [.trf, .links] noReg s.dev t.dev :=
  completes_runIf rfl htakes (post_mwReadRow_plain hup hvalid hcalm hinbox hplain hallow hmin) (replay_heardAndQueued ..)
    ⟨Dev.queued_heardAndQueued _ _ _ _ _ rfl, Dev.heard_heardAndQueued .., Dev.changes_heardAndQueued ..⟩

theorem mwWrite_stores (htakes : rowTakes 0x21 i = true) (hplain : plainWrite (unitWord i.m 0).toNat)
    (hallow : s.dev.windowAllows p (unitWord i.m 0).toNat true = true) (hmin : s.dev.minimal = false)
    (hok : s.dev.writeRefusal (unitWord i.m 0).toNat (BitVec.allOnes 64) = none)
    (hhalf : s.dev.inDownHalf (unitWord i.m 0).toNat = false) (hawake : s.dev.awake) (hbefore : s.dev.writesBefore p = false) :
    Completes (.mwWrite p i) s fun t =>
      t.dev.reg (unitWord i.m 0).toNat =
        written (unitWord i.m 0).toNat (s.dev.reg (unitWord i.m 0).toNat) (unitWord i.m 1) (unitWord i.m 2) ∧
      Queued (s.dev.tlkEgr p none { type := 0x61, tag := i.m.tag }) s.dev t.dev ∧ HeardTlk p i s.dev t.dev ∧
      Changes [.trf, .links] (· = (unitWord i.m 0).toNat) s.dev t.dev := by
  refine completes_runIf rfl htakes
    (post_mwWriteRow_plain hup hvalid hcalm hinbox hplain hallow hmin hok hhalf hawake hbefore)
    (e := (Upd.csr (unitWord i.m 0).toNat (storedBits (unitWord i.m 0).toNat (s.dev.reg (unitWord i.m 0).toNat) (unitWord i.m 1)
      (unitWord i.m 2))).apply (s.dev.heardAndQueued p i.vc (tmsgSize i.m) (s.dev.tlkEgr p none { type := 0x61, tag := i.m.tag })))
    (by rw [Work.add_log, Dev.replay_cons, replay_heardAndQueued])
    ⟨reg_storedBits (assigned_of_writeRefusal hok) .., ?_, ?_, changes_csr _ rfl (Dev.changes_heardAndQueued ..)⟩
  · simpa [Queued] using Dev.queued_heardAndQueued s.dev p i.vc (tmsgSize i.m) _ rfl
  · simpa [Heard] using Dev.heard_heardAndQueued s.dev p i.vc (tmsgSize i.m) _

end

/-! ## The I3C sideband (R519) -/

section
variable {s : State} {addr : BitVec 7} (hanswers : s.dev.answersPrivate addr.toNat = true)
include hanswers

theorem i3cPrivateWrite_stores {bytes : List Byte} {a : Nat} {v : Word} (hlen : bytes.length = 12) (ha : leAt bytes 0 4 = a)
    (hv : BitVec.ofNat 64 (leAt bytes 4 8) = v) (hreach : s.dev.i3cReaches a = true)
    (hok : s.dev.writeRefusal a (BitVec.allOnes 64) = none) (hplain : plainWrite a) (hhalf : s.dev.inDownHalf a = false) :
    Completes (.i3cPrivateWrite addr bytes true) s fun t =>
      t.dev.reg a = written a (s.dev.reg a) v (BitVec.allOnes 64) ∧
      t.dev.sys = { s.dev.sys with pwr := { s.dev.sys.pwr with i3cAddr := none } } ∧ Changes [.sys] (· = a) s.dev t.dev := by
  let x : SysSt := { s.dev.sys with pwr := { s.dev.sys.pwr with i3cAddr := none } }
  have hwrite : M.post (i3cWrite a v) (Work.add ⟨s.dev, []⟩ (.sys x)) =
      (Work.add ⟨s.dev, []⟩ (.sys x)).add (.csr a (storedBits a (s.dev.reg a) v (BitVec.allOnes 64))) := by
    have hreach' : ((Upd.sys x).apply s.dev).i3cReaches a = true := hreach
    have hok' : ((Upd.sys x).apply s.dev).writeRefusal a (BitVec.allOnes 64) = none := hok
    simp [i3cWrite, hreach', hok', post_writeReg_plain (w := Work.add ⟨s.dev, []⟩ (.sys x)) hplain hhalf, -BitVec.reduceAllOnes]
  have hpost : M.post (i3cPrivateWrite addr.toNat bytes true) ⟨s.dev, []⟩ =
      (Work.add ⟨s.dev, []⟩ (.sys x)).add (.csr a (storedBits a (s.dev.reg a) v (BitVec.allOnes 64))) := by
    rw [← hwrite]
    simp [i3cPrivateWrite, hanswers, hlen, ha, hv, x]
  exact completes_run rfl hpost rfl ⟨reg_storedBits (assigned_of_writeRefusal hok) .., by simp [x],
    changes_csr _ rfl (changes_sys (Changes.refl ..) (by simp))⟩

/-- A write of four bytes keeps the address for a read. -/
theorem i3cPrivateWrite_keepsAddr {bytes : List Byte} (hlen : bytes.length = 4) :
    Completes (.i3cPrivateWrite addr bytes true) s fun t =>
      t.dev.sys = { s.dev.sys with pwr := { s.dev.sys.pwr with i3cAddr := some (leAt bytes 0 4) } } ∧ Changes [.sys] noReg s.dev t.dev := by
  have hpost : M.post (i3cPrivateWrite addr.toNat bytes true) ⟨s.dev, []⟩ =
      (Work.add ⟨s.dev, []⟩ (.sys { s.dev.sys with pwr := { s.dev.sys.pwr with i3cAddr := none } })).add
        (.sys { s.dev.sys with pwr := { s.dev.sys.pwr with i3cAddr := some (leAt bytes 0 4) } }) := by
    simp [i3cPrivateWrite, hanswers, hlen]
  exact completes_run rfl hpost rfl ⟨rfl, changes_sys (changes_sys (Changes.refl ..) (by simp)) (by simp)⟩

theorem i3cPrivateRead_returns {a : Nat} (haddr : s.dev.sys.pwr.i3cAddr = some a) (hreach : s.dev.i3cReaches a = true) (hplain : plainRead a) :
    Completes (.i3cPrivateRead addr) s fun t =>
      t.dev.sys = { s.dev.sys with pwr := { s.dev.sys.pwr with i3cAddr := none, i3cOut := toLe 8 (s.dev.shows a).toNat } } ∧
      Changes [.sys] noReg s.dev t.dev := by
  let x : SysSt := { s.dev.sys with pwr := { s.dev.sys.pwr with i3cAddr := none, i3cOut := [] } }
  have hreach' : ((Upd.sys x).apply s.dev).i3cReaches a = true := hreach
  have hshows : ((Upd.sys x).apply s.dev).shows a = s.dev.shows a := rfl
  have hpost : M.post (i3cPrivateRead addr.toNat) ⟨s.dev, []⟩ = (Work.add ⟨s.dev, []⟩ (.sys x)).add
      (.sys { s.dev.sys with pwr := { s.dev.sys.pwr with i3cAddr := none, i3cOut := toLe 8 (s.dev.shows a).toNat } }) := by
    simp [i3cPrivateRead, hanswers, haddr, i3cRead, i3cReturn, hplain.1, readReg_plain hplain, ← hshows, hreach', x]
  exact completes_run rfl hpost rfl ⟨rfl, changes_sys (changes_sys (Changes.refl ..) (by simp)) (by simp)⟩

end

/-- Settles O31, path by path: REGISTER_WRITE, the management window and the I3C sideband. -/
theorem registerAccesses : Obligations.RegisterAccesses := by
  intro s a v m
  refine ⟨registerWrite_stores, registerWrite_refused, fun p i hup hvalid hcalm hinbox ha => ⟨?_, ?_⟩,
    fun addr hanswers hreach => ⟨fun bytes hlen ha hv hok hplain hhalf => ?_, fun bytes hlen => ?_, fun haddr hplain => ?_⟩⟩
  · subst ha
    exact mwRead_answers hup hvalid hcalm hinbox
  · intro htakes hv hm hallow hmin hok hplain hhalf hawake hbefore
    subst ha hv hm
    exact mwWrite_stores hup hvalid hcalm hinbox htakes hplain hallow hmin hok hhalf hawake hbefore
  · exact i3cPrivateWrite_stores hanswers hlen ha hv hreach hok hplain hhalf
  · exact i3cPrivateWrite_keepsAddr hanswers hlen
  · exact i3cPrivateRead_returns hanswers haddr hreach hplain

end Sys2Proof.Machine
end

section
/-! PROOFS. A row carries a command on and decides its completion; NOP, CSR_READ and CSR_WRITE (O43). -/

namespace Sys2Proof.Machine

/-! ## Operations whose changes have a footprint -/

section
variable {α : Type} {p : Upd → Prop} {m : M α} {d : Dev} {w : Work}

/-- After changes that a footprint bounds, the log still makes the device. -/
theorem Emits.replay_log (hm : Emits p m) (hw : d.replay w.log = w.dev) : d.replay (M.post m w).log = (M.post m w).dev := by
  obtain ⟨l, hlog, hdev, -⟩ := hm w
  rw [hlog, hdev, ← hw, Dev.replay, List.foldr_append]
  rfl

theorem Emits.changes_post {parts : List Part} {regs : Nat → Prop} (hm : Emits (Foot parts regs) m) (h : Changes parts regs d w.dev) :
    Changes parts regs d (M.post m w).dev := by
  obtain ⟨l, -, hdev, hfoot⟩ := hm w
  rw [hdev]
  exact Dev.replay_keeps (q := Changes parts regs d) (fun u hu _ he => (hfoot u hu).changes he) h

end

/-! ## The completion of a command in progress -/

/-- The command interface with the completion of a command decided. -/
def CmdSt.conclude (x : CmdSt) (r : Run) (c : Cpl) : CmdSt :=
  { x with runs := x.runs.map fun y => if y.seq = r.seq then { y with cpl := some c } else y }

/-- A command without a completion, whose sequence number is its own, takes the one it is given. -/
theorem post_setCpl_only {w : Work} {r : Run} (honly : w.dev.only r) (hcpl : r.cpl = none) (c : Cpl) :
    M.post (setCpl r c) w = w.add (.cmd (w.dev.cmd.conclude r c)) := by
  refine congrArg (fun l => w.add (.cmd { w.dev.cmd with runs := l })) (List.map_congr_left fun x hx => ?_)
  by_cases hseq : x.seq = r.seq
  · simp [honly.2 x hx hseq, hcpl]
  · simp [hseq]

/-- Deciding a completion gives no issuer a command. -/
theorem Dev.runOf_conclude_none {d e : Dev} {r : Run} {c : Cpl} {i : Iss} (he : e.cmd = d.cmd.conclude r c) (h : d.runOf i = none) :
    e.runOf i = none := by
  simp only [Dev.runOf, List.find?_eq_none, he, CmdSt.conclude, List.mem_map] at h ⊢
  rintro _ ⟨x, hx, rfl⟩
  split <;> exact h x hx

theorem Run.goes_iff {r : Run} {op : Nat} : r.goes op = true ↔ r.op = op ∧ r.cpl = none ∧ r.phase < awayPhase := by
  simp [Run.goes, and_assoc]

/-! ## A row that carries a command on -/

theorem post_underKept_nil (act : M Unit) (w : Work) : M.post (underKept [] act) w = M.post act w := by
  simp [underKept]

theorem post_settleFw_idle {w : Work} (h : w.dev.runOf .fw = none) : M.post settleFw w = w := by
  simp [settleFw, h]

/-- A row carries its command on; where firmware still has none in progress afterwards, that is all. -/
theorem post_onRun_carries {w w' : Work} {q : Req} {op : Nat} {r : Run} {body : Run → M Unit} (h : w.dev.carries q op r)
    (hbody : M.post (body r) w = w') (hfw : w'.dev.runOf .fw = none) : M.post (onRun op q body) w = w' := by
  obtain ⟨hissuer, hrun, hgoes, -, -, hkept⟩ := h
  cases q with
  | fw => exact absurd rfl hissuer
  | _ => simp [onRun, hrun, hgoes, hkept, post_underKept_nil, hbody, post_settleFw_idle hfw]

/-- A row whose command ends with a completion, and does nothing else. -/
theorem completes_concludes {c : Instr} {s : State} {q : Req} {op : Nat} {r : Run} {body : Run → M Unit} {cpl : Cpl}
    (hexec : exec c s = s.run (onRun op q body)) (h : s.dev.carries q op r)
    (hbody : M.post (body r) ⟨s.dev, []⟩ = M.post (setCpl r cpl) ⟨s.dev, []⟩) :
    Completes c s fun t => Concludes r cpl s.dev t.dev ∧ Changes [.cmd] noReg s.dev t.dev :=
  completes_run hexec
    (post_onRun_carries h (hbody.trans (post_setCpl_only h.only (Run.goes_iff.mp h.goes).2.1 cpl)) (Dev.runOf_conclude_none rfl h.firmware))
    rfl ⟨rfl, changes_cmd (Changes.refl ..) (by simp)⟩

/-! ## NOP -/

theorem cx6Nop_concludes {s : State} {n : Fin 512} {r : Run} (h : s.dev.carries (.q n) Op.nop r) (hcx6 : r.isCx6 = true) :
    Completes (.cx6Nop n) s fun t => Concludes r {} s.dev t.dev ∧ Changes [.cmd] noReg s.dev t.dev := by
  have hpost : M.post (onCx6 Op.nop n.val fun x => setCpl x {}) ⟨s.dev, []⟩ = M.post (setCpl r {}) ⟨s.dev, []⟩ := by
    have hrun : s.dev.runOf (.q n.val) = some r := h.run
    simp [onCx6, hrun, h.goes, hcx6]
  exact completes_run rfl (hpost.trans (post_setCpl_only h.only (Run.goes_iff.mp h.goes).2.1 {})) rfl
    ⟨rfl, changes_cmd (Changes.refl ..) (by simp)⟩

theorem nop_concludes {s : State} {q : Req} {r : Run} (h : s.dev.carries q Op.nop r) (hcx6 : r.isCx6 = false) :
    Completes (.nop q) s fun t => Concludes r {} s.dev t.dev ∧ Changes [.cmd] noReg s.dev t.dev :=
  completes_concludes rfl h (by simp [hcx6])

/-- The command that firmware begins of itself. -/
def fwRun (pkt : Line) (tick : Nat) : Run := { iss := .fw, seq := fwSeq, pkt := pkt, tick := tick }

theorem Emits.dropRun (seq : Nat) : Emits (Foot [.cmd, .home, .sys] noReg) (Machine.dropRun seq) :=
  (Emits.modCmd (by simp)).bind fun _ => (Emits.modHome (by simp)).bind fun _ => Emits.dev.bind fun _ => Emits.on (Emits.modBoot (by simp))

theorem Emits.settleFw : Emits (Foot [.cmd, .home, .sys] noReg) Machine.settleFw :=
  Emits.dev.bind fun d => by
    split
    · split
      · exact Emits.ite ((Emits.dropRun _).bind fun _ => Emits.modCmd (by simp)) (Emits.pure _)
      · exact Emits.pure _
    · exact Emits.pure _

theorem post_dropRun_cmd (seq : Nat) (w : Work) :
    (M.post (dropRun seq) w).dev.cmd = { w.dev.cmd with runs := w.dev.cmd.runs.filter fun r => r.seq != seq } := by
  simp only [dropRun, post_bind, post_modCmd, post_modHome, val_dev, post_dev, post_on, post_modBoot]
  split <;> simp

/-- Firmware's own command that has ended leaves the list, and its completion is kept. -/
theorem post_settleFw_cmd {w : Work} {r : Run} {c : Cpl} (hrun : w.dev.runOf .fw = some r) (hcpl : r.cpl = some c) (houts : r.outs = 0) :
    (M.post settleFw w).dev.cmd = { w.dev.cmd with runs := w.dev.cmd.runs.filter (fun r => r.seq != fwSeq), fwCpl := some c } := by
  simp [settleFw, hrun, hcpl, houts, post_dropRun_cmd]

/-- Deciding the completion of the command added last, whose sequence number no other one has, leaves the others. -/
theorem CmdSt.conclude_append {x : CmdSt} {r : Run} (h : ∀ y ∈ x.runs, y.seq ≠ r.seq) (c : Cpl) :
    CmdSt.conclude { x with runs := x.runs ++ [r] } r c = { x with runs := x.runs ++ [{ r with cpl := some c }] } := by
  have hothers : (x.runs.map fun y => if y.seq = r.seq then { y with cpl := some c } else y) = x.runs :=
    (List.map_congr_left fun y hy => if_neg (h y hy)).trans (List.map_id _)
  simp [CmdSt.conclude, hothers]

/-- Firmware's NOP begins, completes and is gone; its completion is kept (R15). -/
theorem fwNop_completes {s : State} {pkt : Line} (hop : le pkt 0 2 = Op.nop) (hcx6 : bit pkt 23 = false) (hfw : s.dev.runOf .fw = none)
    (hseq : ∀ x ∈ s.dev.cmd.runs, x.seq ≠ fwSeq) :
    Completes (.nop (.fw pkt)) s fun t =>
      t.dev.cmd = { s.dev.cmd with fwCpl := some {} } ∧ Changes [.cmd, .home, .sys] noReg s.dev t.dev := by
  let r := fwRun pkt s.dev.now
  let begun : Work := Work.add ⟨s.dev, []⟩ (.cmd { s.dev.cmd with runs := s.dev.cmd.runs ++ [r] })
  let ended : Work := begun.add (.cmd (begun.dev.cmd.conclude r {}))
  have hbegun : begun.dev.runOf .fw = some r := by
    rw [Dev.runOf] at hfw
    simp [Dev.runOf, begun, List.find?_append, hfw, r, fwRun]
  have honly : begun.dev.only r := by
    refine ⟨by simp [begun], fun x hx hxr => ?_⟩
    obtain hx | hx := List.mem_append.mp hx
    · exact absurd hxr (hseq x hx)
    · exact List.mem_singleton.mp hx
  have hcmd : ended.dev.cmd = { s.dev.cmd with runs := s.dev.cmd.runs ++ [{ r with cpl := some {} }] } := CmdSt.conclude_append hseq {}
  have hended : ended.dev.runOf .fw = some { r with cpl := some {} } := by
    rw [Dev.runOf] at hfw
    simp [Dev.runOf, hcmd, List.find?_append, hfw, r, fwRun]
  have hpost : M.post (onRun Op.nop (.fw pkt) fun x => on (!x.isCx6) (setCpl x {})) ⟨s.dev, []⟩ = M.post settleFw ended := by
    have hbegin : M.post (beginFw pkt) ⟨s.dev, []⟩ = begun := by simp [beginFw, hfw, begun, r, fwRun]
    have hgoes : r.goes Op.nop = true := by simpa [Run.goes_iff, Run.op, r, fwRun] using hop
    have hnative : r.isCx6 = false := hcx6
    have hcpl : M.post (setCpl r {}) begun = ended := post_setCpl_only honly rfl {}
    have hkept : r.kept = [] := rfl
    simp [onRun, hop, hbegin, issOf, hbegun, hgoes, hkept, post_underKept_nil, hnative, hcpl]
  refine completes_run rfl hpost (Emits.settleFw.replay_log rfl) ⟨?_, Emits.settleFw.changes_post ?_⟩
  · have hrest : (s.dev.cmd.runs.filter fun x => x.seq != fwSeq) = s.dev.cmd.runs :=
      List.filter_eq_self.mpr fun x hx => by simpa using hseq x hx
    rw [post_settleFw_cmd hended rfl rfl, hcmd]
    simp [hrest, r, fwRun]
  · exact changes_cmd (changes_cmd (Changes.refl ..) (by simp)) (by simp)

/-! ## CSR_READ and CSR_WRITE -/

section
variable {s : State} {q : Req} {r : Run} (hbar : s.dev.mboxBarred r (r.par 0 8) = false)
include hbar

theorem csrRead_shows (h : s.dev.carries q Op.csrRead r) (hplain : plainRead (r.par 0 8)) : Completes (.csrRead q) s fun t =>
    Concludes r (okCpl 0 0 (s.dev.shows (r.par 0 8)).toNat) s.dev t.dev ∧ Changes [.cmd] noReg s.dev t.dev :=
  completes_concludes rfl h (by simp [csrRead, hbar, hplain.1, readReg_plain hplain])

theorem csrRead_refused (h : s.dev.carries q Op.csrRead r) {st dt : Nat} (href : addrRefusal (r.par 0 8) = some (st, dt)) :
    Completes (.csrRead q) s fun t => Concludes r (fail st dt) s.dev t.dev ∧ Changes [.cmd] noReg s.dev t.dev :=
  completes_concludes rfl h (by simp [csrRead, hbar, href])

variable (h : s.dev.carries q Op.csrWrite r) (hstaged : r.isStaged = false)
include h hstaged

theorem csrWrite_refused {st dt : Nat} (href : s.dev.writeRefusal (r.par 0 8) (BitVec.ofNat 64 (r.par 16 8)) = some (st, dt)) :
    Completes (.csrWrite q) s fun t => Concludes r (fail st dt) s.dev t.dev ∧ Changes [.cmd] noReg s.dev t.dev :=
  completes_concludes rfl h (by simp [csrWrite, hbar, hstaged, href])

theorem csrWrite_stores (hok : s.dev.writeRefusal (r.par 0 8) (BitVec.ofNat 64 (r.par 16 8)) = none)
    (hup : s.dev.inDownHalf (r.par 0 8) = false) (hwrite : plainWrite (r.par 0 8)) (hread : plainRead (r.par 0 8)) :
    Completes (.csrWrite q) s fun t =>
      Concludes r (okCpl 0 0 (s.dev.view (r.par 0 8)).toNat) s.dev t.dev ∧
      t.dev.reg (r.par 0 8) =
        written (r.par 0 8) (s.dev.reg (r.par 0 8)) (BitVec.ofNat 64 (r.par 8 8)) (BitVec.ofNat 64 (r.par 16 8)) ∧
      Changes [.cmd] (· = r.par 0 8) s.dev t.dev := by
  have hpop : regBase (r.par 0 8) ≠ A.EVQ_X_POP 0 := fun heq => hread.2 (by simp [heq])
  have hshows : s.dev.shows (r.par 0 8) = s.dev.view (r.par 0 8) := by simp [Dev.shows, hup]
  let concluded : Work := Work.add ⟨s.dev, []⟩ (.cmd (s.dev.cmd.conclude r (okCpl 0 0 (s.dev.view (r.par 0 8)).toNat)))
  have hcpl : M.post (setCpl r (okCpl 0 0 (s.dev.view (r.par 0 8)).toNat)) ⟨s.dev, []⟩ = concluded :=
    post_setCpl_only h.only (Run.goes_iff.mp h.goes).2.1 _
  have hstore := post_writeReg_plain (w := concluded) hwrite hup (BitVec.ofNat 64 (r.par 8 8)) (BitVec.ofNat 64 (r.par 16 8))
  refine completes_run rfl (post_onRun_carries h ((by simp [csrWrite, hbar, hstaged, hok, hpop, readReg_plain hread, hshows, hcpl] :
    M.post (csrWrite r) ⟨s.dev, []⟩ = _).trans hstore) ?_) rfl ⟨?_, reg_storedBits (assigned_of_writeRefusal hok) .., ?_⟩
  · exact Dev.runOf_conclude_none (Upd.csr_cmd ..) h.firmware
  · exact Upd.csr_cmd ..
  · exact changes_csr _ rfl (changes_cmd (Changes.refl ..) (by simp))

end

/-- Settles O43, row by row: NOP in its three forms, CSR_READ and CSR_WRITE. -/
theorem registerCommands : Obligations.RegisterCommands := by
  intro s r
  refine ⟨fun n h hcx6 => cx6Nop_concludes h hcx6, fun pkt hop hcx6 hfw hseq => fwNop_completes hop hcx6 hfw hseq,
    fun q => ⟨nop_concludes, fun h hbar => ⟨csrRead_shows hbar h, fun st dt href => csrRead_refused hbar h href⟩,
      fun h hbar hstaged => ⟨csrWrite_stores hbar h hstaged, fun st dt href => csrWrite_refused hbar h hstaged href⟩⟩⟩

end Sys2Proof.Machine
end

section
/-! PROOFS. The reset of a half leaves translations in the other half whose agent numbers read as tiles of the first (O22). -/

namespace Sys2Proof.Machine

/-- The device after reset, but for one translation that agent 40 holds: cell 0 of tile 5, which lies in the west half (R17, R165). -/
def westCellTranslates : State := { dev := { stn := { caches := [(40, [3])] } } }

/-- The reset of the east half loses the translations of the agents there; that of a cell of tile 5 stays. -/
theorem halfReset_east_keeps_west_translation :
    (westCellTranslates.dev.run (halfReset true)).stn.caches = [(40, [3])] := by
  decide +kernel

/-- Refutes O22: the keys of the translation caches are agent numbers, which the statement reads as tile numbers. After the reset of the east
half the cell in the west half still holds its translation, and its agent number 40, read as a tile, lies in the east half. -/
theorem not_halfReset : ¬ Obligations.HalfReset := by
  intro h
  obtain ⟨⟨t, hexec, -, -, -, hcaches, -⟩, -⟩ := h westCellTranslates true
  have hdev : t.dev = westCellTranslates.dev.run (halfReset true) := by rw [← Host.Outcome.next.inj hexec]
  have hkept : (40, [3]) ∈ t.dev.stn.caches := by
    rw [hdev, halfReset_east_keeps_west_translation]
    exact List.mem_singleton_self _
  exact absurd (hcaches _ hkept) (by decide)

end Sys2Proof.Machine
end

section
/-! PROOFS. A message of Dorrus that is handled at once, and a message of this device that takes its first route (R292 to R302). -/

namespace Sys2Proof.Machine

/-! ## Arrival -/

theorem drsCls_lt (type : Nat) : drsCls type < 4 := by
  unfold drsCls
  split_ifs <;> omega

section
variable {d : Dev} {n : Nat} {i : DIn}

/-- A message that is no violation comes in the class of its type and within the credits of its sender. -/
theorem inClass_of_drsViolation (h : d.drsViolation n i = none) :
    i.cls = drsCls i.m.type ∧ d.overrun (n + 4) (drsInVc i) (dmsgSize i.m) = false := by
  obtain ⟨-, hclean⟩ := passed_of_ite_none h
  obtain ⟨-, hlen⟩ := passed_of_ite_none hclean
  obtain ⟨-, hcls⟩ := passed_of_ite_none hlen
  obtain ⟨heq, hvc⟩ := passed_of_ite_none hcls
  exact ⟨not_not.mp heq, Bool.eq_false_of_not_eq_true (passed_of_ite_none hvc).1⟩

/-- A row takes a served message of its own kind. -/
theorem Dev.drsServed.takes (h : d.drsServed n i) {mine : DMsg → Bool} (hmine : mine i.m = true) : drsTakes mine i = true := by
  have hcls : i.cls < 4 := (inClass_of_drsViolation h.valid).1 ▸ drsCls_lt _
  simp [drsTakes, h.fits, hcls, symErrsFit, h.errs, hmine]

end

/-- A served message gives up its place in the receive buffer and acts; then its port looks at its violations. -/
theorem post_drsMsg_served {n : Nat} {i : DIn} {w : Work} (h : w.dev.drsServed n i) (act : M Unit) :
    M.post (drsMsg n i false act) w =
      M.post (checkQuarantine (n + 4)) (M.post act (w.heard (n + 4) (drsInVc i) (dmsgSize i.m))) := by
  have hlink : w.dev.linkState (n + 4) = Ps.up := by simp [Dev.linkState, h.up]
  have hawake : (Ps.up == Ps.lowPower) = false := rfl
  have hhere : ¬ (w.dev.isExt (n + 4) = false ∧ ¬ i.m.dst = w.dev.node) := by
    rintro ⟨hext, hdst⟩
    exact h.here.elim (fun hx => absurd hext (by simp [hx])) hdst
  simp [drsMsg, hlink, hawake, h.up, h.valid, isUpState, takeInbox, h.inbox, (inClass_of_drsViolation h.valid).2, hhere, Work.heard]

/-- Whether a Dorrus port is about to be quarantined is a matter of its configuration and of the violations that its link has counted. -/
theorem overThreshold_of_heard {d e : Dev} {n p vc size : Nat} (hcalm : d.overThreshold (n + 4) = false) (hheard : Heard p vc size d e)
    (hcfg : e.reg (A.DRS_VIOL_CFG n) = d.reg (A.DRS_VIOL_CFG n)) : e.overThreshold (n + 4) = false := by
  simpa [Dev.overThreshold, Dev.violCfg, hcfg, hheard.counts] using hcalm

theorem post_checkQuarantine_calm {port : Nat} {w : Work} (h : w.dev.overThreshold port = false) : M.post (checkQuarantine port) w = w := by
  simp [checkQuarantine, h]

/-- A work in which a device has heard a message on a Dorrus port, with nothing done about it yet. -/
def Work.heardDrs (d : Dev) (n : Nat) (i : DIn) : Work := Work.heard ⟨d, []⟩ (n + 4) (drsInVc i) (dmsgSize i.m)

section
variable (d : Dev) (n : Nat) (i : DIn)

theorem Work.heardDrs_dev : (Work.heardDrs d n i).dev =
    (Upd.links (d.links.set (n + 4) ((d.link (n + 4)).heard (drsInVc i) (dmsgSize i.m)))).apply d :=
  Work.heard_dev ⟨d, []⟩ ..

@[simp] theorem Work.heardDrs_log : d.replay (Work.heardDrs d n i).log = (Work.heardDrs d n i).dev := Work.heard_log ⟨d, []⟩ _ _ _ d rfl

theorem heard_heardDrs : HeardDrs n i d (Work.heardDrs d n i).dev := by
  rw [Work.heardDrs_dev]
  rfl

theorem changes_heardDrs {parts : List Part} (regs : Nat → Prop) (h : Part.links ∈ parts) :
    Changes parts regs d (Work.heardDrs d n i).dev := by
  rw [Work.heardDrs_dev]
  exact Foot.changes (u := .links _) h (Changes.refl ..)

end

/-- The configuration of a Dorrus port stands above the blocks of the spine. -/
theorem drsViolCfg_ne {n a : Nat} (h : a < 0xB0000) : A.DRS_VIOL_CFG n ≠ a := by
  simp only [A.DRS_VIOL_CFG]
  omega

theorem Completes.imp {c : Instr} {s : State} {p q : State → Prop} (h : Completes c s p) (hpq : ∀ t, p t → q t) : Completes c s q := by
  obtain ⟨t, hexec, ht⟩ := h
  exact ⟨t, hexec, hpq t ht⟩

/-- The row of a message that is served: where its act leaves the links and the port's settings, it completes with what the act makes of the
device that has heard the message. -/
theorem completes_drsRow {c : Instr} {s : State} {p : Fin 12} {i : DIn} {mine : DMsg → Bool} {act : DMsg → M Unit} {w : Work}
    {post : State → Prop} {parts : List Part} {regs : Nat → Prop} (hexec : exec c s = drsRow p i mine act s) (h : s.dev.drsServed p i)
    (hmine : mine i.m = true) (hact : M.post (act i.m) (Work.heardDrs s.dev p i) = w) (hlog : s.dev.replay w.log = w.dev)
    (hlinks : w.dev.links = (Work.heardDrs s.dev p i).dev.links) (hchanges : Changes parts regs s.dev w.dev)
    (hcfg : ¬ regs (A.DRS_VIOL_CFG p)) (hpost : post { s with dev := w.dev }) :
    Completes c s fun t => post t ∧ HeardDrs p i s.dev t.dev ∧ Changes parts regs s.dev t.dev := by
  have hheard : HeardDrs p i s.dev w.dev := hlinks.trans (heard_heardDrs ..)
  have hcalm : w.dev.overThreshold (p + 4) = false := overThreshold_of_heard h.calm hheard (hchanges.regs _ hcfg)
  exact completes_runIf hexec (h.takes hmine)
    ((post_drsMsg_served (w := ⟨s.dev, []⟩) h (act i.m)).trans (by rw [← Work.heardDrs, hact, post_checkQuarantine_calm hcalm]))
    hlog ⟨hpost, hheard, hchanges⟩

/-- The row of a served message that does nothing more. -/
theorem completes_drsRow_heard {c : Instr} {s : State} {p : Fin 12} {i : DIn} {mine : DMsg → Bool} {act : DMsg → M Unit}
    (hexec : exec c s = drsRow p i mine act s) (h : s.dev.drsServed p i) (hmine : mine i.m = true)
    (hact : M.post (act i.m) (Work.heardDrs s.dev p i) = Work.heardDrs s.dev p i) :
    Completes c s fun t => HeardDrs p i s.dev t.dev ∧ Changes [.links] noReg s.dev t.dev :=
  (completes_drsRow (post := fun _ => True) hexec h hmine hact (Work.heardDrs_log ..) rfl (changes_heardDrs _ _ _ _ (by simp)) id trivial).imp
    fun _ ht => ht.2

/-! ## Departure -/

/-- A device routes a message as another one does when it has the same dead list and trunks, settings and port states, and the same time. -/
theorem drsEgrFor_congr {d e : Dev} (hfab : e.fab = d.fab) (hnow : e.now = d.now)
    (hregs : ∀ a, a ∈ [A.TOP_NODE, A.TOP_SPAN_DIM, A.GWY_CFG] ∨ 0xB0000 ≤ a → e.reg a = d.reg a) (dom : Option Nat) (m : DMsg) :
    e.drsEgrFor dom m = d.drsEgrFor dom m := by
  have hnode : e.node = d.node := by simp [Dev.node, hregs A.TOP_NODE]
  have hdims : e.dims = d.dims := by simp [Dev.dims, Dev.fld, hregs A.TOP_SPAN_DIM]
  have hport : ∀ n, e.portState (n + 4) = d.portState (n + 4) := fun n => by
    simp [Dev.portState, portStatusAddr, hregs (A.DRS_STATUS n) (.inr (by simp only [A.DRS_STATUS]; omega))]
  have hext : ∀ n, e.isExt n = d.isExt n := fun n => by simp [Dev.isExt, Dev.fld, hregs A.GWY_CFG]
  have hup : ∀ n, e.linkUp n = d.linkUp n := fun n => by simp [Dev.linkUp, hport, hext]
  have hroute : e.chooseRoute m.dst = d.chooseRoute m.dst := by simp [Dev.chooseRoute, hdims, hnode, hfab]
  have htrunk : ∀ dir, e.trunkOk dir = d.trunkOk dir := fun dir => by simp [Dev.trunkOk, Dev.trunkDownAt, hfab, hup]
  have hleaves : ∀ dir x, e.trunkPort dir x = d.trunkPort dir x := fun dir x => by simp [Dev.trunkPort, hup]
  have hwith : ∀ c, withRoute e m c = withRoute d m c := fun c => by simp [withRoute, hdims, hnode]
  simp only [Dev.drsEgrFor, hroute, hwith, hnode, hdims, htrunk, hleaves, hnow]

theorem drsEgr_heardDrs (d : Dev) (n : Nat) (i : DIn) (m : DMsg) : (Work.heardDrs d n i).dev.drsEgr m = d.drsEgr m := by
  rw [Work.heardDrs_dev]
  exact drsEgrFor_congr rfl rfl (fun _ _ => rfl) _ m

/-- A message of the management class whose first good route can be taken goes behind the others in the class queues (R302, R323). -/
theorem post_sendDrsFor_mg {dom : Option Nat} {m : DMsg} {x : Egr} {w : Work} (hcls : drsCls m.type = 0)
    (h : w.dev.drsEgrFor dom m = some x) : M.post (sendDrsFor dom m) w = w.add (.trf (w.dev.trf.queue x)) := by
  simp only [Dev.drsEgrFor, Option.bind_eq_bind, Option.bind_eq_some_iff] at h
  obtain ⟨c, hroute, dir, hdir, hx⟩ := h
  split at hx
  · cases hx
    have hcls' : drsCls (withRoute w.dev m c).type = 0 := hcls
    simp [sendDrsFor, sendOwn, *, launch, enqueue, TrfSt.queue]
  · cases hx

theorem post_sendDrs_mg {m : DMsg} {x : Egr} {w : Work} (hcls : drsCls m.type = 0) (h : w.dev.drsEgr m = some x) :
    M.post (sendDrs m) w = w.add (.trf (w.dev.trf.queue x)) :=
  post_sendDrsFor_mg hcls h

theorem drsEgrFor_mg_dom {d : Dev} {dom : Option Nat} {m : DMsg} {x : Egr} (hcls : drsCls m.type = 0) (h : d.drsEgrFor dom m = some x) :
    x.dom = none := by
  simp only [Dev.drsEgrFor, Option.bind_eq_bind, Option.bind_eq_some_iff] at h
  obtain ⟨c, -, dir, -, hx⟩ := h
  split at hx
  · cases hx
    rfl
  · cases hx

/-- A message of the management class that stands last in the class queues has been sent. -/
theorem sentFor_mg {dom : Option Nat} {m : DMsg} {x : Egr} {d e : Dev} (hcls : drsCls m.type = 0) (h : d.drsEgrFor dom m = some x)
    (he : e.trf = d.trf.queue x) : SentFor dom m d e := by
  intro y hy
  obtain rfl := Option.some.inj (h.symm.trans hy)
  have hdom := drsEgrFor_mg_dom hcls h
  exact ⟨fun _ => by simp [he, TrfSt.queue], by simp [hdom]⟩

end Sys2Proof.Machine
end

section
/-! PROOFS. Commands of unit scope: their messages and the timers of their members (R38 to R41). -/

namespace Sys2Proof.Machine

/-! ## The members of a fan -/

/-- The command interface with the members of a node changed that have no completion yet, in the fans of a command. -/
def CmdSt.setMembers (x : CmdSt) (seq node : Nat) (g : Member → Member) : CmdSt :=
  { x with fans := x.fans.map fun y => if y.seq = seq then
    { y with members := y.members.map fun m => if m.node = node ∧ m.cpl.isNone = true then g m else m } else y }

theorem post_modMember (seq node : Nat) (g : Member → Member) (w : Work) :
    M.post (modMember seq node g) w = w.add (.cmd (w.dev.cmd.setMembers seq node g)) := rfl

/-- A device that reads no staged sets of others has none to complete (R89). -/
def Dev.settled (d : Dev) : Prop := ∀ f ∈ d.cmd.fans, f.seq ≠ askStatus

theorem post_settleTakeover_settled {w : Work} (h : w.dev.settled) : M.post settleTakeover w = w := by
  have hnone : w.dev.cmd.fans.find? (·.seq == askStatus) = none := by
    simpa [Dev.settled] using h
  simp only [settleTakeover, post_bind, val_dev, post_dev, hnone, post_pure]

theorem settled_setMembers {d e : Dev} {seq node : Nat} {g : Member → Member} (h : d.settled) (he : e.cmd = d.cmd.setMembers seq node g) :
    e.settled := by
  simp only [Dev.settled, he, CmdSt.setMembers, List.mem_map]
  rintro _ ⟨f, hf, rfl⟩
  split <;> exact h f hf

/-! ## Messages -/

/-- Counting one in a register that stores the 32 bits of its count. -/
theorem counts_bump {a : Nat} {d : Dev} {w : Work} (ha : assigned a = true) (hm : Fld.of ⟨0, 32⟩ (readMask a) = 2 ^ 32 - 1)
    (h : w.dev.reg a = d.reg a) : Counts a 1 d (M.post (bump a) w).dev := by
  have hcount := Dev.fld_csr_put (f := ⟨0, 32⟩) ha (by decide) hm (w.dev.reg a) (min (w.dev.fld a ⟨0, 32⟩ + 1) (2 ^ 32 - 1)) w.dev
  refine hcount.trans ?_
  rw [Nat.mod_eq_of_lt (Nat.lt_of_le_of_lt (Nat.min_le_right ..) (by decide)), Dev.fld, h]
  rfl

section
variable {w : Work} {m : DMsg}

/-- The acknowledgement of a command. -/
def unitAckOf (d : Dev) (m : DMsg) : DMsg := { type := 0x67, dst := m.src, src := d.node, tag := m.tag }

theorem unitAckOf_cls (d : Dev) (m : DMsg) : drsCls (unitAckOf d m).type = 0 := (by decide : drsCls 0x67 = 0)

/-- The command interface with a command of another device accepted on the internal management queue. -/
def CmdSt.takeUnit (x : CmdSt) (seq : Nat) (m : DMsg) : CmdSt :=
  { x with acc := x.acc ++ [⟨.unit, seq, m.units.headD 0, 0⟩], senders := x.senders ++ [(seq, m.src, m.tag)] }

/-- A work in which a command of another device has got the next accept sequence number and waits as accepted. -/
def Work.takeUnit (w : Work) (m : DMsg) : Work :=
  (w.add (.csr A.CMD_SEQ (F.CMD_SEQ_SEQ.put (w.dev.reg A.CMD_SEQ) ((w.dev.fld A.CMD_SEQ F.CMD_SEQ_SEQ + 1) % 2 ^ 32)))).add
    (.cmd (w.dev.cmd.takeUnit (w.dev.fld A.CMD_SEQ F.CMD_SEQ_SEQ) m))

theorem Work.takeUnit_reg (w : Work) {a : Nat} (h : a ≠ A.CMD_SEQ) : (w.takeUnit m).dev.reg a = w.dev.reg a := by
  simp [Work.takeUnit, h]

theorem Work.takeUnit_seq (w : Work) :
    (w.takeUnit m).dev.fld A.CMD_SEQ F.CMD_SEQ_SEQ = (w.dev.fld A.CMD_SEQ F.CMD_SEQ_SEQ + 1) % 2 ^ 32 := by
  simp only [Work.takeUnit, Work.add_dev, Upd.cmd_fld]
  rw [Dev.fld_csr_put (by decide +kernel) (by decide) (by decide +kernel), Nat.mod_mod]

theorem changes_takeUnit {parts : List Part} {regs : Nat → Prop} {d : Dev} (hcmd : Part.cmd ∈ parts) (hseq : regs A.CMD_SEQ)
    (h : Changes parts regs d w.dev) : Changes parts regs d (w.takeUnit m).dev :=
  changes_cmd (changes_csr parts hseq h) hcmd

/-- A command that arrives at a device that is awake gets the next number, waits as accepted, and is acknowledged (R41, R71, R540). -/
theorem post_unitCmdRow_awake {x : Egr} (hawake : w.dev.awake) (h : w.dev.drsEgr (unitAckOf w.dev m) = some x) :
    M.post (unitCmdRow m) w = (w.takeUnit m).add (.trf (w.dev.trf.queue x)) := by
  have hegr : (w.takeUnit m).dev.drsEgr (unitAckOf w.dev m) = some x := by
    refine (drsEgrFor_congr (by simp [Work.takeUnit]) (by simp [Work.takeUnit]) (fun a ha => w.takeUnit_reg ?_) _ _).trans h
    rintro rfl
    revert ha
    decide
  have hnode : (w.takeUnit m).dev.node = w.dev.node := by simp [Dev.node, w.takeUnit_reg]
  have hsent : M.post (sendDrs (unitAckOf w.dev m)) (w.takeUnit m) = (w.takeUnit m).add (.trf (w.dev.trf.queue x)) := by
    rw [post_sendDrs_mg (unitAckOf_cls ..) hegr]
    simp [Work.takeUnit]
  have hwake : ((w.takeUnit m).add (.trf (w.dev.trf.queue x))).dev.awake := by
    simpa [Dev.awake, Dev.power, Dev.fld, w.takeUnit_reg, Work.takeUnit] using hawake
  have hmsg : M.post (unitCmdMsg m) w = M.post (sendDrs (unitAckOf (w.takeUnit m).dev m)) (w.takeUnit m) := by
    simp [unitCmdMsg, takeCmdSeq, Work.takeUnit, CmdSt.takeUnit, unitAckOf]
  rw [unitCmdRow, post_bind, hmsg, unitAckOf, hnode, ← unitAckOf, hsent, post_wakeEvent_awake hwake]

theorem post_unitAckMsg {f : Fan} (h : w.dev.fanOf m.src m.tag = some f) :
    M.post (unitAckMsg m) w = w.add (.cmd (w.dev.cmd.setMembers f.seq m.src fun x =>
      if x.acked then x else { x with acked := true, due := w.dev.now + w.dev.unitDoneWait x.mgr })) := by
  simp [unitAckMsg, h, post_modMember]

theorem post_unitCplMsg_known {f : Fan} (hsettled : w.dev.settled) (h : w.dev.fanOf m.src m.tag = some f) :
    M.post (unitCplMsg m) w = w.add (.cmd (w.dev.cmd.setMembers f.seq m.src fun x =>
      { x with cpl := some (cplOfRecord (m.units.headD 0)) })) := by
  simp only [unitCplMsg, post_bind, val_dev, post_dev, h, post_modMember]
  exact post_settleTakeover_settled (settled_setMembers hsettled rfl)

theorem post_unitCplMsg_late (hsettled : w.dev.settled) (h : w.dev.fanOf m.src m.tag = none) :
    M.post (unitCplMsg m) w = M.post (bump A.TOP_UNIT_LATE_CNT) w := by
  simp only [unitCplMsg, post_bind, val_dev, post_dev, h]
  exact post_settleTakeover_settled (by simpa [Dev.settled] using hsettled)

end

/-! ## Rows -/

section
variable {s : State} {p : Fin 12} {i : DIn} (h : s.dev.drsServed p i)
include h

/-- UNIT_CMD enters the internal management queue and is acknowledged (R41, R71). -/
theorem unitCmd_accepted {x : Egr} (htype : i.m.type = 0x60) (hawake : s.dev.awake)
    (hegr : s.dev.drsEgr (unitAckOf s.dev i.m) = some x) : Completes (.unitCmd p i) s fun t =>
      (t.dev.cmd = s.dev.cmd.takeUnit (s.dev.fld A.CMD_SEQ F.CMD_SEQ_SEQ) i.m ∧
        t.dev.fld A.CMD_SEQ F.CMD_SEQ_SEQ = (s.dev.fld A.CMD_SEQ F.CMD_SEQ_SEQ + 1) % 2 ^ 32 ∧
        Sent (unitAckOf s.dev i.m) s.dev t.dev) ∧
      HeardDrs p i s.dev t.dev ∧ Changes [.cmd, .trf, .links] (· = A.CMD_SEQ) s.dev t.dev := by
  have hw := Work.heardDrs_dev s.dev p i
  have hact := post_unitCmdRow_awake (w := Work.heardDrs s.dev p i) (m := i.m) (x := x) (by rw [hw]; exact hawake)
    ((drsEgr_heardDrs ..).trans (by rw [hw]; exact hegr))
  refine completes_drsRow rfl h (by simp [isType, htype]) hact (by simp [Work.takeUnit]) (by simp [Work.takeUnit]) ?_ (drsViolCfg_ne (by decide))
    ⟨by rw [Work.add_dev, Upd.trf_cmd, Work.takeUnit, hw]; rfl, ?_, sentFor_mg (unitAckOf_cls ..) hegr (by rw [hw]; rfl)⟩
  · exact Foot.changes (u := .trf _) (by simp [Foot]) (changes_takeUnit (by simp) rfl (changes_heardDrs _ _ _ _ (by simp)))
  · rw [Work.add_dev, Upd.trf_fld, Work.takeUnit_seq, hw]
    rfl

/-- UNIT_ACK starts the wait for the member's completion (R41, R42). -/
theorem unitAck_starts_wait {f : Fan} (htype : i.m.type = 0x67) (hfan : s.dev.fanOf i.m.src i.m.tag = some f) :
    Completes (.unitAck p i) s fun t =>
      t.dev.cmd = s.dev.cmd.setMembers f.seq i.m.src (fun x =>
        if x.acked then x else { x with acked := true, due := s.dev.now + s.dev.unitDoneWait x.mgr }) ∧
      HeardDrs p i s.dev t.dev ∧ Changes [.cmd, .links] noReg s.dev t.dev := by
  have hact := post_unitAckMsg (w := Work.heardDrs s.dev p i) (m := i.m) (by rw [Work.heardDrs_dev]; exact hfan)
  refine completes_drsRow rfl h (by simp [isType, htype]) hact (by simp) (by simp)
    (changes_cmd (changes_heardDrs _ _ _ _ (by simp)) (by simp)) id ?_
  simp only [Work.add_dev, Upd.cmd_cmd, Work.heardDrs_dev]
  rfl

/-- UNIT_CPL of a member that is waited for keeps its completion (R41, R62). -/
theorem unitCpl_keeps_completion {f : Fan} (htype : i.m.type = 0x61) (hsettled : s.dev.settled)
    (hfan : s.dev.fanOf i.m.src i.m.tag = some f) : Completes (.unitCpl p i) s fun t =>
      t.dev.cmd = s.dev.cmd.setMembers f.seq i.m.src (fun x => { x with cpl := some (cplOfRecord (i.m.units.headD 0)) }) ∧
      HeardDrs p i s.dev t.dev ∧ Changes [.cmd, .links] noReg s.dev t.dev := by
  have hact := post_unitCplMsg_known (w := Work.heardDrs s.dev p i) (m := i.m) (by rw [Work.heardDrs_dev]; exact hsettled)
    (by rw [Work.heardDrs_dev]; exact hfan)
  refine completes_drsRow rfl h (by simp [isType, htype]) hact (by simp) (by simp)
    (changes_cmd (changes_heardDrs _ _ _ _ (by simp)) (by simp)) id ?_
  simp only [Work.add_dev, Upd.cmd_cmd, Work.heardDrs_dev]
  rfl

/-- UNIT_CPL that nobody waits for is counted (R41). -/
theorem unitCpl_late_counts (htype : i.m.type = 0x61) (hsettled : s.dev.settled) (hfan : s.dev.fanOf i.m.src i.m.tag = none) :
    Completes (.unitCpl p i) s fun t =>
      Counts A.TOP_UNIT_LATE_CNT 1 s.dev t.dev ∧ HeardDrs p i s.dev t.dev ∧ Changes [.links] (· = A.TOP_UNIT_LATE_CNT) s.dev t.dev := by
  have hact := post_unitCplMsg_late (w := Work.heardDrs s.dev p i) (m := i.m) (by rw [Work.heardDrs_dev]; exact hsettled)
    (by rw [Work.heardDrs_dev]; exact hfan)
  have hfoot : Emits (Foot [.links] (· = A.TOP_UNIT_LATE_CNT)) (bump A.TOP_UNIT_LATE_CNT) := Emits.bump rfl
  exact completes_drsRow rfl h (by simp [isType, htype]) hact (hfoot.replay_log (Work.heardDrs_log ..)) (by simp)
    (hfoot.changes_post (changes_heardDrs _ _ _ _ (by simp))) (drsViolCfg_ne (by decide))
    (counts_bump (by decide +kernel) (by decide +kernel) (by rw [Work.heardDrs_dev, Upd.links_reg]))

end

/-! ## Timers -/

/-- A member that has not answered in time fails with TIMEOUT (R41). -/
theorem post_memberTimeout {w : Work} {node : Nat} {acked : Bool} {f : Fan} {x : Member} (hsettled : w.dev.settled)
    (hfan : (w.dev.cmd.fans.find? fun f => f.members.any fun m => m.node == node && m.cpl.isNone && m.acked == acked) = some f)
    (hmember : (f.members.find? fun m => m.node == node && m.cpl.isNone && m.acked == acked) = some x) :
    M.post (memberTimeout node acked) w =
      (w.add (.now x.due)).add (.cmd (w.dev.cmd.setMembers f.seq node fun y => { y with cpl := some (fail Sc.timeout 0) })) := by
  simp only [memberTimeout, post_bind, val_dev, post_dev, hfan, hmember, post_passTo, post_modMember]
  exact post_settleTakeover_settled (settled_setMembers hsettled rfl)

theorem changes_now {parts : List Part} {regs : Nat → Prop} {d e : Dev} (h : Changes parts regs d e) {t : Nat} (hnow : Part.now ∈ parts) :
    Changes parts regs d ((Upd.now t).apply e) := Foot.changes (u := .now t) hnow h

theorem memberTimeout_fails {s : State} {node : Fin 16384} {acked : Bool} {f : Fan} {x : Member} (hsettled : s.dev.settled)
    (hfan : (s.dev.cmd.fans.find? fun f => f.members.any fun m => m.node == node.val && m.cpl.isNone && m.acked == acked) = some f)
    (hmember : (f.members.find? fun m => m.node == node.val && m.cpl.isNone && m.acked == acked) = some x) :
    Completes (if acked then .unitCplTimeout node else .unitAckTimeout node) s fun t =>
      t.dev.now = max s.dev.now x.due ∧
      t.dev.cmd = s.dev.cmd.setMembers f.seq node (fun y => { y with cpl := some { status := Sc.timeout } }) ∧
      Changes [.now, .cmd] noReg s.dev t.dev := by
  have hexec : exec (if acked then .unitCplTimeout node else .unitAckTimeout node) s = s.run (memberTimeout node acked) := by
    cases acked <;> rfl
  exact completes_run hexec (post_memberTimeout (w := ⟨s.dev, []⟩) hsettled hfan hmember) rfl
    ⟨rfl, rfl, changes_cmd (changes_now (Changes.refl ..) (by simp)) (by simp)⟩

/-- Commands that other devices carry out, message by message and timer by timer. -/
theorem unitScopeMessages : Clause.UnitScopeMessages := by
  intro s
  refine ⟨fun p i h => ⟨fun htype hawake hsome => ?_, fun f htype hfan => unitAck_starts_wait h htype hfan,
    fun f htype hsettled hfan => unitCpl_keeps_completion h htype hsettled hfan,
    fun htype hsettled hfan => unitCpl_late_counts h htype hsettled hfan⟩,
    fun node acked f x hsettled hfan hmember => memberTimeout_fails hsettled hfan hmember⟩
  obtain ⟨x, hegr⟩ := Option.isSome_iff_exists.mp hsome
  exact (unitCmd_accepted h htype hawake hegr).imp fun t ⟨⟨hcmd, hseq, hsent⟩, hheard, hchanges⟩ => ⟨hcmd, hseq, hsent, hheard, hchanges⟩

end Sys2Proof.Machine
end

section
/-! PROOFS. Serving the slices, the shapers, the stacks and the links changes neither the command interface nor the system blocks, but for what
running commands are told. -/

namespace Sys2Proof.Machine

/-- Whether a primitive change leaves the command interface and the system blocks as they are. -/
def Aside : Upd → Prop
  | .cmd _ => False
  | .sys _ => False
  | _ => True

/-! ## The named operations -/

theorem wr_aside {a : Nat} {v : Word} : Emits Aside (wr a v) := Emits.emit trivial
theorem fset_aside {a : Nat} {f : Fld} {x : Nat} : Emits Aside (fset a f x) := (Emits.rd a).bind fun _ => wr_aside
theorem fadd_aside {a : Nat} {f : Fld} {n : Nat} : Emits Aside (fadd a f n) := (Emits.fget a f).bind fun _ => fset_aside
theorem bump_aside {a : Nat} : Emits Aside (bump a) := fadd_aside
theorem bump48_aside {a n : Nat} : Emits Aside (bump48 a n) := fadd_aside
theorem modStore_aside {f : StoreSt → StoreSt} : Emits Aside (modStore f) := (Emits.look _).bind fun _ => Emits.emit trivial
theorem modEvq_aside {f : EvqSt → EvqSt} : Emits Aside (modEvq f) := (Emits.look _).bind fun _ => Emits.emit trivial
theorem modHome_aside {f : HomeSt → HomeSt} : Emits Aside (modHome f) := (Emits.look _).bind fun _ => Emits.emit trivial
theorem modStn_aside {f : StnSt → StnSt} : Emits Aside (modStn f) := (Emits.look _).bind fun _ => Emits.emit trivial
theorem modTrf_aside {f : TrfSt → TrfSt} : Emits Aside (modTrf f) := (Emits.look _).bind fun _ => Emits.emit trivial
theorem modFab_aside {f : FabSt → FabSt} : Emits Aside (modFab f) := (Emits.look _).bind fun _ => Emits.emit trivial
theorem modLink_aside {n : Nat} {f : Link → Link} : Emits Aside (modLink n f) := Emits.dev.bind fun _ => Emits.emit trivial
theorem wrMeta_aside {n : Nat} {x : Meta} : Emits Aside (wrMeta n x) := (Emits.look _).bind fun _ => Emits.emit trivial
theorem freeBelow_aside {n : Nat} : Emits Aside (freeBelow n) :=
  ((Emits.look _).bind fun _ => (Emits.emit trivial).bind fun _ => Emits.pure _).bind fun _ => Emits.pure _

theorem wrBytes_aside {a : Nat} {l : List Byte} : Emits Aside (wrBytes a l) := by
  induction l generalizing a with
  | nil => exact Emits.pure _
  | cons b l ih => exact (Emits.emit trivial).bind fun _ => ih

theorem setPortState_aside {port st : Nat} : Emits Aside (setPortState port st) := fset_aside

/-! ## Records -/

theorem raise_aside {code srcInst inst : Nat} {dom : Option Nat} {detail countA addr : Nat} :
    Emits Aside (raise code srcInst inst dom detail countA addr) :=
  Emits.now.bind fun _ => (Emits.on ((Emits.fget _ _).bind fun _ => Emits.ite wr_aside fadd_aside)).bind fun _ =>
    (Emits.look _).bind fun _ => Emits.ite (bump_aside.bind fun _ => modEvq_aside) modEvq_aside

/-! ## Egress -/

theorem shape_aside {dom n : Nat} : Emits Aside (shape dom n) := by
  induction n with
  | zero => exact Emits.pure _
  | succ n ih =>
    refine Emits.dev.bind fun d => ?_
    dsimp only
    split
    · exact (Emits.on fset_aside).bind fun _ => modTrf_aside.bind fun _ => ih
    · exact Emits.each fun _ _ => bump_aside.bind fun _ => modTrf_aside

theorem enqueue_aside {port cls vc : Nat} {dom : Option Nat} {msg : OMsg} : Emits Aside (enqueue port cls vc dom msg) := by
  cases dom with
  | none => exact Emits.now.bind fun _ => modTrf_aside
  | some n => exact Emits.now.bind fun _ => modTrf_aside.bind fun _ => (Emits.look _).bind fun _ => shape_aside

theorem sendTlk_aside {p : Nat} {dom : Option Nat} {m : TMsg} : Emits Aside (sendTlk p dom m) := enqueue_aside

theorem launch_aside {dir : Nat} {fwd : Bool} {dom : Option Nat} {m : DMsg} : Emits Aside (launch dir fwd dom m) :=
  Emits.dev.bind fun _ => enqueue_aside

theorem addDead_aside {node dir : Nat} : Emits Aside (addDead node dir) := Emits.dev.bind fun _ => modFab_aside.bind fun _ => wr_aside

theorem sendOwn_aside {dom : Option Nat} {n : Nat} {m : DMsg} : Emits Aside (sendOwn dom n m) := by
  induction n with
  | zero => exact Emits.pure _
  | succ n ih =>
    refine Emits.dev.bind fun d => ?_
    split
    · exact Emits.pure _
    · dsimp only
      split
      · exact Emits.pure _
      · exact Emits.ite launch_aside (bump_aside.bind fun _ => addDead_aside.bind fun _ => ih)

theorem sendDrsFor_aside {dom : Option Nat} {m : DMsg} : Emits Aside (sendDrsFor dom m) := sendOwn_aside
theorem sendDrs_aside {m : DMsg} : Emits Aside (sendDrs m) := sendOwn_aside
theorem sendExt_aside {dom : Option Nat} {m : DMsg} : Emits Aside (sendExt dom m) := (Emits.look _).bind fun _ => enqueue_aside

theorem countViolation_aside {port reason type x : Nat} : Emits Aside (countViolation port reason type x) := by
  refine Emits.now.bind fun _ => Emits.ite
    (bump_aside.bind fun _ => wr_aside.bind fun _ => raise_aside.bind fun _ => Emits.dev.bind fun d => ?_)
    (bump_aside.bind fun _ => wr_aside.bind fun _ => raise_aside.bind fun _ => Emits.dev.bind fun d => ?_)
  all_goals
    split
    · exact modLink_aside.bind fun _ => fset_aside
    · exact modLink_aside.bind fun _ => fadd_aside

/-! ## Lines of the store -/

theorem putLine_aside {n pcause : Nat} {v : Line} : Emits Aside (putLine n v pcause) :=
  (Emits.look _).bind fun _ => modStore_aside.bind fun _ => wrBytes_aside.bind fun _ => wrMeta_aside.bind fun _ =>
    (Emits.dev.bind fun _ => Emits.on bump48_aside).bind fun _ => Emits.on bump_aside

theorem poisonLine_aside {n pcause : Nat} : Emits Aside (poisonLine n pcause) := (Emits.look _).bind fun _ => putLine_aside
theorem setDir_aside {n dir : Nat} : Emits Aside (setDir n dir) := (Emits.look _).bind fun _ => wrMeta_aside

theorem writeDir_aside {n st ports : Nat} : Emits Aside (writeDir n st ports) :=
  Emits.dev.bind fun _ => Emits.ite (modHome_aside.bind fun _ => setDir_aside) (Emits.ite setDir_aside modHome_aside)

theorem loseOwner_aside {n : Nat} : Emits Aside (loseOwner n) := by
  refine Emits.dev.bind fun d => ?_
  split
  · exact modHome_aside.bind fun _ => putLine_aside
  · exact poisonLine_aside

theorem sendSnoop_aside {n p : Nat} {isRec : Bool} : Emits Aside (sendSnoop n p isRec) :=
  Emits.dev.bind fun _ => Emits.ite ((Emits.on loseOwner_aside).bind fun _ => Emits.on writeDir_aside)
    (modHome_aside.bind fun _ => sendTlk_aside)

theorem dcRoom_aside {n : Nat} : Emits Aside (dcRoom n) := by
  refine Emits.dev.bind fun d => Emits.ite (Emits.pure _) ?_
  split
  · exact modHome_aside.bind fun _ => setDir_aside.bind fun _ => bump_aside.bind fun _ => Emits.pure _
  · split
    · exact Emits.ite (Emits.pure _) (bump_aside.bind fun _ => (Emits.each fun _ _ => sendSnoop_aside).bind fun _ => Emits.pure _)
    · exact Emits.pure _

theorem markDirty_aside {n : Nat} : Emits Aside (markDirty n) := by
  refine Emits.dev.bind fun d => ?_
  split
  · exact Emits.pure _
  · exact Emits.ite modFab_aside modFab_aside

theorem writeLine_aside {n pcause : Nat} {mask : BitVec 64} {v : Line} : Emits Aside (writeLine n mask v pcause) := by
  have hput : ∀ {v pcause} {a : HAns}, Emits Aside (do putLine n v pcause; markDirty n; return a) :=
    putLine_aside.bind fun _ => markDirty_aside.bind fun _ => Emits.pure _
  have hpoison : ∀ {pcause} {a : HAns}, Emits Aside (do poisonLine n pcause; markDirty n; return a) :=
    poisonLine_aside.bind fun _ => markDirty_aside.bind fun _ => Emits.pure _
  exact Emits.dev.bind fun _ => Emits.ite (Emits.pure _) (Emits.ite hput (Emits.ite hpoison (Emits.ite hpoison hput)))

theorem readLine_aside {n : Nat} : Emits Aside (readLine n) :=
  (Emits.dev.bind fun _ => Emits.on bump48_aside).bind fun _ => Emits.dev.bind fun _ => Emits.pure _

theorem atomLine_aside {n off op size : Nat} {a b : BitVec 128} : Emits Aside (atomLine n off op size a b) :=
  Emits.dev.bind fun _ => Emits.ite (Emits.pure _) (putLine_aside.bind fun _ => markDirty_aside.bind fun _ => Emits.pure _)

/-! ## Reads and their symbol errors -/

theorem decodeErrs_aside {erased : Option Nat} {syms : List Nat} : Emits Aside (decodeErrs erased syms) := by
  have hfree : ∀ {f : Nat → Decoded}, Emits Aside (do let x ← freeBelow 2; return f x) := freeBelow_aside.bind fun _ => Emits.pure _
  cases erased with
  | none => exact Emits.ite (Emits.pure _) (Emits.ite (Emits.pure _) (Emits.ite (Emits.pure _) hfree))
  | some p => exact Emits.ite (Emits.pure _) (Emits.ite (Emits.pure _) (Emits.ite (Emits.pure _) hfree))

theorem startRepair_aside {s pc pin : Nat} : Emits Aside (startRepair s pc pin) := by
  refine Emits.dev.bind fun d => ?_
  split
  · exact fset_aside.bind fun _ => fset_aside
  · exact wr_aside.bind fun _ => modStore_aside

theorem setErased_aside {s pc pin : Nat} : Emits Aside (setErased s pc pin) :=
  fset_aside.bind fun _ => fset_aside.bind fun _ => Emits.dev.bind fun _ => fset_aside.bind fun _ => fset_aside

theorem tallyPin_aside {s pc pin : Nat} : Emits Aside (tallyPin s pc pin) := by
  refine Emits.dev.bind fun d => modStore_aside.bind fun _ => Emits.ite ?_ (Emits.pure _)
  split
  · exact setErased_aside.bind fun _ => raise_aside.bind fun _ => Emits.on startRepair_aside
  · exact Emits.on raise_aside

theorem countCorrected_aside {n : Nat} {syms : List Nat} {byScrub : Bool} : Emits Aside (countCorrected n syms byScrub) := by
  have hpins : ∀ {l : List Nat} {s pc}, Emits Aside (each l fun y => tallyPin s pc (pinOf y)) := Emits.each fun _ _ => tallyPin_aside
  exact (Emits.look _).bind fun _ => Emits.ite
    (bump_aside.bind fun _ => bump_aside.bind fun _ => wr_aside.bind fun _ => hpins)
    (bump_aside.bind fun _ => bump_aside.bind fun _ => wr_aside.bind fun _ => hpins)

theorem decodeRead_aside {n : Nat} {errs : SymErrs} {byScrub : Bool} : Emits Aside (decodeRead n errs byScrub) := by
  refine (Emits.look _).bind fun _ => decodeErrs_aside.bind fun r => ?_
  cases r with
  | corrected syms => exact countCorrected_aside.bind fun _ => Emits.pure _
  | clean => exact Emits.pure _
  | uncorrectable => exact Emits.pure _

theorem uncorrectable_aside {n : Nat} {errs : SymErrs} {byScrub : Bool} : Emits Aside (uncorrectable n errs byScrub) :=
  (bump_aside.bind fun _ => wr_aside.bind fun _ => raise_aside).bind fun _ => Emits.dev.bind fun _ => Emits.ite
    (modHome_aside.bind fun _ => Emits.each fun _ _ => sendSnoop_aside)
    ((Emits.on (Emits.each fun _ _ => sendSnoop_aside)).bind fun _ => putLine_aside.bind fun _ => writeDir_aside)

theorem settleRead_aside {who : Option Nat} {n : Nat} {byScrub : Bool} : Emits Aside (settleRead who n byScrub) := by
  refine Emits.dev.bind fun d => Emits.ite (Emits.pure _) (modStore_aside.bind fun _ => decodeRead_aside.bind fun r => ?_)
  cases r with
  | uncorrectable => exact (Emits.on modHome_aside).bind fun _ => uncorrectable_aside
  | clean => exact Emits.pure _
  | corrected syms => exact Emits.pure _

theorem touchLine_aside {n : Nat} : Emits Aside (touchLine n) :=
  Emits.dev.bind fun _ => modStore_aside.bind fun _ => Emits.on fset_aside

/-! ## Requests at the slices -/

theorem checkAccess_aside {off : Nat} {dom cls : Option Nat} : Emits Aside (checkAccess off dom cls) := by
  refine (Emits.look _).bind fun r => ?_
  dsimp only
  split
  · exact (Emits.on bump_aside).bind fun _ => Emits.pure _
  · exact Emits.pure _

theorem foundAnswer_aside {r : HReq} {a : HAns} : Emits Aside (foundAnswer r a) :=
  Emits.dev.bind fun _ => Emits.ite (modHome_aside.bind fun _ => Emits.pure _) (Emits.pure _)

theorem readDir_aside {r : HReq} : Emits Aside (readDir r) :=
  Emits.dev.bind fun _ => Emits.on (touchLine_aside.bind fun _ => settleRead_aside)

theorem applyReq_aside {r : HReq} : Emits Aside (applyReq r) := by
  refine Emits.dev.bind fun d => ?_
  dsimp only
  split
  · exact readLine_aside
  · exact (Emits.on writeDir_aside).bind fun _ => readLine_aside
  · refine readLine_aside.bind fun a => ?_
    split
    · exact writeDir_aside.bind fun _ => Emits.pure _
    · exact Emits.pure _
  · refine readLine_aside.bind fun a => ?_
    split
    · exact Emits.ite (writeDir_aside.bind fun _ => Emits.pure _) (writeDir_aside.bind fun _ => Emits.pure _)
    · exact Emits.pure _
  · exact writeLine_aside.bind fun _ => writeDir_aside.bind fun _ => Emits.pure _
  · exact atomLine_aside.bind fun _ => writeDir_aside.bind fun _ => Emits.pure _
  · exact writeLine_aside.bind fun _ => writeDir_aside.bind fun _ => Emits.pure _
  · split
    · exact Emits.ite (writeDir_aside.bind fun _ => Emits.pure _) ((Emits.on writeDir_aside).bind fun _ => Emits.pure _)
    · exact Emits.pure _

theorem tryReq_aside {r : HReq} : Emits Aside (tryReq r) := by
  refine checkAccess_aside.bind fun ref => ?_
  split
  · exact Emits.pure _
  · refine Emits.dev.bind fun d => Emits.ite (Emits.pure _) (Emits.ite (Emits.pure _) (Emits.ite (Emits.pure _) (Emits.ite (Emits.pure _)
      (Emits.ite (Emits.pure _) (readDir_aside.bind fun _ => Emits.dev.bind fun d => ?_)))))
    split
    · exact foundAnswer_aside.bind fun _ => Emits.pure _
    · refine (Emits.on modHome_aside).bind fun _ => (Emits.each fun _ _ => sendSnoop_aside).bind fun _ =>
        (Emits.each fun _ _ => sendSnoop_aside).bind fun _ => Emits.dev.bind fun d => Emits.ite (Emits.pure _) ?_
      refine Emits.ite (dcRoom_aside.bind fun room => ?_) ((Emits.pure true).bind fun room => ?_)
      all_goals exact Emits.ite (Emits.pure _) (touchLine_aside.bind fun _ => (Emits.on settleRead_aside).bind fun _ =>
        Emits.dev.bind fun _ => Emits.ite (Emits.pure _) (applyReq_aside.bind fun _ => foundAnswer_aside.bind fun _ =>
          modHome_aside.bind fun _ => Emits.pure _))

/-! ## Answers -/

theorem answerTlk_aside {p : Nat} {m : TMsg} {dom : Option Nat} {l : List HAns} : Emits Aside (answerTlk p m dom l) := by
  refine Emits.dev.bind fun d => ?_
  dsimp only
  split
  · exact Emits.ite (countViolation_aside.bind fun _ => sendTlk_aside) sendTlk_aside
  · exact Emits.ite sendTlk_aside (Emits.ite sendTlk_aside sendTlk_aside)

theorem recordReplay_aside {m ans : DMsg} : Emits Aside (recordReplay m ans) := by
  refine Emits.dev.bind fun d => Emits.on ?_
  dsimp only
  split
  · exact (Emits.on modFab_aside).bind fun _ => modFab_aside
  · exact modFab_aside

theorem finishGroup_aside {g : HGrp} {dom : Option Nat} : Emits Aside (finishGroup g dom) := by
  unfold finishGroup
  split
  · exact answerTlk_aside
  · exact Emits.dev.bind fun _ => (Emits.on recordReplay_aside).bind fun _ => sendDrsFor_aside.bind fun _ =>
      Emits.on ((Emits.look _).bind fun _ => modFab_aside.bind fun _ => Emits.each fun _ _ => bump_aside.bind fun _ => sendDrsFor_aside)
  · exact Emits.pure _
  · exact Emits.dev.bind fun _ => Emits.ite sendExt_aside sendDrsFor_aside
  · exact Emits.pure _
  · exact Emits.pure _

theorem openGroup_aside {src : Src} {ops : List HOp} {n : Nat} {dom cls : Option Nat} : Emits Aside (openGroup src ops n dom cls) :=
  (Emits.look _).bind fun _ => modHome_aside.bind fun _ => Emits.pure _

theorem openLanded_aside {m : DMsg} {dom : Option Nat} : Emits Aside (openLanded m dom) :=
  fadd_aside.bind fun _ => Emits.dev.bind fun _ => openGroup_aside.bind fun _ => modHome_aside

/-! ## Loss and quarantine of a port -/

theorem removePort_aside {n p : Nat} : Emits Aside (removePort n p) :=
  (Emits.look _).bind fun _ => Emits.ite writeDir_aside (Emits.pure _)

theorem snoopLost_aside {n p : Nat} : Emits Aside (snoopLost n p) :=
  (Emits.look _).bind fun _ => modHome_aside.bind fun _ => (Emits.on loseOwner_aside).bind fun _ => removePort_aside

theorem losePort_aside {p row : Nat} : Emits Aside (losePort p row) := by
  have hwalk : Emits Aside (startWalk p) :=
    Emits.dev.bind fun _ => fset_aside.bind fun _ => modHome_aside.bind fun _ =>
      (Emits.each fun _ _ => poisonLine_aside.bind fun _ => writeDir_aside).bind fun _ =>
        (Emits.each fun _ _ => removePort_aside).bind fun _ => modHome_aside
  exact modLink_aside.bind fun _ => fset_aside.bind fun _ => raise_aside.bind fun _ =>
    ((Emits.look _).bind fun _ => Emits.each fun _ _ => snoopLost_aside).bind fun _ => hwalk

theorem startWaitingMiss_aside : Emits Aside startWaitingMiss := by
  refine Emits.dev.bind fun d => ?_
  split
  · exact modStn_aside.bind fun _ => Emits.dev.bind fun _ => bump_aside.bind fun _ => sendTlk_aside
  · exact Emits.pure _

theorem countStall_aside {key : Nat} : Emits Aside (countStall key) := by
  refine Emits.dev.bind fun d => Emits.each fun r _ => ?_
  split
  · exact freeBelow_aside.bind fun _ => freeBelow_aside.bind fun _ => bump48_aside
  · exact Emits.pure _

theorem returnMsg_aside {m : DMsg} {dir : Nat} : Emits Aside (returnMsg m dir) :=
  bump_aside.bind fun _ => Emits.dev.bind fun _ => Emits.ite (Emits.pure _) (Emits.ite sendDrs_aside sendDrs_aside)

theorem returnOwn_aside {m : DMsg} {dom : Option Nat} {dir : Nat} : Emits Aside (returnOwn m dom dir) :=
  bump_aside.bind fun _ => Emits.dev.bind fun _ => Emits.ite (Emits.pure _)
    (addDead_aside.bind fun _ => Emits.ite modFab_aside sendDrsFor_aside)

theorem bounce_aside {dir : Nat} {e : Egr} : Emits Aside (bounce dir e) := by
  unfold bounce
  split
  · exact Emits.pure _
  · exact Emits.ite returnMsg_aside returnOwn_aside

theorem settlePort_aside {port : Nat} : Emits Aside (settlePort port) :=
  Emits.dev.bind fun _ => Emits.ite (Emits.pure _)
    (Emits.ite modTrf_aside (modTrf_aside.bind fun _ => Emits.each fun _ _ => bounce_aside))

theorem trunkCheckDown_aside {dir : Nat} : Emits Aside (trunkCheckDown dir) :=
  Emits.dev.bind fun _ => Emits.ite (modFab_aside.bind fun _ => fset_aside.bind fun _ => fset_aside) (Emits.pure _)

theorem pumpFover_aside {port : Nat} : Emits Aside (pumpFover port) := by
  have hflit : ∀ f, Emits Aside (emitFlit port 1 f) := fun f => (Emits.look _).bind fun _ => modTrf_aside.bind fun _ => modLink_aside
  exact (Emits.look _).bind fun _ => modLink_aside.bind fun _ => modLink_aside.bind fun _ => Emits.each fun f _ => hflit f

theorem failOver_aside {port st : Nat} : Emits Aside (failOver port st) := by
  refine Emits.dev.bind fun d => Emits.dev.bind fun e => ?_
  split
  · exact Emits.ite ((Emits.on bump_aside).bind fun _ => modLink_aside.bind fun _ => modLink_aside.bind fun _ => pumpFover_aside)
      (Emits.on (modLink_aside.bind fun _ => modLink_aside))
  · exact Emits.pure _

end Sys2Proof.Machine
end

section
/-! PROOFS. What serving the slices leaves of a command whose completion is decided: it stands, with its counts (R62, R191). -/

namespace Sys2Proof.Machine

/-! ## The commands in progress -/

/-- The command interface with every command in progress changed. -/
def CmdSt.mapRuns (x : CmdSt) (f : Run → Run) : CmdSt := { x with runs := x.runs.map f }

/-- The command of a sequence number after a change of the commands that keeps sequence numbers. -/
theorem runSeq_mapRuns {d e : Dev} {f : Run → Run} (hseq : ∀ r, (f r).seq = r.seq) (he : e.cmd = d.cmd.mapRuns f) (seq : Nat) :
    e.runSeq seq = (d.runSeq seq).map f := by
  simp [Dev.runSeq, he, CmdSt.mapRuns, List.find?_map, hseq]

/-- A completion that counts nothing as done and a number of other items. -/
def Cpl.countsOnly (c : Cpl) (b : Nat) : Prop := c.a = 0 ∧ c.b = b

/-- The system blocks are as given, and a command has a completion with the count given. -/
def Dev.concluded (x : SysSt) (seq b : Nat) (d : Dev) : Prop :=
  d.sys = x ∧ ∃ r c, d.runSeq seq = some r ∧ r.cpl = some c ∧ c.countsOnly b

section
variable {x : SysSt} {seq b : Nat}

/-- A change of the commands that keeps sequence numbers and the counts of completions leaves a concluded command concluded. -/
theorem concluded_mapRuns {d e : Dev} {f : Run → Run} (h : d.concluded x seq b) (hsys : e.sys = d.sys) (hseq : ∀ r, (f r).seq = r.seq)
    (hcpl : ∀ r c, r.cpl = some c → c.countsOnly b → ∃ c', (f r).cpl = some c' ∧ c'.countsOnly b) (he : e.cmd = d.cmd.mapRuns f) :
    e.concluded x seq b := by
  obtain ⟨hx, r, c, hrun, hc, hcounts⟩ := h
  obtain ⟨c', hc', hcounts'⟩ := hcpl r c hc hcounts
  exact ⟨hsys.trans hx, f r, c', by rw [runSeq_mapRuns hseq he, hrun]; rfl, hc', hcounts'⟩

/-- A change aside of the command interface and the system blocks leaves a concluded command concluded. -/
theorem concluded_aside {u : Upd} (hu : Aside u) {d : Dev} (h : d.concluded x seq b) : (u.apply d).concluded x seq b := by
  have hkept : (u.apply d).cmd = d.cmd ∧ (u.apply d).sys = d.sys := by
    cases u with
    | cmd | sys => exact hu.elim
    | _ => simp
  simpa [Dev.concluded, Dev.runSeq, hkept] using h

/-- An outcome of one of its accesses leaves a decided completion its counts: a write that fails changes its status (R166, R191, R211). -/
theorem Run.give_counts {r : Run} {c : Cpl} (g : Got) (hc : r.cpl = some c) (h : c.countsOnly b) : ∃ c', (r.give g).cpl = some c' ∧ c'.countsOnly b := by
  obtain ⟨ha, hb⟩ := h
  simp only [Run.give, hc, Option.getD_some]
  split_ifs <;> simp [Cpl.countsOnly, ha, hb]

theorem Run.give_seq (r : Run) (g : Got) : (r.give g).seq = r.seq := by
  unfold Run.give
  dsimp only
  split_ifs <;> rfl

theorem Run.missEnded_seq (r : Run) (key status detail : Nat) : (r.missEnded key status detail).seq = r.seq := by
  unfold Run.missEnded
  split <;> rfl

theorem Run.missEnded_cpl (r : Run) (key status detail : Nat) : (r.missEnded key status detail).cpl = r.cpl := by
  unfold Run.missEnded
  split <;> rfl

end

/-! ## Meanings that uphold a property -/

/-- Whatever the device, a meaning logs what it does, and a property that held before it holds after it. -/
structure Upholds {α : Type} (q : Dev → Prop) (m : M α) : Prop where
  logged : Emits (fun _ => True) m
  keeps : ∀ w, q w.dev → q (M.post m w).dev

section
variable {α β : Type} {q : Dev → Prop}

theorem Upholds.of_emits {p : Upd → Prop} {m : M α} (hm : Emits p m) (h : ∀ u, p u → ∀ d, q d → q (u.apply d)) : Upholds q m where
  logged w := by
    obtain ⟨l, hlog, hdev, -⟩ := hm w
    exact ⟨l, hlog, hdev, fun _ _ => trivial⟩
  keeps w hw := by
    obtain ⟨l, -, hdev, hl⟩ := hm w
    rw [hdev]
    exact Dev.replay_keeps (fun u hu => h u (hl u hu)) hw

theorem Upholds.pure (a : α) : Upholds q (Pure.pure a : M α) := ⟨Emits.pure a, fun _ h => h⟩

theorem Upholds.bind {m : M α} {f : α → M β} (hm : Upholds q m) (hf : ∀ a, Upholds q (f a)) : Upholds q (m >>= f) :=
  ⟨hm.logged.bind fun a => (hf a).logged, fun w h => (hf _).keeps _ (hm.keeps w h)⟩

/-- After a meaning that upholds a property its log makes its device, which has the property. -/
theorem Upholds.post {m : M α} (hm : Upholds q m) {d : Dev} {w : Work} (hlog : d.replay w.log = w.dev) (hw : q w.dev) :
    d.replay (M.post m w).log = (M.post m w).dev ∧ q (M.post m w).dev :=
  ⟨hm.logged.replay_log hlog, hm.keeps w hw⟩

theorem Upholds.ite {c : Prop} [Decidable c] {m n : M α} (hm : Upholds q m) (hn : Upholds q n) : Upholds q (if c then m else n) := by
  split <;> assumption

theorem Upholds.on {c : Bool} {m : M Unit} (hm : Upholds q m) : Upholds q (Machine.on c m) := by
  cases c
  · exact Upholds.pure ()
  · exact hm

theorem Upholds.each {l : List α} {f : α → M Unit} (hf : ∀ a, Upholds q (f a)) : Upholds q (Machine.each l f) := by
  induction l with
  | nil => exact Upholds.pure ()
  | cons a l ih => exact (hf a).bind fun _ => ih

end

/-! ## Serving -/

section
variable {x : SysSt} {seq b : Nat}

theorem Emits.upholds_concluded {α : Type} {m : M α} (h : Emits Aside m) : Upholds (Dev.concluded x seq b) m :=
  Upholds.of_emits h fun _ hu _ => concluded_aside hu

theorem look_upholds {α : Type} {f : Dev → α} : Upholds (Dev.concluded x seq b) (look f) := (Emits.look f).upholds_concluded
theorem dev_upholds : Upholds (Dev.concluded x seq b) dev := Emits.dev.upholds_concluded
theorem modHome_upholds {f : HomeSt → HomeSt} : Upholds (Dev.concluded x seq b) (modHome f) := modHome_aside.upholds_concluded

/-- Telling every command in progress something that keeps what concluded commands are known by. -/
theorem mapRuns_upholds {f : Run → Run} (hseq : ∀ r, (f r).seq = r.seq)
    (hcpl : ∀ r c, r.cpl = some c → c.countsOnly b → ∃ c', (f r).cpl = some c' ∧ c'.countsOnly b) :
    Upholds (Dev.concluded x seq b) (modCmd fun c => c.mapRuns f) where
  logged := (Emits.look _).bind fun _ => Emits.emit trivial
  keeps w h := concluded_mapRuns h (by simp) hseq hcpl (by simp)

theorem giveRun_upholds {n : Nat} {g : Got} : Upholds (Dev.concluded x seq b) (giveRun n g) := by
  refine mapRuns_upholds (f := fun r => if r.seq == n then r.give g else r) (fun r => ?_) fun r c hc hcounts => ?_
  · split
    · exact Run.give_seq r g
    · rfl
  · split
    · exact Run.give_counts g hc hcounts
    · exact ⟨c, hc, hcounts⟩

theorem endMiss_upholds {m : Miss} {status detail : Nat} : Upholds (Dev.concluded x seq b) (endMiss m status detail) :=
  modStn_aside.upholds_concluded.bind fun _ => countStall_aside.upholds_concluded.bind fun _ =>
    (mapRuns_upholds (fun r => Run.missEnded_seq r _ _ _) fun r c hc hcounts => ⟨c, (Run.missEnded_cpl r _ _ _).trans hc, hcounts⟩).bind fun _ =>
      startWaitingMiss_aside.upholds_concluded

theorem quarantineTlk_upholds {p : Nat} : Upholds (Dev.concluded x seq b) (quarantineTlk p) :=
  dev_upholds.bind fun _ => modLink_aside.upholds_concluded.bind fun _ => setPortState_aside.upholds_concluded.bind fun _ =>
    bump_aside.upholds_concluded.bind fun _ => raise_aside.upholds_concluded.bind fun _ => modTrf_aside.upholds_concluded.bind fun _ =>
      (Emits.each fun _ _ => bump_aside).upholds_concluded.bind fun _ =>
        (look_upholds.bind fun _ => Upholds.each fun _ => endMiss_upholds).bind fun _ => losePort_aside.upholds_concluded

theorem giveAnswer_upholds {r : HReq} {a : HAns} : Upholds (Dev.concluded x seq b) (giveAnswer r a) := by
  unfold giveAnswer
  split
  · exact giveRun_upholds
  · refine dev_upholds.bind fun d => ?_
    split
    · exact Upholds.pure _
    · refine Upholds.ite (modHome_upholds.bind fun _ => ?_) modHome_upholds
      split
      · exact openLanded_aside.upholds_concluded
      · exact finishGroup_aside.upholds_concluded

theorem serveList_upholds {l : List HReq} {lines issuers : List Nat} : Upholds (Dev.concluded x seq b) (serveList l lines issuers) := by
  induction l generalizing lines issuers with
  | nil => exact Upholds.pure _
  | cons r rest ih =>
    refine Upholds.ite ih (tryReq_aside.upholds_concluded.bind fun a => ?_)
    split
    · exact modHome_upholds.bind fun _ => giveAnswer_upholds.bind fun _ => ih
    · exact ih

theorem serveAll_upholds : Upholds (Dev.concluded x seq b) serveAll := by
  have hpasses : ∀ n, Upholds (Dev.concluded x seq b) (serveAllN n) := fun n => by
    induction n with
    | zero => exact Upholds.pure _
    | succ n ih =>
      exact (look_upholds.bind fun _ => serveList_upholds.bind fun _ => look_upholds.bind fun _ => Upholds.on serveList_upholds).bind fun _ =>
        (look_upholds.bind fun _ => (Upholds.each fun _ => quarantineTlk_upholds).bind fun _ => Upholds.pure _).bind fun _ => Upholds.on ih
  exact hpasses 5

theorem checkQuarantine_upholds {port : Nat} : Upholds (Dev.concluded x seq b) (checkQuarantine port) := by
  refine dev_upholds.bind fun _ => Upholds.on (Upholds.ite (quarantineTlk_upholds.bind fun _ => serveAll_upholds) ?_)
  exact dev_upholds.bind fun _ => modLink_aside.upholds_concluded.bind fun _ => setPortState_aside.upholds_concluded.bind fun _ =>
    bump_aside.upholds_concluded.bind fun _ => raise_aside.upholds_concluded.bind fun _ => (Emits.on failOver_aside).upholds_concluded.bind fun _ =>
      trunkCheckDown_aside.upholds_concluded.bind fun _ => (Emits.on settlePort_aside).upholds_concluded.bind fun _ =>
        (Emits.on settlePort_aside).upholds_concluded

/-- The writes of a report leave the completion of its command decided (R191). -/
theorem writeReport_upholds {r : Run} {l : List Byte} : Upholds (Dev.concluded x seq b) (writeReport r l) := by
  refine (mapRuns_upholds (f := fun y => if y.seq == r.seq then { y with outs := y.outs + (l.length + 63) / 64 } else y) (fun y => ?_)
    fun y c hc hcounts => ?_).bind fun _ => modHome_upholds.bind fun _ => serveAll_upholds
  · split <;> rfl
  · split <;> exact ⟨c, hc, hcounts⟩

end

end Sys2Proof.Machine
end

section
/-! PROOFS. Attestation between devices (R529, R531), and all of the remote commands (O40). -/

namespace Sys2Proof.Machine

/-! ## The command that waits -/

section
variable {w : Work} {r : Run}

theorem seq_of_runSeq {d : Dev} {seq : Nat} (h : d.runSeq seq = some r) : r.seq = seq := by
  simpa using List.find?_some h

/-- A command whose completion is not decided is carried on. -/
theorem post_again_undecided {seq : Nat} (hrun : w.dev.runSeq seq = some r) (hcpl : r.cpl = none) (body : Run → M Unit) :
    M.post (again seq body) w = M.post (body r) w := by
  simp [again, hrun, hcpl]

theorem Emits.setCpl {parts : List Part} {regs : Nat → Prop} (h : Part.cmd ∈ parts) (r : Run) (c : Cpl) :
    Emits (Foot parts regs) (Machine.setCpl r c) := Emits.modCmd h

theorem setCpl_sys (r : Run) (c : Cpl) : (M.post (setCpl r c) w).dev.sys = w.dev.sys := by
  simp [setCpl, modRun]

/-- A command given a completion: an earlier one stands (R191). -/
def Run.given (r : Run) (c : Cpl) : Run := { r with cpl := match r.cpl with | some e => some e | none => some c }

/-- A command without a completion has the one that it is given. -/
theorem runSeq_setCpl {seq : Nat} (hrun : w.dev.runSeq seq = some r) (hcpl : r.cpl = none) (c : Cpl) :
    (M.post (setCpl r c) w).dev.runSeq seq = some { r with cpl := some c } := by
  have hgiven := runSeq_mapRuns (d := w.dev) (e := (M.post (setCpl r c) w).dev)
    (f := fun y => if y.seq == r.seq then y.given c else y)
    (fun y => by split <;> rfl) rfl seq
  rw [hgiven, hrun]
  simp [Run.given, hcpl]

end

/-! ## Requests and their time -/

/-- The answer to an attestation request (R531). -/
def attestAnswerOf (d : Dev) (m : DMsg) : DMsg :=
  { type := 0x65, len := 5, dst := m.src, src := d.node, tag := m.tag, units := d.attestAns (m.units.headD 0) }

/-- The answer depends on nothing that a message leaves behind on its link. -/
theorem attestAnswerOf_heardDrs (d : Dev) (n : Nat) (i : DIn) (m : DMsg) : attestAnswerOf (Work.heardDrs d n i).dev m = attestAnswerOf d m := by
  have hentry : (Work.heardDrs d n i).dev.domEntry = d.domEntry := by
    funext k
    simp only [Work.heardDrs_dev, Dev.domEntry, Dev.domState, Upd.links_reg, Upd.links_fld]
  have hactive : (Work.heardDrs d n i).dev.activeDoms = d.activeDoms := by
    simp only [Work.heardDrs_dev, Dev.activeDoms, Dev.domState, Upd.links_fld]
  simp only [attestAnswerOf, Dev.attestAns, Dev.report, Dev.reportBody, Dev.domSection, hentry, hactive]
  simp only [Work.heardDrs_dev, Dev.node, Dev.span, Upd.links_reg, Upd.links_fld]

theorem attestAnswerOf_cls (d : Dev) (m : DMsg) : drsCls (attestAnswerOf d m).type = 0 := (by decide : drsCls 0x65 = 0)

theorem post_attestRequestMsg_answered {w : Work} {m : DMsg} {x : Egr} (hkind : kindOf m = 1) (hruns : w.dev.canStart = true)
    (hegr : w.dev.drsEgr (attestAnswerOf w.dev m) = some x) :
    M.post (on (kindOf m == 1) (attestRequestMsg m)) w = w.add (.trf (w.dev.trf.queue x)) := by
  have hsent := post_sendDrs_mg (attestAnswerOf_cls w.dev m) hegr
  simp only [hkind, beq_self_eq_true, attestRequestMsg, post_bind, val_dev, post_dev, Dev.answersAttest, hruns, on_true]
  exact hsent

theorem post_attestAnswered_unasked {w : Work} {units : List Line} (h : w.dev.sys.boot.asks = []) : M.post (attestAnswered units) w = w := by
  simp only [attestAnswered, post_bind, val_dev, post_dev, h, List.find?_nil, post_pure]

/-- The row ATTEST_REQUEST acts on requests alone, and takes kinds that no rule defines without effect. -/
theorem exec_attestRequest (p : Fin 12) (i : DIn) (s : State) :
    exec (.attestRequest p i) s = drsRow p i (isKind 0x65 1 2) (fun m => on (kindOf m == 1) (attestRequestMsg m)) s := rfl

section
variable {s : State} {p : Fin 12} {i : DIn} (h : s.dev.drsServed p i) (htype : i.m.type = 0x65)
include h htype

theorem attestRequest_answered (hkind : kindOf i.m = 1) (hruns : s.dev.canStart = true) {x : Egr}
    (hegr : s.dev.drsEgr (attestAnswerOf s.dev i.m) = some x) : Completes (.attestRequest p i) s fun t =>
      Sent (attestAnswerOf s.dev i.m) s.dev t.dev ∧ HeardDrs p i s.dev t.dev ∧ Changes [.trf, .links] noReg s.dev t.dev := by
  have hw := Work.heardDrs_dev s.dev p i
  have hact := post_attestRequestMsg_answered (w := Work.heardDrs s.dev p i) (x := x) hkind (by rw [hw]; exact hruns)
    (by rw [drsEgr_heardDrs, attestAnswerOf_heardDrs]; exact hegr)
  exact completes_drsRow (exec_attestRequest ..) h (by simp [isKind, htype, hkind]) hact (by simp) (by simp)
    (Foot.changes (u := .trf _) (by simp [Foot]) (changes_heardDrs _ _ _ _ (by simp))) id
    (sentFor_mg (attestAnswerOf_cls ..) hegr (by rw [hw]; rfl))

theorem attestRequest_unanswered (hkind : kindOf i.m = 1) (hruns : s.dev.canStart = false) :
    Completes (.attestRequest p i) s fun t => HeardDrs p i s.dev t.dev ∧ Changes [.links] noReg s.dev t.dev := by
  have hruns' : (Work.heardDrs s.dev p i).dev.canStart = false := by rw [Work.heardDrs_dev]; exact hruns
  exact completes_drsRow_heard (exec_attestRequest ..) h (by simp [isKind, htype, hkind]) (by simp [hkind, attestRequestMsg, Dev.answersAttest, hruns'])

theorem attestAnswer_unasked (hkind : kindOf i.m = 2) (hasks : s.dev.sys.boot.asks = []) :
    Completes (.attestAnswer p i) s fun t => HeardDrs p i s.dev t.dev ∧ Changes [.links] noReg s.dev t.dev :=
  completes_drsRow_heard rfl h (by simp [isKind, htype, hkind])
    (post_attestAnswered_unasked (by rw [Work.heardDrs_dev]; exact hasks))

end

theorem attestTimeout_fails {s : State} {a : Nat × Nat × Nat} {rest : List (Nat × Nat × Nat)} {r : Run}
    (hasks : s.dev.sys.boot.asks = a :: rest) (hrun : s.dev.runSeq a.1 = some r) (hcpl : r.cpl = none) :
    Completes .attestTimeout s fun t =>
      t.dev.now = max s.dev.now a.2.2 ∧ t.dev.sys = { s.dev.sys with boot := { s.dev.sys.boot with asks := rest } } ∧
      Completed r { status := Sc.timeout, detail := 0xF0 } t.dev ∧ Changes [.now, .sys, .cmd] noReg s.dev t.dev := by
  let x : SysSt := { s.dev.sys with boot := { s.dev.sys.boot with asks := rest } }
  let w : Work := (Work.add ⟨s.dev, []⟩ (.now a.2.2)).add (.sys x)
  have hrun' : w.dev.runSeq a.1 = some r := hrun
  have hpost : M.post attestTimeout ⟨s.dev, []⟩ = M.post (setCpl r (fail Sc.timeout 0xF0)) w := by
    simp only [attestTimeout, post_bind, val_dev, post_dev, hasks, post_passTo, post_modBoot]
    exact post_again_undecided hrun' hcpl _
  have hfoot : Emits (Foot [.now, .sys, .cmd] noReg) (setCpl r (fail Sc.timeout 0xF0)) := Emits.setCpl (by simp) r _
  have hparts : Changes [.now, .sys, .cmd] noReg s.dev w.dev := changes_sys (changes_now (Changes.refl ..) (by simp)) (by simp)
  refine completes_run rfl hpost (hfoot.replay_log rfl) ⟨rfl, setCpl_sys .., ?_, hfoot.changes_post hparts⟩
  rw [Completed, seq_of_runSeq hrun, runSeq_setCpl hrun' hcpl]
  rfl

/-! ## Answers -/

/-- The system blocks without an attestation that has been answered. -/
def SysSt.answered (x : SysSt) (a : Nat × Nat × Nat) : SysSt := { x with boot := { x.boot with asks := x.boot.asks.erase a } }

/-- COUNT_B of an attestation by another node, from its report: how many domains are ACTIVE there (R531). -/
def reportedDoms (units : List Line) : Nat := leAt ((units.drop 1).flatMap lineBytes) 6 1 % 64

theorem okCpl_countsOnly (b result : Nat) : (okCpl 0 b result).countsOnly b := ⟨rfl, rfl⟩

/-- An answer leaves the command that waited for it concluded, whatever the writes of the report come to. -/
theorem attestAnswered_concludes {d : Dev} {w : Work} {units : List Line} {a : Nat × Nat × Nat} {r : Run} (hlog : d.replay w.log = w.dev)
    (hask : (w.dev.sys.boot.asks.find? fun a => a.2.1 == le (units.headD 0) 4 2 && w.dev.node == bits (units.headD 0) 16 14) = some a)
    (hrun : w.dev.runSeq a.1 = some r) (hcpl : r.cpl = none) :
    d.replay (M.post (attestAnswered units) w).log = (M.post (attestAnswered units) w).dev ∧
      (M.post (attestAnswered units) w).dev.concluded (w.dev.sys.answered a) a.1 (reportedDoms units) := by
  let w' : Work := w.add (.sys (w.dev.sys.answered a))
  let c : Cpl := okCpl 0 (reportedDoms units) 256
  have hrun' : w'.dev.runSeq a.1 = some r := hrun
  have hpost : M.post (attestAnswered units) w =
      M.post (writeReport r (((units.drop 1).flatMap lineBytes).take 256)) (M.post (setCpl r c) w') := by
    simp only [attestAnswered, post_bind, val_dev, post_dev, hask, post_modBoot]
    exact (post_again_undecided hrun' hcpl _).trans (post_bind ..)
  have hset : (M.post (setCpl r c) w').dev.concluded (w.dev.sys.answered a) a.1 (reportedDoms units) :=
    ⟨setCpl_sys .., _, c, runSeq_setCpl hrun' hcpl c, rfl, okCpl_countsOnly ..⟩
  have hlog' : d.replay (M.post (setCpl r c) w').log = (M.post (setCpl r c) w').dev :=
    (Emits.setCpl (regs := noReg) (List.mem_singleton_self _) r c).replay_log (by simp [w', hlog])
  rw [hpost]
  exact writeReport_upholds.post hlog' hset

theorem attestAnswer_completes {s : State} {p : Fin 12} {i : DIn} {a : Nat × Nat × Nat} {r : Run} (h : s.dev.drsServed p i)
    (htype : i.m.type = 0x65) (hkind : kindOf i.m = 2)
    (hask : (s.dev.sys.boot.asks.find? fun a => a.2.1 == le (i.m.units.headD 0) 4 2 && s.dev.node == bits (i.m.units.headD 0) 16 14) = some a)
    (hrun : s.dev.runSeq a.1 = some r) (hcpl : r.cpl = none) : Completes (.attestAnswer p i) s fun t =>
      t.dev.sys = s.dev.sys.answered a ∧ ∃ c, Completed r c t.dev ∧ c.countsOnly (reportedDoms i.m.units) := by
  have hw := Work.heardDrs_dev s.dev p i
  obtain ⟨hlog, hconcluded⟩ := attestAnswered_concludes (d := s.dev) (w := Work.heardDrs s.dev p i) (units := i.m.units) (a := a) (r := r)
    (Work.heardDrs_log ..) (by rw [hw]; exact hask) (by rw [hw]; exact hrun) hcpl
  obtain ⟨hlog', hsys, r', c, hrun', hc, hcounts⟩ := (checkQuarantine_upholds (port := p + 4)).post hlog hconcluded
  refine completes_runIf rfl (h.takes (by simp [isKind, htype, hkind])) (post_drsMsg_served (w := ⟨s.dev, []⟩) h (attestAnswered i.m.units))
    hlog' ⟨hsys.trans (by rw [hw]; rfl), c, ?_, hcounts⟩
  rw [Completed, seq_of_runSeq hrun]
  exact (congrArg (·.bind (·.cpl)) hrun').trans hc

/-! ## Both clauses -/

/-- Attestation between devices, message by message and for its timer. -/
theorem remoteAttestation : Clause.RemoteAttestation := by
  intro s
  refine ⟨fun p i h htype => ⟨fun hkind hruns hsome => ?_, fun hkind hruns => attestRequest_unanswered h htype hkind hruns,
    fun a r hkind hask hrun hcpl => attestAnswer_completes h htype hkind hask hrun hcpl,
    fun hkind hasks => attestAnswer_unasked h htype hkind hasks⟩, fun a rest r hasks hrun hcpl => attestTimeout_fails hasks hrun hcpl⟩
  obtain ⟨x, hegr⟩ := Option.isSome_iff_exists.mp hsome
  exact attestRequest_answered h htype hkind hruns hegr

/-- Settles O40: commands of unit scope and remote attestation. -/
theorem remoteCommands : Obligations.RemoteCommands :=
  ⟨unitScopeMessages, remoteAttestation⟩

end Sys2Proof.Machine
end

section
/-! PROOFS. Command queues: their control bits (O9) and their doorbells (O10). -/

namespace Sys2Proof.Machine

/-! ## Fields of registers -/

/-- A register that stores every bit of a field. -/
abbrev takesFld (a : Nat) (f : Fld) : Prop := assigned a = true ∧ f.lo + f.w ≤ 64 ∧ f.of (readMask a) = 2 ^ f.w - 1

section
variable {a b : Nat} {f g : Fld}

theorem fld_fset (h : takesFld a f) (x : Nat) (w : Work) : (M.post (fset a f x) w).dev.fld a f = x % 2 ^ f.w :=
  Dev.fld_csr_put h.1 h.2.1 h.2.2 (w.dev.reg a) x w.dev

theorem fld_fset_other (h : takesFld a g) (hfg : g.lo + g.w ≤ f.lo ∨ f.lo + f.w ≤ g.lo) (x : Nat) (w : Work) :
    (M.post (fset a f x) w).dev.fld a g = w.dev.fld a g :=
  Dev.fld_csr_put_other h.1 h.2.1 hfg h.2.2 (w.dev.reg a) x w.dev

theorem reg_fset_ne (h : b ≠ a) (x : Nat) (w : Work) : (M.post (fset a f x) w).dev.reg b = w.dev.reg b := by simp [h]

theorem fld_fset_ne (h : b ≠ a) (x : Nat) (w : Work) : (M.post (fset a f x) w).dev.fld b g = w.dev.fld b g :=
  Dev.fld_csr_ne h ..

end

/-- A field of a register that a footprint leaves out reads as before. -/
theorem Changes.fld {parts : List Part} {regs : Nat → Prop} {d e : Dev} (h : Changes parts regs d e) {a : Nat} (ha : ¬ regs a) (f : Fld) :
    e.fld a f = d.fld a f :=
  congrArg f.of (h.regs a ha)

/-- The registers of a queue store their fields. -/
theorem takesFld_queue : ∀ q < 512,
    (∀ f ∈ [F.CMD_Q_CFG_ENABLE, F.CMD_Q_CFG_KIND, F.CMD_Q_CFG_PORT, F.CMD_Q_CFG_TILE_FIRST, F.CMD_Q_CFG_TILE_COUNT_M1],
      takesFld (A.CMD_Q_CFG q) f) ∧
    (∀ f ∈ [F.CMD_Q_STATE_STATE, F.CMD_Q_STATE_ERR], takesFld (A.CMD_Q_STATE q) f) ∧
    ∀ f ∈ [F.CMD_Q_PTR_PROD, F.CMD_Q_PTR_CONS, F.CMD_Q_PTR_CQ_TAIL, F.CMD_Q_PTR_CQ_HEAD], takesFld (A.CMD_Q_PTR q) f := by
  decide +kernel

/-! ## Footprints -/

theorem Emits.mono {α : Type} {p p' : Upd → Prop} {m : M α} (hm : Emits p m) (h : ∀ u, p u → p' u) : Emits p' m := fun w => by
  obtain ⟨l, hlog, hdev, hl⟩ := hm w
  exact ⟨l, hlog, hdev, fun u hu => h u (hl u hu)⟩

theorem Foot.mono {parts parts' : List Part} {regs regs' : Nat → Prop} (hparts : parts ⊆ parts') (hregs : ∀ a, regs a → regs' a) {u : Upd}
    (h : Foot parts regs u) : Foot parts' regs' u := by
  cases u with
  | csr a v => exact hregs a h
  | csrReset | csrBlock | mem | memClear => exact h
  | _ => exact hparts h

/-- A command completes with what its meaning, whose changes are known, makes of the device. -/
theorem completes_emits {p : Upd → Prop} {c : Instr} {s : State} {m : M Unit} {w : Work} {post : State → Prop} (hexec : exec c s = s.run m)
    (hm : Emits p m) (hpost : M.post m ⟨s.dev, []⟩ = w) (h : post { s with dev := w.dev }) : Completes c s post :=
  completes_run hexec hpost (by rw [← hpost]; exact hm.replay_log rfl) h

section
variable {parts : List Part} {regs : Nat → Prop}

theorem Emits.latchFatal {r : Rec} (hsticky : regs A.TOP_FATAL_STICKY) : Emits (Foot parts regs) (Machine.latchFatal r) :=
  (Emits.fget _ _).bind fun _ => Emits.ite (Emits.wr hsticky) (Emits.fadd hsticky)

theorem Emits.holdRec {srcInst x : Nat} {r : Rec} (hevq : Part.evq ∈ parts) (hdrop : regs (A.EVQ_X_DROP_CNT x)) :
    Emits (Foot parts regs) (Machine.holdRec srcInst x r) := by
  refine (Emits.look _).bind fun e => ?_
  dsimp only
  exact Emits.ite ((Emits.bump hdrop).bind fun _ => Emits.modEvq hevq) (Emits.modEvq hevq)

/-- Raising a record changes the event queues and the registers that latch or count it. -/
theorem Emits.raise {code srcInst inst : Nat} {dom : Option Nat} {detail countA addr : Nat} (hevq : Part.evq ∈ parts)
    (hsticky : regs A.TOP_FATAL_STICKY) (hdrop : regs (A.EVQ_X_DROP_CNT (recQueue code))) :
    Emits (Foot parts regs) (Machine.raise code srcInst inst dom detail countA addr) :=
  Emits.now.bind fun _ => (Emits.on (Emits.latchFatal hsticky)).bind fun _ => Emits.holdRec hevq hdrop

/-- Releasing a job changes the engines, the copies it holds, its background commands and the count of releases. -/
theorem Emits.releaseJob {q : Nat} (hcmd : Part.cmd ∈ parts) (heng : Part.eng ∈ parts) (hown : Part.own ∈ parts)
    (hcnt : ∀ i, regs (A.STR_RELEASE_CNT i)) : Emits (Foot parts regs) (Machine.releaseJob q) := by
  refine Emits.dev.bind fun d => ?_
  dsimp only
  split
  · exact (Emits.bump (hcnt _)).bind fun _ => (Emits.modEng heng).bind fun _ => (Emits.modOwn hown).bind fun _ => Emits.modCmd hcmd
  · exact (Emits.modEng heng).bind fun _ => (Emits.modOwn hown).bind fun _ => Emits.modCmd hcmd

theorem Emits.leaveRunning {q : Nat} (hcmd : Part.cmd ∈ parts) (heng : Part.eng ∈ parts) (hown : Part.own ∈ parts)
    (hcnt : ∀ i, regs (A.STR_RELEASE_CNT i)) : Emits (Foot parts regs) (Machine.leaveRunning q) :=
  (Emits.modCmd hcmd).bind fun _ => Emits.releaseJob hcmd heng hown hcnt

/-- Settling a queue changes its state at most. -/
theorem Emits.settleQueue {q : Nat} (hstate : regs (A.CMD_Q_STATE q)) : Emits (Foot parts regs) (Machine.settleQueue q) :=
  Emits.dev.bind fun _ => Emits.on (Emits.fset hstate)

theorem Emits.haltQueue {q err addr : Nat} (hcmd : Part.cmd ∈ parts) (heng : Part.eng ∈ parts) (hown : Part.own ∈ parts)
    (hevq : Part.evq ∈ parts) (hstate : regs (A.CMD_Q_STATE q)) (hcnt : ∀ i, regs (A.STR_RELEASE_CNT i))
    (hsticky : regs A.TOP_FATAL_STICKY) (hdrop : ∀ code, regs (A.EVQ_X_DROP_CNT (recQueue code))) :
    Emits (Foot parts regs) (Machine.haltQueue q err addr) :=
  (Emits.fset hstate).bind fun _ => (Emits.fset hstate).bind fun _ => (Emits.leaveRunning hcmd heng hown hcnt).bind fun _ =>
    Emits.raise hevq hsticky (hdrop _)

end

/-! ## Leaving RUNNING -/

/-- What a queue that leaves RUNNING has accepted it keeps; its doorbells, its job, its retained copies and its background commands go. -/
theorem leaveRunning_drops (q : Nat) (w : Work) :
    (M.post (leaveRunning q) w).dev.cmd = { w.dev.cmd with
      bells := w.dev.cmd.bells.filter (fun b => b.q != q), runs := w.dev.cmd.runs.filter fun r => r.iss != .bg q } ∧
    (M.post (leaveRunning q) w).dev.eng.jobs = w.dev.eng.jobs.filter (fun j => j.queue != q) ∧
    (M.post (leaveRunning q) w).dev.own.ret = w.dev.own.ret.filter (fun x => x.queue != q) := by
  unfold leaveRunning releaseJob
  simp only [post_bind, post_modCmd, val_dev, post_dev]
  split <;> simp

/-- The registers that latch or count a record that is raised. -/
def recordRegs (a : Nat) : Prop := a = A.TOP_FATAL_STICKY ∨ ∃ code, a = A.EVQ_X_DROP_CNT (recQueue code)

/-- The registers that change where a queue leaves RUNNING and reports it. -/
def leaveRegs (a : Nat) : Prop := (∃ i, a = A.STR_RELEASE_CNT i) ∨ recordRegs a

theorem leave_and_raise_emits (q code countA addr : Nat) :
    Emits (Foot [.cmd, .eng, .own, .evq] leaveRegs) (leaveRunning q >>= fun _ => raise code 0 q none countA 0 addr) :=
  (Emits.leaveRunning (by simp) (by simp) (by simp) fun i => .inl ⟨i, rfl⟩).bind fun _ =>
    Emits.raise (by simp) (.inr (.inl rfl)) (.inr (.inr ⟨_, rfl⟩))

/-- Where the registers of a record are: in the event block, or the sticky register. -/
theorem recordRegs_range {a : Nat} (h : recordRegs a) : 0x40000 ≤ a ∧ a < 0x50000 ∨ a = 0x100 := by
  obtain rfl | ⟨code, rfl⟩ := h
  · exact .inr rfl
  · refine .inl ?_
    unfold recQueue
    split_ifs <;> decide

/-- Where those registers are: above the blocks of the queues too. -/
theorem leaveRegs_range {a : Nat} (h : leaveRegs a) : 0x100000 ≤ a ∨ 0x40000 ≤ a ∧ a < 0x50000 ∨ a = 0x100 := by
  obtain ⟨i, rfl⟩ | h := h
  · exact .inl (by simp only [A.STR_RELEASE_CNT]; omega)
  · exact .inr (recordRegs_range h)

/-- No register of a queue is one of those. -/
theorem not_leaveRegs {a : Nat} (hlo : 0x50000 ≤ a) (hhi : a < 0x100000) : ¬ leaveRegs a := fun h => by
  have := leaveRegs_range h
  omega

/-- A queue that halts says so with its ERR, and beside that changes what it changes as it leaves RUNNING. -/
theorem haltQueue_halts {q : Nat} (hq : q < 512) {err : Nat} (herr : err < 16) (addr : Nat) (w : Work) :
    let e := (M.post (haltQueue q err addr) w).dev
    e.qstate q = Qs.halted ∧ e.fld (A.CMD_Q_STATE q) F.CMD_Q_STATE_ERR = err ∧
    Changes [.cmd, .eng, .own, .evq] (fun a => a = A.CMD_Q_STATE q ∨ leaveRegs a) w.dev e := by
  obtain ⟨-, hstate, -⟩ := takesFld_queue q hq
  let w₁ := M.post (fset (A.CMD_Q_STATE q) F.CMD_Q_STATE_STATE Qs.halted) w
  let w₂ := M.post (fset (A.CMD_Q_STATE q) F.CMD_Q_STATE_ERR err) w₁
  have hrest := (leave_and_raise_emits q Ev.cmdQHalted err addr).changes_post (Changes.refl _ _ w₂.dev)
  have hkept : ¬ leaveRegs (A.CMD_Q_STATE q) := not_leaveRegs (by simp only [A.CMD_Q_STATE]; omega) (by simp only [A.CMD_Q_STATE]; omega)
  refine ⟨?_, ?_, ?_⟩
  · exact (hrest.fld hkept _).trans ((fld_fset_other (hstate _ (by simp)) (by decide) err w₁).trans (fld_fset (hstate _ (by simp)) _ w))
  · exact (hrest.fld hkept _).trans ((fld_fset (hstate _ (by simp)) err w₁).trans (Nat.mod_eq_of_lt herr))
  · exact ((Emits.fset (.inl rfl)).bind fun _ => (Emits.fset (.inl rfl)).bind fun _ =>
      (leave_and_raise_emits q Ev.cmdQHalted err addr).mono fun u hu => hu.mono (List.Subset.refl _) fun a => .inr).changes_post (Changes.refl _ _ w.dev)

/-- What a queue that halts has accepted it keeps; its doorbells and its background commands go. -/
theorem haltQueue_drops (q err addr : Nat) (w : Work) : (M.post (haltQueue q err addr) w).dev.cmd =
    { w.dev.cmd with bells := w.dev.cmd.bells.filter (fun b => b.q != q), runs := w.dev.cmd.runs.filter fun r => r.iss != .bg q } := by
  let w₂ := M.post (fset (A.CMD_Q_STATE q) F.CMD_Q_STATE_ERR err) (M.post (fset (A.CMD_Q_STATE q) F.CMD_Q_STATE_STATE Qs.halted) w)
  have hraise : Changes [.evq] recordRegs (M.post (leaveRunning q) w₂).dev (M.post (haltQueue q err addr) w).dev :=
    (Emits.raise (by simp) (.inl rfl) (.inr ⟨_, rfl⟩)).changes_post (Changes.refl ..)
  have hsame : w₂.dev.cmd = w.dev.cmd := by simp [w₂]
  rw [hraise.parts .cmd (by simp), (leaveRunning_drops q w₂).1, hsame]

/-! ## The control bits -/

/-- Whether a descriptor is valid is a matter of the ring registers, the extents and the fields of its configuration. -/
theorem queueOk_congr {d e : Dev} {q : Nat}
    (hcfg : ∀ f ∈ [F.CMD_Q_CFG_KIND, F.CMD_Q_CFG_PORT, F.CMD_Q_CFG_TILE_FIRST, F.CMD_Q_CFG_TILE_COUNT_M1], e.qcfg q f = d.qcfg q f)
    (hreg : ∀ a, a ≠ A.CMD_Q_CFG q → e.reg a = d.reg a) (hq : q < 512) : e.queueOk q = d.queueOk q := by
  have hring : e.fld (A.CMD_Q_RING q) = d.fld (A.CMD_Q_RING q) := by
    funext f; exact congrArg f.of (hreg _ (by simp only [A.CMD_Q_RING, A.CMD_Q_CFG]; omega))
  have hcq : e.fld (A.CMD_Q_CQ q) = d.fld (A.CMD_Q_CQ q) := by
    funext f; exact congrArg f.of (hreg _ (by simp only [A.CMD_Q_CQ, A.CMD_Q_CFG]; omega))
  have hext : e.extState = d.extState := by
    funext x; exact congrArg F.DOM_EXT_TAG_STATE.of (hreg _ (by simp only [A.DOM_EXT_TAG, A.CMD_Q_CFG]; omega))
  have hlse : ∀ x, e.fld (A.LSE_EXT x) = d.fld (A.LSE_EXT x) := fun x => by
    funext f; exact congrArg f.of (hreg _ (by simp only [A.LSE_EXT, A.CMD_Q_CFG]; omega))
  have hleased : e.leasedTo = d.leasedTo := by
    funext p lo len
    simp only [Dev.leasedTo, hext, hlse]
  simp only [List.forall_mem_cons] at hcfg
  obtain ⟨hkind, hport, hfirst, hcount, -⟩ := hcfg
  unfold Dev.queueOk Dev.tileFirst
  rw [hring, hcq, hleased, hkind, hport, hfirst, hcount]

section
variable {q : Nat} (hq : q < 512) (x : Nat) (w : Work)
include hq

/-- Storing ENABLE changes no state and no descriptor. -/
theorem fset_enable_keeps : (M.post (fset (A.CMD_Q_CFG q) F.CMD_Q_CFG_ENABLE x) w).dev.qstate q = w.dev.qstate q ∧
    (M.post (fset (A.CMD_Q_CFG q) F.CMD_Q_CFG_ENABLE x) w).dev.queueOk q = w.dev.queueOk q := by
  obtain ⟨hcfg, -, -⟩ := takesFld_queue q hq
  refine ⟨fld_fset_ne (by simp only [A.CMD_Q_STATE, A.CMD_Q_CFG]; omega) x w, queueOk_congr (fun f hf => ?_) (fun a ha => reg_fset_ne ha x w) hq⟩
  exact fld_fset_other (hcfg f (List.mem_cons_of_mem _ hf)) (by fin_cases hf <;> decide) x w

end

theorem queueEnable_emits (q : Fin 512) : Emits (Foot [.cmd, .eng, .own, .evq] fun _ => True) (queueEnable q) :=
  (Emits.fset trivial).bind fun _ => Emits.dev.bind fun _ => Emits.ite (Emits.pure _)
    (Emits.ite ((Emits.fset trivial).bind fun _ => Emits.fset trivial)
      (Emits.haltQueue (by simp) (by simp) (by simp) (by simp) trivial (fun _ => trivial) trivial fun _ => trivial))

theorem queueEnable_takes_bit : Clause.QueueEnable := by
  intro s q
  obtain ⟨hcfg, hqstate, -⟩ := takesFld_queue q q.isLt
  let w₁ := M.post (fset (A.CMD_Q_CFG q) F.CMD_Q_CFG_ENABLE 1) ⟨s.dev, []⟩
  let w₂ := M.post (fset (A.CMD_Q_STATE q) F.CMD_Q_STATE_STATE Qs.running) w₁
  have hbit : w₁.dev.qcfg q F.CMD_Q_CFG_ENABLE = 1 := fld_fset (hcfg _ (by simp)) 1 ⟨s.dev, []⟩
  have hcfg_ne : A.CMD_Q_CFG q ≠ A.CMD_Q_STATE q := by simp only [A.CMD_Q_STATE, A.CMD_Q_CFG]; omega
  have hcfg_kept : ¬ leaveRegs (A.CMD_Q_CFG q) :=
    not_leaveRegs (by simp only [A.CMD_Q_CFG]; omega) (by simp only [A.CMD_Q_CFG]; omega)
  obtain ⟨hstate, hqok⟩ := fset_enable_keeps q.isLt 1 ⟨s.dev, []⟩
  have hpost : M.post (queueEnable q) ⟨s.dev, []⟩ = if s.dev.qstate q ≠ Qs.disabled then w₁
      else if s.dev.queueOk q then M.post (fset (A.CMD_Q_STATE q) F.CMD_Q_STATE_ERR 0) w₂ else M.post (haltQueue q 1 0) w₁ := by
    rw [← hstate, ← hqok]
    simp only [queueEnable, post_bind, val_dev, post_dev, post_ite, post_pure, w₁, w₂]
  refine ⟨fun hdis hok => ?_, fun hdis hok => ?_, fun hdis => ?_⟩
  · rw [if_neg (not_not.mpr hdis), if_pos hok] at hpost
    refine completes_emits rfl (queueEnable_emits q) hpost ⟨?_, ?_, ?_, ?_⟩
    · exact (fld_fset_ne hcfg_ne 0 w₂).trans ((fld_fset_ne hcfg_ne _ w₁).trans hbit)
    · exact (fld_fset_other (hqstate _ (by simp)) (by decide) 0 w₂).trans (fld_fset (hqstate _ (by simp)) _ w₁)
    · exact fld_fset (hqstate _ (by simp)) 0 w₂
    · exact changes_csr _ (by simp) (changes_csr _ (by simp) (changes_csr _ (by simp) (Changes.refl ..)))
  · rw [if_neg (not_not.mpr hdis), if_neg (by simp [hok])] at hpost
    obtain ⟨hhalted, herr, hchanges⟩ := haltQueue_halts q.isLt (by decide : 1 < 16) 0 w₁
    exact completes_emits rfl (queueEnable_emits q) hpost
      ⟨(hchanges.fld (not_or.mpr ⟨hcfg_ne, hcfg_kept⟩) _).trans hbit, hhalted, herr⟩
  · rw [if_pos hdis] at hpost
    exact completes_emits rfl (queueEnable_emits q) hpost ⟨hbit, changes_csr _ rfl (Changes.refl ..)⟩

/-- The background commands of a queue are no commands of it. -/
theorem queueBusy_of_drops {d e : Dev} {q : Nat} (hacc : e.cmd.acc = d.cmd.acc)
    (hruns : e.cmd.runs = d.cmd.runs.filter fun r => r.iss != .bg q) : e.queueBusy q = d.queueBusy q := by
  have hany : (e.cmd.runs.any fun r => r.iss == .q q) = d.cmd.runs.any fun r => r.iss == .q q := by
    rw [hruns, List.any_filter]
    refine congrArg d.cmd.runs.any (funext fun r => ?_)
    by_cases h : r.iss = .q q <;> simp [h]
  simp only [Dev.queueBusy, hacc, hany]

theorem queueDisable_emits (q : Fin 512) : Emits (Foot [.cmd, .eng, .own] fun a => a = A.CMD_Q_CFG q ∨ a = A.CMD_Q_STATE q ∨
    ∃ i, a = A.STR_RELEASE_CNT i) (queueDisable q) :=
  (Emits.fset (.inl rfl)).bind fun _ => Emits.dev.bind fun _ => Emits.ite
    ((Emits.fset (.inr (.inl rfl))).bind fun _ =>
      (Emits.leaveRunning (by simp) (by simp) (by simp) fun i => .inr (.inr ⟨i, rfl⟩)).bind fun _ => Emits.settleQueue (.inr (.inl rfl)))
    (Emits.pure _)

theorem queueDisable_drains : Clause.QueueDisable := by
  intro s q
  obtain ⟨hcfg, hqstate, -⟩ := takesFld_queue q q.isLt
  let w₁ := M.post (fset (A.CMD_Q_CFG q) F.CMD_Q_CFG_ENABLE 0) ⟨s.dev, []⟩
  let w₂ := M.post (fset (A.CMD_Q_STATE q) F.CMD_Q_STATE_STATE Qs.draining) w₁
  let w₃ := M.post (leaveRunning q) w₂
  let w₄ := if s.dev.queueBusy q then w₃ else M.post (fset (A.CMD_Q_STATE q) F.CMD_Q_STATE_STATE Qs.disabled) w₃
  have hcfg_ne : A.CMD_Q_CFG q ≠ A.CMD_Q_STATE q := by simp only [A.CMD_Q_STATE, A.CMD_Q_CFG]; omega
  have hbit : w₁.dev.qcfg q F.CMD_Q_CFG_ENABLE = 0 := fld_fset (hcfg _ (by simp)) 0 ⟨s.dev, []⟩
  obtain ⟨hstate, -⟩ := fset_enable_keeps q.isLt 0 ⟨s.dev, []⟩
  have hleave : Changes [.cmd, .eng, .own] (fun a => ∃ i, a = A.STR_RELEASE_CNT i) w₂.dev w₃.dev :=
    (Emits.leaveRunning (by simp) (by simp) (by simp) fun i => ⟨i, rfl⟩).changes_post (Changes.refl ..)
  have hkept : ∀ a < A.STR_RELEASE_CNT 0, ¬ ∃ i, a = A.STR_RELEASE_CNT i := by
    rintro a ha ⟨i, rfl⟩
    simp only [A.STR_RELEASE_CNT] at ha
    omega
  have hcfg_kept := hleave.fld (hkept (A.CMD_Q_CFG q) (by simp only [A.STR_RELEASE_CNT, A.CMD_Q_CFG]; omega))
  have hstate_kept := hleave.fld (hkept (A.CMD_Q_STATE q) (by simp only [A.STR_RELEASE_CNT, A.CMD_Q_STATE]; omega))
  obtain ⟨hcmd, hjobs, hret⟩ := leaveRunning_drops q w₂
  have hbells : w₃.dev.cmd.bells = s.dev.cmd.bells.filter (fun b => b.q != q.val) := (congrArg CmdSt.bells hcmd).trans (by simp [w₂, w₁])
  have hacc : w₃.dev.cmd.acc = s.dev.cmd.acc := (congrArg CmdSt.acc hcmd).trans (by simp [w₂, w₁])
  have hruns : w₃.dev.cmd.runs = s.dev.cmd.runs.filter fun r => r.iss != .bg q := (congrArg CmdSt.runs hcmd).trans (by simp [w₂, w₁])
  have hjobs : w₃.dev.eng.jobs = s.dev.eng.jobs.filter (fun j => j.queue != q.val) := hjobs.trans (by simp [w₂, w₁])
  have hret : w₃.dev.own.ret = s.dev.own.ret.filter (fun x => x.queue != q.val) := hret.trans (by simp [w₂, w₁])
  have hdraining : w₃.dev.qstate q = Qs.draining := (hstate_kept _).trans (fld_fset (hqstate _ (by simp)) _ w₁)
  have hbusy : w₃.dev.queueBusy q = s.dev.queueBusy q := queueBusy_of_drops hacc hruns
  have hpost : M.post (queueDisable q) ⟨s.dev, []⟩ = if s.dev.qstate q = Qs.running then w₄ else w₁ := by
    rw [← hstate]
    simp only [queueDisable, drainQueue, settleQueue, post_bind, val_dev, post_dev, post_ite, post_pure, post_on]
    refine if_congr Iff.rfl ?_ rfl
    rw [show (M.post (leaveRunning q) _) = w₃ from rfl, hdraining, hbusy]
    cases h : s.dev.queueBusy q <;> simp [w₄, h]
  refine ⟨fun hrun => ?_, fun hrun => ?_⟩
  · rw [if_pos hrun] at hpost
    refine completes_emits rfl (queueDisable_emits q) hpost ?_
    have hchanges := (queueDisable_emits q).changes_post (w := ⟨s.dev, []⟩) (Changes.refl ..)
    rw [hpost] at hchanges
    have hcfg₃ : w₃.dev.qcfg q F.CMD_Q_CFG_ENABLE = 0 := (hcfg_kept _).trans ((fld_fset_ne hcfg_ne _ w₁).trans hbit)
    cases h : s.dev.queueBusy q
    · have hw : w₄ = M.post (fset (A.CMD_Q_STATE q) F.CMD_Q_STATE_STATE Qs.disabled) w₃ := by simp [w₄, h]
      rw [hw] at hchanges ⊢
      exact ⟨(fld_fset_ne hcfg_ne _ w₃).trans hcfg₃, fld_fset (hqstate _ (by simp)) _ w₃, by simpa using hbells, by simpa using hacc,
        by simpa using hjobs, by simpa using hret, hchanges⟩
    · have hw : w₄ = w₃ := by simp [w₄, h]
      rw [hw] at hchanges ⊢
      exact ⟨hcfg₃, hdraining, hbells, hacc, hjobs, hret, hchanges⟩
  · rw [if_neg hrun] at hpost
    exact completes_emits rfl (queueDisable_emits q) hpost ⟨hbit, changes_csr _ rfl (Changes.refl ..)⟩

theorem queueReset_emits (q : Fin 512) :
    Emits (Foot [.cmd] (· ∈ [A.CMD_Q_PTR q, A.CMD_Q_STATE q, A.CMD_Q_CFG q])) (queueReset q) :=
  Emits.dev.bind fun _ => Emits.ite
    ((Emits.wr (by simp)).bind fun _ => (Emits.fset (by simp)).bind fun _ => (Emits.fset (by simp)).bind fun _ =>
      (Emits.fset (by simp)).bind fun _ => Emits.modCmd (by simp))
    (Emits.pure _)

theorem queueReset_empties : Clause.QueueReset := by
  intro s q
  obtain ⟨hcfg, hqstate, hqptr⟩ := takesFld_queue q q.isLt
  let w₁ := M.post (wr (A.CMD_Q_PTR q) 0) ⟨s.dev, []⟩
  let w₂ := M.post (fset (A.CMD_Q_STATE q) F.CMD_Q_STATE_STATE Qs.disabled) w₁
  let w₃ := M.post (fset (A.CMD_Q_STATE q) F.CMD_Q_STATE_ERR 0) w₂
  let w₄ := M.post (fset (A.CMD_Q_CFG q) F.CMD_Q_CFG_ENABLE 0) w₃
  let x : CmdSt := { s.dev.cmd with
    bells := s.dev.cmd.bells.filter (fun b => b.q != q.val), acc := s.dev.cmd.acc.filter fun a => a.iss != .q q.val }
  have hpost : M.post (queueReset q) ⟨s.dev, []⟩ =
      if s.dev.qstate q = Qs.halted ∨ s.dev.qstate q = Qs.draining then w₄.add (.cmd x) else ⟨s.dev, []⟩ := by
    simp only [queueReset, post_bind, val_dev, post_dev, post_ite, post_pure]
    refine if_congr Iff.rfl ?_ rfl
    simp [w₄, w₃, w₂, w₁, x]
  have hptr_ne : A.CMD_Q_PTR q ≠ A.CMD_Q_STATE q ∧ A.CMD_Q_PTR q ≠ A.CMD_Q_CFG q := by
    simp only [A.CMD_Q_STATE, A.CMD_Q_CFG, A.CMD_Q_PTR]; omega
  have hcfg_ne : A.CMD_Q_STATE q ≠ A.CMD_Q_CFG q := by simp only [A.CMD_Q_STATE, A.CMD_Q_CFG]; omega
  have hptr : w₁.dev.reg (A.CMD_Q_PTR q) = 0 := by
    simp [w₁, (hqptr F.CMD_Q_PTR_PROD (by simp)).1]
  refine ⟨fun hin => ?_, fun hin => ?_⟩
  · rw [if_pos hin] at hpost
    have hchanges := (queueReset_emits q).changes_post (w := ⟨s.dev, []⟩) (Changes.refl ..)
    rw [hpost] at hchanges
    refine completes_emits rfl (queueReset_emits q) hpost ⟨?_, ?_, ?_, ?_, rfl, hchanges⟩
    · exact (Upd.cmd_reg x w₄.dev _).trans
        ((reg_fset_ne hptr_ne.2 0 w₃).trans ((reg_fset_ne hptr_ne.1 0 w₂).trans ((reg_fset_ne hptr_ne.1 _ w₁).trans hptr)))
    · exact (Upd.cmd_fld x w₄.dev _ _).trans ((fld_fset_ne hcfg_ne 0 w₃).trans
        ((fld_fset_other (hqstate _ (by simp)) (by decide) 0 w₂).trans (fld_fset (hqstate _ (by simp)) _ w₁)))
    · exact (Upd.cmd_fld x w₄.dev _ _).trans ((fld_fset_ne hcfg_ne 0 w₃).trans (fld_fset (hqstate _ (by simp)) 0 w₂))
    · exact (Upd.cmd_fld x w₄.dev _ _).trans (fld_fset (hcfg _ (by simp)) 0 w₃)
  · rw [if_neg hin] at hpost
    exact completes_emits rfl (queueReset_emits q) hpost rfl

/-- Settles O9, bit by bit. -/
theorem queueControl : Obligations.QueueControl := by
  exact ⟨queueEnable_takes_bit, queueDisable_drains, queueReset_empties⟩

/-! ## The doorbells -/

/-- The registers that a doorbell may change. -/
def bellRegs (q a : Nat) : Prop := a = A.CMD_Q_PTR q ∨ a = A.CMD_Q_STATE q ∨ leaveRegs a

/-- The registers of the power state are among no queue's, and a wake event of a device that is awake does nothing. -/
theorem completes_bell {c : Instr} {s : State} {q : Nat} {m : M Unit} {w : Work} {post : State → Prop}
    (hexec : exec c s = s.run (m >>= fun _ => wakeEvent 1)) (hm : Emits (Foot [.cmd, .eng, .own, .evq] (bellRegs q)) m) (hawake : s.dev.awake)
    (hpost : M.post m ⟨s.dev, []⟩ = w) (h : post { s with dev := w.dev }) : Completes c s post := by
  have hchanges : Changes [.cmd, .eng, .own, .evq] (bellRegs q) s.dev w.dev := hpost ▸ hm.changes_post (Changes.refl ..)
  have hsys : w.dev.sys = s.dev.sys := hchanges.parts .sys (by simp)
  have hpower : w.dev.power = s.dev.power := hchanges.fld (by
    rintro (h | h | h)
    · simp only [A.PWR_STATUS, A.CMD_Q_PTR] at h; omega
    · simp only [A.PWR_STATUS, A.CMD_Q_STATE] at h; omega
    · have := leaveRegs_range h
      simp only [A.PWR_STATUS] at this; omega) _
  have hstill : w.dev.awake := by rwa [Dev.awake, hpower, hsys]
  refine completes_run hexec (w := w) ?_ (hpost ▸ hm.replay_log rfl) h
  rw [post_bind, hpost, post_wakeEvent_awake hstill]

theorem haltQueue_bell_emits {q err addr : Nat} : Emits (Foot [.cmd, .eng, .own, .evq] (bellRegs q)) (haltQueue q err addr) :=
  Emits.haltQueue (by simp) (by simp) (by simp) (by simp) (.inr (.inl rfl)) (fun i => .inr (.inr (.inl ⟨i, rfl⟩)))
    (.inr (.inr (.inr (.inl rfl)))) fun code => .inr (.inr (.inr (.inr ⟨code, rfl⟩)))

theorem doorbell_emits (q prod : Nat) : Emits (Foot [.cmd, .eng, .own, .evq] (bellRegs q)) (doorbell q prod) :=
  Emits.dev.bind fun _ => Emits.ite (Emits.pure _) (Emits.ite haltQueue_bell_emits
    ((Emits.fset (.inl rfl)).bind fun _ => Emits.on (Emits.modCmd (by simp))))

theorem cqDoorbell_emits (q head : Nat) : Emits (Foot [.cmd, .eng, .own, .evq] (bellRegs q)) (cqDoorbell q head) :=
  Emits.dev.bind fun _ => Emits.ite (Emits.pure _) (Emits.ite haltQueue_bell_emits (Emits.fset (.inl rfl)))

/-- A queue that halts keeps its pointers. -/
theorem haltQueue_keeps_ptr {q : Nat} (hq : q < 512) {err : Nat} (herr : err < 16) (addr : Nat) (w : Work) :
    (M.post (haltQueue q err addr) w).dev.reg (A.CMD_Q_PTR q) = w.dev.reg (A.CMD_Q_PTR q) := by
  obtain ⟨-, -, hchanges⟩ := haltQueue_halts hq herr addr w
  refine hchanges.regs _ (not_or.mpr ⟨?_, not_leaveRegs ?_ ?_⟩) <;> simp only [A.CMD_Q_PTR, A.CMD_Q_STATE] <;> omega

section
variable {q : Nat} (hq : q < 512)
include hq

/-- A pointer moved reads what it was moved to, and the others as before. -/
theorem qptr_setPtr {f : Fld} (hf : f ∈ [F.CMD_Q_PTR_PROD, F.CMD_Q_PTR_CONS, F.CMD_Q_PTR_CQ_TAIL, F.CMD_Q_PTR_CQ_HEAD]) (v : Nat)
    (w : Work) : (M.post (setPtr q f v) w).dev.qptr q f = v % 65536 := by
  have hw : f.w = 16 := by fin_cases hf <;> rfl
  refine (fld_fset ((takesFld_queue q hq).2.2 f hf) _ w).trans ?_
  rw [hw]
  exact Nat.mod_mod v 65536

theorem qptr_setPtr_other {f g : Fld} (hg : g ∈ [F.CMD_Q_PTR_PROD, F.CMD_Q_PTR_CONS, F.CMD_Q_PTR_CQ_TAIL, F.CMD_Q_PTR_CQ_HEAD])
    (hfg : g.lo + g.w ≤ f.lo ∨ f.lo + f.w ≤ g.lo) (v : Nat) (w : Work) : (M.post (setPtr q f v) w).dev.qptr q g = w.dev.qptr q g :=
  fld_fset_other ((takesFld_queue q hq).2.2 g hg) hfg _ w

end

theorem doorbell_moves_prod : Clause.DoorbellMovesProd := by
  intro s q prod d old cons fits hawake
  let w₁ := M.post (setPtr q F.CMD_Q_PTR_PROD prod.toNat) ⟨s.dev, []⟩
  have hpost : M.post (doorbell q prod.toNat) ⟨s.dev, []⟩ = if d.qstate q ≠ Qs.running then ⟨s.dev, []⟩
      else if fits then (if prod.toNat = old then w₁ else w₁.add (.cmd { d.cmd with bells := d.cmd.bells ++ [⟨q, old, prod.toNat⟩] }))
      else M.post (haltQueue q 2 0) ⟨s.dev, []⟩ := by
    have hfits : (d.ringSize q < ptrSub prod.toNat cons ∨ d.ringSize q - ptrSub old cons < ptrSub prod.toNat old) ↔ ¬ fits := by
      simp only [fits]; omega
    simp only [doorbell, post_bind, val_dev, post_dev, post_ite, post_pure, post_on]
    refine if_congr Iff.rfl rfl ?_
    rw [← ite_not (p := fits)]
    refine if_congr hfits rfl ?_
    by_cases h : prod.toNat = old
    · rw [if_neg (by simp [h, old, d]), if_pos h]
    · rw [if_pos (by simpa [old, d] using h), if_neg h]
      simp [w₁, setPtr, d, old]
  refine ⟨fun hrun hfits => ?_, fun hrun hfits => ?_, fun hrun => ?_⟩
  · rw [if_neg (not_not.mpr hrun), if_pos hfits] at hpost
    have hothers : ∀ f ∈ [F.CMD_Q_PTR_CONS, F.CMD_Q_PTR_CQ_HEAD, F.CMD_Q_PTR_CQ_TAIL], w₁.dev.qptr q f = d.qptr q f := fun f hf =>
      qptr_setPtr_other q.isLt (by fin_cases hf <;> simp) (by fin_cases hf <;> decide) _ _
    have hprod : w₁.dev.qptr q F.CMD_Q_PTR_PROD = prod.toNat :=
      (qptr_setPtr q.isLt (by simp) _ _).trans (Nat.mod_eq_of_lt prod.isLt)
    have hchanges : Changes [.cmd] (· = A.CMD_Q_PTR q) d w₁.dev := changes_csr _ rfl (Changes.refl ..)
    refine completes_bell rfl (doorbell_emits q prod.toNat) hawake hpost ?_
    by_cases h : prod.toNat = old
    · simp only [if_pos h]
      exact ⟨hprod, hothers, by simp [w₁, setPtr, d], hchanges⟩
    · simp only [if_neg h]
      exact ⟨(Upd.cmd_fld _ w₁.dev _ _).trans hprod, fun f hf => (Upd.cmd_fld _ w₁.dev _ _).trans (hothers f hf), rfl,
        changes_cmd hchanges (by simp)⟩
  · rw [if_neg (not_not.mpr hrun), if_neg hfits] at hpost
    obtain ⟨hhalted, herr, -⟩ := haltQueue_halts q.isLt (by decide : 2 < 16) 0 ⟨s.dev, []⟩
    exact completes_bell rfl (doorbell_emits q prod.toNat) hawake hpost ⟨hhalted, herr, haltQueue_keeps_ptr q.isLt (by decide) 0 _⟩
  · rw [if_pos hrun] at hpost
    exact completes_bell rfl (doorbell_emits q prod.toNat) hawake hpost rfl

theorem cqDoorbell_moves_head : Clause.CompletionDoorbellMovesHead := by
  intro s q head d old fits hawake
  let w₁ := M.post (setPtr q F.CMD_Q_PTR_CQ_HEAD head.toNat) ⟨s.dev, []⟩
  have hpost : M.post (cqDoorbell q head.toNat) ⟨s.dev, []⟩ = if d.qstate q ≠ Qs.running then ⟨s.dev, []⟩
      else if fits then w₁ else M.post (haltQueue q 3 0) ⟨s.dev, []⟩ := by
    simp only [cqDoorbell, post_bind, val_dev, post_dev, post_ite, post_pure]
    refine if_congr Iff.rfl rfl ?_
    rw [← ite_not (p := fits)]
    exact if_congr Nat.not_le.symm rfl rfl
  refine ⟨fun hrun hfits => ?_, fun hrun hfits => ?_, fun hrun => ?_⟩
  · rw [if_neg (not_not.mpr hrun), if_pos hfits] at hpost
    exact completes_bell rfl (cqDoorbell_emits q head.toNat) hawake hpost ⟨(qptr_setPtr q.isLt (by simp) _ _).trans (Nat.mod_eq_of_lt head.isLt),
      fun f hf => qptr_setPtr_other q.isLt (by fin_cases hf <;> simp) (by fin_cases hf <;> decide) _ _, changes_csr _ rfl (Changes.refl ..)⟩
  · rw [if_neg (not_not.mpr hrun), if_neg hfits] at hpost
    obtain ⟨hhalted, herr, -⟩ := haltQueue_halts q.isLt (by decide : 3 < 16) 0 ⟨s.dev, []⟩
    exact completes_bell rfl (cqDoorbell_emits q head.toNat) hawake hpost ⟨hhalted, herr, haltQueue_keeps_ptr q.isLt (by decide) 0 _⟩
  · rw [if_pos hrun] at hpost
    exact completes_bell rfl (cqDoorbell_emits q head.toNat) hawake hpost rfl

/-- Settles O10: what each doorbell makes of a queue, and that the wake event after it finds the device awake. -/
theorem doorbells : Obligations.Doorbells := by
  exact ⟨doorbell_moves_prod, cqDoorbell_moves_head⟩

end Sys2Proof.Machine
end

section
/-! PROOFS. WINDOW_CLOSE where a request that passed the check of the window still waits (O48). -/

namespace Sys2Proof.Machine

/-- A WINDOW_CLOSE of window 0 of domain 0, issued by queue 5 and in progress. -/
def closingRun : Run := { iss := .q 5, seq := 3, pkt := BitVec.ofNat 512 Op.windowClose }

/-- The window is open, and at a slice waits a request that passed the check of the window. -/
def closingState : State :=
  ⟨{ State.reset.dev with csr := [(A.STN_WIN 0, 1)], cmd := { runs := [closingRun] },
                          home := { waiting := [⟨0, 0, .drs { type := 1, win := 0 }, .rdE, 5, none, none⟩] } }, []⟩

/-- In the model the command waits for that request. -/
theorem closing_waits : ∃ t, exec (.windowClose (.q 5)) closingState = .next t ∧ ∀ x ∈ t.dev.cmd.runs, x.cpl = none :=
  ⟨_, rfl, by decide +kernel⟩

theorem closing_carried : closingState.dev.carries (.q 5) Op.windowClose closingRun := by
  refine ⟨?_, ?_, ?_, ⟨?_, ?_⟩, ?_, ?_⟩ <;> decide +kernel

/-- Refutes O48: the statement asks whether a request waits with the number of the window made a predicate, which for an even number holds of no
window, so it completes the command while a request that passed the check of window 0 waits; the model waits for that request. -/
theorem not_windowCommands : ¬ Obligations.WindowCommands := by
  intro h
  obtain ⟨-, hclose⟩ := h closingState (.q 5) closingRun
  obtain ⟨-, hends, -⟩ := hclose closing_carried rfl (by decide +kernel)
  obtain ⟨t, hnext, -, hcompleted, -⟩ := hends (by decide +kernel) (by decide +kernel)
  obtain ⟨t', hnext', hwaits⟩ := closing_waits
  cases hnext.symm.trans hnext'
  obtain ⟨x, hx, hcpl⟩ := Option.bind_eq_some_iff.mp hcompleted
  simp [hwaits x (List.mem_of_find?_eq_some hx)] at hcpl

end Sys2Proof.Machine
end

section
/-! PROOFS. The staged set: its commands, its commit and its expiry (O44). -/

namespace Sys2Proof.Machine

theorem Changes.mono {parts parts' : List Part} {regs regs' : Nat → Prop} {d e : Dev} (h : Changes parts regs d e) (hparts : parts ⊆ parts')
    (hregs : ∀ a, regs a → regs' a) : Changes parts' regs' d e :=
  ⟨fun p hp => h.parts p fun hin => hp (hparts hin), fun a ha => h.regs a fun hin => ha (hregs a hin), h.bytes⟩

/-! ## Rows that do something and then decide the completion -/

section
variable {c : Instr} {s : State} {q : Req} {op : Nat} {r : Run} {body : Run → M Unit} {m : M Unit} {parts : List Part} {regs : Nat → Prop}
  {post : State → Prop}

/-- A row whose command does what leaves the command interface alone, and then ends with a completion. -/
theorem completes_does_and_concludes {cpl : Cpl} (hexec : exec c s = s.run (onRun op q body)) (h : s.dev.carries q op r)
    (hm : Emits (Foot parts regs) m) (hcmd : Part.cmd ∉ parts)
    (hbody : M.post (body r) ⟨s.dev, []⟩ = M.post (setCpl r cpl) (M.post m ⟨s.dev, []⟩))
    (hpost : ∀ e, e = (Upd.cmd (s.dev.cmd.conclude r cpl)).apply (M.post m ⟨s.dev, []⟩).dev → Concludes r cpl s.dev e →
      Changes (parts ++ [.cmd]) regs s.dev e → post { s with dev := e }) : Completes c s post := by
  have hchanges := hm.changes_post (w := ⟨s.dev, []⟩) (Changes.refl ..)
  have hsame : (M.post m ⟨s.dev, []⟩).dev.cmd = s.dev.cmd := hchanges.parts .cmd hcmd
  have hcpl : M.post (body r) ⟨s.dev, []⟩ = (M.post m ⟨s.dev, []⟩).add (.cmd (s.dev.cmd.conclude r cpl)) := by
    rw [hbody, post_setCpl_only (by rw [Dev.only, hsame]; exact h.only) (Run.goes_iff.mp h.goes).2.1, hsame]
  have hlog : s.dev.replay ((M.post m ⟨s.dev, []⟩).add (.cmd (s.dev.cmd.conclude r cpl))).log =
      (Upd.cmd (s.dev.cmd.conclude r cpl)).apply (M.post m ⟨s.dev, []⟩).dev := by
    rw [Work.add_log, Dev.replay_cons, hm.replay_log rfl]
  refine completes_run hexec (post_onRun_carries h hcpl (Dev.runOf_conclude_none rfl h.firmware)) hlog (hpost _ rfl rfl ?_)
  exact changes_cmd (hchanges.mono (List.subset_append_left ..) fun _ => id) (by simp)

end

/-! ## The status of the set -/

/-- The fields of CMD_STAGE_STATUS. -/
abbrev stageFlds : List Fld :=
  [F.CMD_STAGE_STATUS_STATE, F.CMD_STAGE_STATUS_ENTRIES, F.CMD_STAGE_STATUS_OWNER, F.CMD_STAGE_STATUS_SET_ID]

theorem takesFld_stage : ∀ f ∈ stageFlds, takesFld A.CMD_STAGE_STATUS f := by decide +kernel

/-- Storing a field of the status leaves the other fields. -/
theorem stageFld_fset {f g : Fld} (hf : f ∈ stageFlds) (hg : g ∈ stageFlds) (x : Nat) (w : Work) :
    (M.post (fset A.CMD_STAGE_STATUS f x) w).dev.fld A.CMD_STAGE_STATUS g = if g = f then x % 2 ^ f.w else w.dev.fld A.CMD_STAGE_STATUS g := by
  have hapart : ∀ f ∈ stageFlds, ∀ g ∈ stageFlds, g ≠ f → g.lo + g.w ≤ f.lo ∨ f.lo + f.w ≤ g.lo := by decide
  split
  case isTrue heq => exact heq ▸ fld_fset (takesFld_stage f hf) x w
  case isFalse hne => exact fld_fset_other (takesFld_stage g hg) (hapart f hf g hg hne) x w

theorem fset_dev (a : Nat) (f : Fld) (x : Nat) (w : Work) : (M.post (fset a f x) w).dev = (Upd.csr a (f.put (w.dev.reg a) x)).apply w.dev := rfl

theorem leBytes_lt (l : List Byte) : leBytes l < 256 ^ l.length := by
  induction l with
  | nil => decide
  | cons b l ih =>
    have hb := b.isLt
    simp only [leBytes, List.foldr_cons, List.length_cons, Nat.pow_succ] at ih ⊢
    omega

/-- A parameter of some bytes is less than what they can hold. -/
theorem Run.par_lt (r : Run) (o w : Nat) : r.par o w < 256 ^ w :=
  Nat.lt_of_lt_of_le (leBytes_lt _) (Nat.pow_le_pow_right (by decide) (List.length_take_le ..))

/-- The issuer of a command that a row carries on has a number that OWNER can hold. -/
theorem owner_lt {d : Dev} {q : Req} {op : Nat} {r : Run} (h : d.carries q op r) : r.owner < 1024 := by
  have hiss : r.iss = issOf q := by simpa using List.find?_some h.run
  unfold Run.owner
  rw [hiss]
  split
  · decide
  · cases q with
    | q n => exact Nat.lt_of_lt_of_le n.isLt (by decide)
    | unit | mbox | fw => simp [issOf]

/-! ## STAGE, CHECK, COMMIT and ABANDON -/

theorem putEntries_emits {t : Tbl (BitVec 64 × BitVec 64)} : Emits (Foot [.staged] (· = A.CMD_STAGE_STATUS)) (putEntries t) :=
  Emits.now.bind fun _ => (Emits.modStaged (by simp)).bind fun _ => (Emits.fset (by rfl)).bind fun _ => Emits.fset (by rfl)

theorem openSet_emits {r : Run} {id : Nat} {t : Tbl (BitVec 64 × BitVec 64)} :
    Emits (Foot [.staged] (· = A.CMD_STAGE_STATUS)) (openSet r id t) :=
  (Emits.fset (by rfl)).bind fun _ => (Emits.fset (by rfl)).bind fun _ => putEntries_emits

/-- The set that STAGE opens: its fields, its entries and the tick its 10 s start at. -/
theorem openSet_opens {r : Run} {id : Nat} {t : Tbl (BitVec 64 × BitVec 64)} {w : Work} (howner : r.owner < 1024) (hid : id < 4294967296)
    (hlen : t.length ≤ 256) :
    let e := (M.post (openSet r id t) w).dev
    e.staged = { w.dev.staged with entries := t, touch := w.dev.now } ∧ e.setState = setOpen ∧ e.setOwner = r.owner ∧ e.setId = id ∧
    e.fld A.CMD_STAGE_STATUS F.CMD_STAGE_STATUS_ENTRIES = t.length := by
  have hlen' : t.length < 512 := by omega
  refine ⟨by simp [openSet, putEntries], ?_⟩
  simp [openSet, putEntries, Dev.setState, Dev.setOwner, Dev.setId, stageFld_fset, -post_fset, howner, hid, hlen']

/-- The status of a set after its state alone has been stored. -/
theorem setState_fset {x : Nat} (hx : x < 8) (w : Work) :
    let e := (M.post (fset A.CMD_STAGE_STATUS F.CMD_STAGE_STATUS_STATE x) w).dev
    e.setState = x ∧ e.setOwner = w.dev.setOwner ∧ e.setId = w.dev.setId := by
  simp [Dev.setState, Dev.setOwner, Dev.setId, stageFld_fset, -post_fset, hx]

/-- The column of R82 in which a command of the set's own is. -/
theorem setId_of_gate_own {d : Dev} {r : Run} {id : Nat} (h : d.gate r id = .own) : d.setId = id := by
  unfold Dev.gate at h
  split_ifs at h with _ _ _ _ hid
  exact not_not.mp hid

theorem emptySet_emits : Emits (Foot [.staged] (· = A.CMD_STAGE_STATUS)) emptySet :=
  (Emits.wr (by rfl)).bind fun _ => Emits.modStaged (by simp)

/-- An emptied set leaves a status of zero. -/
theorem reg_emptySet (w : Work) : (M.post emptySet w).dev.reg A.CMD_STAGE_STATUS = 0 := by
  simp [emptySet, (takesFld_stage F.CMD_STAGE_STATUS_STATE (by simp)).1]

section
variable {s : State} {q : Req} {r : Run} (hidle : s.dev.committing = false)
include hidle

theorem stage_merges (h : s.dev.carries q Op.stage r) (hlo : 1 ≤ r.par 4 2) (hhi : r.par 4 2 ≤ 64) (hblk : r.par 4 2 = 1 ∨ r.ptr ≠ 0)
    (hgate : s.dev.gate r (r.par 0 4) = .empty ∨ s.dev.gate r (r.par 0 4) = .own) (hsound : (stageEntries r).findSome? entryRefusal = none)
    (hlen : (mergeEntries s.dev.staged.entries (stageEntries r)).length ≤ 256) :
    Completes (.stage q) s fun t =>
      t.dev.staged = { s.dev.staged with entries := mergeEntries s.dev.staged.entries (stageEntries r), touch := s.dev.now } ∧
      t.dev.setState = setOpen ∧ t.dev.setOwner = r.owner ∧ t.dev.setId = r.par 0 4 ∧
      t.dev.fld A.CMD_STAGE_STATUS F.CMD_STAGE_STATUS_ENTRIES = (mergeEntries s.dev.staged.entries (stageEntries r)).length ∧
      Concludes r (okCpl (mergeEntries s.dev.staged.entries (stageEntries r)).length 0 0) s.dev t.dev ∧
      Changes [.staged, .cmd] (· = A.CMD_STAGE_STATUS) s.dev t.dev := by
  have hcount : ¬ (r.par 4 2 = 0 ∨ 64 < r.par 4 2 ∨ (1 < r.par 4 2 ∧ r.ptr = 0)) := by omega
  have hbody : M.post (stage r) ⟨s.dev, []⟩ =
      M.post (setCpl r (okCpl (mergeEntries s.dev.staged.entries (stageEntries r)).length 0 0))
        (M.post (openSet r (r.par 0 4) (mergeEntries s.dev.staged.entries (stageEntries r))) ⟨s.dev, []⟩) := by
    obtain hgate | hgate := hgate <;>
      simp only [stage, post_bind, val_dev, post_dev, hidle, Bool.false_eq_true, if_false, hcount, hgate, hsound, Nat.not_lt.mpr hlen]
  refine completes_does_and_concludes rfl h openSet_emits (by simp) hbody fun e he hcon hch => ?_
  obtain ⟨hstaged, hstate, howner, hid, hentries⟩ := openSet_opens (w := ⟨s.dev, []⟩) (owner_lt h) (r.par_lt 0 4) hlen
  subst he
  exact ⟨hstaged, hstate, howner, hid, hentries, hcon, hch⟩

theorem check_passes (h : s.dev.carries q Op.check r) (hgate : s.dev.gate r (r.par 0 4) = .own) (hsound : s.dev.setFault = none)
    (hspan : s.dev.checksSpan r = false) : Completes (.check q) s fun t =>
      t.dev.staged = { s.dev.staged with touch := s.dev.now, rolePend := s.dev.staged.rolePend || s.dev.clearsRole } ∧
      t.dev.setState = (if r.owner = unitOwner then setLocked else setChecked) ∧ t.dev.setOwner = s.dev.setOwner ∧ t.dev.setId = r.par 0 4 ∧
      Concludes r {} s.dev t.dev ∧ Changes [.staged, .cmd] (· = A.CMD_STAGE_STATUS) s.dev t.dev := by
  let m : M Unit := do
    modStaged fun x => { x with touch := s.dev.now }
    fset A.CMD_STAGE_STATUS F.CMD_STAGE_STATUS_STATE (if r.owner = unitOwner then setLocked else setChecked)
    modStaged fun x => { x with rolePend := x.rolePend || s.dev.clearsRole }
  have hm : Emits (Foot [.staged] (· = A.CMD_STAGE_STATUS)) m :=
    (Emits.modStaged (by simp)).bind fun _ => (Emits.fset (by rfl)).bind fun _ => Emits.modStaged (by simp)
  have hclears : ∀ x : StagedSt, x.entries = s.dev.staged.entries → ((Upd.staged x).apply s.dev).clearsRole = s.dev.clearsRole := by
    intro x hx
    simp [Dev.clearsRole, Dev.stagedReg, hx]
  have hbody : M.post (check r) ⟨s.dev, []⟩ = M.post (setCpl r {}) (M.post m ⟨s.dev, []⟩) := by
    simp [check, runCheck, checkPasses, hidle, hgate, hsound, hspan, m, hclears]
  refine completes_does_and_concludes rfl h hm (by simp) hbody fun e he hcon hch => ?_
  obtain ⟨hstate, howner, hid⟩ := setState_fset (x := if r.owner = unitOwner then setLocked else setChecked) (by split <;> decide)
    (Work.add ⟨s.dev, []⟩ (.staged { s.dev.staged with touch := s.dev.now }))
  subst he
  exact ⟨by simp [m], hstate, howner, hid.trans (setId_of_gate_own hgate), hcon, hch⟩

theorem check_fails (h : s.dev.carries q Op.check r) (hgate : s.dev.gate r (r.par 0 4) = .own) {b : Broken} (hfault : s.dev.setFault = some b) :
    Completes (.check q) s fun t =>
      t.dev.staged = { s.dev.staged with touch := s.dev.now } ∧ t.dev.setState = setOpen ∧ t.dev.setOwner = s.dev.setOwner ∧
      t.dev.setId = r.par 0 4 ∧ Concludes r { status := Sc.checkFailed, detail := b.1, result := b.2 } s.dev t.dev ∧
      Changes [.staged, .cmd] (· = A.CMD_STAGE_STATUS) s.dev t.dev := by
  let m : M Unit := do
    modStaged fun x => { x with touch := s.dev.now }
    fset A.CMD_STAGE_STATUS F.CMD_STAGE_STATUS_STATE setOpen
  have hm : Emits (Foot [.staged] (· = A.CMD_STAGE_STATUS)) m := (Emits.modStaged (by simp)).bind fun _ => Emits.fset (by rfl)
  have hbody : M.post (check r) ⟨s.dev, []⟩ =
      M.post (setCpl r { status := Sc.checkFailed, detail := b.1, result := b.2 }) (M.post m ⟨s.dev, []⟩) := by
    simp [check, runCheck, checkFails, hidle, hgate, hfault, m]
  refine completes_does_and_concludes rfl h hm (by simp) hbody fun e he hcon hch => ?_
  obtain ⟨hstate, howner, hid⟩ := setState_fset (x := setOpen) (by decide)
    (Work.add ⟨s.dev, []⟩ (.staged { s.dev.staged with touch := s.dev.now }))
  subst he
  exact ⟨by simp [m], hstate, howner, hid.trans (setId_of_gate_own hgate), hcon, hch⟩

theorem commit_freezes (h : s.dev.carries q Op.commit r) (hgate : s.dev.gate r (r.par 0 4) = .own) (hstate : s.dev.setState = setChecked)
    (hwaits : s.dev.commitWaits r = false) : Completes (.commit q) s fun t =>
      t.dev.staged = { s.dev.staged with edge := some (s.dev.now + 2), edgeSeq := r.seq, edgeDone := false } ∧
      Changes [.staged] noReg s.dev t.dev := by
  have hbody : M.post (commit r) ⟨s.dev, []⟩ =
      Work.add ⟨s.dev, []⟩ (.staged { s.dev.staged with edge := some (s.dev.now + 2), edgeSeq := r.seq, edgeDone := false }) := by
    simp [commit, passCommit, hidle, hgate, hstate, hwaits]
  exact completes_run rfl (post_onRun_carries h hbody h.firmware) rfl ⟨rfl, Foot.changes (u := .staged _) (by simp [Foot]) (Changes.refl ..)⟩

theorem commit_of_open_fails (h : s.dev.carries q Op.commit r) (hgate : s.dev.gate r (r.par 0 4) = .own) (hstate : s.dev.setState = setOpen) :
    Completes (.commit q) s fun t => Concludes r (fail Sc.checkFailed 0x16) s.dev t.dev ∧ Changes [.cmd] noReg s.dev t.dev :=
  completes_concludes rfl h (by simp [commit, hidle, hgate, hstate])

theorem abandon_empties (h : s.dev.carries q Op.abandon r) (hgate : s.dev.gate r (r.par 0 4) = .own) :
    Completes (.abandon q) s fun t => t.dev.staged = {} ∧ t.dev.reg A.CMD_STAGE_STATUS = 0 ∧
      Concludes r (okCpl s.dev.staged.entries.length 0 0) s.dev t.dev ∧ Changes [.staged, .cmd] (· = A.CMD_STAGE_STATUS) s.dev t.dev := by
  have hbody : M.post (abandon r) ⟨s.dev, []⟩ =
      M.post (setCpl r (okCpl s.dev.staged.entries.length 0 0)) (M.post emptySet ⟨s.dev, []⟩) := by
    simp [abandon, discardSet, hidle, hgate]
  refine completes_does_and_concludes rfl h emptySet_emits (by simp) hbody fun e he hcon hch => ?_
  subst he
  exact ⟨rfl, reg_emptySet _, hcon, hch⟩

theorem abandon_refused (h : s.dev.carries q Op.abandon r) {c dt : Nat} (hgate : s.dev.gate r (r.par 0 4) = .refused c dt) :
    Completes (.abandon q) s fun t => Concludes r (fail c dt) s.dev t.dev ∧ Changes [.cmd] noReg s.dev t.dev :=
  completes_concludes rfl h (by simp [abandon, hidle, hgate])

end

theorem stagedSet_commands : Clause.StagedSetCommands := by
  intro s q r d id entries st hidle
  exact ⟨stage_merges hidle, fun h hgate => ⟨check_passes hidle h hgate, fun b => check_fails hidle h hgate⟩,
    fun h hgate => ⟨commit_freezes hidle h hgate, commit_of_open_fails hidle h hgate⟩,
    fun h => ⟨abandon_empties hidle h, fun c dt => abandon_refused hidle h⟩⟩

/-! ## The commit edge -/

theorem extendDigest_emits {parts : List Part} : Emits (Foot parts fun x => ∃ w < 6, x = A.BOOT_CFG_DIGEST w) extendDigest :=
  Emits.dev.bind fun _ => Emits.each fun w hw => Emits.wr ⟨w, List.mem_range.mp hw, rfl⟩

/-- A plain register is none of the registers in which software finds what a device is. -/
theorem isSetting_of_plainWrite {a : Nat} (h : plainWrite a)
    (hbase : regBase a ∉ [A.DOM_CFG 0, A.DOM_IDENT 0 0, A.STN_WIN 0, A.HOM_PUB_CFG 0, A.GWY_CFG]) : isSetting a = true := by
  have hclk : regBase a ≠ A.CLK_CFG := regBase_ne_of_low (fun g hg hb => Nat.lt_of_lt_of_le
    ((by decide +kernel : ∀ g ∈ regDefs, g.base = A.CLK_CFG → g.last < 0x58000) g hg hb) h.1) (by decide)
  simp only [List.mem_cons, List.not_mem_nil, or_false, not_or] at hbase
  simp [isSetting, hbase, hclk]

section
variable {a : Nat} (h : plainWrite a) (hbase : regBase a ∉ [A.DOM_CFG 0, A.DOM_IDENT 0 0, A.STN_WIN 0, A.HOM_PUB_CFG 0, A.GWY_CFG])
include h hbase

/-- An entry of a plain register loads its bits, and no more comes of it. -/
theorem post_loadEntry_plain {w : Work} (hhalf : w.dev.inDownHalf a = false) (v m : Word) :
    M.post (loadEntry (a, v, m)) w = w.add (.csr a (storedBits a (w.dev.reg a) v m)) := by
  have hclk : a ≠ A.CLK_CFG := by
    have := h.1
    simp only [A.CLK_CFG]
    omega
  simp only [List.mem_cons, List.not_mem_nil, or_false, not_or] at hbase
  simp [loadEntry, hhalf, hbase, hclk, post_storeBits_plain h]

theorem post_entryActs_plain {w : Work} (hhalf : w.dev.inDownHalf a = false) (before : Dev) (v m : Word) :
    M.post (entryActs before (a, v, m)) w = w := by
  have hlow : a ≠ A.CLK_CFG ∧ a ≠ A.TOP_SPAN_DIM ∧ a ≠ A.TOP_ROLE := by
    have := h.1
    simp only [A.CLK_CFG, A.TOP_SPAN_DIM, A.TOP_ROLE]
    omega
  have hext : a ≠ A.GWY_CFG := by
    rintro rfl
    exact hbase (by decide +kernel)
  simp only [List.mem_cons, List.not_mem_nil, or_false, not_or] at hbase
  simp [entryActs, hhalf, hbase, hlow, hext, post_act_plain h]

end

/-- Which half a register is in, and whether that half is up, is told by the registers below the blocks. -/
theorem inDownHalf_congr {d e : Dev} (h : e.reg A.TOP_HALF_STATUS = d.reg A.TOP_HALF_STATUS) (a : Nat) : e.inDownHalf a = d.inDownHalf a := by
  simp only [Dev.inDownHalf, Dev.halfDown, Dev.fld, h]

theorem commitEdge_loads {s : State} {tick a : Nat} {v m : Word} (hedge : s.dev.staged.edge = some tick) (hopen : s.dev.staged.edgeDone = false)
    (hentries : s.dev.staged.entries = [(a, v, m)]) (hassigned : assigned a = true) (h : plainWrite a)
    (hbase : regBase a ∉ [A.DOM_CFG 0, A.DOM_IDENT 0 0, A.STN_WIN 0, A.HOM_PUB_CFG 0, A.GWY_CFG]) (hhalf : s.dev.inDownHalf a = false) :
    Completes .commitEdge s fun t =>
      t.dev.now = max s.dev.now tick ∧ t.dev.staged = { s.dev.staged with edgeDone := true } ∧ t.dev.reg a = written a (s.dev.reg a) v m ∧
      t.dev.cmd = { s.dev.cmd with runs := s.dev.cmd.runs.map fun r => { r with kept := keepBits s.dev.reg r.kept (a, v, m) } } ∧
      Changes [.now, .staged, .cmd] (fun x => x = a ∨ ∃ w < 6, x = A.BOOT_CFG_DIGEST w) s.dev t.dev := by
  let kept : CmdSt := { s.dev.cmd with runs := s.dev.cmd.runs.map fun r => { r with kept := keepBits s.dev.reg r.kept (a, v, m) } }
  let w₁ := ((Work.add ⟨s.dev, []⟩ (.now tick)).add (.staged { s.dev.staged with edgeDone := true })).add (.cmd kept)
  let w₂ := w₁.add (.csr a (storedBits a (s.dev.reg a) v m))
  have hhalf_reg : w₂.dev.reg A.TOP_HALF_STATUS = s.dev.reg A.TOP_HALF_STATUS := by
    have hne : A.TOP_HALF_STATUS ≠ a := by
      have := h.1
      simp only [A.TOP_HALF_STATUS]
      omega
    simp [w₂, w₁, hne]
  have hload : M.post (loadEntry (a, v, m)) w₁ = w₂ :=
    post_loadEntry_plain h hbase ((inDownHalf_congr (d := s.dev) (by rfl) a).trans hhalf) v m
  have hacts : M.post (entryActs s.dev (a, v, m)) w₂ = w₂ :=
    post_entryActs_plain h hbase ((inDownHalf_congr hhalf_reg a).trans hhalf) s.dev v m
  have hkeep : M.post keepSettings ((Work.add ⟨s.dev, []⟩ (.now tick)).add (.staged { s.dev.staged with edgeDone := true })) = w₁ := by
    simp only [keepSettings, post_bind, val_dev, post_dev, post_modCmd]
    simp [hentries, isSetting_of_plainWrite h hbase, w₁, kept]
    rfl
  have hpost : M.post commitEdge ⟨s.dev, []⟩ = M.post extendDigest w₂ := by
    simp only [commitEdge, post_bind, val_dev, post_dev, hedge, hopen, Bool.false_eq_true, if_false, post_passTo, post_modStaged, hentries,
      each_cons, each_nil, post_pure]
    refine congrArg (M.post extendDigest) ?_
    calc _ = M.post (entryActs s.dev (a, v, m)) (M.post (loadEntry (a, v, m)) w₁) := congrArg _ (congrArg _ hkeep)
      _ = w₂ := by rw [hload, hacts]
  have hdigest := extendDigest_emits.changes_post (parts := []) (Changes.refl _ _ w₂.dev)
  refine completes_run rfl hpost (extendDigest_emits (parts := []).replay_log rfl) ?_
  have hparts : w₂.dev.now = max s.dev.now tick ∧ w₂.dev.staged = { s.dev.staged with edgeDone := true } ∧ w₂.dev.cmd = kept := by
    simp [w₂, w₁]
  refine ⟨(hdigest.parts .now (by simp)).trans hparts.1, (hdigest.parts .staged (by simp)).trans hparts.2.1, ?_,
    (hdigest.parts .cmd (by simp)).trans hparts.2.2, ?_⟩
  · refine (hdigest.regs a ?_).trans (reg_storedBits hassigned (s.dev.reg a) v m w₁.dev)
    rintro ⟨w, hw, rfl⟩
    have := h.1
    simp only [A.BOOT_CFG_DIGEST] at this
    omega
  · refine (extendDigest_emits.mono fun u hu => hu.mono (List.nil_subset _) fun x => .inr).changes_post (changes_csr _ (.inl rfl) ?_)
    exact changes_cmd (Foot.changes (u := .staged _) (by simp [Foot]) (changes_now (Changes.refl ..) (by simp))) (by simp)

/-- A sequence number that one command in progress has finds that command. -/
theorem runSeq_of_only {d : Dev} {r : Run} (h : d.only r) : d.runSeq r.seq = some r := by
  obtain ⟨x, hx⟩ : ∃ x, d.runSeq r.seq = some x := Option.isSome_iff_exists.mp (List.find?_isSome.mpr ⟨r, h.1, by simp⟩)
  rw [hx, h.2 x (List.mem_of_find?_eq_some hx) (by simpa using List.find?_some hx)]

/-- The registers that the end of a commit changes. -/
abbrev commitDoneRegs : List Nat := [A.CMD_STAGE_STATUS, A.CMD_STAGE_LAST, A.CMD_COMMIT_TICK]

theorem commitDone_empties {s : State} {tick : Nat} {r : Run} (hedge : s.dev.staged.edge = some tick) (hdone : s.dev.staged.edgeDone = true)
    (htick : tick < 2 ^ 64) (honly : s.dev.only r) (hseq : r.seq = s.dev.staged.edgeSeq) (hcpl : r.cpl = none) (hfw : s.dev.runOf .fw = none) :
    Completes .commitDone s fun t =>
      t.dev.now = max s.dev.now (tick + 5) ∧ t.dev.staged = {} ∧ t.dev.reg A.CMD_STAGE_STATUS = 0 ∧
      t.dev.fld A.CMD_STAGE_LAST F.CMD_STAGE_LAST_LAST_SET_ID = s.dev.setId ∧ (t.dev.reg A.CMD_COMMIT_TICK).toNat = tick ∧
      Concludes r (okCpl 0 0 tick) s.dev t.dev ∧
      Changes [.now, .staged, .cmd] (· ∈ [A.CMD_STAGE_STATUS, A.CMD_STAGE_LAST, A.CMD_COMMIT_TICK]) s.dev t.dev := by
  let w₁ := M.post (fset A.CMD_STAGE_LAST F.CMD_STAGE_LAST_LAST_SET_ID s.dev.setId) (Work.add ⟨s.dev, []⟩ (.now (tick + 5)))
  let w₂ := w₁.add (.csr A.CMD_COMMIT_TICK (BitVec.ofNat 64 tick))
  let w₃ := M.post emptySet w₂
  have hsame : w₃.dev.cmd = s.dev.cmd := by simp [w₃, w₂, w₁, emptySet]
  have hset : M.post (setCpl r (okCpl 0 0 tick)) w₃ = w₃.add (.cmd (s.dev.cmd.conclude r (okCpl 0 0 tick))) := by
    rw [post_setCpl_only (by rwa [Dev.only, hsame]) hcpl, hsame]
  have hrun : s.dev.runSeq s.dev.staged.edgeSeq = some r := hseq ▸ runSeq_of_only honly
  have hpost : M.post (do commitDone; settleFw) ⟨s.dev, []⟩ = w₃.add (.cmd (s.dev.cmd.conclude r (okCpl 0 0 tick))) := by
    have hcommit : M.post commitDone ⟨s.dev, []⟩ = M.post (setCpl r (okCpl 0 0 tick)) w₃ := by
      simp only [commitDone, post_bind, val_dev, post_dev, hedge, hdone, not_true_eq_false, if_false, hrun, hcpl, Option.isNone_none, on_true,
        post_passTo, post_wr, w₃, w₂, w₁]
    rw [post_bind, hcommit, hset]
    exact post_settleFw_idle (Dev.runOf_conclude_none rfl hfw)
  have hid : s.dev.setId % 2 ^ 32 = s.dev.setId := Nat.mod_eq_of_lt (Nat.mod_lt _ (by decide))
  have hlast : takesFld A.CMD_STAGE_LAST F.CMD_STAGE_LAST_LAST_SET_ID := by decide +kernel
  have htickreg : assigned A.CMD_COMMIT_TICK = true ∧ readMask A.CMD_COMMIT_TICK = BitVec.allOnes 64 := by decide +kernel
  refine completes_run rfl hpost (e := (Upd.cmd (s.dev.cmd.conclude r (okCpl 0 0 tick))).apply w₃.dev) rfl
    ⟨by simp [w₃, w₂, w₁, emptySet], by simp [w₃, emptySet], ?_, ?_, ?_, rfl, ?_⟩
  · exact (Upd.cmd_reg ..).trans (reg_emptySet w₂)
  · have hkept : w₃.dev.reg A.CMD_STAGE_LAST = w₁.dev.reg A.CMD_STAGE_LAST := by simp [w₃, w₂, emptySet]
    exact (congrArg (Fld.of _) hkept).trans ((fld_fset hlast _ _).trans hid)
  · have hkept : w₃.dev.reg A.CMD_COMMIT_TICK = BitVec.ofNat 64 tick := by
      simp [w₃, w₂, emptySet, htickreg, -BitVec.reduceAllOnes]
    exact (congrArg BitVec.toNat ((Upd.cmd_reg ..).trans hkept)).trans (by simpa using htick)
  · have hrecord : Emits (Foot [.now, .staged, .cmd] (· ∈ commitDoneRegs)) (do
        passTo (tick + 5)
        fset A.CMD_STAGE_LAST F.CMD_STAGE_LAST_LAST_SET_ID s.dev.setId
        wr A.CMD_COMMIT_TICK (BitVec.ofNat 64 tick)) :=
      (Emits.passTo (by simp)).bind fun _ => (Emits.fset (by simp)).bind fun _ => Emits.wr (by simp)
    have hbefore : Changes [.now, .staged, .cmd] (· ∈ commitDoneRegs) s.dev w₂.dev :=
      hrecord.changes_post (w := ⟨s.dev, []⟩) (Changes.refl ..)
    refine changes_cmd (Emits.changes_post ?_ hbefore) (by simp)
    exact emptySet_emits.mono fun u hu => hu.mono (by simp) fun a ha => by simp [ha]

/-- STAGE_EXPIRE of a set that is not frozen. -/
theorem stageExpire_discards {s : State} (hstate : s.dev.setState = setOpen ∨ s.dev.setState = setChecked) (hidle : s.dev.committing = false) :
    Completes .stageExpire s fun t =>
      t.dev.now = max s.dev.now (s.dev.staged.touch + 500000000) ∧ t.dev.staged = {} ∧ t.dev.reg A.CMD_STAGE_STATUS = 0 ∧
      Counts A.CMD_STAGE_EXPIRE_CNT 1 s.dev t.dev ∧
      (s.dev.hasRoom 0x0102 0 → t.dev.evq.held = s.dev.evq.held ++ [heldOf 0x0102 0 s.dev.setOwner none 0 0 s.dev.setId t.dev.now] ∧
        t.dev.reg (A.EVQ_X_DROP_CNT 0) = s.dev.reg (A.EVQ_X_DROP_CNT 0)) ∧
      Changes [.now, .staged, .evq] (· ∈ [A.CMD_STAGE_STATUS, A.CMD_STAGE_EXPIRE_CNT, A.EVQ_X_DROP_CNT 0]) s.dev t.dev := by
  let w₁ := M.post (bump A.CMD_STAGE_EXPIRE_CNT) (Work.add ⟨s.dev, []⟩ (.now (s.dev.staged.touch + 500000000)))
  let r : Rec := ⟨0x0102, 0, s.dev.setOwner, none, 0, 0, s.dev.setId, w₁.dev.now⟩
  let w₂ := M.post (holdRec 0 0 r) w₁
  have hpost : M.post stageExpire ⟨s.dev, []⟩ = M.post emptySet w₂ := by
    simp only [stageExpire, post_bind, val_dev, post_dev, post_passTo, hstate, hidle, true_and, Bool.false_eq_true,
      not_false_eq_true, if_true, post_raise Ev.stageExpired _ _ _ _ _ _ rfl]
    rfl
  have hold : Emits (Foot [.evq] (· = A.EVQ_X_DROP_CNT 0)) (holdRec 0 0 r) := Emits.holdRec (by simp) (by rfl)
  have hchanges := hold.changes_post (Changes.refl _ _ w₁.dev)
  have hempty := emptySet_emits.changes_post (Changes.refl _ _ w₂.dev)
  have hm : Emits (Foot [.evq, .staged] fun a => a = A.EVQ_X_DROP_CNT 0 ∨ a = A.CMD_STAGE_STATUS) (holdRec 0 0 r >>= fun _ => emptySet) :=
    (hold.mono fun u hu => hu.mono (by simp) fun _ => .inl).bind fun _ => emptySet_emits.mono fun u hu => hu.mono (by simp) fun _ => .inr
  refine completes_run rfl hpost (e := (M.post emptySet w₂).dev) (hm.replay_log (w := w₁) rfl) ⟨?_, by simp [emptySet], reg_emptySet w₂, ?_, fun hroom => ?_, ?_⟩
  · exact (hempty.parts .now (by simp)).trans ((hchanges.parts .now (by simp)).trans (by simp [w₁]))
  · have hcount : Counts A.CMD_STAGE_EXPIRE_CNT 1 s.dev w₁.dev := counts_bump (by decide +kernel) (by decide +kernel) (by simp)
    have hkept : (M.post emptySet w₂).dev.fld A.CMD_STAGE_EXPIRE_CNT ⟨0, 32⟩ = w₁.dev.fld A.CMD_STAGE_EXPIRE_CNT ⟨0, 32⟩ :=
      (hempty.fld (by decide) _).trans (hchanges.fld (by decide) _)
    exact hkept.trans hcount
  · have hroom' : ¬ 8 ≤ w₁.dev.holds (recRow r.code) 0 0 := by
      have hsame : w₁.dev.evq = s.dev.evq := by simp [w₁]
      rw [Dev.holds, hsame]
      exact Nat.not_le.mpr hroom
    have hw₂ : w₂ = w₁.add (.evq { w₁.dev.evq with held := w₁.dev.evq.held ++ [⟨recRow r.code, 0, 0, r⟩] }) :=
      (post_holdRec 0 0 r w₁).trans (if_neg hroom')
    have hne : A.EVQ_X_DROP_CNT 0 ≠ A.CMD_STAGE_STATUS ∧ A.EVQ_X_DROP_CNT 0 ≠ A.CMD_STAGE_EXPIRE_CNT := by decide
    rw [hw₂]
    exact ⟨by simp [emptySet, w₁, r, heldOf, recQueue, recClass], by simp [emptySet, w₁, hne]⟩
  · have hcount : Emits (Foot [.now, .staged, .evq] (· ∈ [A.CMD_STAGE_STATUS, A.CMD_STAGE_EXPIRE_CNT, A.EVQ_X_DROP_CNT 0])) (do
        passTo (s.dev.staged.touch + 500000000)
        bump A.CMD_STAGE_EXPIRE_CNT) := (Emits.passTo (by simp)).bind fun _ => Emits.bump (by simp)
    have hbefore : Changes _ _ s.dev w₁.dev := hcount.changes_post (w := ⟨s.dev, []⟩) (Changes.refl ..)
    exact (hm.mono fun u hu => hu.mono (by simp) fun a ha => by rcases ha with rfl | rfl <;> simp).changes_post hbefore

theorem stagedSet_times : Clause.StagedSetTimes := by
  intro s
  refine ⟨fun tick a v m hedge hopen hentries hassigned hplain hbase hhalf =>
      commitEdge_loads hedge hopen hentries hassigned hplain hbase hhalf,
    fun tick r hedge hdone htick honly hseq hcpl hfw => commitDone_empties hedge hdone htick honly hseq hcpl hfw,
    stageExpire_discards, fun hlocked => ?_⟩
  have hstays : ¬ (s.dev.setState = setOpen ∨ s.dev.setState = setChecked) := by rw [hlocked]; decide
  exact completes_run rfl (w := ⟨s.dev, []⟩) (by simp [stageExpire, hstays]) rfl rfl

/-- Settles O44: each command on the set row by row, then its commit and its expiry. -/
theorem stagedSet : Obligations.StagedSet := by
  exact ⟨stagedSet_commands, stagedSet_times⟩

end Sys2Proof.Machine
end

section
/-! PROOFS. A packet from the doorbell to the start of its command (O41). -/

namespace Sys2Proof.Machine

/-! ## A line read for the device's own use -/

/-- The registers that reading a sound line of the store changes: the state of its stack and the counts of its Rind engine. -/
def touchRegs (a : Nat) : Prop := ∃ k < 8, a = A.STK_STATUS k ∨ a = A.RIND_ENC_CNT k ∨ a = A.RIND_DEC_CNT k

theorem touchLine_emits (n : Nat) : Emits (Foot [.store] touchRegs) (touchLine n) := by
  refine Emits.dev.bind fun d => ?_
  dsimp only
  exact (Emits.modStore (by simp)).bind fun _ => Emits.on (Emits.fset ⟨_, Nat.mod_lt _ (by decide), .inl rfl⟩)

theorem countRind_emits (enc : Bool) (n : Nat) : Emits (Foot [.store] touchRegs) (countRind enc n) := by
  refine Emits.dev.bind fun d => Emits.on (Emits.bump48 ⟨stackOf (64 * n), Nat.mod_lt _ (by decide), ?_⟩)
  cases enc
  · exact .inr (.inr rfl)
  · exact .inr (.inl rfl)

/-- A sound line has nothing to be settled before it is read. -/
theorem post_settleRead_sound {w : Work} {n : Nat} (h : w.dev.errsAt n = []) (who : Option Nat) (byScrub : Bool) :
    M.post (settleRead who n byScrub) w = w := by
  simp [settleRead, h]

/-! ## Acceptance -/

/-- The packet at a place of the ring is accepted. -/
def takePacket (d : Dev) (b : Bell) : M Unit := do
  touchLine (d.ringSlot b.q b.next / 64)
  countRind false (d.ringSlot b.q b.next / 64)
  let seq ← takeCmdSeq
  setPtr b.q F.CMD_Q_PTR_CONS (b.next + 1)
  modCmd fun c => { c with
    bells := if (b.next + 1) % 65536 = b.last then c.bells.erase b
      else c.bells.map fun x => if x == b then { b with next := (b.next + 1) % 65536 } else x
    acc := c.acc ++ [⟨.q b.q, seq, d.line (d.ringSlot b.q b.next / 64), d.traceKinds b.q seq⟩] }
  traceCmd Ev.trcAccept 0 (some b.q) (d.traceKinds b.q seq) seq (d.tracedPkt b.q (d.line (d.ringSlot b.q b.next / 64))) 0 0

theorem ringSlot_line (d : Dev) (q i : Nat) : 64 * (d.ringSlot q i / 64) = d.ringSlot q i := by
  simp only [Dev.ringSlot]
  omega

theorem post_commandAccept_sound {w : Work} {b : Bell} (hbell : (w.dev.cmd.bells.find? fun b => !(w.dev.queueBarred b.q)) = some b)
    (hallowed : w.dev.refusal (w.dev.ringSlot b.q b.next) (some (w.dev.qcfg b.q F.CMD_Q_CFG_DOMAIN)) none = none)
    (hfree : w.dev.lineFree (w.dev.ringSlot b.q b.next / 64)) (hue : w.dev.home.ue = []) :
    M.post commandAccept w = M.post (takePacket w.dev b) w := by
  have hslot := ringSlot_line w.dev b.q b.next
  have hserves := hfree.serves
  have hrep := hfree.unrepaired
  rw [hslot] at hserves hrep
  have hfailed : w.dev.stackFailed (stackOf (w.dev.ringSlot b.q b.next)) = false := by
    simp only [Dev.stackServes, Bool.or_eq_true, beq_iff_eq] at hserves
    obtain h | h := hserves <;> simp [Dev.stackFailed, h]
  have hsettled : w.dev.unsettled (w.dev.ringSlot b.q b.next / 64) = false := by simp [Dev.unsettled, hfree.errs, hue]
  simp only [commandAccept, post_bind, val_dev, post_dev, hbell]
  simp only [hallowed, Option.isNone_none, on_true, post_settleRead_sound hfree.errs, Option.isSome_none, hfailed, hfree.sound, hserves, hrep,
    hsettled, Bool.not_true, Bool.false_eq_true, or_self, if_false]
  rfl

/-- The registers that accepting a packet of a queue changes. -/
def acceptRegs (q a : Nat) : Prop := touchRegs a ∨ a = A.CMD_SEQ ∨ a = A.CMD_Q_PTR q ∨ recordRegs a

theorem Emits.traceCmd {parts : List Part} {regs : Nat → Prop} {code bitNo : Nat} {q : Option Nat} {trace seq : Nat} {pkt : Line}
    {status detail : Nat} (hevq : Part.evq ∈ parts) (hregs : ∀ a, recordRegs a → regs a) :
    Emits (Foot parts regs) (Machine.traceCmd code bitNo q trace seq pkt status detail) := by
  cases q with
  | none => exact Emits.pure _
  | some q => exact Emits.on (Emits.raise hevq (hregs _ (.inl rfl)) (hregs _ (.inr ⟨_, rfl⟩)))

theorem takeCmdSeq_emits {parts : List Part} : Emits (Foot parts (· = A.CMD_SEQ)) takeCmdSeq :=
  (Emits.fget _ _).bind fun _ => (Emits.fset (by rfl)).bind fun _ => Emits.pure _

theorem takePacket_emits (d : Dev) (b : Bell) : Emits (Foot [.store, .cmd, .evq] (acceptRegs b.q)) (takePacket d b) :=
  ((touchLine_emits _).mono fun _ hu => hu.mono (by simp) fun _ => .inl).bind fun _ =>
    ((countRind_emits _ _).mono fun _ hu => hu.mono (by simp) fun _ => .inl).bind fun _ =>
      ((takeCmdSeq_emits (parts := [])).mono fun _ hu => hu.mono (by simp) fun _ h => .inr (.inl h)).bind fun _ =>
        (Emits.fset (.inr (.inr (.inl rfl)))).bind fun _ => (Emits.modCmd (by simp)).bind fun _ =>
          Emits.traceCmd (by simp) fun _ h => .inr (.inr (.inr h))

theorem touchRegs_range {a : Nat} (h : touchRegs a) : 0xe0000 ≤ a ∧ a < 0x100000 := by
  obtain ⟨k, hk, rfl | rfl | rfl⟩ := h <;> simp only [A.STK_STATUS, A.RIND_ENC_CNT, A.RIND_DEC_CNT] <;> omega

/-- What an accepted packet changes: the bells, the packets that wait, the next number and CONS. -/
theorem takePacket_takes (b : Bell) (hq : b.q < 512) (w : Work) :
    let d := w.dev
    let e := (M.post (takePacket d b) w).dev
    let seq := d.fld A.CMD_SEQ F.CMD_SEQ_SEQ
    e.cmd = { d.cmd with
      bells := (if (b.next + 1) % 65536 = b.last then d.cmd.bells.erase b
        else d.cmd.bells.map fun x => if x == b then { b with next := (b.next + 1) % 65536 } else x)
      acc := d.cmd.acc ++ [⟨.q b.q, seq, d.line (d.ringSlot b.q b.next / 64), d.traceKinds b.q seq⟩] } ∧
    e.fld A.CMD_SEQ F.CMD_SEQ_SEQ = (seq + 1) % 2 ^ 32 ∧ e.qptr b.q F.CMD_Q_PTR_CONS = (b.next + 1) % 65536 ∧
    (∀ f ∈ [F.CMD_Q_PTR_PROD, F.CMD_Q_PTR_CQ_HEAD, F.CMD_Q_PTR_CQ_TAIL], e.qptr b.q f = d.qptr b.q f) ∧ ∀ a, e.byte a = d.byte a := by
  intro d e seq
  let n := d.ringSlot b.q b.next / 64
  let w₁ := M.post (countRind false n) (M.post (touchLine n) w)
  let w₂ := M.post (fset A.CMD_SEQ F.CMD_SEQ_SEQ ((seq + 1) % 2 ^ 32)) w₁
  let w₃ := M.post (setPtr b.q F.CMD_Q_PTR_CONS (b.next + 1)) w₂
  let w₄ := w₃.add (.cmd { w₃.dev.cmd with
    bells := if (b.next + 1) % 65536 = b.last then w₃.dev.cmd.bells.erase b
      else w₃.dev.cmd.bells.map fun x => if x == b then { b with next := (b.next + 1) % 65536 } else x
    acc := w₃.dev.cmd.acc ++ [⟨.q b.q, seq, d.line n, d.traceKinds b.q seq⟩] })
  have htouch : Changes [.store] touchRegs d w₁.dev := (countRind_emits _ _).changes_post ((touchLine_emits n).changes_post (Changes.refl ..))
  have hseq : w₁.dev.fld A.CMD_SEQ F.CMD_SEQ_SEQ = seq :=
    htouch.fld (fun h => by have := touchRegs_range h; simp only [A.CMD_SEQ] at this; omega) _
  have hptr : ∀ f, w₂.dev.qptr b.q f = d.qptr b.q f := fun f =>
    (fld_fset_ne (by simp only [A.CMD_SEQ, A.CMD_Q_PTR]; omega) _ w₁).trans
      (htouch.fld (fun h => by have := touchRegs_range h; simp only [A.CMD_Q_PTR] at this; omega) _)
  have hcmd : w₃.dev.cmd = d.cmd := by
    have hsame : w₁.dev.cmd = d.cmd := htouch.parts .cmd (by simp)
    simpa [w₃, w₂, setPtr] using hsame
  have he : e = (M.post (traceCmd Ev.trcAccept 0 (some b.q) (d.traceKinds b.q seq) seq (d.tracedPkt b.q (d.line n)) 0 0) w₄).dev := by
    simp only [e, takePacket, takeCmdSeq, post_bind, val_bind, val_fget, post_fget, val_pure, post_pure]
    have hnumber : (M.post (countRind false (d.ringSlot b.q b.next / 64)) (M.post (touchLine (d.ringSlot b.q b.next / 64)) w)).dev.fld
      A.CMD_SEQ F.CMD_SEQ_SEQ = seq := hseq
    rw [hnumber]
    rfl
  have htrace : Changes [.evq] recordRegs w₄.dev e :=
    he ▸ (Emits.traceCmd (by simp) fun _ => id).changes_post (Changes.refl ..)
  have hkept : ∀ a, 0x50000 ≤ a → ¬ recordRegs a := fun a ha h => by have := recordRegs_range h; omega
  have hbytes := (takePacket_emits d b).changes_post (Changes.refl _ _ d)
  refine ⟨(htrace.parts .cmd (by simp)).trans ?_, ?_, ?_, fun f hf => ?_, fun a => hbytes.bytes a not_false⟩
  · exact (Upd.cmd_cmd ..).trans (by rw [hcmd])
  · refine (htrace.fld (hkept _ (by decide)) _).trans ((Upd.cmd_fld ..).trans ?_)
    refine (fld_fset_ne (by simp only [A.CMD_SEQ, A.CMD_Q_PTR]; omega) _ w₂).trans ((fld_fset (by decide +kernel) _ w₁).trans ?_)
    exact Nat.mod_mod ..
  · refine (htrace.fld (hkept _ (by simp only [A.CMD_Q_PTR]; omega)) _).trans ((Upd.cmd_fld ..).trans ?_)
    exact qptr_setPtr hq (by simp) _ w₂
  · refine (htrace.fld (hkept _ (by simp only [A.CMD_Q_PTR]; omega)) _).trans ((Upd.cmd_fld ..).trans ?_)
    exact (qptr_setPtr_other hq (by fin_cases hf <;> simp) (by fin_cases hf <;> decide) _ w₂).trans (hptr f)

/-- A packet that may not be read halts its queue. -/
theorem post_commandAccept_refused {w : Work} {b : Bell} (hbell : (w.dev.cmd.bells.find? fun b => !(w.dev.queueBarred b.q)) = some b)
    (hrefused : w.dev.refusal (w.dev.ringSlot b.q b.next) (some (w.dev.qcfg b.q F.CMD_Q_CFG_DOMAIN)) none ≠ none) :
    M.post commandAccept w = M.post (haltQueue b.q 4 (w.dev.ringSlot b.q b.next))
      (M.post (checkAccess (w.dev.ringSlot b.q b.next) (some (w.dev.qcfg b.q F.CMD_Q_CFG_DOMAIN)) none) w) := by
  have hsome := Option.isSome_iff_ne_none.mpr hrefused
  have hnone : (w.dev.refusal (w.dev.ringSlot b.q b.next) (some (w.dev.qcfg b.q F.CMD_Q_CFG_DOMAIN)) none).isNone = false := by
    simpa using hsome
  simp only [commandAccept, post_bind, val_dev, post_dev, hbell]
  simp only [hnone, hsome, on_false, post_pure, true_or, if_true, post_bind]

theorem checkAccess_emits {parts : List Part} (off n : Nat) (cls : Option Nat) :
    Emits (Foot parts (· = A.DOM_RIGHTS_CNT n)) (checkAccess off (some n) cls) := by
  refine (Emits.look _).bind fun r => ?_
  cases r with
  | none => exact Emits.pure _
  | some x => exact (Emits.on (Emits.bump (by rfl))).bind fun _ => Emits.pure _

theorem packetAcceptance : Clause.PacketAcceptance := by
  intro s b d off dom seq next hq hbell
  refine ⟨fun hallowed hfree hue => ?_, fun hrefused => ?_⟩
  · have hpost := post_commandAccept_sound (w := ⟨s.dev, []⟩) hbell hallowed hfree hue
    exact completes_run rfl hpost ((takePacket_emits s.dev b).replay_log rfl) (takePacket_takes b hq ⟨s.dev, []⟩)
  · have hpost := post_commandAccept_refused (w := ⟨s.dev, []⟩) hbell hrefused
    let w₁ := M.post (checkAccess off (some dom) none) ⟨s.dev, []⟩
    have hcheck : Changes [] (· = A.DOM_RIGHTS_CNT dom) d w₁.dev := (checkAccess_emits off dom none).changes_post (Changes.refl ..)
    have hhalt := (haltQueue_bell_emits (q := b.q) (err := 4) (addr := off))
    have hlog : s.dev.replay w₁.log = w₁.dev := (checkAccess_emits (parts := []) off dom none).replay_log rfl
    obtain ⟨hhalted, herr, -⟩ := haltQueue_halts hq (by decide : 4 < 16) off w₁
    have hdrops := haltQueue_drops b.q 4 off w₁
    refine completes_run rfl hpost (hhalt.replay_log hlog) ⟨hhalted, herr, fun x hx => ?_, ?_⟩
    · rw [hdrops] at hx
      simpa using (List.mem_filter.mp hx).2
    · have hsame : w₁.dev.cmd = d.cmd := hcheck.parts .cmd (by simp)
      have hacc : (M.post (haltQueue b.q 4 off) w₁).dev.cmd.acc = w₁.dev.cmd.acc := by rw [hdrops]
      exact hacc.trans (congrArg CmdSt.acc hsame)

/-! ## The start -/

/-- What is running after a command has started: it stands behind the others, and its packet waits no longer. -/
def CmdSt.started (x : CmdSt) (a : Acc) (r : Run) : CmdSt :=
  { x with acc := x.acc.filter (fun y => y.seq != a.seq || y.iss != a.iss), runs := x.runs ++ [r] }

/-- The check on DOMAIN and on the job looks at the queues, the domains and the jobs. -/
theorem domainRefusal_congr {d e : Dev} (hreg : ∀ b, 0x50000 ≤ b → e.reg b = d.reg b) (heng : e.eng = d.eng) (r : Run) :
    e.domainRefusal r = d.domainRefusal r := by
  have hdom : e.domState r.dom = d.domState r.dom := congrArg (Fld.of _) (hreg _ (by simp only [A.DOM_CFG]; omega))
  have hengine : e.isEngine r.iss = d.isEngine r.iss := by
    cases r.iss with
    | q n => exact congrArg (· == 0) (congrArg (Fld.of _) (hreg _ (by simp only [A.CMD_Q_CFG]; omega)))
    | _ => rfl
  have hjob : e.job = d.job := by funext q; simp only [Dev.job, heng]
  simp only [Dev.domainRefusal, hdom, hengine, hjob]

/-- A command stands among the running ones, and its start is traced. -/
def standAndTrace (x : CmdSt) (a : Acc) (r : Run) : M Unit := do
  modCmd fun _ => x.started a r
  traceCmd Ev.trcStart 1 r.queue a.trace a.seq r.pkt 0 0

theorem standAndTrace_emits (x : CmdSt) (a : Acc) (r : Run) : Emits (Foot [.cmd, .evq] recordRegs) (standAndTrace x a r) :=
  (Emits.modCmd (by simp)).bind fun _ => Emits.traceCmd (by simp) fun _ => id

theorem standAndTrace_cmd (x : CmdSt) (a : Acc) (r : Run) (w : Work) : (M.post (standAndTrace x a r) w).dev.cmd = x.started a r :=
  ((Emits.traceCmd (by simp) fun _ => id).changes_post (Changes.refl [.evq] recordRegs (w.add (.cmd (x.started a r))).dev)).parts .cmd (by simp)

section
variable {w : Work} {a : Acc} {r : Run} (hr : r = { iss := a.iss, seq := a.seq, pkt := w.dev.execPkt a.iss a.pkt, tick := w.dev.now, trace := a.trace })
  (hfresh : ∀ x ∈ w.dev.cmd.runs, x.seq ≠ a.seq)
include hr hfresh

/-- A command that has just started is the one with its number. -/
theorem started_only {v : Work} (hv : v.dev.cmd = w.dev.cmd.started a r) : v.dev.only r := by
  have hseq : r.seq = a.seq := by rw [hr]
  rw [Dev.only, hv]
  refine ⟨by simp [CmdSt.started], fun x hx hxseq => ?_⟩
  simp only [CmdSt.started, List.mem_append, List.mem_singleton] at hx
  obtain hx | rfl := hx
  · exact absurd (hxseq.trans hseq) (hfresh x hx)
  · rfl

theorem conclude_started (c : Cpl) : (w.dev.cmd.started a r).conclude r c = w.dev.cmd.started a { r with cpl := some c } := by
  have hseq : r.seq = a.seq := by rw [hr]
  have hothers : w.dev.cmd.runs.map (fun y => if y.seq = r.seq then { y with cpl := some c } else y) = w.dev.cmd.runs :=
    (List.map_congr_left fun x hx => if_neg (by rw [hseq]; exact hfresh x hx)).trans (List.map_id _)
  simp [CmdSt.conclude, CmdSt.started, hothers]

/-- A command that fails a check of its packet completes with it. -/
theorem startRun_refused {st dt : Nat} (hrefused : w.dev.packetRefusal a.pkt r = some (st, dt)) :
    ∃ m : M Unit, Emits (Foot [.cmd, .evq] recordRegs) m ∧ M.post (startRun a false false) w = M.post m w ∧
      (M.post m w).dev.cmd = w.dev.cmd.started a { r with cpl := some (fail st dt) } := by
  have hcmd := standAndTrace_cmd w.dev.cmd a r w
  refine ⟨_, (standAndTrace_emits w.dev.cmd a r).bind fun _ => Emits.setCpl (by simp) r (fail st dt), ?_, ?_⟩
  · subst hr
    simp only [startRun, post_bind, val_dev, post_dev, post_modCmd, Bool.false_eq_true, if_false, hrefused]
    rfl
  · rw [post_bind, post_setCpl_only (started_only hr hfresh hcmd) (by rw [hr]), hcmd, conclude_started hr hfresh]
    rfl

/-- A command that passes its checks waits for its row. -/
theorem startRun_passed (hpassed : w.dev.packetRefusal a.pkt r = none) (hptr : r.ptr = 0) (hscope : r.scope = 0)
    (hdomain : w.dev.domainRefusal r = none) : ∃ m : M Unit, Emits (Foot [.cmd, .evq] recordRegs) m ∧
      M.post (startRun a false false) w = M.post m w ∧ (M.post m w).dev.cmd = w.dev.cmd.started a r := by
  have hcmd := standAndTrace_cmd w.dev.cmd a r w
  have hm := standAndTrace_emits w.dev.cmd a r
  refine ⟨_, hm, ?_, hcmd⟩
  have hchanges := hm.changes_post (Changes.refl _ _ w.dev)
  have hrun := runSeq_of_only (started_only hr hfresh hcmd)
  have hstill := (domainRefusal_congr (fun b hb => hchanges.regs b fun h => by have := recordRegs_range h; omega)
    (hchanges.parts .eng (by simp)) r).trans hdomain
  have hcpl : r.cpl = none := by rw [hr]
  have hchecks : ∀ v : Work, v.dev.runSeq r.seq = some r → v.dev.domainRefusal r = none → M.post (passChecks r.seq) v = v := by
    intro v hrun hstill
    simp [passChecks, post_again_undecided hrun hcpl, hscope, hstill]
  rw [← hchecks _ hrun hstill]
  subst hr
  simp only [startRun, post_bind, val_dev, post_dev, post_modCmd, Bool.false_eq_true, if_false, hpassed, hptr, if_true]
  rfl

end

/-- The device in which the command of a queue starts: the round robin of the management queues has moved past the queue. -/
def Dev.turned (d : Dev) (q : Nat) : CmdSt :=
  { d.cmd with rr := if d.isEngine (.q q) ∨ d.mgmtPrio (.q q) = 1 then d.cmd.rr else q + 1
               rrHi := if ¬ d.isEngine (.q q) ∧ d.mgmtPrio (.q q) = 1 then q + 1 else d.cmd.rrHi }

/-- COMMAND_START of a queue whose oldest command is ready and whose executor is free starts that command. -/
theorem post_commandStart_ready {w : Work} {q : Nat} {a : Acc} (hnone : w.dev.runOf (.q q) = none) (hhead : w.dev.head (.q q) = some a)
    (hready : w.dev.headReady a = true) (hcan : w.dev.canStart = true)
    (hfree : w.dev.isEngine (.q q) = true ∧ w.dev.tilesDown q = false ∧ w.dev.tilesFree a = true ∧ w.dev.gatedOf q = [] ∨
      w.dev.isEngine (.q q) = false ∧ w.dev.coreServes = true ∧ w.dev.nextMgmt = some a ∧ w.dev.mgmtRuns < 8) :
    M.post (commandStart (.q q)) w = M.post (startRun a false false) (if w.dev.isEngine (.q q) then w else w.add (.cmd (w.dev.turned q))) := by
  have hiss : a.iss = .q q := by simpa using List.find?_some hhead
  have hrunning : w.dev.qstate q = Qs.running := by
    have := hready
    rw [Dev.headReady, hiss] at this
    simp only [Bool.and_eq_true, beq_iff_eq] at this
    exact this.2.1
  have hdraining : w.dev.qstate q ≠ Qs.draining := by rw [hrunning]; decide
  obtain ⟨hengine, hdown, htiles, hgated⟩ | ⟨hengine, hcore, hnext, hroom⟩ := hfree
  · simp [commandStart, hnone, hhead, hdraining, hready, hengine, startEngine, hdown, hcan, htiles, hgated]
  · have hrr : w.dev.turned q = if w.dev.mgmtPrio (.q q) = 1 then { w.dev.cmd with rrHi := q + 1 } else { w.dev.cmd with rr := q + 1 } := by
      by_cases h : w.dev.mgmtPrio (.q q) = 1 <;> simp [Dev.turned, hengine, h]
    simp [commandStart, hnone, hhead, hdraining, hready, hengine, startMgmt, hiss, hnext, hroom, hcan, hcore, hrr, rrPos]

/-- The work on which a command starts. -/
def Work.turned (w : Work) (q : Nat) : Work := if w.dev.isEngine (.q q) then w else w.add (.cmd (w.dev.turned q))

theorem Work.turned_cases (w : Work) (q : Nat) : (w.turned q).dev.cmd = w.dev.turned q ∧
    (w.turned q = w ∨ w.turned q = w.add (.cmd (w.dev.turned q))) := by
  unfold Work.turned
  split
  · rename_i h
    exact ⟨by simp [Dev.turned, h], .inl rfl⟩
  · exact ⟨rfl, .inr rfl⟩

/-- From the start of a command to the completed row. -/
theorem completes_start {s : State} {q : Fin 512} {x : CmdSt} {m : M Unit} {post : State → Prop}
    (hpost : M.post (commandStart (.q q)) ⟨s.dev, []⟩ = M.post m (Work.turned ⟨s.dev, []⟩ q)) (hm : Emits (Foot [.cmd, .evq] recordRegs) m)
    (hcmd : (M.post m (Work.turned ⟨s.dev, []⟩ q)).dev.cmd = x)
    (h : ∀ t : State, t.dev.cmd = x → (∀ b, t.dev.byte b = s.dev.byte b) → post t) : Completes (.commandStart (.q q)) s post := by
  have hturned : s.dev.replay (Work.turned ⟨s.dev, []⟩ q).log = (Work.turned ⟨s.dev, []⟩ q).dev ∧
      Changes [.cmd, .evq] recordRegs s.dev (Work.turned ⟨s.dev, []⟩ q).dev := by
    obtain ⟨-, h | h⟩ := Work.turned_cases ⟨s.dev, []⟩ q <;> rw [h]
    · exact ⟨rfl, Changes.refl ..⟩
    · exact ⟨rfl, changes_cmd (Changes.refl ..) (by simp)⟩
  exact completes_run rfl hpost (hm.replay_log hturned.1) (h _ hcmd fun b => (hm.changes_post hturned.2).bytes b not_false)

/-- The register of the gated tiles stores all its bits. -/
theorem gated_stored : assigned A.PWR_TILE_GATED = true ∧ readMask A.PWR_TILE_GATED = BitVec.allOnes 64 := by decide +kernel

theorem commandStarts : Clause.CommandStarts := by
  intro s
  refine ⟨fun q a => ?_, fun tile => ⟨fun h => ?_, fun h => ?_⟩⟩
  · dsimp only
    intro hnone hhead hready hcan hfree hfresh
    let run : Run := { iss := .q q, seq := a.seq, pkt := s.dev.execPkt (.q q) a.pkt, tick := s.dev.now, trace := a.trace }
    have hiss : a.iss = .q q := by simpa using List.find?_some hhead
    have hpost := post_commandStart_ready (w := ⟨s.dev, []⟩) hnone hhead hready hcan hfree
    obtain ⟨hcmd, hcases⟩ := Work.turned_cases ⟨s.dev, []⟩ q
    have hrun : run = { iss := a.iss, seq := a.seq, pkt := (Work.turned ⟨s.dev, []⟩ q).dev.execPkt a.iss a.pkt,
                        tick := (Work.turned ⟨s.dev, []⟩ q).dev.now, trace := a.trace } := by
      rw [hiss]
      obtain h | h := hcases
      · rw [h]
      · rw [h]
        rfl
    have hrefusal : (Work.turned ⟨s.dev, []⟩ q).dev.packetRefusal a.pkt run = s.dev.packetRefusal a.pkt run := by
      obtain h | h := hcases
      · rw [h]
      · rw [h]
        rfl
    have hdomain : (Work.turned ⟨s.dev, []⟩ q).dev.domainRefusal run = s.dev.domainRefusal run := by
      obtain h | h := hcases
      · rw [h]
      · rw [h]
        rfl
    have hothers : ∀ x ∈ (Work.turned ⟨s.dev, []⟩ q).dev.cmd.runs, x.seq ≠ a.seq := by rw [hcmd]; exact hfresh
    refine ⟨fun hpassed hptr hscope hok => ?_, fun st dt hrefused => ?_⟩
    · obtain ⟨m, hm, hstart, hafter⟩ := startRun_passed hrun hothers (hrefusal.trans hpassed) hptr hscope (hdomain.trans hok)
      exact completes_start (hpost.trans hstart) hm hafter fun t ht hbytes => ⟨by rw [ht, hcmd]; rfl, hbytes⟩
    · obtain ⟨m, hm, hstart, hafter⟩ := startRun_refused hrun hothers (hrefusal.trans hrefused)
      exact completes_start (hpost.trans hstart) hm hafter fun t ht hbytes => ⟨by rw [ht, hcmd]; rfl, hbytes⟩
  · let x : CmdSt := { s.dev.cmd with waking := s.dev.cmd.waking.filter (· != tile.val) }
    let v : Word := s.dev.reg A.PWR_TILE_GATED &&& ~~~(BitVec.ofNat 64 (2 ^ tile.val))
    have hpost : M.post (tileWake tile) ⟨s.dev, []⟩ = (Work.add ⟨s.dev, []⟩ (.cmd x)).add (.csr A.PWR_TILE_GATED v) := by
      simp only [tileWake, post_bind, val_dev, post_dev, h, if_true, post_modCmd, post_wr, x, v]
    have hcmd : Changes [.cmd] (· = A.PWR_TILE_GATED) s.dev ((Upd.cmd x).apply s.dev) := changes_cmd (Changes.refl ..) (by simp)
    refine completes_run rfl hpost (e := (Upd.csr A.PWR_TILE_GATED v).apply ((Upd.cmd x).apply s.dev)) rfl
      ⟨Upd.csr_cmd .., ?_, changes_csr (regs := (· = A.PWR_TILE_GATED)) _ rfl hcmd⟩
    simp [gated_stored, v, -BitVec.ofNat_pow, -BitVec.reduceAllOnes]
  · exact completes_run rfl (w := ⟨s.dev, []⟩)
      (by simp only [tileWake, post_bind, val_dev, post_dev, h, Bool.false_eq_true, if_false, post_pure]) rfl rfl

/-- Settles O41: what is accepted from a ring, and how what is accepted starts. -/
theorem commandAcceptance : Obligations.CommandAcceptance := by
  exact ⟨packetAcceptance, commandStarts⟩

end Sys2Proof.Machine
end

section
/-! PROOFS. The bytes of a line, and the writes of a running command that its slices order at once. -/

namespace Sys2Proof.Machine

/-! ## The bytes of a line -/

theorem length_toLe (w x : Nat) : (toLe w x).length = w := by
  induction w generalizing x with
  | zero => rfl
  | succ w ih => simp [toLe, ih]

theorem getD_toLe {w i : Nat} (h : i < w) (x : Nat) : (toLe w x).getD i 0 = BitVec.ofNat 8 (x / 256 ^ i) := by
  induction w generalizing x i with
  | zero => omega
  | succ w ih =>
    cases i with
    | zero => simp [toLe]
    | succ i =>
      have hdiv : x / 256 / 256 ^ i = x / 256 ^ (i + 1) := by rw [Nat.div_div_eq_div_mul, Nat.pow_succ, Nat.mul_comm]
      simpa [toLe, hdiv] using ih (Nat.lt_of_succ_lt_succ h) (x / 256)

theorem leBytes_div (l : List Byte) (i : Nat) : BitVec.ofNat 8 (leBytes l / 256 ^ i) = l.getD i 0 := by
  induction l generalizing i with
  | nil => simp [leBytes]
  | cons b l ih =>
    have hcons : leBytes (b :: l) = b.toNat + 256 * leBytes l := rfl
    have hb := b.isLt
    cases i with
    | zero =>
      apply BitVec.eq_of_toNat_eq
      simp [hcons]
      omega
    | succ i =>
      have hdiv : (b.toNat + 256 * leBytes l) / 256 = leBytes l := by omega
      rw [hcons, Nat.pow_succ', ← Nat.div_div_eq_div_mul, hdiv, ih]
      simp

theorem byteOf_eq (v : Line) (i : Nat) : byteOf v i = BitVec.ofNat 8 (v.toNat / 256 ^ i) := by
  have hpow : 2 ^ (8 * i) = 256 ^ i := by rw [Nat.pow_mul]
  apply BitVec.eq_of_toNat_eq
  simp [byteOf, le, bits, Nat.shiftRight_eq_div_pow, hpow]

theorem getD_lineBytes (v : Line) {i : Nat} (h : i < 64) : (lineBytes v).getD i 0 = byteOf v i := by
  rw [lineBytes, getD_toLe h, byteOf_eq]

theorem leBytes_take_lt (l : List Byte) : leBytes (l.take 64) < 2 ^ 512 := by
  have hpow : (2 : Nat) ^ 512 = 256 ^ 64 := Nat.pow_mul 2 8 64
  rw [hpow]
  exact Nat.lt_of_lt_of_le (leBytes_lt _) (Nat.pow_le_pow_right (by decide) (List.length_take_le ..))

/-- The bytes of a line made of a list of bytes. -/
theorem byteOf_lineOf (l : List Byte) {i : Nat} (h : i < 64) : byteOf (lineOf l) i = l.getD i 0 := by
  rw [byteOf_eq, lineOf, BitVec.toNat_ofNat, Nat.mod_eq_of_lt (leBytes_take_lt l), leBytes_div]
  simp [List.getD_eq_getElem?_getD, h]

theorem byteOf_line (d : Dev) (n : Nat) {i : Nat} (h : i < 64) : byteOf (d.line n) i = d.byte (64 * n + i) := by
  rw [Dev.line, byteOf_lineOf _ h]
  simp [List.getD_eq_getElem?_getD, h]

theorem byteOf_mergeLine (old new : Line) (mask : BitVec 64) {i : Nat} (h : i < 64) :
    byteOf (mergeLine old new mask) i = if mask.getLsbD i then byteOf new i else byteOf old i := by
  rw [mergeLine, byteOf_lineOf _ h]
  simp [List.getD_eq_getElem?_getD, h]

/-! ## Bytes stored -/

/-- A meaning that may change some parts and registers, and bytes of the store. -/
def FootMem (parts : List Part) (regs : Nat → Prop) (u : Upd) : Prop := (∃ a b, u = .mem a b) ∨ Foot parts regs u

theorem Emits.footMem {α : Type} {parts : List Part} {regs : Nat → Prop} {m : M α} (hm : Emits (Foot parts regs) m) :
    Emits (FootMem parts regs) m := hm.mono fun _ => .inr

theorem wrBytes_emits {parts : List Part} {regs : Nat → Prop} (a : Nat) (l : List Byte) : Emits (FootMem parts regs) (wrBytes a l) := by
  induction l generalizing a with
  | nil => exact Emits.pure ()
  | cons b l ih => exact (Emits.emit (.inl ⟨a, b, rfl⟩)).bind fun _ => ih (a + 1)

theorem byte_mem (a : Nat) (v : Byte) (d : Dev) (b : Nat) :
    ((Upd.mem a v).apply d).byte b = if b = a ∧ a < storeEnd then v else d.byte b := by
  by_cases ha : a < storeEnd
  · by_cases hb : b = a <;> simp [Upd.apply, Dev.byte, ha, hb]
  · simp [Upd.apply, ha]

theorem byte_wrBytes (a : Nat) (l : List Byte) (w : Work) (b : Nat) :
    (M.post (wrBytes a l) w).dev.byte b = if a ≤ b ∧ b < a + l.length ∧ b < storeEnd then l.getD (b - a) 0 else w.dev.byte b := by
  induction l generalizing a w with
  | nil => simp [wrBytes]; omega
  | cons x l ih =>
    simp only [wrBytes, post_bind, ih, wrByte, post_emit, Work.add_dev, byte_mem, List.length_cons]
    by_cases hb : b = a
    · subst hb
      simp
    · have hsub : a < b → b - a = b - (a + 1) + 1 := by omega
      by_cases hlt : a < b
      · have hle : a ≤ b := by omega
        simp [hb, hlt, hle, hsub, Nat.add_assoc, Nat.add_comm 1]
      · have hle : ¬ a ≤ b := by omega
        have hle' : ¬ a + 1 ≤ b := by omega
        simp [hb, hle, hle']

/-- A line stored, and every other byte as it was (R105). -/
theorem stores_wrLine {n : Nat} (h : 64 * n < storeEnd) (v : Line) (w : Work) : Stores n v w.dev (M.post (wrLine n v) w).dev := by
  have hlen : (lineBytes v).length = 64 := length_toLe ..
  simp only [storeEnd] at h
  refine ⟨fun i hi => ?_, fun a ha => ?_⟩
  · have hin : 64 * n ≤ 64 * n + i ∧ 64 * n + i < 64 * n + (lineBytes v).length ∧ 64 * n + i < storeEnd := by
      simp only [hlen, storeEnd]; omega
    rw [wrLine, byte_wrBytes, if_pos hin, ← getD_lineBytes v hi]
    congr 1
    omega
  · have hout : ¬ (64 * n ≤ a ∧ a < 64 * n + (lineBytes v).length ∧ a < storeEnd) := by omega
    rw [wrLine, byte_wrBytes, if_neg hout]

theorem footMem_touches {parts : List Part} {regs : Nat → Prop} {u : Upd} (hu : FootMem parts regs u) {d e : Dev}
    (h : Touches parts regs (fun _ => True) d e) : Touches parts regs (fun _ => True) d (u.apply e) := by
  obtain ⟨a, b, rfl⟩ | hu := hu
  · refine ⟨fun p hp => ?_, fun x hx => ?_, fun x hx => absurd trivial hx⟩
    · have hsame := h.parts p hp
      cases p <;> simp_all [Part.same]
    · rw [Upd.mem_reg, h.regs x hx]
  · have hstep := hu.changes (Changes.refl parts regs e)
    refine ⟨fun p hp => ?_, fun x hx => (hstep.regs x hx).trans (h.regs x hx), fun x hx => absurd trivial hx⟩
    have hsame := h.parts p hp
    have hnext := hstep.parts p hp
    cases p <;> exact hnext.trans hsame

theorem Emits.touches_post {α : Type} {parts : List Part} {regs : Nat → Prop} {m : M α} (hm : Emits (FootMem parts regs) m) (w : Work) :
    Touches parts regs (fun _ => True) w.dev (M.post m w).dev := by
  obtain ⟨l, -, hdev, hl⟩ := hm w
  rw [hdev]
  exact Dev.replay_keeps (q := Touches parts regs (fun _ => True) w.dev) (fun u hu _ h => footMem_touches (hl u hu) h)
    ⟨fun p _ => by cases p <;> rfl, fun _ _ => rfl, fun _ _ => rfl⟩

/-! ## What a write that is ordered at once meets, and what keeps it so -/

/-- The registers on which it depends whether a write of a line is ordered at once: the tags of the extents, the published objects, the bounds
on the violations of the Talku ports. -/
def gateRegs (a : Nat) : Prop := (0x61000 ≤ a ∧ a < 0x62000) ∨ (0x84000 ≤ a ∧ a < 0x85000) ∨ ∃ q < 4, a = A.TLK_VIOL_CFG q

/-- Whatever stands between no write and its line in one device stands so in another. -/
structure Steady (d e : Dev) : Prop where
  gates : ∀ a, gateRegs a → e.reg a = d.reg a
  serves : ∀ k < 8, d.stackServes k = true → e.stackServes k = true
  repairs : e.store.repairs = d.store.repairs
  errs : ∀ n, d.errsAt n = [] → e.errsAt n = []
  sound : ∀ n, (d.meta_ n).poison = false → (e.meta_ n).poison = false
  snoops : e.home.snoops = d.home.snoops
  unheld : ∀ n, d.dirOf n = (0, 0) → e.dirOf n = (0, 0)
  recs : e.own.recs = d.own.recs
  links : e.links = d.links
  publishing : ∀ x, d.publishing x = false → e.publishing x = false

theorem Steady.refl (d : Dev) : Steady d d :=
  ⟨fun _ _ => rfl, fun _ _ h => h, rfl, fun _ h => h, fun _ h => h, rfl, fun _ h => h, rfl, rfl, fun _ h => h⟩

theorem Steady.trans {d e f : Dev} (h : Steady d e) (g : Steady e f) : Steady d f where
  gates a ha := (g.gates a ha).trans (h.gates a ha)
  serves k hk hs := g.serves k hk (h.serves k hk hs)
  repairs := g.repairs.trans h.repairs
  errs n hn := g.errs n (h.errs n hn)
  sound n hn := g.sound n (h.sound n hn)
  snoops := g.snoops.trans h.snoops
  unheld n hn := g.unheld n (h.unheld n hn)
  recs := g.recs.trans h.recs
  links := g.links.trans h.links
  publishing x hx := g.publishing x (h.publishing x hx)

/-- A write of a line by a domain, of a class, is allowed and sound, and nothing stands between it and the line, which no host holds (R131,
R191, R226). -/
structure Dev.writable (d : Dev) (n : Nat) (dom cls : Option Nat) : Prop where
  allowed : d.refusal (64 * n) dom cls = none
  serves : d.stackServes (stackOf (64 * n)) = true
  unrepaired : d.repairing (64 * n) = false
  snoops : d.home.snoops = []
  errs : d.errsAt n = []
  sound : (d.meta_ n).poison = false
  unpublished : d.published n = false
  atHome : (d.ownRec (regionOf n)).st ≠ 1
  unheld : d.dirOf n = (0, 0)

section
variable {d e : Dev} {n : Nat} {dom cls : Option Nat}

theorem writable_of_lineFree (h : d.lineFree n) (hallowed : d.refusal (64 * n) dom cls = none) (hdir : d.dirOf n = (0, 0)) :
    d.writable n dom cls :=
  ⟨hallowed, h.serves, h.unrepaired, h.snoops, h.errs, h.sound, h.unpublished, h.atHome, hdir⟩

theorem refusal_steady (h : Steady d e) (off : Nat) : e.refusal off dom cls = d.refusal off dom cls := by
  by_cases hin : storeEnd ≤ off
  · simp [Dev.refusal, hin]
  · have hext : extentOf off < 384 := by
      simp only [extentOf, Nat.shiftRight_eq_div_pow]
      simp only [storeEnd] at hin
      omega
    have htag : e.reg (A.DOM_EXT_TAG (extentOf off)) = d.reg (A.DOM_EXT_TAG (extentOf off)) :=
      h.gates _ (.inl ⟨by simp only [A.DOM_EXT_TAG]; omega, by simp only [A.DOM_EXT_TAG]; omega⟩)
    unfold Dev.refusal Dev.extState Dev.extDom Dev.extCls Dev.fld
    dsimp only
    rw [htag]

/-- Whether a region lies in a buffer of an object, from the two registers that name the buffers. -/
def inBuffers (cfg cur : Word) (x : Nat) : Bool :=
  F.HOM_PUB_CFG_VALID.of cfg == 1 &&
    ((bit cur 63 && decide (bits cur 0 18 ≤ x) && decide (x < bits cur 0 18 + (F.HOM_PUB_CFG_LEN_M1.of cfg + 1))) ||
      (bit cur 62 && decide (bits cur 32 18 ≤ x) && decide (x < bits cur 32 18 + (F.HOM_PUB_CFG_LEN_M1.of cfg + 1))))

theorem publishedRegion_eq (d : Dev) (x : Nat) :
    d.publishedRegion x = (List.range 64).any fun i => inBuffers (d.reg (A.HOM_PUB_CFG i)) (d.reg (A.HOM_PUB_CUR i)) x := rfl

theorem publishedRegion_steady (h : Steady d e) (x : Nat) : e.publishedRegion x = d.publishedRegion x := by
  rw [publishedRegion_eq, publishedRegion_eq, Bool.eq_iff_iff, List.any_eq_true, List.any_eq_true]
  refine exists_congr fun i => and_congr_right fun hi => ?_
  have hlt : i < 64 := List.mem_range.mp hi
  rw [h.gates (A.HOM_PUB_CFG i) (.inr (.inl ⟨by simp only [A.HOM_PUB_CFG]; omega, by simp only [A.HOM_PUB_CFG]; omega⟩)),
    h.gates (A.HOM_PUB_CUR i) (.inr (.inl ⟨by simp only [A.HOM_PUB_CUR]; omega, by simp only [A.HOM_PUB_CUR]; omega⟩))]

theorem Dev.writable.steady (h : d.writable n dom cls) (hs : Steady d e) : e.writable n dom cls where
  allowed := (refusal_steady hs _).trans h.allowed
  serves := hs.serves _ (Nat.mod_lt _ (by decide)) h.serves
  unrepaired := by simpa only [Dev.repairing, hs.repairs] using h.unrepaired
  snoops := hs.snoops.trans h.snoops
  errs := hs.errs n h.errs
  sound := hs.sound n h.sound
  unpublished := by
    have hpub := h.unpublished
    simp only [Dev.published, Bool.or_eq_false_iff, publishedRegion_steady hs] at hpub ⊢
    exact ⟨hpub.1, hs.publishing _ hpub.2⟩
  atHome := by simpa only [Dev.ownRec, hs.recs] using h.atHome
  unheld := hs.unheld n h.unheld

theorem calm_steady (h : d.calm) (hs : Steady d e) : e.calm :=
  calm_of_counts h (fun q hq => hs.gates _ (.inr (.inr ⟨q, hq, rfl⟩))) fun q => by simp [Dev.link, hs.links]

theorem Dev.writable.notFailed (h : d.writable n dom cls) : d.stackFailed (stackOf (64 * n)) = false := by
  have hserves := h.serves
  simp only [Dev.stackServes, Bool.or_eq_true, beq_iff_eq] at hserves
  obtain h | h := hserves <;> simp [Dev.stackFailed, h]

/-- What changes none of the parts and registers that a write meets. -/
theorem Steady.of_same (hgates : ∀ a, gateRegs a → e.reg a = d.reg a) (hstacks : ∀ k < 8, e.reg (A.STK_STATUS k) = d.reg (A.STK_STATUS k))
    (hlines : e.store.lines = d.store.lines) (herrs : e.store.errs = d.store.errs) (hrepairs : e.store.repairs = d.store.repairs)
    (hdc : e.home.dc = d.home.dc) (hsnoops : e.home.snoops = d.home.snoops) (hrecs : e.own.recs = d.own.recs) (hlinks : e.links = d.links)
    (hruns : ∀ x, d.publishing x = false → e.publishing x = false) : Steady d e where
  gates := hgates
  serves k hk h := by simpa only [Dev.stackServes, Dev.fld, hstacks k hk] using h
  repairs := hrepairs
  errs n h := by simpa only [Dev.errsAt, herrs] using h
  sound n h := by simpa only [Dev.meta_, hlines] using h
  snoops := hsnoops
  unheld n h := by simpa only [Dev.dirOf, Dev.meta_, hlines, hdc] using h
  recs := hrecs
  links := hlinks
  publishing := hruns

/-- The registers on which a write depends: those that gate it, and the states of the stacks. -/
def watchedRegs (a : Nat) : Prop := gateRegs a ∨ ∃ k < 8, a = A.STK_STATUS k

/-- What changes other parts and registers than those that a write meets. -/
theorem Steady.of_touches {parts : List Part} {regs bytes : Nat → Prop} (h : Touches parts regs bytes d e)
    (hparts : ∀ p ∈ [Part.store, .home, .own, .links, .cmd], p ∉ parts) (hregs : ∀ a, watchedRegs a → ¬ regs a) : Steady d e := by
  have hstore : e.store = d.store := h.parts .store (hparts _ (by simp))
  have hhome : e.home = d.home := h.parts .home (hparts _ (by simp))
  have hown : e.own = d.own := h.parts .own (hparts _ (by simp))
  have hlinks : e.links = d.links := h.parts .links (hparts _ (by simp))
  have hcmd : e.cmd = d.cmd := h.parts .cmd (hparts _ (by simp))
  exact Steady.of_same (fun a ha => h.regs a (hregs a (.inl ha))) (fun k hk => h.regs _ (hregs _ (.inr ⟨k, hk, rfl⟩)))
    (by rw [hstore]) (by rw [hstore]) (by rw [hstore]) (by rw [hhome]) (by rw [hhome]) (by rw [hown]) hlinks
    fun x hx => by simpa only [Dev.publishing, hcmd] using hx

end

end Sys2Proof.Machine
end

section
/-! PROOFS. A write of a running command that its slice orders at once (R105, R191, R228). -/

namespace Sys2Proof.Machine

/-! ## The steps of a write keep the way of the other writes free -/

section
variable {w : Work} {n : Nat}

theorem not_watched_rind (a : Nat) (h : ∃ k < 8, a = A.RIND_ENC_CNT k ∨ a = A.RIND_DEC_CNT k) : ¬ watchedRegs a := by
  obtain ⟨k, hk, h⟩ := h
  rintro ((hg | hg | ⟨q, hq, hg⟩) | ⟨j, hj, hg⟩) <;> obtain h | h := h <;>
    simp only [A.RIND_ENC_CNT, A.RIND_DEC_CNT, A.TLK_VIOL_CFG, A.STK_STATUS] at h hg <;> omega

theorem not_gate_stack {a k : Nat} (hk : k < 8) (h : a = A.STK_STATUS k) : ¬ gateRegs a := by
  rintro (hg | hg | ⟨q, hq, hg⟩) <;> simp only [A.TLK_VIOL_CFG, A.STK_STATUS] at h hg <;> omega

theorem countRind_steady (enc : Bool) (n : Nat) (w : Work) : Steady w.dev (M.post (countRind enc n) w).dev := by
  have hm : Emits (Foot [] fun a => ∃ k < 8, a = A.RIND_ENC_CNT k ∨ a = A.RIND_DEC_CNT k) (countRind enc n) := by
    refine Emits.dev.bind fun d => Emits.on (Emits.bump48 ⟨stackOf (64 * n), Nat.mod_lt _ (by decide), ?_⟩)
    cases enc
    · exact .inr rfl
    · exact .inl rfl
  exact Steady.of_touches (hm.footMem.touches_post w) (by simp) fun a ha h => not_watched_rind a h ha

theorem takesFld_stack : ∀ k < 8, takesFld (A.STK_STATUS k) F.STK_STATUS_STATE := by decide +kernel

/-- A stack that is woken serves. -/
theorem serves_setReady {k j : Nat} (hk : k < 8) (hj : j < 8) (h : w.dev.stackServes j = true) :
    (M.post (setStackState k Ks.ready) w).dev.stackServes j = true := by
  by_cases hjk : j = k
  · subst hjk
    have hstate := fld_fset (takesFld_stack j hj) Ks.ready w
    simp [Dev.stackServes, setStackState, hstate, -post_fset, Ks.ready]
  · have hne : A.STK_STATUS j ≠ A.STK_STATUS k := by simp only [A.STK_STATUS]; omega
    simpa only [Dev.stackServes, setStackState, fld_fset_ne hne] using h

theorem setReady_steady {k : Nat} (hk : k < 8) (w : Work) : Steady w.dev (M.post (setStackState k Ks.ready) w).dev where
  gates a ha := reg_fset_ne (fun h => not_gate_stack hk h ha) _ w
  serves j hj h := serves_setReady hk hj h
  repairs := by simp [setStackState]
  errs n h := by simpa [setStackState, Dev.errsAt] using h
  sound n h := by simpa [setStackState, Dev.meta_] using h
  snoops := by simp [setStackState]
  unheld n h := by simpa [setStackState, Dev.dirOf, Dev.meta_] using h
  recs := by simp [setStackState]
  links := by simp [setStackState]
  publishing x h := by simpa [setStackState, Dev.publishing] using h

/-- A change of the times and rows of the stacks. -/
theorem Steady.of_store {x : StoreSt} (hlines : x.lines = w.dev.store.lines) (herrs : x.errs = w.dev.store.errs)
    (hrepairs : x.repairs = w.dev.store.repairs) : Steady w.dev ((Upd.store x).apply w.dev) :=
  Steady.of_same (fun _ _ => rfl) (fun _ _ => rfl) hlines herrs hrepairs rfl rfl rfl rfl fun _ h => h

theorem activate_keeps (x : StoreSt) (off : Nat) :
    (x.activate off).lines = x.lines ∧ (x.activate off).errs = x.errs ∧ (x.activate off).repairs = x.repairs := by
  unfold StoreSt.activate
  dsimp only
  split <;> exact ⟨rfl, rfl, rfl⟩

theorem touchLine_steady (n : Nat) (w : Work) : Steady w.dev (M.post (touchLine n) w).dev := by
  let k := stackOf (64 * n) * 64 + pcOf (64 * n)
  let x := StoreSt.activate { w.dev.store with down := w.dev.store.down.erase k, lastUse := tset 0 w.dev.store.lastUse k w.dev.now } (64 * n)
  obtain ⟨hlines, herrs, hrepairs⟩ := activate_keeps
    { w.dev.store with down := w.dev.store.down.erase k, lastUse := tset 0 w.dev.store.lastUse k w.dev.now } (64 * n)
  have hpost : M.post (touchLine n) w =
      M.post (on (w.dev.fld (A.STK_STATUS (stackOf (64 * n))) F.STK_STATUS_STATE == Ks.powerDown) (setStackState (stackOf (64 * n)) Ks.ready))
        (w.add (.store x)) := rfl
  rw [hpost, post_on]
  refine (Steady.of_store (w := w) hlines herrs hrepairs).trans ?_
  split
  · exact setReady_steady (Nat.mod_lt _ (by decide)) (w.add (.store x))
  · exact Steady.refl _

/-- A line stored as such: nothing else of the device changes but its symbol errors. -/
theorem storeLine_touches (n : Nat) (v : Line) (w : Work) :
    Touches [] noReg (fun _ => True) (M.post (setErrs n []) w).dev (M.post (wrLine n v) (M.post (setErrs n []) w)).dev :=
  Emits.touches_post (wrBytes_emits _ _) _

/-- A sound line stored leaves the way of every write free. -/
theorem putLine_steady (n : Nat) (v : Line) (w : Work) : Steady w.dev (M.post (putLine n v 0) w).dev := by
  obtain ⟨w₂, hw₂⟩ : ∃ x, x = M.post (wrLine n v) (M.post (setErrs n []) w) := ⟨_, rfl⟩
  have hpost : M.post (putLine n v 0) w =
      M.post (countRind true n) (M.post (wrMeta n { w.dev.meta_ n with poison := false, pcause := 0 }) w₂) := by simp [putLine, hw₂]
  have htouches := storeLine_touches n v w
  rw [← hw₂] at htouches
  have hstore : w₂.dev.store = { w.dev.store with errs := tset [] w.dev.store.errs n [] } := htouches.parts .store (by simp)
  have hhome : w₂.dev.home = w.dev.home := htouches.parts .home (by simp)
  have hown : w₂.dev.own = w.dev.own := htouches.parts .own (by simp)
  have hcmd : w₂.dev.cmd = w.dev.cmd := htouches.parts .cmd (by simp)
  have hlinks : w₂.dev.links = w.dev.links := htouches.parts .links (by simp)
  have hregs : ∀ a, w₂.dev.reg a = w.dev.reg a := fun a => htouches.regs a not_false
  rw [hpost]
  refine Steady.trans ?_ (countRind_steady true n _)
  refine ⟨fun a _ => hregs a, fun k _ h => ?_, ?_, fun m h => ?_, fun m h => ?_, ?_, fun m h => ?_, ?_, ?_, fun x h => ?_⟩
  · simpa [Dev.stackServes, Dev.fld, hregs] using h
  · simp [hstore]
  · simp only [Dev.errsAt] at h
    simp [Dev.errsAt, hstore, h]
  · simp only [Dev.meta_] at h
    by_cases hm : m = n <;> simp [Dev.meta_, hstore, h, hm]
  · simp [hhome]
  · by_cases hm : m = n
    · subst hm
      simpa [Dev.dirOf, Dev.meta_, hstore, hhome] using h
    · simpa [Dev.dirOf, Dev.meta_, hstore, hhome, hm] using h
  · simp [hown]
  · simp [hlinks]
  · simpa [Dev.publishing, hcmd] using h

theorem markDirty_emits (n : Nat) : Emits (Foot [.fab] noReg) (markDirty n) := by
  refine Emits.dev.bind fun d => ?_
  dsimp only
  split
  · exact Emits.pure _
  · exact Emits.ite (Emits.modFab (by simp)) (Emits.modFab (by simp))

theorem markDirty_steady (n : Nat) (w : Work) : Steady w.dev (M.post (markDirty n) w).dev :=
  Steady.of_touches ((markDirty_emits n).footMem.touches_post w) (by simp) fun _ _ => not_false

theorem post_writeDir_invalid (n : Nat) (w : Work) : M.post (writeDir n 0 0) w =
    M.post (setDir n 0) (M.post (modHome fun h => { h with dc := h.dc.filter fun e => e.line != n }) w) := by simp [writeDir]

/-- A line that no port holds is recorded so, and the other lines stay as they are recorded. -/
theorem writeDir_invalid_steady (n : Nat) (w : Work) : Steady w.dev (M.post (writeDir n 0 0) w).dev := by
  rw [post_writeDir_invalid]
  refine ⟨fun _ _ => rfl, fun _ _ h => h, rfl, fun _ h => h, fun m h => ?_, rfl, fun m h => ?_, rfl, rfl, fun _ h => h⟩
  · simp only [Dev.meta_] at h
    by_cases hm : m = n
    · subst hm
      simpa [setDir, Dev.meta_] using h
    · simp [setDir, Dev.meta_, hm, h]
  · by_cases hm : m = n
    · subst hm
      have hnone : (w.dev.home.dc.filter fun e => e.line != m).find? (·.line == m) = none := by simp
      simp [setDir, Dev.dirOf, hnone, Dev.meta_, dirDecode]
    · have hfind : (w.dev.home.dc.filter fun e => e.line != n).find? (·.line == m) = w.dev.home.dc.find? (·.line == m) := by
        rw [List.find?_filter]
        congr 1
        funext e
        by_cases he : e.line = m <;> simp [he, hm]
      simpa [setDir, Dev.dirOf, hfind, Dev.meta_, hm] using h

end

/-! ## A write ordered at once -/

/-- What ordering a write leaves as it was: all but the metadata and the bytes of its line, the times of the stacks, what the slices and the
gateway note of it; and the way of the other writes stays free. -/
structure Ordered (d e : Dev) : Prop where
  steady : Steady d e
  touches : Touches [.store, .home, .fab] touchRegs (fun _ => True) d e
  waiting : e.home.waiting = d.home.waiting

theorem Touches.trans {parts : List Part} {regs bytes : Nat → Prop} {d e f : Dev} (h : Touches parts regs bytes d e)
    (g : Touches parts regs bytes e f) : Touches parts regs bytes d f where
  parts p hp := by
    have h₁ := h.parts p hp
    have h₂ := g.parts p hp
    cases p <;> exact h₂.trans h₁
  regs a ha := (g.regs a ha).trans (h.regs a ha)
  bytes a ha := (g.bytes a ha).trans (h.bytes a ha)

theorem Ordered.refl (d : Dev) : Ordered d d :=
  ⟨Steady.refl d, ⟨fun p _ => by cases p <;> rfl, fun _ _ => rfl, fun _ _ => rfl⟩, rfl⟩

theorem Ordered.trans {d e f : Dev} (h : Ordered d e) (g : Ordered e f) : Ordered d f :=
  ⟨h.steady.trans g.steady, h.touches.trans g.touches, g.waiting.trans h.waiting⟩

/-- A steady meaning that changes some of the parts and registers, and not the requests that wait. -/
theorem Ordered.of_emits {α : Type} {parts : List Part} {regs : Nat → Prop} {m : M α} {w : Work} (hm : Emits (FootMem parts regs) m)
    (hparts : parts ⊆ [.store, .home, .fab]) (hregs : ∀ a, regs a → touchRegs a) (hsteady : Steady w.dev (M.post m w).dev)
    (hwaiting : (M.post m w).dev.home.waiting = w.dev.home.waiting) : Ordered w.dev (M.post m w).dev where
  steady := hsteady
  touches := (hm.mono fun _ hu => hu.imp id fun hu => hu.mono hparts hregs).touches_post w
  waiting := hwaiting

theorem setErrs_emits (n : Nat) (e : SymErrs) : Emits (Foot [.store] noReg) (setErrs n e) := Emits.modStore (by simp)

theorem putLine_emits (n : Nat) (v : Line) (pcause : Nat) (h : pcause = 0) : Emits (FootMem [.store] touchRegs) (putLine n v pcause) := by
  subst h
  exact (Emits.look _).bind fun m => ((setErrs_emits n []).mono fun _ hu => .inr (hu.mono (by simp) fun _ h => h.elim)).bind fun _ =>
    (wrBytes_emits _ _).bind fun _ => (Emits.footMem (Emits.wrMeta (by simp))).bind fun _ => (countRind_emits true n).footMem.bind fun _ =>
      Emits.pure ()

theorem writeDir_emits (n st ports : Nat) : Emits (Foot [.store, .home] noReg) (writeDir n st ports) :=
  Emits.dev.bind fun _ => Emits.ite ((Emits.modHome (by simp)).bind fun _ => (Emits.look _).bind fun _ => Emits.wrMeta (by simp))
    (Emits.ite ((Emits.look _).bind fun _ => Emits.wrMeta (by simp)) (Emits.modHome (by simp)))

section
variable {w : Work} {n : Nat}

/-- What a meaning that touches neither the slices' requests nor a byte leaves of them. -/
theorem Emits.keeps_waiting {parts : List Part} {regs : Nat → Prop} {m : M Unit} (hm : Emits (FootMem parts regs) m) (hhome : Part.home ∉ parts)
    (w : Work) : (M.post m w).dev.home.waiting = w.dev.home.waiting := by
  have hsame : (M.post m w).dev.home = w.dev.home := (hm.touches_post w).parts .home hhome
  rw [hsame]

theorem touchLine_ordered (n : Nat) (w : Work) : Ordered w.dev (M.post (touchLine n) w).dev :=
  Ordered.of_emits (touchLine_emits n).footMem (by simp) (fun _ h => h) (touchLine_steady n w) ((touchLine_emits n).footMem.keeps_waiting (by simp) w)

theorem byte_touchLine (n : Nat) (w : Work) (a : Nat) : (M.post (touchLine n) w).dev.byte a = w.dev.byte a :=
  ((touchLine_emits n).changes_post (Changes.refl ..)).bytes a not_false

theorem putLine_ordered (n : Nat) (v : Line) (w : Work) : Ordered w.dev (M.post (putLine n v 0) w).dev :=
  Ordered.of_emits (putLine_emits n v 0 rfl) (by simp) (fun _ h => h) (putLine_steady n v w) ((putLine_emits n v 0 rfl).keeps_waiting (by simp) w)

theorem stores_putLine {n : Nat} (h : 64 * n < storeEnd) (v : Line) (w : Work) : Stores n v w.dev (M.post (putLine n v 0) w).dev := by
  obtain ⟨w₂, hw₂⟩ : ∃ x, x = M.post (wrLine n v) (M.post (setErrs n []) w) := ⟨_, rfl⟩
  have hstores : Stores n v w.dev w₂.dev := hw₂ ▸ stores_wrLine h v (M.post (setErrs n []) w)
  have hpost : M.post (putLine n v 0) w =
      M.post (countRind true n) (M.post (wrMeta n { w.dev.meta_ n with poison := false, pcause := 0 }) w₂) := by simp [putLine, hw₂]
  have hrind : ∀ w' : Work, ∀ a, (M.post (countRind true n) w').dev.byte a = w'.dev.byte a := fun w' a =>
    ((countRind_emits true n).changes_post (Changes.refl ..)).bytes a not_false
  exact ⟨fun i hi => by rw [hpost, hrind]; exact hstores.1 i hi, fun a ha => by rw [hpost, hrind]; exact hstores.2 a ha⟩

theorem markDirty_ordered (n : Nat) (w : Work) : Ordered w.dev (M.post (markDirty n) w).dev :=
  Ordered.of_emits (markDirty_emits n).footMem (by simp) (fun _ h => h.elim) (markDirty_steady n w)
    ((markDirty_emits n).footMem.keeps_waiting (by simp) w)

theorem writeDir_ordered (n : Nat) (w : Work) : Ordered w.dev (M.post (writeDir n 0 0) w).dev :=
  Ordered.of_emits (writeDir_emits n 0 0).footMem (by simp) (fun _ h => h.elim) (writeDir_invalid_steady n w) (by
    rw [post_writeDir_invalid]; simp [setDir])

/-- What the slices note beside the requests that wait, the snoops and the directory. -/
theorem modHome_ordered {f : HomeSt → HomeSt} (hf : ∀ x, (f x).waiting = x.waiting ∧ (f x).snoops = x.snoops ∧ (f x).dc = x.dc) (w : Work) :
    Ordered w.dev (M.post (modHome f) w).dev := by
  obtain ⟨hwaiting, hsnoops, hdc⟩ := hf w.dev.home
  exact Ordered.of_emits (parts := [.home]) (regs := noReg) (Emits.footMem (Emits.modHome (by simp))) (by simp) (fun _ h => h.elim)
    (Steady.of_same (fun _ _ => rfl) (fun _ _ => rfl) rfl rfl rfl hdc hsnoops rfl rfl fun _ h => h) hwaiting

end

section
variable {w : Work} {r : HReq} {seq : Nat} {mask : BitVec 64} {v : Line}

/-- The device after a write has been ordered on a line that nothing stands before. -/
def writeDone (r : HReq) (mask : BitVec 64) (v : Line) (w : Work) : Work :=
  M.post (writeDir r.line 0 0) (M.post (markDirty r.line)
    (M.post (putLine r.line (if mask = BitVec.allOnes 64 then v else mergeLine (w.dev.line r.line) v mask) 0) w))

theorem applyReq_write (h : w.dev.writable r.line r.dom r.cls) (hop : r.op = .wr mask v 0) :
    M.val (applyReq r) w = { idx := 0 } ∧ M.post (applyReq r) w = writeDone r mask v w := by
  have hpoison : w.dev.poisonOf r.line = 0 := by simp [Dev.poisonOf, h.notFailed, h.sound]
  by_cases hmask : mask = BitVec.allOnes 64 <;>
    simp [applyReq, hop, writeLine, h.notFailed, hmask, hpoison, writeDone, -BitVec.reduceAllOnes]

theorem writeDone_ordered (r : HReq) (mask : BitVec 64) (v : Line) (w : Work) : Ordered w.dev (writeDone r mask v w).dev :=
  (putLine_ordered ..).trans ((markDirty_ordered ..).trans (writeDir_ordered ..))

/-- The bytes under its mask read as written, every other byte of the store as before (R105). -/
theorem byte_writeDone (h : 64 * r.line < storeEnd) (a : Nat) : (writeDone r mask v w).dev.byte a =
    if r.line = a / 64 ∧ mask.getLsbD (a % 64) = true then byteOf v (a % 64) else w.dev.byte a := by
  have hdir : ∀ w' : Work, (M.post (writeDir r.line 0 0) w').dev.byte a = w'.dev.byte a := fun w' =>
    ((writeDir_emits r.line 0 0).changes_post (Changes.refl ..)).bytes a not_false
  have hdirty : ∀ w' : Work, (M.post (markDirty r.line) w').dev.byte a = w'.dev.byte a := fun w' =>
    ((markDirty_emits r.line).changes_post (Changes.refl ..)).bytes a not_false
  obtain ⟨hin, hout⟩ := stores_putLine h (if mask = BitVec.allOnes 64 then v else mergeLine (w.dev.line r.line) v mask) w
  rw [writeDone, hdir, hdirty]
  by_cases ha : a / 64 = r.line
  · have hsplit : 64 * r.line + a % 64 = a := by omega
    have hlt : a % 64 < 64 := Nat.mod_lt _ (by decide)
    have hbyte := hin (a % 64) hlt
    rw [hsplit] at hbyte
    rw [hbyte]
    by_cases hmask : mask = BitVec.allOnes 64
    · simp [hmask, ha, hlt, -BitVec.reduceAllOnes]
    · simp [hmask, ha, byteOf_mergeLine _ _ _ hlt, byteOf_line _ _ hlt, hsplit, -BitVec.reduceAllOnes]
  · rw [hout a ha, if_neg fun h => ha h.1.symm]

end

end Sys2Proof.Machine
end

section
/-! PROOFS. The slices order the writes of a running command that nothing stands before (R187, R191). -/

namespace Sys2Proof.Machine

section
variable {w : Work} {r : HReq} {seq : Nat} {mask : BitVec 64} {v : Line}

theorem readDir_ordered (h : w.dev.errsAt r.line = []) : Ordered w.dev (M.post (readDir r) w).dev ∧
    ∀ a, (M.post (readDir r) w).dev.byte a = w.dev.byte a := by
  have hsettle : M.post (settleRead (some r.who) r.line false) (M.post (touchLine r.line) w) = M.post (touchLine r.line) w :=
    post_settleRead_sound ((touchLine_steady r.line w).errs _ h) ..
  simp only [readDir, post_bind, val_dev, post_dev, post_on, hsettle]
  split
  · exact ⟨touchLine_ordered .., byte_touchLine r.line w⟩
  · exact ⟨Ordered.refl _, fun _ => rfl⟩

theorem foundAnswer_ordered (a : HAns) (w : Work) : Ordered w.dev (M.post (foundAnswer r a) w).dev ∧
    ∀ b, (M.post (foundAnswer r a) w).dev.byte b = w.dev.byte b := by
  simp only [foundAnswer, post_bind, val_dev, post_dev, post_ite]
  split
  · exact ⟨modHome_ordered (f := fun h => { h with found := h.found.erase (r.who, r.line) }) (fun _ => ⟨rfl, rfl, rfl⟩) w, fun _ => rfl⟩
  · exact ⟨Ordered.refl _, fun _ => rfl⟩

theorem val_foundAnswer {a : HAns} (h : a.detail = 0) (w : Work) : M.val (foundAnswer r a) w = a := by
  simp only [foundAnswer, val_bind, val_dev, post_dev, val_ite, h]
  split <;> rfl

/-- A write that nothing stands before needs no snoop, and none is sent for it (R226, R228). -/
theorem snoops_of_write {d : Dev} (h : d.writable r.line r.dom r.cls) (hsrc : r.src = .run seq) (hop : r.op = .wr mask v 0) :
    d.groupViolates r = false ∧ d.snoopsFor r = some [] ∧ d.mustClear r = false ∧ d.poisonSnoops r = [] := by
  have hclear : d.mustClear r = false := by simp [Dev.mustClear, h.sound]
  exact ⟨by simp [Dev.groupViolates, hsrc], by simp [Dev.snoopsFor, h.unheld, hop, hsrc, Src.port], hclear, by simp [Dev.poisonSnoops, hclear]⟩

/-- A write of a running command that nothing stands before is ordered at once, and succeeds (R131, R191, R228). -/
theorem tryReq_write (h : w.dev.writable r.line r.dom r.cls) (hsrc : r.src = .run seq) (hop : r.op = .wr mask v 0) :
    M.val (tryReq r) w = some { idx := r.idx } ∧ Ordered w.dev (M.post (tryReq r) w).dev ∧
    ∀ a, (M.post (tryReq r) w).dev.byte a =
      if r.line = a / 64 ∧ mask.getLsbD (a % 64) = true then byteOf v (a % 64) else w.dev.byte a := by
  have hin : 64 * r.line < storeEnd := by
    have hallowed := h.allowed
    by_contra hout
    simp [Dev.refusal, Nat.not_lt.mp hout] at hallowed
  obtain ⟨w₁, hw₁⟩ : ∃ x, x = M.post (readDir r) w := ⟨_, rfl⟩
  obtain ⟨w₂, hw₂⟩ : ∃ x, x = M.post (touchLine r.line) w₁ := ⟨_, rfl⟩
  obtain ⟨hord₁, hbyte₁⟩ : Ordered w.dev w₁.dev ∧ ∀ a, w₁.dev.byte a = w.dev.byte a := hw₁ ▸ readDir_ordered h.errs
  have hord₂ : Ordered w₁.dev w₂.dev := hw₂ ▸ touchLine_ordered r.line w₁
  have hbyte₂ : ∀ a, w₂.dev.byte a = w₁.dev.byte a := hw₂ ▸ byte_touchLine r.line w₁
  have h₁ := h.steady hord₁.steady
  have h₂ := h₁.steady hord₂.steady
  obtain ⟨hval, hpost⟩ := applyReq_write h₂ hop
  obtain ⟨hgroup, hneed, hclear, hextra⟩ := snoops_of_write h₁ hsrc hop
  have hcheck : M.val (checkAccess (64 * r.line) r.dom r.cls) w = none ∧ M.post (checkAccess (64 * r.line) r.dom r.cls) w = w := by
    simp [checkAccess, h.allowed]
  have hsettle : ∀ c, M.post (on c (settleRead (some r.who) r.line false)) w₂ = w₂ := fun c => by
    rw [post_on, post_settleRead_sound h₂.errs, ite_self]
  have hrun : M.val (tryReq r) w = some { idx := r.idx } ∧ M.post (tryReq r) w =
      M.post (modHome fun h => { h with inv := h.inv.erase (r.who, r.line) }) (M.post (foundAnswer r { idx := 0 }) (writeDone r mask v w₂)) := by
    unfold tryReq
    simp [hcheck, h.snoops, h.serves, h.unrepaired, h.unpublished, h.atHome, ← hw₁, hgroup, hneed, hclear, hextra, h₁.snoops, hop, ← hw₂,
      hsettle, h₂.snoops, hval, hpost, val_foundAnswer]
  obtain ⟨hval', hpost'⟩ := hrun
  obtain ⟨hord₃, hbyte₃⟩ := foundAnswer_ordered (r := r) { idx := 0 } (writeDone r mask v w₂)
  refine ⟨hval', ?_, fun a => ?_⟩
  · rw [hpost']
    exact hord₁.trans (hord₂.trans ((writeDone_ordered ..).trans (hord₃.trans (modHome_ordered
      (f := fun h => { h with inv := h.inv.erase (r.who, r.line) }) (fun _ => ⟨rfl, rfl, rfl⟩) _))))
  · have hinv : ∀ w' : Work, (M.post (modHome fun h => { h with inv := h.inv.erase (r.who, r.line) }) w').dev.byte a = w'.dev.byte a :=
      fun _ => rfl
    rw [hpost', hinv, hbyte₃, byte_writeDone hin, hbyte₂, hbyte₁]

end

section
variable {seq : Nat}

/-- A request of a running command that writes a line sound, as nothing stands before it. -/
def Dev.landing (d : Dev) (seq : Nat) (r : HReq) : Prop :=
  r.src = .run seq ∧ (∃ mask v, r.op = .wr mask v 0) ∧ d.writable r.line r.dom r.cls

/-- The byte that a write of a line stores at an address, if any. -/
def HReq.byteAt (r : HReq) (a : Nat) : Option Byte :=
  match r.op with
  | .wr mask v _ => if r.line = a / 64 ∧ mask.getLsbD (a % 64) = true then some (byteOf v (a % 64)) else none
  | _ => none

/-- A running command that hears that a write of it has been ordered. -/
def Run.landed (x : Run) (r : HReq) : Run := x.give { key := r.grp, data := [0] }

/-- The writes of a running command have been ordered one after another: it has heard of each, the bytes read as the last write of each left
them, and nothing waits. -/
structure WritesLand (seq : Nat) (l : List HReq) (d e : Dev) : Prop where
  steady : Steady d e
  touches : Touches [.store, .home, .fab, .cmd] touchRegs (fun _ => True) d e
  told : e.cmd = d.cmd.mapRuns fun x => if x.seq == seq then l.foldl Run.landed x else x
  bytes : ∀ a, e.byte a = (l.reverse.findSome? (·.byteAt a)).getD (d.byte a)

theorem Run.landed_seq (x : Run) (r : HReq) : (x.landed r).seq = x.seq := Run.give_seq ..

theorem foldl_landed_seq (l : List HReq) (x : Run) : (l.foldl Run.landed x).seq = x.seq := by
  induction l generalizing x with
  | nil => rfl
  | cons r l ih => rw [List.foldl_cons, ih, Run.landed_seq]

/-- Whether a command is a PUBLISH that has begun step 2 for a region and not ended (R245). -/
def Run.publishes (x : Run) (n : Nat) : Bool :=
  le x.pkt 0 2 == 0x0303 && x.phase == 1 && x.cpl.isNone && decide (x.aux.getD 0 0 ≤ n) && decide (n < x.aux.getD 0 0 + x.aux.getD 1 0)

theorem publishing_eq (d : Dev) (n : Nat) : d.publishing n = d.cmd.runs.any (·.publishes n) := rfl

/-- Commands that publish no more than the commands before them. -/
theorem publishing_of_runs {d e : Dev} (h : ∀ y ∈ e.cmd.runs, ∃ x ∈ d.cmd.runs, ∀ n, y.publishes n = true → x.publishes n = true) (n : Nat)
    (hd : d.publishing n = false) : e.publishing n = false := by
  rw [publishing_eq, List.any_eq_false] at hd ⊢
  intro y hy hpub
  obtain ⟨x, hx, hyx⟩ := h y hy
  exact hd x hx (hyx n hpub)

theorem Run.give_keeps (x : Run) (g : Got) : (x.give g).pkt = x.pkt ∧ (x.give g).phase = x.phase ∧ ((x.give g).cpl = none → x.cpl = none) ∧
    (x.counts = false → (x.give g).aux = x.aux) := by
  unfold Run.give
  dsimp only
  split_ifs with _ hcounts <;> simp_all

/-- A command that hears how an access of it has ended publishes nothing that it did not publish. -/
theorem Run.give_publishes {x : Run} {g : Got} {n : Nat} (h : (x.give g).publishes n = true) : x.publishes n = true := by
  obtain ⟨hpkt, hphase, hcpl, haux⟩ := x.give_keeps g
  simp only [Run.publishes, hpkt, hphase, Bool.and_eq_true, beq_iff_eq, Option.isNone_iff_eq_none] at h ⊢
  obtain ⟨⟨⟨⟨hop, hone⟩, hnone⟩, hlo⟩, hhi⟩ := h
  have hcounts : x.counts = false := by simp [Run.counts, hop]
  rw [haux hcounts] at hlo hhi
  exact ⟨⟨⟨⟨hop, hone⟩, hcpl hnone⟩, hlo⟩, hhi⟩

theorem Run.landed_publishes {x : Run} {r : HReq} {n : Nat} (h : (x.landed r).publishes n = true) : x.publishes n = true := Run.give_publishes h

theorem Dev.landing.steady {d e : Dev} {r : HReq} (h : d.landing seq r) (hs : Steady d e) : e.landing seq r :=
  ⟨h.1, h.2.1, h.2.2.steady hs⟩

/-- A change of the commands in progress that makes none of them publish more. -/
theorem Steady.of_runs {d : Dev} {x : CmdSt} (h : ∀ y ∈ x.runs, ∃ z ∈ d.cmd.runs, ∀ n, y.publishes n = true → z.publishes n = true) :
    Steady d ((Upd.cmd x).apply d) :=
  Steady.of_same (fun _ _ => rfl) (fun _ _ => rfl) rfl rfl rfl rfl rfl rfl rfl (publishing_of_runs h)

theorem WritesLand.refl (d : Dev) : WritesLand seq [] d d :=
  ⟨Steady.refl d, ⟨fun p _ => by cases p <;> rfl, fun _ _ => rfl, fun _ _ => rfl⟩, by simp [CmdSt.mapRuns], fun _ => rfl⟩

theorem WritesLand.trans {l k : List HReq} {d e f : Dev} (h : WritesLand seq l d e) (g : WritesLand seq k e f) : WritesLand seq (l ++ k) d f where
  steady := h.steady.trans g.steady
  touches := h.touches.trans g.touches
  told := by
    rw [g.told, h.told]
    simp only [CmdSt.mapRuns, List.map_map, List.foldl_append]
    congr 2
    funext x
    by_cases hx : x.seq = seq <;> simp [hx, foldl_landed_seq]
  bytes a := by
    rw [g.bytes, h.bytes, List.reverse_append, List.findSome?_append]
    cases k.reverse.findSome? (·.byteAt a) <;> rfl

/-- A write that has been ordered stops waiting, and its command hears of it. -/
theorem ordered_told {w : Work} {d : Dev} {r : HReq} {mask : BitVec 64} {v : Line} (hop : r.op = .wr mask v 0) (hord : Ordered d w.dev)
    (hbyte : ∀ a, w.dev.byte a = if r.line = a / 64 ∧ mask.getLsbD (a % 64) = true then byteOf v (a % 64) else d.byte a) :
    WritesLand seq [r] d (M.post (answerRun seq r.grp { idx := r.idx }) (M.post (modHome fun h => { h with waiting := h.waiting.erase r }) w)).dev := by
  have hcmd : w.dev.cmd = d.cmd := hord.touches.parts .cmd (by simp)
  have htouches : Touches [.store, .home, .fab, .cmd] touchRegs (fun _ => True) d w.dev :=
    ⟨fun p hp => hord.touches.parts p fun hin => hp (List.mem_of_mem_dropLast (by simpa using hin)), hord.touches.regs, hord.touches.bytes⟩
  refine ⟨hord.steady.trans (Steady.trans (e := (M.post (modHome fun h => { h with waiting := h.waiting.erase r }) w).dev) ?_
    (Steady.of_runs fun y hy => ?_)), htouches.trans ?_, ?_, fun a => ?_⟩
  · exact Steady.of_same (fun _ _ => rfl) (fun _ _ => rfl) rfl rfl rfl rfl rfl rfl rfl fun _ h => h
  · obtain ⟨x, hx, rfl⟩ := List.mem_map.mp hy
    refine ⟨x, hx, fun n hn => ?_⟩
    split at hn
    · exact Run.give_publishes hn
    · exact hn
  · exact ⟨fun p hp => by cases p <;> simp_all [Part.same, answerRun, giveRun, modRun], fun _ _ => rfl, fun a h => absurd trivial h⟩
  · simp [answerRun, giveRun, modRun, hcmd, CmdSt.mapRuns, Run.landed, b2n]
  · simp [answerRun, giveRun, modRun, hbyte, HReq.byteAt, hop]
    split <;> rfl

/-- A write that nothing stands before, served: it is no longer waiting, and its command has heard of it. -/
theorem serve_landing {w : Work} {r : HReq} (h : w.dev.landing seq r) {rest : List HReq} (hwaiting : w.dev.home.waiting = r :: rest) :
    ∃ w', M.post (serveList (r :: rest) [] []) w = M.post (serveList rest [] []) w' ∧ WritesLand seq [r] w.dev w'.dev ∧
      w'.dev.home.waiting = rest := by
  obtain ⟨hsrc, ⟨mask, v, hop⟩, hfree⟩ := h
  obtain ⟨hval, hord, hbyte⟩ := tryReq_write hfree hsrc hop
  obtain ⟨w₁, hw₁⟩ : ∃ x, x = M.post (tryReq r) w := ⟨_, rfl⟩
  rw [← hw₁] at hord hbyte
  refine ⟨M.post (answerRun seq r.grp { idx := r.idx }) (M.post (modHome fun h => { h with waiting := h.waiting.erase r }) w₁), ?_,
    ordered_told hop hord hbyte, ?_⟩
  · simp [serveList, HReq.issuer, hsrc, hval, ← hw₁, giveAnswer]
  · simp [answerRun, giveRun, modRun, hord.waiting, hwaiting]

/-- The writes of a running command that nothing stands before, served in order. -/
theorem serveList_lands {l : List HReq} {w : Work} (h : ∀ r ∈ l, w.dev.landing seq r) (hwaiting : w.dev.home.waiting = l) :
    WritesLand seq l w.dev (M.post (serveList l [] []) w).dev ∧ (M.post (serveList l [] []) w).dev.home.waiting = [] := by
  induction l generalizing w with
  | nil => exact ⟨WritesLand.refl _, hwaiting⟩
  | cons r rest ih =>
    obtain ⟨w', hpost, hland, hrest⟩ := serve_landing (h r (by simp)) hwaiting
    obtain ⟨hlands, hnone⟩ := ih (fun x hx => (h x (by simp [hx])).steady hland.steady) hrest
    rw [hpost]
    exact ⟨hland.trans hlands, hnone⟩

theorem checkTlkOver_calm {w : Work} (h : w.dev.calm) : M.val checkTlkOver w = false ∧ M.post checkTlkOver w = w := by
  have hover : ((List.range 4).filter fun p => w.dev.overThreshold p && w.dev.portState p != Ps.quarantined) = [] := by
    rw [List.filter_eq_nil_iff]
    intro p hp
    simp [h p (List.mem_range.mp hp)]
  simp [checkTlkOver, hover]

/-- One pass is enough where it leaves nothing waiting and no port is about to be quarantined. -/
theorem post_serveAll {w w' : Work} (hpost : M.post (serveList w.dev.home.waiting [] []) w = w') (hnone : w'.dev.home.waiting = [])
    (hcalm : w'.dev.calm) : M.post serveAll w = w' := by
  obtain ⟨hval, hover⟩ := checkTlkOver_calm hcalm
  have honce : M.post serveOnce w = w' := by simp [serveOnce, hpost, hnone]
  rw [serveAll, serveAllN]
  simp only [post_bind, honce, hval, hover, on_false, post_pure]

/-- Writes handed to slices at which nothing waits, where nothing stands between them and their lines, and no port is about to be quarantined. -/
theorem submit_lands {l : List HReq} {w : Work} (h : ∀ r ∈ l, w.dev.landing seq r) (hwaiting : w.dev.home.waiting = []) (hcalm : w.dev.calm) :
    WritesLand seq l w.dev (M.post (submit l) w).dev ∧ (M.post (submit l) w).dev.home.waiting = [] := by
  obtain ⟨w₁, hw₁⟩ : ∃ x, x = M.post (modHome fun h => { h with waiting := h.waiting ++ l }) w := ⟨_, rfl⟩
  have hlist : w₁.dev.home.waiting = l := by simp [hw₁, hwaiting]
  have hsteady : Steady w.dev w₁.dev := by
    rw [hw₁]
    exact Steady.of_same (fun _ _ => rfl) (fun _ _ => rfl) rfl rfl rfl rfl rfl rfl rfl fun _ h => h
  have htouches : Touches [.store, .home, .fab, .cmd] touchRegs (fun _ => True) w.dev w₁.dev := by
    rw [hw₁]
    exact ⟨fun p hp => by cases p <;> simp_all [Part.same], fun _ _ => rfl, fun _ h => absurd trivial h⟩
  obtain ⟨hcmd, hbytes⟩ : w₁.dev.cmd = w.dev.cmd ∧ ∀ a, w₁.dev.byte a = w.dev.byte a := by
    rw [hw₁]
    exact ⟨rfl, fun _ => rfl⟩
  obtain ⟨hlands, hnone⟩ := serveList_lands (w := w₁) (fun r hr => (h r hr).steady hsteady) hlist
  have hpost : M.post (submit l) w = M.post (serveList l [] []) w₁ := by
    rw [submit, post_bind, ← hw₁]
    exact post_serveAll (by rw [hlist]) hnone (calm_steady hcalm (hsteady.trans hlands.steady))
  rw [hpost]
  exact ⟨⟨hsteady.trans hlands.steady, htouches.trans hlands.touches, hcmd ▸ hlands.told, fun a => by rw [hlands.bytes, hbytes]⟩, hnone⟩

end

end Sys2Proof.Machine
end

section
/-! PROOFS. The completion record of a command (O42): where its write is ordered at once, and the record of the mailbox. -/

namespace Sys2Proof.Machine

/-! ## The end of a queue's command -/

/-- The command of a queue leaves the device once its record is written: the trace mark, the notice, and the queue that has drained. -/
def dismiss (r : Run) (q tail : Nat) (c : Cpl) : M Unit := do
  traceCmd Ev.trcDone 2 (some q) r.trace r.seq r.pkt c.status c.detail
  dropRun r.seq
  let d ← dev
  on r.notify (sendNotice (d.qcfg q F.CMD_Q_CFG_PORT)
    { type := 0x63, units := [BitVec.ofNat 128 (q + (tail + 1) % 65536 * 2 ^ 16)] })
  settleQueue q

theorem post_finishQueued (r : Run) (q : Nat) (c : Cpl) (w : Work) : M.post (finishQueued r q c) w =
    M.post (dismiss r q (w.dev.qptr q F.CMD_Q_PTR_CQ_TAIL) c) (M.post (bump48 (A.CMD_Q_DONE_CNT q) 1)
      (M.post (setPtr q F.CMD_Q_PTR_CQ_TAIL (w.dev.qptr q F.CMD_Q_PTR_CQ_TAIL + 1)) w)) := rfl

theorem filter_others {l : List Run} {n : Nat} {f : Run → Run} (hf : ∀ x, (f x).seq = x.seq) :
    (l.map fun x => if x.seq == n then f x else x).filter (fun x => x.seq != n) = l.filter fun x => x.seq != n := by
  induction l with
  | nil => rfl
  | cons x l ih =>
    by_cases hx : x.seq = n
    · simpa [hx, hf] using ih
    · simpa [hx] using ih

/-- The registers that change as a command leaves the device, beside its queue's CQ_TAIL and its count. -/
def dismissRegs (q a : Nat) : Prop := recordRegs a ∨ 0xa0000 ≤ a ∨ a = A.CMD_Q_STATE q ∨ a = A.CMD_SEQ

theorem sendNotice_emits {p : Nat} {m : TMsg} {parts : List Part} {regs : Nat → Prop} (htrf : Part.trf ∈ parts) (hregs : ∀ a, 0xa0000 ≤ a → regs a) :
    Emits (Foot parts regs) (sendNotice p m) := by
  refine (Emits.look _).bind fun st => Emits.ite ?_ (Emits.bump (hregs _ ?_))
  · refine Emits.now.bind fun t => ?_
    simp only [ite_self]
    exact Emits.modTrf htrf
  · simp only [A.TLK_NOTICE_DROP_CNT]
    omega

theorem dismiss_emits (r : Run) (q tail : Nat) (c : Cpl) :
    Emits (Foot [.cmd, .home, .sys, .evq, .trf] (dismissRegs q)) (dismiss r q tail c) :=
  (Emits.traceCmd (by simp) fun _ => .inl).bind fun _ =>
    ((Emits.dropRun r.seq).mono fun _ hu => hu.mono (by simp) fun _ h => h.elim).bind fun _ => Emits.dev.bind fun _ =>
      (Emits.on (sendNotice_emits (by simp) fun _ h => .inr (.inl h))).bind fun _ => Emits.settleQueue (.inr (.inr (.inl rfl)))

theorem finishQueued_logged (r : Run) (q : Nat) (c : Cpl) : Emits (Foot [.cmd, .home, .sys, .evq, .trf] fun _ => True) (finishQueued r q c) :=
  (Emits.fget _ _).bind fun _ => (Emits.fset trivial).bind fun _ => (Emits.bump48 trivial).bind fun _ =>
    (dismiss_emits r q _ c).mono fun _ hu => hu.mono (by simp) fun _ _ => trivial

/-- The command is gone from the device. -/
theorem dismiss_runs (r : Run) (q tail : Nat) (c : Cpl) (w : Work) :
    (M.post (dismiss r q tail c) w).dev.cmd = { w.dev.cmd with runs := w.dev.cmd.runs.filter fun x => x.seq != r.seq } := by
  obtain ⟨w₁, hw₁⟩ : ∃ x, x = M.post (traceCmd Ev.trcDone 2 (some q) r.trace r.seq r.pkt c.status c.detail) w := ⟨_, rfl⟩
  have htrace : Changes [.evq] recordRegs w.dev w₁.dev := hw₁ ▸ (Emits.traceCmd (by simp) fun _ => id).changes_post (Changes.refl ..)
  have hcmd : w₁.dev.cmd = w.dev.cmd := htrace.parts .cmd (by simp)
  let rest (d : Dev) : M Unit := do
    on r.notify (sendNotice (d.qcfg q F.CMD_Q_CFG_PORT) { type := 0x63, units := [BitVec.ofNat 128 (q + (tail + 1) % 65536 * 2 ^ 16)] })
    settleQueue q
  have hrest : ∀ d, Emits (Foot [.trf] fun _ => True) (rest d) := fun d =>
    (Emits.on (sendNotice_emits (by simp) fun _ _ => trivial)).bind fun _ => Emits.settleQueue trivial
  have hpost : M.post (dismiss r q tail c) w = M.post (rest (M.post (dropRun r.seq) w₁).dev) (M.post (dropRun r.seq) w₁) := by
    rw [hw₁]
    rfl
  have hsame : (M.post (dismiss r q tail c) w).dev.cmd = (M.post (dropRun r.seq) w₁).dev.cmd := by
    rw [hpost]
    exact ((hrest _).changes_post (Changes.refl ..)).parts .cmd (by simp)
  rw [hsame, post_dropRun_cmd, hcmd]

theorem afterCommit_emits (r : Run) (c : Cpl) : Emits (Foot [.cmd, .sys] (· = A.CMD_SEQ)) (afterCommit r c) := by
  refine Emits.dev.bind fun d => Emits.ite ?_ (Emits.pure _)
  dsimp only
  exact Emits.ite ((takeCmdSeq_emits (parts := [.cmd, .sys])).bind fun _ => (Emits.modCmd (by simp)).bind fun _ => Emits.modRes (by simp))
    (Emits.on (Emits.modRes (by simp)))

theorem afterCommit_runs (r : Run) (c : Cpl) (w : Work) : (M.post (afterCommit r c) w).dev.cmd.runs = w.dev.cmd.runs := by
  simp only [afterCommit, post_bind, val_dev, post_dev, post_ite]
  split
  · split
    · simp [giveCommit, takeCmdSeq]
    · simp [post_on]
      split <;> rfl
  · rfl

/-! ## The record in the store -/

theorem getLsbD_maskOf {lo n i : Nat} (hi : i < 64) : (maskOf lo n).getLsbD i = (decide (lo ≤ i) && decide (i - lo < n)) := by
  rw [maskOf, BitVec.getLsbD_ofNat, Nat.testBit_shiftLeft, Nat.testBit_two_pow_sub_one]
  simp [hi]

/-- A piece of a line that starts within it: under its mask the line's bytes are the piece's. -/
theorem byteOf_piece {lo i : Nat} (l : List Byte) (hi : i < 64) (hlo : lo ≤ i) : byteOf (lineOf (List.replicate lo 0 ++ l)) i = l.getD (i - lo) 0 := by
  rw [byteOf_lineOf _ hi, List.getD_eq_getElem?_getD, List.getD_eq_getElem?_getD, List.getElem?_append_right (by simpa using hlo)]
  simp

/-- The request that writes a completion record. -/
def recordReq (d : Dev) (r : Run) (q : Nat) (c : Cpl) : HReq :=
  let off := d.cqSlot q (d.qptr q F.CMD_Q_PTR_CQ_TAIL)
  ⟨cqKey, 0, .run r.seq, .wr (maskOf (off % 64) 32) (lineOf (List.replicate (off % 64) 0 ++ recordBytes r.tag r.seq d.now c)) 0, off / 64,
    some (d.qcfg q F.CMD_Q_CFG_DOMAIN), none⟩

/-- A slot of a completion ring lies within a line. -/
theorem cqSlot_mod (d : Dev) (q i : Nat) : d.cqSlot q i % 64 = 0 ∨ d.cqSlot q i % 64 = 32 := by
  simp only [Dev.cqSlot]
  omega

/-- The byte of a record at an address. -/
theorem byteAt_recordReq (d : Dev) (r : Run) (q : Nat) (c : Cpl) (a : Nat) :
    let off := d.cqSlot q (d.qptr q F.CMD_Q_PTR_CQ_TAIL)
    (recordReq d r q c).byteAt a =
      if off ≤ a ∧ a < off + 32 then some ((recordBytes r.tag r.seq d.now c).getD (a - off) 0) else none := by
  intro off
  have hoff : off % 64 = 0 ∨ off % 64 = 32 := cqSlot_mod ..
  have ha : a % 64 < 64 := Nat.mod_lt _ (by decide)
  have hbyte : (recordReq d r q c).byteAt a = if off / 64 = a / 64 ∧ (maskOf (off % 64) 32).getLsbD (a % 64) = true then
    some (byteOf (lineOf (List.replicate (off % 64) 0 ++ recordBytes r.tag r.seq d.now c)) (a % 64)) else none := rfl
  rw [hbyte, getLsbD_maskOf ha]
  by_cases hin : off ≤ a ∧ a < off + 32
  · have hline : off / 64 = a / 64 := by omega
    have hlo : off % 64 ≤ a % 64 := by omega
    have hlen : a % 64 - off % 64 < 32 := by omega
    have hsub : a % 64 - off % 64 = a - off := by omega
    rw [if_pos ⟨hline, by simp [hlo, hlen]⟩, if_pos hin, byteOf_piece _ ha hlo, hsub]
  · rw [if_neg hin, if_neg]
    simp only [Bool.and_eq_true, decide_eq_true_eq]
    omega

section
variable {s : State} {r : Run} {c : Cpl} {q : Fin 512}

/-- The command of an issuer that is the only one with its number. -/
theorem only_of_runOf {d : Dev} {i : Iss} (h : d.runOf i = some r) (hseq : ∀ x ∈ d.cmd.runs, x.seq = r.seq → x = r) : d.only r :=
  ⟨List.mem_of_find?_eq_some h, hseq⟩

/-- A command that is asked to write its record. -/
def Run.asks (x : Run) (key : Nat) : Run := { x with asked := x.asked ++ [key] }

/-- The slices have been handed the write of the record. -/
def recordWritten (r : Run) (q : Nat) (c : Cpl) (w : Work) : Work :=
  M.post (submit [recordReq w.dev r q c]) (M.post (modRun r.seq (·.asks cqKey)) w)

theorem submit_logged (l : List HReq) : Emits (fun _ => True) (submit l) :=
  ((Emits.look _).bind fun _ => Emits.emit trivial).bind fun _ => (serveAll_upholds (x := {}) (seq := 0) (b := 0)).logged

theorem recordWritten_logged {d : Dev} {w : Work} (h : d.replay w.log = w.dev) : d.replay (recordWritten r q c w).log = (recordWritten r q c w).dev :=
  (submit_logged _).replay_log (Emits.replay_log (p := fun _ => True) ((Emits.look _).bind fun _ => Emits.emit trivial) h)

/-- A command that has asked for the write of its record and heard of it. -/
def Run.recorded (r : Run) (q : Nat) (c : Cpl) (d : Dev) : Run := (r.asks cqKey).landed (recordReq d r q c)

/-- The record of a command stands in the store at once where nothing stands before its line (R62, R191). -/
theorem recordWritten_lands {w : Work} (hfree : w.dev.lineFree (w.dev.cqSlot q (w.dev.qptr q F.CMD_Q_PTR_CQ_TAIL) / 64))
    (hdir : w.dev.dirOf (w.dev.cqSlot q (w.dev.qptr q F.CMD_Q_PTR_CQ_TAIL) / 64) = (0, 0))
    (hallowed : w.dev.refusal (64 * (w.dev.cqSlot q (w.dev.qptr q F.CMD_Q_PTR_CQ_TAIL) / 64)) (some (w.dev.qcfg q F.CMD_Q_CFG_DOMAIN)) none = none) :
    let e := (recordWritten r q c w).dev
    Touches [.store, .home, .fab, .cmd] touchRegs (fun _ => True) w.dev e ∧
    e.cmd = w.dev.cmd.mapRuns (fun x => if x.seq == r.seq then (x.asks cqKey).landed (recordReq w.dev r q c) else x) ∧
    ∀ a, e.byte a = ((recordReq w.dev r q c).byteAt a).getD (w.dev.byte a) := by
  intro e
  obtain ⟨w₁, hw₁⟩ : ∃ x, x = M.post (modRun r.seq (·.asks cqKey)) w := ⟨_, rfl⟩
  have hcmd : w₁.dev.cmd = w.dev.cmd.mapRuns fun x => if x.seq == r.seq then x.asks cqKey else x := by rw [hw₁]; rfl
  have hsteady : Steady w.dev w₁.dev := by
    rw [hw₁]
    refine Steady.of_runs fun y hy => ?_
    obtain ⟨x, hx, rfl⟩ := List.mem_map.mp hy
    refine ⟨x, hx, fun n hn => ?_⟩
    split at hn <;> exact hn
  have htouches : Touches [.store, .home, .fab, .cmd] touchRegs (fun _ => True) w.dev w₁.dev := by
    rw [hw₁]
    exact ⟨fun p hp => by cases p <;> simp_all [Part.same, modRun], fun _ _ => rfl, fun _ h => absurd trivial h⟩
  have hwaiting : w₁.dev.home = w.dev.home := by rw [hw₁]; rfl
  have hbytes : ∀ a, w₁.dev.byte a = w.dev.byte a := by rw [hw₁]; exact fun _ => rfl
  obtain ⟨hlands, -⟩ := submit_lands (seq := r.seq) (l := [recordReq w.dev r q c]) (w := w₁)
    (fun x hx => by
      rw [List.mem_singleton.mp hx]
      exact ⟨rfl, ⟨_, _, rfl⟩, (writable_of_lineFree hfree hallowed hdir).steady hsteady⟩)
    (by rw [hwaiting]; exact hfree.waiting) (calm_steady hfree.calm hsteady)
  have he : e = (M.post (submit [recordReq w.dev r q c]) w₁).dev := by rw [hw₁]; rfl
  rw [he]
  refine ⟨htouches.trans hlands.touches, ?_, fun a => ?_⟩
  · rw [hlands.told, hcmd]
    simp only [CmdSt.mapRuns, List.map_map]
    congr 2
    funext x
    by_cases hx : x.seq = r.seq <;> simp [hx, Run.asks]
  · rw [hlands.bytes, hbytes]
    simp

/-- The record is written, and its command is done with. -/
theorem post_writeRecord_lands {w : Work} (honly : w.dev.only r) (hstate : w.dev.qstate q ≠ Qs.disabled) (hfind : r.find cqKey = none)
    (hasked : r.asked.contains cqKey = false) (hfree : w.dev.lineFree (w.dev.cqSlot q (w.dev.qptr q F.CMD_Q_PTR_CQ_TAIL) / 64))
    (hdir : w.dev.dirOf (w.dev.cqSlot q (w.dev.qptr q F.CMD_Q_PTR_CQ_TAIL) / 64) = (0, 0))
    (hallowed : w.dev.refusal (64 * (w.dev.cqSlot q (w.dev.qptr q F.CMD_Q_PTR_CQ_TAIL) / 64)) (some (w.dev.qcfg q F.CMD_Q_CFG_DOMAIN)) none = none) :
    M.post (writeRecord r q c) w = M.post (finishQueued r q c) (recordWritten r q c w) := by
  obtain ⟨-, hcmd, -⟩ := recordWritten_lands (r := r) (c := c) hfree hdir hallowed
  obtain ⟨w₂, hw₂⟩ : ∃ x, x = recordWritten r q c w := ⟨_, rfl⟩
  rw [← hw₂] at hcmd ⊢
  have hgot : (r.recorded q c w.dev).find cqKey = some { key := cqKey, data := [0] } := by
    have hkey : isWriteKey cqKey = false := by decide
    have hnone : r.got.find? (·.key == cqKey) = none := hfind
    simp [Run.recorded, Run.landed, Run.give, recordReq, hkey, Run.find, Run.asks, List.find?_append, hnone]
  have hrun : (w₂.dev.cmd.runs.find? fun x => x.seq == r.seq) = some (r.recorded q c w.dev) := by
    have hmap := runSeq_mapRuns (fun x => by split <;> simp [Run.landed_seq, Run.asks]) hcmd r.seq
    rw [runSeq_of_only honly] at hmap
    simpa [Run.recorded, Dev.runSeq] using hmap
  unfold writeRecord
  rw [post_bind, val_dev, post_dev]
  dsimp only
  rw [if_neg hstate, if_pos ⟨by rw [hfind]; rfl, by simpa using hasked⟩, post_bind, post_bind]
  change M.post _ (recordWritten r q c w) = _
  rw [← hw₂, post_bind, val_dev, post_dev, hrun]
  simp [hgot]

/-- After a queue's command has left the device: its fan ends, and a COMMIT may be given again. -/
def endFan (r : Run) (c : Cpl) : M Unit := do
  modCmd fun x => { x with fans := x.fans.filter fun f => f.seq != r.seq }
  afterCommit r c

theorem endFan_emits (r : Run) (c : Cpl) : Emits (Foot [.cmd, .sys] (· = A.CMD_SEQ)) (endFan r c) :=
  (Emits.modCmd (by simp)).bind fun _ => afterCommit_emits r c

theorem endFan_changes (r : Run) (c : Cpl) (w : Work) : Changes [.cmd, .sys] (· = A.CMD_SEQ) w.dev (M.post (endFan r c) w).dev ∧
    (M.post (endFan r c) w).dev.cmd.runs = w.dev.cmd.runs :=
  ⟨(endFan_emits r c).changes_post (Changes.refl ..), (afterCommit_runs ..).trans rfl⟩

theorem post_completionWrite_queue {w w' : Work} (hrun : w.dev.runOf (.q q) = some r) (hcpl : w.dev.finalCpl r = some c) (houts : r.outs = 0)
    (hkept : r.kept = []) (hpost : M.post (writeRecord r q c) w = w') (hgone : w'.dev.runSeq r.seq = none) :
    M.post (completionWrite (.q q)) w = M.post (endFan r c) w' := by
  have hiss : r.iss = .q q := by simpa using List.find?_some hrun
  simp [completionWrite, hrun, hcpl, houts, hiss, hkept, post_underKept_nil, hpost, hgone, endFan]

theorem otherPtrs : ∀ f ∈ [F.CMD_Q_PTR_PROD, F.CMD_Q_PTR_CONS, F.CMD_Q_PTR_CQ_HEAD],
    f ∈ [F.CMD_Q_PTR_PROD, F.CMD_Q_PTR_CONS, F.CMD_Q_PTR_CQ_TAIL, F.CMD_Q_PTR_CQ_HEAD] ∧
    (f.lo + f.w ≤ F.CMD_Q_PTR_CQ_TAIL.lo ∨ F.CMD_Q_PTR_CQ_TAIL.lo + F.CMD_Q_PTR_CQ_TAIL.w ≤ f.lo) := by
  decide

theorem takesFld_doneCnt : ∀ q < 512, takesFld (A.CMD_Q_DONE_CNT q) ⟨0, 48⟩ := by decide +kernel

/-- A wide counter counts one more, and holds at its maximum (R12). -/
theorem counts48 {a : Nat} {w : Work} {d : Dev} (ha : takesFld a ⟨0, 48⟩) (h : w.dev.reg a = d.reg a) :
    (M.post (bump48 a 1) w).dev.fld a ⟨0, 48⟩ = min (d.fld a ⟨0, 48⟩ + 1) (2 ^ 48 - 1) := by
  have hold : w.dev.fld a ⟨0, 48⟩ = d.fld a ⟨0, 48⟩ := congrArg (Fld.of ⟨0, 48⟩) h
  have hset : M.post (bump48 a 1) w = M.post (fset a ⟨0, 48⟩ (min (w.dev.fld a ⟨0, 48⟩ + 1) (Fld.max ⟨0, 48⟩))) w := rfl
  have hmax : Fld.max ⟨0, 48⟩ = 2 ^ 48 - 1 := rfl
  rw [hset, fld_fset ha, hold, hmax]
  dsimp only
  omega

theorem reg_bump48_ne {a b : Nat} (h : b ≠ a) (n : Nat) (w : Work) : (M.post (bump48 a n) w).dev.reg b = w.dev.reg b := by simp [h]

/-- The queue counts the command, moves CQ_TAIL and lets the command go. -/
theorem finishQueued_finishes (w : Work) :
    let d := w.dev
    let e := (M.post (finishQueued r q c) w).dev
    e.qptr q F.CMD_Q_PTR_CQ_TAIL = (d.qptr q F.CMD_Q_PTR_CQ_TAIL + 1) % 65536 ∧
    (∀ f ∈ [F.CMD_Q_PTR_PROD, F.CMD_Q_PTR_CONS, F.CMD_Q_PTR_CQ_HEAD], e.qptr q f = d.qptr q f) ∧
    e.fld (A.CMD_Q_DONE_CNT q) ⟨0, 48⟩ = min (d.fld (A.CMD_Q_DONE_CNT q) ⟨0, 48⟩ + 1) (2 ^ 48 - 1) ∧
    e.cmd.runs = d.cmd.runs.filter (fun x => x.seq != r.seq) ∧ ∀ a, e.byte a = d.byte a := by
  intro d e
  obtain ⟨w₁, hw₁⟩ : ∃ x, x = M.post (setPtr q F.CMD_Q_PTR_CQ_TAIL (d.qptr q F.CMD_Q_PTR_CQ_TAIL + 1)) w := ⟨_, rfl⟩
  obtain ⟨w₂, hw₂⟩ : ∃ x, x = M.post (bump48 (A.CMD_Q_DONE_CNT q) 1) w₁ := ⟨_, rfl⟩
  have he : e = (M.post (dismiss r q (d.qptr q F.CMD_Q_PTR_CQ_TAIL) c) w₂).dev := by
    rw [hw₂, hw₁]
    rfl
  have hchanges : Changes [.cmd, .home, .sys, .evq, .trf] (dismissRegs q) w₂.dev e := by
    rw [he]
    exact (dismiss_emits r q _ c).changes_post (Changes.refl ..)
  have hkept : ∀ a, a = A.CMD_Q_PTR q ∨ a = A.CMD_Q_DONE_CNT q → ¬ dismissRegs q a := by
    rintro a ha (h | h | h | h)
    · have := recordRegs_range h
      simp only [A.CMD_Q_PTR, A.CMD_Q_DONE_CNT] at ha
      omega
    all_goals
      simp only [A.CMD_Q_PTR, A.CMD_Q_DONE_CNT, A.CMD_Q_STATE, A.CMD_SEQ] at ha h
      omega
  have hapart : A.CMD_Q_PTR q ≠ A.CMD_Q_DONE_CNT q := by simp only [A.CMD_Q_PTR, A.CMD_Q_DONE_CNT]; omega
  have hptr : ∀ f, e.qptr q f = w₁.dev.qptr q f := fun f =>
    (hchanges.fld (hkept _ (.inl rfl)) f).trans (by rw [hw₂]; exact congrArg f.of (reg_bump48_ne hapart 1 w₁))
  have hcmd : w₂.dev.cmd = w.dev.cmd := by rw [hw₂, hw₁]; simp [setPtr]
  refine ⟨?_, fun f hf => ?_, ?_, ?_, fun a => ?_⟩
  · rw [hptr, hw₁]
    exact qptr_setPtr q.isLt (by simp) _ w
  · rw [hptr, hw₁]
    exact qptr_setPtr_other q.isLt (otherPtrs f hf).1 (otherPtrs f hf).2 _ w
  · have hold : w₁.dev.reg (A.CMD_Q_DONE_CNT q) = d.reg (A.CMD_Q_DONE_CNT q) := by rw [hw₁]; exact reg_fset_ne hapart.symm _ w
    rw [hchanges.fld (hkept _ (.inr rfl)), hw₂]
    exact counts48 (takesFld_doneCnt q q.isLt) hold
  · rw [he, dismiss_runs, hcmd]
  · rw [hchanges.bytes a not_false, hw₂, hw₁]
    simp [setPtr, d]

theorem completionWrite_waits (hrun : s.dev.runOf (.q q) = some r) (hcpl : s.dev.finalCpl r = some c) (houts : r.outs ≠ 0) :
    Completes (.completionWrite (.q q)) s fun t => t = s := by
  have hpost : M.post (completionWrite (.q q)) ⟨s.dev, []⟩ = ⟨s.dev, []⟩ := by simp [completionWrite, hrun, hcpl, houts]
  exact completes_run rfl hpost (by rfl) rfl

theorem completionWrite_records (hcpl : s.dev.finalCpl r = some c) (hseq : ∀ x ∈ s.dev.cmd.runs, x.seq = r.seq → x = r)
    (hrun : s.dev.runOf (.q q) = some r) (hkept : r.kept = []) (houts : r.outs = 0) (hstate : s.dev.qstate q ≠ Qs.disabled)
    (hfind : r.find cqKey = none) (hasked : r.asked.contains cqKey = false)
    (hfree : s.dev.lineFree (s.dev.cqSlot q (s.dev.qptr q F.CMD_Q_PTR_CQ_TAIL) / 64))
    (hdir : s.dev.dirOf (s.dev.cqSlot q (s.dev.qptr q F.CMD_Q_PTR_CQ_TAIL) / 64) = (0, 0))
    (hallowed : s.dev.refusal (64 * (s.dev.cqSlot q (s.dev.qptr q F.CMD_Q_PTR_CQ_TAIL) / 64)) (some (s.dev.qcfg q F.CMD_Q_CFG_DOMAIN)) none = none) :
    let d := s.dev
    let rec_ := recordBytes r.tag r.seq d.now c
    let tail := d.qptr q F.CMD_Q_PTR_CQ_TAIL
    let off := d.cqSlot q tail
    Completes (.completionWrite (.q q)) s fun t =>
        (∀ i < 32, t.dev.byte (off + i) = rec_.getD i 0) ∧ (∀ a, (a < off ∨ off + 32 ≤ a) → t.dev.byte a = d.byte a) ∧
        t.dev.qptr q F.CMD_Q_PTR_CQ_TAIL = (tail + 1) % 65536 ∧
        (∀ f ∈ [F.CMD_Q_PTR_PROD, F.CMD_Q_PTR_CONS, F.CMD_Q_PTR_CQ_HEAD], t.dev.qptr q f = d.qptr q f) ∧
        t.dev.fld (A.CMD_Q_DONE_CNT q) ⟨0, 48⟩ = min (d.fld (A.CMD_Q_DONE_CNT q) ⟨0, 48⟩ + 1) (2 ^ 48 - 1) ∧
        t.dev.cmd.runs = d.cmd.runs.filter (fun x => x.seq != r.seq) := by
  intro d rec_ tail off
  have honly : s.dev.only r := only_of_runOf hrun hseq
  obtain ⟨w₂, hw₂⟩ : ∃ x, x = recordWritten r q c ⟨s.dev, []⟩ := ⟨_, rfl⟩
  obtain ⟨w₃, hw₃⟩ : ∃ x, x = M.post (finishQueued r q c) w₂ := ⟨_, rfl⟩
  have hrecord : M.post (writeRecord r q c) ⟨s.dev, []⟩ = w₃ := by
    rw [hw₃, hw₂]
    exact post_writeRecord_lands (w := ⟨s.dev, []⟩) honly hstate hfind hasked hfree hdir hallowed
  obtain ⟨htouches, hcmd, hbyte⟩ := recordWritten_lands (r := r) (c := c) (w := ⟨s.dev, []⟩) hfree hdir hallowed
  rw [← hw₂] at htouches hcmd hbyte
  obtain ⟨htail, hptrs, hcount, hruns, hbytes⟩ := finishQueued_finishes (r := r) (c := c) (q := q) w₂
  rw [← hw₃] at htail hptrs hcount hruns hbytes
  obtain ⟨hchanges, hfan⟩ := endFan_changes r c w₃
  have hregs : ∀ a < 0xa0000, w₂.dev.reg a = d.reg a := fun a ha => htouches.regs a fun h => by
    have := touchRegs_range h
    omega
  have hseqReg : ∀ a, a < 0x58000 → (M.post (endFan r c) w₃).dev.reg a = w₃.dev.reg a := fun a ha => hchanges.regs a fun h => by
    simp only [A.CMD_SEQ] at h
    omega
  have hgone : w₃.dev.runSeq r.seq = none := by simp [Dev.runSeq, hruns]
  have hqptr : ∀ f, w₂.dev.qptr q f = d.qptr q f := fun f => congrArg f.of (hregs _ (by simp only [A.CMD_Q_PTR]; omega))
  have hend : ∀ f, (M.post (endFan r c) w₃).dev.qptr q f = w₃.dev.qptr q f := fun f => congrArg f.of (hseqReg _ (by simp only [A.CMD_Q_PTR]; omega))
  have hbyteEnd : ∀ a, (M.post (endFan r c) w₃).dev.byte a = ((recordReq d r q c).byteAt a).getD (d.byte a) := fun a => by
    rw [hchanges.bytes a not_false, hbytes, hbyte]
  have hlog : s.dev.replay (M.post (endFan r c) w₃).log = (M.post (endFan r c) w₃).dev := by
    rw [hw₃, hw₂]
    exact (endFan_emits r c).replay_log ((finishQueued_logged r q c).replay_log (recordWritten_logged (w := ⟨s.dev, []⟩) rfl))
  refine completes_run (m := completionWrite (.q q)) rfl
    (post_completionWrite_queue hrun hcpl houts hkept hrecord hgone) hlog ⟨fun i hi => ?_, fun a ha => ?_, ?_, fun f hf => ?_, ?_, ?_⟩
  · have hin : off ≤ off + i ∧ off + i < off + 32 := by omega
    rw [hbyteEnd, byteAt_recordReq, if_pos hin, Nat.add_sub_cancel_left]
    rfl
  · have hout : ¬ (off ≤ a ∧ a < off + 32) := by omega
    rw [hbyteEnd, byteAt_recordReq, if_neg hout]
    rfl
  · rw [hend, htail, hqptr]
  · rw [hend, hptrs f hf, hqptr]
  · have hcnt : (M.post (endFan r c) w₃).dev.fld (A.CMD_Q_DONE_CNT q) ⟨0, 48⟩ = w₃.dev.fld (A.CMD_Q_DONE_CNT q) ⟨0, 48⟩ :=
      congrArg (Fld.of ⟨0, 48⟩) (hseqReg _ (by simp only [A.CMD_Q_DONE_CNT]; omega))
    have hold : w₂.dev.fld (A.CMD_Q_DONE_CNT q) ⟨0, 48⟩ = d.fld (A.CMD_Q_DONE_CNT q) ⟨0, 48⟩ :=
      congrArg (Fld.of ⟨0, 48⟩) (hregs _ (by simp only [A.CMD_Q_DONE_CNT]; omega))
    rw [hcnt, hcount, hold]
  · rw [hfan, hruns, hcmd]
    exact filter_others fun x => by simp [Run.landed_seq, Run.asks]

/-- The record of the mailbox's command stands in its registers. -/
theorem answerMbox_emits (r : Run) (c : Cpl) : Emits (Foot [.cmd, .home, .sys] fun _ => True) (answerMbox r c) :=
  Emits.dev.bind fun _ => ((Emits.dropRun r.seq).mono fun _ hu => hu.mono (by simp) fun _ _ => trivial).bind fun _ =>
    (Emits.each fun _ _ => Emits.wr trivial).bind fun _ => (Emits.fset trivial).bind fun _ => Emits.fset trivial

theorem takesFld_mbox : takesFld A.BOOT_MBOX_STATUS F.BOOT_MBOX_STATUS_BUSY ∧ takesFld A.BOOT_MBOX_STATUS F.BOOT_MBOX_STATUS_DONE ∧
    ∀ w < 4, assigned (A.BOOT_MBOX_CPL w) = true ∧ readMask (A.BOOT_MBOX_CPL w) = BitVec.allOnes 64 := by decide +kernel

theorem answerMbox_answers (w : Work) :
    let b := recordBytes r.tag r.seq w.dev.now c
    let e := (M.post (answerMbox r c) w).dev
    (∀ k < 4, e.reg (A.BOOT_MBOX_CPL k) = BitVec.ofNat 64 (leAt b (8 * k) 8)) ∧ e.fld A.BOOT_MBOX_STATUS F.BOOT_MBOX_STATUS_BUSY = 0 ∧
    e.fld A.BOOT_MBOX_STATUS F.BOOT_MBOX_STATUS_DONE = 1 ∧ e.cmd.runs = w.dev.cmd.runs.filter (fun x => x.seq != r.seq) := by
  obtain ⟨hbusy, hdone, hcpl⟩ := takesFld_mbox
  intro b e
  let put (k : Nat) : M Unit := wr (A.BOOT_MBOX_CPL k) (BitVec.ofNat 64 (leAt b (8 * k) 8))
  obtain ⟨w₁, hw₁⟩ : ∃ x, x = M.post (each (List.range 4) put) (M.post (dropRun r.seq) w) := ⟨_, rfl⟩
  obtain ⟨w₂, hw₂⟩ : ∃ x, x = M.post (fset A.BOOT_MBOX_STATUS F.BOOT_MBOX_STATUS_BUSY 0) w₁ := ⟨_, rfl⟩
  have he : e = (M.post (fset A.BOOT_MBOX_STATUS F.BOOT_MBOX_STATUS_DONE 1) w₂).dev := by
    rw [hw₂, hw₁]
    rfl
  refine ⟨fun k hk => ?_, ?_, ?_, ?_⟩
  · have hne : A.BOOT_MBOX_CPL k ≠ A.BOOT_MBOX_STATUS := by simp only [A.BOOT_MBOX_CPL, A.BOOT_MBOX_STATUS]; omega
    rw [he, reg_fset_ne hne, hw₂, reg_fset_ne hne, hw₁]
    have hall : ∀ j < 4, assigned (A.BOOT_MBOX_CPL j) = true ∧ readMask (A.BOOT_MBOX_CPL j) = BitVec.allOnes 64 := hcpl
    simp only [A.BOOT_MBOX_CPL] at hall
    have hrange : List.range 4 = [0, 1, 2, 3] := rfl
    rw [hrange]
    interval_cases k <;> simp [put, A.BOOT_MBOX_CPL, hall 0, hall 1, hall 2, hall 3, -BitVec.reduceAllOnes]
  · rw [he, fld_fset_other hbusy (by decide), hw₂, fld_fset hbusy]
    rfl
  · rw [he, fld_fset hdone]
    rfl
  · rw [he, hw₂, hw₁]
    simp [put, List.range, List.range.loop, post_dropRun_cmd]

theorem completionWrite_answers_mbox (hcpl : s.dev.finalCpl r = some c) (hrun : s.dev.runOf .mbox = some r) (hiss : r.iss = .mbox)
    (houts : r.outs = 0) :
    Completes (.completionWrite .mbox) s fun t =>
      (∀ w < 4, t.dev.reg (A.BOOT_MBOX_CPL w) = BitVec.ofNat 64 (leAt (recordBytes r.tag r.seq s.dev.now c) (8 * w) 8)) ∧
      t.dev.fld A.BOOT_MBOX_STATUS F.BOOT_MBOX_STATUS_BUSY = 0 ∧ t.dev.fld A.BOOT_MBOX_STATUS F.BOOT_MBOX_STATUS_DONE = 1 ∧
      t.dev.cmd.runs = s.dev.cmd.runs.filter (fun x => x.seq != r.seq) ∧ ∀ a, t.dev.byte a = s.dev.byte a := by
  have hpost : M.post (completionWrite .mbox) ⟨s.dev, []⟩ = M.post (answerMbox r c) ⟨s.dev, []⟩ := by
    simp [completionWrite, hrun, hcpl, houts, hiss]
  obtain ⟨hwords, hbusy, hdone, hruns⟩ := answerMbox_answers (r := r) (c := c) ⟨s.dev, []⟩
  exact completes_run (m := completionWrite .mbox) rfl hpost ((answerMbox_emits r c).replay_log rfl)
    ⟨hwords, hbusy, hdone, hruns, fun a => ((answerMbox_emits r c).changes_post (Changes.refl _ _ s.dev)).bytes a not_false⟩

end

/-- Settles O42: the record is a write that its slice orders at once, after which the command is dismissed. -/
theorem completionRecords : Obligations.CompletionRecords := by
  intro s r c d rec_ hcpl hseq
  exact ⟨fun q hrun hkept => ⟨fun houts => completionWrite_waits hrun hcpl houts,
      fun houts hstate hfind hasked hfree hdir hallowed =>
        completionWrite_records hcpl hseq hrun hkept houts hstate hfind hasked hfree hdir hallowed⟩,
    fun hrun hiss houts => completionWrite_answers_mbox hcpl hrun hiss houts⟩

end Sys2Proof.Machine
end

section
/-! PROOFS. What the work of a command may leave in its trail: counters of engines, and refusals of the command's own domain. -/

namespace Sys2Proof.Machine

/-! ## Work that keeps a property of its trail -/

/-- Work that keeps a property of the trail, however it ends. -/
structure RdKeeps {α : Type} (p : Trail → Prop) (m : Rd α) : Prop where
  keeps : ∀ t, p t → p (m.run.run t).2

section
variable {α β : Type} {p : Trail → Prop}

theorem RdKeeps.pure (a : α) : RdKeeps p (Pure.pure a) := ⟨fun _ h => h⟩
theorem RdKeeps.throw (s : Stop) : RdKeeps p (throw s : Rd α) := ⟨fun _ h => h⟩
theorem RdKeeps.stop (s : Stop) : RdKeeps p (Machine.stop s : Rd α) := ⟨fun _ h => h⟩
theorem RdKeeps.failRd (status detail result : Nat) : RdKeeps p (Machine.failRd status detail result : Rd α) := ⟨fun _ h => h⟩
theorem RdKeeps.get : RdKeeps p (get : Rd Trail) := ⟨fun _ h => h⟩
theorem RdKeeps.modTrail {f : Trail → Trail} (h : ∀ t, p t → p (f t)) : RdKeeps p (Machine.modTrail f) := ⟨h⟩

theorem run_bind_ok {m : Rd α} {t u : Trail} {a : α} (h : m.run.run t = (.ok a, u)) (f : α → Rd β) : (m >>= f).run.run t = (f a).run.run u := by
  rw [ExceptT.run_bind, StateT.run_bind, h]
  rfl

theorem run_bind_error {m : Rd α} {t u : Trail} {s : Stop} (h : m.run.run t = (.error s, u)) (f : α → Rd β) :
    (m >>= f).run.run t = (.error s, u) := by
  rw [ExceptT.run_bind, StateT.run_bind, h]
  rfl

theorem RdKeeps.bind {m : Rd α} {f : α → Rd β} (hm : RdKeeps p m) (hf : ∀ a, RdKeeps p (f a)) : RdKeeps p (m >>= f) where
  keeps t ht := by
    have hfirst := hm.keeps t ht
    rcases hres : m.run.run t with ⟨a | s, u⟩
    · rw [run_bind_error hres]
      rwa [hres] at hfirst
    · rw [run_bind_ok hres]
      rw [hres] at hfirst
      exact (hf _).keeps u hfirst

theorem RdKeeps.ite {c : Prop} [Decidable c] {m n : Rd α} (hm : RdKeeps p m) (hn : RdKeeps p n) : RdKeeps p (if c then m else n) := by
  split <;> assumption

/-- Two ways to a value, and what goes on with it. -/
theorem RdKeeps.iteBind {c : Prop} [Decidable c] {m n : Rd α} {k : α → Rd β} (hm : RdKeeps p m) (hn : RdKeeps p n) (hk : ∀ a, RdKeeps p (k a)) :
    RdKeeps p (if c then m >>= k else n >>= k) :=
  .ite (hm.bind hk) (hn.bind hk)

/-- A step that is made in one case only. -/
theorem RdKeeps.iteThen {c : Prop} [Decidable c] {m : Rd PUnit} {k : Rd β} (hm : RdKeeps p m) (hk : RdKeeps p k) :
    RdKeeps p (if c then m >>= fun _ => k else k) :=
  .ite (hm.bind fun _ => hk) hk

theorem RdKeeps.attempt {m : Rd α} (hm : RdKeeps p m) : RdKeeps p (Machine.attempt m) := ⟨fun t ht => hm.keeps t ht⟩

theorem RdKeeps.mapM {l : List α} {f : α → Rd β} (hf : ∀ a ∈ l, RdKeeps p (f a)) : RdKeeps p (l.mapM f) := by
  induction l with
  | nil => exact RdKeeps.pure _
  | cons a l ih =>
    rw [List.mapM_cons]
    exact (hf a (by simp)).bind fun _ => (ih fun b hb => hf b (by simp [hb])).bind fun _ => RdKeeps.pure _

theorem RdKeeps.forM {l : List α} {f : α → Rd PUnit} (hf : ∀ a ∈ l, RdKeeps p (f a)) : RdKeeps p (l.forM f) := by
  induction l with
  | nil => exact RdKeeps.pure _
  | cons a l ih => exact (hf a (by simp)).bind fun _ => ih fun b hb => hf b (by simp [hb])

theorem RdKeeps.foldlM {l : List α} {f : β → α → Rd β} (hf : ∀ b a, RdKeeps p (f b a)) (b : β) : RdKeeps p (l.foldlM f b) := by
  induction l generalizing b with
  | nil => exact RdKeeps.pure _
  | cons a l ih => exact (hf b a).bind fun c => ih c

theorem RdKeeps.filterM {l : List α} {f : α → Rd Bool} (hf : ∀ a, RdKeeps p (f a)) : RdKeeps p (l.filterM f) := by
  have haux : ∀ acc, RdKeeps p (l.filterAuxM f acc) := by
    induction l with
    | nil => exact fun _ => RdKeeps.pure _
    | cons a l ih => exact fun _ => (hf a).bind fun _ => ih _
  exact (haux []).bind fun _ => RdKeeps.pure _

end

/-! ## Counters and refusals -/

/-- A trail counts in registers of the engines only, and the refusals that it holds are of one domain. -/
def Trail.tame (dom : Nat) (t : Trail) : Prop := (∀ c ∈ t.cnts, 0x100000 ≤ c.1) ∧ ∀ x ∈ t.refused, x = dom

/-- Work that counts in registers of the engines only and is refused as its command's domain. -/
abbrev Tame {α : Type} (r : Run) (m : Rd α) : Prop := RdKeeps (Trail.tame r.dom) m

section
variable {d : Dev} {r : Run}

theorem drawRd_tame (n : Nat) : Tame r (drawRd d n) := ⟨fun _ h => h⟩

theorem countRd_tame {a : Nat} (ha : 0x100000 ≤ a) (w n : Nat) : Tame r (countRd a w n) := RdKeeps.modTrail fun t h =>
  ⟨fun c hc => by
    obtain rfl | hc := List.mem_cons.mp hc
    · exact ha
    · exact h.1 c hc, h.2⟩

/-- A change of the trail that neither counts nor is refused. -/
theorem modTrail_tame {f : Trail → Trail} (h : ∀ t, (f t).cnts = t.cnts ∧ (f t).refused = t.refused := by exact fun _ => ⟨rfl, rfl⟩) :
    Tame r (modTrail f) := RdKeeps.modTrail fun t ht => by
  obtain ⟨hcnts, hrefused⟩ := h t
  exact ⟨fun c hc => ht.1 c (hcnts ▸ hc), fun x hx => ht.2 x (hrefused ▸ hx)⟩

/-- Work that notes in its trail what neither counts nor is refused, and goes on. -/
theorem noted_tame {α : Type} {f : Trail → Trail} {g : Unit → Rd α} (hg : ∀ a, Tame r (g a))
    (h : ∀ t, (f t).cnts = t.cnts ∧ (f t).refused = t.refused := by exact fun _ => ⟨rfl, rfl⟩) : Tame r (modTrail f >>= g) :=
  (modTrail_tame h).bind hg

theorem refusedRd_tame (status : Nat) : Tame r (refusedRd r.dom status) := by
  refine RdKeeps.ite (RdKeeps.modTrail fun t ht => ⟨ht.1, fun x hx => ?_⟩) (RdKeeps.pure _)
  obtain rfl | hx := List.mem_cons.mp hx
  · rfl
  · exact ht.2 x hx

theorem tr_tame (va : Nat) (right : Right) : Tame r (tr d r va right) := by
  unfold tr
  split
  · exact RdKeeps.ite (noted_tame fun _ => RdKeeps.throw _) (RdKeeps.throw _)
  · exact RdKeeps.throw _
  · exact noted_tame fun _ => RdKeeps.pure _

theorem streamStep_tame {α β : Type} {va : α → Nat} {f : α → Rd β} (hf : ∀ a, Tame r (f a)) (acc : List β × List (Nat × Nat × Stop)) (x : α × Nat) :
    Tame r (streamStep d r va f acc x) := by
  unfold streamStep
  dsimp only
  split
  · exact RdKeeps.ite (noted_tame fun _ => RdKeeps.pure _) (RdKeeps.pure _)
  · have hpiece : Tame r (do
        match ← attempt (f x.1) with
        | .ok v => return (v :: acc.1, acc.2)
        | .error (.fail c) => if acc.2.isEmpty then throw (.fail c) else return (acc.1, acc.2 ++ [(x.2 % max 1 (d.streamsOf r), x.2, .fail c)])
        | .error e => return (acc.1, acc.2 ++ [(x.2 % max 1 (d.streamsOf r), x.2, e)]) : Rd (List β × List (Nat × Nat × Stop))) := by
      refine (RdKeeps.attempt (hf x.1)).bind fun res => ?_
      split
      · exact RdKeeps.pure _
      · exact RdKeeps.ite (RdKeeps.throw _) (RdKeeps.pure _)
      · exact RdKeeps.pure _
    exact RdKeeps.ite (noted_tame fun _ => hpiece) hpiece

theorem streams_tame {α β : Type} {va : α → Nat} {f : α → Rd β} (hf : ∀ a, Tame r (f a)) (l : List α) : Tame r (streams d r va f l) := by
  refine (RdKeeps.foldlM (fun acc x => streamStep_tame hf acc x) _).bind fun acc => ?_
  split
  · exact RdKeeps.pure _
  · exact noted_tame fun _ => RdKeeps.throw _

/-! ## Reads -/

theorem readLocal_tame (va off cls : Nat) : Tame r (readLocal d r va off cls) := by
  unfold readLocal
  split
  · exact (refusedRd_tame _).bind fun _ => RdKeeps.failRd ..
  · exact RdKeeps.ite (RdKeeps.stop _) (RdKeeps.ite (RdKeeps.stop _) (RdKeeps.ite (RdKeeps.stop _) (noted_tame fun _ => RdKeeps.pure _)))

theorem findGot_tame (key : Nat) : Tame r (findGot r key) := by
  unfold findGot
  split
  · exact RdKeeps.pure _
  · exact RdKeeps.get.bind fun _ => RdKeeps.pure _

theorem pin_tame (g : Got) : Tame r (pin g) := modTrail_tame

theorem remoteRead_tame (pass va node win off cls n epoch : Nat) : Tame r (remoteRead r pass va node win off cls n epoch) := by
  unfold remoteRead
  dsimp only
  split
  · exact RdKeeps.stop _
  · exact RdKeeps.ite (RdKeeps.failRd ..) (RdKeeps.pure _)

theorem homeLines_tame (pass va n : Nat) (t : Tgt) (keep : Bool) : Tame r (homeLines d r pass va n t keep) := by
  unfold homeLines
  split
  · exact RdKeeps.mapM fun _ _ => readLocal_tame ..
  · dsimp only
    split
    · exact RdKeeps.ite ((remoteRead_tame ..).bind fun _ => noted_tame fun _ => RdKeeps.pure _)
        ((remoteRead_tame ..).bind fun _ => noted_tame fun _ => RdKeeps.pure _)
    · exact (remoteRead_tame ..).bind fun _ => RdKeeps.pure _

theorem readLines_tame (va n pass : Nat) (fresh : Bool) : Tame r (readLines d r va n pass fresh) := by
  refine (tr_tame ..).bind fun t => ?_
  dsimp only
  refine RdKeeps.ite (homeLines_tame ..) (RdKeeps.mapM fun i _ => ?_)
  split
  · exact RdKeeps.pure _
  · exact (homeLines_tame ..).bind fun _ => RdKeeps.pure _

theorem consume_tame (l : List Rline) : Tame r (consume l) := by
  unfold consume
  split
  · exact RdKeeps.failRd ..
  · exact RdKeeps.pure _

theorem readBytes_tame (va len pass : Nat) (fresh : Bool) : Tame r (readBytes d r va len pass fresh) :=
  (streams_tame (fun _ => (readLines_tame ..).bind fun _ => (consume_tame _).bind fun _ => RdKeeps.pure _) _).bind fun _ => RdKeeps.pure _

theorem readNat_tame (va w pass : Nat) (fresh : Bool) : Tame r (readNat d r va w pass fresh) :=
  (readBytes_tame ..).bind fun _ => RdKeeps.pure _

/-! ## Writes -/

theorem putWr_tame (w : Wr) : Tame r (putWr d r w) := by
  unfold putWr
  split
  · split
    · exact (refusedRd_tame _).bind fun _ => RdKeeps.failRd ..
    · exact modTrail_tame
  · exact modTrail_tame

theorem writePiece_tame (va : Nat) (l : List Byte) (pcause : Nat → Nat) : Tame r (writePiece d r va l pcause) :=
  (tr_tame ..).bind fun _ => RdKeeps.forM fun _ _ => putWr_tame _

theorem writeBytes_tame (va : Nat) (l : List Byte) : Tame r (writeBytes d r va l) := RdKeeps.forM fun _ _ => writePiece_tame ..

/-! ## COPY, FILL and BITWISE -/

theorem copyWork_tame : Tame r (copyWork d r) := by
  have hpiece : ∀ src dst lo len, Tame r (copyPiece d r src dst lo len) := fun src dst lo len =>
    ((RdKeeps.mapM fun _ _ => (readLines_tame ..).bind fun _ => RdKeeps.pure _).bind fun _ => RdKeeps.pure _).bind fun _ =>
      (writePiece_tame ..).bind fun _ => RdKeeps.pure _
  unfold copyWork
  dsimp only
  refine RdKeeps.ite (RdKeeps.failRd ..) (RdKeeps.ite (RdKeeps.failRd ..) (RdKeeps.bind ?_ fun _ => RdKeeps.pure _))
  exact (streams_tame (fun _ => (hpiece ..).bind fun _ => RdKeeps.ite (noted_tame fun _ => RdKeeps.pure _) (RdKeeps.pure _)) _).bind
    fun _ => RdKeeps.pure _

theorem fillWork_tame : Tame r (fillWork d r) := by
  unfold fillWork
  dsimp only
  exact RdKeeps.ite (RdKeeps.failRd ..)
    ((streams_tame (fun _ => (writePiece_tame ..).bind fun _ => modTrail_tame) _).bind fun _ => RdKeeps.pure _)

theorem bitSource_tame (va len : Nat) : Tame r (bitSource d r va len) := by
  refine (readBytes_tame ..).bind fun _ => ?_
  dsimp only
  split
  · exact (drawRd_tame _).bind fun _ => (countRd_tame (by simp only [A.TSR_BIT_CNT]; omega) ..).bind fun _ => RdKeeps.pure _
  · exact RdKeeps.pure _

theorem bitwiseWork_tame : Tame r (bitwiseWork d r) := by
  unfold bitwiseWork
  dsimp only
  refine RdKeeps.ite (RdKeeps.failRd ..) (RdKeeps.ite ?_ (RdKeeps.ite ?_ ?_))
  · exact (RdKeeps.mapM fun _ _ => (bitSource_tame ..).bind fun _ => (readBytes_tame ..).bind fun _ => (writeBytes_tame ..).bind fun _ =>
      RdKeeps.pure _).bind fun _ => RdKeeps.pure _
  · exact (RdKeeps.mapM fun _ _ => (bitSource_tame ..).bind fun _ => RdKeeps.pure _).bind fun _ => RdKeeps.pure _
  · exact (RdKeeps.mapM fun _ _ => (bitSource_tame ..).bind fun _ => RdKeeps.pure _).bind fun _ => (writeBytes_tame ..).bind fun _ => RdKeeps.pure _

/-! ## MATMUL -/

theorem lrProbe_tame (va len : Nat) : Tame r (lrProbe d r va len) :=
  RdKeeps.mapM fun _ _ => (tr_tame ..).bind fun _ => RdKeeps.pure _

theorem lrHeader_tame (p : Mm) : Tame r (lrHeader d r p) := (readLines_tame ..).bind fun _ => RdKeeps.pure _

theorem lrRangeRatio_tame (p : Mm) : Tame r (lrRangeRatio d r p) := (lrHeader_tame p).bind fun _ => RdKeeps.pure _

theorem lrSealed_tame (l : List (Nat × Nat)) : Tame r (lrSealed d r l) := by
  unfold lrSealed
  split
  · dsimp only
    split
    · exact (countRd_tame (by simp only [A.XPD_SEALED_CNT]; omega) ..).bind fun _ => RdKeeps.failRd ..
    · exact RdKeeps.failRd ..
  · exact RdKeeps.pure _

theorem lrCheck_tame (p : Mm) : Tame r (lrCheck d r p) :=
  (lrProbe_tame ..).bind fun _ => (lrProbe_tame ..).bind fun _ => (lrProbe_tame ..).bind fun _ => (lrSealed_tame _).bind fun _ =>
    (lrRangeRatio_tame p).bind fun _ => (lrProbe_tame ..).bind fun _ => (lrSealed_tame _).bind fun _ => (lrHeader_tame p).bind fun _ =>
      RdKeeps.ite (RdKeeps.failRd ..) (RdKeeps.ite (RdKeeps.failRd ..) (RdKeeps.ite (RdKeeps.failRd ..) (RdKeeps.pure _)))

theorem readLr_tame (p : Mm) (ratio t n0 cnt : Nat) : Tame r (readLr d r p ratio t n0 cnt) := by
  refine (readBytes_tame ..).bind fun _ => (readBytes_tame ..).bind fun _ => ?_
  dsimp only
  split
  · exact (drawRd_tame _).bind fun _ => (countRd_tame (by simp only [A.XPD_STRIP_CNT]; omega) ..).bind fun _ =>
      (countRd_tame (by simp only [A.XPD_SAT_CNT]; omega) ..).bind fun _ =>
        (countRd_tame (by simp only [A.XPD_NAN_CNT]; omega) ..).bind fun _ => RdKeeps.pure _
  · exact RdKeeps.pure _

/-- A check of each of some columns, with its failure. -/
theorem eachFails_tame {α : Type} {f : α → Option Nat} {g : α → Nat → Rd Unit} (hg : ∀ a j, Tame r (g a j)) (l : List α) :
    Tame r (l.forM fun a => match f a with | some j => g a j | none => pure ()) :=
  RdKeeps.forM fun a _ => by
    split
    · exact hg ..
    · exact RdKeeps.pure _

theorem readW_tame (p : Mm) (t n0 cnt : Nat) : Tame r (readW d r p t n0 cnt) := by
  refine (readBytes_tame ..).bind fun _ => ?_
  refine RdKeeps.iteBind (RdKeeps.pure _) (readBytes_tame ..) fun _ => ?_
  refine RdKeeps.iteBind (readBytes_tame ..) (RdKeeps.pure _) fun _ => ?_
  refine RdKeeps.iteThen (eachFails_tame (fun _ _ => RdKeeps.failRd ..) _) ?_
  exact RdKeeps.iteThen (eachFails_tame (fun _ _ => RdKeeps.failRd ..) _) (RdKeeps.pure _)

theorem readCols_tame (p : Mm) (ratio kt n0 cnt : Nat) : Tame r (readCols d r p ratio kt n0 cnt) :=
  (RdKeeps.mapM fun _ _ => RdKeeps.ite (readLr_tame ..) (readW_tame ..)).bind fun _ => RdKeeps.pure _

theorem readA_tame (p : Mm) (m kb : Nat) : Tame r (readA d r p m kb) := by
  refine (readBytes_tame ..).bind fun _ => ?_
  dsimp only
  exact RdKeeps.ite ((readNat_tame ..).bind fun _ => RdKeeps.pure _) (RdKeeps.pure _)

theorem rowBlock_tame (p : Mm) (w : WTile) (kt j : Nat) (x : MmRow × Nat) : Tame r (rowBlock d r p w kt j x) :=
  RdKeeps.ite (RdKeeps.pure _) ((readA_tame ..).bind fun _ => RdKeeps.pure _)

theorem startRow_tame (p : Mm) (n0 cnt m : Nat) : Tame r (startRow d r p n0 cnt m) := by
  refine RdKeeps.iteBind (readNat_tame ..) (RdKeeps.pure _) fun _ => ?_
  exact RdKeeps.ite ((readBytes_tame ..).bind fun _ => RdKeeps.pure _) (RdKeeps.pure _)

theorem runUnit_tame (p : Mm) (ratio n0 cnt : Nat) (rows : List Nat) : Tame r (runUnit d r p ratio n0 cnt rows) := by
  refine (RdKeeps.mapM fun _ _ => startRow_tame ..).bind fun _ => RdKeeps.bind (RdKeeps.foldlM (fun _ _ => ?_) _) fun _ => ?_
  · exact (readCols_tame ..).bind fun _ => (RdKeeps.mapM fun _ _ => (rowBlock_tame ..).bind fun _ => rowBlock_tame ..).bind fun _ =>
      RdKeeps.pure _
  · dsimp only
    split
    · refine (drawRd_tame _).bind fun _ => RdKeeps.bind (countRd_tame ?_ ..) fun _ => (drawRd_tame _).bind fun _ =>
        (countRd_tame (by simp only [A.MTX_WLOAD_CNT]; omega) ..).bind fun _ => (drawRd_tame _).bind fun _ =>
        RdKeeps.bind (RdKeeps.ite (countRd_tame (by simp only [A.XPD_STALL_CNT]; omega) ..) (RdKeeps.pure _)) fun _ =>
        (countRd_tame (by simp only [A.MTX_SKIP_CNT]; omega) ..).bind fun _ => (countRd_tame (by simp only [A.MTX_SAT_CNT]; omega) ..).bind fun _ =>
        (countRd_tame (by simp only [A.MTX_NAN_CNT]; omega) ..).bind fun _ => RdKeeps.pure _
      simp only [A.MTX_BF_CNT, A.MTX_ACTIVE_CNT]
      split <;> omega
    · exact RdKeeps.pure _

theorem writeUnit_tame (p : Mm) (n0 : Nat) (u : UnitOut) : Tame r (writeUnit d r p n0 u) := RdKeeps.forM fun _ _ => writeBytes_tame ..

theorem matmulWork_tame : Tame r (matmulWork d r) := by
  refine RdKeeps.iteBind (lrCheck_tame _) (RdKeeps.pure _) fun _ => ?_
  refine RdKeeps.bind (RdKeeps.mapM fun _ _ => (runUnit_tame ..).bind fun _ => (writeUnit_tame ..).bind fun _ => RdKeeps.pure _) fun _ => ?_
  exact RdKeeps.iteThen (RdKeeps.forM fun _ _ => writeBytes_tame ..) ((drawRd_tame _).bind fun _ => RdKeeps.pure _)

/-! ## GATHER_POOL -/

theorem rowKey_tame (va : Nat) : Tame r (rowKey d r va) := (tr_tame ..).bind fun _ => RdKeeps.pure _

theorem segsRead_tame (n : Nat) : Tame r (segsRead d r n) :=
  RdKeeps.ite (RdKeeps.pure _) (countRd_tame (by simp only [A.CRD_ROW_FETCH_CNT]; omega) ..)

theorem refetched_tame (n : Nat) : Tame r (refetched d r n) :=
  RdKeeps.ite (RdKeeps.pure _) (countRd_tame (by simp only [A.CRD_REFETCH_CNT]; omega) ..)

theorem fanOut_tame : Tame r (fanOut d r) := countRd_tame (by simp only [A.CRD_COAL_HIT_CNT]; omega) ..

theorem openCw_tame : Tame r (openCw d r) := countRd_tame (by simp only [A.CRD_WINDOW_CNT]; omega) ..

theorem Cw.add_tame (w : Cw) (k : Nat) (l : List Byte) (tick : Nat) (copied : Bool) : Tame r (w.add d r k l tick copied) :=
  RdKeeps.ite (RdKeeps.pure _) (openCw_tame.bind fun _ => RdKeeps.pure _)

theorem readDescLine_tame (va : Nat) : Tame r (readDescLine d r va) := (readBytes_tame ..).bind fun _ => RdKeeps.pure _

theorem badDesc_tame {α : Type} (va : Nat) : Tame r (badDesc va : Rd α) := RdKeeps.failRd ..

theorem readTable_tame (va : Nat) : Tame r (readTable d r va) :=
  (readDescLine_tame _).bind fun _ => RdKeeps.ite (RdKeeps.ite (badDesc_tame _) <| (readDescLine_tame _).bind fun _ =>
    RdKeeps.ite (badDesc_tame _) <| (readDescLine_tame _).bind fun _ => RdKeeps.ite (badDesc_tame _) <|
      RdKeeps.ite (badDesc_tame _) (RdKeeps.pure _)) (RdKeeps.ite (RdKeeps.pure _) (badDesc_tame _))

theorem gpTable_tame : Tame r (gpTable d r) := by
  unfold gpTable
  dsimp only
  split
  · exact readTable_tame _
  · exact RdKeeps.pure _

theorem copiedBytes_tame (va len layer : Nat) : Tame r (copiedBytes d r va len layer) :=
  (RdKeeps.mapM fun _ _ => (tr_tame ..).bind fun _ => RdKeeps.pure _).bind fun _ => RdKeeps.pure _

theorem readMapLine_tame (va key win occ try_ : Nat) (fresh : Bool) : Tame r (readMapLine d r va key win occ try_ fresh) := by
  refine (findGot_tame _).bind fun _ => ?_
  split
  · exact RdKeeps.pure _
  · refine RdKeeps.iteBind (RdKeeps.pure _) (copiedBytes_tame ..) fun _ => ?_
    dsimp only
    split
    · refine (RdKeeps.pure _).bind ?_
      exact fun _ => (consume_tame _).bind fun _ => (tr_tame ..).bind fun _ => (pin_tame _).bind fun _ => RdKeeps.pure _
    · refine (readLines_tame ..).bind ?_
      exact fun _ => (consume_tame _).bind fun _ => (tr_tame ..).bind fun _ => (pin_tame _).bind fun _ => RdKeeps.pure _

theorem windowMap_tame (w : Cw) (va : Nat) : Tame r (windowMap d r w va) := by
  refine (rowKey_tame _).bind fun _ => ?_
  split
  · exact fanOut_tame.bind fun _ => RdKeeps.pure _
  · exact (readMapLine_tame ..).bind fun _ => (segsRead_tame _).bind fun _ => (Cw.add_tame ..).bind fun _ => RdKeeps.pure _

theorem fetchTries_tame (t : Tab) (mapVa mapKey off win occ n m t0 segs : Nat) :
    Tame r (fetchTries d r t mapVa mapKey off win occ n m t0 segs) := by
  induction n generalizing m t0 segs with
  | zero => exact RdKeeps.pure _
  | succ n ih =>
    unfold fetchTries
    refine RdKeeps.ite (RdKeeps.pure _) <| (readBytes_tame ..).bind fun _ => (segsRead_tame _).bind fun _ => RdKeeps.ite (RdKeeps.pure _) <|
      (readMapLine_tame ..).bind fun _ => (segsRead_tame _).bind fun _ => RdKeeps.ite (RdKeeps.pure _) <| RdKeeps.ite (RdKeeps.pure _) <|
        (refetched_tame _).bind fun _ => ih ..

theorem rowFor_tame (w : Cw) (t : Tab) (p occ : Nat) : Tame r (rowFor d r w t p occ) := by
  unfold rowFor
  dsimp only
  refine RdKeeps.ite ((rowKey_tame _).bind fun _ => ?_) ((windowMap_tame ..).bind fun _ => RdKeeps.ite (RdKeeps.pure _) <|
    (rowKey_tame _).bind fun _ => ?_)
  · split
    · exact fanOut_tame.bind fun _ => RdKeeps.pure _
    · exact (readBytes_tame ..).bind fun _ => (RdKeeps.filterM fun _ => (RdKeeps.mapM fun _ _ => (tr_tame ..).bind fun _ =>
        RdKeeps.pure _).bind fun _ => RdKeeps.pure _).bind fun _ => (segsRead_tame _).bind fun _ => (Cw.add_tame ..).bind fun _ => RdKeeps.pure _
  · split
    · exact fanOut_tame.bind fun _ => RdKeeps.pure _
    · refine RdKeeps.iteBind (copiedBytes_tame ..) (RdKeeps.pure _) fun _ => ?_
      split
      · exact (consume_tame _).bind fun _ => (Cw.add_tame ..).bind fun _ => RdKeeps.pure _
      · refine (findGot_tame _).bind fun _ => ?_
        split
        · exact (segsRead_tame _).bind fun _ => (refetched_tame _).bind fun _ => (Cw.add_tame ..).bind fun _ => RdKeeps.pure _
        · refine (rowKey_tame _).bind fun _ => (fetchTries_tame ..).bind ?_
          rintro (⟨l, s, n⟩ | s | s)
          · exact (pin_tame _).bind fun _ => (Cw.add_tame ..).bind fun _ => RdKeeps.pure _
          · exact RdKeeps.pure _
          · exact RdKeeps.pure _

theorem occurrence_tame (t : Table) (p : Gp) (w : Cw) (i occ : Nat) : Tame r (occurrence d r t p w i occ) := by
  unfold occurrence
  refine RdKeeps.ite (RdKeeps.pure _) (RdKeeps.ite (RdKeeps.pure _) ?_)
  split
  · refine (rowFor_tame ..).bind ?_
    rintro ⟨w, k | l⟩ <;> exact RdKeeps.pure _
  · refine (rowFor_tame ..).bind ?_
    rintro ⟨w, k | la⟩
    · exact RdKeeps.pure _
    · refine (rowFor_tame ..).bind ?_
      rintro ⟨w, k | lb⟩ <;> exact RdKeeps.pure _

theorem bagBounds_tame (p : Gp) (b : Nat) : Tame r (bagBounds d r p b) :=
  RdKeeps.ite (RdKeeps.pure _) ((readBytes_tame ..).bind fun _ => RdKeeps.ite (RdKeeps.failRd ..) (RdKeeps.pure _))

theorem bagIndices_tame (p : Gp) (o : Nat × Nat) : Tame r (bagIndices d r p o) := (readBytes_tame ..).bind fun _ => RdKeeps.pure _

theorem stageRow_tame (row : List Byte) : Tame r (stageRow d r row) := (drawRd_tame _).bind fun _ => modTrail_tame

theorem poolBag_tame (t : Table) (p : Gp) (w : Cw) (b : Nat) : Tame r (poolBag d r t p w b) := by
  refine (bagBounds_tame ..).bind fun _ => (bagIndices_tame ..).bind fun _ => RdKeeps.bind (RdKeeps.foldlM (fun _ _ => ?_) _) fun _ => ?_
  · refine (occurrence_tame ..).bind ?_
    rintro ⟨w, reason | vs⟩
    · exact (countRd_tame (by simp only [A.CRD_DROP_CNT]; omega) ..).bind fun _ => RdKeeps.pure _
    · exact RdKeeps.pure _
  · exact (stageRow_tame _).bind fun _ => (writeBytes_tame ..).bind fun _ =>
      RdKeeps.iteBind (countRd_tame (by simp only [A.CRD_EMPTY_CNT]; omega) ..) (RdKeeps.pure ()) fun _ => RdKeeps.pure _

theorem gatherWork_tame : Tame r (gatherWork d r) :=
  RdKeeps.ite (RdKeeps.failRd ..) <| gpTable_tame.bind fun _ => RdKeeps.ite (RdKeeps.failRd ..) <| openCw_tame.bind fun _ =>
    (RdKeeps.foldlM (poolBag_tame _ _) _).bind fun _ => RdKeeps.pure _

/-! ## The last phase of ROUTE -/

theorem writeRecords_tame (es : List Expert) (toks : List Tok) : Tame r (writeRecords es toks d r) :=
  (RdKeeps.forM fun _ _ => writeBytes_tame ..).bind fun _ => (countRd_tame (by decide) ..).bind fun _ =>
    (countRd_tame (by decide) ..).bind fun _ => RdKeeps.pure _

end

end Sys2Proof.Machine
end

section
/-! PROOFS. What the accounting for a command's work leaves undisturbed: the command with its completion, the bytes of the store and the way
of its writes (R67, R191). -/

namespace Sys2Proof.Machine

/-! ## A command under way -/

/-- The command is under way, alone under its number, with a completion as required, and firmware has no command of its own in progress. -/
structure Dev.carried (r : Run) (Q : Option Cpl → Prop) (d : Dev) : Prop where
  firmware : ∀ x ∈ d.cmd.runs, x.iss ≠ .fw
  same : ∀ x ∈ d.cmd.runs, x.seq = r.seq → x.iss = r.iss ∧ x.pkt = r.pkt ∧ Q x.cpl
  present : ∃ x ∈ d.cmd.runs, x.seq = r.seq

/-- A change of a command in progress that leaves what it is known by and its completion. -/
structure Run.alike (x y : Run) : Prop where
  seq : y.seq = x.seq
  iss : y.iss = x.iss
  pkt : y.pkt = x.pkt
  cpl : y.cpl = x.cpl
  publishes : ∀ n, y.publishes n = true → x.publishes n = true

section
variable {d e : Dev} {r : Run} {Q Q' : Option Cpl → Prop}

theorem carried_of_carries {q : Req} {op : Nat} (h : d.carries q op r) : d.carried r (· = none) where
  firmware x hx := by simpa using List.find?_eq_none.mp h.firmware x hx
  same x hx hseq := by
    obtain rfl := h.only.2 x hx hseq
    exact ⟨rfl, rfl, (Run.goes_iff.mp h.goes).2.1⟩
  present := ⟨r, h.only.1, rfl⟩

theorem Dev.carried.runOf_fw (h : d.carried r Q) : d.runOf .fw = none :=
  List.find?_eq_none.mpr fun x hx => by simpa using h.firmware x hx

theorem Dev.carried.completed (h : d.carried r Q) : ∃ x, d.runSeq r.seq = some x ∧ Q x.cpl := by
  obtain ⟨y, hy, hseq⟩ := h.present
  obtain ⟨x, hx⟩ : ∃ x, d.runSeq r.seq = some x := Option.isSome_iff_exists.mp (List.find?_isSome.mpr ⟨y, hy, by simpa using hseq⟩)
  exact ⟨x, hx, (h.same x (List.mem_of_find?_eq_some hx) (seq_of_runSeq hx)).2.2⟩

theorem Dev.carried.of_cmd (h : d.carried r Q) (hcmd : e.cmd = d.cmd) : e.carried r Q :=
  ⟨by rw [hcmd]; exact h.firmware, by rw [hcmd]; exact h.same, by rw [hcmd]; exact h.present⟩

/-- A change of each command in progress that keeps what it is known by. -/
theorem Dev.carried.mapRuns {f : Run → Run} (h : d.carried r Q) (hknown : ∀ x, (f x).seq = x.seq ∧ (f x).iss = x.iss ∧ (f x).pkt = x.pkt)
    (hcpl : ∀ x, x.seq = r.seq → x.pkt = r.pkt → Q x.cpl → Q' (f x).cpl) (hcmd : e.cmd = d.cmd.mapRuns f) : e.carried r Q' where
  firmware y hy := by
    rw [hcmd] at hy
    obtain ⟨x, hx, rfl⟩ := List.mem_map.mp hy
    exact (hknown x).2.1 ▸ h.firmware x hx
  same y hy hseq := by
    rw [hcmd] at hy
    obtain ⟨x, hx, rfl⟩ := List.mem_map.mp hy
    obtain ⟨hxseq, hxiss, hxpkt⟩ := hknown x
    obtain ⟨hiss, hpkt, hQ⟩ := h.same x hx (hxseq ▸ hseq)
    exact ⟨hxiss.trans hiss, hxpkt.trans hpkt, hcpl x (hxseq ▸ hseq) hpkt hQ⟩
  present := by
    obtain ⟨x, hx, hseq⟩ := h.present
    rw [hcmd]
    exact ⟨f x, List.mem_map_of_mem hx, (hknown x).1.trans hseq⟩

/-- Commands of other issuers leave. -/
theorem Dev.carried.filterRuns {g : Run → Bool} (h : d.carried r Q) (hg : ∀ x, x.iss = r.iss → g x = true)
    (hcmd : e.cmd = { d.cmd with runs := d.cmd.runs.filter g }) : e.carried r Q where
  firmware x hx := by
    rw [hcmd] at hx
    exact h.firmware x (List.mem_of_mem_filter hx)
  same x hx hseq := by
    rw [hcmd] at hx
    exact h.same x (List.mem_of_mem_filter hx) hseq
  present := by
    obtain ⟨x, hx, hseq⟩ := h.present
    rw [hcmd]
    exact ⟨x, List.mem_filter.mpr ⟨hx, hg x (h.same x hx hseq).1⟩, hseq⟩

end

/-! ## Nothing disturbed -/

/-- The command is under way, the store reads as before, and no line or port has become harder to write. -/
structure Undisturbed (r : Run) (Q : Option Cpl → Prop) (d e : Dev) : Prop where
  steady : Steady d e
  bytes : ∀ a, e.byte a = d.byte a
  home : e.home = d.home
  carried : e.carried r Q

/-- The registers in which engines count, and those in which refused accesses of the domains are counted. -/
def countingRegs (a : Nat) : Prop := 0x100000 ≤ a ∨ ∃ k < 32, a = A.DOM_RIGHTS_CNT k

theorem watchedRegs_range {a : Nat} (h : watchedRegs a) : 0x61000 ≤ a ∧ a < 0x100000 := by
  obtain (hg | hg | ⟨j, hj, rfl⟩) | ⟨j, hj, rfl⟩ := h
  · omega
  · omega
  · simp only [A.TLK_VIOL_CFG]; omega
  · simp only [A.STK_STATUS]; omega

theorem not_counting_watched {a : Nat} (h : watchedRegs a) : ¬ countingRegs a := by
  obtain ⟨hlo, hhi⟩ := watchedRegs_range h
  rintro (hcount | ⟨k, hk, rfl⟩)
  · omega
  · simp only [A.DOM_RIGHTS_CNT] at hlo; omega

/-- Counting, free choices, and changes of the translation caches and of the engines. -/
abbrev Counting : Upd → Prop := Foot [.free, .stn, .eng] countingRegs

section
variable {d : Dev} {r : Run} {Q : Option Cpl → Prop}

theorem Undisturbed.refl (h : d.carried r Q) : Undisturbed r Q d d := ⟨Steady.refl d, fun _ => rfl, rfl, h⟩

theorem counting_upholds {α : Type} {m : M α} (hm : Emits Counting m) : Upholds (Undisturbed r Q d) m :=
  Upholds.of_emits hm fun u hu e he => by
    have hchanges : Changes [.free, .stn, .eng] countingRegs e (u.apply e) := Foot.changes hu (Changes.refl ..)
    exact ⟨he.steady.trans (Steady.of_touches (bytes := fun _ => False) ⟨hchanges.parts, hchanges.regs, hchanges.bytes⟩ (by simp)
      fun a => not_counting_watched), fun a => (hchanges.bytes a not_false).trans (he.bytes a), (hchanges.parts .home (by simp)).trans he.home,
      he.carried.of_cmd (hchanges.parts .cmd (by simp))⟩

/-- A meaning that changes the stacks' times and counters alone. -/
theorem stacks_upholds {m : M Unit} (hm : Emits (Foot [.store] touchRegs) m) (hsteady : ∀ w, Steady w.dev (M.post m w).dev) :
    Upholds (Undisturbed r Q d) m where
  logged := hm.mono fun _ _ => trivial
  keeps w hw := by
    have hchanges := hm.changes_post (w := w) (Changes.refl ..)
    exact ⟨hw.steady.trans (hsteady w), fun a => (hchanges.bytes a not_false).trans (hw.bytes a), (hchanges.parts .home (by simp)).trans hw.home,
      hw.carried.of_cmd (hchanges.parts .cmd (by simp))⟩

theorem touchLine_undisturbed (n : Nat) : Upholds (Undisturbed r Q d) (touchLine n) := stacks_upholds (touchLine_emits n) (touchLine_steady n)

theorem countRind_undisturbed (enc : Bool) (n : Nat) : Upholds (Undisturbed r Q d) (countRind enc n) :=
  stacks_upholds (countRind_emits enc n) (countRind_steady enc n)

/-- A change of the retained copies. -/
theorem modOwn_undisturbed {f : OwnSt → OwnSt} (hf : ∀ x, (f x).recs = x.recs) : Upholds (Undisturbed r Q d) (modOwn f) where
  logged := (Emits.look _).bind fun _ => Emits.emit trivial
  keeps _ hw := ⟨hw.steady.trans (Steady.of_same (fun _ _ => rfl) (fun _ _ => rfl) rfl rfl rfl rfl rfl (hf _) rfl fun _ h => h), hw.bytes, hw.home,
    hw.carried.of_cmd rfl⟩

/-- A change of the commands in progress that leaves what they are known by and their completions. -/
theorem modRuns_undisturbed {f : Run → Run} (hf : ∀ x : Run, x.alike (f x)) : Upholds (Undisturbed r Q d) (modCmd fun c => c.mapRuns f) where
  logged := (Emits.look _).bind fun _ => Emits.emit trivial
  keeps w hw := by
    refine ⟨hw.steady.trans (Steady.of_runs fun y hy => ?_), hw.bytes, hw.home,
      hw.carried.mapRuns (fun x => ⟨(hf x).seq, (hf x).iss, (hf x).pkt⟩) (fun x _ _ hQ => (hf x).cpl ▸ hQ) rfl⟩
    obtain ⟨x, hx, rfl⟩ := List.mem_map.mp hy
    exact ⟨x, hx, (hf x).publishes⟩

theorem modRun_undisturbed {seq : Nat} {f : Run → Run} (hf : ∀ x : Run, x.alike (f x)) : Upholds (Undisturbed r Q d) (modRun seq f) :=
  modRuns_undisturbed (f := fun x => if x.seq == seq then f x else x) fun x => by
    split
    · exact hf x
    · exact ⟨rfl, rfl, rfl, rfl, fun _ h => h⟩

/-- Commands of other issuers leave. -/
theorem filterRuns_undisturbed {g : Run → Bool} (hg : ∀ x, x.iss = r.iss → g x = true) :
    Upholds (Undisturbed r Q d) (modCmd fun c => { c with runs := c.runs.filter g }) where
  logged := (Emits.look _).bind fun _ => Emits.emit trivial
  keeps _ hw := ⟨hw.steady.trans (Steady.of_runs fun y hy => ⟨y, List.mem_of_mem_filter hy, fun _ h => h⟩), hw.bytes, hw.home,
    hw.carried.filterRuns hg rfl⟩

/-! ## The accounting for a command's work (R164, R165, R185, R239) -/

theorem freeTile_counts (q : Nat) : Emits Counting (freeTile q) :=
  Emits.dev.bind fun _ => (Emits.freeBelow _ (by simp)).bind fun _ => Emits.pure _

theorem fillCache_counts {a e : Nat} : Emits Counting (fillCache a e) := Emits.modStn (by simp)

theorem lookTile_counts {t : Nat} {e : Option Nat} {fills : Bool} : Emits Counting (lookTile t e fills) := by
  refine (Emits.look _).bind fun _ => (Emits.bump48 (.inl ?_)).bind fun _ => Emits.on (Emits.each fun _ _ => fillCache_counts)
  split <;> simp only [A.TTC_HIT_CNT, A.TTC_MISS_CNT] <;> omega

theorem lookAgent_counts {a : Nat} {e : Option Nat} {fills : Bool} : Emits Counting (lookAgent a e fills) := by
  have hcell : Emits Counting (lookCell a e fills) :=
    (Emits.look _).bind fun _ => (Emits.on ((Emits.bump48 (.inl (by simp only [A.TTC_CELL_MISS_CNT]; omega))).bind fun _ =>
      lookTile_counts)).bind fun _ => Emits.on (Emits.each fun _ _ => fillCache_counts)
  exact Emits.ite hcell (Emits.ite lookTile_counts (Emits.ite lookTile_counts (Emits.on (Emits.each fun _ _ => fillCache_counts))))

theorem agentFor_counts (r : Run) : Emits Counting (agentFor r) := by
  refine Emits.dev.bind fun d => ?_
  split
  · exact Emits.pure _
  · split
    · exact (freeTile_counts _).bind fun _ => (Emits.freeBelow _ (by simp)).bind fun _ => Emits.pure _
    · exact (freeTile_counts _).bind fun _ => Emits.pure _
    · exact Emits.pure _
    · exact Emits.pure _
    · exact Emits.pure _
  · exact Emits.pure _

theorem accountLooks_counts {r : Run} {l : List (Option Nat × Bool)} : Emits Counting (accountLooks r l) := by
  refine Emits.each fun x _ => (agentFor_counts r).bind fun a => ?_
  split
  · exact lookAgent_counts
  · exact Emits.pure _

theorem accountAhead_counts {r : Run} {l : List (Option Nat)} : Emits Counting (accountAhead r l) := by
  unfold accountAhead
  split
  · exact Emits.pure _
  · exact Emits.each fun _ _ => (freeTile_counts _).bind fun _ => (Emits.bump48 (.inl (by simp only [A.TTC_PF_CNT]; omega))).bind fun _ =>
      lookTile_counts.bind fun _ => Emits.each fun _ _ => fillCache_counts

theorem noRoom_counts (q : Nat) : Emits Counting (do let t ← freeTile q; bump (A.STG_NORSV_CNT t)) :=
  (freeTile_counts q).bind fun _ => Emits.bump (.inl (by simp only [A.STG_NORSV_CNT]; omega))

theorem retainFills_undisturbed (x : Run) (l : List (Tgt × Got)) (norsv : Nat) : Upholds (Undisturbed r Q d) (retainFills x l norsv) := by
  unfold retainFills
  split
  · exact Upholds.pure _
  · refine (Upholds.each fun y => (counting_upholds Emits.dev).bind fun e => Upholds.ite (Upholds.pure _) (Upholds.ite ?_ ?_)).bind fun _ => ?_
    · exact counting_upholds (noRoom_counts _)
    · exact (counting_upholds (Emits.freeBelow _ (by simp))).bind fun _ => modOwn_undisturbed fun _ => rfl
    · exact Upholds.each fun _ => counting_upholds (noRoom_counts _)

theorem dom_lt (r : Run) : r.dom < 32 := Nat.mod_lt _ (by decide)

/-- The accounting for work of a command that counts in registers of engines alone. -/
theorem accountTrail_undisturbed (x : Run) {t : Trail} (ht : t.tame x.dom) : Upholds (Undisturbed r Q d) (accountTrail x t) := by
  obtain ⟨hcnts, hrefused⟩ := ht
  refine (Upholds.each fun n => (touchLine_undisturbed n).bind fun _ => countRind_undisturbed false n).bind fun _ => ?_
  refine (Upholds.each fun _ => counting_upholds (Emits.emit (by simp [Foot]))).bind fun _ => ?_
  refine (counting_upholds (Emits.each fun c hc => Emits.fadd (.inl (hcnts c (List.mem_reverse.mp hc))))).bind fun _ => ?_
  refine (counting_upholds accountLooks_counts).bind fun _ => (counting_upholds accountAhead_counts).bind fun _ => ?_
  refine (retainFills_undisturbed ..).bind fun _ => Upholds.bind ?_ fun _ => Upholds.on (modRun_undisturbed fun y => ?_)
  · exact counting_upholds (Emits.each fun dom hdom => Emits.fadd (.inr ⟨dom, hrefused dom hdom ▸ dom_lt x, rfl⟩))
  · exact ⟨rfl, rfl, rfl, rfl, fun _ h => h⟩

/-! ## The end of the work -/

/-- A command without a completion has the one that it is given. -/
theorem setCpl_undisturbed {w : Work} (h : Undisturbed r (· = none) d w.dev) (c : Cpl) :
    Undisturbed r (· = some c) d (M.post (setCpl r c) w).dev := by
  have hcmd : (M.post (setCpl r c) w).dev.cmd = w.dev.cmd.mapRuns fun x => if x.seq == r.seq then x.given c else x := rfl
  refine ⟨h.steady.trans (Steady.of_runs fun y hy => ?_), h.bytes, h.home, h.carried.mapRuns (fun x => ?_) (fun x hseq _ hcpl => ?_) hcmd⟩
  · obtain ⟨x, hx, rfl⟩ := List.mem_map.mp hy
    refine ⟨x, hx, fun n hn => ?_⟩
    split at hn
    · rcases hcpl : x.cpl with _ | e <;> simp_all [Run.publishes]
    · exact hn
  · split <;> exact ⟨rfl, rfl, rfl⟩
  · simp [hseq, Run.given, hcpl]

theorem dropCopies_undisturbed (hit : Ret → Bool) : Upholds (Undisturbed r Q d) (dropCopies hit) :=
  (counting_upholds (Emits.look _)).bind fun _ => Upholds.bind (Upholds.on (modOwn_undisturbed fun _ => rfl)) fun _ =>
    Upholds.on (counting_upholds (Emits.modEng (by simp)))

/-- A write drops copies, and reads under way of fetches that no command of an issuer is (R195, R199). -/
theorem dropOwnCopies_undisturbed (hiss : ∀ q, r.iss ≠ .bg q) (x : Run) (l : List Tgt) : Upholds (Undisturbed r Q d) (dropOwnCopies x l) := by
  unfold dropOwnCopies
  split
  · exact Upholds.pure _
  · refine (counting_upholds Emits.dev).bind fun _ => (dropCopies_undisturbed _).bind fun _ => Upholds.on (filterRuns_undisturbed fun y hy => ?_)
    simp [hy, hiss]

end

end Sys2Proof.Machine
end

section
/-! PROOFS. The writes of a command once they are issued: what a failure of one does to its completion, and where they land (R191, R211). -/

namespace Sys2Proof.Machine

/-! ## A command that hears of its accesses -/

/-- A completion that failed writes of a command may have changed: they lower its first count where the command counts tiles, and the first
one replaces OK (R191, R211). -/
def Cpl.near (r : Run) (c e : Cpl) : Prop :=
  e.a ≤ c.a ∧ (r.counts = false → e.a = c.a) ∧ e.b = c.b ∧
    ((e.status = c.status ∧ e.detail = c.detail ∧ e.result = c.result) ∨ (c.status = Sc.ok ∧ e.status ≠ Sc.ok))

/-- A decided completion that is near to one. -/
def nearly (r : Run) (c : Cpl) (o : Option Cpl) : Prop := ∃ e, o = some e ∧ c.near r e

section
variable {r : Run} {c : Cpl}

theorem Cpl.near_refl (r : Run) (c : Cpl) : c.near r c := ⟨le_refl _, fun _ => rfl, rfl, .inl ⟨rfl, rfl, rfl⟩⟩

theorem counts_congr {x y : Run} (h : x.pkt = y.pkt) : x.counts = y.counts := by simp only [Run.counts, h]

/-- A completion whose status a failed write has replaced, unless it was no longer OK. -/
theorem Cpl.near_failed {e : Cpl} (h : c.near r e) (g : Got) :
    c.near r (if decide (g.status ≠ 0) && e.status == 0 then { e with status := g.status, detail := g.detail, result := g.key / 4 } else e) := by
  obtain ⟨hle, hcount, hb, hstatus⟩ := h
  by_cases hbad : g.status ≠ 0 ∧ e.status = 0
  · obtain ⟨hfailed, hzero⟩ := hbad
    have hok : c.status = Sc.ok := by
      obtain ⟨hs, -, -⟩ | ⟨-, hne⟩ := hstatus
      · exact hs ▸ hzero
      · exact absurd hzero hne
    rw [if_pos (by simp [hfailed, hzero])]
    exact ⟨hle, hcount, hb, .inr ⟨hok, hfailed⟩⟩
  · rw [if_neg (by simpa using hbad)]
    exact ⟨hle, hcount, hb, hstatus⟩

/-- A completion that counts one tile less, of a command that counts tiles. -/
theorem Cpl.near_less {e : Cpl} (h : c.near r e) (hcounts : r.counts = true) : c.near r { e with a := e.a - 1 } := by
  obtain ⟨hle, -, hb, hstatus⟩ := h
  exact ⟨(Nat.sub_le _ _).trans hle, fun h => by simp [hcounts] at h, hb, hstatus⟩

theorem Run.give_nearly {x : Run} (g : Got) (hpkt : x.pkt = r.pkt) (h : nearly r c x.cpl) : nearly r c (x.give g).cpl := by
  obtain ⟨e, he, hnear⟩ := h
  have hfailed := Cpl.near_failed hnear g
  unfold Run.give
  simp only [he, Option.map_some, Option.getD_some]
  split
  · split
    · next hcounts =>
      have htiles : r.counts = true := by
        rw [← counts_congr hpkt]
        simp only [Bool.and_eq_true] at hcounts
        exact hcounts.1.1
      refine ⟨_, ?_, Cpl.near_less hfailed htiles⟩
      split <;> simp_all
    · refine ⟨_, ?_, hfailed⟩
      split <;> rfl
  · exact ⟨e, rfl, hnear⟩

/-- A write that was ordered leaves the completion of its command as it stands. -/
theorem Run.landed_cpl (x : Run) (q : HReq) : (x.landed q).cpl = x.cpl := by
  unfold Run.landed Run.give
  split <;> simp

theorem Run.give_known (x : Run) (g : Got) : (x.give g).seq = x.seq ∧ (x.give g).iss = x.iss ∧ (x.give g).pkt = x.pkt := by
  unfold Run.give
  dsimp only
  split_ifs <;> exact ⟨rfl, rfl, rfl⟩

theorem Run.missEnded_known (x : Run) (key status detail : Nat) :
    (x.missEnded key status detail).seq = x.seq ∧ (x.missEnded key status detail).iss = x.iss ∧ (x.missEnded key status detail).pkt = x.pkt := by
  unfold Run.missEnded
  split <;> exact ⟨rfl, rfl, rfl⟩

theorem foldl_landed_known (l : List HReq) (x : Run) : (l.foldl Run.landed x).seq = x.seq ∧ (l.foldl Run.landed x).iss = x.iss ∧
    (l.foldl Run.landed x).pkt = x.pkt ∧ (l.foldl Run.landed x).cpl = x.cpl := by
  induction l generalizing x with
  | nil => exact ⟨rfl, rfl, rfl, rfl⟩
  | cons q l ih =>
    obtain ⟨hseq, hiss, hpkt, hcpl⟩ := ih (x.landed q)
    obtain ⟨hseq', hiss', hpkt'⟩ := x.give_known { key := q.grp, data := [0] }
    exact ⟨hseq.trans hseq', hiss.trans hiss', hpkt.trans hpkt', hcpl.trans (x.landed_cpl q)⟩

end

/-! ## Serving upholds a completion that hearing of accesses keeps -/

section
variable {r : Run} {Q : Option Cpl → Prop}

theorem Emits.upholds_carried {α : Type} {m : M α} (h : Emits Aside m) : Upholds (Dev.carried r Q) m :=
  Upholds.of_emits h fun u hu d hd => hd.of_cmd (by
    cases u with
    | cmd | sys => exact hu.elim
    | _ => simp)

theorem Upholds.carried_of {α : Type} {m : M α} (h : ∀ d, Upholds (Undisturbed r Q d) m) : Upholds (Dev.carried r Q) m where
  logged := (h {}).logged
  keeps w hw := ((h w.dev).keeps w (Undisturbed.refl hw)).carried

theorem look_carried {α : Type} {f : Dev → α} : Upholds (Dev.carried r Q) (look f) := (Emits.look f).upholds_carried
theorem dev_carried : Upholds (Dev.carried r Q) dev := Emits.dev.upholds_carried
theorem modHome_carried {f : HomeSt → HomeSt} : Upholds (Dev.carried r Q) (modHome f) := modHome_aside.upholds_carried

theorem mapRuns_carried {f : Run → Run} (hknown : ∀ x, (f x).seq = x.seq ∧ (f x).iss = x.iss ∧ (f x).pkt = x.pkt)
    (hcpl : ∀ x, x.pkt = r.pkt → Q x.cpl → Q (f x).cpl) : Upholds (Dev.carried r Q) (modCmd fun c => c.mapRuns f) where
  logged := (Emits.look _).bind fun _ => Emits.emit trivial
  keeps _ h := h.mapRuns hknown (fun x _ => hcpl x) rfl

theorem endMiss_carried {m : Miss} {status detail : Nat} : Upholds (Dev.carried r Q) (endMiss m status detail) :=
  modStn_aside.upholds_carried.bind fun _ => countStall_aside.upholds_carried.bind fun _ =>
    (mapRuns_carried (fun x => x.missEnded_known ..) fun x _ h => (x.missEnded_cpl ..).symm ▸ h).bind fun _ => startWaitingMiss_aside.upholds_carried

theorem quarantineTlk_carried {p : Nat} : Upholds (Dev.carried r Q) (quarantineTlk p) :=
  dev_carried.bind fun _ => modLink_aside.upholds_carried.bind fun _ => setPortState_aside.upholds_carried.bind fun _ =>
    bump_aside.upholds_carried.bind fun _ => raise_aside.upholds_carried.bind fun _ => modTrf_aside.upholds_carried.bind fun _ =>
      (Emits.each fun _ _ => bump_aside).upholds_carried.bind fun _ =>
        (look_carried.bind fun _ => Upholds.each fun _ => endMiss_carried).bind fun _ => losePort_aside.upholds_carried

/-- Hearing of an access keeps what is required of the completion. -/
def HearingKeeps (r : Run) (Q : Option Cpl → Prop) : Prop := ∀ (x : Run) (g : Got), x.pkt = r.pkt → Q x.cpl → Q (x.give g).cpl

theorem nearly_heard (r : Run) (c : Cpl) : HearingKeeps r (nearly r c) := fun _ g => Run.give_nearly g

variable (hQ : HearingKeeps r Q)
include hQ

theorem giveRun_carried {seq : Nat} {g : Got} : Upholds (Dev.carried r Q) (giveRun seq g) := by
  refine mapRuns_carried (f := fun x => if x.seq == seq then x.give g else x) (fun x => ?_) fun x hpkt h => ?_
  · split
    · exact x.give_known g
    · exact ⟨rfl, rfl, rfl⟩
  · split
    · exact hQ x g hpkt h
    · exact h

theorem giveAnswer_carried {q : HReq} {a : HAns} : Upholds (Dev.carried r Q) (giveAnswer q a) := by
  unfold giveAnswer
  split
  · exact giveRun_carried hQ
  · refine dev_carried.bind fun d => ?_
    split
    · exact Upholds.pure _
    · refine Upholds.ite (modHome_carried.bind fun _ => ?_) modHome_carried
      split
      · exact openLanded_aside.upholds_carried
      · exact finishGroup_aside.upholds_carried

theorem serveList_carried {l : List HReq} {lines issuers : List Nat} : Upholds (Dev.carried r Q) (serveList l lines issuers) := by
  induction l generalizing lines issuers with
  | nil => exact Upholds.pure _
  | cons q rest ih =>
    refine Upholds.ite ih (tryReq_aside.upholds_carried.bind fun a => ?_)
    split
    · exact modHome_carried.bind fun _ => (giveAnswer_carried hQ).bind fun _ => ih
    · exact ih

theorem submit_carried {l : List HReq} : Upholds (Dev.carried r Q) (submit l) := by
  have hpasses : ∀ n, Upholds (Dev.carried r Q) (serveAllN n) := fun n => by
    induction n with
    | zero => exact Upholds.pure _
    | succ n ih =>
      have honce : Upholds (Dev.carried r Q) serveOnce :=
        look_carried.bind fun _ => (serveList_carried hQ).bind fun _ => look_carried.bind fun _ => Upholds.on (serveList_carried hQ)
      have hover : Upholds (Dev.carried r Q) checkTlkOver := look_carried.bind fun _ => (Upholds.each fun _ => quarantineTlk_carried).bind fun _ => Upholds.pure _
      exact honce.bind fun _ => hover.bind fun _ => Upholds.on ih
  exact modHome_carried.bind fun _ => hpasses 5

theorem issueRq_carried {m : DMsg} {seq key : Nat} : Upholds (Dev.carried r Q) (issueRq m seq key) := by
  have hlaunch : ∀ o, Emits Aside (launchRq o) := fun o => by
    refine Emits.dev.bind fun d => ?_
    dsimp only
    split
    · exact Emits.pure _
    · exact Emits.ite launch_aside (bump_aside.bind fun _ => addDead_aside.bind fun _ => modFab_aside)
  refine dev_carried.bind fun d => Upholds.ite (giveRun_carried hQ) (Upholds.ite (giveRun_carried hQ) ?_)
  split
  · exact giveRun_carried hQ
  · exact modFab_aside.upholds_carried.bind fun _ => Upholds.on (hlaunch _).upholds_carried

/-- The writes of a command leave its completion as required. -/
theorem issueWrites_carried (hiss : ∀ q, r.iss ≠ .bg q) (x : Run) (l : List Wr) : Upholds (Dev.carried r Q) (issueWrites x l) := by
  refine Upholds.bind (Upholds.carried_of fun d => modRun_undisturbed fun y => ⟨rfl, rfl, rfl, rfl, fun _ h => h⟩) fun _ => ?_
  refine (Upholds.carried_of fun d => dropOwnCopies_undisturbed hiss x _).bind fun _ => ?_
  exact (submit_carried hQ).bind fun _ => Upholds.each fun _ => issueRq_carried hQ

end

/-! ## Writes that land at once -/

section
variable {d : Dev} {r : Run} {c : Cpl} {l : List Wr}

/-- The request of a local write. -/
def Wr.req (r : Run) (w : Wr) : Option HReq :=
  match w.tgt with
  | .loc off cls => some ⟨writeKey w.va, 0, .run r.seq, .wr w.mask w.data w.pcause, off / 64, some r.dom, some cls⟩
  | .win .. => none

theorem localReqs_eq (r : Run) (l : List Wr) : localReqs r l = l.filterMap (Wr.req r) := rfl

theorem Wr.req_byteAt (r : Run) (w : Wr) (a : Nat) : (w.req r).bind (·.byteAt a) = w.byteAt a := by
  unfold Wr.req Wr.byteAt
  cases w.tgt <;> rfl

theorem Dev.landsNow.isLocal {w : Wr} (h : d.landsNow r w) : ∃ off cls, w.tgt = .loc off cls := by
  obtain ⟨-, htgt⟩ := h
  split at htgt
  · exact ⟨_, _, by assumption⟩
  · exact htgt.elim

theorem landing_of_landsNow {w : Wr} {q : HReq} (h : d.landsNow r w) (hq : w.req r = some q) : d.landing r.seq q := by
  obtain ⟨off, cls, htgt⟩ := h.isLocal
  obtain ⟨hsound, hfree⟩ := h
  rw [htgt] at hfree
  obtain ⟨hline, hdir, hallowed⟩ := hfree
  obtain rfl : _ = q := by simpa [Wr.req, htgt] using hq
  exact ⟨rfl, ⟨_, _, by rw [hsound]⟩, writable_of_lineFree hline hallowed hdir⟩

/-- Writes that nothing stands before, of a command with its completion: it stands, and every byte written stands in the store. -/
theorem issueWrites_lands (hiss : ∀ q, r.iss ≠ .bg q) {w : Work} (h : Undisturbed r (· = some c) d w.dev) (hquiet : d.quiet)
    (hland : ∀ x ∈ l, d.landsNow r x) :
    (M.post (issueWrites r l) w).dev.carried r (· = some c) ∧ Lands l.reverse d (M.post (issueWrites r l) w).dev := by
  obtain ⟨hwaiting, -, hcalm⟩ := hquiet
  have hnone : ∀ p : Wr → Bool, (∀ x off cls, x.tgt = .loc off cls → p x = false) → l.filter p = [] := fun p hp =>
    List.filter_eq_nil_iff.mpr fun x hx => by
      obtain ⟨off, cls, htgt⟩ := (hland x hx).isLocal
      simp [hp x off cls htgt]
  obtain ⟨w₁, hw₁⟩ : ∃ x, x = M.post (modRun r.seq fun x => { x with outs := x.outs + (localReqs r l).length + (gatherWr []).length }) w := ⟨_, rfl⟩
  obtain ⟨w₂, hw₂⟩ : ∃ x, x = M.post (dropOwnCopies r (l.map (·.tgt))) w₁ := ⟨_, rfl⟩
  have hpost : M.post (issueWrites r l) w = M.post (submit (localReqs r l)) w₂ := by
    unfold issueWrites
    rw [hnone _ fun x off cls h => by simp [h]]
    simp only [post_bind, ← hw₁, ← hw₂]
    rfl
  have h₁ : Undisturbed r (· = some c) d w₁.dev := by
    rw [hw₁]
    refine Upholds.keeps (modRun_undisturbed ?_) w h
    exact fun _ => ⟨rfl, rfl, rfl, rfl, fun _ h => h⟩
  have h₂ : Undisturbed r (· = some c) d w₂.dev := hw₂ ▸ (dropOwnCopies_undisturbed hiss r _).keeps w₁ h₁
  have hlanding : ∀ q ∈ localReqs r l, w₂.dev.landing r.seq q := fun q hq => by
    obtain ⟨x, hx, hxq⟩ := List.mem_filterMap.mp (localReqs_eq r l ▸ hq)
    exact (landing_of_landsNow (hland x hx) hxq).steady h₂.steady
  obtain ⟨hlands, -⟩ := submit_lands hlanding (by rw [h₂.home, hwaiting]) (calm_steady hcalm h₂.steady)
  rw [hpost]
  refine ⟨h₂.carried.mapRuns (fun x => ?_) (fun x _ _ hcpl => ?_) hlands.told, fun a => ?_⟩
  · obtain ⟨hseq, hknown, hpkt, -⟩ := foldl_landed_known (localReqs r l) x
    split
    · exact ⟨hseq, hknown, hpkt⟩
    · exact ⟨rfl, rfl, rfl⟩
  · split
    · exact (foldl_landed_known _ x).2.2.2.trans hcpl
    · exact hcpl
  · rw [hlands.bytes, h₂.bytes, localReqs_eq, ← List.filterMap_reverse, ← List.head?_filterMap,
      List.filterMap_filterMap, List.head?_filterMap]
    simp only [Wr.req_byteAt]

end

end Sys2Proof.Machine
end

section
/-! PROOFS. The engines' work completes, with its completion and its writes (O56). -/

namespace Sys2Proof.Machine

/-! ## Work that has ended -/

/-- The completion that work which failed leaves: with what it did until then (R211). -/
def Cpl.until (c : Cpl) (t : Trail) : Cpl := { c with a := c.a + t.tiles, b := c.b + t.bad.eraseDups.length }

/-- A device reached by what has been logged, with a command under way whose completion is as required. -/
structure Reached (d : Dev) (r : Run) (Q : Option Cpl → Prop) (w : Work) : Prop where
  logged : d.replay w.log = w.dev
  carried : w.dev.carried r Q

/-- The end of work with its trail accounted for, its completion and its writes. -/
def endWork (r : Run) (c : Cpl) (t : Trail) : M Unit := do
  accountTrail r t
  setCpl r c
  issueWrites r t.wrs.reverse

section
variable {w : Work} {r : Run} {c : Cpl} {t : Trail} {work : Dev → Run → Rd Cpl}

theorem post_runCpl_ok (h : (work w.dev r).run.run {} = (.ok c, t)) : M.post (runCpl r work) w = M.post (endWork r c t) w := by
  simp only [runCpl, runWork, endWork, post_bind, val_dev, post_dev, h]

theorem post_runCpl_fail (h : (work w.dev r).run.run {} = (.error (.fail c), t)) :
    M.post (runCpl r work) w = M.post (endWork r (c.until t) t) w := by
  simp only [runCpl, runWork, endWork, Cpl.until, post_bind, val_dev, post_dev, h]

/-- Accounted for and given its completion, the command has disturbed nothing. -/
theorem accounted {d : Dev} (h : d.carried r (· = none)) (ht : t.tame r.dom) (c : Cpl) :
    ∃ w, M.post (do accountTrail r t; setCpl r c) ⟨d, []⟩ = w ∧ d.replay w.log = w.dev ∧ Undisturbed r (· = some c) d w.dev := by
  obtain ⟨hlog, hkept⟩ := (accountTrail_undisturbed (r := r) (d := d) r ht).post (w := ⟨d, []⟩) rfl (Undisturbed.refl h)
  exact ⟨_, rfl, (Emits.setCpl (parts := [.cmd]) (regs := noReg) (by simp) r c).replay_log hlog, setCpl_undisturbed hkept c⟩

theorem post_endWork (w : Work) : M.post (endWork r c t) w = M.post (issueWrites r t.wrs.reverse) (M.post (do accountTrail r t; setCpl r c) w) := by
  simp only [endWork, post_bind]

theorem issueWrites_logged (x : Run) (l : List Wr) : Emits (fun _ => True) (issueWrites x l) :=
  (issueWrites_carried (r := { iss := .unit, seq := 0, pkt := 0, tick := 0 }) (nearly_heard _ {}) (fun _ h => by simp at h) x l).logged

variable {d : Dev} (hcarried : d.carried r (· = none)) (ht : t.tame r.dom) (hiss : ∀ q, r.iss ≠ .bg q)
include hcarried ht hiss

/-- In general a failed write changes the completion. -/
theorem endWork_nearly (c : Cpl) : Reached d r (nearly r c) (M.post (endWork r c t) ⟨d, []⟩) := by
  obtain ⟨w, hw, hlog, hkept⟩ := accounted hcarried ht c
  have hnear : w.dev.carried r (nearly r c) :=
    ⟨hkept.carried.firmware, fun x hx hseq => by
      obtain ⟨hi, hp, hc⟩ := hkept.carried.same x hx hseq
      exact ⟨hi, hp, c, hc, Cpl.near_refl r c⟩, hkept.carried.present⟩
  obtain ⟨hlog', hcarried'⟩ := (issueWrites_carried (nearly_heard r c) hiss r t.wrs.reverse).post hlog hnear
  rw [post_endWork, hw]
  exact ⟨hlog', hcarried'⟩

/-- Where nothing stands before its writes they land, and the completion stands. -/
theorem endWork_lands (hquiet : d.quiet) (hland : ∀ x ∈ t.wrs, d.landsNow r x) (c : Cpl) :
    Reached d r (· = some c) (M.post (endWork r c t) ⟨d, []⟩) ∧ Lands t.wrs d (M.post (endWork r c t) ⟨d, []⟩).dev := by
  obtain ⟨w, hw, hlog, hkept⟩ := accounted hcarried ht c
  obtain ⟨hcarried', hlands⟩ := issueWrites_lands hiss hkept hquiet (l := t.wrs.reverse) fun x hx => hland x (List.mem_reverse.mp hx)
  rw [post_endWork, hw]
  exact ⟨⟨(issueWrites_logged _ _).replay_log hlog, hcarried'⟩, by rwa [List.reverse_reverse] at hlands⟩

end

/-! ## Rows that run work -/

/-- A row that runs the work of a command from the state, and afterwards does nothing that disturbs a command whose completion is decided. -/
structure RunsWork (row : Instr) (s : State) (r : Run) (work : Dev → Run → Rd Cpl) : Prop where
  runs : ∃ m, exec row s = s.run m ∧ ∀ Q, (∀ o, Q o → o.isSome = true) → ∀ w, w = M.post (runCpl r work) ⟨s.dev, []⟩ → Reached s.dev r Q w →
    Reached s.dev r Q (M.post m ⟨s.dev, []⟩) ∧ ∀ a, (M.post m ⟨s.dev, []⟩).dev.byte a = w.dev.byte a

/-- A row completes the work of its command: the completion is that of the work where its writes land; in general a failed write changes it; and
work that fails completes with its failure. -/
def State.completesWork (s : State) (r : Run) (work : Dev → Run → Rd Cpl) (row : Instr) : Prop :=
  (∀ c tr, (work s.dev r).run.run {} = (.ok c, tr) → s.dev.quiet → (∀ x ∈ tr.wrs, s.dev.landsNow r x) →
    Completes row s fun t => Completed r c t.dev ∧ Lands tr.wrs s.dev t.dev) ∧
  (∀ c tr, (work s.dev r).run.run {} = (.ok c, tr) → Completes row s fun t => ∃ e, Completed r e t.dev ∧ Cpl.near r c e) ∧
  (∀ c tr, (work s.dev r).run.run {} = (.error (.fail c), tr) → Completes row s fun t => ∃ e, Completed r e t.dev ∧ Cpl.near r (c.until tr) e)

section
variable {s : State} {q : Req} {op : Nat} {r : Run} {work : Dev → Run → Rd Cpl} {row : Instr}

/-- A row's command is no read ahead of use. -/
theorem Dev.carries.not_bg (h : s.dev.carries q op r) (n : Nat) : r.iss ≠ .bg n := by
  have hiss : r.iss = issOf q := by simpa using List.find?_some h.run
  rw [hiss]
  cases q <;> simp [issOf]

theorem Dev.carried.completed_nearly {d : Dev} {c : Cpl} (h : d.carried r (nearly r c)) : ∃ e, Completed r e d ∧ Cpl.near r c e := by
  obtain ⟨x, hx, e, he, hnear⟩ := h.completed
  exact ⟨e, by rw [Completed, hx]; exact he, hnear⟩

/-- A row that runs the work of the command that it carries on completes it. -/
theorem completesWork_of_runs (h : s.dev.carries q op r) (htame : Tame r (work s.dev r)) (hruns : RunsWork row s r work) :
    s.completesWork r work row := by
  have hcarried := carried_of_carries h
  have htrail : ∀ {res tr}, (work s.dev r).run.run {} = (res, tr) → tr.tame r.dom := fun {_ _} hres => by
    have hkept := htame.keeps {} ⟨fun _ h => by simp at h, fun _ h => by simp at h⟩
    rwa [hres] at hkept
  obtain ⟨m, hexec, hm⟩ := hruns.runs
  have hnear : ∀ c tr, tr.tame r.dom → M.post (runCpl r work) ⟨s.dev, []⟩ = M.post (endWork r c tr) ⟨s.dev, []⟩ →
      Completes row s fun t => ∃ e, Completed r e t.dev ∧ Cpl.near r c e := fun c tr ht hpost => by
    obtain ⟨hreached, -⟩ := hm (nearly r c) (fun _ ⟨_, ho, _⟩ => by simp [ho]) _ rfl (hpost ▸ endWork_nearly hcarried ht h.not_bg c)
    exact completes_run hexec rfl hreached.logged hreached.carried.completed_nearly
  refine ⟨fun c tr hres hquiet hland => ?_, fun c tr hres => hnear c tr (htrail hres) (post_runCpl_ok hres),
    fun c tr hres => hnear _ tr (htrail hres) (post_runCpl_fail hres)⟩
  obtain ⟨hend, hlands⟩ := endWork_lands hcarried (htrail hres) h.not_bg hquiet hland c
  obtain ⟨hreached, hbytes⟩ := hm (· = some c) (fun _ ho => by simp [ho]) _ (post_runCpl_ok hres).symm hend
  obtain ⟨x, hx, hcpl⟩ := hreached.carried.completed
  exact completes_run hexec rfl hreached.logged ⟨by rw [Completed, hx]; exact hcpl, fun a => (hbytes a).trans (hlands a)⟩

/-- What disturbs nothing after the work leaves what it has reached. -/
theorem Reached.after {d : Dev} {Q : Option Cpl → Prop} {w : Work} {m : M Unit} (h : Reached d r Q w) (hm : ∀ e, Upholds (Undisturbed r Q e) m) :
    Reached d r Q (M.post m w) ∧ ∀ a, (M.post m w).dev.byte a = w.dev.byte a := by
  obtain ⟨hlog, hkept⟩ := (hm w.dev).post h.logged (Undisturbed.refl h.carried)
  exact ⟨⟨hlog, hkept.carried⟩, hkept.bytes⟩

/-- A row of a command, which runs its work and then does what disturbs nothing. -/
theorem runsWork_onRun {body : Run → M Unit} {tail : M Unit} (h : s.dev.carries q op r) (hexec : exec row s = s.run (onRun op q body))
    (hbody : ∀ Q, (∀ o, Q o → o.isSome = true) → (M.post (runCpl r work) ⟨s.dev, []⟩).dev.carried r Q →
      M.post (body r) ⟨s.dev, []⟩ = M.post tail (M.post (runCpl r work) ⟨s.dev, []⟩))
    (htail : ∀ Q d, Upholds (Undisturbed r Q d) tail) : RunsWork row s r work where
  runs := ⟨_, hexec, fun Q hQ w hw hreached => by
    subst hw
    obtain ⟨hafter, hbytes⟩ := hreached.after (htail Q)
    rw [post_onRun_carries h (hbody Q hQ hreached.carried) hafter.carried.runOf_fw]
    exact ⟨hafter, hbytes⟩⟩

/-- The same in the CX6 layout. -/
theorem runsWork_onCx6 {n : Fin 512} {body : Run → M Unit} {tail : M Unit} (h : s.dev.carries (.q n) op r) (hcx6 : r.isCx6 = true)
    (hexec : exec row s = s.run (onCx6 op n.val body))
    (hbody : M.post (body r) ⟨s.dev, []⟩ = M.post tail (M.post (runCpl r work) ⟨s.dev, []⟩))
    (htail : ∀ Q d, Upholds (Undisturbed r Q d) tail) : RunsWork row s r work where
  runs := ⟨_, hexec, fun Q _ w hw hreached => by
    subst hw
    have hrun : s.dev.runOf (.q n.val) = some r := h.run
    have hpost : M.post (onCx6 op n.val body) ⟨s.dev, []⟩ = M.post tail (M.post (runCpl r work) ⟨s.dev, []⟩) := by
      simp [onCx6, hrun, h.goes, hcx6, hbody]
    rw [hpost]
    exact hreached.after (htail Q)⟩

/-! ## GATHER_POOL -/

theorem post_takeSet_none {w : Work} (hnone : ∀ x ∈ w.dev.eng.pf, some x.queue ≠ r.queue) : M.post (takeSet r) w = w := by
  unfold takeSet
  rcases hq : r.queue with _ | n
  · simp
  · have hany : ¬ ∃ x ∈ w.dev.eng.pf, x.queue = n ∧ x.consumer = none := fun ⟨x, hx, hqueue, _⟩ => hnone x hx (by rw [hq, hqueue])
    simp [hany]

/-- The end of a prefetch set disturbs no command of an issuer. -/
theorem endSet_undisturbed (hiss : ∀ n, r.iss ≠ .bg n) (Q : Option Cpl → Prop) (d : Dev) : Upholds (Undisturbed r Q d) (endSet r) := by
  have hdrop : ∀ n, Upholds (Undisturbed r Q d) (dropSet n) := fun n =>
    (counting_upholds (Emits.modEng (by simp))).bind fun _ => Upholds.bind (modOwn_undisturbed fun _ => rfl) fun _ =>
      filterRuns_undisturbed fun y hy => by simp [hy, hiss]
  refine (counting_upholds Emits.dev).bind fun e => ?_
  split
  · exact Upholds.on (hdrop _)
  · exact Upholds.pure _

theorem post_gatherPool {d : Dev} (hturn : d.crdTurn r = true) (hnone : ∀ x ∈ d.eng.pf, some x.queue ≠ r.queue) :
    M.post (gatherPool r) ⟨d, []⟩ = M.post (endSet r) (M.post (runCpl r gatherWork) ⟨d, []⟩) := by
  have htake : M.post (on (!r.isCx6) (takeSet r)) ⟨d, []⟩ = ⟨d, []⟩ := by
    rw [post_on, post_takeSet_none hnone, ite_self]
  simp only [gatherPool, post_bind, val_dev, post_dev, hturn, if_true, htake]

/-! ## Commands that run in phases -/

theorem post_again_decided {w : Work} {Q : Option Cpl → Prop} (h : w.dev.carried r Q) (hQ : ∀ o, Q o → o.isSome = true) (body : Run → M Unit) :
    M.post (again r.seq body) w = w := by
  obtain ⟨x, hx, hcpl⟩ := h.completed
  have hsome : x.cpl ≠ none := Option.isSome_iff_ne_none.mp (hQ _ hcpl)
  simp [again, hx, hsome]

theorem runSeq_of_carries (h : s.dev.carries q op r) : s.dev.runSeq r.seq = some r ∧ r.cpl = none :=
  ⟨runSeq_of_only h.only, (Run.goes_iff.mp h.goes).2.1⟩

theorem post_matmul (h : s.dev.carries q op r) (hphase : r.phase = 1) :
    M.post (matmul r) ⟨s.dev, []⟩ = M.post (runCpl r matmulWork) ⟨s.dev, []⟩ := by
  obtain ⟨hrun, hcpl⟩ := runSeq_of_carries h
  rw [matmul, post_bind, hphase]
  exact (post_again_undecided hrun hcpl _).trans (by simp [hphase])

theorem post_route (h : s.dev.carries q op r) (hphase : r.phase = 5) (hturn : s.dev.routeRunning.map (·.seq) = some r.seq)
    {Q : Option Cpl → Prop} (hQ : ∀ o, Q o → o.isSome = true)
    (hcarried : (M.post (runCpl r (writeRecords (keptExperts r) (toksOf r))) ⟨s.dev, []⟩).dev.carried r Q) :
    M.post (route r) ⟨s.dev, []⟩ = M.post (runCpl r (writeRecords (keptExperts r) (toksOf r))) ⟨s.dev, []⟩ := by
  obtain ⟨hrun, hcpl⟩ := runSeq_of_carries h
  obtain ⟨w, hw⟩ : ∃ x, x = M.post (runCpl r (writeRecords (keptExperts r) (toksOf r))) ⟨s.dev, []⟩ := ⟨_, rfl⟩
  have hstep : M.post (routeStep r) ⟨s.dev, []⟩ = w := by simp [routeStep, hphase, hw]
  have hrange : List.range 6 = 0 :: [1, 2, 3, 4, 5] := rfl
  have hcons : ∀ (a : Nat) l (f : Nat → M Unit) w, M.post (each (a :: l) f) w = M.post (each l f) (M.post (f a) w) := fun _ _ _ _ => rfl
  rw [← hw] at hcarried ⊢
  rw [route, hrange, hcons, post_again_undecided hrun hcpl]
  simp only [post_bind, val_dev, post_dev, hturn, beq_self_eq_true, on_true, hstep]
  exact post_each_of_fixed fun _ _ => post_again_decided hcarried hQ _

end

/-- Settles O56: the accounting for the work disturbs neither the command nor the lines that its writes go to, so that the slices order them at
once; and in general a completion changes only as the command hears of its writes. -/
theorem engineWorkCompletes : Obligations.EngineWorkCompletes := by
  unfold Obligations.EngineWorkCompletes
  intro s q r
  have hpure : ∀ Q d, Upholds (Undisturbed r Q d) (pure ()) := fun _ _ => Upholds.pure _
  refine ⟨fun hnative => ⟨fun h => ?_, fun h => ?_, fun h hturn hnone => ?_⟩, fun hcx6 n hq => ?_, fun h => ?_, fun h hphase => ?_,
    fun h hphase hturn => ?_⟩
  · exact completesWork_of_runs h copyWork_tame (runsWork_onRun h rfl (fun _ _ _ => by simp [hnative]) hpure)
  · exact completesWork_of_runs h fillWork_tame (runsWork_onRun h rfl (fun _ _ _ => by simp [hnative]) hpure)
  · exact completesWork_of_runs h gatherWork_tame (runsWork_onRun h rfl (fun _ _ _ => by simp [hnative, post_gatherPool hturn hnone])
      (endSet_undisturbed h.not_bg))
  · subst hq
    refine ⟨fun h => ?_, fun h => ?_, fun h hturn hnone => ?_⟩
    · exact completesWork_of_runs h copyWork_tame (runsWork_onCx6 h hcx6 rfl rfl hpure)
    · exact completesWork_of_runs h fillWork_tame (runsWork_onCx6 h hcx6 rfl rfl hpure)
    · exact completesWork_of_runs h gatherWork_tame (runsWork_onCx6 h hcx6 rfl (post_gatherPool hturn hnone) (endSet_undisturbed h.not_bg))
  · exact completesWork_of_runs h bitwiseWork_tame (runsWork_onRun h rfl (fun _ _ _ => rfl) hpure)
  · exact completesWork_of_runs h matmulWork_tame (runsWork_onRun h rfl (fun _ _ _ => post_matmul h hphase) hpure)
  · exact completesWork_of_runs h (writeRecords_tame _ _) (runsWork_onRun h rfl (fun _ hQ hcarried => post_route h hphase hturn hQ hcarried) hpure)

end Sys2Proof.Machine
end

section
/-! PROOFS. In P3 no stack is read, so a reading of the stacks is not shown (O19). -/

namespace Sys2Proof.Machine

/-- A device in P3 whose stack 0 has failed; its thermal registers hold 0. -/
def failedStackInP3 : State := { dev := { csr := [(A.PWR_STATUS, 3), (A.STK_STATUS 0, 6)] } }

/-- Eight stacks at 50 °C. -/
def mildStacks : List Nat := List.replicate 8 50

/-- The stacks report their temperatures to a device that is not in P3 (R114, R117). -/
theorem failedStackInP3_hides_reading :
    (failedStackInP3.dev.run (stkTempRead mildStacks)).fld (A.STK_STATUS 0) F.STK_STATUS_TEMP = 0 := by
  decide +kernel

/-- Refutes O19: the statement lets a FAILED stack be read in any power state, but P3 lets no stack be read. In P3 the field TEMP of a failed
stack keeps its 0 when a reading finds 50 °C. -/
theorem not_temperatures : ¬ Obligations.Temperatures := by
  intro h
  obtain ⟨t, hexec, htemp, -⟩ := (h.1 failedStackInP3 mildStacks).2 (by decide) (by decide)
  have hdev : t.dev = failedStackInP3.dev.run (stkTempRead mildStacks) := by rw [← Host.Outcome.next.inj hexec]
  have hread := htemp 0 (by decide) (by decide)
  rw [hdev, failedStackInP3_hides_reading] at hread
  exact absurd hread (by decide)

end Sys2Proof.Machine
end

section
/-! PROOFS. A command whose own miss has failed ends as the miss has ended, though its operands translate by now (O55). -/

namespace Sys2Proof.Machine

/-- A FILL of 64 bytes at 0x10000 in context 9, given over the mailbox and in progress, whose own miss for that address has failed. -/
def missedFill : Run :=
  { iss := .mbox, seq := 3, pkt := putLe (putLe (putLe (putLe 0 0 2 Op.fill) 4 1 9) 16 8 0x10000) 24 8 64
    got := [{ key := missKey 9 0x10000, status := Sc.timeout, detail := 0x40 }] }

/-- The context has a segment for the address now, and its stack is READY. -/
def missedFillState : State :=
  { dev := { State.reset.dev with
      csr := [(A.STN_CTX_CFG 9, 0x10001), (A.STN_SEG0 9 0, 0xf), (A.STN_SEG1 9 0, 1), (A.STK_STATUS 0, 3)]
      cmd := { runs := [missedFill] } } }

theorem missedFill_carried : missedFillState.dev.carries .mbox Op.fill missedFill := by
  refine ⟨?_, ?_, ?_, ⟨?_, ?_⟩, ?_, ?_⟩ <;> decide +kernel

/-- The command ends as its miss has ended, whatever the context's segments hold by now (R168). -/
theorem missedFill_fails :
    ((missedFillState.dev.run (onNative Op.fill .mbox fun x => runCpl x fillWork)).runSeq 3).bind (·.cpl) =
      some { status := Sc.timeout, detail := 0x40, result := 0x10000 } := by
  decide +kernel

/-- Refutes O55: the statement asks for a translation of the operands now, but a command keeps the outcomes of its own misses, and an
operand whose miss has failed fails the command. This FILL ends with TIMEOUT and not with OK. -/
theorem not_fillAndCopyOneLine : ¬ Obligations.FillAndCopyOneLine := by
  intro h
  obtain ⟨hfill, -⟩ := h missedFillState .mbox missedFill 0 0 (segOf 0xf 1) (segOf 0xf 1) (by decide +kernel) (by decide +kernel)
    (by decide +kernel) (by decide +kernel) (by decide +kernel) (by decide +kernel) (by decide +kernel) (by decide +kernel)
    (by constructor <;> decide +kernel) (by decide +kernel) (by decide +kernel) rfl rfl
  obtain ⟨t, hexec, -, -, hcompleted⟩ := hfill (.fill .mbox) (.inl ⟨missedFill_carried, by decide +kernel, rfl⟩)
  have hdev : t.dev = missedFillState.dev.run (onNative Op.fill .mbox fun x => runCpl x fillWork) := by
    rw [← Host.Outcome.next.inj hexec]
  rw [hdev] at hcompleted
  exact absurd (missedFill_fails.symm.trans hcompleted) (by decide)

end Sys2Proof.Machine
end

section
/-! PROOFS. A lane repair from its register write to its end (R107, R108; O11). -/

namespace Sys2Proof.Machine

/-! ## Fields of the store's registers, records with room, slices with nothing to do -/

theorem Fld.of_and {f : Fld} {m : Word} (hm : f.of m = 2 ^ f.w - 1) (v : Word) : f.of (v &&& m) = f.of v := by
  apply Nat.eq_of_testBit_eq
  intro i
  have hbit := congrArg (fun k => k.testBit i) hm
  simp only [Fld.of, testBit_bits, Nat.testBit_two_pow_sub_one] at hbit
  simp only [Fld.of, testBit_bits, BitVec.getLsbD_and]
  by_cases hi : i < f.w
  · simp only [hi, decide_true, Bool.true_and] at hbit
    simp [hi, hbit]
  · simp [hi]

/-- A field reads what a write of its whole register stores there. -/
theorem fld_wr {a : Nat} {f : Fld} (h : takesFld a f) (v : Word) (w : Work) : (M.post (wr a v) w).dev.fld a f = f.of v := by
  simp only [post_wr, Work.add_dev, Dev.fld, Upd.csr_reg, h.1, and_self, if_true]
  exact Fld.of_and h.2.2 v

/-- The registers of a stack and of its pseudo-channels store their fields. -/
theorem takesFld_store : ∀ k < 8,
    (∀ f ∈ [F.STK_REPAIR_STAT_RESULT, F.STK_REPAIR_STAT_REASON, F.STK_REPAIR_STAT_PC, F.STK_REPAIR_STAT_PIN],
      takesFld (A.STK_REPAIR_STAT k) f) ∧
    ∀ pc < 64, ∀ f ∈ [F.STK_PC_ERASE_PIN, F.STK_PC_ERASE_ERASED, F.STK_PC_ERASE_SPARED, F.STK_PC_ERASE_SPARE_PIN],
      takesFld (A.STK_PC_ERASE k pc) f := by
  decide +kernel

/-- A source with room holds the record it raises, where the record is not of class FATAL. -/
theorem post_raise_room {code srcInst inst : Nat} {dom : Option Nat} {detail countA addr : Nat} {w : Work} (hclass : (recClass code == 3) = false)
    (hroom : w.dev.hasRoom code srcInst) : M.post (raise code srcInst inst dom detail countA addr) w =
      w.add (.evq { w.dev.evq with held := w.dev.evq.held ++ [heldOf code srcInst inst dom detail countA addr w.dev.now] }) := by
  rw [post_raise _ _ _ _ _ _ _ hclass, post_holdRec, if_neg (Nat.not_le.mpr hroom)]
  rfl

theorem post_serveAll_idle {w : Work} (hwaiting : w.dev.home.waiting = []) (hcalm : w.dev.calm) : M.post serveAll w = w :=
  post_serveAll (by simp [hwaiting, serveList]) hwaiting hcalm

theorem post_reserveCredits_idle {w : Work} (hcredits : w.dev.home.credits = []) : M.post reserveCredits w = w :=
  post_each_of_fixed fun _ _ => by simp [Dev.creditsOut, hcredits, reserveOf]

/-- Where nothing waits at the slices, a repair has no effect on them when it ends. -/
theorem post_endRepair {k : Nat} {w w' : Work} (hpost : M.post (repairDone k) w = w') (hquiet : w'.dev.quiet) :
    M.post (endRepair k) w = w' := by
  obtain ⟨hwaiting, hcredits, hcalm⟩ := hquiet
  simp [endRepair, hpost, post_serveAll_idle hwaiting hcalm, post_reserveCredits_idle hcredits]

/-! ## Start and refusal -/

/-- STK_REPAIR_STAT of a repair that is under way. -/
def repairRunning (pc pin : Nat) : Word := BitVec.ofNat 64 (1 + pc * 16 + pin * 1024)

theorem repairRunning_fields : ∀ pc < 64, ∀ pin < 64, F.STK_REPAIR_STAT_RESULT.of (repairRunning pc pin) = 1 ∧
    F.STK_REPAIR_STAT_PC.of (repairRunning pc pin) = pc ∧ F.STK_REPAIR_STAT_PIN.of (repairRunning pc pin) = pin := by
  decide +kernel

section
variable {d : Dev} {k pc pin : Nat}

theorem post_startRepair (h : d.repairRefusal k pc pin = none) : M.post (startRepair k pc pin) ⟨d, []⟩ =
    (M.post (wr (A.STK_REPAIR_STAT k) (repairRunning pc pin)) ⟨d, []⟩).add
      (.store { d.store with repairs := d.store.repairs ++ [⟨k, pc, pin⟩] }) := by
  simp [startRepair, h, repairRunning]

theorem post_startRepair_refused {why : Nat} (h : d.repairRefusal k pc pin = some why) : M.post (startRepair k pc pin) ⟨d, []⟩ =
    M.post (fset (A.STK_REPAIR_STAT k) F.STK_REPAIR_STAT_REASON why)
      (M.post (fset (A.STK_REPAIR_STAT k) F.STK_REPAIR_STAT_RESULT 3) ⟨d, []⟩) := by
  simp [startRepair, h]

theorem repairRefusal_lt {why : Nat} (h : d.repairRefusal k pc pin = some why) : why < 4 := by
  unfold Dev.repairRefusal at h
  grind

end

theorem startRepair_emits (k pc pin : Nat) : Emits (Foot [.store] (· = A.STK_REPAIR_STAT k)) (startRepair k pc pin) := by
  refine Emits.dev.bind fun d => ?_
  split
  · exact Emits.bind (Emits.fset rfl) fun _ => Emits.fset rfl
  · exact Emits.bind (Emits.wr rfl) fun _ => Emits.modStore (by simp)

theorem laneRepairStartsOrIsRefused : Clause.LaneRepairStartsOrIsRefused := by
  intro s k pc pin
  obtain ⟨hstat, -⟩ := takesFld_store k k.isLt
  refine ⟨fun h => ?_, fun why h => ?_⟩
  · obtain ⟨hresult, hpc, hpin⟩ := repairRunning_fields pc pc.isLt pin pin.isLt
    have hfld : ∀ f ∈ [F.STK_REPAIR_STAT_RESULT, F.STK_REPAIR_STAT_REASON, F.STK_REPAIR_STAT_PC, F.STK_REPAIR_STAT_PIN],
        (M.post (startRepair k pc pin) ⟨s.dev, []⟩).dev.fld (A.STK_REPAIR_STAT k) f = f.of (repairRunning pc pin) := fun f hf => by
      rw [post_startRepair h]
      exact fld_wr (hstat f hf) ..
    refine completes_emits rfl (startRepair_emits k pc pin) rfl ⟨(hfld _ (by simp)).trans hresult, (hfld _ (by simp)).trans hpc,
      (hfld _ (by simp)).trans hpin, by rw [post_startRepair h]; rfl, (startRepair_emits k pc pin).changes_post (Changes.refl ..)⟩
  · have hemits : Emits (Foot [] (· = A.STK_REPAIR_STAT k)) (do
        fset (A.STK_REPAIR_STAT k) F.STK_REPAIR_STAT_RESULT 3
        fset (A.STK_REPAIR_STAT k) F.STK_REPAIR_STAT_REASON why) := Emits.bind (Emits.fset rfl) fun _ => Emits.fset rfl
    have hchanges := hemits.changes_post (w := ⟨s.dev, []⟩) (Changes.refl _ _ s.dev)
    exact completes_emits rfl (startRepair_emits k pc pin) (post_startRepair_refused h)
      ⟨(fld_fset_other (hstat _ (by simp)) (by decide) ..).trans (fld_fset (hstat _ (by simp)) ..),
        (fld_fset (hstat _ (by simp)) ..).trans (Nat.mod_eq_of_lt (repairRefusal_lt h)), hchanges⟩

/-! ## The end -/

/-- The spare lane of a pseudo-channel carries a pin, and an erasure of that pin is cleared. -/
def carrySpare (a pin : Nat) (clears : Bool) : M Unit := do
  on clears (fset a F.STK_PC_ERASE_ERASED 0)
  fset a F.STK_PC_ERASE_SPARED 1
  fset a F.STK_PC_ERASE_SPARE_PIN pin

/-- A repair is over: the stack counts its pins anew and shows the repair's success. -/
def showRepaired (k : Nat) (r : Repair) : M Unit := do
  countPins k
  fset (A.STK_REPAIR_STAT k) F.STK_REPAIR_STAT_RESULT 2
  fset (A.STK_REPAIR_STAT k) F.STK_REPAIR_STAT_REASON 0
  modStore fun x => { x with repairs := x.repairs.erase r }

theorem carrySpare_emits (a pin : Nat) (clears : Bool) : Emits (Foot [] (· = a)) (carrySpare a pin clears) :=
  Emits.bind (Emits.on (Emits.fset rfl)) fun _ => Emits.bind (Emits.fset rfl) fun _ => Emits.fset rfl

theorem countPins_emits (k : Nat) : Emits (Foot [] (· = A.STK_STATUS k)) (countPins k) :=
  Emits.dev.bind fun _ => Emits.bind (Emits.fset rfl) fun _ => Emits.fset rfl

theorem showRepaired_emits (k : Nat) (r : Repair) : Emits (Foot [.store] (· ∈ [A.STK_STATUS k, A.STK_REPAIR_STAT k])) (showRepaired k r) :=
  ((countPins_emits k).mono fun _ => Foot.mono (by simp) (by simp)).bind fun _ =>
    (Emits.fset (by simp)).bind fun _ => (Emits.fset (by simp)).bind fun _ => Emits.modStore (by simp)

theorem carrySpare_fields {k pc pin : Nat} (hk : k < 8) (hpc : pc < 64) (hpin : pin < 64) (clears : Bool) (w : Work) :
    let e := (M.post (carrySpare (A.STK_PC_ERASE k pc) pin clears) w).dev
    e.fld (A.STK_PC_ERASE k pc) F.STK_PC_ERASE_SPARED = 1 ∧ e.fld (A.STK_PC_ERASE k pc) F.STK_PC_ERASE_SPARE_PIN = pin ∧
    e.fld (A.STK_PC_ERASE k pc) F.STK_PC_ERASE_ERASED =
      if clears then 0 else w.dev.fld (A.STK_PC_ERASE k pc) F.STK_PC_ERASE_ERASED := by
  have herase := (takesFld_store k hk).2 pc hpc
  have hspared := herase F.STK_PC_ERASE_SPARED (by simp)
  have herased := herase F.STK_PC_ERASE_ERASED (by simp)
  refine ⟨(fld_fset_other hspared (by decide) ..).trans (fld_fset hspared ..),
    (fld_fset (herase _ (by simp)) ..).trans (Nat.mod_eq_of_lt hpin),
    (fld_fset_other herased (by decide) ..).trans ((fld_fset_other herased (by decide) ..).trans ?_)⟩
  cases clears with
  | true => exact fld_fset herased ..
  | false => rfl

theorem showRepaired_shows {k : Nat} (hk : k < 8) (r : Repair) (w : Work) :
    let e := (M.post (showRepaired k r) w).dev
    e.fld (A.STK_REPAIR_STAT k) F.STK_REPAIR_STAT_RESULT = 2 ∧ e.fld (A.STK_REPAIR_STAT k) F.STK_REPAIR_STAT_REASON = 0 ∧
    e.store = { w.dev.store with repairs := w.dev.store.repairs.erase r } := by
  obtain ⟨hstat, -⟩ := takesFld_store k hk
  have hresult := hstat F.STK_REPAIR_STAT_RESULT (by simp)
  have hstore : (M.post (countPins k) w).dev.store = w.dev.store :=
    ((countPins_emits k).changes_post (Changes.refl _ _ w.dev)).parts .store (by simp)
  obtain ⟨w₁, hw₁⟩ : ∃ x, x = M.post (countPins k) w := ⟨_, rfl⟩
  let w₂ := M.post (fset (A.STK_REPAIR_STAT k) F.STK_REPAIR_STAT_RESULT 2) w₁
  let w₃ := M.post (fset (A.STK_REPAIR_STAT k) F.STK_REPAIR_STAT_REASON 0) w₂
  have hpost : M.post (showRepaired k r) w = w₃.add (.store { w₃.dev.store with repairs := w₃.dev.store.repairs.erase r }) := by
    simp only [showRepaired, post_bind, ← hw₁, post_modStore, w₃, w₂]
  rw [hpost]
  refine ⟨(fld_fset_other hresult (by decide) 0 w₂).trans (fld_fset hresult 2 w₁), fld_fset (hstat _ (by simp)) 0 w₂, ?_⟩
  simp [w₃, w₂, hw₁, hstore]

/-- The registers of a repair that ends. -/
abbrev repairRegs (k pc a : Nat) : Prop := a ∈ [A.STK_PC_ERASE k pc, A.STK_STATUS k, A.STK_REPAIR_STAT k]

theorem repairRegs_ge {k pc a : Nat} (h : repairRegs k pc a) : 0xe0000 ≤ a := by
  simp only [List.mem_cons, List.not_mem_nil, or_false, A.STK_PC_ERASE, A.STK_STATUS, A.STK_REPAIR_STAT] at h
  omega

/-- What a repair that ends does to the store and its registers. -/
def endEffects (k : Nat) (r : Repair) (clears : Bool) : M Unit := do
  carrySpare (A.STK_PC_ERASE k r.pc) r.pin clears
  showRepaired k r

theorem endEffects_emits (k : Nat) (r : Repair) (clears : Bool) : Emits (Foot [.store] (repairRegs k r.pc)) (endEffects k r clears) :=
  ((carrySpare_emits _ _ _).mono fun _ => Foot.mono (by simp) (by simp +contextual)).bind fun _ =>
    (showRepaired_emits k r).mono fun _ => Foot.mono (by simp) fun _ => List.mem_cons_of_mem _

theorem endEffects_shows {k : Nat} (hk : k < 8) {r : Repair} (hpc : r.pc < 64) (hpin : r.pin < 64) (clears : Bool) (w : Work) :
    let e := (M.post (endEffects k r clears) w).dev
    (e.fld (A.STK_PC_ERASE k r.pc) F.STK_PC_ERASE_SPARED = 1 ∧ e.fld (A.STK_PC_ERASE k r.pc) F.STK_PC_ERASE_SPARE_PIN = r.pin ∧
      e.fld (A.STK_PC_ERASE k r.pc) F.STK_PC_ERASE_ERASED =
        if clears then 0 else w.dev.fld (A.STK_PC_ERASE k r.pc) F.STK_PC_ERASE_ERASED) ∧
    e.fld (A.STK_REPAIR_STAT k) F.STK_REPAIR_STAT_RESULT = 2 ∧ e.fld (A.STK_REPAIR_STAT k) F.STK_REPAIR_STAT_REASON = 0 ∧
    e.store = { w.dev.store with repairs := w.dev.store.repairs.erase r } := by
  obtain ⟨w₁, hw₁⟩ : ∃ x, x = M.post (carrySpare (A.STK_PC_ERASE k r.pc) r.pin clears) w := ⟨_, rfl⟩
  have hpost : M.post (endEffects k r clears) w = M.post (showRepaired k r) w₁ := by simp only [endEffects, post_bind, hw₁]
  have hcarried := carrySpare_fields hk hpc hpin clears w
  rw [← hw₁] at hcarried
  have hstore : w₁.dev.store = w.dev.store :=
    hw₁ ▸ ((carrySpare_emits _ _ clears).changes_post (Changes.refl _ _ w.dev)).parts .store (by simp)
  have hkept : ∀ f, (M.post (showRepaired k r) w₁).dev.fld (A.STK_PC_ERASE k r.pc) f = w₁.dev.fld (A.STK_PC_ERASE k r.pc) f :=
    ((showRepaired_emits k r).changes_post (Changes.refl _ _ w₁.dev)).fld (by
      simp only [List.mem_cons, List.not_mem_nil, or_false, A.STK_PC_ERASE, A.STK_STATUS, A.STK_REPAIR_STAT]
      omega)
  rw [hpost]
  simp only [hkept]
  rw [← hstore]
  exact ⟨hcarried, showRepaired_shows hk r w₁⟩

theorem post_repairDone {d : Dev} {k : Nat} {r : Repair} (h : d.store.repairs.find? (fun r => r.stack == k) = some r) :
    M.post (repairDone k) ⟨d, []⟩ = M.post (raise Ev.pinSpared k k none 0 0 (r.pc * 256 + r.pin))
      (M.post (endEffects k r (d.erasedPin k r.pc == some r.pin)) ⟨d, []⟩) := by
  simp only [repairDone, endEffects, showRepaired, carrySpare, post_bind, val_dev, post_dev, h]

theorem post_repairDone_none {d : Dev} {k : Nat} (h : ∀ r ∈ d.store.repairs, r.stack ≠ k) : M.post (repairDone k) ⟨d, []⟩ = ⟨d, []⟩ := by
  have hfind : d.store.repairs.find? (fun r => r.stack == k) = none := List.find?_eq_none.mpr fun r hr => by simpa using h r hr
  simp [repairDone, hfind]

theorem calm_of_touches {parts : List Part} {regs bytes : Nat → Prop} {d e : Dev} (h : Touches parts regs bytes d e)
    (hregs : ∀ q < 4, ¬ regs (A.TLK_VIOL_CFG q)) (hlinks : Part.links ∉ parts) (hcalm : d.calm) : e.calm := by
  have hsame : e.links = d.links := h.parts .links hlinks
  exact calm_of_counts hcalm (fun q hq => h.regs _ (hregs q hq)) fun q => by simp [Dev.link, hsame]

theorem quiet_of_touches {parts : List Part} {regs bytes : Nat → Prop} {d e : Dev} (h : Touches parts regs bytes d e)
    (hregs : ∀ q < 4, ¬ regs (A.TLK_VIOL_CFG q)) (hlinks : Part.links ∉ parts) (hhome : Part.home ∉ parts) (hquiet : d.quiet) : e.quiet := by
  obtain ⟨hwaiting, hcredits, hcalm⟩ := hquiet
  have hsame : e.home = d.home := h.parts .home hhome
  exact ⟨by rw [hsame, hwaiting], by rw [hsame, hcredits], calm_of_touches h hregs hlinks hcalm⟩

/-- The event queues once a source has raised a record that it has room for. -/
def Dev.withHeld (d : Dev) (h : Held) : EvqSt := { d.evq with held := d.evq.held ++ [h] }

/-- A meaning that leaves the event queues and the time alone, and then a record that its source has room for. -/
theorem raised {parts : List Part} {regs : Nat → Prop} {d : Dev} {w : Work} {code srcInst inst : Nat} {dom : Option Nat}
    {detail countA addr : Nat} (hlog : d.replay w.log = w.dev) (hchanges : Changes parts regs d w.dev) (hevq : Part.evq ∉ parts)
    (hnow : Part.now ∉ parts) (hclass : (recClass code == 3) = false) (hroom : d.hasRoom code srcInst) :
    let w' := M.post (raise code srcInst inst dom detail countA addr) w
    d.replay w'.log = w'.dev ∧
    w'.dev = (Upd.evq (d.withHeld (heldOf code srcInst inst dom detail countA addr d.now))).apply w.dev ∧
    Changes (.evq :: parts) regs d w'.dev := by
  have hsame : w.dev.evq = d.evq := hchanges.parts .evq hevq
  have htime : w.dev.now = d.now := hchanges.parts .now hnow
  have hpost : M.post (raise code srcInst inst dom detail countA addr) w =
      w.add (.evq (d.withHeld (heldOf code srcInst inst dom detail countA addr d.now))) := by
    rw [post_raise_room hclass (by rwa [Dev.hasRoom, Dev.holds, hsame]), hsame, htime]
    rfl
  simp only [hpost, Work.add_dev, Work.add_log, Dev.replay_cons, hlog, true_and]
  exact Foot.changes (u := .evq _) (List.mem_cons_self ..) (hchanges.mono (by simp) fun _ => id)

theorem laneRepairEnds : Clause.LaneRepairEnds := by
  intro s k hquiet
  refine ⟨fun h => ?_, fun r h hpc hpin hroom => ?_⟩
  · exact completes_run rfl (post_endRepair (post_repairDone_none h) hquiet) rfl rfl
  · have hemits := endEffects_emits k r (s.dev.erasedPin k r.pc == some r.pin)
    have hshows := endEffects_shows k.isLt hpc hpin (s.dev.erasedPin k r.pc == some r.pin) ⟨s.dev, []⟩
    have hpost := post_repairDone h
    obtain ⟨w₁, hw₁⟩ : ∃ x, x = M.post (endEffects k r (s.dev.erasedPin k r.pc == some r.pin)) ⟨s.dev, []⟩ := ⟨_, rfl⟩
    rw [← hw₁] at hshows hpost
    obtain ⟨⟨hspared, hspare, herased⟩, hresult, hreason, hstore⟩ := hshows
    obtain ⟨hlog, hdev, hchanges⟩ := raised (code := Ev.pinSpared) (inst := k) (dom := none) (detail := 0) (countA := 0)
      (addr := r.pc * 256 + r.pin) (hw₁ ▸ hemits.replay_log rfl) (hw₁ ▸ hemits.changes_post (Changes.refl _ _ s.dev)) (by simp) (by simp) rfl hroom
    obtain ⟨w₂, hw₂⟩ : ∃ x, x = M.post (raise Ev.pinSpared k k none 0 0 (r.pc * 256 + r.pin)) w₁ := ⟨_, rfl⟩
    rw [← hw₂] at hlog hdev hchanges hpost
    have hquiet₂ : w₂.dev.quiet :=
      quiet_of_touches hchanges (fun q hq hreg => by have := repairRegs_ge hreg; simp only [A.TLK_VIOL_CFG] at this; omega) (by simp) (by simp) hquiet
    have hfld : ∀ a f, w₂.dev.fld a f = w₁.dev.fld a f := fun a f => by rw [hdev]; rfl
    refine completes_run rfl (post_endRepair hpost hquiet₂) hlog ⟨(hfld ..).trans hspared, (hfld ..).trans hspare, (hfld ..).trans ?_,
      (hfld ..).trans hresult, (hfld ..).trans hreason, by rw [hdev]; exact hstore, by rw [hdev]; rfl, ?_⟩
    · simpa using herased
    · exact hchanges.mono (by simp) fun _ => id

/-- Settles O11: the start or the refusal of a repair, and its end. -/
theorem laneRepair : Obligations.LaneRepair := ⟨laneRepairStartsOrIsRefused, laneRepairEnds⟩

end Sys2Proof.Machine
end

section
/-! PROOFS. The states of a memory stack: refresh, power-down, training, initialisation and parity errors (R112 to R119; O12). -/

namespace Sys2Proof.Machine

/-! ## Counters and the state of a stack -/

/-- Counting in a register that stores the 32 bits of its count. -/
theorem counts_fadd {a n : Nat} (ha : assigned a = true) (hm : Fld.of ⟨0, 32⟩ (readMask a) = 2 ^ 32 - 1) (w : Work) :
    Counts a n w.dev (M.post (fadd a ⟨0, 32⟩ n) w).dev := by
  have hcount := Dev.fld_csr_put (f := ⟨0, 32⟩) ha (by decide) hm (w.dev.reg a) (min (w.dev.fld a ⟨0, 32⟩ + n) (2 ^ 32 - 1)) w.dev
  exact hcount.trans (Nat.mod_eq_of_lt (Nat.lt_of_le_of_lt (Nat.min_le_right ..) (by decide)))

theorem fld_lt (d : Dev) (a : Nat) (f : Fld) : d.fld a f < 2 ^ f.w := Nat.mod_lt _ (Nat.two_pow_pos _)

theorem counts_none {a : Nat} (d : Dev) : Counts a 0 d d := by
  have hlt : d.fld a ⟨0, 32⟩ < 2 ^ 32 := fld_lt d a ⟨0, 32⟩
  simp only [Counts]
  omega

theorem setStackState_emits (k st : Nat) : Emits (Foot [] (· = A.STK_STATUS k)) (setStackState k st) := Emits.fset rfl

theorem fld_setStackState {k st : Nat} (hk : k < 8) (hst : st < 8) (w : Work) :
    (M.post (setStackState k st) w).dev.fld (A.STK_STATUS k) F.STK_STATUS_STATE = st :=
  (fld_fset (takesFld_stack k hk) ..).trans (Nat.mod_eq_of_lt hst)

/-! ## Refresh and power-down -/

/-- The refresh counters count in 32 bits. -/
theorem rfmCnt_counts : ∀ k < 8, assigned (A.STK_RFM_CNT k) = true ∧ Fld.of ⟨0, 32⟩ (readMask (A.STK_RFM_CNT k)) = 2 ^ 32 - 1 := by
  decide +kernel

theorem refreshBank_emits (k pc bank : Nat) : Emits (Foot [.store] (· = A.STK_RFM_CNT k)) (refreshBank k pc bank) :=
  Emits.dev.bind fun _ => Emits.on (Emits.bind (Emits.modStore (by simp)) fun _ => Emits.on (Emits.fadd rfl))

section
variable {d : Dev} {k pc : Nat}

/-- The store once a bank has been refreshed. -/
def Dev.refreshed (d : Dev) (k pc bank : Nat) : StoreSt :=
  let b := tallyKey k pc bank
  { d.store with lastRef := tset 0 d.store.lastRef b d.now, openRow := tset 0 d.store.openRow b 0,
                 acts := tset 0 d.store.acts b (tget 0 d.store.acts b % max 1 (Config.rfmThreshold k)) }

theorem post_refreshBank (h : d.refreshes k = true) (bank : Nat) :
    let owed := tget 0 d.store.acts (tallyKey k pc bank) / max 1 (Config.rfmThreshold k)
    M.post (refreshBank k pc bank) ⟨d, []⟩ =
      M.post (on (decide (0 < owed)) (fadd (A.STK_RFM_CNT k) ⟨0, 32⟩ owed)) (Work.add ⟨d, []⟩ (.store (d.refreshed k pc bank))) := by
  simp only [refreshBank, post_bind, val_dev, post_dev, h, on_true, post_modStore]
  rfl

theorem post_refreshBank_unrefreshed (h : d.refreshes k = false) (bank : Nat) : M.post (refreshBank k pc bank) ⟨d, []⟩ = ⟨d, []⟩ := by
  simp [refreshBank, h]

theorem refreshBank_counts (hk : k < 8) (h : d.refreshes k = true) (bank : Nat) :
    let e := (M.post (refreshBank k pc bank) ⟨d, []⟩).dev
    e.store = d.refreshed k pc bank ∧
    Counts (A.STK_RFM_CNT k) (tget 0 d.store.acts (tallyKey k pc bank) / max 1 (Config.rfmThreshold k)) d e := by
  obtain ⟨hassigned, hmask⟩ := rfmCnt_counts k hk
  obtain ⟨owed, howed⟩ : ∃ n, n = tget 0 d.store.acts (tallyKey k pc bank) / max 1 (Config.rfmThreshold k) := ⟨_, rfl⟩
  simp only [post_refreshBank h, post_on, ← howed]
  split
  case isTrue => exact ⟨by simp, counts_fadd hassigned hmask (Work.add ⟨d, []⟩ _)⟩
  case isFalse hzero =>
    obtain rfl : owed = 0 := by simpa using hzero
    exact ⟨rfl, counts_none d⟩

theorem pcPowerDown_emits (k pc : Nat) : Emits (Foot [.now, .store] (· = A.STK_STATUS k)) (pcPowerDown k pc) :=
  Emits.dev.bind fun _ => Emits.ite (Emits.bind (Emits.passTo (by simp)) fun _ => Emits.bind (Emits.modStore (by simp)) fun _ =>
    Emits.bind (Emits.look _) fun _ => Emits.on (Emits.fset rfl)) (Emits.pure _)

/-- The work in which a pseudo-channel has just entered power-down, 1 µs after its last access at the earliest. -/
def Work.downed (d : Dev) (key : Nat) : Work :=
  (Work.add ⟨d, []⟩ (.now (tget 0 d.store.lastUse key + 50))).add (.store { d.store with down := key :: d.store.down })

theorem post_pcPowerDown (hpower : d.power = 2) (hready : d.fld (A.STK_STATUS k) F.STK_STATUS_STATE = Ks.ready)
    (hup : k * 64 + pc ∉ d.store.down) : M.post (pcPowerDown k pc) ⟨d, []⟩ =
      M.post (on (decide (64 ≤ (((k * 64 + pc) :: d.store.down).filter fun j => j / 64 == k).length)) (setStackState k Ks.powerDown))
        (Work.downed d (k * 64 + pc)) := by
  have hcond : d.power = 2 ∧ d.fld (A.STK_STATUS k) F.STK_STATUS_STATE = Ks.ready ∧ ¬ d.store.down.contains (k * 64 + pc) :=
    ⟨hpower, hready, by simpa using hup⟩
  simp only [pcPowerDown, post_bind, val_dev, post_dev, if_pos hcond]
  rfl

theorem pcPowerDown_lowers (hk : k < 8) (hpower : d.power = 2) (hready : d.fld (A.STK_STATUS k) F.STK_STATUS_STATE = Ks.ready)
    (hup : k * 64 + pc ∉ d.store.down) :
    let e := (M.post (pcPowerDown k pc) ⟨d, []⟩).dev
    e.now = max d.now (tget 0 d.store.lastUse (k * 64 + pc) + 50) ∧ e.store = { d.store with down := (k * 64 + pc) :: d.store.down } ∧
    e.fld (A.STK_STATUS k) F.STK_STATUS_STATE =
      if 64 ≤ (((k * 64 + pc) :: d.store.down).filter fun j => j / 64 == k).length then Ks.powerDown else Ks.ready := by
  simp only [post_pcPowerDown hpower hready hup, post_on, decide_eq_true_eq]
  split
  · exact ⟨by simp [setStackState, Work.downed], by simp [setStackState, Work.downed], fld_setStackState hk (by decide) _⟩
  · exact ⟨rfl, rfl, hready⟩

theorem post_pcPowerDown_awake (h : d.power ≠ 2) : M.post (pcPowerDown k pc) ⟨d, []⟩ = ⟨d, []⟩ := by
  simp [pcPowerDown, h]

end

theorem refreshAndPowerDown : Clause.RefreshAndPowerDown := by
  intro s k pc bank
  refine ⟨fun h => ?_, fun h => completes_run rfl (post_refreshBank_unrefreshed h _) rfl rfl, fun hpower hready hup => ?_,
    fun h => completes_run rfl (post_pcPowerDown_awake h) rfl rfl⟩
  · have hemits := refreshBank_emits k pc bank
    obtain ⟨hstore, hcounts⟩ := refreshBank_counts (pc := pc) k.isLt h bank
    exact completes_emits rfl hemits rfl ⟨hstore, hcounts, hemits.changes_post (Changes.refl ..)⟩
  · have hemits := pcPowerDown_emits k pc
    obtain ⟨hnow, hstore, hstate⟩ := pcPowerDown_lowers k.isLt hpower hready hup
    exact completes_emits rfl hemits rfl ⟨hnow, hstore, hstate, hemits.changes_post (Changes.refl ..)⟩

/-! ## Training -/

theorem post_stkTrainDone {d : Dev} {k : Nat} (h : d.fld (A.STK_STATUS k) F.STK_STATUS_STATE = Ks.training) (hp3 : d.sys.pwr.p3 ≠ 4) :
    M.post (stkTrainDone k true true) ⟨d, []⟩ = M.post (countPins k) (M.post (setStackState k Ks.init) ⟨d, []⟩) := by
  simp [stkTrainDone, h, hp3]

theorem post_stkTrainDone_ignored {d : Dev} {k : Nat} (h : d.fld (A.STK_STATUS k) F.STK_STATUS_STATE ≠ Ks.training) (trained kat : Bool) :
    M.post (stkTrainDone k trained kat) ⟨d, []⟩ = ⟨d, []⟩ := by
  simp [stkTrainDone, h]

theorem state_countPins {k : Nat} (hk : k < 8) (w : Work) :
    (M.post (countPins k) w).dev.fld (A.STK_STATUS k) F.STK_STATUS_STATE = w.dev.fld (A.STK_STATUS k) F.STK_STATUS_STATE :=
  (fld_fset_other (takesFld_stack k hk) (by decide) ..).trans (fld_fset_other (takesFld_stack k hk) (by decide) ..)

/-- A stack that has trained and passed its test is in INIT, with its pins counted. -/
theorem trained_emits (k : Nat) : Emits (Foot [] (· = A.STK_STATUS k)) (setStackState k Ks.init >>= fun _ => countPins k) :=
  (setStackState_emits k _).bind fun _ => countPins_emits k

/-! ## Initialisation -/

theorem byte_each_wrByte_zero (l : List Host.Cell) (w : Work) (a : Nat) : (M.post (each l fun c => wrByte c.1 0) w).dev.byte a =
    if a < storeEnd ∧ ∃ c ∈ l, c.1 = a then 0 else w.dev.byte a := by
  induction l generalizing w with
  | nil => simp
  | cons c l ih =>
    rw [each_cons, post_bind, ih, wrByte, post_emit, Work.add_dev, byte_mem]
    by_cases ha : c.1 = a
    · subst ha
      by_cases hlt : c.1 < storeEnd <;> simp [hlt]
    · simp [ha, Ne.symm ha]

/-- What STK_INIT_DONE does to a stack in INIT. -/
def initialise (k : Nat) (cells : List Host.Cell) : M Unit := do
  each cells fun c => wrByte c.1 0
  modStore fun s => { s with lines := s.lines.filter (fun e => stackOf (64 * e.1) != k),
                             errs := s.errs.filter fun e => stackOf (64 * e.1) != k }
  setStackState k Ks.ready

theorem post_stkInitDone {d : Dev} {k : Nat} (h : d.fld (A.STK_STATUS k) F.STK_STATUS_STATE = Ks.init) :
    M.post (stkInitDone k) ⟨d, []⟩ = M.post (initialise k (d.mem.filter fun c => stackOf c.1 == k)) ⟨d, []⟩ := by
  simp only [stkInitDone, post_bind, val_dev, post_dev, h, ne_eq, not_true_eq_false, if_false, initialise]

theorem post_stkInitDone_ignored {d : Dev} {k : Nat} (h : d.fld (A.STK_STATUS k) F.STK_STATUS_STATE ≠ Ks.init) :
    M.post (stkInitDone k) ⟨d, []⟩ = ⟨d, []⟩ := by
  simp [stkInitDone, h]

theorem initialise_emits (k : Nat) (cells : List Host.Cell) : Emits (FootMem [.store] (· = A.STK_STATUS k)) (initialise k cells) :=
  (Emits.each fun _ _ => Emits.emit (.inl ⟨_, _, rfl⟩)).bind fun _ => (Emits.footMem (Emits.modStore (by simp))).bind fun _ =>
    Emits.footMem (Emits.fset rfl)

theorem byte_initialise (k : Nat) (cells : List Host.Cell) (w : Work) (a : Nat) :
    (M.post (initialise k cells) w).dev.byte a = if a < storeEnd ∧ ∃ c ∈ cells, c.1 = a then 0 else w.dev.byte a := by
  rw [← byte_each_wrByte_zero]
  simp [initialise, setStackState]

/-- A stored byte of a stack is one of the cells of the stack. -/
theorem mem_cells_of_byte {d : Dev} {a : Nat} (h : d.byte a ≠ 0) : ∃ c ∈ d.mem.filter (fun c => stackOf c.1 == stackOf a), c.1 = a := by
  obtain hzero | hmem := tget_eq_default_or_mem 0 d.mem a
  · exact absurd hzero h
  · exact ⟨_, List.mem_filter.mpr ⟨hmem, by simp⟩, rfl⟩

theorem byte_lt_storeEnd {d : Dev} (hwf : d.wf = true) {a : Nat} (h : d.byte a ≠ 0) : a < storeEnd := by
  obtain hzero | hmem := tget_eq_default_or_mem 0 d.mem a
  · exact absurd hzero h
  · have hcells := ((Memory.wf_iff d.mem).mp (by simp_all [Dev.wf])).2
    exact (hcells _ hmem).1

theorem initialise_clears {d : Dev} {k : Nat} (hwf : d.wf = true) :
    let e := (M.post (initialise k (d.mem.filter fun c => stackOf c.1 == k)) ⟨d, []⟩).dev
    (∀ a, stackOf a = k → e.byte a = 0) ∧ ∀ a, stackOf a ≠ k → e.byte a = d.byte a := by
  simp only [byte_initialise]
  refine ⟨fun a ha => ?_, fun a ha => if_neg fun h => ?_⟩
  · by_cases hbyte : d.byte a = 0
    · simp [hbyte]
    · exact if_pos ⟨byte_lt_storeEnd hwf hbyte, ha ▸ mem_cells_of_byte hbyte⟩
  · obtain ⟨c, hc, rfl⟩ := h.2
    exact ha (by simpa using (List.mem_filter.mp hc).2)

/-! ## Parity errors -/

/-- A record in the format of TOP_FATAL_STICKY has ANY set. -/
theorem any_of_latched (code inst tick : Nat) : F.TOP_FATAL_STICKY_ANY.of
    (BitVec.ofNat 64 (code % 65536 + 2 ^ 16 + 2 ^ 24 + inst % 256 * 2 ^ 32 + tick % 2 ^ 24 * 2 ^ 40)) = 1 := by
  simp only [Fld.of, bits, BitVec.toNat_ofNat, Nat.shiftRight_eq_div_pow]
  omega

theorem latchFatal_any (r : Rec) (w : Work) : (M.post (latchFatal r) w).dev.fld A.TOP_FATAL_STICKY F.TOP_FATAL_STICKY_ANY = 1 := by
  have hany : takesFld A.TOP_FATAL_STICKY F.TOP_FATAL_STICKY_ANY := by decide +kernel
  have hlt := fld_lt w.dev A.TOP_FATAL_STICKY F.TOP_FATAL_STICKY_ANY
  simp only [latchFatal, post_bind, val_fget, post_fget]
  split
  case isTrue => exact (fld_wr hany ..).trans (any_of_latched ..)
  case isFalse hlatched =>
    have hone : w.dev.fld A.TOP_FATAL_STICKY F.TOP_FATAL_STICKY_ANY = 1 := by
      simp only [Nat.pow_one] at hlt
      omega
    exact (Dev.fld_csr_put_other hany.1 hany.2.1 (by decide) hany.2.2 ..).trans hone

/-- What raising a record of class FATAL does where its source has room. -/
theorem post_raise_fatal {code srcInst inst : Nat} {dom : Option Nat} {detail countA addr : Nat} {w : Work} (hclass : (recClass code == 3) = true)
    (hroom : w.dev.hasRoom code srcInst) :
    let w₁ := M.post (latchFatal ⟨code, recClass code, inst, dom, detail, countA, addr, w.dev.now⟩) w
    M.post (raise code srcInst inst dom detail countA addr) w =
      w₁.add (.evq { w.dev.evq with held := w.dev.evq.held ++ [heldOf code srcInst inst dom detail countA addr w.dev.now] }) := by
  intro w₁
  have hlatch : Emits (Foot [] (· = A.TOP_FATAL_STICKY)) (latchFatal ⟨code, recClass code, inst, dom, detail, countA, addr, w.dev.now⟩) :=
    Emits.latchFatal rfl
  have hevq : w₁.dev.evq = w.dev.evq := (hlatch.changes_post (Changes.refl _ _ w.dev)).parts .evq (by simp)
  rw [raise]
  simp only [post_bind, val_now, post_now, hclass, on_true]
  rw [post_holdRec, if_neg (by rw [Dev.holds, hevq]; exact Nat.not_le.mpr hroom), hevq]
  rfl

/-- A stack that fails says so with its reason, and its record latches. -/
theorem failStack_fails {k reason : Nat} (hk : k < 8) {d : Dev} (hroom : d.hasRoom Ev.stkFailed k) :
    let w := M.post (failStack k reason) ⟨d, []⟩
    d.replay w.log = w.dev ∧ w.dev.fld (A.STK_STATUS k) F.STK_STATUS_STATE = Ks.failed ∧
    w.dev.evq.held = d.evq.held ++ [heldOf Ev.stkFailed k k none reason 0 0 d.now] ∧
    w.dev.fld A.TOP_FATAL_STICKY F.TOP_FATAL_STICKY_ANY = 1 ∧
    Changes [.evq] (· ∈ [A.STK_STATUS k, A.TOP_FATAL_STICKY]) d w.dev := by
  let r : Rec := ⟨Ev.stkFailed, recClass Ev.stkFailed, k, none, reason, 0, 0, d.now⟩
  let fails : M Unit := do setStackState k Ks.failed; latchFatal r
  have hfails : Emits (Foot [] (· ∈ [A.STK_STATUS k, A.TOP_FATAL_STICKY])) fails :=
    Emits.bind (Emits.fset (by simp)) fun _ => Emits.latchFatal (by simp)
  have hset := (setStackState_emits k Ks.failed).changes_post (Changes.refl _ _ d) (w := ⟨d, []⟩)
  have hevq : (M.post (setStackState k Ks.failed) ⟨d, []⟩).dev.evq = d.evq := hset.parts .evq (by simp)
  have hnow : (M.post (setStackState k Ks.failed) ⟨d, []⟩).dev.now = d.now := hset.parts .now (by simp)
  have hpost : M.post (failStack k reason) ⟨d, []⟩ =
      (M.post fails ⟨d, []⟩).add (.evq { d.evq with held := d.evq.held ++ [heldOf Ev.stkFailed k k none reason 0 0 d.now] }) := by
    rw [failStack, post_bind, post_raise_fatal rfl (by rwa [Dev.hasRoom, Dev.holds, hevq]), hevq, hnow]
    rfl
  have hchanges : Changes [.evq] (· ∈ [A.STK_STATUS k, A.TOP_FATAL_STICKY]) d (M.post fails ⟨d, []⟩).dev :=
    (hfails.changes_post (w := ⟨d, []⟩) (Changes.refl ..)).mono (by simp) fun _ => id
  have hstate : (M.post fails ⟨d, []⟩).dev.fld (A.STK_STATUS k) F.STK_STATUS_STATE = Ks.failed :=
    ((Emits.latchFatal (regs := (· = A.TOP_FATAL_STICKY)) (parts := []) rfl).changes_post (Changes.refl _ _ _)).fld
      (by simp only [A.STK_STATUS, A.TOP_FATAL_STICKY]; omega) _ |>.trans (fld_setStackState hk (by decide) _)
  simp only [hpost]
  exact ⟨by simp [hfails.replay_log (w := ⟨d, []⟩) rfl], hstate, rfl, latchFatal_any r _, Foot.changes (u := .evq _) (by simp [Foot]) hchanges⟩

theorem post_parityError {d : Dev} {k : Nat} {w : Work} (hpost : M.post (failStack k 2) ⟨d, []⟩ = w) (hwaiting : w.dev.home.waiting = [])
    (hcalm : w.dev.calm) (hjobs : ∀ j ∈ w.dev.dom.jobs, j.taken = false) : M.post (parityError k true) ⟨d, []⟩ = w := by
  have hnone : w.dev.dom.jobs.find? (·.taken) = none := List.find?_eq_none.mpr fun j hj => by simp [hjobs j hj]
  simp [parityError, hpost, post_serveAll_idle hwaiting hcalm, stackFailedEnds, hnone]

theorem stackTrainsAndInitialises : Clause.StackTrainsAndInitialises := by
  intro s k
  refine ⟨fun h hp3 => ?_, fun h hwf => ?_, completes_run rfl rfl rfl rfl, fun hwaiting hcalm hjobs hroom => ?_,
    fun h trained kat => completes_run rfl (post_stkTrainDone_ignored h trained kat) rfl rfl,
    fun h => completes_run rfl (post_stkInitDone_ignored h) rfl rfl⟩
  · refine completes_run rfl (post_stkTrainDone h hp3) ((trained_emits k).replay_log (w := ⟨s.dev, []⟩) rfl)
      ⟨(state_countPins k.isLt _).trans (fld_setStackState k.isLt (by decide) _), (trained_emits k).changes_post (w := ⟨s.dev, []⟩) (Changes.refl ..)⟩
  · obtain ⟨hzero, hkept⟩ := initialise_clears (k := k) hwf
    have hemits := initialise_emits k (s.dev.mem.filter fun c => stackOf c.1 == k)
    have htouches := hemits.touches_post ⟨s.dev, []⟩
    exact completes_run rfl (post_stkInitDone h) (hemits.replay_log rfl)
      ⟨fld_setStackState k.isLt (by decide) _, hzero, htouches.parts, htouches.regs, hkept⟩
  · obtain ⟨hlog, hstate, hheld, hany, hchanges⟩ := failStack_fails (reason := 2) k.isLt hroom
    have hhome : (M.post (failStack k 2) ⟨s.dev, []⟩).dev.home = s.dev.home := hchanges.parts .home (by simp)
    have hdom : (M.post (failStack k 2) ⟨s.dev, []⟩).dev.dom = s.dev.dom := hchanges.parts .dom (by simp)
    have hcalm' := calm_of_touches hchanges (fun q hq hreg => by
      simp only [List.mem_cons, List.not_mem_nil, or_false, A.STK_STATUS, A.TOP_FATAL_STICKY, A.TLK_VIOL_CFG] at hreg
      omega) (by simp) hcalm
    exact completes_run rfl (post_parityError rfl (by rw [hhome, hwaiting]) hcalm' (by rwa [hdom])) hlog ⟨hstate, hheld, hany, hchanges⟩

/-- Settles O12: the refresh and power-down of a stack, and its training, initialisation and failure. -/
theorem stackStates : Obligations.StackStates := ⟨refreshAndPowerDown, stackTrainsAndInitialises⟩

end Sys2Proof.Machine
end

section
/-! PROOFS. A request of one line that no one hears of: how its slice orders it and what becomes of its group; HOME_WRITE (R105, R228; O13). -/

namespace Sys2Proof.Machine

/-! ## The request and its group -/

/-- The request of a group of one line that no one hears of. -/
def HomeSt.lone (h : HomeSt) (op : HOp) (n : Nat) (dom cls : Option Nat) : HReq := ⟨h.nextGrp, 0, .nowhere, op, n, dom, cls⟩

/-- The work in which the group of a request has been opened and the request handed to its slice, at which nothing else waits. -/
def Work.handed (w : Work) (r : HReq) : Work :=
  w.add (.home { w.dev.home with nextGrp := r.grp + 1, groups := [⟨r.grp, r.src, 1, []⟩] }) |>.add
    (.home { w.dev.home with nextGrp := r.grp + 1, groups := [⟨r.grp, r.src, 1, []⟩], waiting := [r] })

/-- The work in which a request has been answered and no one hears of it. -/
def Work.answered (w : Work) : Work :=
  w.add (.home { w.dev.home with waiting := [] }) |>.add (.home { w.dev.home with waiting := [], groups := [] })

theorem val_openGroup_one {op : HOp} {n : Nat} {dom cls : Option Nat} {w : Work} :
    M.val (openGroup .nowhere [op] n dom cls) w = [w.dev.home.lone op n dom cls] := by
  simp [openGroup, HomeSt.lone]

section
variable {w : Work} {op : HOp} {n : Nat} {dom cls : Option Nat}

/-- A request that its slice orders at once is answered, and its group ends. -/
theorem post_serveList_lone {r : HReq} {w w₁ : Work} {a : HAns} (hsrc : r.src = .nowhere) (hval : M.val (tryReq r) w = some a)
    (hpost : M.post (tryReq r) w = w₁) (hwaiting : w₁.dev.home.waiting = [r])
    (hgroups : w₁.dev.home.groups = [⟨r.grp, .nowhere, 1, []⟩]) : M.post (serveList [r] [] []) w = w₁.answered := by
  simp [serveList, HReq.issuer, hsrc, hval, hpost, hwaiting, hgroups, giveAnswer, finishGroup, Work.answered]

/-- A request of one line that its slice orders at once, from the opening of its group to its end. -/
theorem post_submit_lone {w₁ : Work} {a : HAns} (hwaiting : w.dev.home.waiting = []) (hgroups : w.dev.home.groups = [])
    (hval : M.val (tryReq (w.dev.home.lone op n dom cls)) (w.handed (w.dev.home.lone op n dom cls)) = some a)
    (hpost : M.post (tryReq (w.dev.home.lone op n dom cls)) (w.handed (w.dev.home.lone op n dom cls)) = w₁)
    (hwaiting₁ : w₁.dev.home.waiting = [w.dev.home.lone op n dom cls])
    (hgroups₁ : w₁.dev.home.groups = [⟨w.dev.home.nextGrp, .nowhere, 1, []⟩]) (hcalm : w₁.dev.calm) :
    M.post (openGroup .nowhere [op] n dom cls >>= submit) w = w₁.answered := by
  have hopen : M.post (modHome fun h => { h with waiting := h.waiting ++ [w.dev.home.lone op n dom cls] })
      (M.post (openGroup .nowhere [op] n dom cls) w) = w.handed (w.dev.home.lone op n dom cls) := by
    simp [openGroup, hwaiting, hgroups, Work.handed, HomeSt.lone]
  rw [post_bind, val_openGroup_one, submit, post_bind, hopen]
  refine post_serveAll (post_serveList_lone rfl hval hpost hwaiting₁ hgroups₁) rfl ?_
  exact calm_of_counts hcalm (fun _ _ => rfl) fun _ => ⟨rfl, rfl⟩

end

/-! ## The slice orders a request that nothing stands before -/

/-- Nothing stands between a request and its line before the line is read. -/
structure Dev.clear (d : Dev) (r : HReq) : Prop where
  allowed : d.refusal (64 * r.line) r.dom r.cls = none
  serves : d.stackServes (stackOf (64 * r.line)) = true
  unrepaired : d.repairing (64 * r.line) = false
  snoops : d.home.snoops.any (·.line == r.line) = false
  writes : r.op.writes = true → d.published r.line = false ∧ (d.ownRec (regionOf r.line)).st ≠ 1

/-- Once the line's directory state is read, a request has no port to snoop and no room to find in the directory cache. -/
structure Dev.settledFor (d : Dev) (r : HReq) : Prop where
  group : d.groupViolates r = false
  need : d.snoopsFor r = some []
  inv : d.mustClear r = false
  snoops : d.home.snoops.any (·.line == r.line) = false
  entry : r.op = .rdE ∨ ∃ mask v pc, r.op = .wr mask v pc

/-- The read of the line that a request makes before it is ordered. -/
def readLineOf (r : HReq) : M Unit := do
  touchLine r.line
  on r.op.readsLine (settleRead (some r.who) r.line false)

/-- A request that nothing stands before is ordered at once. -/
theorem tryReq_clear {r : HReq} {w w₁ w₂ w₃ : Work} {a : HAns} (h : w.dev.clear r) (hdir : M.post (readDir r) w = w₁)
    (h₁ : w₁.dev.settledFor r) (hread : M.post (readLineOf r) w₁ = w₂) (h₂ : w₂.dev.home.snoops.any (·.line == r.line) = false)
    (happlied : M.val (applyReq r) w₂ = a) (hpost : M.post (applyReq r) w₂ = w₃) :
    M.val (tryReq r) w = some { M.val (foundAnswer r a) w₃ with idx := r.idx } ∧
    M.post (tryReq r) w = M.post (modHome fun h => { h with inv := h.inv.erase (r.who, r.line) }) (M.post (foundAnswer r a) w₃) := by
  have hcheck : M.val (checkAccess (64 * r.line) r.dom r.cls) w = none ∧ M.post (checkAccess (64 * r.line) r.dom r.cls) w = w := by
    simp [checkAccess, h.allowed]
  have hpublished : (r.op.writes && w.dev.published r.line) = false := by
    cases hw : r.op.writes <;> simp [h.writes, hw]
  have htransfer : (r.op.writes && (w.dev.ownRec (regionOf r.line)).st == 1) = false := by
    cases hw : r.op.writes <;> simp [h.writes, hw]
  have hextra : w₁.dev.poisonSnoops r = [] := by simp [Dev.poisonSnoops, h₁.inv]
  have hread' : M.post (on r.op.readsLine (settleRead (some r.who) r.line false)) (M.post (touchLine r.line) w₁) = w₂ := hread
  unfold tryReq
  obtain hop | ⟨mask, v, pc, hop⟩ := h₁.entry <;> rw [hop] at hpublished htransfer hread' <;>
    simp only [val_bind, post_bind, hcheck, val_dev, post_dev, h.snoops, h.serves, h.unrepaired, hpublished, htransfer, hdir, h₁.group, h₁.need,
      h₁.inv, hextra, h₁.snoops, hread', h₂, happlied, hpost, hop, val_pure, post_pure, on_false, each_nil, Bool.not_true, Bool.false_and,
      Bool.false_eq_true, if_false, List.filter_nil, and_self]

/-! ## What ordering a write touches -/

/-- What a write of a line may change beside the bytes: its stack's state and count of encrypted lines. -/
abbrev writeRegs (n a : Nat) : Prop := a ∈ [A.STK_STATUS (stackOf (64 * n)), A.RIND_ENC_CNT (stackOf (64 * n))]

/-- What ordering a write of a line leaves as it was, the groups of the requests with it. -/
structure Written (n : Nat) (d e : Dev) : Prop where
  touches : Touches [.home, .store, .fab] (writeRegs n) (fun _ => True) d e
  groups : e.home.groups = d.home.groups

section
variable {n : Nat}

theorem Written.trans {d e f : Dev} (h : Written n d e) (g : Written n e f) : Written n d f :=
  ⟨h.touches.trans g.touches, g.groups.trans h.groups⟩

theorem Written.refl (d : Dev) : Written n d d := ⟨⟨fun p _ => by cases p <;> rfl, fun _ _ => rfl, fun _ _ => rfl⟩, rfl⟩

theorem Written.of_emits {m : M Unit} {parts : List Part} {w : Work} (hm : Emits (FootMem parts (writeRegs n)) m)
    (hparts : parts ⊆ [.home, .store, .fab]) (hgroups : (M.post m w).dev.home.groups = w.dev.home.groups) : Written n w.dev (M.post m w).dev :=
  ⟨(hm.mono fun _ hu => hu.imp id fun hu => hu.mono hparts fun _ h => h).touches_post w, hgroups⟩

/-- A meaning that leaves the slices alone. -/
theorem Written.of_apart {m : M Unit} {parts : List Part} (hm : Emits (FootMem parts (writeRegs n)) m) (hparts : parts ⊆ [.store, .fab]) (w : Work) :
    Written n w.dev (M.post m w).dev := by
  have hhome : (M.post m w).dev.home = w.dev.home := (hm.touches_post w).parts .home fun h => by simpa using hparts h
  exact Written.of_emits hm (fun p hp => List.mem_cons_of_mem _ (hparts hp)) (by rw [hhome])

theorem touchLine_stack (n : Nat) : Emits (Foot [.store] (· = A.STK_STATUS (stackOf (64 * n)))) (touchLine n) :=
  Emits.dev.bind fun _ => Emits.bind (Emits.modStore (by simp)) fun _ => Emits.on (Emits.fset rfl)

theorem countRind_stack (enc : Bool) (n : Nat) :
    Emits (Foot [] (· = if enc then A.RIND_ENC_CNT (stackOf (64 * n)) else A.RIND_DEC_CNT (stackOf (64 * n)))) (countRind enc n) :=
  Emits.dev.bind fun _ => Emits.on (Emits.bump48 rfl)

theorem touchLine_written (n : Nat) (w : Work) : Written n w.dev (M.post (touchLine n) w).dev :=
  Written.of_apart ((touchLine_stack n).mono fun _ hu => .inr (hu.mono (List.Subset.refl _) (by simp +contextual))) (by simp) w

theorem putLine_written (n : Nat) (v : Line) (w : Work) : Written n w.dev (M.post (putLine n v 0) w).dev := by
  refine Written.of_apart (parts := [.store]) ((Emits.look _).bind fun m => (Emits.footMem (Emits.modStore (by simp))).bind fun _ =>
    (wrBytes_emits _ _).bind fun _ => (Emits.footMem (Emits.wrMeta (by simp))).bind fun _ =>
    Emits.bind ((countRind_stack true n).mono fun _ hu => .inr (hu.mono (by simp) (by simp +contextual))) fun _ => Emits.pure ()) (by simp) w

theorem markDirty_written (n : Nat) (w : Work) : Written n w.dev (M.post (markDirty n) w).dev :=
  Written.of_apart ((markDirty_emits n).mono fun _ hu => .inr (hu.mono (List.Subset.refl _) fun _ h => h.elim)) (by simp) w

theorem writeDir_written (n : Nat) (w : Work) : Written n w.dev (M.post (writeDir n 0 0) w).dev :=
  Written.of_emits ((writeDir_emits n 0 0).mono fun _ hu => .inr (hu.mono (List.Subset.refl _) fun _ h => h.elim)) (by simp) (by
    rw [post_writeDir_invalid]; simp [setDir])

theorem modHome_written {f : HomeSt → HomeSt} (hf : ∀ x, (f x).groups = x.groups) (w : Work) : Written n w.dev (M.post (modHome f) w).dev :=
  Written.of_emits (parts := [.home]) (Emits.footMem (Emits.modHome (by simp))) (by simp) (hf _)

end

section
variable {w : Work} {r : HReq} {mask : BitVec 64} {v : Line}

theorem writeDone_written (r : HReq) (mask : BitVec 64) (v : Line) (w : Work) : Written r.line w.dev (writeDone r mask v w).dev :=
  (putLine_written ..).trans ((markDirty_written ..).trans (writeDir_written ..))

theorem foundAnswer_written (n : Nat) (a : HAns) (w : Work) : Written n w.dev (M.post (foundAnswer r a) w).dev := by
  simp only [foundAnswer, post_bind, val_dev, post_dev, post_ite]
  split
  · exact modHome_written (f := fun h => { h with found := h.found.erase (r.who, r.line) }) (fun _ => rfl) w
  · exact Written.refl _

theorem readDir_written (h : w.dev.errsAt r.line = []) : Written r.line w.dev (M.post (readDir r) w).dev := by
  have hsettle : M.post (settleRead (some r.who) r.line false) (M.post (touchLine r.line) w) = M.post (touchLine r.line) w :=
    post_settleRead_sound ((touchLine_steady r.line w).errs _ h) ..
  simp only [readDir, post_bind, val_dev, post_dev, post_on, hsettle]
  split
  · exact touchLine_written ..
  · exact Written.refl _

/-! ## A write that no one hears of -/

theorem clear_of_writable {d : Dev} (h : d.writable r.line r.dom r.cls) : d.clear r :=
  ⟨h.allowed, h.serves, h.unrepaired, by simp [h.snoops], fun _ => ⟨h.unpublished, h.atHome⟩⟩

theorem settledFor_of_writable {d : Dev} (h : d.writable r.line r.dom r.cls) (hsrc : r.src = .nowhere) (hop : r.op = .wr mask v 0) :
    d.settledFor r :=
  ⟨by simp [Dev.groupViolates, hsrc], by simp [Dev.snoopsFor, h.unheld, hop, hsrc, Src.port], by simp [Dev.mustClear, h.sound], by simp [h.snoops],
    .inr ⟨_, _, _, hop⟩⟩

/-- The slice orders a write that nothing stands before, and nothing but its line changes (R105, R228). -/
theorem tryReq_write_lone (h : w.dev.writable r.line r.dom r.cls) (hsrc : r.src = .nowhere) (hop : r.op = .wr mask v 0) :
    (∃ a, M.val (tryReq r) w = some a) ∧ Ordered w.dev (M.post (tryReq r) w).dev ∧ Written r.line w.dev (M.post (tryReq r) w).dev ∧
    ∀ a, (M.post (tryReq r) w).dev.byte a =
      if r.line = a / 64 ∧ mask.getLsbD (a % 64) = true then byteOf v (a % 64) else w.dev.byte a := by
  have hin : 64 * r.line < storeEnd := by
    have hallowed := h.allowed
    by_contra hout
    simp [Dev.refusal, Nat.not_lt.mp hout] at hallowed
  obtain ⟨w₁, hw₁⟩ : ∃ x, x = M.post (readDir r) w := ⟨_, rfl⟩
  obtain ⟨w₂, hw₂⟩ : ∃ x, x = M.post (touchLine r.line) w₁ := ⟨_, rfl⟩
  obtain ⟨hord₁, hbyte₁⟩ : Ordered w.dev w₁.dev ∧ ∀ a, w₁.dev.byte a = w.dev.byte a := hw₁ ▸ readDir_ordered h.errs
  have hord₂ : Ordered w₁.dev w₂.dev := hw₂ ▸ touchLine_ordered r.line w₁
  have h₁ := h.steady hord₁.steady
  have h₂ := h₁.steady hord₂.steady
  have hread : M.post (readLineOf r) w₁ = w₂ := by
    simp only [readLineOf, post_bind, ← hw₂, post_on, post_settleRead_sound h₂.errs, ite_self]
  obtain ⟨happlied, hdone⟩ := applyReq_write h₂ hop
  obtain ⟨hval, hpost⟩ := tryReq_clear (clear_of_writable h) hw₁.symm (settledFor_of_writable h₁ hsrc hop) hread (by simp [h₂.snoops]) happlied hdone
  obtain ⟨w₃, hw₃⟩ : ∃ x, x = M.post (foundAnswer r { idx := 0 }) (writeDone r mask v w₂) := ⟨_, rfl⟩
  obtain ⟨hord₃, hbyte₃⟩ := foundAnswer_ordered (r := r) { idx := 0 } (writeDone r mask v w₂)
  have hwritten₃ := foundAnswer_written (r := r) r.line { idx := 0 } (writeDone r mask v w₂)
  rw [← hw₃] at hord₃ hbyte₃ hwritten₃ hpost
  have hordInv := modHome_ordered (f := fun h => { h with inv := h.inv.erase (r.who, r.line) }) (fun _ => ⟨rfl, rfl, rfl⟩) w₃
  have hwrittenInv := modHome_written (n := r.line) (f := fun h => { h with inv := h.inv.erase (r.who, r.line) }) (fun _ => rfl) w₃
  rw [hpost]
  refine ⟨⟨_, hval⟩, hord₁.trans (hord₂.trans ((writeDone_ordered ..).trans (hord₃.trans hordInv))), ?_, fun a => ?_⟩
  · have hwritten₁ : Written r.line w.dev w₁.dev := hw₁ ▸ readDir_written h.errs
    have hwritten₂ : Written r.line w₁.dev w₂.dev := hw₂ ▸ touchLine_written r.line w₁
    exact hwritten₁.trans (hwritten₂.trans ((writeDone_written ..).trans (hwritten₃.trans hwrittenInv)))
  · calc w₃.dev.byte a = (writeDone r mask v w₂).dev.byte a := hbyte₃ a
      _ = if r.line = a / 64 ∧ mask.getLsbD (a % 64) = true then byteOf v (a % 64) else w₂.dev.byte a := byte_writeDone hin a
      _ = _ := by rw [hw₂, byte_touchLine, hbyte₁]

end

/-! ## From the row to the slice and back -/

theorem submit_lone_logged {op : HOp} {n : Nat} {dom cls : Option Nat} :
    Emits (fun _ => True) (openGroup .nowhere [op] n dom cls >>= submit) :=
  (openGroup_aside.mono fun _ _ => trivial).bind fun l => submit_logged l

theorem handed_steady (w : Work) (r : HReq) : Steady w.dev (w.handed r).dev :=
  Steady.of_same (fun _ _ => rfl) (fun _ _ => rfl) rfl rfl rfl rfl rfl rfl rfl fun _ h => h

theorem handed_touches {parts : List Part} {regs bytes : Nat → Prop} (w : Work) (r : HReq) (h : Part.home ∈ parts) :
    Touches parts regs bytes w.dev (w.handed r).dev :=
  ⟨fun p hp => by cases p with | home => exact absurd h hp | _ => rfl, fun _ _ => rfl, fun _ _ => rfl⟩

theorem answered_touches {parts : List Part} {regs bytes : Nat → Prop} (w : Work) (h : Part.home ∈ parts) :
    Touches parts regs bytes w.dev w.answered.dev :=
  ⟨fun p hp => by cases p with | home => exact absurd h hp | _ => rfl, fun _ _ => rfl, fun _ _ => rfl⟩

/-- Settles O13: the slice orders the write at once, which nothing stands before, and its group ends unheard. -/
theorem homeWriteStores : Obligations.HomeWriteStores := by
  intro s offset domain cls mask data n hoffset hfree hgroups hdir hallowed
  obtain ⟨r, hr⟩ : ∃ r, r = s.dev.home.lone (.wr mask data 0) n (some domain.val) (cls.map b2n) := ⟨_, rfl⟩
  obtain ⟨w, hw⟩ : ∃ w, w = Work.handed ⟨s.dev, []⟩ r := ⟨_, rfl⟩
  have hsteady : Steady s.dev w.dev := hw ▸ handed_steady ⟨s.dev, []⟩ r
  have hwritable : w.dev.writable r.line r.dom r.cls := hr ▸ (writable_of_lineFree hfree hallowed hdir).steady hsteady
  obtain ⟨⟨a, hval⟩, hord, hwritten, hbyte⟩ := tryReq_write_lone hwritable (by rw [hr]; rfl) (by rw [hr]; rfl)
  obtain ⟨w₁, hw₁⟩ : ∃ x, x = M.post (tryReq r) w := ⟨_, rfl⟩
  rw [← hw₁] at hord hwritten hbyte
  have hpost : M.post (openGroup .nowhere [.wr mask data 0] n (some domain.val) (cls.map b2n) >>= submit) ⟨s.dev, []⟩ = w₁.answered := by
    subst hr hw
    exact post_submit_lone hfree.waiting hgroups hval hw₁.symm hord.waiting hwritten.groups (calm_steady hfree.calm (hsteady.trans hord.steady))
  have htouches : Touches [.home, .store, .fab] (writeRegs n) (· / 64 = n) s.dev w₁.answered.dev := by
    have hline : Touches [.home, .store, .fab] (writeRegs n) (· / 64 = n) w.dev w₁.dev :=
      ⟨hwritten.touches.parts, fun b hb => hwritten.touches.regs b (by rwa [hr]),
        fun b hb => (hbyte b).trans (if_neg fun h => hb (by rw [← h.1, hr]; rfl))⟩
    exact (hw ▸ handed_touches ⟨s.dev, []⟩ r (by simp) : Touches _ _ _ s.dev w.dev).trans (hline.trans (answered_touches w₁ (by simp)))
  have hlog : s.dev.replay w₁.answered.log = w₁.answered.dev := by
    rw [← hpost]
    exact submit_lone_logged.replay_log rfl
  have hkept := hsteady.trans hord.steady
  refine completes_runIf (e := w₁.answered.dev) rfl (by simpa using hoffset) hpost hlog
    ⟨fun i hi => ?_, hkept.sound n hfree.sound, hkept.unheld n hdir, rfl, htouches⟩
  have hsame : s.dev.byte (64 * n + i) = w.dev.byte (64 * n + i) := by rw [hw]; rfl
  have hdiv : (64 * n + i) / 64 = n := by omega
  have hmod : (64 * n + i) % 64 = i := by omega
  have hline : r.line = n := by rw [hr]; rfl
  refine (hbyte (64 * n + i)).trans ?_
  simp only [hdiv, hmod, hline, true_and, hsame]

end Sys2Proof.Machine
end

section
/-! PROOFS. What reading a line leaves of the store and of the slices (R100 to R106). -/

namespace Sys2Proof.Machine

/-- The registers of a read of a line beside the counters of corrected and uncorrectable reads and of on-die corrections. -/
def readRegs (n a : Nat) : Prop :=
  let k := stackOf (64 * n)
  let pc := pcOf (64 * n)
  a ∈ [A.STK_STATUS k, A.STK_ERASE_CNT k, A.STK_LAST_ERR k, A.STK_REPAIR_STAT k, A.RIND_DEC_CNT k, A.STK_PC_ERASE k pc, A.STK_PC_CE_CNT k pc] ∨
    recordRegs a

/-- What a read, which may change more parts than the store and the slices, leaves as it was: the bytes and the metadata of every line, and the
requests, the groups, the snoops and the directory of the slices; no line that holds no symbol error comes to hold one. -/
structure Reading (more : List Part) (regs : Nat → Prop) (d e : Dev) : Prop where
  changes : Changes (.store :: .home :: more) regs d e
  lines : e.store.lines = d.store.lines
  keys : e.store.keys = d.store.keys
  errs : ∀ m, d.errsAt m = [] → e.errsAt m = []
  waiting : e.home.waiting = d.home.waiting
  groups : e.home.groups = d.home.groups
  snoops : e.home.snoops = d.home.snoops
  dc : e.home.dc = d.home.dc

section
variable {more : List Part} {regs : Nat → Prop} {d e f : Dev}

theorem Reading.refl (more : List Part) (regs : Nat → Prop) (d : Dev) : Reading more regs d d :=
  ⟨Changes.refl .., rfl, rfl, fun _ h => h, rfl, rfl, rfl, rfl⟩

theorem Reading.trans (h : Reading more regs d e) (g : Reading more regs e f) : Reading more regs d f where
  changes := h.changes.trans g.changes
  lines := g.lines.trans h.lines
  keys := g.keys.trans h.keys
  errs m hm := g.errs m (h.errs m hm)
  waiting := g.waiting.trans h.waiting
  groups := g.groups.trans h.groups
  snoops := g.snoops.trans h.snoops
  dc := g.dc.trans h.dc

theorem Reading.mono {regs' : Nat → Prop} (h : Reading more regs d e) (hregs : ∀ a, regs a → regs' a) : Reading more regs' d e :=
  { h with changes := h.changes.mono (List.Subset.refl _) hregs }

/-- What changes neither the store's own state nor the slices'. -/
theorem Reading.of_changes {parts : List Part} (h : Changes parts regs d e) (hevq : parts ⊆ [.evq]) (hparts : parts ⊆ more) :
    Reading more regs d e := by
  have hstore : e.store = d.store := h.parts .store fun hin => by simpa using hevq hin
  have hhome : e.home = d.home := h.parts .home fun hin => by simpa using hevq hin
  exact ⟨h.mono (fun p hp => List.mem_cons_of_mem _ (List.mem_cons_of_mem _ (hparts hp))) fun _ => id, by rw [hstore], by rw [hstore],
    fun m hm => by rwa [Dev.errsAt, hstore], by rw [hhome], by rw [hhome], by rw [hhome], by rw [hhome]⟩

end

section
variable {α : Type} {more : List Part} {regs : Nat → Prop} {d : Dev}

/-- A meaning whose footprint leaves the store's own state and the slices alone. -/
theorem Emits.reads {parts : List Part} {regs' : Nat → Prop} {m : M α} (hm : Emits (Foot parts regs') m) (hevq : parts ⊆ [.evq])
    (hparts : parts ⊆ more) (hregs : ∀ a, regs' a → regs a) : Upholds (Reading more regs d) m :=
  Upholds.of_emits hm fun _ hu _ h =>
    h.trans (Reading.of_changes (Foot.changes (hu.mono (List.Subset.refl _) hregs) (Changes.refl parts regs _)) hevq hparts)

theorem dev_reads : Upholds (Reading more regs d) dev :=
  Emits.reads (parts := []) (regs' := noReg) Emits.dev (by simp) (by simp) fun _ h => h.elim
theorem pure_reads {a : α} : Upholds (Reading more regs d) (pure a) := Upholds.pure a
theorem fset_reads {a : Nat} {f : Fld} {x : Nat} (h : regs a) : Upholds (Reading more regs d) (fset a f x) :=
  Emits.reads (parts := []) (regs' := regs) (Emits.fset h) (by simp) (by simp) fun _ => id
theorem wr_reads {a : Nat} {v : Word} (h : regs a) : Upholds (Reading more regs d) (wr a v) :=
  Emits.reads (parts := []) (regs' := regs) (Emits.wr h) (by simp) (by simp) fun _ => id
theorem bump_reads {a : Nat} (h : regs a) : Upholds (Reading more regs d) (bump a) :=
  Emits.reads (parts := []) (regs' := regs) (Emits.bump h) (by simp) (by simp) fun _ => id

theorem raise_reads {code srcInst inst : Nat} {dom : Option Nat} {detail countA addr : Nat} (h : ∀ a, recordRegs a → regs a) :
    Upholds (Reading [.evq] regs d) (raise code srcInst inst dom detail countA addr) :=
  Emits.reads (parts := [.evq]) (regs' := recordRegs) (Emits.raise (by simp) (.inl rfl) (.inr ⟨_, rfl⟩)) (by simp) (by simp) h

/-- A change of the store's own state that leaves the lines and the keys, and no more symbol errors than before. -/
theorem modStore_reads {f : StoreSt → StoreSt}
    (hf : ∀ x, (f x).lines = x.lines ∧ (f x).keys = x.keys ∧ ∀ m, tget [] x.errs m = [] → tget [] (f x).errs m = []) :
    Upholds (Reading more regs d) (modStore f) where
  logged := (Emits.look _).bind fun _ => Emits.emit trivial
  keeps w h := by
    obtain ⟨hlines, hkeys, herrs⟩ := hf w.dev.store
    refine h.trans ⟨?_, hlines, hkeys, herrs, rfl, rfl, rfl, rfl⟩
    exact Foot.changes (u := .store _) (by simp [Foot]) (Changes.refl ..)

/-- A change of what the slices note beside the requests, the groups, the snoops and the directory. -/
theorem modHome_reads {f : HomeSt → HomeSt}
    (hf : ∀ x, (f x).waiting = x.waiting ∧ (f x).groups = x.groups ∧ (f x).snoops = x.snoops ∧ (f x).dc = x.dc) :
    Upholds (Reading more regs d) (modHome f) where
  logged := (Emits.look _).bind fun _ => Emits.emit trivial
  keeps w h := by
    obtain ⟨hwaiting, hgroups, hsnoops, hdc⟩ := hf w.dev.home
    refine h.trans ⟨?_, rfl, rfl, fun _ hm => hm, hwaiting, hgroups, hsnoops, hdc⟩
    exact Foot.changes (u := .home _) (by simp [Foot]) (Changes.refl ..)

theorem setErrs_none_reads (n : Nat) : Upholds (Reading more regs d) (setErrs n []) :=
  modStore_reads fun x => ⟨rfl, rfl, fun m hm => by by_cases h : m = n <;> simp [h, hm]⟩

theorem activate_reads (x : StoreSt) (off : Nat) : (x.activate off).lines = x.lines ∧ (x.activate off).keys = x.keys ∧
    ∀ m, tget [] x.errs m = [] → tget [] (x.activate off).errs m = [] := by
  unfold StoreSt.activate
  dsimp only
  split <;> exact ⟨rfl, rfl, fun _ h => h⟩

theorem touchLine_reads {n : Nat} (h : regs (A.STK_STATUS (stackOf (64 * n)))) : Upholds (Reading more regs d) (touchLine n) :=
  dev_reads.bind fun _ => Upholds.bind (modStore_reads fun _ => activate_reads _ _) fun _ => Upholds.on (fset_reads h)

theorem countRind_reads {n : Nat} (h : regs (A.RIND_DEC_CNT (stackOf (64 * n)))) : Upholds (Reading more regs d) (countRind false n) :=
  Emits.reads (countRind_stack false n) (by simp) (by simp) (by simpa using h)

theorem foundAnswer_reads {r : HReq} {a : HAns} : Upholds (Reading more regs d) (foundAnswer r a) :=
  dev_reads.bind fun _ => Upholds.ite (Upholds.bind (modHome_reads fun _ => ⟨rfl, rfl, rfl, rfl⟩) fun _ => pure_reads) pure_reads

/-- The read that an on-die request makes of its line. -/
theorem readLine_reads {n : Nat} (h : regs (A.RIND_DEC_CNT (stackOf (64 * n)))) : Upholds (Reading more regs d) (readLine n) :=
  (countRind_reads h).bind fun _ => dev_reads.bind fun _ => pure_reads

end

/-! ## A read that is corrected -/

section
variable {regs : Nat → Prop} {d : Dev} {n : Nat} (hregs : ∀ a, readRegs n a → regs a)
include hregs

theorem countPins_reads : Upholds (Reading [.evq] regs d) (countPins (stackOf (64 * n))) :=
  (countPins_emits _).reads (by simp) (by simp) fun a ha => hregs a (.inl (by simp [ha]))

theorem setErased_reads (pin : Nat) : Upholds (Reading [.evq] regs d) (setErased (stackOf (64 * n)) (pcOf (64 * n)) pin) :=
  (fset_reads (hregs _ (.inl (by simp)))).bind fun _ => (fset_reads (hregs _ (.inl (by simp)))).bind fun _ => countPins_reads hregs

theorem startRepair_reads (pin : Nat) : Upholds (Reading [.evq] regs d) (startRepair (stackOf (64 * n)) (pcOf (64 * n)) pin) := by
  have hstat : regs (A.STK_REPAIR_STAT (stackOf (64 * n))) := hregs _ (.inl (by simp))
  refine dev_reads.bind fun e => ?_
  split
  · exact (fset_reads hstat).bind fun _ => fset_reads hstat
  · exact (wr_reads hstat).bind fun _ => modStore_reads fun _ => ⟨rfl, rfl, fun _ h => h⟩

theorem tallyPin_reads (pin : Nat) : Upholds (Reading [.evq] regs d) (tallyPin (stackOf (64 * n)) (pcOf (64 * n)) pin) := by
  have hraise : ∀ a, recordRegs a → regs a := fun a ha => hregs a (.inr ha)
  refine dev_reads.bind fun e => Upholds.bind (modStore_reads fun _ => ⟨rfl, rfl, fun _ h => h⟩) fun _ => Upholds.ite ?_ pure_reads
  split
  · exact (setErased_reads hregs pin).bind fun _ => (raise_reads hraise).bind fun _ => Upholds.on (startRepair_reads hregs pin)
  · exact Upholds.on (raise_reads hraise)

theorem lastErr_reads (off kind : Nat) (byScrub : Bool) (count : Nat) :
    Upholds (Reading [.evq] regs d) (lastErr (stackOf (64 * n)) off kind byScrub count) :=
  wr_reads (hregs _ (.inl (by simp)))

end

/-- What a corrected read logs beside its count. -/
def logCorrected (n : Nat) (syms : List Nat) (byScrub : Bool) : M Unit := do
  bump (A.STK_PC_CE_CNT (stackOf (64 * n)) (pcOf (64 * n)))
  lastErr (stackOf (64 * n)) (64 * n) 1 byScrub syms.length
  each syms fun y => tallyPin (stackOf (64 * n)) (pcOf (64 * n)) (pinOf y)

theorem logCorrected_reads {d : Dev} {regs : Nat → Prop} {n : Nat} (hregs : ∀ a, readRegs n a → regs a) (syms : List Nat) (byScrub : Bool) :
    Upholds (Reading [.evq] regs d) (logCorrected n syms byScrub) :=
  (bump_reads (hregs _ (.inl (by simp)))).bind fun _ => (lastErr_reads hregs ..).bind fun _ => Upholds.each fun _ => tallyPin_reads hregs _

/-- With no erased pin every corrected symbol counts towards the tally of its pin (R101, R106). -/
theorem post_countCorrected {w : Work} {n : Nat} (h : w.dev.erasedPin (stackOf (64 * n)) (pcOf (64 * n)) = none) (syms : List Nat) (byScrub : Bool) :
    M.post (countCorrected n syms byScrub) w = M.post (logCorrected n syms byScrub) (M.post (bump (A.STK_CE_CNT (stackOf (64 * n)))) w) := by
  have hnone : (syms.filter fun y => some (pinOf y) == (none : Option Nat)) = [] := by simp
  have hall : (syms.filter fun y => some (pinOf y) != (none : Option Nat)) = syms := by simp
  simp only [countCorrected, post_bind, val_look, post_look, h, hnone, hall, if_true, logCorrected]

theorem storeCounters : ∀ k < 8, ∀ a ∈ [A.STK_CE_CNT k, A.STK_UE_CNT k, A.STK_ODECC_CNT k, A.STK_SCRUB_PASS_CNT k],
    assigned a = true ∧ Fld.of ⟨0, 32⟩ (readMask a) = 2 ^ 32 - 1 := by
  decide +kernel

theorem stackOf_lt (off : Nat) : stackOf off < 8 := Nat.mod_lt _ (by decide)

/-- Registers of another purpose are not those of a read. -/
theorem not_readRegs {n a : Nat} (h : a < 0x40000 ∧ a ≠ 0x100 ∨ 0x50000 ≤ a ∧ a < 0xe0000 ∨
    ∃ k < 8, a ∈ [A.STK_CE_CNT k, A.STK_UE_CNT k, A.STK_ODECC_CNT k]) : ¬ readRegs n a := by
  have hk := stackOf_lt (64 * n)
  have hpc : pcOf (64 * n) < 64 := Nat.mod_lt _ (by decide)
  rintro (hreg | hrec)
  · simp only [List.mem_cons, List.not_mem_nil, or_false] at hreg h
    simp only [A.STK_CE_CNT, A.STK_UE_CNT, A.STK_ODECC_CNT, A.STK_STATUS, A.STK_ERASE_CNT, A.STK_LAST_ERR, A.STK_REPAIR_STAT, A.RIND_DEC_CNT,
      A.STK_PC_ERASE, A.STK_PC_CE_CNT] at hreg h
    omega
  · have hrange := recordRegs_range hrec
    obtain h | h | ⟨k, hk, h⟩ := h
    · omega
    · omega
    · simp only [List.mem_cons, List.not_mem_nil, or_false, A.STK_CE_CNT, A.STK_UE_CNT, A.STK_ODECC_CNT] at h
      omega

/-! ## What the decoder makes of a read -/

theorem decodeErrs_two {syms : List Nat} (h : syms.length ∈ [1, 2]) (w : Work) :
    M.val (decodeErrs none syms) w = .corrected syms ∧ M.post (decodeErrs none syms) w = w := by
  have hlen : syms.length ≤ 2 := by simp at h; omega
  have hne : syms ≠ [] := by rintro rfl; simp at h
  simp [decodeErrs, hne, hlen]

theorem decodeErrs_four {syms : List Nat} (h : syms.length ∈ [3, 4]) (w : Work) :
    M.val (decodeErrs none syms) w = .uncorrectable ∧ M.post (decodeErrs none syms) w = w := by
  have hlo : ¬ syms.length ≤ 2 := by simp at h; omega
  have hhi : syms.length ≤ 4 := by simp at h; omega
  have hne : syms ≠ [] := by rintro rfl; simp at h
  simp [decodeErrs, hne, hlo, hhi]

theorem ne_nil_of_realErrs {errs : SymErrs} {l : List Nat} (h : (realErrs errs).length ∈ l) (hl : 0 ∉ l) : errs ≠ [] := by
  rintro rfl
  exact hl h

section
variable {w : Work} {n : Nat} {byScrub : Bool} (hfailed : w.dev.stackFailed (stackOf (64 * n)) = false)
  (herased : w.dev.erasedPin (stackOf (64 * n)) (pcOf (64 * n)) = none)
include hfailed herased

/-- One or two wrong symbols are corrected (R100). -/
theorem post_settleRead_corrected (h : (realErrs (w.dev.errsAt n)).length ∈ [1, 2]) (who : Option Nat) :
    M.post (settleRead who n byScrub) w =
      M.post (countCorrected n (realErrs (w.dev.errsAt n)) byScrub) (M.post (setErrs n []) w) := by
  have hne := ne_nil_of_realErrs h (by simp)
  have herased' : (M.post (setErrs n []) w).dev.erasedPin (stackOf (64 * n)) (pcOf (64 * n)) = none := herased
  obtain ⟨w₁, hw₁⟩ : ∃ x, x = M.post (setErrs n []) w := ⟨_, rfl⟩
  rw [← hw₁] at herased' ⊢
  obtain ⟨hval, hpost⟩ := decodeErrs_two h w₁
  simp only [settleRead, post_bind, val_dev, post_dev, hne, hfailed, Bool.false_eq_true, or_self, if_false, ← hw₁, decodeRead, val_bind, val_look,
    post_look, herased', hval, hpost, val_pure, post_pure]

/-- Three or four are detected (R100). -/
theorem post_settleRead_uncorrectable (h : (realErrs (w.dev.errsAt n)).length ∈ [3, 4]) (who : Nat) :
    M.post (settleRead (some who) n byScrub) w = M.post (uncorrectable n (w.dev.errsAt n) byScrub)
      (M.post (modHome fun h => { h with found := (who, n) :: h.found }) (M.post (setErrs n []) w)) := by
  have hne := ne_nil_of_realErrs h (by simp)
  have herased' : (M.post (setErrs n []) w).dev.erasedPin (stackOf (64 * n)) (pcOf (64 * n)) = none := herased
  obtain ⟨w₁, hw₁⟩ : ∃ x, x = M.post (setErrs n []) w := ⟨_, rfl⟩
  rw [← hw₁] at herased' ⊢
  obtain ⟨hval, hpost⟩ := decodeErrs_four h w₁
  simp only [settleRead, post_bind, val_dev, post_dev, hne, hfailed, Bool.false_eq_true, or_self, if_false, ← hw₁, decodeRead, val_bind, val_look,
    post_look, herased', hval, hpost, val_pure, post_pure, Option.isSome_some, on_true, Option.getD_some]

end

/-- From one device to another a read of a line has been corrected: the line holds no symbol error, and the read is counted. -/
structure Corrected (n : Nat) (d e : Dev) : Prop where
  reading : Reading [.evq] (fun a => readRegs n a ∨ a = A.STK_CE_CNT (stackOf (64 * n))) d e
  errs : e.errsAt n = []
  counts : Counts (A.STK_CE_CNT (stackOf (64 * n))) 1 d e

theorem settleRead_corrects {w : Work} {n : Nat} {byScrub : Bool} (hfailed : w.dev.stackFailed (stackOf (64 * n)) = false)
    (herased : w.dev.erasedPin (stackOf (64 * n)) (pcOf (64 * n)) = none) (h : (realErrs (w.dev.errsAt n)).length ∈ [1, 2]) (who : Option Nat) :
    Corrected n w.dev (M.post (settleRead who n byScrub) w).dev := by
  obtain ⟨hassigned, hmask⟩ := storeCounters (stackOf (64 * n)) (stackOf_lt _) (A.STK_CE_CNT (stackOf (64 * n))) (by simp)
  rw [post_settleRead_corrected hfailed herased h, post_countCorrected (w := M.post (setErrs n []) w) herased]
  obtain ⟨w₁, hw₁⟩ : ∃ x, x = M.post (bump (A.STK_CE_CNT (stackOf (64 * n)))) (M.post (setErrs n []) w) := ⟨_, rfl⟩
  rw [← hw₁]
  have hset : Reading [.evq] (fun a => readRegs n a ∨ a = A.STK_CE_CNT (stackOf (64 * n))) w.dev w₁.dev :=
    hw₁ ▸ ((setErrs_none_reads n).bind fun _ => bump_reads (.inr rfl)).keeps w (Reading.refl ..)
  have hlog : Reading [.evq] (readRegs n) w₁.dev (M.post (logCorrected n (realErrs (w.dev.errsAt n)) byScrub) w₁).dev :=
    (logCorrected_reads (fun _ h => h) ..).keeps w₁ (Reading.refl ..)
  have hcounts : Counts (A.STK_CE_CNT (stackOf (64 * n))) 1 w.dev w₁.dev := hw₁ ▸ counts_fadd hassigned hmask (M.post (setErrs n []) w)
  refine ⟨hset.trans (hlog.mono fun _ => .inl), hlog.errs n ?_, ?_⟩
  · rw [hw₁]
    simp [setErrs, Dev.errsAt]
  · rw [Counts, hlog.changes.fld (not_readRegs (.inr (.inr ⟨_, stackOf_lt (64 * n), by simp⟩)))]
    exact hcounts

theorem Corrected.after {n : Nat} {d e f : Dev} (h : Corrected n d e) (g : Reading [.evq] (readRegs n) e f) : Corrected n d f where
  reading := h.reading.trans (g.mono fun _ => .inl)
  errs := g.errs n h.errs
  counts := by
    rw [Counts, g.changes.fld (not_readRegs (.inr (.inr ⟨_, stackOf_lt (64 * n), by simp⟩)))]
    exact h.counts

theorem Corrected.before {n : Nat} {d e f : Dev} (g : Reading [.evq] (readRegs n) d e) (h : Corrected n e f) : Corrected n d f where
  reading := (g.mono fun _ => .inl).trans h.reading
  errs := h.errs
  counts := by
    have hsame := g.changes.fld (a := A.STK_CE_CNT (stackOf (64 * n))) (not_readRegs (.inr (.inr ⟨_, stackOf_lt (64 * n), by simp⟩)))
    have hcounts := h.counts
    rwa [Counts, hsame] at hcounts

/-! ## The read that a request of no one makes at its home -/

theorem errsAt_touchLine (n m : Nat) (w : Work) : (M.post (touchLine n) w).dev.errsAt m = w.dev.errsAt m := by
  let k := stackOf (64 * n) * 64 + pcOf (64 * n)
  obtain ⟨-, herrs, -⟩ := activate_keeps
    { w.dev.store with down := w.dev.store.down.erase k, lastUse := tset 0 w.dev.store.lastUse k w.dev.now } (64 * n)
  simp only [touchLine, post_bind, val_dev, post_dev, post_modStore, post_on]
  split <;> simp [Dev.errsAt, setStackState, herrs, k]

/-- What stands before no read: its stack serves, and no pin of its pseudo-channel is erased. -/
structure Dev.readable (d : Dev) (n : Nat) : Prop where
  serves : d.stackServes (stackOf (64 * n)) = true
  unerased : d.erasedPin (stackOf (64 * n)) (pcOf (64 * n)) = none

theorem Dev.readable.notFailed {d : Dev} {n : Nat} (h : d.readable n) : d.stackFailed (stackOf (64 * n)) = false := by
  have hserves := h.serves
  simp only [Dev.stackServes, Bool.or_eq_true, beq_iff_eq] at hserves
  obtain h | h := hserves <;> simp [Dev.stackFailed, h]

theorem erasedPin_congr {d e : Dev} {k pc : Nat} (h : e.reg (A.STK_PC_ERASE k pc) = d.reg (A.STK_PC_ERASE k pc)) :
    e.erasedPin k pc = d.erasedPin k pc := by
  unfold Dev.erasedPin Dev.fld
  rw [h]

theorem Dev.readable.touchLine {w : Work} {n : Nat} (h : w.dev.readable n) : (M.post (touchLine n) w).dev.readable n where
  serves := (touchLine_steady n w).serves _ (stackOf_lt _) h.serves
  unerased := by
    have hchanges := (touchLine_stack n).changes_post (Changes.refl _ _ w.dev)
    rw [erasedPin_congr (hchanges.regs _ (by simp only [A.STK_PC_ERASE, A.STK_STATUS]; omega))]
    exact h.unerased

section
variable {w : Work} {r : HReq}

theorem touchLine_keeps (n : Nat) (w : Work) : Reading [.evq] (readRegs n) w.dev (M.post (touchLine n) w).dev :=
  (touchLine_reads (.inl (by simp))).keeps w (Reading.refl ..)

theorem post_readDir (r : HReq) (w : Work) : M.post (readDir r) w = if w.dev.home.dc.any (·.line == r.line) then w else
    M.post (settleRead (some r.who) r.line false) (M.post (touchLine r.line) w) := by
  simp only [readDir, post_bind, val_dev, post_dev, post_on]
  cases w.dev.home.dc.any (·.line == r.line)
  · rfl
  · rfl

theorem post_readLineOf (hop : r.op = .rdE) (w : Work) : M.post (readLineOf r) w =
    M.post (settleRead (some r.who) r.line false) (M.post (touchLine r.line) w) := by
  have hreads : r.op.readsLine = true := by rw [hop]; rfl
  simp only [readLineOf, post_bind, hreads, on_true]

theorem post_settleRead_touched {n : Nat} (h : w.dev.errsAt n = []) (who : Option Nat) (byScrub : Bool) :
    M.post (settleRead who n byScrub) (M.post (touchLine n) w) = M.post (touchLine n) w :=
  post_settleRead_sound ((errsAt_touchLine n n w).trans h) ..

theorem settledFor_of_read {d : Dev} (hsrc : r.src = .nowhere) (hop : r.op = .rdE) (hsnoops : d.home.snoops.any (·.line == r.line) = false) :
    d.settledFor r :=
  ⟨by simp [Dev.groupViolates, hsrc], by simp [Dev.snoopsFor, hop], by simp [Dev.mustClear, hop, HOp.wholeLine], hsnoops, .inl hop⟩

/-- An on-die read that nothing stands before is ordered; what follows its read of the line changes the count of decrypted lines alone. -/
theorem tryReq_read {more : List Part} {w₁ w₂ : Work} (h : w.dev.clear r) (hsrc : r.src = .nowhere) (hop : r.op = .rdE)
    (hdir : M.post (readDir r) w = w₁)
    (h₁ : w₁.dev.home.snoops = w.dev.home.snoops) (hread : M.post (readLineOf r) w₁ = w₂) (h₂ : w₂.dev.home.snoops = w.dev.home.snoops) :
    (∃ a, M.val (tryReq r) w = some a) ∧
    Reading more (· = A.RIND_DEC_CNT (stackOf (64 * r.line))) w₂.dev (M.post (tryReq r) w).dev := by
  obtain ⟨hval, hpost⟩ := tryReq_clear h hdir (settledFor_of_read hsrc hop (by rw [h₁]; exact h.snoops)) hread (by rw [h₂]; exact h.snoops) rfl rfl
  refine ⟨⟨_, hval⟩, ?_⟩
  have happly : applyReq r = readLine r.line := by simp only [applyReq, hop]; rfl
  rw [hpost, happly]
  have hread := (readLine_reads (more := more) (regs := (· = A.RIND_DEC_CNT (stackOf (64 * r.line)))) rfl).keeps w₂ (Reading.refl ..)
  exact (modHome_reads (f := fun h => { h with inv := h.inv.erase (r.who, r.line) }) fun _ => ⟨rfl, rfl, rfl, rfl⟩).keeps _
    (foundAnswer_reads.keeps _ hread)

end

/-! ## Sound and corrected reads -/

section
variable {w : Work} {r : HReq} (h : w.dev.clear r) (hsrc : r.src = .nowhere) (hop : r.op = .rdE)
include h hsrc hop

/-- A read of a line without symbol errors. -/
theorem tryReq_read_sound (herrs : w.dev.errsAt r.line = []) : (∃ a, M.val (tryReq r) w = some a) ∧
    Reading [] (fun a => a = A.STK_STATUS (stackOf (64 * r.line)) ∨ a = A.RIND_DEC_CNT (stackOf (64 * r.line))) w.dev (M.post (tryReq r) w).dev := by
  have hstep : ∀ v : Work, v.dev.errsAt r.line = [] → Reading [] (· = A.STK_STATUS (stackOf (64 * r.line))) v.dev
      (M.post (settleRead (some r.who) r.line false) (M.post (touchLine r.line) v)).dev := fun v hv => by
    rw [post_settleRead_touched hv]
    exact (touchLine_reads (regs := (· = A.STK_STATUS (stackOf (64 * r.line)))) rfl).keeps v (Reading.refl ..)
  have hdir : Reading [] (· = A.STK_STATUS (stackOf (64 * r.line))) w.dev (M.post (readDir r) w).dev := by
    rw [post_readDir]
    split
    · exact Reading.refl ..
    · exact hstep w herrs
  have hread := hstep (M.post (readDir r) w) (hdir.errs _ herrs)
  rw [← post_readLineOf hop] at hread
  obtain ⟨hval, hrest⟩ := tryReq_read h hsrc hop rfl hdir.snoops rfl (hread.snoops.trans hdir.snoops)
  exact ⟨hval, ((hdir.trans hread).mono fun _ => .inl).trans (hrest.mono fun _ => .inr)⟩

/-- A read that finds one or two wrong symbols. -/
theorem tryReq_read_corrected (hready : w.dev.readable r.line) (herrs : (realErrs (w.dev.errsAt r.line)).length ∈ [1, 2]) :
    (∃ a, M.val (tryReq r) w = some a) ∧ Corrected r.line w.dev (M.post (tryReq r) w).dev := by
  have hcorrects : Corrected r.line w.dev (M.post (settleRead (some r.who) r.line false) (M.post (touchLine r.line) w)).dev :=
    (settleRead_corrects hready.touchLine.notFailed hready.touchLine.unerased (by rwa [errsAt_touchLine]) _).before (touchLine_keeps ..)
  obtain ⟨w₁, hw₁⟩ : ∃ x, x = M.post (readDir r) w := ⟨_, rfl⟩
  obtain ⟨w₂, hw₂⟩ : ∃ x, x = M.post (readLineOf r) w₁ := ⟨_, rfl⟩
  have hsteps : w₁.dev.home.snoops = w.dev.home.snoops ∧ Corrected r.line w.dev w₂.dev := by
    rw [hw₂, post_readLineOf hop]
    rw [post_readDir] at hw₁
    split at hw₁
    · subst hw₁
      exact ⟨rfl, hcorrects⟩
    · subst hw₁
      rw [post_settleRead_touched hcorrects.errs]
      exact ⟨hcorrects.reading.snoops, hcorrects.after (touchLine_keeps ..)⟩
  obtain ⟨hval, hrest⟩ := tryReq_read h hsrc hop hw₁.symm hsteps.1 hw₂.symm hsteps.2.reading.snoops
  exact ⟨hval, hsteps.2.after (hrest.mono fun a ha => .inl (by simp [ha]))⟩

end

/-! ## Uncorrectable reads -/

/-- The registers of a read that finds its line uncorrectable: none of them is a register of the links or of the extents. -/
def lossRegs (a : Nat) : Prop := 0xe0000 ≤ a ∨ recordRegs a

theorem lossRegs_of_read {n a : Nat} (h : readRegs n a) : lossRegs a := by
  refine h.imp (fun hreg => ?_) id
  simp only [List.mem_cons, List.not_mem_nil, or_false, A.STK_STATUS, A.STK_ERASE_CNT, A.STK_LAST_ERR, A.STK_REPAIR_STAT, A.RIND_DEC_CNT,
      A.STK_PC_ERASE, A.STK_PC_CE_CNT] at hreg
  omega

theorem not_lossRegs {a : Nat} (h : a < 0x40000 ∧ a ≠ 0x100 ∨ 0x50000 ≤ a ∧ a < 0xe0000) : ¬ lossRegs a := by
  rintro (hge | hrec)
  · omega
  · have := recordRegs_range hrec
    omega

/-- From one device to another a line has been found uncorrectable and is stored poisoned, with the bits as read (R102). -/
structure Lost (n : Nat) (v : Line) (d e : Dev) : Prop where
  touches : Touches [.store, .home, .evq] lossRegs (fun _ => True) d e
  counts : Counts (A.STK_UE_CNT (stackOf (64 * n))) 1 d e
  errs : e.errsAt n = []
  poison : (e.meta_ n).poison = true
  pcause : (e.meta_ n).pcause = 1
  stores : Stores n v d e
  waiting : e.home.waiting = d.home.waiting
  groups : e.home.groups = d.home.groups
  snoops : e.home.snoops = d.home.snoops

theorem Reading.toTouches {regs : Nat → Prop} {d e : Dev} (h : Reading [.evq] regs d e) (hregs : ∀ a, regs a → lossRegs a) :
    Touches [.store, .home, .evq] lossRegs (fun _ => True) d e :=
  ⟨h.changes.parts, fun a ha => h.changes.regs a fun hin => ha (hregs a hin), fun a _ => h.changes.bytes a not_false⟩

theorem Reading.byte {regs : Nat → Prop} {d e : Dev} (h : Reading [.evq] regs d e) (a : Nat) : e.byte a = d.byte a := h.changes.bytes a not_false

theorem Reading.meta_ {regs : Nat → Prop} {d e : Dev} (h : Reading [.evq] regs d e) (n : Nat) : e.meta_ n = d.meta_ n := by
  simp only [Dev.meta_, h.lines]

theorem ue_not_read (n : Nat) : ¬ readRegs n (A.STK_UE_CNT (stackOf (64 * n))) :=
  not_readRegs (.inr (.inr ⟨_, stackOf_lt (64 * n), by simp⟩))

theorem Lost.after {n : Nat} {v : Line} {d e f : Dev} (h : Lost n v d e) (g : Reading [.evq] (readRegs n) e f) : Lost n v d f where
  touches := h.touches.trans (g.toTouches fun _ => lossRegs_of_read)
  counts := by
    rw [Counts, g.changes.fld (ue_not_read n)]
    exact h.counts
  errs := g.errs n h.errs
  poison := by rw [g.meta_, h.poison]
  pcause := by rw [g.meta_, h.pcause]
  stores := ⟨fun i hi => (g.byte _).trans (h.stores.1 i hi), fun a ha => (g.byte _).trans (h.stores.2 a ha)⟩
  waiting := g.waiting.trans h.waiting
  groups := g.groups.trans h.groups
  snoops := g.snoops.trans h.snoops

theorem Lost.before {n : Nat} {v : Line} {d e f : Dev} (g : Reading [.evq] (readRegs n) d e) (h : Lost n v e f) : Lost n v d f where
  touches := (g.toTouches fun _ => lossRegs_of_read).trans h.touches
  counts := by
    have hcounts := h.counts
    rwa [Counts, g.changes.fld (ue_not_read n)] at hcounts
  errs := h.errs
  poison := h.poison
  pcause := h.pcause
  stores := ⟨h.stores.1, fun a ha => (h.stores.2 a ha).trans (g.byte a)⟩
  waiting := h.waiting.trans g.waiting
  groups := h.groups.trans g.groups
  snoops := h.snoops.trans g.snoops

/-- How a line reads with symbol errors in place is a matter of its bytes, of its extent's tag and of the keys. -/
theorem asRead_congr {d e : Dev} {n : Nat} (hspan : e.span = d.span) (hnode : e.node = d.node)
    (hcls : e.extCls (extentOf (64 * n)) = d.extCls (extentOf (64 * n))) (hdom : e.extDom (extentOf (64 * n)) = d.extDom (extentOf (64 * n)))
    (hkeys : e.store.keys = d.store.keys) (hbytes : ∀ a, e.byte a = d.byte a) (errs : SymErrs) : e.asRead n errs = d.asRead n errs := by
  have hline : e.line n = d.line n := by simp only [Dev.line, hbytes]
  have htweak : ∀ off, e.tweak off = d.tweak off := fun off => by simp only [Dev.tweak, Dev.globalAddr, hspan, hnode]
  unfold Dev.asRead
  simp only [hcls, hdom, hkeys, hline, htweak]

theorem Touches.mono {parts parts' : List Part} {regs regs' bytes bytes' : Nat → Prop} {d e : Dev} (h : Touches parts regs bytes d e)
    (hparts : parts ⊆ parts') (hregs : ∀ a, regs a → regs' a) (hbytes : ∀ a, bytes a → bytes' a) : Touches parts' regs' bytes' d e :=
  ⟨fun p hp => h.parts p fun hin => hp (hparts hin), fun a ha => h.regs a fun hin => ha (hregs a hin),
    fun a ha => h.bytes a fun hin => ha (hbytes a hin)⟩

/-- A line stored poisoned. -/
theorem putLine_loses {n : Nat} (h : 64 * n < storeEnd) (v : Line) (w : Work) :
    let e := (M.post (putLine n v 1) w).dev
    Touches [.store] lossRegs (fun _ => True) w.dev e ∧ e.errsAt n = [] ∧ (e.meta_ n).poison = true ∧ (e.meta_ n).pcause = 1 ∧ Stores n v w.dev e ∧
    e.reg (A.STK_UE_CNT (stackOf (64 * n))) = w.dev.reg (A.STK_UE_CNT (stackOf (64 * n))) := by
  have hk := stackOf_lt (64 * n)
  obtain ⟨w₂, hw₂⟩ : ∃ x, x = M.post (wrLine n v) (M.post (setErrs n []) w) := ⟨_, rfl⟩
  obtain ⟨w₃, hw₃⟩ : ∃ x, x = M.post (wrMeta n { w.dev.meta_ n with poison := true, pcause := 1 }) w₂ := ⟨_, rfl⟩
  let tail : M Unit := do countRind true n; bump (A.STK_POISON_WR_CNT (stackOf (64 * n)))
  have hpost : M.post (putLine n v 1) w = M.post tail w₃ := by simp [putLine, hw₂, hw₃, tail]
  have htail : Changes [] (· ∈ [A.RIND_ENC_CNT (stackOf (64 * n)), A.STK_POISON_WR_CNT (stackOf (64 * n))]) w₃.dev (M.post tail w₃).dev :=
    Emits.changes_post (Emits.bind ((countRind_stack true n).mono fun _ => Foot.mono (by simp) (by simp)) fun _ => Emits.bump (by simp))
      (Changes.refl ..)
  have hstores : Stores n v w.dev w₂.dev := hw₂ ▸ stores_wrLine h v (M.post (setErrs n []) w)
  have hline : Touches [] noReg (fun _ => True) (M.post (setErrs n []) w).dev w₂.dev := hw₂ ▸ storeLine_touches n v w
  have hstore : w₂.dev.store = { w.dev.store with errs := tset [] w.dev.store.errs n [] } := hline.parts .store (by simp)
  have hmeta : Touches [.store] noReg (fun _ => True) w.dev w₃.dev := by
    refine Touches.trans (e := w₂.dev) ⟨fun p hp => ?_, hline.regs, fun a ha => absurd trivial ha⟩ ?_
    · have hsame := hline.parts p (by simp)
      cases p with
      | store => exact absurd (by simp) hp
      | _ => exact hsame
    · rw [hw₃]
      exact (Emits.footMem (Emits.wrMeta (by simp))).touches_post w₂
  have hkept : (M.post tail w₃).dev.store = { w.dev.store with
      errs := tset [] w.dev.store.errs n [], lines := tset {} w.dev.store.lines n { w.dev.meta_ n with poison := true, pcause := 1 } } := by
    rw [(htail.parts .store (by simp) : (M.post tail w₃).dev.store = w₃.dev.store), hw₃]
    simp [hstore]
  simp only [hpost]
  refine ⟨(hmeta.mono (List.Subset.refl _) (fun _ h => h.elim) fun _ => id).trans (Touches.mono htail (by simp) ?_ fun _ h => h.elim), ?_, ?_, ?_,
    ⟨fun i hi => ?_, fun a ha => ?_⟩, (htail.regs _ ?_).trans (hmeta.regs _ not_false)⟩
  · intro a ha
    simp only [List.mem_cons, List.not_mem_nil, or_false, A.RIND_ENC_CNT, A.STK_POISON_WR_CNT] at ha
    exact .inl (by omega)
  · simp [Dev.errsAt, hkept]
  · simp [Dev.meta_, hkept]
  · simp [Dev.meta_, hkept]
  · rw [htail.bytes _ not_false, hw₃]
    exact hstores.1 i hi
  · rw [htail.bytes _ not_false, hw₃]
    exact hstores.2 a ha
  · simp only [List.mem_cons, List.not_mem_nil, or_false, A.STK_UE_CNT, A.RIND_ENC_CNT, A.STK_POISON_WR_CNT]
    omega

/-- What writing Invalid to the directory state of a line leaves of the line and of the slices. -/
theorem writeDir_keeps (n : Nat) (w : Work) :
    let e := (M.post (writeDir n 0 0) w).dev
    (∀ m, e.errsAt m = w.dev.errsAt m) ∧ (e.meta_ n).poison = (w.dev.meta_ n).poison ∧ (e.meta_ n).pcause = (w.dev.meta_ n).pcause ∧
    e.home.waiting = w.dev.home.waiting ∧ e.home.groups = w.dev.home.groups ∧ e.home.snoops = w.dev.home.snoops ∧
    Changes [.store, .home] noReg w.dev e := by
  have hchanges := (writeDir_emits n 0 0).changes_post (Changes.refl _ _ w.dev)
  rw [post_writeDir_invalid] at hchanges ⊢
  simp only [setDir, post_bind, val_look, post_look, post_wrMeta, post_modHome] at hchanges ⊢
  exact ⟨fun _ => rfl, by simp [Dev.meta_], by simp [Dev.meta_], rfl, rfl, rfl, hchanges⟩

/-- An uncorrectable read is counted and logged. -/
theorem countUe_counts (n : Nat) (byScrub : Bool) (w : Work) :
    let e := (M.post (countUe n byScrub) w).dev
    Reading [.evq] (fun a => readRegs n a ∨ a = A.STK_UE_CNT (stackOf (64 * n))) w.dev e ∧ Counts (A.STK_UE_CNT (stackOf (64 * n))) 1 w.dev e := by
  obtain ⟨hassigned, hmask⟩ := storeCounters (stackOf (64 * n)) (stackOf_lt _) (A.STK_UE_CNT (stackOf (64 * n))) (by simp)
  obtain ⟨w₁, hw₁⟩ : ∃ x, x = M.post (bump (A.STK_UE_CNT (stackOf (64 * n)))) w := ⟨_, rfl⟩
  let rest : M Unit := do
    lastErr (stackOf (64 * n)) (64 * n) 3 byScrub 0
    raise Ev.stkUe (stackOf (64 * n)) (stackOf (64 * n)) none 0 0 (64 * n)
  have hpost : M.post (countUe n byScrub) w = M.post rest w₁ := by simp only [countUe, post_bind, hw₁, rest]
  have hbump : Reading [.evq] (fun a => readRegs n a ∨ a = A.STK_UE_CNT (stackOf (64 * n))) w.dev w₁.dev :=
    hw₁ ▸ (bump_reads (.inr rfl)).keeps w (Reading.refl ..)
  have hrest : Reading [.evq] (readRegs n) w₁.dev (M.post rest w₁).dev :=
    (Upholds.bind (lastErr_reads (fun _ h => h) ..) fun _ => raise_reads fun _ => .inr).keeps w₁ (Reading.refl ..)
  have hcounts : Counts (A.STK_UE_CNT (stackOf (64 * n))) 1 w.dev w₁.dev := hw₁ ▸ counts_fadd hassigned hmask w
  simp only [hpost]
  refine ⟨hbump.trans (hrest.mono fun _ => .inl), ?_⟩
  rw [Counts, hrest.changes.fld (ue_not_read n)]
  exact hcounts

theorem asRead_of_reading {n : Nat} (hin : 64 * n < storeEnd) {d e : Dev} {regs : Nat → Prop} (h : Reading [.evq] regs d e)
    (hregs : ∀ a, regs a → lossRegs a) (errs : SymErrs) : e.asRead n errs = d.asRead n errs := by
  have hlow : ∀ a, a < 0x40000 ∧ a ≠ 0x100 ∨ 0x50000 ≤ a ∧ a < 0xe0000 → e.reg a = d.reg a :=
    fun a ha => h.changes.regs a fun hin => not_lossRegs ha (hregs a hin)
  have htag : e.reg (A.DOM_EXT_TAG (extentOf (64 * n))) = d.reg (A.DOM_EXT_TAG (extentOf (64 * n))) := hlow _ (.inr (by
    simp only [extentOf, Nat.shiftRight_eq_div_pow, A.DOM_EXT_TAG, storeEnd] at hin ⊢
    omega))
  exact asRead_congr (congrArg F.TOP_SPAN_DIM_SPAN_ID.of (hlow _ (by decide))) (congrArg (bits · 0 14) (hlow _ (by decide)))
    (congrArg F.DOM_EXT_TAG_CLASS.of htag) (congrArg F.DOM_EXT_TAG_DOMAIN.of htag) h.keys h.byte errs

/-- An uncorrectable line that no port is recorded to hold is stored poisoned, with the bits as read (R102). -/
theorem uncorrectable_loses {n : Nat} (hin : 64 * n < storeEnd) {w : Work} (hdc : w.dev.home.dc.any (·.line == n) = false) (errs : SymErrs)
    (byScrub : Bool) : Lost n (w.dev.asRead n errs) w.dev (M.post (uncorrectable n errs byScrub) w).dev := by
  obtain ⟨hread, hcounts⟩ := countUe_counts n byScrub w
  obtain ⟨w₁, hw₁⟩ : ∃ x, x = M.post (countUe n byScrub) w := ⟨_, rfl⟩
  rw [← hw₁] at hread hcounts
  have hregs : ∀ a, (readRegs n a ∨ a = A.STK_UE_CNT (stackOf (64 * n))) → lossRegs a := by
    rintro a (ha | rfl)
    · exact lossRegs_of_read ha
    · exact .inl (by simp only [A.STK_UE_CNT]; omega)
  have hcached : w₁.dev.home.dc.any (·.line == n) = false := by rw [hread.dc, hdc]
  obtain ⟨w₂, hw₂⟩ : ∃ x, x = M.post (putLine n (w.dev.asRead n errs) 1) w₁ := ⟨_, rfl⟩
  have hpost : M.post (uncorrectable n errs byScrub) w = M.post (writeDir n 0 0) w₂ := by
    simp only [uncorrectable, post_bind, val_dev, post_dev, ← hw₁, hcached, Bool.false_and, Bool.false_eq_true, if_false, on_false, post_pure,
      asRead_of_reading hin hread hregs, hw₂]
  obtain ⟨htouches, herrs, hpoison, hcause, hstores, hue⟩ := hw₂ ▸ putLine_loses hin (w.dev.asRead n errs) w₁
  obtain ⟨hkeptErrs, hkeptPoison, hkeptCause, hwaiting, hgroups, hsnoops, hdir⟩ := writeDir_keeps n w₂
  rw [← hpost] at hkeptErrs hkeptPoison hkeptCause hwaiting hgroups hsnoops hdir
  have hhome : w₂.dev.home = w₁.dev.home := htouches.parts .home (by simp)
  exact {
    touches := (hread.toTouches hregs).trans
      ((htouches.mono (by simp) (fun _ => id) fun _ => id).trans (Touches.mono hdir (by simp) (fun _ h => h.elim) fun _ h => h.elim))
    counts := by
      rw [Counts, hdir.fld not_false, Dev.fld, hue]
      exact hcounts
    errs := (hkeptErrs n).trans herrs
    poison := hkeptPoison.trans hpoison
    pcause := hkeptCause.trans hcause
    stores := ⟨fun i hi => (hdir.bytes _ not_false).trans (hstores.1 i hi),
      fun a ha => (hdir.bytes _ not_false).trans ((hstores.2 a ha).trans (hread.byte a))⟩
    waiting := by rw [hwaiting, hhome, hread.waiting]
    groups := by rw [hgroups, hhome, hread.groups]
    snoops := by rw [hsnoops, hhome, hread.snoops] }

theorem settleRead_loses {n : Nat} (hin : 64 * n < storeEnd) {w : Work} (hready : w.dev.readable n)
    (hdc : w.dev.home.dc.any (·.line == n) = false) (herrs : (realErrs (w.dev.errsAt n)).length ∈ [3, 4]) (who : Nat) (byScrub : Bool) :
    Lost n (w.dev.asRead n (w.dev.errsAt n)) w.dev (M.post (settleRead (some who) n byScrub) w).dev := by
  have hread : Reading [.evq] (readRegs n) w.dev (M.post (modHome fun h => { h with found := (who, n) :: h.found }) (M.post (setErrs n []) w)).dev :=
    (modHome_reads (f := fun h => { h with found := (who, n) :: h.found }) fun _ => ⟨rfl, rfl, rfl, rfl⟩).keeps _
      ((setErrs_none_reads n).keeps w (Reading.refl ..))
  rw [post_settleRead_uncorrectable hready.notFailed hready.unerased herrs, ← asRead_of_reading hin hread fun _ => lossRegs_of_read]
  exact (uncorrectable_loses hin (by rw [hread.dc, hdc]) _ _).before hread

/-- A read that finds three or four wrong symbols in a line that no port is recorded to hold. -/
theorem tryReq_read_lost {w : Work} {r : HReq} (hin : 64 * r.line < storeEnd) (h : w.dev.clear r) (hsrc : r.src = .nowhere) (hop : r.op = .rdE)
    (hready : w.dev.readable r.line) (hdc : w.dev.home.dc.any (·.line == r.line) = false)
    (herrs : (realErrs (w.dev.errsAt r.line)).length ∈ [3, 4]) : (∃ a, M.val (tryReq r) w = some a) ∧
    Lost r.line (w.dev.asRead r.line (w.dev.errsAt r.line)) w.dev (M.post (tryReq r) w).dev := by
  have htouch := touchLine_keeps r.line w
  obtain ⟨w₁, hw₁⟩ : ∃ x, x = M.post (readDir r) w := ⟨_, rfl⟩
  have hdir : w₁ = M.post (settleRead (some r.who) r.line false) (M.post (touchLine r.line) w) := by
    rw [hw₁, post_readDir, hdc]
    rfl
  have hlost : Lost r.line (w.dev.asRead r.line (w.dev.errsAt r.line)) w.dev w₁.dev := by
    rw [hdir, ← asRead_of_reading hin htouch fun _ => lossRegs_of_read, ← errsAt_touchLine r.line r.line w]
    exact (settleRead_loses hin hready.touchLine (by rw [htouch.dc, hdc]) (by rwa [errsAt_touchLine]) _ _).before htouch
  have hagain : Reading [.evq] (readRegs r.line) w₁.dev (M.post (readLineOf r) w₁).dev := by
    rw [post_readLineOf hop, post_settleRead_touched hlost.errs]
    exact touchLine_keeps r.line w₁
  obtain ⟨hval, hrest⟩ := tryReq_read h hsrc hop hw₁.symm hlost.snoops rfl (hagain.snoops.trans hlost.snoops)
  exact ⟨hval, (hlost.after hagain).after (hrest.mono fun a ha => .inl (by simp [ha]))⟩

/-! ## HOME_READ -/

/-- The symbols that an access finds in error: an entry for symbol 72 is a report of the stack's on-die ECC (R109). -/
abbrev symbolsOf (errs : SymErrs) : SymErrs := errs.filter fun x => decide (x.1 < 72)

/-- From one device to another an access has found symbol errors in the cells of a line that held none (R109). -/
structure Planted (n : Nat) (errs : SymErrs) (d e : Dev) : Prop where
  changes : Changes [.store] (· = A.STK_ODECC_CNT (stackOf (64 * n))) d e
  store : e.store = { d.store with errs := e.store.errs }
  found : e.errsAt n = symbolsOf errs
  counts : Counts (A.STK_ODECC_CNT (stackOf (64 * n))) (errs.length - (symbolsOf errs).length) d e

theorem plantErrs_emits (n : Nat) (errs : SymErrs) : Emits (Foot [.store] (· = A.STK_ODECC_CNT (stackOf (64 * n)))) (plantErrs n errs) :=
  Emits.dev.bind fun _ => Emits.bind (Emits.on (Emits.modStore (by simp))) fun _ => Emits.on (Emits.fadd rfl)

/-- The errors that come to stand in a line that held none. -/
theorem setErrs_found {n : Nat} {w : Work} (h : w.dev.errsAt n = []) (new : SymErrs) :
    let e := (M.post (on (new != []) (setErrs n new)) w).dev
    e.errsAt n = new ∧ e.store = { w.dev.store with errs := e.store.errs } ∧ ∀ a, e.reg a = w.dev.reg a := by
  cases new with
  | nil => exact ⟨h, rfl, fun _ => rfl⟩
  | cons x l =>
    have hset : M.post (on (x :: l != []) (setErrs n (x :: l))) w = M.post (setErrs n (x :: l)) w := rfl
    rw [hset]
    exact ⟨by simp [setErrs, Dev.errsAt], rfl, fun _ => rfl⟩

/-- The reports are counted. -/
theorem counts_on_fadd {a n m : Nat} (ha : assigned a = true) (hm : Fld.of ⟨0, 32⟩ (readMask a) = 2 ^ 32 - 1) (w : Work) :
    Counts a (n - m) w.dev (M.post (on (decide (m < n)) (fadd a ⟨0, 32⟩ (n - m))) w).dev := by
  rw [post_on]
  split
  · exact counts_fadd ha hm w
  case isFalse h =>
    rw [Nat.sub_eq_zero_of_le (Nat.not_lt.mp (by simpa using h))]
    exact counts_none w.dev

theorem plantErrs_plants {w : Work} {n : Nat} (h : w.dev.errsAt n = []) (errs : SymErrs) :
    Planted n errs w.dev (M.post (plantErrs n errs) w).dev := by
  obtain ⟨hassigned, hmask⟩ := storeCounters (stackOf (64 * n)) (stackOf_lt _) (A.STK_ODECC_CNT (stackOf (64 * n))) (by simp)
  obtain ⟨hfound, hstore, hregs⟩ := setErrs_found h (symbolsOf errs)
  obtain ⟨w₁, hw₁⟩ : ∃ x, x = M.post (on (symbolsOf errs != []) (setErrs n (symbolsOf errs))) w := ⟨_, rfl⟩
  rw [← hw₁] at hfound hstore hregs
  let count : M Unit := on (decide ((symbolsOf errs).length < errs.length))
    (fadd (A.STK_ODECC_CNT (stackOf (64 * n))) ⟨0, 32⟩ (errs.length - (symbolsOf errs).length))
  have hpost : M.post (plantErrs n errs) w = M.post count w₁ := by
    simp only [plantErrs, post_bind, val_dev, post_dev, h, List.filter_nil, List.append_nil, hw₁, count]
  have hcount : Changes [] (· = A.STK_ODECC_CNT (stackOf (64 * n))) w₁.dev (M.post count w₁).dev :=
    Emits.changes_post (Emits.on (Emits.fadd rfl)) (Changes.refl ..)
  have hsame : (M.post count w₁).dev.store = w₁.dev.store := hcount.parts .store (by simp)
  refine ⟨(plantErrs_emits n errs).changes_post (Changes.refl ..), ?_, ?_, ?_⟩
  · rw [hpost, hsame]
    exact hstore
  · rw [hpost, Dev.errsAt, hsame]
    exact hfound
  · have hcounts := counts_on_fadd (n := errs.length) (m := (symbolsOf errs).length) hassigned hmask w₁
    have hfld : w₁.dev.fld (A.STK_ODECC_CNT (stackOf (64 * n))) ⟨0, 32⟩ = w.dev.fld (A.STK_ODECC_CNT (stackOf (64 * n))) ⟨0, 32⟩ :=
      congrArg (Fld.of ⟨0, 32⟩) (hregs _)
    rw [Counts, hfld] at hcounts
    rw [hpost]
    exact hcounts

theorem homeRead_logged (off dom : Nat) (cls : Option Nat) (errs : SymErrs) : Emits (fun _ => True) (homeRead off dom cls errs) :=
  ((plantErrs_emits _ _).mono fun _ _ => trivial).bind fun _ => submit_lone_logged

/-- What stands before no on-die read of a line: its stack serves it, no pin of its pseudo-channel is erased, the access is allowed, and nothing
waits at the slices. -/
structure Dev.readFree (d : Dev) (n : Nat) (dom cls : Option Nat) : Prop where
  errs : d.errsAt n = []
  serves : d.stackServes (stackOf (64 * n)) = true
  unrepaired : d.repairing (64 * n) = false
  quiet : d.quiet
  snoops : ∀ x ∈ d.home.snoops, x.line ≠ n
  groups : d.home.groups = []
  unerased : d.erasedPin (stackOf (64 * n)) (pcOf (64 * n)) = none
  allowed : d.refusal (64 * n) dom cls = none

theorem Dev.readFree.inStore {d : Dev} {n : Nat} {dom cls : Option Nat} (h : d.readFree n dom cls) : 64 * n < storeEnd := by
  have hallowed := h.allowed
  by_contra hout
  simp [Dev.refusal, Nat.not_lt.mp hout] at hallowed

theorem refusal_of_tag {d e : Dev} {off : Nat} {dom cls : Option Nat}
    (h : e.reg (A.DOM_EXT_TAG (extentOf off)) = d.reg (A.DOM_EXT_TAG (extentOf off))) : e.refusal off dom cls = d.refusal off dom cls := by
  unfold Dev.refusal Dev.extState Dev.extDom Dev.extCls Dev.fld
  dsimp only
  rw [h]

section
variable {s : State} {offset : Nat} {domain : Fin 32} {cls : Option Bool} {errs : SymErrs}

/-- The request of a HOME_READ, and the work in which it has been handed to its slice. -/
def State.readReq (s : State) (offset : Nat) (domain : Fin 32) (cls : Option Bool) : HReq :=
  s.dev.home.lone .rdE (lineNo offset) (some domain.val) (cls.map b2n)

def State.readHanded (s : State) (offset : Nat) (domain : Fin 32) (cls : Option Bool) (errs : SymErrs) : Work :=
  (M.post (plantErrs (lineNo offset) errs) ⟨s.dev, []⟩).handed (s.readReq offset domain cls)

variable (h : s.dev.readFree (lineNo offset) (some domain.val) (cls.map b2n))
include h

theorem readHanded_planted : Planted (lineNo offset) errs s.dev (M.post (plantErrs (lineNo offset) errs) ⟨s.dev, []⟩).dev :=
  plantErrs_plants (w := ⟨s.dev, []⟩) h.errs errs

theorem readHanded_reg {a : Nat} (ha : a ≠ A.STK_ODECC_CNT (stackOf (64 * lineNo offset))) :
    (s.readHanded offset domain cls errs).dev.reg a = s.dev.reg a := (readHanded_planted h).changes.regs a ha

theorem readHanded_clear : (s.readHanded offset domain cls errs).dev.clear (s.readReq offset domain cls) where
  allowed := by
    have hin := h.inStore
    refine (refusal_of_tag (off := 64 * lineNo offset) (readHanded_reg h ?_)).trans h.allowed
    simp only [extentOf, Nat.shiftRight_eq_div_pow, A.DOM_EXT_TAG, A.STK_ODECC_CNT, storeEnd] at hin ⊢
    omega
  serves := by
    have hreg := readHanded_reg (errs := errs) h (a := A.STK_STATUS (stackOf (64 * lineNo offset))) (by
      simp only [A.STK_STATUS, A.STK_ODECC_CNT]; omega)
    have hserves := h.serves
    simp only [Dev.stackServes, Dev.fld] at hserves ⊢
    rw [show (s.readReq offset domain cls).line = lineNo offset from rfl, hreg]
    exact hserves
  unrepaired := by
    have hrepairing := h.unrepaired
    simp only [Dev.repairing] at hrepairing ⊢
    rw [show (s.readHanded offset domain cls errs).dev.store = _ from (readHanded_planted (errs := errs) h).store]
    exact hrepairing
  snoops := by
    have hhome : (M.post (plantErrs (lineNo offset) errs) ⟨s.dev, []⟩).dev.home = s.dev.home :=
      (readHanded_planted h).changes.parts .home (by simp)
    have hsnoops : (M.post (plantErrs (lineNo offset) errs) ⟨s.dev, []⟩).dev.home.snoops = s.dev.home.snoops := by rw [hhome]
    rw [show (s.readHanded offset domain cls errs).dev.home.snoops = s.dev.home.snoops from hsnoops, List.any_eq_false]
    exact fun x hx => by simpa [State.readReq, HomeSt.lone] using h.snoops x hx
  writes hop := Bool.noConfusion hop

theorem readHanded_readable : (s.readHanded offset domain cls errs).dev.readable (lineNo offset) where
  serves := (readHanded_clear h).serves
  unerased := (erasedPin_congr (readHanded_reg h (by simp only [A.STK_PC_ERASE, A.STK_ODECC_CNT]; omega))).trans h.unerased

/-- Once its slice has ordered it, the request is answered, and the row is done. -/
theorem homeRead_completes (hoffset : offset < 2 ^ 39) (hfit : symErrsFit errs = true) {w : Work}
    (hpost : M.post (tryReq (s.readReq offset domain cls)) (s.readHanded offset domain cls errs) = w)
    (hval : ∃ a, M.val (tryReq (s.readReq offset domain cls)) (s.readHanded offset domain cls errs) = some a)
    (hwaiting : w.dev.home.waiting = (s.readHanded offset domain cls errs).dev.home.waiting)
    (hgroups : w.dev.home.groups = (s.readHanded offset domain cls errs).dev.home.groups)
    {bytes : Nat → Prop} (htouches : Touches [.store, .home, .evq] lossRegs bytes (s.readHanded offset domain cls errs).dev w.dev)
    {post : State → Prop} (ht : post { s with dev := w.answered.dev }) : Completes (.homeRead offset domain cls errs) s post := by
  obtain ⟨a, ha⟩ := hval
  obtain ⟨hwaits, -, hcalm⟩ := h.quiet
  have hplanted := readHanded_planted (errs := errs) h
  have hhome : (M.post (plantErrs (lineNo offset) errs) ⟨s.dev, []⟩).dev.home = s.dev.home := hplanted.changes.parts .home (by simp)
  have hlone : (M.post (plantErrs (lineNo offset) errs) ⟨s.dev, []⟩).dev.home.lone .rdE (lineNo offset) (some domain.val) (cls.map b2n) =
      s.readReq offset domain cls := by rw [hhome]; rfl
  have hlow : ∀ q < 4, ¬ lossRegs (A.TLK_VIOL_CFG q) := fun q hq => not_lossRegs (.inr (by simp only [A.TLK_VIOL_CFG]; omega))
  have hcalm₀ : (M.post (plantErrs (lineNo offset) errs) ⟨s.dev, []⟩).dev.calm :=
    calm_of_touches hplanted.changes (fun q hq => by simp only [A.TLK_VIOL_CFG, A.STK_ODECC_CNT]; omega) (by simp) hcalm
  have hcalm₁ : w.dev.calm := calm_of_touches htouches hlow (by simp) (calm_steady hcalm₀ (handed_steady _ _))
  have hall : M.post (homeRead offset domain.val (cls.map b2n) errs) ⟨s.dev, []⟩ = w.answered := by
    rw [homeRead, post_bind]
    exact post_submit_lone (by rw [hhome, hwaits]) (by rw [hhome, h.groups]) (by rw [hlone]; exact ha) (by rw [hlone]; exact hpost)
      (by rw [hlone, hwaiting]; rfl) (by rw [hgroups, hhome]; rfl) hcalm₁
  have hlog : s.dev.replay w.answered.log = w.answered.dev := by
    rw [← hall]
    exact Emits.replay_log (homeRead_logged _ _ _ _) rfl
  exact completes_runIf (e := w.answered.dev) rfl (by simpa using ⟨hoffset, hfit⟩) hall hlog ht

theorem readHanded_lines : (s.readHanded offset domain cls errs).dev.store.lines = s.dev.store.lines := by
  have hstore := (readHanded_planted (errs := errs) h).store
  exact (by rw [hstore] : (M.post (plantErrs (lineNo offset) errs) ⟨s.dev, []⟩).dev.store.lines = s.dev.store.lines)

theorem readHanded_keys : (s.readHanded offset domain cls errs).dev.store.keys = s.dev.store.keys := by
  have hstore := (readHanded_planted (errs := errs) h).store
  exact (by rw [hstore] : (M.post (plantErrs (lineNo offset) errs) ⟨s.dev, []⟩).dev.store.keys = s.dev.store.keys)

theorem readHanded_dc : (s.readHanded offset domain cls errs).dev.home.dc = s.dev.home.dc := by
  have hhome : (M.post (plantErrs (lineNo offset) errs) ⟨s.dev, []⟩).dev.home = s.dev.home :=
    (readHanded_planted h).changes.parts .home (by simp)
  exact (by rw [hhome] : (M.post (plantErrs (lineNo offset) errs) ⟨s.dev, []⟩).dev.home.dc = s.dev.home.dc)

theorem readHanded_byte (a : Nat) : (s.readHanded offset domain cls errs).dev.byte a = s.dev.byte a :=
  (readHanded_planted h).changes.bytes a not_false

theorem readHanded_asRead (found : SymErrs) :
    (s.readHanded offset domain cls errs).dev.asRead (lineNo offset) found = s.dev.asRead (lineNo offset) found := by
  have hin := h.inStore
  have hlow : ∀ a, a < 0xe0000 → (s.readHanded offset domain cls errs).dev.reg a = s.dev.reg a :=
    fun a ha => readHanded_reg h (by simp only [A.STK_ODECC_CNT]; omega)
  have htag := hlow (A.DOM_EXT_TAG (extentOf (64 * lineNo offset))) (by
    simp only [extentOf, Nat.shiftRight_eq_div_pow, A.DOM_EXT_TAG, storeEnd] at hin ⊢
    omega)
  exact asRead_congr (congrArg F.TOP_SPAN_DIM_SPAN_ID.of (hlow _ (by decide))) (congrArg (bits · 0 14) (hlow _ (by decide)))
    (congrArg F.DOM_EXT_TAG_CLASS.of htag) (congrArg F.DOM_EXT_TAG_DOMAIN.of htag) (readHanded_keys h) (readHanded_byte h) found

theorem readHanded_found : (s.readHanded offset domain cls errs).dev.errsAt (s.readReq offset domain cls).line = symbolsOf errs :=
  (readHanded_planted h).found

section
variable (hoffset : offset < 2 ^ 39) (hfit : symErrsFit errs = true)
include hoffset hfit

/-- HOME_READ without symbol errors. -/
theorem homeRead_sound (hnew : symbolsOf errs = []) : Completes (.homeRead offset domain cls errs) s fun t =>
    let k := stackOf (64 * lineNo offset)
    Counts (A.STK_ODECC_CNT k) errs.length s.dev t.dev ∧ t.dev.store.lines = s.dev.store.lines ∧ t.dev.home.dc = s.dev.home.dc ∧
    Changes [.store, .home] (· ∈ [A.STK_STATUS k, A.RIND_DEC_CNT k, A.STK_ODECC_CNT k]) s.dev t.dev := by
  have hplanted := readHanded_planted (errs := errs) h
  obtain ⟨w, hw⟩ : ∃ x, x = M.post (tryReq (s.readReq offset domain cls)) (s.readHanded offset domain cls errs) := ⟨_, rfl⟩
  obtain ⟨hval, hread⟩ := hw ▸ tryReq_read_sound (readHanded_clear h) rfl rfl ((readHanded_found h).trans hnew)
  have hlow : ∀ a, (a = A.STK_STATUS (stackOf (64 * lineNo offset)) ∨ a = A.RIND_DEC_CNT (stackOf (64 * lineNo offset))) → lossRegs a :=
    fun a ha => .inl (by simp only [A.STK_STATUS, A.RIND_DEC_CNT] at ha; omega)
  refine homeRead_completes h hoffset hfit hw.symm hval hread.waiting hread.groups
    (Touches.mono hread.changes (by simp) hlow fun _ => id) ⟨?_, hread.lines.trans (readHanded_lines h), hread.dc.trans (readHanded_dc h), ?_⟩
  · have hcounts := hplanted.counts
    rw [hnew, List.length_nil, Nat.sub_zero] at hcounts
    refine Eq.trans (hread.changes.fld ?_ ⟨0, 32⟩) hcounts
    rw [show (s.readReq offset domain cls).line = lineNo offset from rfl]
    simp only [A.STK_STATUS, A.RIND_DEC_CNT, A.STK_ODECC_CNT]
    omega
  · have hfirst : Changes [.store, .home] (· ∈ [A.STK_STATUS (stackOf (64 * lineNo offset)), A.RIND_DEC_CNT (stackOf (64 * lineNo offset)),
        A.STK_ODECC_CNT (stackOf (64 * lineNo offset))]) s.dev (M.post (plantErrs (lineNo offset) errs) ⟨s.dev, []⟩).dev :=
      hplanted.changes.mono (by simp) (by simp +contextual)
    refine (hfirst.trans (handed_touches _ (s.readReq offset domain cls) (by simp))).trans
      ((hread.changes.mono (List.Subset.refl _) ?_).trans (answered_touches w (by simp)))
    rintro a (rfl | rfl)
    · exact List.mem_cons_self ..
    · exact List.mem_cons_of_mem _ (List.mem_cons_self ..)

/-- HOME_READ with one or two wrong symbols. -/
theorem homeRead_corrected (hlen : (realErrs (symbolsOf errs)).length ∈ [1, 2]) : Completes (.homeRead offset domain cls errs) s fun t =>
    Counts (A.STK_CE_CNT (stackOf (64 * lineNo offset))) 1 s.dev t.dev ∧ t.dev.errsAt (lineNo offset) = [] ∧
    t.dev.store.lines = s.dev.store.lines ∧ ∀ a, t.dev.byte a = s.dev.byte a := by
  obtain ⟨w, hw⟩ : ∃ x, x = M.post (tryReq (s.readReq offset domain cls)) (s.readHanded offset domain cls errs) := ⟨_, rfl⟩
  obtain ⟨hval, hcorrected⟩ := hw ▸ tryReq_read_corrected (readHanded_clear h) rfl rfl (readHanded_readable h) (by rwa [readHanded_found h])
  have hread := hcorrected.reading
  have hlow : ∀ a, (readRegs (lineNo offset) a ∨ a = A.STK_CE_CNT (stackOf (64 * lineNo offset))) → lossRegs a := by
    rintro a (ha | rfl)
    · exact lossRegs_of_read ha
    · exact .inl (by simp only [A.STK_CE_CNT]; omega)
  have hfld : (s.readHanded offset domain cls errs).dev.fld (A.STK_CE_CNT (stackOf (64 * lineNo offset))) ⟨0, 32⟩ =
      s.dev.fld (A.STK_CE_CNT (stackOf (64 * lineNo offset))) ⟨0, 32⟩ :=
    congrArg (Fld.of ⟨0, 32⟩) (readHanded_reg h (by simp only [A.STK_CE_CNT, A.STK_ODECC_CNT]; omega))
  have hcounts : Counts (A.STK_CE_CNT (stackOf (64 * lineNo offset))) 1 (s.readHanded offset domain cls errs).dev w.dev := hcorrected.counts
  rw [Counts, hfld] at hcounts
  exact homeRead_completes h hoffset hfit hw.symm hval hread.waiting hread.groups (hread.toTouches hlow)
    ⟨hcounts, hcorrected.errs, hread.lines.trans (readHanded_lines h), fun a => (hread.byte a).trans (readHanded_byte h a)⟩

/-- HOME_READ with three or four wrong symbols. -/
theorem homeRead_lost (hdc : ∀ e ∈ s.dev.home.dc, e.line ≠ lineNo offset) (hlen : (realErrs (symbolsOf errs)).length ∈ [3, 4]) :
    Completes (.homeRead offset domain cls errs) s fun t =>
      Counts (A.STK_UE_CNT (stackOf (64 * lineNo offset))) 1 s.dev t.dev ∧ t.dev.errsAt (lineNo offset) = [] ∧
      (t.dev.meta_ (lineNo offset)).poison = true ∧ (t.dev.meta_ (lineNo offset)).pcause = 1 ∧
      Stores (lineNo offset) (s.dev.asRead (lineNo offset) (symbolsOf errs)) s.dev t.dev := by
  have huncached : (s.readHanded offset domain cls errs).dev.home.dc.any (·.line == lineNo offset) = false := by
    rw [readHanded_dc h, List.any_eq_false]
    exact fun e he => by simpa using hdc e he
  obtain ⟨w, hw⟩ : ∃ x, x = M.post (tryReq (s.readReq offset domain cls)) (s.readHanded offset domain cls errs) := ⟨_, rfl⟩
  obtain ⟨hval, hlost⟩ := hw ▸ tryReq_read_lost h.inStore (readHanded_clear h) rfl rfl (readHanded_readable h) huncached (by rwa [readHanded_found h])
  rw [readHanded_found h, show (s.readReq offset domain cls).line = lineNo offset from rfl, readHanded_asRead h] at hlost
  have hfld : (s.readHanded offset domain cls errs).dev.fld (A.STK_UE_CNT (stackOf (64 * lineNo offset))) ⟨0, 32⟩ =
      s.dev.fld (A.STK_UE_CNT (stackOf (64 * lineNo offset))) ⟨0, 32⟩ :=
    congrArg (Fld.of ⟨0, 32⟩) (readHanded_reg h (by simp only [A.STK_UE_CNT, A.STK_ODECC_CNT]; omega))
  have hcounts := hlost.counts
  rw [Counts, hfld] at hcounts
  exact homeRead_completes h hoffset hfit hw.symm hval hlost.waiting hlost.groups hlost.touches
    ⟨hcounts, hlost.errs, hlost.poison, hlost.pcause, hlost.stores.1, fun a ha => (hlost.stores.2 a ha).trans (readHanded_byte h a)⟩

end

end

theorem homeReadDecodes : Clause.HomeReadDecodes := by
  intro s offset domain cls errs n k new hoffset hfit herrs hserves hrepairing hquiet hsnoops hgroups herased hallowed
  have hfree : s.dev.readFree n (some domain.val) (cls.map b2n) :=
    ⟨herrs, hserves, hrepairing, hquiet, hsnoops, hgroups, herased, hallowed⟩
  exact ⟨homeRead_sound hfree hoffset hfit, homeRead_corrected hfree hoffset hfit, fun hlen hdc => homeRead_lost hfree hoffset hfit hdc hlen⟩

end Sys2Proof.Machine
end

section
/-! PROOFS. The patrol scrub (R110; O15). -/

namespace Sys2Proof.Machine

/-! ## The line at the scrub position -/

theorem xor_mod_eight (a b : Nat) : (a ^^^ b) % 8 = a % 8 ^^^ b % 8 := Nat.xor_mod_two_pow (n := 3)

/-- The offset map puts its parts side by side (R97). -/
theorem offset_parts {r p s l : Nat} (hp : p < 64) (hs : s < 8) (hl : l < 4) :
    (r <<< 17) ||| (p <<< 11) ||| (s <<< 8) ||| (l <<< 6) = 131072 * r + 2048 * p + 256 * s + 64 * l := by
  have hline : l <<< 6 < 2 ^ 8 := by rw [Nat.shiftLeft_eq]; omega
  have hstack : s <<< 8 + l <<< 6 < 2 ^ 11 := by simp only [Nat.shiftLeft_eq]; omega
  have hpc : p <<< 11 + (s <<< 8 + l <<< 6) < 2 ^ 17 := by simp only [Nat.shiftLeft_eq]; omega
  rw [Nat.or_assoc, Nat.or_assoc, ← Nat.shiftLeft_add_eq_or_of_lt hline, ← Nat.shiftLeft_add_eq_or_of_lt hstack,
    ← Nat.shiftLeft_add_eq_or_of_lt hpc]
  simp only [Nat.shiftLeft_eq]
  omega

theorem stackOf_offset {r p s l : Nat} (hp : p < 64) (hs : s < 8) (hl : l < 4) :
    stackOf (131072 * r + 2048 * p + 256 * s + 64 * l) = s ^^^ r % 8 ^^^ (r >>> 9) % 8 := by
  obtain ⟨off, hoff⟩ : ∃ x, x = 131072 * r + 2048 * p + 256 * s + 64 * l := ⟨_, rfl⟩
  have hstack : (off >>> 8) % 8 = s := by rw [Nat.shiftRight_eq_div_pow]; omega
  have hslot : off >>> 17 = r := by rw [Nat.shiftRight_eq_div_pow]; omega
  have hhigh : off >>> 26 = r >>> 9 := by simp only [Nat.shiftRight_eq_div_pow]; omega
  rw [← hoff, stackOf, xor_mod_eight, xor_mod_eight, hstack, hslot, hhigh]

/-- Every line number of a stack names a line of that stack. -/
theorem offsetOf_line {k : Nat} (hk : k < 8) (n : Nat) : 64 * (offsetOf k n / 64) = offsetOf k n ∧ stackOf (offsetOf k n) = k := by
  have hparts := offset_parts (r := n >>> 8) (Nat.mod_lt (((n >>> 2) % 64) ^^^ (n >>> 8 >>> 3) ^^^ (n >>> 8 >>> 12)) (by decide : 64 > 0))
    (Nat.mod_lt (k ^^^ (n >>> 8) ^^^ (n >>> 8 >>> 9)) (by decide : 8 > 0)) (Nat.mod_lt n (by decide : 4 > 0))
  have hoffset := (rfl : offsetOf k n = _).trans hparts
  have hstack := stackOf_offset (r := n >>> 8)
    (Nat.mod_lt (((n >>> 2) % 64) ^^^ (n >>> 8 >>> 3) ^^^ (n >>> 8 >>> 12)) (by decide : 64 > 0))
    (Nat.mod_lt (k ^^^ (n >>> 8) ^^^ (n >>> 8 >>> 9)) (by decide : 8 > 0)) (Nat.mod_lt n (by decide : 4 > 0))
  refine ⟨by rw [hoffset]; omega, ?_⟩
  rw [hoffset, hstack, xor_mod_eight, xor_mod_eight, Nat.xor_right_comm _ _ ((n >>> 8) % 8), Nat.xor_assoc (k % 8), Nat.xor_self, Nat.xor_zero,
    Nat.xor_assoc, Nat.xor_self, Nat.xor_zero, Nat.mod_eq_of_lt hk]

/-! ## A scrub read -/

theorem post_plantErrs_none (n : Nat) (w : Work) : M.post (plantErrs n []) w = w := by
  simp [plantErrs]

/-- The position moves on, or starts again at the end of a pass (R110). -/
def advanceScrub (k n : Nat) : M Unit :=
  if n + 1 < linesPerStack then fset (A.STK_SCRUB_POS k) F.STK_SCRUB_POS_LINE (n + 1)
  else do
    fset (A.STK_SCRUB_POS k) F.STK_SCRUB_POS_LINE 0
    bump (A.STK_SCRUB_PASS_CNT k)
    modStore fun x => { x with tally := x.tally.filter fun e => e.1 / 4096 != k }

/-- The work in which a stack's scrub read has come. -/
def Work.scrubbing (d : Dev) (k : Nat) : Work :=
  let w := Work.add ⟨d, []⟩ (.now (tget 0 d.store.lastScrub k + max 64 (d.fld (A.STK_SCRUB_CFG k) F.STK_SCRUB_CFG_INTERVAL)))
  w.add (.store { d.store with lastScrub := tset 0 d.store.lastScrub k w.dev.now })

/-- What stands before no scrub read of a line: its stack serves it, outside P3, and the line holds no symbol error. -/
structure Dev.scrubFree (d : Dev) (k line : Nat) : Prop where
  enabled : d.fld (A.STK_CFG k) F.STK_CFG_SCRUB_EN = 1
  power : d.power ≠ 3
  serves : d.stackServes k = true
  unrepaired : d.repairing (64 * line) = false
  snoops : ∀ x ∈ d.home.snoops, x.line ≠ line
  errs : d.errsAt line = []

section
variable {d : Dev} {k : Nat}

theorem post_scrub (h : d.scrubFree k (offsetOf k (d.fld (A.STK_SCRUB_POS k) F.STK_SCRUB_POS_LINE) / 64)) :
    let n := d.fld (A.STK_SCRUB_POS k) F.STK_SCRUB_POS_LINE
    let line := offsetOf k n / 64
    M.post (scrub k []) ⟨d, []⟩ =
      M.post (advanceScrub k n) (M.post (on (!(d.meta_ line).poison) (touchLine line)) (Work.scrubbing d k)) := by
  obtain ⟨n, hn⟩ : ∃ x, x = d.fld (A.STK_SCRUB_POS k) F.STK_SCRUB_POS_LINE := ⟨_, rfl⟩
  rw [← hn] at h ⊢
  obtain ⟨line, hline⟩ : ∃ x, x = offsetOf k n / 64 := ⟨_, rfl⟩
  rw [← hline] at h
  have hsnoops : d.home.snoops.any (·.line == line) = false := by
    rw [List.any_eq_false]
    exact fun x hx => by simpa using h.snoops x hx
  have hcond : d.fld (A.STK_CFG k) F.STK_CFG_SCRUB_EN = 1 ∧ d.power ≠ 3 ∧ d.stackServes k ∧ ¬ d.repairing (64 * line) ∧
      ¬ d.home.snoops.any (·.line == line) := ⟨h.enabled, h.power, h.serves, by simp [h.unrepaired], by simp [hsnoops]⟩
  have hread : M.post (do touchLine line; settleRead none line true) (Work.scrubbing d k) = M.post (touchLine line) (Work.scrubbing d k) :=
    post_settleRead_touched h.errs none true
  have hto : M.post (on (!((Work.scrubbing d k).dev.meta_ line).poison) (do touchLine line; settleRead none line true)) (Work.scrubbing d k) =
      M.post (on (!(d.meta_ line).poison) (touchLine line)) (Work.scrubbing d k) := by
    rw [post_on, post_on, hread]
    rfl
  have hscrub : M.post (scrub k []) ⟨d, []⟩ = M.post (advanceScrub k n)
      (M.post (on (!((Work.scrubbing d k).dev.meta_ line).poison) (do touchLine line; settleRead none line true)) (Work.scrubbing d k)) := by
    simp only [scrub, post_bind, val_dev, post_dev, ← hn, ← hline, if_pos hcond, post_passTo, val_now, post_now, post_modStore,
      post_plantErrs_none, post_ite, advanceScrub, post_fset, post_bump]
    rfl
  simp only [← hline, hscrub, hto]

end

/-- What a scrub read leaves as it was until the position moves on. -/
theorem touchLine_scrub {k n : Nat} (hn : stackOf (64 * n) = k) (c : Bool) (w : Work) :
    let e := (M.post (on c (touchLine n)) w).dev
    e.store.lastScrub = w.dev.store.lastScrub ∧ e.store.tally = w.dev.store.tally ∧ Changes [.store] (· = A.STK_STATUS k) w.dev e := by
  have hkept : ∀ (x : StoreSt) off, (x.activate off).lastScrub = x.lastScrub ∧ (x.activate off).tally = x.tally := by
    intro x off
    unfold StoreSt.activate
    dsimp only
    split <;> exact ⟨rfl, rfl⟩
  have hchanges := (Emits.on (c := c) (hn ▸ touchLine_stack n)).changes_post (w := w) (Changes.refl ..)
  cases c with
  | false => exact ⟨rfl, rfl, hchanges⟩
  | true =>
    have hstore : ∃ x : StoreSt, x.lastScrub = w.dev.store.lastScrub ∧ x.tally = w.dev.store.tally ∧
        (M.post (touchLine n) w).dev.store = x.activate (64 * n) := by
      let bank := stackOf (64 * n) * 64 + pcOf (64 * n)
      refine ⟨{ w.dev.store with down := w.dev.store.down.erase bank, lastUse := tset 0 w.dev.store.lastUse bank w.dev.now }, rfl, rfl, ?_⟩
      simp only [touchLine, post_bind, val_dev, post_dev, post_modStore, post_on]
      split
      · exact Upd.csr_store ..
      · rfl
    obtain ⟨x, hscrub, htally, hstore⟩ := hstore
    have hto : M.post (on true (touchLine n)) w = M.post (touchLine n) w := rfl
    simp only [hto] at hchanges ⊢
    exact ⟨by rw [hstore, (hkept ..).1, hscrub], by rw [hstore, (hkept ..).2, htally], hchanges⟩

/-! ## The statement -/

theorem takesFld_scrub : ∀ k < 8, takesFld (A.STK_SCRUB_POS k) F.STK_SCRUB_POS_LINE := by decide +kernel

/-- The position, the count of passes and the tally after a scrub read. -/
theorem advanceScrub_moves {k n : Nat} (hk : k < 8) (w : Work) :
    let e := (M.post (advanceScrub k n) w).dev
    let last := linesPerStack ≤ n + 1
    e.store.lastScrub = w.dev.store.lastScrub ∧
    e.fld (A.STK_SCRUB_POS k) F.STK_SCRUB_POS_LINE = (if last then 0 else n + 1) ∧
    (last → Counts (A.STK_SCRUB_PASS_CNT k) 1 w.dev e ∧ ∀ x ∈ e.store.tally, x.1 / 4096 ≠ k) ∧
    (¬ last → e.reg (A.STK_SCRUB_PASS_CNT k) = w.dev.reg (A.STK_SCRUB_PASS_CNT k) ∧ e.store.tally = w.dev.store.tally) ∧
    Changes [.store] (· ∈ [A.STK_SCRUB_POS k, A.STK_SCRUB_PASS_CNT k]) w.dev e := by
  have hpos := takesFld_scrub k hk
  have hapart : A.STK_SCRUB_PASS_CNT k ≠ A.STK_SCRUB_POS k := by simp only [A.STK_SCRUB_PASS_CNT, A.STK_SCRUB_POS]; omega
  by_cases hlast : n + 1 < linesPerStack
  · have hpost : M.post (advanceScrub k n) w = M.post (fset (A.STK_SCRUB_POS k) F.STK_SCRUB_POS_LINE (n + 1)) w := by
      rw [advanceScrub, if_pos hlast]
    have hmoved := fld_fset hpos (n + 1) w
    have hstore : (M.post (fset (A.STK_SCRUB_POS k) F.STK_SCRUB_POS_LINE (n + 1)) w).dev.store = w.dev.store := by simp
    simp only [hpost]
    refine ⟨congrArg StoreSt.lastScrub hstore, ?_, fun h => absurd h (by omega), fun _ => ⟨reg_fset_ne hapart .., congrArg StoreSt.tally hstore⟩,
      (Emits.fset (by simp)).changes_post (Changes.refl ..)⟩
    rw [hmoved, if_neg (by omega)]
    exact Nat.mod_eq_of_lt (Nat.lt_trans hlast (by decide))
  · obtain ⟨hassigned, hmask⟩ := storeCounters k hk (A.STK_SCRUB_PASS_CNT k) (by simp)
    obtain ⟨w₁, hw₁⟩ : ∃ x, x = M.post (fset (A.STK_SCRUB_POS k) F.STK_SCRUB_POS_LINE 0) w := ⟨_, rfl⟩
    obtain ⟨w₂, hw₂⟩ : ∃ x, x = M.post (bump (A.STK_SCRUB_PASS_CNT k)) w₁ := ⟨_, rfl⟩
    have hpost : M.post (advanceScrub k n) w = w₂.add (.store { w₂.dev.store with tally := w₂.dev.store.tally.filter fun e => e.1 / 4096 != k }) := by
      rw [hw₂, hw₁, advanceScrub, if_neg hlast]
      simp only [post_bind, post_modStore]
    have hmoved : w₁.dev.fld (A.STK_SCRUB_POS k) F.STK_SCRUB_POS_LINE = 0 := hw₁ ▸ fld_fset hpos 0 w
    have hset : Changes [.store] (· = A.STK_SCRUB_POS k) w.dev w₁.dev :=
      hw₁ ▸ (Emits.fset (regs := (· = A.STK_SCRUB_POS k)) rfl).changes_post (Changes.refl ..)
    have hbump : Changes [.store] (· = A.STK_SCRUB_PASS_CNT k) w₁.dev w₂.dev :=
      hw₂ ▸ (Emits.bump (regs := (· = A.STK_SCRUB_PASS_CNT k)) rfl).changes_post (Changes.refl ..)
    have hstore : w₂.dev.store = w.dev.store := by simp [hw₂, hw₁]
    have hcounts : Counts (A.STK_SCRUB_PASS_CNT k) 1 w₁.dev w₂.dev := hw₂ ▸ counts_fadd hassigned hmask w₁
    rw [Counts, hset.fld hapart] at hcounts
    simp only [hpost]
    refine ⟨?_, ?_, fun _ => ⟨hcounts, ?_⟩, fun h => absurd (Nat.not_lt.mp hlast) h, ?_⟩
    · exact (congrArg StoreSt.lastScrub hstore :)
    · exact ((hbump.fld hapart.symm _).trans hmoved).trans (if_pos (Nat.not_lt.mp hlast)).symm
    · intro x hx
      simpa using (List.mem_filter.mp hx).2
    · have hsteps : Changes [.store] (· ∈ [A.STK_SCRUB_POS k, A.STK_SCRUB_PASS_CNT k]) w.dev w₂.dev :=
        (hset.mono (List.Subset.refl _) (by simp +contextual)).trans (hbump.mono (List.Subset.refl _) (by simp +contextual))
      exact Foot.changes (u := .store _) (by simp [Foot]) hsteps

theorem scrub_logged {k : Nat} : Emits (fun _ => True) (scrub k []) := by
  have haside : ∀ {m : M Unit}, Emits Aside m → Emits (fun _ => True) m := fun hm => hm.mono fun _ _ => trivial
  refine Emits.dev.bind fun d => Emits.ite ?_ (Emits.pure _)
  refine Emits.bind (Emits.emit trivial) fun _ => Emits.now.bind fun t => Emits.bind (haside modStore_aside) fun _ =>
    Emits.bind (Emits.mono (plantErrs_emits _ _) fun _ _ => trivial) fun _ => Emits.dev.bind fun d => Emits.bind ?_ fun _ => ?_
  · exact Emits.on (haside (touchLine_aside.bind fun _ => settleRead_aside))
  · exact haside (Emits.ite fset_aside (fset_aside.bind fun _ => bump_aside.bind fun _ => modStore_aside))

theorem scrubAdvances : Clause.ScrubAdvances := by
  intro s k n line last henabled hpower hserves hunrepaired hsnoops herrs
  have hfree : s.dev.scrubFree k line := ⟨henabled, hpower, hserves, hunrepaired, hsnoops, herrs⟩
  have hstack : stackOf (64 * line) = k := (offsetOf_line k.isLt n).1 ▸ (offsetOf_line k.isLt n).2
  obtain ⟨w, hw⟩ : ∃ x, x = M.post (on (!(s.dev.meta_ line).poison) (touchLine line)) (Work.scrubbing s.dev k) := ⟨_, rfl⟩
  obtain ⟨hlast, htally, htouched⟩ := hw ▸ touchLine_scrub hstack (!(s.dev.meta_ line).poison) (Work.scrubbing s.dev k)
  obtain ⟨hscrubbed, hpos, hpass, hgoes, hmoves⟩ := advanceScrub_moves k.isLt (n := n) w
  have hpost : M.post (scrub k []) ⟨s.dev, []⟩ = M.post (advanceScrub k n) w := by rw [hw, post_scrub hfree]
  have hcome : Changes [.now, .store] noReg s.dev (Work.scrubbing s.dev k).dev :=
    Foot.changes (u := .store _) (by simp [Foot]) (Foot.changes (u := .now _) (by simp [Foot]) (Changes.refl ..))
  have hnow : w.dev.now = (Work.scrubbing s.dev k).dev.now := htouched.parts .now (by simp)
  have hcomeNow : (Work.scrubbing s.dev k).dev.now =
      max s.dev.now (tget 0 s.dev.store.lastScrub k + max 64 (s.dev.fld (A.STK_SCRUB_CFG k) F.STK_SCRUB_CFG_INTERVAL)) := rfl
  have hgone : (M.post (advanceScrub k n) w).dev.now = w.dev.now := hmoves.parts .now (by simp)
  have hsteps : Changes [.now, .store] (· = A.STK_STATUS k) s.dev w.dev :=
    (hcome.mono (List.Subset.refl _) fun _ => False.elim).trans (htouched.mono (by simp) fun _ => id)
  have hpassCnt : ¬ A.STK_SCRUB_PASS_CNT k = A.STK_STATUS k := by simp only [A.STK_SCRUB_PASS_CNT, A.STK_STATUS]; omega
  have hlog : s.dev.replay (M.post (advanceScrub k n) w).log = (M.post (advanceScrub k n) w).dev :=
    hpost ▸ scrub_logged.replay_log rfl
  refine completes_runIf (e := (M.post (advanceScrub k n) w).dev) rfl rfl hpost hlog ⟨?_, ?_, hpos, ?_, ?_, ?_⟩
  · exact hgone.trans (hnow.trans (hcomeNow.trans rfl))
  · have hread : tget 0 (Work.scrubbing s.dev k).dev.store.lastScrub k = (Work.scrubbing s.dev k).dev.now := by simp [Work.scrubbing]
    exact (congrArg (tget 0 · _) (hscrubbed.trans hlast)).trans (hread.trans (hgone.trans hnow).symm)
  · intro h
    obtain ⟨hcounts, hfiltered⟩ := hpass h
    rw [Counts, hsteps.fld hpassCnt] at hcounts
    exact ⟨hcounts, hfiltered⟩
  · intro h
    obtain ⟨hreg, hkept⟩ := hgoes h
    exact ⟨hreg.trans (hsteps.regs _ hpassCnt), hkept.trans htally⟩
  · exact (hsteps.mono (List.Subset.refl _) (by simp +contextual)).trans (hmoves.mono (by simp) (by simp +contextual))

/-- Settles O15: an access decodes the line that it reads, and the scrubber's position moves one line on. -/
theorem homeReads : Obligations.HomeReads := ⟨homeReadDecodes, scrubAdvances⟩

end Sys2Proof.Machine
end

section
/-! PROOFS. Serving the slices takes no time and leaves the system blocks as they are (O17). -/

namespace Sys2Proof.Machine

/-- What serving the slices changes: registers, bytes, and the state of the slices, of the links and of what waits for them. Neither the time nor
the system blocks are among it. -/
def Prompt : Upd → Prop
  | .csr .. | .mem .. | .free | .store _ | .evq _ | .home _ | .stn _ | .trf _ | .fab _ | .links _ | .cmd _ => True
  | _ => False

/-! ## The named operations -/

theorem wr_prompt {a : Nat} {v : Word} : Emits Prompt (wr a v) := Emits.emit trivial
theorem fset_prompt {a : Nat} {f : Fld} {x : Nat} : Emits Prompt (fset a f x) := (Emits.rd a).bind fun _ => wr_prompt
theorem fadd_prompt {a : Nat} {f : Fld} {n : Nat} : Emits Prompt (fadd a f n) := (Emits.fget a f).bind fun _ => fset_prompt
theorem bump_prompt {a : Nat} : Emits Prompt (bump a) := fadd_prompt
theorem bump48_prompt {a n : Nat} : Emits Prompt (bump48 a n) := fadd_prompt
theorem modStore_prompt {f : StoreSt → StoreSt} : Emits Prompt (modStore f) := (Emits.look _).bind fun _ => Emits.emit trivial
theorem modEvq_prompt {f : EvqSt → EvqSt} : Emits Prompt (modEvq f) := (Emits.look _).bind fun _ => Emits.emit trivial
theorem modHome_prompt {f : HomeSt → HomeSt} : Emits Prompt (modHome f) := (Emits.look _).bind fun _ => Emits.emit trivial
theorem modStn_prompt {f : StnSt → StnSt} : Emits Prompt (modStn f) := (Emits.look _).bind fun _ => Emits.emit trivial
theorem modTrf_prompt {f : TrfSt → TrfSt} : Emits Prompt (modTrf f) := (Emits.look _).bind fun _ => Emits.emit trivial
theorem modFab_prompt {f : FabSt → FabSt} : Emits Prompt (modFab f) := (Emits.look _).bind fun _ => Emits.emit trivial
theorem modLink_prompt {n : Nat} {f : Link → Link} : Emits Prompt (modLink n f) := Emits.dev.bind fun _ => Emits.emit trivial
theorem wrMeta_prompt {n : Nat} {x : Meta} : Emits Prompt (wrMeta n x) := (Emits.look _).bind fun _ => Emits.emit trivial
theorem freeBelow_prompt {n : Nat} : Emits Prompt (freeBelow n) :=
  ((Emits.look _).bind fun _ => (Emits.emit trivial).bind fun _ => Emits.pure _).bind fun _ => Emits.pure _

theorem wrBytes_prompt {a : Nat} {l : List Byte} : Emits Prompt (wrBytes a l) := by
  induction l generalizing a with
  | nil => exact Emits.pure _
  | cons b l ih => exact (Emits.emit trivial).bind fun _ => ih

theorem setPortState_prompt {port st : Nat} : Emits Prompt (setPortState port st) := fset_prompt

/-! ## Records -/

theorem raise_prompt {code srcInst inst : Nat} {dom : Option Nat} {detail countA addr : Nat} :
    Emits Prompt (raise code srcInst inst dom detail countA addr) :=
  Emits.now.bind fun _ => (Emits.on ((Emits.fget _ _).bind fun _ => Emits.ite wr_prompt fadd_prompt)).bind fun _ =>
    (Emits.look _).bind fun _ => Emits.ite (bump_prompt.bind fun _ => modEvq_prompt) modEvq_prompt

/-! ## Egress -/

theorem shape_prompt {dom n : Nat} : Emits Prompt (shape dom n) := by
  induction n with
  | zero => exact Emits.pure _
  | succ n ih =>
    refine Emits.dev.bind fun d => ?_
    dsimp only
    split
    · exact (Emits.on fset_prompt).bind fun _ => modTrf_prompt.bind fun _ => ih
    · exact Emits.each fun _ _ => bump_prompt.bind fun _ => modTrf_prompt

theorem enqueue_prompt {port cls vc : Nat} {dom : Option Nat} {msg : OMsg} : Emits Prompt (enqueue port cls vc dom msg) := by
  cases dom with
  | none => exact Emits.now.bind fun _ => modTrf_prompt
  | some n => exact Emits.now.bind fun _ => modTrf_prompt.bind fun _ => (Emits.look _).bind fun _ => shape_prompt

theorem sendTlk_prompt {p : Nat} {dom : Option Nat} {m : TMsg} : Emits Prompt (sendTlk p dom m) := enqueue_prompt

theorem launch_prompt {dir : Nat} {fwd : Bool} {dom : Option Nat} {m : DMsg} : Emits Prompt (launch dir fwd dom m) :=
  Emits.dev.bind fun _ => enqueue_prompt

theorem addDead_prompt {node dir : Nat} : Emits Prompt (addDead node dir) := Emits.dev.bind fun _ => modFab_prompt.bind fun _ => wr_prompt

theorem sendOwn_prompt {dom : Option Nat} {n : Nat} {m : DMsg} : Emits Prompt (sendOwn dom n m) := by
  induction n with
  | zero => exact Emits.pure _
  | succ n ih =>
    refine Emits.dev.bind fun d => ?_
    split
    · exact Emits.pure _
    · dsimp only
      split
      · exact Emits.pure _
      · exact Emits.ite launch_prompt (bump_prompt.bind fun _ => addDead_prompt.bind fun _ => ih)

theorem sendDrsFor_prompt {dom : Option Nat} {m : DMsg} : Emits Prompt (sendDrsFor dom m) := sendOwn_prompt
theorem sendExt_prompt {dom : Option Nat} {m : DMsg} : Emits Prompt (sendExt dom m) := (Emits.look _).bind fun _ => enqueue_prompt

theorem countViolation_prompt {port reason type x : Nat} : Emits Prompt (countViolation port reason type x) := by
  refine Emits.now.bind fun _ => Emits.ite
    (bump_prompt.bind fun _ => wr_prompt.bind fun _ => raise_prompt.bind fun _ => Emits.dev.bind fun d => ?_)
    (bump_prompt.bind fun _ => wr_prompt.bind fun _ => raise_prompt.bind fun _ => Emits.dev.bind fun d => ?_)
  all_goals
    split
    · exact modLink_prompt.bind fun _ => fset_prompt
    · exact modLink_prompt.bind fun _ => fadd_prompt

/-! ## Lines of the store -/

theorem putLine_prompt {n pcause : Nat} {v : Line} : Emits Prompt (putLine n v pcause) :=
  (Emits.look _).bind fun _ => modStore_prompt.bind fun _ => wrBytes_prompt.bind fun _ => wrMeta_prompt.bind fun _ =>
    (Emits.dev.bind fun _ => Emits.on bump48_prompt).bind fun _ => Emits.on bump_prompt

theorem poisonLine_prompt {n pcause : Nat} : Emits Prompt (poisonLine n pcause) := (Emits.look _).bind fun _ => putLine_prompt
theorem setDir_prompt {n dir : Nat} : Emits Prompt (setDir n dir) := (Emits.look _).bind fun _ => wrMeta_prompt

theorem writeDir_prompt {n st ports : Nat} : Emits Prompt (writeDir n st ports) :=
  Emits.dev.bind fun _ => Emits.ite (modHome_prompt.bind fun _ => setDir_prompt) (Emits.ite setDir_prompt modHome_prompt)

theorem loseOwner_prompt {n : Nat} : Emits Prompt (loseOwner n) := by
  refine Emits.dev.bind fun d => ?_
  split
  · exact modHome_prompt.bind fun _ => putLine_prompt
  · exact poisonLine_prompt

theorem sendSnoop_prompt {n p : Nat} {isRec : Bool} : Emits Prompt (sendSnoop n p isRec) :=
  Emits.dev.bind fun _ => Emits.ite ((Emits.on loseOwner_prompt).bind fun _ => Emits.on writeDir_prompt)
    (modHome_prompt.bind fun _ => sendTlk_prompt)

theorem dcRoom_prompt {n : Nat} : Emits Prompt (dcRoom n) := by
  refine Emits.dev.bind fun d => Emits.ite (Emits.pure _) ?_
  split
  · exact modHome_prompt.bind fun _ => setDir_prompt.bind fun _ => bump_prompt.bind fun _ => Emits.pure _
  · split
    · exact Emits.ite (Emits.pure _) (bump_prompt.bind fun _ => (Emits.each fun _ _ => sendSnoop_prompt).bind fun _ => Emits.pure _)
    · exact Emits.pure _

theorem markDirty_prompt {n : Nat} : Emits Prompt (markDirty n) := by
  refine Emits.dev.bind fun d => ?_
  split
  · exact Emits.pure _
  · exact Emits.ite modFab_prompt modFab_prompt

theorem writeLine_prompt {n pcause : Nat} {mask : BitVec 64} {v : Line} : Emits Prompt (writeLine n mask v pcause) := by
  have hput : ∀ {v pcause} {a : HAns}, Emits Prompt (do putLine n v pcause; markDirty n; return a) :=
    putLine_prompt.bind fun _ => markDirty_prompt.bind fun _ => Emits.pure _
  have hpoison : ∀ {pcause} {a : HAns}, Emits Prompt (do poisonLine n pcause; markDirty n; return a) :=
    poisonLine_prompt.bind fun _ => markDirty_prompt.bind fun _ => Emits.pure _
  exact Emits.dev.bind fun _ => Emits.ite (Emits.pure _) (Emits.ite hput (Emits.ite hpoison (Emits.ite hpoison hput)))

theorem readLine_prompt {n : Nat} : Emits Prompt (readLine n) :=
  (Emits.dev.bind fun _ => Emits.on bump48_prompt).bind fun _ => Emits.dev.bind fun _ => Emits.pure _

theorem atomLine_prompt {n off op size : Nat} {a b : BitVec 128} : Emits Prompt (atomLine n off op size a b) :=
  Emits.dev.bind fun _ => Emits.ite (Emits.pure _) (putLine_prompt.bind fun _ => markDirty_prompt.bind fun _ => Emits.pure _)

/-! ## Reads and their symbol errors -/

theorem decodeErrs_prompt {erased : Option Nat} {syms : List Nat} : Emits Prompt (decodeErrs erased syms) := by
  have hfree : ∀ {f : Nat → Decoded}, Emits Prompt (do let x ← freeBelow 2; return f x) := freeBelow_prompt.bind fun _ => Emits.pure _
  cases erased with
  | none => exact Emits.ite (Emits.pure _) (Emits.ite (Emits.pure _) (Emits.ite (Emits.pure _) hfree))
  | some p => exact Emits.ite (Emits.pure _) (Emits.ite (Emits.pure _) (Emits.ite (Emits.pure _) hfree))

theorem startRepair_prompt {s pc pin : Nat} : Emits Prompt (startRepair s pc pin) := by
  refine Emits.dev.bind fun d => ?_
  split
  · exact fset_prompt.bind fun _ => fset_prompt
  · exact wr_prompt.bind fun _ => modStore_prompt

theorem setErased_prompt {s pc pin : Nat} : Emits Prompt (setErased s pc pin) :=
  fset_prompt.bind fun _ => fset_prompt.bind fun _ => Emits.dev.bind fun _ => fset_prompt.bind fun _ => fset_prompt

theorem tallyPin_prompt {s pc pin : Nat} : Emits Prompt (tallyPin s pc pin) := by
  refine Emits.dev.bind fun d => modStore_prompt.bind fun _ => Emits.ite ?_ (Emits.pure _)
  split
  · exact setErased_prompt.bind fun _ => raise_prompt.bind fun _ => Emits.on startRepair_prompt
  · exact Emits.on raise_prompt

theorem countCorrected_prompt {n : Nat} {syms : List Nat} {byScrub : Bool} : Emits Prompt (countCorrected n syms byScrub) := by
  have hpins : ∀ {l : List Nat} {s pc}, Emits Prompt (each l fun y => tallyPin s pc (pinOf y)) := Emits.each fun _ _ => tallyPin_prompt
  exact (Emits.look _).bind fun _ => Emits.ite
    (bump_prompt.bind fun _ => bump_prompt.bind fun _ => wr_prompt.bind fun _ => hpins)
    (bump_prompt.bind fun _ => bump_prompt.bind fun _ => wr_prompt.bind fun _ => hpins)

theorem decodeRead_prompt {n : Nat} {errs : SymErrs} {byScrub : Bool} : Emits Prompt (decodeRead n errs byScrub) := by
  refine (Emits.look _).bind fun _ => decodeErrs_prompt.bind fun r => ?_
  cases r with
  | corrected syms => exact countCorrected_prompt.bind fun _ => Emits.pure _
  | clean => exact Emits.pure _
  | uncorrectable => exact Emits.pure _

theorem uncorrectable_prompt {n : Nat} {errs : SymErrs} {byScrub : Bool} : Emits Prompt (uncorrectable n errs byScrub) :=
  (bump_prompt.bind fun _ => wr_prompt.bind fun _ => raise_prompt).bind fun _ => Emits.dev.bind fun _ => Emits.ite
    (modHome_prompt.bind fun _ => Emits.each fun _ _ => sendSnoop_prompt)
    ((Emits.on (Emits.each fun _ _ => sendSnoop_prompt)).bind fun _ => putLine_prompt.bind fun _ => writeDir_prompt)

theorem settleRead_prompt {who : Option Nat} {n : Nat} {byScrub : Bool} : Emits Prompt (settleRead who n byScrub) := by
  refine Emits.dev.bind fun d => Emits.ite (Emits.pure _) (modStore_prompt.bind fun _ => decodeRead_prompt.bind fun r => ?_)
  cases r with
  | uncorrectable => exact (Emits.on modHome_prompt).bind fun _ => uncorrectable_prompt
  | clean => exact Emits.pure _
  | corrected syms => exact Emits.pure _

theorem touchLine_prompt {n : Nat} : Emits Prompt (touchLine n) :=
  Emits.dev.bind fun _ => modStore_prompt.bind fun _ => Emits.on fset_prompt

/-! ## Requests at the slices -/

theorem checkAccess_prompt {off : Nat} {dom cls : Option Nat} : Emits Prompt (checkAccess off dom cls) := by
  refine (Emits.look _).bind fun r => ?_
  dsimp only
  split
  · exact (Emits.on bump_prompt).bind fun _ => Emits.pure _
  · exact Emits.pure _

theorem foundAnswer_prompt {r : HReq} {a : HAns} : Emits Prompt (foundAnswer r a) :=
  Emits.dev.bind fun _ => Emits.ite (modHome_prompt.bind fun _ => Emits.pure _) (Emits.pure _)

theorem readDir_prompt {r : HReq} : Emits Prompt (readDir r) :=
  Emits.dev.bind fun _ => Emits.on (touchLine_prompt.bind fun _ => settleRead_prompt)

theorem applyReq_prompt {r : HReq} : Emits Prompt (applyReq r) := by
  refine Emits.dev.bind fun d => ?_
  dsimp only
  split
  · exact readLine_prompt
  · exact (Emits.on writeDir_prompt).bind fun _ => readLine_prompt
  · refine readLine_prompt.bind fun a => ?_
    split
    · exact writeDir_prompt.bind fun _ => Emits.pure _
    · exact Emits.pure _
  · refine readLine_prompt.bind fun a => ?_
    split
    · exact Emits.ite (writeDir_prompt.bind fun _ => Emits.pure _) (writeDir_prompt.bind fun _ => Emits.pure _)
    · exact Emits.pure _
  · exact writeLine_prompt.bind fun _ => writeDir_prompt.bind fun _ => Emits.pure _
  · exact atomLine_prompt.bind fun _ => writeDir_prompt.bind fun _ => Emits.pure _
  · exact writeLine_prompt.bind fun _ => writeDir_prompt.bind fun _ => Emits.pure _
  · split
    · exact Emits.ite (writeDir_prompt.bind fun _ => Emits.pure _) ((Emits.on writeDir_prompt).bind fun _ => Emits.pure _)
    · exact Emits.pure _

theorem tryReq_prompt {r : HReq} : Emits Prompt (tryReq r) := by
  refine checkAccess_prompt.bind fun ref => ?_
  split
  · exact Emits.pure _
  · refine Emits.dev.bind fun d => Emits.ite (Emits.pure _) (Emits.ite (Emits.pure _) (Emits.ite (Emits.pure _) (Emits.ite (Emits.pure _)
      (Emits.ite (Emits.pure _) (readDir_prompt.bind fun _ => Emits.dev.bind fun d => ?_)))))
    split
    · exact foundAnswer_prompt.bind fun _ => Emits.pure _
    · refine (Emits.on modHome_prompt).bind fun _ => (Emits.each fun _ _ => sendSnoop_prompt).bind fun _ =>
        (Emits.each fun _ _ => sendSnoop_prompt).bind fun _ => Emits.dev.bind fun d => Emits.ite (Emits.pure _) ?_
      refine Emits.ite (dcRoom_prompt.bind fun room => ?_) ((Emits.pure true).bind fun room => ?_)
      all_goals exact Emits.ite (Emits.pure _) (touchLine_prompt.bind fun _ => (Emits.on settleRead_prompt).bind fun _ =>
        Emits.dev.bind fun _ => Emits.ite (Emits.pure _) (applyReq_prompt.bind fun _ => foundAnswer_prompt.bind fun _ =>
          modHome_prompt.bind fun _ => Emits.pure _))

/-! ## Answers -/

theorem answerTlk_prompt {p : Nat} {m : TMsg} {dom : Option Nat} {l : List HAns} : Emits Prompt (answerTlk p m dom l) := by
  refine Emits.dev.bind fun d => ?_
  dsimp only
  split
  · exact Emits.ite (countViolation_prompt.bind fun _ => sendTlk_prompt) sendTlk_prompt
  · exact Emits.ite sendTlk_prompt (Emits.ite sendTlk_prompt sendTlk_prompt)

theorem recordReplay_prompt {m ans : DMsg} : Emits Prompt (recordReplay m ans) := by
  refine Emits.dev.bind fun d => Emits.on ?_
  dsimp only
  split
  · exact (Emits.on modFab_prompt).bind fun _ => modFab_prompt
  · exact modFab_prompt

theorem finishGroup_prompt {g : HGrp} {dom : Option Nat} : Emits Prompt (finishGroup g dom) := by
  unfold finishGroup
  split
  · exact answerTlk_prompt
  · exact Emits.dev.bind fun _ => (Emits.on recordReplay_prompt).bind fun _ => sendDrsFor_prompt.bind fun _ =>
      Emits.on ((Emits.look _).bind fun _ => modFab_prompt.bind fun _ => Emits.each fun _ _ => bump_prompt.bind fun _ => sendDrsFor_prompt)
  · exact Emits.pure _
  · exact Emits.dev.bind fun _ => Emits.ite sendExt_prompt sendDrsFor_prompt
  · exact Emits.pure _
  · exact Emits.pure _

theorem openGroup_prompt {src : Src} {ops : List HOp} {n : Nat} {dom cls : Option Nat} : Emits Prompt (openGroup src ops n dom cls) :=
  (Emits.look _).bind fun _ => modHome_prompt.bind fun _ => Emits.pure _

theorem openLanded_prompt {m : DMsg} {dom : Option Nat} : Emits Prompt (openLanded m dom) :=
  fadd_prompt.bind fun _ => Emits.dev.bind fun _ => openGroup_prompt.bind fun _ => modHome_prompt

/-! ## Loss and quarantine of a port -/

theorem removePort_prompt {n p : Nat} : Emits Prompt (removePort n p) :=
  (Emits.look _).bind fun _ => Emits.ite writeDir_prompt (Emits.pure _)

theorem snoopLost_prompt {n p : Nat} : Emits Prompt (snoopLost n p) :=
  (Emits.look _).bind fun _ => modHome_prompt.bind fun _ => (Emits.on loseOwner_prompt).bind fun _ => removePort_prompt

theorem losePort_prompt {p row : Nat} : Emits Prompt (losePort p row) := by
  have hwalk : Emits Prompt (startWalk p) :=
    Emits.dev.bind fun _ => fset_prompt.bind fun _ => modHome_prompt.bind fun _ =>
      (Emits.each fun _ _ => poisonLine_prompt.bind fun _ => writeDir_prompt).bind fun _ =>
        (Emits.each fun _ _ => removePort_prompt).bind fun _ => modHome_prompt
  exact modLink_prompt.bind fun _ => fset_prompt.bind fun _ => raise_prompt.bind fun _ =>
    ((Emits.look _).bind fun _ => Emits.each fun _ _ => snoopLost_prompt).bind fun _ => hwalk

theorem startWaitingMiss_prompt : Emits Prompt startWaitingMiss := by
  refine Emits.dev.bind fun d => ?_
  split
  · exact modStn_prompt.bind fun _ => Emits.dev.bind fun _ => bump_prompt.bind fun _ => sendTlk_prompt
  · exact Emits.pure _

theorem countStall_prompt {key : Nat} : Emits Prompt (countStall key) := by
  refine Emits.dev.bind fun d => Emits.each fun r _ => ?_
  split
  · exact freeBelow_prompt.bind fun _ => freeBelow_prompt.bind fun _ => bump48_prompt
  · exact Emits.pure _


theorem modCmd_prompt {f : CmdSt → CmdSt} : Emits Prompt (modCmd f) := (Emits.look _).bind fun _ => Emits.emit trivial

theorem quarantineTlk_prompt {p : Nat} : Emits Prompt (quarantineTlk p) := by
  have hmiss : ∀ {m status detail}, Emits Prompt (endMiss m status detail) :=
    modStn_prompt.bind fun _ => countStall_prompt.bind fun _ => modCmd_prompt.bind fun _ => startWaitingMiss_prompt
  exact Emits.dev.bind fun _ => modLink_prompt.bind fun _ => setPortState_prompt.bind fun _ => bump_prompt.bind fun _ => raise_prompt.bind fun _ =>
    modTrf_prompt.bind fun _ => (Emits.each fun _ _ => bump_prompt).bind fun _ =>
      ((Emits.look _).bind fun _ => Emits.each fun _ _ => hmiss).bind fun _ => losePort_prompt

/-! ## Serving -/

theorem giveAnswer_prompt {r : HReq} {a : HAns} : Emits Prompt (giveAnswer r a) := by
  unfold giveAnswer
  split
  · exact modCmd_prompt
  · refine Emits.dev.bind fun d => ?_
    split
    · exact Emits.pure _
    · refine Emits.ite (modHome_prompt.bind fun _ => ?_) modHome_prompt
      split
      · exact openLanded_prompt
      · exact finishGroup_prompt

theorem serveList_prompt {l : List HReq} {lines issuers : List Nat} : Emits Prompt (serveList l lines issuers) := by
  induction l generalizing lines issuers with
  | nil => exact Emits.pure _
  | cons r rest ih =>
    refine Emits.ite ih (tryReq_prompt.bind fun a => ?_)
    split
    · exact modHome_prompt.bind fun _ => giveAnswer_prompt.bind fun _ => ih
    · exact ih

theorem serveAll_prompt : Emits Prompt serveAll := by
  have honce : Emits Prompt serveOnce :=
    (Emits.look _).bind fun _ => serveList_prompt.bind fun _ => (Emits.look _).bind fun _ => Emits.on serveList_prompt
  have hover : Emits Prompt checkTlkOver :=
    (Emits.look _).bind fun _ => (Emits.each fun _ _ => quarantineTlk_prompt).bind fun _ => Emits.pure _
  have hpasses : ∀ n, Emits Prompt (serveAllN n) := fun n => by
    induction n with
    | zero => exact Emits.pure _
    | succ n ih => exact honce.bind fun _ => hover.bind fun _ => Emits.on ih
  exact hpasses 5

theorem reserveCredits_prompt : Emits Prompt reserveCredits := by
  have htell : ∀ {c type status detail}, Emits Prompt (tellHolder c type status detail) :=
    Emits.dev.bind fun _ => Emits.ite sendTlk_prompt sendDrsFor_prompt
  have hof : ∀ k n, Emits Prompt (reserveOf k n) := fun k n => by
    induction n with
    | zero => exact Emits.pure _
    | succ n ih =>
      refine Emits.dev.bind fun d => Emits.ite (Emits.pure _) ?_
      split
      · exact Emits.pure _
      · exact modHome_prompt.bind fun _ => htell.bind fun _ => ih
  exact Emits.each fun _ _ => (Emits.look _).bind fun _ => hof _ _

end Sys2Proof.Machine
end

section
/-! PROOFS. The exit from P3 (R117, R541; O17). -/

namespace Sys2Proof.Machine

/-! ## Time goes on -/

/-- The AON counter has come to a value. -/
def Dev.reached (n : Nat) (d : Dev) : Prop := n ≤ d.now

section
variable {α : Type} {m : M α} {n : Nat}

theorem Prompt.now {u : Upd} (h : Prompt u) (d : Dev) : (u.apply d).now = d.now := by
  cases u with
  | now | nowSet => exact h.elim
  | _ => simp

theorem Emits.now_eq (h : Emits Prompt m) (w : Work) : (M.post m w).dev.now = w.dev.now :=
  (Upholds.of_emits (q := fun d => d.now = w.dev.now) h fun _ hu d hd => (hu.now d).trans hd).keeps w rfl

theorem Emits.reaches (h : Emits Prompt m) : Upholds (Dev.reached n) m :=
  Upholds.of_emits h fun _ hu d hd => hd.trans_eq (hu.now d).symm

theorem passTo_reaches (t : Nat) : Upholds (Dev.reached n) (passTo t) where
  logged := Emits.emit trivial
  keeps _ h := Nat.le_trans h (Nat.le_max_left ..)

end

/-- The expiries of leases are applied at a time that has come or comes. -/
theorem leaseScan_reaches (n tick : Nat) : Upholds (Dev.reached n) (leaseScan tick) := by
  have hnotice : ∀ {ports first count id reason dom t}, Emits Prompt (leaseNotice ports first count id reason dom t) :=
    Emits.each fun _ _ => (Emits.look _).bind fun _ => Emits.ite sendTlk_prompt bump_prompt
  have hfence : ∀ {l reason}, Emits Prompt (fenceExts l reason) :=
    Emits.dev.bind fun _ => (Emits.each fun _ _ => fset_prompt.bind fun _ => wr_prompt).bind fun _ => (Emits.each fun _ _ => hnotice).bind fun _ =>
      serveAll_prompt.bind fun _ => reserveCredits_prompt
  refine (passTo_reaches tick).bind fun _ => Emits.reaches ?_
  exact Emits.dev.bind fun _ => hfence.bind fun _ => Emits.each fun _ _ => bump_prompt.bind fun _ => raise_prompt

/-! ## The registers of power and clocks -/

theorem takesFld_power :
    (∀ f ∈ [F.PWR_STATUS_STATE, F.PWR_STATUS_TRANS], takesFld A.PWR_STATUS f) ∧
    ∀ f ∈ [F.CLK_STATUS_LOCK, F.CLK_STATUS_CHANGING], takesFld A.CLK_STATUS f := by
  decide +kernel

/-- The end of the exit: STATE reads P1. -/
def reachP1 : M Unit := do
  setPower 1
  setTrans false
  setChanging false
  modPwr fun p => { p with p3 := 0, wakeAt := none }

theorem reachP1_reached (w : Work) :
    let e := (M.post reachP1 w).dev
    e.now = w.dev.now ∧ e.power = 1 ∧ e.fld A.PWR_STATUS F.PWR_STATUS_TRANS = 0 ∧ e.fld A.CLK_STATUS F.CLK_STATUS_CHANGING = 0 ∧
    e.sys.pwr.p3 = 0 ∧ e.sys.pwr.wakeAt = none := by
  obtain ⟨hpwr, hclk⟩ := takesFld_power
  obtain ⟨hstate, htrans, hchanging⟩ : takesFld A.PWR_STATUS F.PWR_STATUS_STATE ∧ takesFld A.PWR_STATUS F.PWR_STATUS_TRANS ∧
    takesFld A.CLK_STATUS F.CLK_STATUS_CHANGING := ⟨hpwr _ (by simp), hpwr _ (by simp), hclk _ (by simp)⟩
  obtain ⟨w₁, hw₁⟩ : ∃ x, x = M.post (setPower 1) w := ⟨_, rfl⟩
  obtain ⟨w₂, hw₂⟩ : ∃ x, x = M.post (setTrans false) w₁ := ⟨_, rfl⟩
  obtain ⟨w₃, hw₃⟩ : ∃ x, x = M.post (setChanging false) w₂ := ⟨_, rfl⟩
  have hpost : M.post reachP1 w = M.post (modPwr fun p => { p with p3 := 0, wakeAt := none }) w₃ := by simp only [reachP1, post_bind, hw₃, hw₂, hw₁]
  have hnow : w₃.dev.now = w.dev.now := by
    rw [hw₃, hw₂, hw₁]
    exact (Emits.now_eq fset_prompt _).trans ((Emits.now_eq fset_prompt _).trans (Emits.now_eq fset_prompt _))
  have hclkKept : w₃.dev.reg A.PWR_STATUS = w₂.dev.reg A.PWR_STATUS := hw₃ ▸ reg_fset_ne (by decide) ..
  have hpower : w₂.dev.fld A.PWR_STATUS F.PWR_STATUS_STATE = 1 :=
    hw₂ ▸ hw₁ ▸ (fld_fset_other hstate (by decide) ..).trans (fld_fset hstate ..)
  have hstill : w₂.dev.fld A.PWR_STATUS F.PWR_STATUS_TRANS = 0 := hw₂ ▸ fld_fset htrans ..
  have hsteady : w₃.dev.fld A.CLK_STATUS F.CLK_STATUS_CHANGING = 0 := hw₃ ▸ fld_fset hchanging ..
  simp only [hpost]
  exact ⟨hnow, (congrArg F.PWR_STATUS_STATE.of hclkKept).trans hpower, (congrArg F.PWR_STATUS_TRANS.of hclkKept).trans hstill, hsteady, rfl, rfl⟩

theorem p3ExitDone_clause (s : State) (hp3 : s.dev.sys.pwr.p3 = 4) (hstacks : ∀ k < 8, s.dev.stackServes k = true ∨ s.dev.stackFailed k = true) :
    Completes .p3ExitDone s fun t =>
      s.dev.sys.pwr.wakeAt.getD s.dev.now + 2000 ≤ t.dev.now ∧ t.dev.power = 1 ∧ t.dev.fld A.PWR_STATUS F.PWR_STATUS_TRANS = 0 ∧
      t.dev.fld A.CLK_STATUS F.CLK_STATUS_CHANGING = 0 ∧ t.dev.sys.pwr.p3 = 0 ∧ t.dev.sys.pwr.wakeAt = none := by
  obtain ⟨due, hdue⟩ : ∃ x, x = s.dev.sys.pwr.wakeAt.getD s.dev.now + 2000 := ⟨_, rfl⟩
  let scan : M Unit := do
    let t ← now
    leaseScan t
    each s.dev.trf.limited fun n => setTokens n (max 4 (s.dev.fld (A.DOM_BW n) F.DOM_BW_BURST) * 1024)
  have hscan : Upholds (Dev.reached due) scan :=
    Upholds.bind (Emits.reaches Emits.now) fun t => (leaseScan_reaches due t).bind fun _ => Emits.reaches (Emits.each fun _ _ => fset_prompt)
  have hall : ((List.range 8).all fun k => s.dev.stackServes k || s.dev.stackFailed k) = true := by simpa using hstacks
  have hpost : M.post p3ExitDone ⟨s.dev, []⟩ = M.post reachP1 (M.post scan (Work.add ⟨s.dev, []⟩ (.now due))) := by
    simp only [p3ExitDone, post_bind, val_dev, post_dev, hp3, hall, and_self, if_true, ← hdue, post_passTo, scan, reachP1]
  have hlog : s.dev.replay (M.post scan (Work.add ⟨s.dev, []⟩ (.now due))).log = (M.post scan (Work.add ⟨s.dev, []⟩ (.now due))).dev :=
    hscan.logged.replay_log rfl
  have hend : Emits (fun _ => True) reachP1 := by
    refine Emits.mono (p := Foot [.sys] fun _ => True) ?_ fun _ _ => trivial
    exact (Emits.fset trivial).bind fun _ => (Emits.fset trivial).bind fun _ => (Emits.fset trivial).bind fun _ => Emits.modPwr (by simp)
  obtain ⟨hnow, hreads⟩ := reachP1_reached (M.post scan (Work.add ⟨s.dev, []⟩ (.now due)))
  refine completes_run (e := (M.post reachP1 (M.post scan (Work.add ⟨s.dev, []⟩ (.now due)))).dev) rfl hpost (hend.replay_log hlog) ⟨?_, hreads⟩
  rw [hnow]
  exact hdue ▸ hscan.keeps (Work.add ⟨s.dev, []⟩ (.now due)) (Nat.le_max_right ..)

end Sys2Proof.Machine
end

section
/-! PROOFS. The other steps of P3: its entry, and the voltage and the clocks of its exit (R117, R539, R541; O17). -/

namespace Sys2Proof.Machine

/-- The registers beside those of power and clocks. -/
def unpowered (a : Nat) : Prop := a < 0x10000 ∨ 0x30000 ≤ a

/-! ## What ends with the leading half -/

section
variable {parts : List Part}

theorem raise_unpowered {code srcInst inst : Nat} {dom : Option Nat} {detail countA addr : Nat} (h : Part.evq ∈ parts) :
    Emits (Foot parts unpowered) (raise code srcInst inst dom detail countA addr) := by
  have hrecord : ∀ {a}, recordRegs a → unpowered a := fun ha => by
    have hrange := recordRegs_range ha
    simp only [unpowered]
    omega
  exact Emits.raise h (hrecord (.inl rfl)) (hrecord (.inr ⟨code, rfl⟩))

theorem stallTeardown_unpowered {t : Teardown} {status detail : Nat} :
    Emits (Foot [.sys, .evq, .dom, .cmd] unpowered) (stallTeardown t status detail) := by
  refine (Emits.fset (.inr (by simp only [A.DOM_CFG]; omega))).bind fun _ => Emits.bind (Emits.modDom (by simp)) fun _ => ?_
  split
  · exact Emits.modCmd (by simp)
  · exact Emits.pure _

theorem endJob_unpowered {j : GJob} {status detail : Nat} : Emits (Foot [.sys, .evq, .dom, .cmd] unpowered) (endJob j status detail) := by
  refine Emits.bind (Emits.modDom (by simp)) fun _ => Emits.bind (Emits.on (Emits.wr (.inr (by decide)))) fun _ => ?_
  split
  · exact Emits.modCmd (by simp)
  · refine Emits.bind (Emits.modDom (by simp)) fun _ => Emits.dev.bind fun d => ?_
    split
    · exact Emits.pure _
    · exact Emits.ite (Emits.fset (.inr (by simp only [A.DOM_CFG]; omega))) stallTeardown_unpowered

theorem endMgmt_unpowered : Emits (Foot [.sys, .evq, .dom, .cmd] unpowered) endMgmt := by
  refine Emits.dev.bind fun d => (Emits.each fun j _ => ?_).bind fun _ => Emits.dev.bind fun d => (Emits.each fun _ _ => stallTeardown_unpowered).bind
    fun _ => Emits.dev.bind fun d => Emits.bind (Emits.on (Emits.fset (.inr (by decide)))) fun _ =>
      Emits.bind (Emits.modBoot (by simp)) fun _ => Emits.modCmd (by simp)
  exact Emits.ite (Emits.bind (Emits.bump (.inr (by decide))) fun _ => endJob_unpowered) endJob_unpowered

theorem decideLeader_unpowered : Emits (Foot [.sys, .evq, .dom, .cmd] unpowered) decideLeader := by
  refine Emits.dev.bind fun d => ?_
  split
  have hend : ∀ {f : ResSt → ResSt} {c : Bool}, Emits (Foot [.sys, .evq, .dom, .cmd] unpowered) (do modRes f; on c endMgmt) :=
    Emits.bind (Emits.modRes (by simp)) fun _ => Emits.on endMgmt_unpowered
  refine Emits.bind (Emits.wr (.inl (by decide))) fun _ => ?_
  have hraise : ∀ {inst countA}, Emits (Foot [.sys, .evq, .dom, .cmd] unpowered) (raise Ev.halfConflict inst countA) := raise_unpowered (by simp)
  exact Emits.ite (hraise.bind fun _ => hend) (Emits.ite (hraise.bind fun _ => hend) hend)

end

/-! ## Links and stacks -/

theorem setLinkState_unpowered {port st : Nat} : Emits (Foot [.links, .fab, .store] unpowered) (setLinkState port st) := by
  refine (Emits.look _).bind fun q => Emits.ite (Emits.modLink (by simp)) (Emits.fset (.inr ?_))
  unfold portStatusAddr
  split
  · simp only [A.TLK_STATUS]; omega
  · simp only [A.DRS_STATUS]; omega

theorem setStackState_unpowered {k st : Nat} : Emits (Foot [.links, .fab, .store] unpowered) (setStackState k st) :=
  Emits.fset (.inr (by simp only [A.STK_STATUS]; omega))

theorem refreshAll_unpowered {k : Nat} : Emits (Foot [.links, .fab, .store] unpowered) (refreshAll k) :=
  Emits.dev.bind fun _ => Emits.modStore (by simp)

theorem trunkCheckDown_unpowered {dir : Nat} : Emits (Foot [.links, .fab, .store] unpowered) (trunkCheckDown dir) := by
  have hstatus : ∀ i, unpowered (A.DRS_STATUS i) := fun i => .inr (by simp only [A.DRS_STATUS]; omega)
  exact Emits.dev.bind fun _ => Emits.ite (Emits.bind (Emits.modFab (by simp)) fun _ => Emits.bind (Emits.fset (hstatus _)) fun _ =>
    Emits.fset (hstatus _)) (Emits.pure _)

theorem stacksActive_unpowered : Emits (Foot [.links, .fab, .store] unpowered) stacksActive :=
  Emits.bind (Emits.modStore (by simp)) fun _ => Emits.dev.bind fun _ => Emits.each fun _ _ => setStackState_unpowered

/-! ## The exit -/

section
variable {s : State}

theorem p3VddReady_steps (hp3 : s.dev.sys.pwr.p3 = 2) (havs : s.dev.sys.pwr.avs = none) :
    Completes .p3ExitVddReady s fun t =>
      t.dev.now = max s.dev.now (s.dev.sys.pwr.wakeAt.getD s.dev.now + 500) ∧
      t.dev.sys = { s.dev.sys with pwr := { s.dev.sys.pwr with p3 := 3 } } ∧ Changes [.now, .sys] noReg s.dev t.dev := by
  obtain ⟨due, hdue⟩ : ∃ x, x = s.dev.sys.pwr.wakeAt.getD s.dev.now + 500 := ⟨_, rfl⟩
  obtain ⟨w, hw⟩ : ∃ x, x = Work.add ⟨s.dev, []⟩ (.now due) := ⟨_, rfl⟩
  obtain ⟨ready, hready⟩ : ∃ x : SysSt, x = { s.dev.sys with pwr := { s.dev.sys.pwr with p3 := 3 } } := ⟨_, rfl⟩
  have hsys : w.dev.sys = s.dev.sys := by rw [hw]; rfl
  have hpost : M.post p3VddReady ⟨s.dev, []⟩ = w.add (.sys ready) := by
    simp only [p3VddReady, post_bind, val_dev, post_dev, hp3, havs, Option.isNone_none, and_self, if_true, ← hdue, post_passTo, post_modPwr, ← hw,
      hsys, hready]
  have hchanges : Changes [.now, .sys] noReg s.dev w.dev := hw ▸ Foot.changes (u := .now _) (by simp [Foot]) (Changes.refl ..)
  refine completes_run (e := (w.add (.sys ready)).dev) rfl hpost (by rw [hw]; rfl) ⟨?_, ?_, Foot.changes (u := .sys _) (by simp [Foot]) hchanges⟩
  · rw [hw, hdue]
    rfl
  · rw [← hready]
    rfl

/-- The half that leads is found again once the halves run (R76, R541). -/
def resumeHalves (d : Dev) : M Unit := do
  wr A.TOP_HALF_STATUS (putBits (d.reg A.TOP_HALF_STATUS) 0 2 d.sys.pwr.halves)
  decideLeader

/-- The stacks leave self-refresh, the ports begin retraining (R117, R541). -/
def retrainAll (d : Dev) : M Unit := do
  each ((List.range 8).filter fun k => d.fld (A.STK_STATUS k) F.STK_STATUS_STATE == Ks.selfRefresh) fun k => do
    refreshAll k
    setStackState k Ks.training
  each ((List.range 16).filter fun p => d.linkState p == Ps.off) fun p => do bump (retrainCntAddr p); setLinkState p (d.heldState p Ps.retrain)

theorem resumeHalves_unpowered (d : Dev) : Emits (Foot [.sys, .evq, .dom, .cmd] unpowered) (resumeHalves d) :=
  (Emits.wr (.inl (by decide))).bind fun _ => decideLeader_unpowered

theorem retrainAll_unpowered (d : Dev) : Emits (Foot [.links, .fab, .store] unpowered) (retrainAll d) := by
  have hcount : ∀ p, unpowered (retrainCntAddr p) := fun p => by
    unfold retrainCntAddr
    split
    · exact .inr (by simp only [A.TLK_RETRAIN_CNT]; omega)
    · exact .inr (by simp only [A.DRS_RETRAIN_CNT]; omega)
  exact (Emits.each fun _ _ => refreshAll_unpowered.bind fun _ => setStackState_unpowered).bind fun _ =>
    Emits.each fun _ _ => (Emits.bump (hcount _)).bind fun _ => setLinkState_unpowered

theorem p3PllLock_steps (hp3 : s.dev.sys.pwr.p3 = 3) :
    Completes .p3ExitPllLock s fun t =>
      t.dev.now = max s.dev.now (s.dev.sys.pwr.wakeAt.getD s.dev.now + 750) ∧ t.dev.sys.pwr.p3 = 4 ∧
      t.dev.fld A.CLK_STATUS F.CLK_STATUS_LOCK = 31 ∧ t.dev.sys.res.petW = t.dev.now ∧ t.dev.sys.res.petE = t.dev.now := by
  obtain ⟨due, hdue⟩ : ∃ x, x = s.dev.sys.pwr.wakeAt.getD s.dev.now + 750 := ⟨_, rfl⟩
  obtain ⟨w₁, hw₁⟩ : ∃ x, x = M.post (setLock true) (Work.add ⟨s.dev, []⟩ (.now due)) := ⟨_, rfl⟩
  obtain ⟨w₂, hw₂⟩ : ∃ x, x = M.post (resumeHalves s.dev) w₁ := ⟨_, rfl⟩
  obtain ⟨w₃, hw₃⟩ : ∃ x, x = M.post (modRes fun r => { r with petW := w₂.dev.now, petE := w₂.dev.now }) w₂ := ⟨_, rfl⟩
  obtain ⟨w₄, hw₄⟩ : ∃ x, x = M.post (retrainAll s.dev) w₃ := ⟨_, rfl⟩
  obtain ⟨w₅, hw₅⟩ : ∃ x, x = M.post (modPwr fun p => { p with p3 := 4, slow := [] }) w₄ := ⟨_, rfl⟩
  have hpost : M.post p3PllLock ⟨s.dev, []⟩ = w₅ := by
    simp only [p3PllLock, post_bind, val_dev, post_dev, hp3, if_true, ← hdue, post_passTo, hw₅, hw₄, hw₃, hw₂, hw₁, resumeHalves, retrainAll,
      val_now, post_now]
  have hlock : takesFld A.CLK_STATUS F.CLK_STATUS_LOCK := takesFld_power.2 _ (by simp)
  have hclock : ¬ unpowered A.CLK_STATUS := by unfold unpowered; decide
  have hlead : Changes [.sys, .evq, .dom, .cmd] unpowered w₁.dev w₂.dev := hw₂ ▸ (resumeHalves_unpowered s.dev).changes_post (Changes.refl ..)
  have htrain : Changes [.links, .fab, .store] unpowered w₃.dev w₄.dev := hw₄ ▸ (retrainAll_unpowered s.dev).changes_post (Changes.refl ..)
  have hlocked : w₁.dev.fld A.CLK_STATUS F.CLK_STATUS_LOCK = 31 := hw₁ ▸ fld_fset hlock ..
  have hlog₁ : s.dev.replay w₁.log = w₁.dev := hw₁ ▸ fset_prompt.replay_log rfl
  have hlog₂ : s.dev.replay w₂.log = w₂.dev := hw₂ ▸ (resumeHalves_unpowered s.dev).replay_log hlog₁
  have hlog₃ : s.dev.replay w₃.log = w₃.dev := hw₃ ▸ (Emits.modRes (parts := [.sys]) (regs := noReg) (by simp)).replay_log hlog₂
  have hlog₄ : s.dev.replay w₄.log = w₄.dev := hw₄ ▸ (retrainAll_unpowered s.dev).replay_log hlog₃
  have hlog₅ : s.dev.replay w₅.log = w₅.dev := hw₅ ▸ (Emits.modPwr (parts := [.sys]) (regs := noReg) (by simp)).replay_log hlog₄
  have hnow₁ : w₁.dev.now = max s.dev.now due := hw₁ ▸ Emits.now_eq fset_prompt (Work.add ⟨s.dev, []⟩ (.now due))
  have hnow₂ : w₂.dev.now = w₁.dev.now := hlead.parts .now (by simp)
  have hnow₄ : w₄.dev.now = w₃.dev.now := htrain.parts .now (by simp)
  have hnow₃ : w₃.dev.now = w₂.dev.now := by rw [hw₃]; rfl
  have hnow₅ : w₅.dev.now = w₄.dev.now := by rw [hw₅]; rfl
  have hnow : w₅.dev.now = w₂.dev.now := by rw [hnow₅, hnow₄, hnow₃]
  have hres : w₅.dev.sys.res = w₃.dev.sys.res := by
    have hsys₄ : w₄.dev.sys = w₃.dev.sys := htrain.parts .sys (by simp)
    rw [← hsys₄, hw₅]
    rfl
  have hpets : w₃.dev.sys.res.petW = w₂.dev.now ∧ w₃.dev.sys.res.petE = w₂.dev.now := by rw [hw₃]; exact ⟨rfl, rfl⟩
  have hlocked₃ : w₃.dev.fld A.CLK_STATUS F.CLK_STATUS_LOCK = 31 := by
    rw [hw₃]
    exact (hlead.fld hclock _).trans hlocked
  refine completes_run (e := w₅.dev) rfl hpost hlog₅ ⟨?_, ?_, ?_, ?_, ?_⟩
  · rw [hnow, hnow₂, hnow₁, hdue]
  · rw [hw₅]
    rfl
  · rw [hw₅]
    exact (htrain.fld hclock _).trans hlocked₃
  · rw [hres, hnow, hpets.1]
  · rw [hres, hnow, hpets.2]

theorem powerStateP3Exit : Clause.PowerStateP3Exit := fun s => ⟨p3VddReady_steps, p3PllLock_steps, p3ExitDone_clause s⟩

end

end Sys2Proof.Machine
end

section
/-! PROOFS. The entry to P3, and all of P3 (R117, R539; O17). -/

namespace Sys2Proof.Machine

/-! ## The stacks and the ports come to rest -/

/-- The ports go OFF and the stacks into self-refresh (R117, R539). -/
def sleepAll (d : Dev) : M Unit := do
  each (List.range 16) fun p => on (d.linkState p != Ps.disabled) (setLinkState p Ps.off)
  each (List.range 6) trunkCheckDown
  stacksActive
  each ((List.range 8).filter d.stackServes) fun k => do refreshAll k; setStackState k Ks.selfRefresh

theorem sleepAll_unpowered (d : Dev) : Emits (Foot [.links, .fab, .store] unpowered) (sleepAll d) :=
  (Emits.each fun _ _ => Emits.on setLinkState_unpowered).bind fun _ => (Emits.each fun _ _ => trunkCheckDown_unpowered).bind fun _ =>
    stacksActive_unpowered.bind fun _ => Emits.each fun _ _ => refreshAll_unpowered.bind fun _ => setStackState_unpowered

/-- The halves and the PLLs stop (R539). -/
def stopHalves (d : Dev) : M Unit := do
  modPwr fun p => { p with p3 := 0, halves := bits (d.reg A.TOP_HALF_STATUS) 0 2, avs := some ⟨2, 620, 0, false, d.now⟩ }
  wr A.TOP_HALF_STATUS (putBits (putBits (d.reg A.TOP_HALF_STATUS) 0 2 0) 4 2 0)
  setLock false

/-- STATE reads P3, and the entry is counted. -/
def reachP3 : M Unit := do
  setPower 3
  setTrans false
  fadd A.PWR_ENTRY_CNT F.PWR_ENTRY_CNT_P3 1

theorem halves_stopped (v : Word) : bits (putBits (putBits v 0 2 0) 4 2 0) 0 2 = 0 := by
  have hapart := Fld.of_put_and_other (f := ⟨4, 2⟩) (g := ⟨0, 2⟩) (m := BitVec.allOnes 64) (by decide) (by decide) (by decide) (putBits v 0 2 0) 0
  have hput := Fld.of_put_and (f := ⟨0, 2⟩) (m := BitVec.allOnes 64) (by decide) (by decide) v 0
  simp only [BitVec.and_allOnes, Fld.of, Fld.put] at hapart hput
  exact hapart.trans hput

theorem takesFld_halves : takesFld A.TOP_HALF_STATUS ⟨0, 2⟩ ∧ takesFld A.PWR_ENTRY_CNT F.PWR_ENTRY_CNT_P3 := by decide +kernel

theorem stopHalves_emits (d : Dev) : Emits (Foot [.sys] (· ∈ [A.TOP_HALF_STATUS, A.CLK_STATUS])) (stopHalves d) :=
  Emits.bind (Emits.modPwr (by simp)) fun _ => Emits.bind (Emits.wr (by simp)) fun _ => Emits.fset (by simp)

theorem reachP3_emits : Emits (Foot [] (· ∈ [A.PWR_STATUS, A.PWR_ENTRY_CNT])) reachP3 :=
  Emits.bind (Emits.fset (by simp)) fun _ => Emits.bind (Emits.fset (by simp)) fun _ => Emits.fadd (by simp)

theorem stopHalves_stops (d : Dev) (w : Work) :
    let e := (M.post (stopHalves d) w).dev
    e.sys.pwr.p3 = 0 ∧ e.sys.pwr.halves = bits (d.reg A.TOP_HALF_STATUS) 0 2 ∧ bits (e.reg A.TOP_HALF_STATUS) 0 2 = 0 ∧
    e.fld A.CLK_STATUS F.CLK_STATUS_LOCK = 1 ∧ Changes [.sys] (· ∈ [A.TOP_HALF_STATUS, A.CLK_STATUS]) w.dev e := by
  obtain ⟨hhalves, -⟩ := takesFld_halves
  have hlock : takesFld A.CLK_STATUS F.CLK_STATUS_LOCK := takesFld_power.2 _ (by simp)
  obtain ⟨w₁, hw₁⟩ : ∃ x, x = M.post (modPwr fun p =>
    { p with p3 := 0, halves := bits (d.reg A.TOP_HALF_STATUS) 0 2, avs := some ⟨2, 620, 0, false, d.now⟩ }) w := ⟨_, rfl⟩
  obtain ⟨w₂, hw₂⟩ : ∃ x, x = M.post (wr A.TOP_HALF_STATUS (putBits (putBits (d.reg A.TOP_HALF_STATUS) 0 2 0) 4 2 0)) w₁ := ⟨_, rfl⟩
  have hpost : M.post (stopHalves d) w = M.post (setLock false) w₂ := by simp only [stopHalves, post_bind, hw₂, hw₁]
  have hsys : (M.post (setLock false) w₂).dev.sys = w₁.dev.sys := by simp [hw₂, setLock]
  have hstopped : w₂.dev.fld A.TOP_HALF_STATUS ⟨0, 2⟩ = 0 := hw₂ ▸ (fld_wr hhalves _ w₁).trans (halves_stopped _)
  have hkept : (M.post (setLock false) w₂).dev.reg A.TOP_HALF_STATUS = w₂.dev.reg A.TOP_HALF_STATUS := reg_fset_ne (by decide) ..
  have hsteps := (stopHalves_emits d).changes_post (w := w) (Changes.refl ..)
  simp only [hpost] at hsteps ⊢
  refine ⟨?_, ?_, (congrArg (Fld.of ⟨0, 2⟩) hkept).trans hstopped, fld_fset hlock .., hsteps⟩
  · rw [hsys, hw₁]
    rfl
  · rw [hsys, hw₁]
    rfl

/-- A count in a field holds at its maximum (R12). -/
theorem fld_fadd {a n : Nat} {f : Fld} (h : takesFld a f) (w : Work) :
    (M.post (fadd a f n) w).dev.fld a f = min (w.dev.fld a f + n) (2 ^ f.w - 1) := by
  obtain ⟨hassigned, hwidth, hmask⟩ := h
  have hpos := Nat.two_pow_pos f.w
  have hput := Dev.fld_csr_put hassigned hwidth hmask (w.dev.reg a) (min (w.dev.fld a f + n) (2 ^ f.w - 1)) w.dev
  exact hput.trans (Nat.mod_eq_of_lt (by omega))

theorem reachP3_reached (w : Work) :
    let e := (M.post reachP3 w).dev
    e.power = 3 ∧ e.fld A.PWR_STATUS F.PWR_STATUS_TRANS = 0 ∧
    e.fld A.PWR_ENTRY_CNT F.PWR_ENTRY_CNT_P3 = min (w.dev.fld A.PWR_ENTRY_CNT F.PWR_ENTRY_CNT_P3 + 1) (2 ^ 32 - 1) ∧
    Changes [] (· ∈ [A.PWR_STATUS, A.PWR_ENTRY_CNT]) w.dev e := by
  obtain ⟨-, hentry⟩ := takesFld_halves
  obtain ⟨hstate, htrans⟩ : takesFld A.PWR_STATUS F.PWR_STATUS_STATE ∧ takesFld A.PWR_STATUS F.PWR_STATUS_TRANS :=
    ⟨takesFld_power.1 _ (by simp), takesFld_power.1 _ (by simp)⟩
  obtain ⟨w₁, hw₁⟩ : ∃ x, x = M.post (setPower 3) w := ⟨_, rfl⟩
  obtain ⟨w₂, hw₂⟩ : ∃ x, x = M.post (setTrans false) w₁ := ⟨_, rfl⟩
  have hpost : M.post reachP3 w = M.post (fadd A.PWR_ENTRY_CNT F.PWR_ENTRY_CNT_P3 1) w₂ := by simp only [reachP3, post_bind, hw₂, hw₁]
  have hentryKept : w₂.dev.reg A.PWR_ENTRY_CNT = w.dev.reg A.PWR_ENTRY_CNT :=
    hw₂ ▸ hw₁ ▸ (reg_fset_ne (by decide) ..).trans (reg_fset_ne (by decide) ..)
  have hcounted : Changes [] (· = A.PWR_ENTRY_CNT) w₂.dev (M.post (fadd A.PWR_ENTRY_CNT F.PWR_ENTRY_CNT_P3 1) w₂).dev :=
    (Emits.fadd (regs := (· = A.PWR_ENTRY_CNT)) rfl).changes_post (Changes.refl ..)
  have hpower : w₂.dev.fld A.PWR_STATUS F.PWR_STATUS_STATE = 3 := hw₂ ▸ hw₁ ▸ (fld_fset_other hstate (by decide) ..).trans (fld_fset hstate ..)
  have hstill : w₂.dev.fld A.PWR_STATUS F.PWR_STATUS_TRANS = 0 := hw₂ ▸ fld_fset htrans ..
  have hsteps := reachP3_emits.changes_post (w := w) (Changes.refl ..)
  simp only [hpost] at hsteps ⊢
  refine ⟨(hcounted.fld (by decide) _).trans hpower, (hcounted.fld (by decide) _).trans hstill, ?_, hsteps⟩
  rw [fld_fadd hentry, Dev.fld, hentryKept]
  rfl

section
variable {s : State}

theorem p3EntryDone_steps (hp3 : s.dev.sys.pwr.p3 = 1) (hsnoops : s.dev.home.snoops = []) (hwaiting : s.dev.home.waiting = [])
    (hcredits : s.dev.home.credits = []) (hdc : s.dev.home.dc = []) (hrepairs : s.dev.store.repairs = []) (hwake : s.dev.sys.pwr.wakeAt = none) :
    Completes .p3EntryDone s fun t =>
      t.dev.power = 3 ∧ t.dev.fld A.PWR_STATUS F.PWR_STATUS_TRANS = 0 ∧ t.dev.sys.pwr.p3 = 0 ∧
      t.dev.sys.pwr.halves = bits (s.dev.reg A.TOP_HALF_STATUS) 0 2 ∧ bits (t.dev.reg A.TOP_HALF_STATUS) 0 2 = 0 ∧
      t.dev.fld A.CLK_STATUS F.CLK_STATUS_LOCK = 1 ∧
      t.dev.fld A.PWR_ENTRY_CNT F.PWR_ENTRY_CNT_P3 = min (s.dev.fld A.PWR_ENTRY_CNT F.PWR_ENTRY_CNT_P3 + 1) (2 ^ 32 - 1) ∧
      ∀ a, t.dev.byte a = s.dev.byte a := by
  have hempty : M.post emptyDir ⟨s.dev, []⟩ = ⟨s.dev, []⟩ := by simp [emptyDir, hdc]
  have hready : s.dev.p3Ready = true := by simp [Dev.p3Ready, hsnoops, hwaiting, hcredits, hdc, hrepairs]
  obtain ⟨w₁, hw₁⟩ : ∃ x, x = M.post (sleepAll s.dev) ⟨s.dev, []⟩ := ⟨_, rfl⟩
  obtain ⟨w₂, hw₂⟩ : ∃ x, x = M.post (stopHalves s.dev) w₁ := ⟨_, rfl⟩
  obtain ⟨w₃, hw₃⟩ : ∃ x, x = M.post reachP3 w₂ := ⟨_, rfl⟩
  have hpost : M.post p3EntryDone ⟨s.dev, []⟩ = w₃ := by
    have hon : M.post (on (s.dev.sys.pwr.p3 == 1) emptyDir) ⟨s.dev, []⟩ = ⟨s.dev, []⟩ := by rw [post_on, hempty, ite_self]
    have hgo : ¬ (s.dev.sys.pwr.p3 ≠ 1 ∨ ¬ s.dev.p3Ready = true) := by simp [hp3, hready]
    have hoff : ∀ w, M.post (on s.dev.sys.pwr.wakeAt.isSome p3ExitBegin) w = w := fun w => by rw [hwake]; rfl
    simp only [p3EntryDone, post_bind, val_dev, post_dev, hon, if_neg hgo, hoff, hw₃, hw₂, hw₁, sleepAll, stopHalves, reachP3]
  have hslept : Changes [.links, .fab, .store] unpowered s.dev w₁.dev := hw₁ ▸ (sleepAll_unpowered s.dev).changes_post (Changes.refl ..)
  obtain ⟨hp3₂, hhalves, hstopped, hlock, hstops⟩ := stopHalves_stops s.dev w₁
  obtain ⟨hpower, htrans, hcount, hreaches⟩ := reachP3_reached w₂
  rw [← hw₂] at hp3₂ hhalves hstopped hlock hstops
  rw [← hw₃] at hpower htrans hcount hreaches
  have hsys : w₃.dev.sys = w₂.dev.sys := hreaches.parts .sys (by simp)
  have hentry : w₂.dev.fld A.PWR_ENTRY_CNT F.PWR_ENTRY_CNT_P3 = s.dev.fld A.PWR_ENTRY_CNT F.PWR_ENTRY_CNT_P3 :=
    (hstops.fld (by decide) _).trans (hslept.fld (by unfold unpowered; decide) _)
  have hlog₁ : s.dev.replay w₁.log = w₁.dev := hw₁ ▸ (sleepAll_unpowered s.dev).replay_log rfl
  have hlog₂ : s.dev.replay w₂.log = w₂.dev := hw₂ ▸ (stopHalves_emits s.dev).replay_log hlog₁
  have hlog₃ : s.dev.replay w₃.log = w₃.dev := hw₃ ▸ reachP3_emits.replay_log hlog₂
  refine completes_run (e := w₃.dev) rfl hpost hlog₃ ⟨hpower, htrans, ?_, ?_, ?_, ?_, ?_, ?_⟩
  · rw [hsys, hp3₂]
  · rw [hsys, hhalves]
  · rw [hreaches.regs _ (by decide), hstopped]
  · rw [hreaches.fld (by decide), hlock]
  · rw [hcount, hentry]
  · exact fun a => (hreaches.bytes a id).trans ((hstops.bytes a id).trans (hslept.bytes a id))

end

end Sys2Proof.Machine
end

section
/-! PROOFS. The entry to P3 begins (R539), and all of P3 (O17). -/

namespace Sys2Proof.Machine

/-! ## Every tile is gated -/

/-- A register that needs no tile to run keeps its value where tiles are gated. -/
theorem reg_dropTiles {a : Nat} (h : gatedReg a = none) (hit : Nat → Bool) (w : Work) : (M.post (dropTiles hit) w).dev.reg a = w.dev.reg a := by
  obtain ⟨w₁, hw₁⟩ : ∃ x, x = M.post (do dropCopies fun x => hit x.tile; dropAgents fun a => (agentTile a).any hit) w := ⟨_, rfl⟩
  have hdrop : Emits (Foot [.own, .eng, .stn] noReg) (do dropCopies fun x => hit x.tile; dropAgents fun a => (agentTile a).any hit) :=
    Emits.bind ((Emits.look _).bind fun _ => Emits.bind (Emits.on (Emits.modOwn (by simp))) fun _ => Emits.on (Emits.modEng (by simp)))
      fun _ => Emits.modStn (by simp)
  have hchanges : Changes [.own, .eng, .stn] noReg w.dev w₁.dev := hw₁ ▸ hdrop.changes_post (Changes.refl ..)
  have hpost : M.post (dropTiles hit) w = w₁.add (.csrReset ((w₁.dev.csr.map (·.1)).filter fun a => !((gatedReg a).any hit))) := by
    simp only [dropTiles, post_bind, val_dev, post_dev, post_emit, hw₁]
  rw [hpost, Work.add_dev, Upd.csrReset_reg, ← hchanges.regs a id]
  split
  · rfl
  case isFalse hgone =>
    obtain hreset | hmem := tget_eq_default_or_mem (rstVal a) w₁.dev.csr a
    · exact hreset.symm
    · exact absurd (by simpa [h] using ⟨_, hmem⟩) hgone

theorem sys_of_aside {x : SysSt} (u : Upd) (hu : Aside u) (d : Dev) (h : d.sys = x) : (u.apply d).sys = x := by
  cases u with
  | cmd | sys => exact hu.elim
  | _ => simpa using h

theorem dropTiles_aside (hit : Nat → Bool) : Emits Aside (dropTiles hit) := by
  have hcopies : Emits Aside (dropCopies fun x => hit x.tile) :=
    (Emits.look _).bind fun _ => Emits.bind (Emits.on ((Emits.look _).bind fun _ => Emits.emit trivial)) fun _ =>
      Emits.on ((Emits.look _).bind fun _ => Emits.emit trivial)
  exact hcopies.bind fun _ => modStn_aside.bind fun _ => Emits.dev.bind fun _ => Emits.emit trivial

/-! ## The directory empties -/

/-- What the recall of the directory's lines changes. -/
abbrev Recalled : Upd → Prop := FootMem [.store, .home, .trf] unpowered

section
variable {n p : Nat}

theorem putLine_recalled {pcause : Nat} {v : Line} : Emits Recalled (putLine n v pcause) := by
  have hstore : ∀ {f : StoreSt → StoreSt}, Emits Recalled (modStore f) := (Emits.modStore (by simp)).footMem
  have hrind : ∀ {k}, unpowered (A.RIND_ENC_CNT k) := .inr (by simp only [A.RIND_ENC_CNT]; omega)
  have hpoison : ∀ {k}, unpowered (A.STK_POISON_WR_CNT k) := .inr (by simp only [A.STK_POISON_WR_CNT]; omega)
  exact (Emits.look _).bind fun _ => hstore.bind fun _ => Emits.bind (wrBytes_emits _ _) fun _ => (Emits.wrMeta (by simp)).footMem.bind fun _ =>
    (Emits.dev.bind fun _ => Emits.on (Emits.bump48 hrind).footMem).bind fun _ => Emits.on (Emits.bump hpoison).footMem

theorem setDir_recalled {dir : Nat} : Emits Recalled (setDir n dir) := (Emits.look _).bind fun _ => (Emits.wrMeta (by simp)).footMem

theorem modHome_recalled {f : HomeSt → HomeSt} : Emits Recalled (modHome f) := (Emits.modHome (by simp)).footMem

theorem sendSnoop_recalled {isRec : Bool} : Emits Recalled (sendSnoop n p isRec) := by
  have hlose : Emits Recalled (loseOwner n) := by
    refine Emits.dev.bind fun d => ?_
    split
    · exact modHome_recalled.bind fun _ => putLine_recalled
    · exact (Emits.look _).bind fun _ => putLine_recalled
  have hwrite : ∀ {st ports}, Emits Recalled (writeDir n st ports) := fun {st ports} =>
    (writeDir_emits n st ports).footMem.mono fun _ hu => hu.imp id fun h => h.mono (by simp) fun _ => False.elim
  have hsend : ∀ m, Emits Recalled (sendTlk p none m) := fun m => by
    unfold sendTlk enqueue
    refine Emits.now.bind fun t => ?_
    rw [ite_self]
    exact (Emits.modTrf (by simp)).footMem
  exact Emits.dev.bind fun _ => Emits.ite ((Emits.on hlose).bind fun _ => Emits.on hwrite) (modHome_recalled.bind fun _ => hsend _)

theorem emptyDir_recalled : Emits Recalled emptyDir := by
  have hspill : ∀ {k}, unpowered (A.HOM_SPILL_CNT k) := .inr (by simp only [A.HOM_SPILL_CNT]; omega)
  exact Emits.dev.bind fun _ => Emits.each fun _ _ => Emits.ite (Emits.each fun _ _ => sendSnoop_recalled)
    (modHome_recalled.bind fun _ => setDir_recalled.bind fun _ => Emits.on (Emits.bump hspill).footMem)

end

/-! ## The statement -/

/-- What follows the gating of the tiles in an entry to P3. -/
def settleTiles : M Unit := do
  modCmd fun c => { c with waking := [] }
  modTrf fun t => { t with deficit := [] }
  emptyDir

theorem settleTiles_emits : Emits (FootMem [.cmd, .store, .home, .trf] unpowered) settleTiles :=
  (Emits.modCmd (by simp)).footMem.bind fun _ => (Emits.modTrf (by simp)).footMem.bind fun _ =>
    emptyDir_recalled.mono fun _ hu => hu.imp id fun h => h.mono (by simp) fun _ => id

theorem p3Entry_steps {s : State} {seq : Nat} (hreq : s.dev.sys.pwr.req = some (3, seq)) (hrun : s.dev.runSeq seq = none) :
    Completes .p3Entry s fun t =>
      t.dev.sys.pwr.p3 = 1 ∧ t.dev.sys.pwr.req = none ∧ t.dev.fld A.PWR_STATUS F.PWR_STATUS_TRANS = 1 ∧
      t.dev.reg A.PWR_TILE_GATED = BitVec.allOnes 64 := by
  obtain ⟨w₁, hw₁⟩ : ∃ x, x = M.post (modPwr fun p => { p with req := none, p3 := 1 }) ⟨s.dev, []⟩ := ⟨_, rfl⟩
  obtain ⟨w₂, hw₂⟩ : ∃ x, x = M.post (setTrans true) w₁ := ⟨_, rfl⟩
  obtain ⟨w₃, hw₃⟩ : ∃ x, x = M.post (wr A.PWR_TILE_GATED (BitVec.allOnes 64)) w₂ := ⟨_, rfl⟩
  obtain ⟨w₄, hw₄⟩ : ∃ x, x = M.post (dropTiles fun _ => true) w₃ := ⟨_, rfl⟩
  obtain ⟨w₅, hw₅⟩ : ∃ x, x = M.post settleTiles w₄ := ⟨_, rfl⟩
  have hpost : M.post p3Entry ⟨s.dev, []⟩ = w₅ := by
    simp only [p3Entry, post_bind, val_dev, post_dev, hreq, hrun, Option.isSome_none, Bool.false_eq_true, if_false, hw₅, hw₄, hw₃, hw₂, hw₁,
      settleTiles]
  have hlog₁ : s.dev.replay w₁.log = w₁.dev := hw₁ ▸ (Emits.modPwr (parts := [.sys]) (regs := noReg) (by simp)).replay_log rfl
  have hlog₂ : s.dev.replay w₂.log = w₂.dev := hw₂ ▸ fset_prompt.replay_log hlog₁
  have hlog₃ : s.dev.replay w₃.log = w₃.dev := hw₃ ▸ wr_prompt.replay_log hlog₂
  have hlog₄ : s.dev.replay w₄.log = w₄.dev := hw₄ ▸ (dropTiles_aside _).replay_log hlog₃
  have hlog₅ : s.dev.replay w₅.log = w₅.dev := hw₅ ▸ settleTiles_emits.replay_log hlog₄
  have hsettled : Touches [.cmd, .store, .home, .trf] unpowered (fun _ => True) w₄.dev w₅.dev := hw₅ ▸ settleTiles_emits.touches_post w₄
  have hsys₅ : w₅.dev.sys = w₄.dev.sys := hsettled.parts .sys (by simp)
  have hsys₄ : w₄.dev.sys = w₃.dev.sys :=
    hw₄ ▸ (Upholds.of_emits (q := fun d => d.sys = w₃.dev.sys) (dropTiles_aside _) sys_of_aside).keeps w₃ rfl
  have hsys₃ : w₃.dev.sys = w₁.dev.sys := by simp [hw₃, hw₂, setTrans]
  have hkept : ∀ a ∈ [A.PWR_STATUS, A.PWR_TILE_GATED], w₅.dev.reg a = w₃.dev.reg a := fun a ha => by
    have htile : gatedReg a = none ∧ ¬ unpowered a := by
      unfold unpowered
      revert a
      decide
    rw [hsettled.regs a htile.2, hw₄, reg_dropTiles htile.1]
  have htrans : takesFld A.PWR_STATUS F.PWR_STATUS_TRANS := takesFld_power.1 _ (by simp)
  refine completes_run (e := w₅.dev) rfl hpost hlog₅ ⟨?_, ?_, ?_, ?_⟩
  · rw [hsys₅, hsys₄, hsys₃, hw₁]
    rfl
  · rw [hsys₅, hsys₄, hsys₃, hw₁]
    rfl
  · have hset : w₂.dev.fld A.PWR_STATUS F.PWR_STATUS_TRANS = 1 := hw₂ ▸ fld_fset htrans ..
    have hother : w₃.dev.reg A.PWR_STATUS = w₂.dev.reg A.PWR_STATUS := by simp [hw₃]
    rw [Dev.fld, hkept _ (by simp), hother]
    exact hset
  · have hgated : assigned A.PWR_TILE_GATED = true ∧ readMask A.PWR_TILE_GATED = BitVec.allOnes 64 := by decide +kernel
    rw [hkept _ (by simp), hw₃]
    simp [hgated]

theorem powerStateP3Entry : Clause.PowerStateP3Entry := fun _ =>
  ⟨fun _ => p3Entry_steps, p3EntryDone_steps⟩

/-- Settles O17: the entry to P3 and its exit, step by step. -/
theorem powerStateP3 : Obligations.PowerStateP3 := ⟨powerStateP3Entry, powerStateP3Exit⟩

end Sys2Proof.Machine
end

section
/-! PROOFS. A DOMAIN_CREATE notes the rate of the domain's shaper before it clears it (O45). -/

namespace Sys2Proof.Machine

/-- A DOMAIN_CREATE of domain 4, given over the mailbox and in progress, with no quotas and IDENT 0. -/
def creatingRun : Run := { iss := .mbox, seq := 3, pkt := putLe (putLe 0 0 2 Op.domainCreate) 3 1 4 }

/-- Domain 4 is FREE, and software has set EGRESS_RATE in its DOM_BW. -/
def limitedFreeDomain : State :=
  ⟨{ State.reset.dev with csr := [(A.DOM_BW 4, 1)], cmd := { runs := [creatingRun] } }, []⟩

theorem creating_carried : limitedFreeDomain.dev.carries .mbox Op.domainCreate creatingRun := by
  refine ⟨?_, ?_, ?_, ⟨?_, ?_⟩, ?_, ?_⟩ <;> decide +kernel

/-- The refill of this tick takes up the rate as it was, so the creation keeps what DOM_BW held (R326). -/
theorem creation_notes_rate :
    (limitedFreeDomain.dev.run (onRun Op.domainCreate .mbox domainCreate)).trf.changed = [(A.DOM_BW 4, 0, 1)] := by
  decide +kernel

/-- Refutes O45: the statement has a DOMAIN_CREATE change no part of the device but the commands, but where DOM_BW of the domain is not zero the
shapers note its former rate for the refill of the same tick. -/
theorem not_domainCommands : ¬ Obligations.DomainCommands := by
  intro h
  obtain ⟨hcreate, -⟩ := (h limitedFreeDomain .mbox creatingRun).1 creating_carried
  obtain ⟨t, hexec, -, -, -, -, -, -, -, hframe⟩ := hcreate (by decide +kernel) (by decide +kernel)
  have hdev : t.dev = limitedFreeDomain.dev.run (onRun Op.domainCreate .mbox domainCreate) := by rw [← Host.Outcome.next.inj hexec]
  have htrf : t.dev.trf = limitedFreeDomain.dev.trf := hframe.parts .trf (by decide)
  have hnoted := creation_notes_rate
  rw [← hdev, htrf] at hnoted
  exact absurd hnoted (by decide)

end Sys2Proof.Machine
end

section
/-! PROOFS. A teardown does not leave step 3 while a request that passed the check of a window of its domain still waits (O46). -/

namespace Sys2Proof.Machine

/-- The teardown of domain 4, begun by a staged destroy: no command waits for its end. -/
def unbindingTeardown : Teardown := ⟨4, none, 0, 0, false⟩

/-- A read of another node, of one line at the start of the store, through window 0 of domain 4; it has passed R177 and waits at its slice. -/
def passedRead : HReq := ⟨0, 0, .drs { type := 1, win := 256 }, .rdE, 0, some 4, some 0⟩

/-- Domain 4 is DESTROYING at step 3, with no context and no slot bound; its window 0 is open and the read waits. -/
def unbindingState : State :=
  ⟨{ State.reset.dev with csr := [(A.DOM_CFG 4, 0x32), (A.STN_WIN 256, 0x23)], home := { waiting := [passedRead] },
                          dom := { teardowns := [unbindingTeardown] } }, []⟩

/-- The window is closed, and the teardown waits for the read (R135, R179). -/
theorem teardown_waits_for_passedRead : (unbindingState.dev.run (destroyStep (4 : Fin 32))).domStep (4 : Fin 32) = 3 := by
  decide +kernel

/-- Refutes O46: the statement has step 3 of a teardown end where no context and no slot is bound, but it closes the windows of the domain as
WINDOW_CLOSE does, and waits for the requests that have passed the check of one of them. -/
theorem not_teardown : ¬ Obligations.Teardown := by
  rintro ⟨hsteps, -⟩
  obtain ⟨-, hunbind, -⟩ := hsteps unbindingState 4 unbindingTeardown (by decide +kernel)
  obtain ⟨t, hexec, hstep, -⟩ := hunbind (by decide +kernel) (by decide +kernel) (by decide +kernel)
  have hdev : t.dev = unbindingState.dev.run (destroyStep (4 : Fin 32)) := by rw [← Host.Outcome.next.inj hexec]
  rw [hdev, teardown_waits_for_passedRead] at hstep
  exact absurd hstep (by decide)

end Sys2Proof.Machine
end

section
/-! PROOFS. The start of an invalidation takes the translations of the dropped entries from the agents' caches (O47). -/

namespace Sys2Proof.Machine

/-- A RANGE_INVALIDATE of the first 2 MiB of context 9, given over the mailbox and in progress. -/
def invalidatingRun : Run :=
  { iss := .mbox, seq := 3, pkt := putLe (putLe (putLe 0 0 2 Op.rangeInvalidate) 4 1 9) 24 8 0x200000 }

/-- Segment 0 of context 9 maps those 2 MiB, and the first Curd engine has the translation in its cache. -/
def cachedSegment : State :=
  ⟨{ State.reset.dev with
      csr := [(A.STN_CTX_CFG 9, 0x10001), (A.STN_SEG0 9 0, 0xf), (A.STN_SEG1 9 0, 0x40000000)]
      stn := { caches := [(640, [8 * 9 + 0])] }
      cmd := { runs := [invalidatingRun] } }, []⟩

theorem invalidating_carried : cachedSegment.dev.carries .mbox Op.rangeInvalidate invalidatingRun := by
  refine ⟨?_, ?_, ?_, ⟨?_, ?_⟩, ?_, ?_⟩ <;> decide +kernel

/-- From the first step of the invalidation on no lookup hits the entry (R173). -/
theorem invalidation_drops_cached :
    (cachedSegment.dev.run (onRun Op.rangeInvalidate .mbox rangeInvalidate)).stn.caches = [] := by
  decide +kernel

/-- Refutes O47: the statement has the start of an invalidation change nothing of Stencil but the list of invalidations, but it drops the cached
translations of the entries that become invalid, here the only one of the first Curd engine. -/
theorem not_contextCommands : ¬ Obligations.ContextCommands := by
  intro h
  obtain ⟨-, hrange⟩ := h cachedSegment .mbox invalidatingRun (by decide +kernel)
  obtain ⟨hstarts, -⟩ := hrange invalidating_carried (by decide +kernel) (by decide +kernel) (by decide +kernel) (by decide +kernel)
  obtain ⟨t, hexec, hstn, -⟩ := hstarts (by decide +kernel) (by decide +kernel) rfl
  have hdev : t.dev = cachedSegment.dev.run (onRun Op.rangeInvalidate .mbox rangeInvalidate) := by rw [← Host.Outcome.next.inj hexec]
  have hkept : t.dev.stn.caches = cachedSegment.dev.stn.caches := by rw [hstn]
  rw [hdev, invalidation_drops_cached] at hkept
  exact absurd hkept (by decide)

end Sys2Proof.Machine
end

section
/-! PROOFS. A write of another node that lands poisoned is counted at its stack (O33). -/

namespace Sys2Proof.Machine

/-- Node (1, 1, 1) of a span of 4 × 4 × 4 devices, joined to its neighbour (2, 1, 1): domain 4 is ACTIVE and holds extent 1, its window 263
opens the extent to that neighbour, and every stack is READY. -/
def openedWindow : State :=
  ⟨{ State.reset.dev with
      csr := [(A.TOP_NODE, 1057), (A.TOP_SPAN_DIM, 0x900030303), (A.DOM_CFG 4, 1), (A.DOM_EXT_TAG 1, 0x1004),
          (A.STN_WIN 263, BitVec.ofNat 64 (15 + 3 * 2 ^ 6 + 2081 * 2 ^ 11 + 512 * 2 ^ 25)), (A.DRS_STATUS 0, 2), (A.TRF_NODE_METER, 0)] ++
        (List.range 8).map fun k => (A.STK_STATUS k, 3)
      fab := { trunkDown := [(0, 1)] } }, []⟩

/-- A write of one line through that window which its source read poisoned. -/
def poisonedWrite : DIn :=
  { cls := 1, m := { type := 0x02, len := 1, dst := 1057, src := 2081, neg := 1, srcDomain := 3, poison := true, tag := 6, win := 263,
                     hops := 1, units := [77] } }

theorem poisonedWrite_served : openedWindow.dev.drsServed 0 poisonedWrite := by
  constructor <;> decide +kernel

theorem openedWindow_lineFree : openedWindow.dev.lineFree 0x1000000 := by
  constructor <;> decide +kernel

/-- The line lands poisoned (R104), and its stack counts it (STK_POISON_WR_CNT). -/
theorem poisonedWrite_counted :
    (openedWindow.dev.run (drsMsg (0 : Fin 12) poisonedWrite true (drsRequest (0 : Fin 12) poisonedWrite poisonedWrite.m))).reg
      (A.STK_POISON_WR_CNT (stackOf (64 * 0x1000000))) = 1 := by
  decide +kernel

/-- Refutes O33: of the registers of the line's stack the statement lets a request change STK_STATUS and the counters of Rind, but a write with
POISON is counted in STK_POISON_WR_CNT too. -/
theorem not_dorrusRequests : ¬ Obligations.DorrusRequests := by
  intro h
  obtain ⟨hmemory, -⟩ := h openedWindow 0 poisonedWrite
  obtain ⟨-, hwrite, -⟩ := hmemory 0x40000000 4 0 .w (by decide +kernel) poisonedWrite_served rfl rfl rfl (by decide +kernel)
    (by decide +kernel) rfl rfl rfl (by decide +kernel) openedWindow_lineFree (by decide +kernel) (by decide +kernel) (by decide +kernel)
  obtain ⟨t, hexec, ⟨-, -, -, -, hframe⟩, -⟩ := hwrite 77 rfl rfl
  have hdev : t.dev = openedWindow.dev.run (drsMsg (0 : Fin 12) poisonedWrite true (drsRequest (0 : Fin 12) poisonedWrite poisonedWrite.m)) := by
    rw [← Host.Outcome.next.inj hexec]
  have hkept := hframe.regs (A.STK_POISON_WR_CNT (stackOf (64 * 0x1000000))) (by simp only [shaperRegs]; decide +kernel)
  rw [hdev, poisonedWrite_counted] at hkept
  exact absurd hkept (by decide +kernel)

end Sys2Proof.Machine
end

section
/-! PROOFS. The ingress arbiters serve nothing in P3, though the stacks are READY before its exit ends (O30). -/

namespace Sys2Proof.Machine

/-- A write of one line of extent 1, from the host of port 1. -/
def waitingWrite : TMsg := { type := 0x04, len := 1, tag := 9, addr := 0x40000000, data := [7] }

/-- The write as it waits at the arbiter of the west half, with its line request. -/
def waitingEntry : Ing :=
  ⟨false, 1, 1, 0, 80, false, 3, .tlk 1 waitingWrite, [⟨6, 0, .tlk 1 waitingWrite, .wr (BitVec.allOnes 64) 7 0, 0x1000000, none, none⟩], none⟩

/-- The last step of an exit from P3: every stack is READY again and STATE still reads P3. Extent 1 is leased to port 1 for domain 4, and the
write has waited since before the entry. -/
def leavingP3 : State :=
  ⟨{ State.reset.dev with
      csr := [(A.PWR_STATUS, 3), (A.DOM_EXT_TAG 1, 0x1004), (A.LSE_EXT 1, 0x70002)] ++ (List.range 8).map fun k => (A.STK_STATUS k, 3)
      home := { groups := [⟨6, .tlk 1 waitingWrite, 1, []⟩] }
      trf := { ing := [waitingEntry] }
      sys := { pwr := { p3 := 4 } } }, []⟩

theorem leavingP3_lineFree : leavingP3.dev.lineFree 0x1000000 := by
  constructor <;> decide +kernel

/-- The write goes on waiting: leases that expired in P3 are to be taken back before any request is served (R279). -/
theorem leavingP3_keeps_waiting : (leavingP3.dev.run (ingressTake false >>= fun _ => checkTlkPorts)).trf.ing = [waitingEntry] := by
  decide +kernel

/-- Refutes O30: the statement has INGRESS_TAKE serve the write in every power state, but until STATE leaves P3 no request is served, also when
the stacks are READY already. -/
theorem not_hostAnswersAndIngress : ¬ Obligations.HostAnswersAndIngress := by
  rintro ⟨hserves, -⟩
  obtain ⟨t, hexec, hnone, -⟩ := hserves leavingP3 false 1 waitingWrite waitingEntry 6 4 7 rfl rfl rfl rfl rfl rfl (by decide +kernel)
    leavingP3_lineFree.calm (by decide +kernel) leavingP3_lineFree (by decide +kernel)
  have hdev : t.dev = leavingP3.dev.run (ingressTake false >>= fun _ => checkTlkPorts) := by rw [← Host.Outcome.next.inj hexec]
  rw [hdev, leavingP3_keeps_waiting] at hnone
  exact absurd hnone (by decide)

end Sys2Proof.Machine
end

section
/-! PROOFS. The end of a miss and the release of a context: what they change, and what the commands are told (R160, R168, R169; O24). -/

namespace Sys2Proof.Machine

/-! ## Footprints -/

/-- The registers that the end of misses changes: the count of requests sent, and the counts of stalls; with the release of a context its own. -/
def missRegs (a : Nat) : Prop := a = A.STN_MISS_CNT ∨ 0x71000 ≤ a

theorem sendMiss_emits (m : Miss) (tag : Nat) : Emits (Foot [.trf] missRegs) (sendMiss m tag) := by
  refine Emits.dev.bind fun d => (Emits.bump (.inl rfl)).bind fun _ => Emits.now.bind fun t => ?_
  simp only [ite_self]
  exact Emits.modTrf (by simp)

theorem startWaitingMiss_emits : Emits (Foot [.stn, .trf] missRegs) startWaitingMiss := by
  refine Emits.dev.bind fun d => ?_
  split
  · exact (Emits.modStn (by simp)).bind fun _ => (sendMiss_emits _ _).mono fun _ hu => hu.mono (by simp) fun _ => id
  · exact Emits.pure _

theorem countStall_emits (key : Nat) : Emits (Foot [.free] missRegs) (countStall key) := by
  refine Emits.dev.bind fun d => Emits.each fun r _ => ?_
  split
  · refine (Emits.freeBelow _ (by simp)).bind fun k => (Emits.freeBelow _ (by simp)).bind fun _ => Emits.bump48 (.inr ?_)
    simp only [A.TTC_STALL_CNT]
    omega
  · exact Emits.pure _

/-- The parts that the end of a miss changes. -/
abbrev missParts : List Part := [.stn, .free, .cmd, .trf]

theorem endMiss_emits (m : Miss) (status detail : Nat) : Emits (Foot missParts missRegs) (endMiss m status detail) :=
  (Emits.modStn (by simp)).bind fun _ => ((countStall_emits _).mono fun _ hu => hu.mono (by simp) fun _ => id).bind fun _ =>
    (Emits.modCmd (by simp)).bind fun _ => startWaitingMiss_emits.mono fun _ hu => hu.mono (by simp) fun _ => id

theorem freeCtx_emits (c : Nat) : Emits (Foot missParts missRegs) (freeCtx c) := by
  have hcfg : missRegs (A.STN_CTX_CFG c) ∧ missRegs (A.STN_CTX_BASE c) ∧ ∀ k, missRegs (A.STN_SEG0 c k) ∧ missRegs (A.STN_SEG1 c k) := by
    refine ⟨.inr ?_, .inr ?_, fun k => ⟨.inr ?_, .inr ?_⟩⟩ <;> simp only [A.STN_CTX_CFG, A.STN_CTX_BASE, A.STN_SEG0, A.STN_SEG1] <;> omega
  obtain ⟨hctx, hbase, hseg⟩ := hcfg
  exact (Emits.look _).bind fun _ => (Emits.wr hctx).bind fun _ => (Emits.wr hbase).bind fun _ =>
    (Emits.each fun k _ => (Emits.wr (hseg k).1).bind fun _ => Emits.wr (hseg k).2).bind fun _ =>
      (Emits.look _).bind fun _ => Emits.each fun m _ => endMiss_emits m _ _

/-! ## What the end of a miss leaves -/

/-- A waiting miss that takes a free entry stays the miss of its context and granule. -/
theorem startWaitingMiss_keeps (q : Nat → Nat → Prop) (w : Work) (h : ∀ x ∈ w.dev.stn.misses, q x.ctx x.gran) :
    ∀ x ∈ (M.post startWaitingMiss w).dev.stn.misses, q x.ctx x.gran := by
  unfold startWaitingMiss
  simp only [post_bind, val_dev, post_dev]
  split
  · next t m _ hm =>
    rw [post_bind, ((sendMiss_emits _ t).changes_post (Changes.refl ..)).parts .stn (by simp)]
    simp only [post_modStn, Work.add_dev, Upd.stn_stn, List.mem_map]
    rintro _ ⟨y, hy, rfl⟩
    split
    · exact h m (List.mem_of_find?_eq_some hm)
    · exact h y hy
  · exact h

/-- The miss is gone, and every command has been told. -/
theorem endMiss_ends (m : Miss) (status detail : Nat) (w : Work) :
    (∀ x ∈ (M.post (endMiss m status detail) w).dev.stn.misses, ¬ (x.ctx = m.ctx ∧ x.gran = m.gran)) ∧
    (M.post (endMiss m status detail) w).dev.cmd = { w.dev.cmd with
      runs := w.dev.cmd.runs.map fun r => r.missEnded (4 * (m.ctx * 2 ^ 27 + m.gran) + 2) status detail } := by
  unfold endMiss
  simp only [post_bind]
  obtain ⟨w₁, hw₁⟩ : ∃ x, x = M.post (modStn fun s => { s with misses := s.misses.filter fun x => !(x.ctx == m.ctx && x.gran == m.gran) }) w :=
    ⟨_, rfl⟩
  have hstall := (countStall_emits (4 * (m.ctx * 2 ^ 27 + m.gran) + 2)).changes_post (Changes.refl _ _ w₁.dev)
  rw [← hw₁]
  refine ⟨startWaitingMiss_keeps (fun c g => ¬ (c = m.ctx ∧ g = m.gran)) _ ?_, ?_⟩
  · simp only [post_modCmd, Work.add_dev, Upd.cmd_stn]
    rw [hstall.parts .stn (by simp), hw₁]
    intro x hx hgone
    simp [hgone] at hx
  · rw [(startWaitingMiss_emits.changes_post (Changes.refl ..)).parts .cmd (by simp)]
    simp only [post_modCmd, Work.add_dev, Upd.cmd_cmd]
    rw [hstall.parts .cmd (by simp), hw₁]
    simp

/-- A command that has asked for a miss keeps how it failed. -/
theorem Run.missEnded_got {r : Run} {key status : Nat} (h : key ∈ r.asked) (hstatus : status ≠ 0) (detail : Nat) :
    { key := key, status := status, detail := detail } ∈ (r.missEnded key status detail).got := by
  simp [Run.missEnded, h, hstatus]

end Sys2Proof.Machine
end

section
/-! PROOFS. The acknowledgements of an invalidation and its end (R173; O24). -/

namespace Sys2Proof.Machine

/-! ## The end of an invalidation -/

/-- The completion of an invalidation (R173, R174). -/
def Inval.done (i : Inval) : Cpl :=
  { detail := if i.reset.isSome then 0x40 else 0, a := i.count, b := agentCount, result := i.reset.getD 0 }

/-- What the end of an invalidation does when none waits behind it (R173, step 4). -/
def closeInval (i : Inval) : M Unit := do
  bump A.STN_INV_CNT
  on i.release (freeCtx i.ctx)
  modRun i.seq fun r => { r with cpl := some i.done }
  modStn fun s => { s with invals := [] }
  fset A.STN_STATUS F.STN_STATUS_INV_BUSY 0

section
variable {w : Work} {i : Inval} {rest : List Inval} {a : Nat}

theorem post_finishInval_open (h : w.dev.stn.invals = i :: rest) (hopen : i.acked.length < agentCount) : M.post finishInval w = w := by
  simp [finishInval, h, Nat.not_le.mpr hopen]

theorem post_finishInval_last (h : w.dev.stn.invals = [i]) (hall : agentCount ≤ i.acked.length) :
    M.post finishInval w = M.post (closeInval i) w := by
  simp only [finishInval, post_bind, val_dev, post_dev, h, if_pos hall, closeInval, Inval.done]
  simp [beginInval]

/-- An agent that waits for nothing acknowledges. -/
theorem post_agentAck (h : w.dev.stn.invals = i :: rest) (hnew : a ∉ i.acked) (hready : w.dev.agentWaits a i.ctx i.lo i.hi = false) :
    M.post (agentAck a) w =
      M.post finishInval (w.add (.stn { w.dev.stn with invals := { i with acked := i.acked ++ [a] } :: rest })) := by
  simp [agentAck, h, hready, ackInval, hnew]

end

theorem stnInvCnt_counts : assigned A.STN_INV_CNT = true ∧ Fld.of ⟨0, 32⟩ (readMask A.STN_INV_CNT) = 2 ^ 32 - 1 := by
  decide +kernel

theorem stnStatus_takes_busy : takesFld A.STN_STATUS F.STN_STATUS_INV_BUSY := by
  decide +kernel

theorem closeInval_emits (i : Inval) :
    Emits (Foot missParts fun a => a ∈ [A.STN_STATUS, A.STN_INV_CNT] ∨ missRegs a) (closeInval i) :=
  (Emits.bump (.inl (by simp))).bind fun _ =>
    (Emits.on ((freeCtx_emits _).mono fun _ hu => hu.mono (by simp) fun _ => .inr)).bind fun _ => (Emits.modCmd (by simp)).bind fun _ =>
      (Emits.modStn (by simp)).bind fun _ => Emits.fset (.inl (by simp))

/-- The invalidation is gone, Stencil is not busy with one, and one more is counted. -/
theorem closeInval_closes (i : Inval) (w : Work) :
    (M.post (closeInval i) w).dev.stn.invals = [] ∧ (M.post (closeInval i) w).dev.fld A.STN_STATUS F.STN_STATUS_INV_BUSY = 0 ∧
    Counts A.STN_INV_CNT 1 w.dev (M.post (closeInval i) w).dev := by
  have hrest : Emits (Foot missParts fun a => a = A.STN_STATUS ∨ missRegs a) (do
      on i.release (freeCtx i.ctx)
      modRun i.seq fun r => { r with cpl := some i.done }
      modStn fun s => { s with invals := [] }
      fset A.STN_STATUS F.STN_STATUS_INV_BUSY 0) :=
    (Emits.on ((freeCtx_emits _).mono fun _ hu => hu.mono (by simp) fun _ => .inr)).bind fun _ => (Emits.modCmd (by simp)).bind fun _ =>
      (Emits.modStn (by simp)).bind fun _ => Emits.fset (.inl rfl)
  refine ⟨by simp [closeInval], ?_, ?_⟩
  · simp only [closeInval, post_bind]
    exact fld_fset stnStatus_takes_busy 0 _
  · have hsame := (hrest.changes_post (Changes.refl _ _ (M.post (bump A.STN_INV_CNT) w).dev)).fld (a := A.STN_INV_CNT)
      (by simp only [missRegs]; decide) ⟨0, 32⟩
    exact hsame.trans (counts_bump stnInvCnt_counts.1 stnInvCnt_counts.2 rfl)

/-! ## INVAL_ACK -/

section
variable {s : State} {i : Inval} {agent : Fin 658}

/-- An acknowledgement that is not the last one joins those there. -/
theorem invalAck_joins {rest : List Inval} (h : s.dev.stn.invals = i :: rest) (hnew : agent.val ∉ i.acked) (hopen : i.acked.length < 657)
    (hready : s.dev.agentWaits agent i.ctx i.lo i.hi = false) :
    Completes (.invalAck agent) s fun t =>
      t.dev.stn.invals = { i with acked := i.acked ++ [agent.val] } :: rest ∧ Changes [.stn] noReg s.dev t.dev := by
  have hpost := (post_agentAck (w := ⟨s.dev, []⟩) h hnew hready).trans
    (post_finishInval_open (i := { i with acked := i.acked ++ [agent.val] }) (rest := rest) (by simp)
      (by simp only [List.length_append, List.length_singleton, agentCount]; omega))
  refine completes_run rfl hpost rfl ⟨by simp, Foot.changes (u := .stn _) ?_ (Changes.refl ..)⟩
  simp [Foot]

/-- The last acknowledgement completes the invalidation with its counts. -/
theorem invalAck_completes (h : s.dev.stn.invals = [i]) (hnew : agent.val ∉ i.acked) (hlast : i.acked.length = 657)
    (hrelease : i.release = false) (hreset : i.reset = none) (hready : s.dev.agentWaits agent i.ctx i.lo i.hi = false) :
    Completes (.invalAck agent) s fun t =>
      t.dev.stn.invals = [] ∧ t.dev.fld A.STN_STATUS F.STN_STATUS_INV_BUSY = 0 ∧ Counts A.STN_INV_CNT 1 s.dev t.dev ∧
      t.dev.cmd = { s.dev.cmd with runs := s.dev.cmd.runs.map fun r => if r.seq == i.seq then { r with cpl := some { a := i.count, b := 658 } } else r } ∧
      Changes [.stn, .cmd] (· ∈ [A.STN_STATUS, A.STN_INV_CNT]) s.dev t.dev := by
  obtain ⟨j, hj⟩ : ∃ j, j = { i with acked := i.acked ++ [agent.val] } := ⟨_, rfl⟩
  obtain ⟨v, hv⟩ : ∃ v, v = Work.add ⟨s.dev, []⟩ (.stn { s.dev.stn with invals := [j] }) := ⟨_, rfl⟩
  have hpost : M.post (agentAck agent) ⟨s.dev, []⟩ = M.post (closeInval j) v := by
    rw [post_agentAck (w := ⟨s.dev, []⟩) h hnew hready, ← hj, ← hv]
    exact post_finishInval_last (by simp [hv]) (by simp [hj, hlast])
  have hacked : Changes [.stn, .cmd] (· ∈ [A.STN_STATUS, A.STN_INV_CNT]) s.dev v.dev :=
    hv ▸ Foot.changes (u := .stn _) (by simp [Foot]) (Changes.refl ..)
  have hemits : Emits (Foot [.stn, .cmd] (· ∈ [A.STN_STATUS, A.STN_INV_CNT])) (closeInval j) := by
    simp only [closeInval, hj, hrelease, on_false]
    exact (Emits.bump (by simp)).bind fun _ => (Emits.pure _).bind fun _ => (Emits.modCmd (by simp)).bind fun _ =>
      (Emits.modStn (by simp)).bind fun _ => Emits.fset (by simp)
  obtain ⟨hinvals, hbusy, hcounts⟩ := closeInval_closes j v
  refine completes_run rfl hpost (hemits.replay_log (hv ▸ rfl)) ⟨hinvals, hbusy, ?_, ?_, hemits.changes_post hacked⟩
  · rw [hv] at hcounts ⊢
    exact hcounts
  · simp [closeInval, modRun, hj, hv, hrelease, hreset, Inval.done]

end

end Sys2Proof.Machine
end

section
/-! PROOFS. ACK_TIMEOUT: the agents that are late are reset, with the engines that hold them, and the invalidation ends (R174, R486; O24). -/

namespace Sys2Proof.Machine

/-! ## What the reset of an agent leaves -/

/-- An invalidation runs alone whose time has come, and the count of invalidations is still that of a device. -/
def Dev.awaitsAcks (d : Dev) (i : Inval) (e : Dev) : Prop :=
  e.stn.invals = [i] ∧ e.reg A.STN_INV_CNT = d.reg A.STN_INV_CNT ∧ i.due ≤ e.now

/-- The registers that the reset of an engine changes: those of a queue that leaves RUNNING, and the count of the engine watchdog. -/
def engineResetRegs (a : Nat) : Prop := (∃ q, a = A.CMD_Q_CFG q ∨ a = A.CMD_Q_STATE q) ∨ a = A.TOP_WDT_CNT ∨ leaveRegs a

theorem not_engineResetRegs_stnInvCnt : ¬ engineResetRegs A.STN_INV_CNT := by
  rintro (⟨q, h | h⟩ | h | h)
  · simp only [A.STN_INV_CNT, A.CMD_Q_CFG] at h
    omega
  · simp only [A.STN_INV_CNT, A.CMD_Q_STATE] at h
    omega
  · exact absurd h (by decide)
  · exact not_leaveRegs (by decide) (by decide) h

/-- The parts that the reset of an engine changes beside the agents' caches. -/
abbrev engineResetParts : List Part := [.cmd, .eng, .own, .evq]

/-- What stays within the footprint of a reset keeps the invalidation running. -/
theorem Emits.upholds_awaitsAcks {α : Type} {m : M α} {d : Dev} {i : Inval} (hm : Emits (Foot engineResetParts engineResetRegs) m) :
    Upholds (d.awaitsAcks i) m where
  logged := hm.mono fun _ _ => trivial
  keeps w h := by
    have hchanges := hm.changes_post (Changes.refl _ _ w.dev)
    obtain ⟨hinvals, hcnt, hdue⟩ := h
    refine ⟨?_, ?_, ?_⟩
    · rw [hchanges.parts .stn (by simp), hinvals]
    · rw [hchanges.regs _ not_engineResetRegs_stnInvCnt, hcnt]
    · rw [hchanges.parts .now (by simp)]
      exact hdue

section
variable {d : Dev} {i : Inval}

theorem dropAgents_awaitsAcks (hit : Nat → Bool) : Upholds (d.awaitsAcks i) (dropAgents hit) where
  logged := (Emits.look _).bind fun _ => Emits.emit trivial
  keeps _ h := h

theorem raise_resets {code srcInst inst : Nat} {dom : Option Nat} {detail countA addr : Nat} :
    Emits (Foot engineResetParts engineResetRegs) (raise code srcInst inst dom detail countA addr) :=
  Emits.raise (by simp) (.inr (.inr (.inr (.inl rfl)))) (.inr (.inr (.inr (.inr ⟨_, rfl⟩))))

theorem abortRun_resets (r : Run) (status detail result : Nat) : Emits (Foot engineResetParts engineResetRegs) (abortRun r status detail result) :=
  Emits.ite (Emits.pure _) (Emits.ite (Emits.modCmd (by simp)) (Emits.modCmd (by simp)))

theorem forceDrain_resets (q : Nat) : Emits (Foot engineResetParts engineResetRegs) (forceDrain q) := by
  have hstate : engineResetRegs (A.CMD_Q_STATE q) := .inl ⟨q, .inr rfl⟩
  have hdrain : Emits (Foot engineResetParts engineResetRegs) (drainQueue q) :=
    Emits.dev.bind fun _ => Emits.ite ((Emits.fset hstate).bind fun _ =>
      (Emits.leaveRunning (by simp) (by simp) (by simp) fun k => .inr (.inr (.inl ⟨k, rfl⟩))).bind fun _ => Emits.settleQueue hstate) (Emits.pure _)
  exact (Emits.fset (.inl ⟨q, .inl rfl⟩)).bind fun _ => hdrain.bind fun _ => Emits.dev.bind fun _ =>
    Emits.on ((Emits.fset hstate).bind fun _ => Emits.settleQueue hstate)

theorem resetTiles_awaitsAcks (l : List Nat) : Upholds (d.awaitsAcks i) (resetTiles l) := by
  have hcopies : Emits (Foot engineResetParts engineResetRegs) (dropCopies fun x => l.contains x.tile) :=
    (Emits.look _).bind fun _ => (Emits.on (Emits.modOwn (by simp))).bind fun _ => Emits.on (Emits.modEng (by simp))
  have haborts (e : Dev) : Emits (Foot engineResetParts engineResetRegs)
      (each (e.cmd.runs.filter fun r => r.bf && (e.needs r.iss).any fun t => l.contains t) fun r => abortRun r Sc.aborted 0xE2 0) :=
    Emits.each fun r _ => abortRun_resets r _ _ _
  exact hcopies.upholds_awaitsAcks.bind fun _ => (dropAgents_awaitsAcks _).bind fun _ =>
    (Emits.dev.bind haborts).upholds_awaitsAcks

theorem resetEngine_awaitsAcks (e : Nat) (r : Run) : Upholds (d.awaitsAcks i) (resetEngine e r) := by
  have hreport : Emits (Foot engineResetParts engineResetRegs) (do
      raise Ev.wdtEngine 0 e (some r.dom)
      fadd A.TOP_WDT_CNT F.TOP_WDT_CNT_ENG 1) :=
    raise_resets.bind fun _ => Emits.fadd (.inr (.inl rfl))
  refine (Emits.dev (p := Foot engineResetParts engineResetRegs)).upholds_awaitsAcks.bind fun _ =>
    Upholds.ite ((resetTiles_awaitsAcks _).bind fun _ => ?_) ((dropAgents_awaitsAcks _).bind fun _ => ?_) <;>
  · refine ((abortRun_resets r _ _ _).bind fun _ => ?_).upholds_awaitsAcks
    dsimp only
    split
    · exact (forceDrain_resets _).bind fun _ => hreport
    · exact hreport

theorem resetAgent_awaitsAcks (a : Nat) : Upholds (d.awaitsAcks i) (resetAgent a) := by
  refine (Emits.dev (p := Foot engineResetParts engineResetRegs)).upholds_awaitsAcks.bind fun e => ?_
  split
  · split
    · exact resetEngine_awaitsAcks _ _
    · exact resetTiles_awaitsAcks _
  · dsimp only
    split
    · exact resetEngine_awaitsAcks _ _
    · exact dropAgents_awaitsAcks _

end

/-! ## The late agents count as having acknowledged -/

/-- The agents that have not acknowledged. -/
def Inval.late (i : Inval) : List Nat := (List.range agentCount).filter fun a => !(i.acked.contains a)

/-- An invalidation whose late agents have been reset (R174). -/
def Inval.forced (i : Inval) : Inval :=
  { i with acked := i.acked ++ i.late, reset := if i.reset.isNone then i.late.head? else i.reset }

/-- What a list lacks of the numbers below a bound makes it as long as the bound. -/
theorem le_length_append_missing (l : List Nat) (n : Nat) : n ≤ (l ++ (List.range n).filter fun a => !(l.contains a)).length := by
  have hall : List.range n ⊆ l ++ (List.range n).filter fun a => !(l.contains a) := fun a ha => by
    by_cases hin : a ∈ l
    · exact List.mem_append_left _ hin
    · exact List.mem_append_right _ (List.mem_filter.mpr ⟨ha, by simp [hin]⟩)
  simpa using (List.nodup_range.subperm hall).length_le

/-- With the late ones every agent has acknowledged. -/
theorem Inval.forced_acked (i : Inval) : agentCount ≤ i.forced.acked.length := le_length_append_missing i.acked agentCount

/-- Stencil's own part of ACK_TIMEOUT before the invalidation ends: the records of the late agents and their translations. -/
def forceAcks (i : Inval) : M Unit := do
  passTo i.due
  each i.late fun a => raise Ev.ackTimeout 0 a
  dropAgents i.late.contains

theorem passTo_awaitsAcks (d : Dev) (i : Inval) (t : Nat) : Upholds (d.awaitsAcks i) (passTo t) where
  logged := Emits.emit trivial
  keeps _ h := ⟨h.1, h.2.1, Nat.le_trans h.2.2 (Nat.le_max_left ..)⟩

theorem forceAcks_awaitsAcks (d : Dev) (i : Inval) : Upholds (d.awaitsAcks i) (forceAcks i) :=
  (passTo_awaitsAcks d i _).bind fun _ => (Upholds.each fun _ => raise_resets.upholds_awaitsAcks).bind fun _ => dropAgents_awaitsAcks _

theorem post_ackTimeout {d : Dev} {i : Inval} {w : Work} (h : d.awaitsAcks i w.dev) :
    M.post ackTimeout w =
      M.post (closeInval i.forced) ((M.post (forceAcks i) w).add (.stn { (M.post (forceAcks i) w).dev.stn with invals := [i.forced] })) := by
  refine Eq.trans ?_ (post_finishInval_last (by simp) i.forced_acked)
  simp only [ackTimeout, forceAcks, Inval.forced, Inval.late, post_bind, val_dev, post_dev, h.1, post_modStn]

/-! ## ACK_TIMEOUT and MISS_TIMEOUT -/

/-- However many agents have not acknowledged, the invalidation completes once its time has come. -/
theorem ackTimeout_completes {s : State} {i : Inval} (h : s.dev.stn.invals = [i]) :
    Completes .ackTimeout s fun t =>
      i.due ≤ t.dev.now ∧ t.dev.stn.invals = [] ∧ t.dev.fld A.STN_STATUS F.STN_STATUS_INV_BUSY = 0 ∧ Counts A.STN_INV_CNT 1 s.dev t.dev := by
  obtain ⟨w₁, hw₁⟩ : ∃ w, w = Work.add ⟨s.dev, []⟩ (.now i.due) := ⟨_, rfl⟩
  have hlog₁ : s.dev.replay w₁.log = w₁.dev := hw₁ ▸ rfl
  have hawaits₁ : s.dev.awaitsAcks i w₁.dev := hw₁ ▸ ⟨h, rfl, Nat.le_max_right ..⟩
  have hresets : Upholds (s.dev.awaitsAcks i) (each i.late resetAgent) := Upholds.each resetAgent_awaitsAcks
  obtain ⟨hlog₂, hawaits₂⟩ := hresets.post hlog₁ hawaits₁
  obtain ⟨hlog₃, hinvals, hcnt, hdue⟩ := (forceAcks_awaitsAcks s.dev i).post hlog₂ hawaits₂
  have hpost : M.post ackExpire ⟨s.dev, []⟩ = M.post ackTimeout (M.post (each i.late resetAgent) w₁) := by
    simp only [ackExpire, post_bind, val_dev, post_dev, h, post_passTo, hw₁]
    rfl
  rw [post_ackTimeout hawaits₂] at hpost
  obtain ⟨v, hv⟩ : ∃ v, v = M.post (forceAcks i) (M.post (each i.late resetAgent) w₁) := ⟨_, rfl⟩
  rw [← hv] at hlog₃ hcnt hdue hpost
  have hends := (closeInval_emits i.forced).changes_post (Changes.refl _ _ (v.add (.stn { v.dev.stn with invals := [i.forced] })).dev)
  obtain ⟨hnone, hbusy, hcounts⟩ := closeInval_closes i.forced (v.add (.stn { v.dev.stn with invals := [i.forced] }))
  refine completes_run rfl hpost ((closeInval_emits _).replay_log ?_) ⟨?_, hnone, hbusy, ?_⟩
  · rw [Work.add_log, Dev.replay_cons, hlog₃, Work.add_dev]
  · rw [hends.parts .now (by simp)]
    exact hdue
  · have hfld : v.dev.fld A.STN_INV_CNT ⟨0, 32⟩ = s.dev.fld A.STN_INV_CNT ⟨0, 32⟩ := congrArg (Fld.of ⟨0, 32⟩) hcnt
    unfold Counts
    rw [← hfld]
    exact hcounts

/-- A miss without a reply in time ends for every command that waits for it. -/
theorem missTimeout_ends {s : State} {tag : Fin 128} {m : Miss} (h : s.dev.missOf tag = some m) (hahead : m.ahead = false) :
    Completes (.missTimeout tag) s fun t =>
      t.dev.now = max s.dev.now (m.start + s.dev.missTimeout) ∧ Counts A.STN_MISS_TO_CNT 1 s.dev t.dev ∧
      (∀ x ∈ t.dev.stn.misses, ¬ (x.ctx = m.ctx ∧ x.gran = m.gran)) ∧
      (∀ r ∈ s.dev.cmd.runs, 4 * (m.ctx * 2 ^ 27 + m.gran) + 2 ∈ r.asked →
        ∃ r' ∈ t.dev.cmd.runs, r'.seq = r.seq ∧ { key := 4 * (m.ctx * 2 ^ 27 + m.gran) + 2, status := 0x0D, detail := 0x40 } ∈ r'.got) ∧
      ∀ a, t.dev.byte a = s.dev.byte a := by
  obtain ⟨w, hw⟩ : ∃ w, w = M.post (bump A.STN_MISS_TO_CNT) (Work.add ⟨s.dev, []⟩ (.now (m.start + s.dev.missTimeout))) := ⟨_, rfl⟩
  have hnow : w.dev.now = max s.dev.now (m.start + s.dev.missTimeout) := by simp [hw]
  have hcounts : Counts A.STN_MISS_TO_CNT 1 s.dev w.dev := hw ▸ counts_bump (by decide +kernel) (by decide +kernel) rfl
  have hstart : Changes [.now] (· = A.STN_MISS_TO_CNT) s.dev w.dev :=
    hw ▸ (Emits.bump (parts := [.now]) (regs := (· = A.STN_MISS_TO_CNT)) rfl).changes_post
      (Foot.changes (u := .now _) (by simp [Foot]) (Changes.refl ..))
  have hlog : s.dev.replay w.log = w.dev := hw ▸ (Emits.bump (parts := []) (regs := fun _ => True) trivial).replay_log rfl
  obtain ⟨report, hreport⟩ : ∃ x, x = raise Ev.missTimeout 0 m.ctx (some (s.dev.ctxDom m.ctx)) 0 0 m.va := ⟨_, rfl⟩
  have hraise : Emits (Foot [.evq] recordRegs) report := hreport ▸ Emits.raise (by simp) (.inl rfl) (.inr ⟨_, rfl⟩)
  have htail : Emits (Foot (.evq :: missParts) fun a => recordRegs a ∨ missRegs a) (report >>= fun _ => endMiss m Sc.timeout 0x40) :=
    (hraise.mono fun _ hu => hu.mono (by simp) fun _ => .inl).bind fun _ =>
      (endMiss_emits m _ _).mono fun _ hu => hu.mono (by simp) fun _ => .inr
  have hpost : M.post (missTimeout tag) ⟨s.dev, []⟩ = M.post (report >>= fun _ => endMiss m Sc.timeout 0x40) w := by
    simp only [missTimeout, post_bind, val_dev, post_dev, h, hahead, hw, hreport, post_passTo]
    rfl
  have hchanges := htail.changes_post (Changes.refl _ _ w.dev)
  obtain ⟨hgone, hcmd⟩ := endMiss_ends m Sc.timeout 0x40 (M.post report w)
  have hcmdKept : (M.post report w).dev.cmd = s.dev.cmd :=
    ((hraise.changes_post (Changes.refl ..)).parts .cmd (by simp)).trans (hstart.parts .cmd (by simp))
  have huncounted : ¬ (recordRegs A.STN_MISS_TO_CNT ∨ missRegs A.STN_MISS_TO_CNT) := by
    rintro (hrec | hmiss)
    · exact absurd (recordRegs_range hrec) (by decide)
    · exact absurd hmiss (by simp only [missRegs]; decide)
  refine completes_run rfl hpost (htail.replay_log hlog) ⟨?_, ?_, hgone, fun r hr hasked => ?_, fun a => ?_⟩
  · rw [← hnow]
    exact hchanges.parts .now (by simp)
  · exact (hchanges.fld huncounted ⟨0, 32⟩).trans hcounts
  · refine ⟨r.missEnded (4 * (m.ctx * 2 ^ 27 + m.gran) + 2) Sc.timeout 0x40, ?_, Run.missEnded_seq .., Run.missEnded_got hasked (by decide) _⟩
    rw [post_bind, hcmd, hcmdKept]
    exact List.mem_map_of_mem hr
  · exact (hchanges.bytes a id).trans (hstart.bytes a id)

/-- Settles O24: the end of an invalidation and of a miss, each as what its one closing step leaves; the reset of the late agents
before it stays within a footprint that keeps the invalidation running. -/
theorem invalidationsAndMisses : Obligations.InvalidationsAndMisses := by
  unfold Obligations.InvalidationsAndMisses
  exact fun s i rest => ⟨fun _ h hnew hopen hready => invalAck_joins h hnew hopen hready,
    fun _ h hnew hlast hrelease hreset hready => invalAck_completes h hnew hlast hrelease hreset hready,
    ackTimeout_completes, fun _ _ h hahead => missTimeout_ends h hahead⟩

end Sys2Proof.Machine
end

section
/-! PROOFS. An atomic that nothing stands before: the slice orders it at once, as it does a write, and its operand alone changes (R205, R307; O14). -/

namespace Sys2Proof.Machine

/-- A line with the operand of 2^size bytes at a place replaced by what an atomic makes of it (R307). -/
def atomOn (off op size : Nat) (a b : BitVec 128) (v : Line) : Line :=
  putLe v off (2 ^ size) (atomNew op size (le v off (2 ^ size)) a.toNat b.toNat)

/-! ## What an atomic makes of its line -/

section
variable {w : Work} {r : HReq} {off op size : Nat} {a b : BitVec 128}

theorem Dev.writable.inStore {d : Dev} {n : Nat} {dom cls : Option Nat} (h : d.writable n dom cls) : 64 * n < storeEnd := by
  have hallowed := h.allowed
  by_contra hout
  simp [Dev.refusal, Nat.not_lt.mp hout] at hallowed

theorem stores_writeDone {v : Line} (h : 64 * r.line < storeEnd) : Stores r.line v w.dev (writeDone r (BitVec.allOnes 64) v w).dev := by
  refine ⟨fun i hi => ?_, fun x hx => ?_⟩
  · have hdiv : (64 * r.line + i) / 64 = r.line := by omega
    have hmod : (64 * r.line + i) % 64 = i := by omega
    simp [byte_writeDone h, hdiv, hmod, hi, -BitVec.reduceAllOnes]
  · rw [byte_writeDone h, if_neg fun hline => hx hline.1.symm]

theorem Stores.of_bytes {n : Nat} {v : Line} {d d' e e' : Dev} (h : Stores n v d e) (hd : ∀ x, d.byte x = d'.byte x)
    (he : ∀ x, e'.byte x = e.byte x) : Stores n v d' e' :=
  ⟨fun i hi => (he _).trans (h.1 i hi), fun x hx => (he x).trans ((h.2 x hx).trans (hd x))⟩

theorem line_of_bytes {d e : Dev} (h : ∀ x, e.byte x = d.byte x) (n : Nat) : e.line n = d.line n := by simp only [Dev.line, h]

/-- Applied to a sound line, an atomic is a write of the whole line with its operand replaced. -/
theorem post_applyReq_atom (h : w.dev.writable r.line r.dom r.cls) (hop : r.op = .atom off op size a b) :
    M.post (applyReq r) w = writeDone r (BitVec.allOnes 64) (atomOn off op size a b (w.dev.line r.line)) w := by
  have hsound : w.dev.poisonOf r.line = 0 := by simp [Dev.poisonOf, h.notFailed, h.sound]
  simp [applyReq, hop, atomLine, hsound, writeDone, atomOn, -BitVec.reduceAllOnes]

/-! ## The slice orders it -/

/-- Nothing but the read of the line comes between an atomic that nothing stands before and its effect. -/
theorem tryReq_atom {w₁ w₂ : Work} (h : w.dev.writable r.line r.dom r.cls) (hsrc : r.src = .nowhere) (hop : r.op = .atom off op size a b)
    (hdir : M.post (readDir r) w = w₁) (h₁ : w₁.dev.writable r.line r.dom r.cls) (htouch : M.post (touchLine r.line) w₁ = w₂)
    (h₂ : w₂.dev.writable r.line r.dom r.cls) :
    (∃ x, M.val (tryReq r) w = some x) ∧ M.post (tryReq r) w = M.post (modHome fun h => { h with inv := h.inv.erase (r.who, r.line) })
      (M.post (foundAnswer r (M.val (applyReq r) w₂)) (M.post (applyReq r) w₂)) := by
  have hcheck : M.val (checkAccess (64 * r.line) r.dom r.cls) w = none ∧ M.post (checkAccess (64 * r.line) r.dom r.cls) w = w := by
    simp [checkAccess, h.allowed]
  have hgroup : w₁.dev.groupViolates r = false := by simp [Dev.groupViolates, hsrc]
  have hneed : w₁.dev.snoopsFor r = some [] := by simp [Dev.snoopsFor, h₁.unheld, hop, hsrc, Src.port]
  have hclear : w₁.dev.mustClear r = false := by simp [Dev.mustClear, h₁.sound]
  have hextra : w₁.dev.poisonSnoops r = [] := by simp [Dev.poisonSnoops, hclear]
  have hsettle : ∀ c, M.post (on c (settleRead (some r.who) r.line false)) w₂ = w₂ := fun c => by
    rw [post_on, post_settleRead_sound h₂.errs, ite_self]
  unfold tryReq
  simp [hcheck, h.snoops, h.serves, h.unrepaired, h.unpublished, h.atHome, hdir, hgroup, hneed, hclear, hextra, h₁.snoops, hop, htouch, hsettle,
    h₂.snoops]

/-- The slice orders an atomic that nothing stands before, and nothing but the operand changes in the store (R205, R307). -/
theorem tryReq_atom_lone (h : w.dev.writable r.line r.dom r.cls) (hsrc : r.src = .nowhere) (hop : r.op = .atom off op size a b) :
    (∃ x, M.val (tryReq r) w = some x) ∧ Ordered w.dev (M.post (tryReq r) w).dev ∧ Written r.line w.dev (M.post (tryReq r) w).dev ∧
    Stores r.line (atomOn off op size a b (w.dev.line r.line)) w.dev (M.post (tryReq r) w).dev := by
  obtain ⟨w₁, hw₁⟩ : ∃ x, x = M.post (readDir r) w := ⟨_, rfl⟩
  obtain ⟨w₂, hw₂⟩ : ∃ x, x = M.post (touchLine r.line) w₁ := ⟨_, rfl⟩
  obtain ⟨hord₁, hbyte₁⟩ : Ordered w.dev w₁.dev ∧ ∀ x, w₁.dev.byte x = w.dev.byte x := hw₁ ▸ readDir_ordered h.errs
  have hord₂ : Ordered w₁.dev w₂.dev := hw₂ ▸ touchLine_ordered r.line w₁
  have hbyte₂ : ∀ x, w₂.dev.byte x = w.dev.byte x := fun x => (hw₂ ▸ byte_touchLine r.line w₁ x : w₂.dev.byte x = w₁.dev.byte x).trans (hbyte₁ x)
  have hwritten₁ : Written r.line w.dev w₁.dev := hw₁ ▸ readDir_written h.errs
  have hwritten₂ : Written r.line w₁.dev w₂.dev := hw₂ ▸ touchLine_written r.line w₁
  have h₁ := h.steady hord₁.steady
  have h₂ := h₁.steady hord₂.steady
  obtain ⟨hval, hpost⟩ := tryReq_atom h hsrc hop hw₁.symm h₁ hw₂.symm h₂
  obtain ⟨w₃, hw₃⟩ : ∃ x, x = M.post (applyReq r) w₂ := ⟨_, rfl⟩
  rw [← hw₃] at hpost
  rw [post_applyReq_atom h₂ hop, line_of_bytes hbyte₂] at hw₃
  have hord₃ : Ordered w₂.dev w₃.dev := hw₃ ▸ writeDone_ordered ..
  have hwritten₃ : Written r.line w₂.dev w₃.dev := hw₃ ▸ writeDone_written ..
  have hstores : Stores r.line (atomOn off op size a b (w.dev.line r.line)) w₂.dev w₃.dev := hw₃ ▸ stores_writeDone h.inStore
  obtain ⟨w₄, hw₄⟩ : ∃ x, x = M.post (foundAnswer r (M.val (applyReq r) w₂)) w₃ := ⟨_, rfl⟩
  obtain ⟨hord₄, hbyte₄⟩ := foundAnswer_ordered (r := r) (M.val (applyReq r) w₂) w₃
  have hwritten₄ := foundAnswer_written (r := r) r.line (M.val (applyReq r) w₂) w₃
  rw [← hw₄] at hord₄ hbyte₄ hwritten₄ hpost
  have hord₅ := modHome_ordered (f := fun h => { h with inv := h.inv.erase (r.who, r.line) }) (fun _ => ⟨rfl, rfl, rfl⟩) w₄
  have hwritten₅ := modHome_written (n := r.line) (f := fun h => { h with inv := h.inv.erase (r.who, r.line) }) (fun _ => rfl) w₄
  rw [hpost]
  exact ⟨hval, hord₁.trans (hord₂.trans (hord₃.trans (hord₄.trans hord₅))),
    hwritten₁.trans (hwritten₂.trans (hwritten₃.trans (hwritten₄.trans hwritten₅))), hstores.of_bytes hbyte₂ hbyte₄⟩

end

/-! ## From the row to the slice and back -/

/-- A request that no one hears of, which its slice orders at once and by which it stores a line: nothing waits after it, and nothing but the line
and what notes the write has changed. -/
theorem submit_lone_stores {d : Dev} {op : HOp} {n : Nat} {dom cls : Option Nat} {v : Line} {r : HReq} {w : Work} (hr : r = d.home.lone op n dom cls)
    (hw : w = Work.handed ⟨d, []⟩ r) (hwaiting : d.home.waiting = []) (hgroups : d.home.groups = []) (hcalm : d.calm)
    (hval : ∃ x, M.val (tryReq r) w = some x) (hord : Ordered w.dev (M.post (tryReq r) w).dev)
    (hwritten : Written n w.dev (M.post (tryReq r) w).dev) (hstores : Stores n v w.dev (M.post (tryReq r) w).dev) :
    ∃ w', M.post (openGroup .nowhere [op] n dom cls >>= submit) ⟨d, []⟩ = w' ∧ d.replay w'.log = w'.dev ∧ Stores n v d w'.dev ∧
      w'.dev.home.waiting = [] ∧ Touches [.home, .store, .fab] (writeRegs n) (· / 64 = n) d w'.dev := by
  obtain ⟨x, hval⟩ := hval
  obtain ⟨w₁, hw₁⟩ : ∃ y, y = M.post (tryReq r) w := ⟨_, rfl⟩
  rw [← hw₁] at hord hwritten hstores
  have hpost : M.post (openGroup .nowhere [op] n dom cls >>= submit) ⟨d, []⟩ = w₁.answered := by
    have hsteady : Steady d w.dev := hw ▸ handed_steady ⟨d, []⟩ r
    subst hr hw
    exact post_submit_lone hwaiting hgroups hval hw₁.symm hord.waiting hwritten.groups (calm_steady hcalm (hsteady.trans hord.steady))
  have hhanded : Touches [.home, .store, .fab] (writeRegs n) (· / 64 = n) d w.dev := hw ▸ handed_touches ⟨d, []⟩ r (by simp)
  have htry : Touches [.home, .store, .fab] (writeRegs n) (· / 64 = n) w.dev w₁.dev := ⟨hwritten.touches.parts, hwritten.touches.regs, hstores.2⟩
  refine ⟨w₁.answered, hpost, ?_, hstores.of_bytes (fun _ => by rw [hw]; rfl) fun _ => rfl, rfl,
    hhanded.trans (htry.trans (answered_touches w₁ (by simp)))⟩
  rw [← hpost]
  exact submit_lone_logged.replay_log rfl

/-- The operands of a block are as wide as the request carries them. -/
theorem toNat_operand (o : Line) (off : Nat) : (BitVec.ofNat 128 (le o off 16)).toNat = le o off 16 := by
  rw [BitVec.toNat_ofNat, Nat.mod_eq_of_lt]
  exact Nat.mod_lt _ (by decide)

/-- Settles O14: the slice orders the atomic at once, which nothing stands before, and its group ends unheard. -/
theorem homeAtomicApplies : Obligations.HomeAtomicApplies := by
  intro s offset domain cls o n v size new hoffset hatom hfree hgroups hdir hallowed
  obtain ⟨r, hr⟩ : ∃ r, r = s.dev.home.lone (.atom (offset % 64) (le o 0 1) size (BitVec.ofNat 128 (le o 16 16)) (BitVec.ofNat 128 (le o 32 16))) n
      (some domain.val) (cls.map b2n) := ⟨_, rfl⟩
  obtain ⟨w, hw⟩ : ∃ w, w = Work.handed ⟨s.dev, []⟩ r := ⟨_, rfl⟩
  have hline : r.line = n := by rw [hr]; rfl
  have hsteady : Steady s.dev w.dev := hw ▸ handed_steady ⟨s.dev, []⟩ r
  have hwritable : w.dev.writable r.line r.dom r.cls := hr ▸ (writable_of_lineFree hfree hallowed hdir).steady hsteady
  have hnew : atomOn (offset % 64) (le o 0 1) size (BitVec.ofNat 128 (le o 16 16)) (BitVec.ofNat 128 (le o 32 16)) (w.dev.line n) =
      putLe v (offset % 64) (2 ^ size) new := by
    rw [atomOn, toNat_operand, toNat_operand, hw]
    rfl
  obtain ⟨hval, hord, hwritten, hstores⟩ := tryReq_atom_lone hwritable (by rw [hr]; rfl) (by rw [hr]; rfl)
  rw [hline] at hwritten hstores
  rw [hnew] at hstores
  obtain ⟨w', hpost, hlog, hstores', hwaiting, htouches⟩ :=
    submit_lone_stores hr hw hfree.waiting hgroups hfree.calm hval hord hwritten hstores
  exact completes_runIf rfl (by simpa [hatom] using hoffset) hpost hlog ⟨hstores', hwaiting, htouches⟩

end Sys2Proof.Machine
end

section
/-! PROOFS. An OBSERVE at whose end the slices serve a write that had been waiting (O57). -/

namespace Sys2Proof.Machine

/-- The state in which a command leaves another one. -/
def State.after (s : State) (c : Instr) : State :=
  match exec c s with
  | .next t => t
  | _ => s

/-- An OBSERVE of the 2 MiB from 0 in context 9, given over the mailbox and in progress. -/
def observing : Run :=
  { iss := .mbox, seq := 3, pkt := putLe (putLe (putLe (putLe 0 0 2 Op.observe) 4 1 9) 16 2 1) 40 8 0x200000 }

/-- It runs while stack 0 is being initialised; the context has a segment for its range. -/
def observedInInit : State :=
  { dev := { State.reset.dev with
      csr := [(A.STN_CTX_CFG 9, 0x10001), (A.STN_SEG0 9 0, 0xf), (A.STN_SEG1 9 0, 1), (A.STK_STATUS 0, 2)]
      cmd := { runs := [observing] } } }

/-- A write of 1 to byte 0 has waited at its slice for the stack, whose initialisation has ended since: its end serves no slice. -/
def writeStillWaits : State := (observedInInit.after (.homeWrite 0 0 none 1 1)).after (.stkInitDone 0)

theorem observing_carried : writeStillWaits.dev.carries .mbox Op.observe observing := by
  refine ⟨?_, ?_, ?_, ⟨?_, ?_⟩, ?_, ?_⟩ <;> decide +kernel

/-- Work that ends well has a value, and its trail. -/
theorem exists_run_ok {α : Type} {m : Rd α} (h : (m.run.run {}).1.isOk = true) : ∃ a, m.run.run {} = (.ok a, (m.run.run {}).2) := by
  rcases hres : m.run.run {} with ⟨e | a, t⟩
  · simp [hres, Except.isOk, Except.toBool] at h
  · exact ⟨a, rfl⟩

/-- What an OBSERVE names is translated and nothing is written, but its end hands its writes, though there are none, to the slices, which serve
what waits there. -/
theorem observe_serves_write :
    writeStillWaits.dev.byte 0 = 0 ∧ (writeStillWaits.dev.run (onRun Op.observe .mbox observe)).byte 0 = 1 := by
  constructor <;> decide +kernel

/-- Refutes O57: the statement has an OBSERVE leave every byte of the store as it was, whatever waits at the slices. A write that has waited for
its stack is served at the end of the OBSERVE, and byte 0 changes. -/
theorem not_stagingAndSlots : ¬ Obligations.StagingAndSlots := by
  intro h
  obtain ⟨hobserve, -⟩ := h writeStillWaits .mbox observing
  obtain ⟨l, hl⟩ := exists_run_ok (m := observeTargets writeStillWaits.dev observing) (by decide +kernel)
  obtain ⟨t, hexec, -, -, hbyte⟩ := hobserve observing_carried l _ hl (List.isEmpty_iff.mp (by decide +kernel)) (by decide +kernel)
  have hdev : t.dev = writeStillWaits.dev.run (onRun Op.observe .mbox observe) := by rw [← Host.Outcome.next.inj hexec]
  obtain ⟨hbefore, hafter⟩ := observe_serves_write
  rw [hdev] at hbyte
  exact absurd ((hafter.symm.trans (hbyte 0)).trans hbefore) (by decide)

end Sys2Proof.Machine
end

section
/-! PROOFS. A refused OWN_TRANSFER reports the EPOCH of its region (O50). -/

namespace Sys2Proof.Machine

-- The text is compiled in one process with bounded memory, and each proof elaborated beside the others takes a stack of its own.
set_option Elab.async false

/-- An OWN_TRANSFER of region 0 to node 0 that takes its EPOCH to be 0, given over the mailbox and in progress. -/
def transferring : Run := { iss := .mbox, seq := 3, pkt := putLe 0 0 2 Op.ownTransfer }

/-- Region 0 is at HOME with EPOCH 5. -/
def epochAhead : State := ⟨{ State.reset.dev with cmd := { runs := [transferring] }, own := { recs := [(0, { epoch := 5 })] } }, []⟩

theorem transferring_carried : epochAhead.dev.carries .mbox Op.ownTransfer transferring := by
  refine ⟨?_, ?_, ?_, ⟨?_, ?_⟩, ?_, ?_⟩ <;> decide +kernel

theorem transferring_stale : epochAhead.dev.transferRefusal transferring = some (Sc.stale, 0x60) := by
  decide +kernel

/-- The result of a refused transfer is EPOCH too (R233). -/
theorem refused_transfer_reports_epoch :
    (epochAhead.dev.run (onRun Op.ownTransfer .mbox ownTransfer)).cmd.runs.map (·.cpl) =
      [some { status := Sc.stale, detail := 0x60, result := 5 }] := by
  decide +kernel

/-- Refutes O50: the statement has every refused OWN_TRANSFER end with result 0, but its completion carries the EPOCH of the region's record. -/
theorem not_ownershipAndVersions : ¬ Obligations.OwnershipAndVersions := by
  rintro ⟨hcommands, -⟩
  obtain ⟨htransfer, -⟩ := hcommands epochAhead .mbox transferring
  obtain ⟨-, -, -, hrefused⟩ := htransfer transferring_carried (by simp [epochAhead]) (by simp [epochAhead])
  obtain ⟨t, hexec, hcmd, -⟩ := hrefused _ _ transferring_stale
  have hdev : t.dev = epochAhead.dev.run (onRun Op.ownTransfer .mbox ownTransfer) := by rw [← Host.Outcome.next.inj hexec]
  have hreports := refused_transfer_reports_epoch
  rw [← hdev, hcmd] at hreports
  exact absurd hreports (by decide)

end Sys2Proof.Machine
end


section
/-! PROOFS. A line that a read has found uncorrectable is stored as read when its owner does not answer (O16). -/

namespace Sys2Proof.Machine

-- The text is compiled in one process with bounded memory, and each proof elaborated beside the others takes a stack of its own.
set_option Elab.async false

/-- Port 0, whose quarantine is disabled, holds line 0 Owned and is being recalled for it: a read has found the line uncorrectable, with the
bits 7 (R102). -/
def recalledUncorrectable : State :=
  ⟨{ State.reset.dev with csr := [(A.TLK_VIOL_CFG 0, 0)],
                          home := { dc := [⟨0, dirWord 2 1⟩], snoops := [⟨0, 0, true, 250⟩], ue := [(0, 7)] } }, []⟩

/-- The owner is silent: the line is stored with the bits as read and its cause is that of an uncorrectable read (R102, R230). -/
theorem silent_owner_keeps_cause : ((recalledUncorrectable.dev.run (snoopTimeout (0 : Fin 4) 0)).meta_ 0).pcause = 1 := by
  decide +kernel

/-- Refutes O16: the statement has the line of a silent owner stored as it stands with the cause of a lost owner, but where a read has found it
uncorrectable it is stored with the bits as read, and with that cause. -/
theorem not_homeTimers : ¬ Obligations.HomeTimers := by
  intro h
  obtain ⟨-, -, htimeout⟩ := h recalledUncorrectable
  obtain ⟨t, hexec, -, -, -, -, hcause, -⟩ :=
    htimeout 0 0 ⟨0, 0, true, 250⟩ (by decide +kernel) (by decide +kernel) ⟨by decide +kernel, by decide +kernel, by decide +kernel⟩ (by decide +kernel)
  have hdev : t.dev = recalledUncorrectable.dev.run (snoopTimeout (0 : Fin 4) 0) := by rw [← Host.Outcome.next.inj hexec]
  rw [hdev, silent_owner_keeps_cause] at hcause
  exact absurd hcause (by decide)

end Sys2Proof.Machine
end

section
/-! PROOFS. The answers to a remote request of this device (O34). -/

namespace Sys2Proof.Machine

-- The text is compiled in one process with bounded memory, and each proof elaborated beside the others takes a stack of its own.
set_option Elab.async false

/-! ## The end of a remote request -/

/-- The outstanding requests with one of them gone. -/
def FabSt.close (x : FabSt) (o : Outst) : FabSt := { x with out := x.out.filter fun y => y.m.tag != o.m.tag }

/-- The command that a remote request serves with the request's outcome. -/
def CmdSt.hear (x : CmdSt) (o : Outst) (g : Got) : CmdSt :=
  { x with runs := x.runs.map fun r => if r.seq == o.seq then r.give { g with key := o.key } else r }

/-- A work in which a remote request has ended. -/
def Work.ended (w : Work) (o : Outst) (g : Got) : Work := (w.add (.fab (w.dev.fab.close o))).add (.cmd (w.dev.cmd.hear o g))

section
variable {w : Work} {o : Outst} {g : Got}

/-- Where no request waits behind it, the end of a request lets none go on. -/
theorem post_endRemote (h : w.dev.nothingHeld o.m.dst) (g : Got) : M.post (endRemote o g) w = w.ended o g := by
  have hnone : ((w.dev.fab.close o).out.filter fun y => y.m.dst == o.m.dst && y.heldBack) = [] := by
    simp only [List.filter_eq_nil_iff, FabSt.close, List.mem_filter, Bool.and_eq_true, beq_iff_eq, not_and, Bool.not_eq_true]
    exact fun y hy hdst => h y hy.1 hdst
  have hreleases : M.post (releaseHeld o.m.dst) (w.ended o g) = w.ended o g := by
    have hfab : (w.ended o g).dev.fab = w.dev.fab.close o := rfl
    simp only [releaseHeld, post_bind, val_dev, post_dev, hfab, hnone, sendHeld, post_pure, ite_self]
  rw [endRemote, post_bind, post_bind]
  exact hreleases

theorem ended_of_same {d : Dev} (hfab : w.dev.fab = d.fab) (hcmd : w.dev.cmd = d.cmd) :
    Ended o g d (w.ended o g).dev := by
  simp [Ended, Work.ended, hfab, hcmd, FabSt.close, CmdSt.hear]

theorem ended_log {d : Dev} (h : d.replay w.log = w.dev) : d.replay (w.ended o g).log = (w.ended o g).dev := by
  simp [Work.ended, h]

theorem changes_ended {parts : List Part} {regs : Nat → Prop} {d : Dev} (hfab : Part.fab ∈ parts) (hcmd : Part.cmd ∈ parts)
    (h : Changes parts regs d w.dev) : Changes parts regs d (w.ended o g).dev :=
  changes_cmd (Foot.changes (u := .fab _) hfab h) hcmd

end

/-! ## Rows of responses -/

section
variable {s : State} {p : Fin 12} {i : DIn} (h : s.dev.drsServed p i)
include h

/-- A NAK does nothing. -/
theorem drsNak_idle (htype : i.m.type = 0x7F) :
    Completes (.drsNak p i) s fun t => HeardDrs p i s.dev t.dev ∧ Changes [.links] noReg s.dev t.dev :=
  completes_drsRow_heard (act := fun _ => pure ()) rfl h (by simp [isType, htype]) (post_pure ..)

/-- A response that answers no request is discarded (R306). -/
theorem response_unanswered {c : Instr} {type : Nat} {act : DMsg → M Unit} (hexec : exec c s = drsRow p i (isType type) act s)
    (htype : i.m.type = type) (hact : ∀ w : Work, w.dev.answered i.m = none → M.post (act i.m) w = w) (hnone : s.dev.answered i.m = none) :
    Completes c s fun t => HeardDrs p i s.dev t.dev ∧ Changes [.links] noReg s.dev t.dev :=
  completes_drsRow_heard hexec h (by simp [isType, htype]) (hact _ (by rw [Work.heardDrs_dev]; exact hnone))

/-- A response that ends its request and does nothing else. -/
theorem response_ends {c : Instr} {type : Nat} {act : DMsg → M Unit} {o : Outst} {g : Got} (hexec : exec c s = drsRow p i (isType type) act s)
    (htype : i.m.type = type) (hact : M.post (act i.m) (Work.heardDrs s.dev p i) = M.post (endRemote o g) (Work.heardDrs s.dev p i))
    (hheld : s.dev.nothingHeld o.m.dst) :
    Completes c s fun t => Ended o g s.dev t.dev ∧ HeardDrs p i s.dev t.dev ∧ Changes [.links, .fab, .cmd] noReg s.dev t.dev := by
  have hw := Work.heardDrs_dev s.dev p i
  have hends := post_endRemote (w := Work.heardDrs s.dev p i) (o := o) (by rw [hw]; exact hheld) g
  exact completes_drsRow hexec h (by simp [isType, htype]) (hact.trans hends) (ended_log (Work.heardDrs_log ..)) (by simp [Work.ended])
    (changes_ended (by simp) (by simp) (changes_heardDrs _ _ _ _ (by simp))) id
    (ended_of_same (by rw [hw]; rfl) (by rw [hw]; rfl))

end

/-! ## DATA, CMP, ARES and RETRY -/

/-- What the DATA of a request brings, but for whether its lines may be retained. -/
def gotOfData (m : DMsg) : Got :=
  let many := m.poison = true ∧ 1 < m.len
  { key := 0, detail := m.detail, poison := if many then le (m.units.headD 0) 0 8 else b2n m.poison,
    data := if many then m.units.drop 1 else m.units }

/-- The outcome of a request is entered under the request's own key. -/
theorem endRemote_key (o : Outst) (g : Got) (k : Nat) : endRemote o { g with key := k } = endRemote o g := rfl

section
variable {w : Work} {m : DMsg} {o : Outst}

theorem post_dataMsg_unanswered (h : w.dev.answered m = none) : M.post (dataMsg m) w = w := by simp [dataMsg, h]
theorem post_cmpMsg_unanswered (h : w.dev.answered m = none) : M.post (cmpMsg m) w = w := by simp [cmpMsg, h]
theorem post_aresMsg_unanswered (h : w.dev.answered m = none) : M.post (aresMsg m) w = w := by simp [aresMsg, h]
theorem post_retryMsg_unanswered (h : w.dev.answered m = none) : M.post (retryMsg m) w = w := by simp [retryMsg, h]

/-- DATA that this device may have, as far as its home says. -/
theorem post_dataMsg_held (h : w.dev.answered m = some o) (htype : o.m.type = 1) (hatag : o.m.atag = 0 ∨ m.atag = o.m.atag) :
    M.post (dataMsg m) w = M.post (endRemote o { gotOfData m with keep := decide (o.m.atag ≠ 0) }) w := by
  have hkeep : (decide (o.m.atag ≠ 0) && m.atag == o.m.atag) = decide (o.m.atag ≠ 0) := by
    obtain hz | heq := hatag
    · simp [hz]
    · simp [heq]
  have hlost : (decide (o.m.atag ≠ 0) && m.atag != o.m.atag) = false := by
    obtain hz | heq := hatag
    · simp [hz]
    · simp [heq]
  simp only [dataMsg, post_bind, val_dev, post_dev, h, htype, hkeep, hlost, beq_self_eq_true, on_true, on_false, post_pure, gotOfData,
    Bool.and_eq_true, decide_eq_true_eq]
  rfl

/-- The outcome of DATA whose home does not hold this device as the owner any more. -/
theorem post_dataMsg_lost (h : w.dev.answered m = some o) (htype : o.m.type = 1) (hfill : o.m.atag ≠ 0) (hatag : m.atag ≠ o.m.atag) :
    M.post (dataMsg m) w = M.post (endRemote o (gotOfData m))
      (M.post (ownLost o.m.dst ((Config.windowBase o.m.dst o.m.win + o.m.woff) >>> 21 <<< 21)) w) := by
  have hkeep : (m.atag == o.m.atag) = false := by simpa using hatag
  have hlost : (m.atag != o.m.atag) = true := by simpa using hatag
  have hfill' : decide (o.m.atag ≠ 0) = true := by simpa using hfill
  simp only [dataMsg, post_bind, val_dev, post_dev, h, htype, hkeep, hlost, hfill', beq_self_eq_true, on_true, Bool.and_true, Bool.and_false,
    gotOfData, Bool.and_eq_true, decide_eq_true_eq]
  rfl

theorem post_cmpMsg (h : w.dev.answered m = some o) : M.post (cmpMsg m) w =
    M.post (endRemote o { key := 0, status := m.status, detail := m.detail }) (M.post (on (m.status == Sc.indeterminate) (bump A.GWY_INDET_CNT)) w) := by
  simp only [cmpMsg, post_bind, val_dev, post_dev, h]
  rfl

theorem post_aresMsg (h : w.dev.answered m = some o) (htype : o.m.type = 4) (hatag : o.m.atag = m.atag) :
    M.post (aresMsg m) w = M.post (endRemote o { key := 0, data := m.units }) w := by
  simp only [aresMsg, post_bind, val_dev, post_dev, h, htype, hatag, beq_self_eq_true, Bool.and_self, on_true]
  rfl

/-- A request that waits for the credit that a RETRY names (R218). -/
def Outst.awaits (x : Outst) (m : DMsg) (due : Nat) : Outst :=
  { x with credWait := some (m.credit.getD 0), returned := false, m := { x.m with credit := none }, due := if x.m.type = 4 then due else x.due }

theorem post_retryMsg (h : w.dev.answered m = some o) : M.post (retryMsg m) w =
    w.add (.fab { w.dev.fab with out := w.dev.fab.out.map fun x => if x.m.tag == m.tag then x.awaits m (w.dev.now + w.dev.rspTimeout) else x }) := by
  have htag : o.m.tag = m.tag := by
    have hfound := List.find?_some h
    simp only [Bool.and_eq_true, beq_iff_eq] at hfound
    exact hfound.1.1
  simp only [retryMsg, post_bind, val_dev, post_dev, h, modOutst, post_modFab, htag]
  rfl

/-- The home of a region says that this device does not own it: the region's entry is gone and OWN_LOST is raised (R239). -/
theorem post_ownLost {node off : Nat} {x : Nat × Nat × Nat}
    (h : w.dev.own.ownedHere.find? (fun x => x.1 == node && x.2.1 == off) = some x) (hroom : w.dev.hasRoom Ev.ownLost 0) :
    M.post (ownLost node off) w =
      (w.add (.own { w.dev.own with ownedHere := w.dev.own.ownedHere.filter fun y => y != x })).add
        (.evq { w.dev.evq with held := w.dev.evq.held ++ [heldOf Ev.ownLost 0 node none 0 x.2.2 off w.dev.now] }) := by
  simp only [ownLost, post_bind, val_dev, post_dev, h, post_modOwn]
  exact post_raise_room (by decide) hroom

end

theorem changes_own {parts : List Part} {regs : Nat → Prop} {d e : Dev} (h : Changes parts regs d e) {x : OwnSt} (hown : Part.own ∈ parts) :
    Changes parts regs d ((Upd.own x).apply e) := Foot.changes (u := .own x) hown h

theorem changes_evq {parts : List Part} {regs : Nat → Prop} {d e : Dev} (h : Changes parts regs d e) {x : EvqSt} (hevq : Part.evq ∈ parts) :
    Changes parts regs d ((Upd.evq x).apply e) := Foot.changes (u := .evq x) hevq h

theorem changes_fab {parts : List Part} {regs : Nat → Prop} {d e : Dev} (h : Changes parts regs d e) {x : FabSt} (hfab : Part.fab ∈ parts) :
    Changes parts regs d ((Upd.fab x).apply e) := Foot.changes (u := .fab x) hfab h

section
variable {s : State} {p : Fin 12} {i : DIn} {o : Outst} (ho : s.dev.answered i.m = some o)
include ho

theorem heardDrs_answered : (Work.heardDrs s.dev p i).dev.answered i.m = some o := by
  rw [Work.heardDrs_dev]
  exact ho

variable (h : s.dev.drsServed p i)
include h

theorem drsData_ends (hheld : s.dev.nothingHeld o.m.dst) (htype : i.m.type = 0x41) (hread : o.m.type = 1) (hatag : o.m.atag = 0 ∨ i.m.atag = o.m.atag) :
    Completes (.drsData p i) s fun t => Ended o { gotOfData i.m with keep := decide (o.m.atag ≠ 0) } s.dev t.dev ∧
      HeardDrs p i s.dev t.dev ∧ Changes [.links, .fab, .cmd] noReg s.dev t.dev :=
  response_ends h rfl htype (post_dataMsg_held (heardDrs_answered ho) hread hatag) hheld

theorem drsData_lost (hheld : s.dev.nothingHeld o.m.dst) (htype : i.m.type = 0x41) (hread : o.m.type = 1) (hfill : o.m.atag ≠ 0)
    (hatag : i.m.atag ≠ o.m.atag) {x : Nat × Nat × Nat}
    (hx : s.dev.own.ownedHere.find? (fun x => x.1 == o.m.dst && x.2.1 == (Config.windowBase o.m.dst o.m.win + o.m.woff) >>> 21 <<< 21) = some x)
    (hroom : s.dev.hasRoom Ev.ownLost 0) :
    Completes (.drsData p i) s fun t =>
      (Ended o (gotOfData i.m) s.dev t.dev ∧ t.dev.own = { s.dev.own with ownedHere := s.dev.own.ownedHere.filter fun y => y != x } ∧
        t.dev.evq = { s.dev.evq with held := s.dev.evq.held ++ [heldOf Ev.ownLost 0 o.m.dst none 0 x.2.2
          ((Config.windowBase o.m.dst o.m.win + o.m.woff) >>> 21 <<< 21) s.dev.now] }) ∧
      HeardDrs p i s.dev t.dev ∧ Changes [.links, .fab, .cmd, .own, .evq] noReg s.dev t.dev := by
  have hw := Work.heardDrs_dev s.dev p i
  have hlost := post_ownLost (w := Work.heardDrs s.dev p i) (by rw [hw]; exact hx) (by rw [hw]; exact hroom)
  have hact := post_dataMsg_lost (w := Work.heardDrs s.dev p i) (heardDrs_answered ho) hread hfill hatag
  rw [hlost, post_endRemote (by rw [Work.add_dev, Work.add_dev, hw]; exact hheld)] at hact
  refine completes_drsRow rfl h (by simp [isType, htype]) hact (ended_log (by simp)) (by simp [Work.ended])
    (changes_ended (by simp) (by simp) (changes_evq (changes_own (changes_heardDrs _ _ _ _ (by simp)) (by simp)) (by simp))) id
    ⟨ended_of_same (by simp [hw]) (by simp [hw]), ?_, ?_⟩
  · simp [Work.ended, hw]
  · simp [Work.ended, hw]

theorem drsCmp_ends (hheld : s.dev.nothingHeld o.m.dst) (htype : i.m.type = 0x42) :
    Completes (.drsCmp p i) s fun t =>
      (Ended o { key := 0, status := i.m.status, detail := i.m.detail } s.dev t.dev ∧
        (i.m.status = Sc.indeterminate → Counts A.GWY_INDET_CNT 1 s.dev t.dev) ∧
        (i.m.status ≠ Sc.indeterminate → t.dev.reg A.GWY_INDET_CNT = s.dev.reg A.GWY_INDET_CNT)) ∧
      HeardDrs p i s.dev t.dev ∧ Changes [.links, .fab, .cmd] (· = A.GWY_INDET_CNT) s.dev t.dev := by
  have hw := Work.heardDrs_dev s.dev p i
  have hfoot : Emits (Foot [.links, .fab, .cmd] (· = A.GWY_INDET_CNT)) (on (i.m.status == Sc.indeterminate) (bump A.GWY_INDET_CNT)) :=
    Emits.on (Emits.bump rfl)
  have hact := post_cmpMsg (w := Work.heardDrs s.dev p i) (heardDrs_answered ho)
  let counted := M.post (on (i.m.status == Sc.indeterminate) (bump A.GWY_INDET_CNT)) (Work.heardDrs s.dev p i)
  have hkeeps : counted.dev.fab = s.dev.fab ∧ counted.dev.cmd = s.dev.cmd ∧ counted.dev.links = (Work.heardDrs s.dev p i).dev.links := by
    simp only [counted, post_on]
    split <;> simp [hw]
  obtain ⟨hfab, hcmd, hlinks⟩ := hkeeps
  rw [post_endRemote (w := counted) (by simpa only [Dev.nothingHeld, hfab] using hheld)] at hact
  refine completes_drsRow rfl h (by simp [isType, htype]) hact (ended_log (hfoot.replay_log (Work.heardDrs_log ..)))
    hlinks (changes_ended (by simp) (by simp) (hfoot.changes_post (changes_heardDrs _ _ _ _ (by simp)))) ?_
    ⟨ended_of_same hfab hcmd, fun hind => ?_, fun hdet => ?_⟩
  · simp only [A.DRS_VIOL_CFG, A.GWY_INDET_CNT]
    omega
  · have hcounted : counted = M.post (bump A.GWY_INDET_CNT) (Work.heardDrs s.dev p i) := by simp only [counted, hind, beq_self_eq_true, on_true]
    have hcounts : Counts A.GWY_INDET_CNT 1 s.dev counted.dev := by
      rw [hcounted]
      exact counts_bump (by decide +kernel) (by decide +kernel) (by rw [hw, Upd.links_reg])
    exact hcounts
  · have hsame : counted = Work.heardDrs s.dev p i := by
      have hdet' : (i.m.status == Sc.indeterminate) = false := by simpa using hdet
      simp only [counted, hdet', on_false, post_pure]
    change counted.dev.reg A.GWY_INDET_CNT = _
    rw [hsame, hw, Upd.links_reg]

theorem ares_ends (hheld : s.dev.nothingHeld o.m.dst) (htype : i.m.type = 0x43) (hatomic : o.m.type = 4) (hatag : o.m.atag = i.m.atag) :
    Completes (.ares p i) s fun t => Ended o { key := 0, data := i.m.units } s.dev t.dev ∧
      HeardDrs p i s.dev t.dev ∧ Changes [.links, .fab, .cmd] noReg s.dev t.dev :=
  response_ends h rfl htype (post_aresMsg (heardDrs_answered ho) hatomic hatag) hheld

theorem drsRetry_awaits_credit (htype : i.m.type = 0x44) :
    Completes (.drsRetry p i) s fun t =>
      t.dev.fab = { s.dev.fab with out := s.dev.fab.out.map fun x =>
        if x.m.tag == i.m.tag then x.awaits i.m (s.dev.now + s.dev.rspTimeout) else x } ∧
      HeardDrs p i s.dev t.dev ∧ Changes [.links, .fab] noReg s.dev t.dev := by
  refine completes_drsRow rfl h (by simp [isType, htype]) (post_retryMsg (heardDrs_answered ho)) (by simp) (by simp)
    (changes_fab (changes_heardDrs _ _ _ _ (by simp)) (by simp)) id ?_
  simp only [Work.add_dev, Upd.fab_fab, Work.heardDrs_dev]
  rfl

end

end Sys2Proof.Machine
end

section
/-! PROOFS. What leaves for another node goes through the shaper of its domain, which keeps every message (R324, R325). -/

namespace Sys2Proof.Machine

-- The text is compiled in one process with bounded memory, and each proof elaborated beside the others takes a stack of its own.
set_option Elab.async false

/-! ## What a shaper picks -/

/-- Of two elements the one with the smaller key; the first where the keys are the same. -/
def lesser {α : Type} (key : α → Nat) (acc : Option α) (x : α) : Option α :=
  match acc with
  | none => some x
  | some y => if key x < key y then some x else some y

theorem mem_of_foldl_lesser {α : Type} {key : α → Nat} {l : List α} {acc : Option α} {e : α} (h : l.foldl (lesser key) acc = some e) :
    e ∈ l ∨ acc = some e := by
  induction l generalizing acc with
  | nil => exact .inr h
  | cons x l ih =>
    obtain hl | hacc := ih h
    · exact .inl (List.mem_cons_of_mem _ hl)
    · unfold lesser at hacc
      split at hacc
      · exact .inl (by rw [Option.some.inj hacc]; exact List.mem_cons_self)
      · split at hacc
        · exact .inl (by rw [Option.some.inj hacc]; exact List.mem_cons_self)
        · exact .inr hacc

theorem rrPick_eq {α : Type} (key : α → Nat) (from_ : Nat) (l : List α) :
    rrPick key from_ l = match (l.filter fun x => decide (from_ ≤ key x)).foldl (lesser key) none with
      | some x => some x
      | none => l.foldl (lesser key) none := rfl

/-- A round robin picks one of those that it chooses among. -/
theorem mem_of_rrPick {α : Type} {key : α → Nat} {from_ : Nat} {l : List α} {e : α} (h : rrPick key from_ l = some e) : e ∈ l := by
  rw [rrPick_eq] at h
  split at h
  next x hx =>
    cases h
    exact (List.mem_filter.mp ((mem_of_foldl_lesser hx).resolve_right (by simp))).1
  next => exact (mem_of_foldl_lesser h).resolve_right (by simp)

/-- The heads of the shaper queues of a domain are messages of the domain at the shaper. -/
theorem mem_shaper_of_mem_heads {t : TrfSt} {dom : Nat} {e : Egr} (h : e ∈ t.shaperHeads dom) : e ∈ t.shaper := by
  have hfold : ∀ (l acc : List Egr), e ∈ l.foldl (fun acc x =>
      if acc.any fun f => f.shaperKey == x.shaperKey then acc else acc ++ [x]) acc → e ∈ l ∨ e ∈ acc := by
    intro l
    induction l with
    | nil => exact fun acc h => .inr h
    | cons x l ih =>
      intro acc h
      obtain hl | hacc := ih _ h
      · exact .inl (List.mem_cons_of_mem _ hl)
      · dsimp only at hacc
        split at hacc
        · exact .inr hacc
        · obtain hacc | hx := List.mem_append.mp hacc
          · exact .inr hacc
          · exact .inl (by rw [List.mem_singleton.mp hx]; exact List.mem_cons_self)
  obtain hmem | hnil := hfold _ _ h
  · exact (List.mem_filter.mp hmem).1
  · cases hnil

/-! ## Nothing is lost at a shaper -/

/-- How many messages wait for egress. -/
def TrfSt.waits (t : TrfSt) : Nat := t.shaper.length + t.classq.length

theorem each_waits {α : Type} {l : List α} {f : α → M Unit} {w : Work}
    (h : ∀ a v, (M.post (f a) v).dev.trf.waits = v.dev.trf.waits) : (M.post (each l f) w).dev.trf.waits = w.dev.trf.waits := by
  induction l generalizing w with
  | nil => rfl
  | cons a l ih => rw [each_cons, post_bind, ih, h]

/-- What a domain's shaper lets leave goes into a class queue, and marking what it holds removes nothing. -/
theorem shape_waits (dom n : Nat) (w : Work) : (M.post (shape dom n) w).dev.trf.waits = w.dev.trf.waits := by
  induction n generalizing w with
  | zero => rfl
  | succ n ih =>
    rw [shape]
    simp only [post_bind, val_dev, post_dev]
    split
    next e he =>
      have hmem : e ∈ w.dev.trf.shaper := mem_shaper_of_mem_heads (List.mem_filter.mp (mem_of_rrPick he)).1
      have hlen := List.length_pos_of_mem hmem
      rw [post_bind, post_bind, ih]
      simp only [post_modTrf, Work.add_dev, Upd.trf_trf, TrfSt.waits, post_on]
      split <;> simp [setTokens, List.length_erase_of_mem hmem] <;> omega
    next =>
      exact each_waits fun e w => by simp [TrfSt.waits]

theorem shape_emits {parts : List Part} {regs : Nat → Prop} {dom : Nat} (htrf : Part.trf ∈ parts) (hregs : ∀ a, shaperRegs dom a → regs a) (n : Nat) :
    Emits (Foot parts regs) (shape dom n) := by
  induction n with
  | zero => exact Emits.pure _
  | succ n ih =>
    refine Emits.dev.bind fun d => ?_
    dsimp only
    split
    · exact (Emits.on (Emits.fset (hregs _ (.inl rfl)))).bind fun _ => (Emits.modTrf htrf).bind fun _ => ih
    · exact Emits.each fun _ _ => (Emits.bump (hregs _ (.inr rfl))).bind fun _ => Emits.modTrf htrf

theorem enqueue_emits {parts : List Part} {regs : Nat → Prop} {dom : Option Nat} (htrf : Part.trf ∈ parts)
    (hregs : ∀ n ∈ dom, ∀ a, shaperRegs n a → regs a) (port cls vc : Nat) (msg : OMsg) :
    Emits (Foot parts regs) (enqueue port cls vc dom msg) := by
  cases dom with
  | none => exact Emits.now.bind fun _ => Emits.modTrf htrf
  | some n => exact Emits.now.bind fun _ => (Emits.modTrf htrf).bind fun _ => (Emits.look _).bind fun _ => shape_emits htrf (hregs n rfl) _

/-- A message put into the egress queues is one more that waits. -/
theorem enqueue_waits (port cls vc : Nat) (dom : Option Nat) (msg : OMsg) (w : Work) :
    (M.post (enqueue port cls vc dom msg) w).dev.trf.waits = w.dev.trf.waits + 1 := by
  cases dom with
  | none => simp [enqueue, TrfSt.waits]; omega
  | some n =>
    simp only [enqueue, post_bind, shape_waits, post_now, post_modTrf, post_look, Work.add_dev, Upd.trf_trf]
    simp [TrfSt.waits]
    omega

/-! ## A message of this device on its first route -/

theorem launch_emits {parts : List Part} {regs : Nat → Prop} {dom : Option Nat} {m : DMsg} (htrf : Part.trf ∈ parts)
    (hregs : drsCls m.type ≠ 0 → ∀ n ∈ dom, ∀ a, shaperRegs n a → regs a) (dir : Nat) (fwd : Bool) :
    Emits (Foot parts regs) (launch dir fwd dom m) := by
  refine Emits.dev.bind fun d => enqueue_emits htrf (fun n hn => ?_) _ _ _ _
  split at hn
  · cases hn
  · next h =>
    simp only [Bool.or_eq_true, beq_iff_eq, not_or] at h
    exact hregs h.2 n hn

theorem launch_waits (dir : Nat) (fwd : Bool) (dom : Option Nat) (m : DMsg) (w : Work) :
    (M.post (launch dir fwd dom m) w).dev.trf.waits = w.dev.trf.waits + 1 := by
  simp only [launch, post_bind, val_dev, post_dev, enqueue_waits]

end Sys2Proof.Machine
end

section
/-! PROOFS. CREDIT_READY and NOROUTE (O34). -/

namespace Sys2Proof.Machine

-- The text is compiled in one process with bounded memory, and each proof elaborated beside the others takes a stack of its own.
set_option Elab.async false

/-! ## CREDIT_READY -/

/-- The request that a CREDIT_READY admits. -/
def Dev.credited (d : Dev) (m : DMsg) : Option Outst :=
  d.fab.out.find? fun o => o.m.tag == m.tag && o.m.dst == m.src && o.credWait == some (m.credit.getD 0)

/-- A request with its credit, as it is sent now. -/
def Outst.resent (o : Outst) (now : Nat) : Outst :=
  { o with credWait := none, m := { o.m with credit := o.credWait, retx := false }, copies := 1, atomStart := now }

/-- The outstanding requests with the one of a tag replaced. -/
def FabSt.put (x : FabSt) (tag : Nat) (o : Outst) : FabSt := { x with out := x.out.map fun y => if y.m.tag == tag then o else y }

section
variable {w : Work} {m : DMsg} {o : Outst}

theorem tag_of_credited {d : Dev} (h : d.credited m = some o) : o.m.tag = m.tag := by
  have hfound := List.find?_some h
  simp only [Bool.and_eq_true, beq_iff_eq] at hfound
  exact hfound.1.1

theorem post_creditReadyMsg_fenced (h : w.dev.credited m = some o) (hfence : w.dev.fab.fences.contains o.m.dst = true) :
    M.post (creditReadyMsg m) w = w.add (.fab (w.dev.fab.put o.m.tag { o.resent w.dev.now with returned := true, copies := 0 })) := by
  rw [Dev.credited] at h
  simp only [creditReadyMsg, post_bind, val_dev, post_dev, h, hfence, if_true, modOutst, post_modFab]
  rfl

/-- A work in which a request with its credit waits for its response again. -/
def Work.credit (w : Work) (o : Outst) : Work :=
  w.add (.fab (w.dev.fab.put o.m.tag { o.resent w.dev.now with due := w.dev.now + w.dev.rspTimeout, returned := false, heldBack := false }))

/-- The message of a request with its credit, on the route of its destination. -/
def Dev.creditedMsg (d : Dev) (o : Outst) : DMsg :=
  withRoute d (o.resent d.now).m ((tget 0 d.fab.routes o.m.dst - 1) / 8, (tget 0 d.fab.routes o.m.dst - 1) % 8)

theorem post_creditReadyMsg_sent {dir : Nat} (h : w.dev.credited m = some o) (hfence : w.dev.fab.fences.contains o.m.dst = false)
    (hdir : nextDir w.dev.node (w.dev.creditedMsg o) = some dir) (htrunk : w.dev.trunkOk dir = true) :
    M.post (creditReadyMsg m) w = M.post (launch dir false (some o.m.srcDomain) (w.dev.creditedMsg o)) (w.credit o) := by
  rw [Dev.credited] at h
  have hsend : M.post (creditReadyMsg m) w = M.post (launchRq
      { o.resent w.dev.now with due := w.dev.now + w.dev.rspTimeout, returned := false, heldBack := false }) (w.credit o) := by
    simp only [creditReadyMsg, post_bind, val_dev, post_dev, h, hfence, Bool.false_eq_true, if_false, sendNow, modOutst, post_modFab,
      Nat.one_ne_zero, or_false, ite_self, Nat.max_self]
    rfl
  have hdir' : nextDir (w.credit o).dev.node (withRoute (w.credit o).dev (o.resent w.dev.now).m
      ((tget 0 (w.credit o).dev.fab.routes o.m.dst - 1) / 8, (tget 0 (w.credit o).dev.fab.routes o.m.dst - 1) % 8)) = some dir := hdir
  have htrunk' : (w.credit o).dev.trunkOk dir = true := htrunk
  rw [hsend, launchRq, post_bind, val_dev, post_dev]
  simp only [show (o.resent w.dev.now).m.dst = o.m.dst from rfl, hdir', htrunk', if_true]
  rfl

end

section
variable {s : State} {p : Fin 12} {i : DIn} {o : Outst} (h : s.dev.drsServed p i) (htype : i.m.type = 0x45) (ho : s.dev.credited i.m = some o)
include h htype ho

theorem drsCreditReady_fenced (hfence : s.dev.fab.fences.contains o.m.dst = true) :
    Completes (.drsCreditReady p i) s fun t =>
      t.dev.fab = s.dev.fab.put i.m.tag { o.resent s.dev.now with returned := true, copies := 0 } ∧
      HeardDrs p i s.dev t.dev ∧ Changes [.links, .fab] noReg s.dev t.dev := by
  have hw := Work.heardDrs_dev s.dev p i
  have hact := post_creditReadyMsg_fenced (w := Work.heardDrs s.dev p i) (o := o) (by rw [hw]; exact ho) (by rw [hw]; exact hfence)
  refine completes_drsRow rfl h (by simp [isType, htype]) hact (by simp) (by simp) (changes_fab (changes_heardDrs _ _ _ _ (by simp)) (by simp)) id ?_
  rw [Work.add_dev, Upd.fab_fab, hw, tag_of_credited ho]
  rfl

theorem drsCreditReady_resends {dir : Nat} (hfence : s.dev.fab.fences.contains o.m.dst = false)
    (hdir : nextDir s.dev.node (s.dev.creditedMsg o) = some dir) (htrunk : s.dev.trunkOk dir = true) :
    Completes (.drsCreditReady p i) s fun t =>
      (t.dev.fab = s.dev.fab.put i.m.tag
          { o.resent s.dev.now with due := s.dev.now + s.dev.rspTimeout, returned := false, heldBack := false } ∧
        t.dev.trf.waits = s.dev.trf.waits + 1) ∧
      HeardDrs p i s.dev t.dev ∧ Changes [.links, .fab, .trf] (shaperRegs o.m.srcDomain) s.dev t.dev := by
  have hw := Work.heardDrs_dev s.dev p i
  have hsame : (Work.heardDrs s.dev p i).dev.creditedMsg o = s.dev.creditedMsg o := by rw [hw]; rfl
  have hact := post_creditReadyMsg_sent (w := Work.heardDrs s.dev p i) (o := o) (dir := dir) (by rw [hw]; exact ho) (by rw [hw]; exact hfence)
    (by rw [hsame, hw]; exact hdir) (by rw [hw]; exact htrunk)
  have hlog : s.dev.replay ((Work.heardDrs s.dev p i).credit o).log = ((Work.heardDrs s.dev p i).credit o).dev := by simp [Work.credit]
  have hfoot : Emits (Foot [.trf] (shaperRegs o.m.srcDomain))
      (launch dir false (some o.m.srcDomain) ((Work.heardDrs s.dev p i).dev.creditedMsg o)) :=
    launch_emits (by simp) (fun _ n hn a ha => by cases hn; exact ha) dir false
  have hkeeps := hfoot.changes_post (Changes.refl _ _ ((Work.heardDrs s.dev p i).credit o).dev)
  refine completes_drsRow rfl h (by simp [isType, htype]) hact (hfoot.replay_log hlog) (hkeeps.parts .links (by simp)) ?_ ?_ ⟨?_, ?_⟩
  · exact Emits.changes_post (hfoot.mono fun _ hu => hu.mono (by simp) fun _ => id)
      (changes_fab (changes_heardDrs _ _ _ _ (by simp)) (by simp))
  · simp only [shaperRegs, A.DRS_VIOL_CFG, A.TRF_SHP_STAT, A.TRF_SHP_HELD_CNT]
    omega
  · refine (hkeeps.parts .fab (by simp)).trans ?_
    rw [Work.credit, Work.add_dev, Upd.fab_fab, hw, tag_of_credited ho]
    rfl
  · rw [launch_waits, Work.credit, Work.add_dev, hw]
    rfl

end

/-! ## NOROUTE -/

/-- The slot of the dead list that a trunk takes (R302). -/
def Dev.deadSlot (d : Dev) (node dir : Nat) : Nat :=
  match d.fab.dead.find? (fun e => e.2 == (node, dir)) with
  | some e => e.1
  | none =>
    match (List.range 64).find? (fun i => !(d.fab.dead.any fun e => e.1 == i)) with
    | some i => i
    | none => (d.fab.dead.headD (0, 0, 0)).1

theorem deadSlot_lt {d : Dev} (h : ∀ e ∈ d.fab.dead, e.1 < 64) (node dir : Nat) : d.deadSlot node dir < 64 := by
  unfold Dev.deadSlot
  split
  next e he => exact h e (List.mem_of_find?_eq_some he)
  next =>
    split
    next i hi => exact List.mem_range.mp (List.mem_of_find?_eq_some hi)
    next =>
      cases hdead : d.fab.dead with
      | nil => exact Nat.zero_lt_succ _
      | cons e l => exact h e (by simp [hdead])

/-- The dead list with a trunk as its newest entry. -/
def FabSt.bury (x : FabSt) (slot node dir : Nat) : FabSt := { x with dead := (x.dead.filter fun e => e.1 != slot) ++ [(slot, node, dir)] }

/-- A work in which a trunk has entered the dead list. -/
def Work.bury (w : Work) (node dir : Nat) : Work :=
  (w.add (.fab (w.dev.fab.bury (w.dev.deadSlot node dir) node dir))).add (.csr (A.GWY_DEAD (w.dev.deadSlot node dir))
    (BitVec.ofNat 64 (1 + dir % 8 * 2 + node % 16384 * 16 + w.dev.now % 2 ^ 32 * 2 ^ 32)))

theorem post_addDead (node dir : Nat) (w : Work) : M.post (addDead node dir) w = w.bury node dir := rfl

/-- The request that a NOROUTE returns. -/
def Dev.returned (d : Dev) (m : DMsg) : Option Outst :=
  d.fab.out.find? fun o => o.m.tag == m.tag && o.m.type == m.detail && o.m.win == m.win && o.m.atag == m.atag && !o.heldBack

/-- A request has come back and the fence of its destination stands. -/
def FabSt.fence (x : FabSt) (tag dst : Nat) : FabSt :=
  { x with out := x.out.map (fun o => if o.m.tag == tag then { o with returned := true } else o),
           fences := if x.fences.contains dst then x.fences else x.fences ++ [dst] }

/-- A work in which the request of a tag is marked as come back. -/
def Work.comeBack (w : Work) (tag : Nat) : Work :=
  w.add (.fab { w.dev.fab with out := w.dev.fab.out.map fun o => if o.m.tag == tag then { o with returned := true } else o })

/-- A work in which the fence of a node stands. -/
def Work.fence (w : Work) (dst : Nat) : Work :=
  w.add (.fab { w.dev.fab with fences := if w.dev.fab.fences.contains dst then w.dev.fab.fences else w.dev.fab.fences ++ [dst] })

theorem post_norouteMsg_request {w : Work} {m : DMsg} {o : Outst} (hcls : drsCls m.detail = 1) (h : w.dev.returned m = some o) :
    M.post (norouteMsg m) w = ((w.bury m.failNode m.failDir).comeBack m.tag).fence o.m.dst := by
  have hfound : (w.bury m.failNode m.failDir).dev.returned m = some o := by simpa [Dev.returned, Work.bury, FabSt.bury] using h
  have htag : o.m.tag = m.tag := by
    have hhits := List.find?_some h
    simp only [Bool.and_eq_true, beq_iff_eq] at hhits
    exact hhits.1.1.1.1
  rw [Dev.returned] at hfound
  simp only [norouteMsg, post_bind, post_addDead, val_dev, post_dev, hcls, hfound, OfNat.one_ne_ofNat, if_false, if_true, modOutst, post_modFab, htag]
  rfl

/-- The fabric's state after a NOROUTE of a request. -/
theorem fab_norouted (w : Work) (m : DMsg) (dst : Nat) : (((w.bury m.failNode m.failDir).comeBack m.tag).fence dst).dev.fab =
    (w.dev.fab.bury (w.dev.deadSlot m.failNode m.failDir) m.failNode m.failDir).fence m.tag dst := by
  simp [Work.fence, Work.comeBack, Work.bury, FabSt.fence]

theorem noroute_fences {s : State} {p : Fin 12} {i : DIn} {o : Outst} (h : s.dev.drsServed p i) (htype : i.m.type = 0x46)
    (hcls : drsCls i.m.detail = 1) (hslots : ∀ e ∈ s.dev.fab.dead, e.1 < 64) (ho : s.dev.returned i.m = some o) :
    Completes (.noroute p i) s fun t =>
      (∃ slot < 64, t.dev.fab = (s.dev.fab.bury slot i.m.failNode i.m.failDir).fence i.m.tag o.m.dst) ∧
      HeardDrs p i s.dev t.dev ∧ Changes [.links, .fab] (fun a => ∃ k < 64, a = A.GWY_DEAD k) s.dev t.dev := by
  have hw := Work.heardDrs_dev s.dev p i
  have hact := post_norouteMsg_request (w := Work.heardDrs s.dev p i) hcls (by rw [hw]; exact ho)
  have hslot := deadSlot_lt hslots i.m.failNode i.m.failDir
  have hsame : (Work.heardDrs s.dev p i).dev.deadSlot i.m.failNode i.m.failDir = s.dev.deadSlot i.m.failNode i.m.failDir := by rw [hw]; rfl
  have hbury : Changes [.links, .fab] (fun a => ∃ k < 64, a = A.GWY_DEAD k) s.dev ((Work.heardDrs s.dev p i).bury i.m.failNode i.m.failDir).dev :=
    changes_csr _ ⟨_, hslot, by rw [hsame]⟩ (changes_fab (changes_heardDrs _ _ _ _ (by simp)) (by simp))
  refine completes_drsRow rfl h (by simp [isType, htype]) hact (by simp [Work.fence, Work.comeBack, Work.bury])
    (by simp [Work.fence, Work.comeBack, Work.bury]) (changes_fab (changes_fab hbury (by simp)) (by simp)) ?_ ⟨_, hslot, ?_⟩
  · rintro ⟨k, hk, hadr⟩
    have hp := p.isLt
    simp only [A.DRS_VIOL_CFG, A.GWY_DEAD] at hadr
    omega
  · rw [fab_norouted, hsame, hw]
    rfl

/-! ## The statement -/

/-- Settles O34, answer by answer: those that end their request, RETRY and CREDIT_READY, NOROUTE, and the answers without effect. -/
theorem dorrusResponses : Obligations.DorrusResponses := by
  intro s p i
  dsimp only
  intro h
  refine ⟨drsNak_idle h, fun o ho hheld => ⟨fun htype hread hatag => drsData_ends ho h hheld htype hread hatag,
    fun x htype hread hfill hatag hx hroom => ?_, fun htype => ?_, fun htype hatomic hatag => ares_ends ho h hheld htype hatomic hatag,
    fun htype => drsRetry_awaits_credit ho h htype⟩, fun _ hnone => ?_, fun o htype ho => ⟨fun hfence => ?_, fun dir hfence hdir htrunk => ?_⟩,
    fun o htype hcls hslots ho => ?_⟩
  · exact (drsData_lost ho h hheld htype hread hfill hatag hx hroom).imp fun t ⟨⟨hended, hown, hevq⟩, hheard⟩ => ⟨hended, hown, hevq, hheard⟩
  · exact (drsCmp_ends ho h hheld htype).imp fun t ⟨⟨hended, hcounts, hkeeps⟩, hheard⟩ => ⟨hended, hcounts, hkeeps, hheard⟩
  · exact ⟨fun htype => response_unanswered h rfl htype (fun _ => post_dataMsg_unanswered) hnone,
      fun htype => response_unanswered h rfl htype (fun _ => post_cmpMsg_unanswered) hnone,
      fun htype => response_unanswered h rfl htype (fun _ => post_aresMsg_unanswered) hnone,
      fun htype => response_unanswered h rfl htype (fun _ => post_retryMsg_unanswered) hnone⟩
  · exact drsCreditReady_fenced h htype ho hfence
  · refine (drsCreditReady_resends h htype ho hfence hdir htrunk).imp fun t ⟨⟨hfab, hwaits⟩, hheard⟩ => ⟨hfab, ?_, hheard⟩
    simpa only [TrfSt.waits] using hwaits
  · refine (noroute_fences h htype hcls hslots ho).imp fun t ⟨⟨slot, hslot, hfab⟩, hheard⟩ => ⟨⟨slot, hslot, ?_⟩, ?_, ?_, hheard⟩
    · simp [hfab, FabSt.fence, FabSt.bury]
    · simp [hfab, FabSt.fence, FabSt.bury]
    · simp [hfab, FabSt.fence, FabSt.bury]

end Sys2Proof.Machine
end

section
/-! PROOFS. The messages of region ownership (O37). -/

namespace Sys2Proof.Machine

-- The text is compiled in one process with bounded memory, and each proof elaborated beside the others takes a stack of its own.
set_option Elab.async false

/-! ## OWN messages of this device -/

/-- An OWN message of a node (R298). -/
def ownMsgOf (node dst kind off epoch status : Nat) : DMsg :=
  { type := 0x62, len := 1, dst := dst, src := node, units := [ownUnit kind off epoch status] }

theorem ownMsgOf_cls (node dst kind off epoch status : Nat) : drsCls (ownMsgOf node dst kind off epoch status).type = 0 :=
  (by decide : drsCls 0x62 = 0)

theorem post_sendOwnMsg {dst kind off epoch status : Nat} {x : Egr} {w : Work}
    (h : w.dev.drsEgr (ownMsgOf w.dev.node dst kind off epoch status) = some x) :
    M.post (sendOwnMsg dst kind off epoch status) w = w.add (.trf (w.dev.trf.queue x)) := by
  rw [sendOwnMsg, post_bind, val_dev, post_dev]
  exact post_sendDrs_mg (m := ownMsgOf w.dev.node dst kind off epoch status) (ownMsgOf_cls w.dev.node dst kind off epoch status) h

/-- What a device sends does not depend on what routes do not look at. -/
theorem post_sendOwnMsg_of {dst kind off epoch status : Nat} {x : Egr} {w : Work} {d : Dev} (hfab : w.dev.fab = d.fab) (hnow : w.dev.now = d.now)
    (hregs : ∀ a, w.dev.reg a = d.reg a) (h : d.drsEgr (ownMsgOf d.node dst kind off epoch status) = some x) :
    M.post (sendOwnMsg dst kind off epoch status) w = w.add (.trf (w.dev.trf.queue x)) := by
  have hnode : w.dev.node = d.node := by simp [Dev.node, hregs]
  refine post_sendOwnMsg ?_
  rw [hnode]
  exact (drsEgrFor_congr hfab hnow (fun a _ => hregs a) _ _).trans h

theorem changes_trf {parts : List Part} {regs : Nat → Prop} {d e : Dev} (h : Changes parts regs d e) {x : TrfSt} (htrf : Part.trf ∈ parts) :
    Changes parts regs d ((Upd.trf x).apply e) := Foot.changes (u := .trf x) htrf h

/-! ## The completion of a command that a message ends -/

/-- The command interface where a command of a sequence number has a completion, its own or the one given. -/
def CmdSt.finish (x : CmdSt) (seq : Nat) (c : Cpl) : CmdSt :=
  { x with runs := x.runs.map fun r => if r.seq == seq then { r with cpl := some (r.cpl.getD c) } else r }

theorem post_endXfer (x : Xfer) (status detail : Nat) (w : Work) : M.post (endXfer x status detail) w =
    (w.add (.own { w.dev.own with xfers := w.dev.own.xfers.filter fun y => y != x })).add
      (.cmd (w.dev.cmd.finish x.seq { status := status, detail := detail, result := (w.dev.ownRec x.region).epoch })) := by
  refine congrArg (fun l => (w.add _).add (.cmd { w.dev.cmd with runs := l })) (List.map_congr_left fun r _ => ?_)
  cases hcpl : r.cpl <;> simp [hcpl]

theorem post_endAccept (a : Accepting) (status detail : Nat) (w : Work) : M.post (endAccept a status detail) w =
    (w.add (.own { w.dev.own with accepting := w.dev.own.accepting.filter fun y => y != a })).add
      (.cmd (w.dev.cmd.finish a.seq (fail status detail))) := by
  refine congrArg (fun l => (w.add _).add (.cmd { w.dev.cmd with runs := l })) (List.map_congr_left fun r _ => ?_)
  cases hcpl : r.cpl <;> simp [hcpl]

/-! ## Records of regions -/

/-- The ownership with the record of a region written. -/
def OwnSt.record (x : OwnSt) (region : Nat) (o : OwnRec) : OwnSt := { x with recs := tset {} x.recs region o }

theorem post_setOwn (region : Nat) (o : OwnRec) (w : Work) : M.post (setOwn region o) w = w.add (.own (w.dev.own.record region o)) := rfl

theorem ownRec_of_record {d e : Dev} {region : Nat} {o : OwnRec} (h : e.own.recs = tset {} d.own.recs region o) :
    e.ownRec region = o ∧ ∀ r, r ≠ region → e.ownRec r = d.ownRec r := by
  refine ⟨by simp [Dev.ownRec, h], fun r hr => by simp [Dev.ownRec, h, hr]⟩

/-- The record of a region that is granted to another node (R235). -/
def OwnRec.granted (o : OwnRec) (node : Nat) (x : Xfer) : OwnRec :=
  { o with st := 1, owner := if o.st = 0 then node else o.owner, pend := x.newOwner, epoch := epochNext o.epoch, stateful := x.stateful, reclaimed := false }

/-- A region that has an owner keeps it until the new one accepts. -/
theorem granted_of_owned {o : OwnRec} (h : o.st = 2) (node : Nat) (x : Xfer) : o.granted node x =
    { o with st := 1, pend := x.newOwner, epoch := epochNext o.epoch, stateful := x.stateful, reclaimed := false } := by
  have hst : o.st ≠ 0 := by rw [h]; decide
  rw [OwnRec.granted, if_neg hst]

/-- The record of a region that its home takes back for itself (R235). -/
def OwnRec.home (o : OwnRec) (x : Xfer) : OwnRec :=
  { o with st := 0, owner := 0, pend := 0, epoch := epochNext o.epoch, stateful := x.stateful, reclaimed := false }

/-- A transfer that waits for the ACCEPT of its new owner. -/
def Xfer.offered (x : Xfer) (now : Nat) : Xfer := { x with releaseDue := none, acceptDue := some (now + ownWait) }

/-- A work in which a region is granted to another node. -/
def Work.grant (w : Work) (x : Xfer) : Work :=
  (w.add (.own (w.dev.own.record x.region ((w.dev.ownRec x.region).granted w.dev.node x)))).add
    (.own { w.dev.own.record x.region ((w.dev.ownRec x.region).granted w.dev.node x) with
      xfers := w.dev.own.xfers.map fun y => if y == x then x.offered w.dev.now else y })

/-- A region goes to another node, which it is offered to. -/
theorem post_grantRegion_other {x : Xfer} {w : Work} (h : x.newOwner ≠ w.dev.node) : M.post (grantRegion x) w =
    M.post (sendOwnMsg x.newOwner 1 (x.region <<< 21) (epochNext (w.dev.ownRec x.region).epoch) 0) (w.grant x) := by
  simp only [grantRegion, post_bind, val_dev, post_dev, h, if_false, post_setOwn, post_modOwn]
  rfl

/-- A region that its home takes back needs no offer. -/
theorem post_grantRegion_home {x : Xfer} {w : Work} (h : x.newOwner = w.dev.node) : M.post (grantRegion x) w =
    M.post (endXfer x Sc.ok (if x.noRel then 0x60 else 0)) (w.add (.own (w.dev.own.record x.region ((w.dev.ownRec x.region).home x)))) := by
  simp only [grantRegion, post_bind, val_dev, post_dev, h, if_true, post_setOwn]
  rfl

/-! ## What each kind does -/

section
variable {w : Work} {m : DMsg}

/-- The offset and the EPOCH that an OWN message names. -/
abbrev ownOff (m : DMsg) : Nat := le (m.units.headD 0) 8 8
abbrev ownEpoch (m : DMsg) : Nat := le (m.units.headD 0) 16 2

theorem ownMsg_offer (h : kindOf m = 1) : ownMsg m = raise Ev.ownOffer 0 m.src none 0 (ownEpoch m) (ownOff m) := by
  simp only [ownMsg, show le (m.units.headD 0) 0 1 = 1 from h]
  rfl

theorem ownMsg_reclaim (h : kindOf m = 5) : ownMsg m = raise Ev.ownReclaimed 0 m.src none 0 (ownEpoch m) (ownOff m) := by
  simp only [ownMsg, show le (m.units.headD 0) 0 1 = 5 from h]
  rfl

theorem ownMsg_release (h : kindOf m = 3) : ownMsg m = releaseHere m.src (ownOff m) (ownEpoch m) := by
  simp only [ownMsg, show le (m.units.headD 0) 0 1 = 3 from h]
  rfl

theorem ownMsg_released (h : kindOf m = 4) : ownMsg m = regionReleased m.src (ownOff m >>> 21) := by
  simp only [ownMsg, show le (m.units.headD 0) 0 1 = 4 from h]
  rfl

theorem ownMsg_accept (h : kindOf m = 2) : ownMsg m =
    (acceptRegion m.src (ownOff m) (ownEpoch m) >>= fun st => sendOwnMsg m.src ownAnswerK (ownOff m) (ownEpoch m) st) := by
  simp only [ownMsg, show le (m.units.headD 0) 0 1 = 2 from h]
  rfl

theorem ownMsg_answer (h : kindOf m = 6) : ownMsg m = dev >>= fun d =>
    match d.own.accepting.find? fun a => a.node == m.src && a.off == ownOff m && a.epoch == ownEpoch m with
    | some a => acceptAnswered a (le (m.units.headD 0) 18 1)
    | none => pure () := by
  simp only [ownMsg, show le (m.units.headD 0) 0 1 = 6 from h]
  rfl

end

end Sys2Proof.Machine
end

section
/-! PROOFS. The rows of region ownership: each kind of message (O37). -/

namespace Sys2Proof.Machine

-- The text is compiled in one process with bounded memory, and each proof elaborated beside the others takes a stack of its own.
set_option Elab.async false

/-! ## Nothing waits at the slices -/

theorem quiet_congr {d e : Dev} (h : d.quiet) (hhome : e.home = d.home) (hcfg : ∀ q < 4, e.reg (A.TLK_VIOL_CFG q) = d.reg (A.TLK_VIOL_CFG q))
    (hcounts : ∀ q, (e.link q).viol = (d.link q).viol ∧ (e.link q).winEnd = (d.link q).winEnd) : e.quiet := by
  obtain ⟨hwaiting, hcredits, hcalm⟩ := h
  exact ⟨by rw [hhome]; exact hwaiting, by rw [hhome]; exact hcredits, calm_of_counts hcalm hcfg hcounts⟩

/-- Where nothing waits at the slices, letting what waits go on does nothing. -/
theorem post_goOn_quiet {w : Work} (h : w.dev.quiet) : M.post reserveCredits (M.post serveAll w) = w := by
  obtain ⟨hwaiting, hcredits, hcalm⟩ := h
  rw [post_serveAll_idle hwaiting hcalm, post_reserveCredits_idle hcredits]

/-! ## The home's verdict on an ACCEPT -/

/-- A work in which an offered region has its new owner and its transfer has ended. -/
def Work.accept (w : Work) (x : Xfer) (region src : Nat) : Work :=
  ((w.add (.own (w.dev.own.record region { w.dev.ownRec region with st := 2, owner := src, pend := 0 }))).add
    (.own { w.dev.own.record region { w.dev.ownRec region with st := 2, owner := src, pend := 0 } with
      xfers := w.dev.own.xfers.filter fun y => y != x })).add
    (.cmd (w.dev.cmd.finish x.seq { detail := if x.noRel then 0x60 else 0, result := (w.dev.ownRec region).epoch }))

theorem acceptRegion_valid {w : Work} {x : Xfer} {src off epoch : Nat} (halign : off % 2 ^ 21 = 0) (hstore : off < storeEnd)
    (hst : (w.dev.ownRec (off >>> 21)).st = 1) (hpend : (w.dev.ownRec (off >>> 21)).pend = src)
    (hepoch : (w.dev.ownRec (off >>> 21)).epoch = epoch)
    (hx : w.dev.own.xfers.find? (fun x => x.region == off >>> 21 && x.acceptDue.isSome) = some x) (hregion : x.region = off >>> 21)
    (hquiet : w.dev.quiet) :
    M.post (acceptRegion src off epoch) w = w.accept x (off >>> 21) src ∧ M.val (acceptRegion src off epoch) w = Sc.ok := by
  have hin : ¬ (off % 2 ^ 21 ≠ 0 ∨ storeEnd ≤ off) := by omega
  have hvalid : (w.dev.ownRec (off >>> 21)).st = 1 ∧ (w.dev.ownRec (off >>> 21)).pend = src ∧ (w.dev.ownRec (off >>> 21)).epoch = epoch :=
    ⟨hst, hpend, hepoch⟩
  have hended : M.post (endXfer x Sc.ok (if x.noRel then 0x60 else 0))
      (w.add (.own (w.dev.own.record (off >>> 21) { w.dev.ownRec (off >>> 21) with st := 2, owner := src, pend := 0 }))) =
      w.accept x (off >>> 21) src := by
    rw [post_endXfer]
    simp [Work.accept, OwnSt.record, Dev.ownRec, hregion]
  have hidle : M.post reserveCredits (M.post serveAll (w.accept x (off >>> 21) src)) = w.accept x (off >>> 21) src :=
    post_goOn_quiet (quiet_congr hquiet rfl (fun _ _ => rfl) fun _ => ⟨rfl, rfl⟩)
  refine ⟨?_, ?_⟩
  · simp only [acceptRegion, post_bind, val_dev, post_dev, if_neg hin, if_pos hvalid, post_setOwn, hx, hended, post_pure]
    exact hidle
  · simp only [acceptRegion, val_bind, val_dev, post_dev, if_neg hin, if_pos hvalid, hx, val_pure]

/-! ## The former and the new owner -/

/-- The ownership at a former owner that has dropped its copies and its entry of a region. -/
def OwnSt.leave (x : OwnSt) (src off : Nat) : OwnSt :=
  { x with ownedHere := x.ownedHere.filter fun y => !(y.1 == src && y.2.1 == off),
           ret := x.ret.filter fun y => !(y.kind == 2 && y.node == src && decide (off / 64 ≤ y.line) && decide (y.line < off / 64 + 32768)) }

theorem post_releaseHere (src off epoch : Nat) (w : Work) : M.post (releaseHere src off epoch) w =
    M.post (sendOwnMsg src 4 off epoch 0) (w.add (.own (w.dev.own.leave src off))) := by
  simp only [releaseHere, post_bind, post_modOwn, OwnSt.leave]

/-- The ownership at a new owner that its home has confirmed. -/
def OwnSt.confirm (x : OwnSt) (a : Accepting) : OwnSt :=
  { x with accepting := x.accepting.filter fun y => y != a,
           ownedHere := (x.ownedHere.filter fun y => !(y.1 == a.node && y.2.1 == a.off)) ++ [(a.node, a.off, a.epoch)] }

/-- The entries of the owned table with the one of a region that its home has confirmed. -/
def OwnSt.enter (x : OwnSt) (a : Accepting) : OwnSt :=
  { x with ownedHere := (x.ownedHere.filter fun y => !(y.1 == a.node && y.2.1 == a.off)) ++ [(a.node, a.off, a.epoch)] }

/-- A work in which a new owner has been confirmed: first the entry, then the end of its OWN_ACCEPT. -/
def Work.confirm (w : Work) (a : Accepting) : Work :=
  ((w.add (.own (w.dev.own.enter a))).add (.own (w.dev.own.confirm a))).add (.cmd (w.dev.cmd.finish a.seq {}))

theorem post_acceptAnswered_ok (a : Accepting) (w : Work) : M.post (acceptAnswered a 0) w = w.confirm a :=
  post_endAccept a Sc.ok 0 (w.add (.own (w.dev.own.enter a)))

/-! ## Rows -/

theorem isKind_own {m : DMsg} (htype : m.type = 0x62) {k : Nat} (hkind : kindOf m = k) : isKind 0x62 k 6 m = true := by
  simp [isKind, htype, hkind]

section
variable {s : State} {p : Fin 12} {i : DIn} (h : s.dev.drsServed p i) (htype : i.m.type = 0x62)
include h htype

/-- A message that raises an event at its receiver. -/
theorem own_raises {c : Instr} {k code : Nat} (hexec : exec c s = drsRow p i (isKind 0x62 k 6) ownMsg s) (hkind : kindOf i.m = k)
    (hact : ownMsg i.m = raise code 0 i.m.src none 0 (ownEpoch i.m) (ownOff i.m)) (hclass : (recClass code == 3) = false)
    (hroom : s.dev.hasRoom code 0) : Completes c s fun t =>
      t.dev.evq = { s.dev.evq with held := s.dev.evq.held ++ [heldOf code 0 i.m.src none 0 (ownEpoch i.m) (ownOff i.m) s.dev.now] } ∧
      HeardDrs p i s.dev t.dev ∧ Changes [.links, .evq] noReg s.dev t.dev := by
  have hw := Work.heardDrs_dev s.dev p i
  have hraise := post_raise_room (inst := i.m.src) (dom := none) (detail := 0) (countA := ownEpoch i.m) (addr := ownOff i.m)
    (w := Work.heardDrs s.dev p i) hclass (by rw [hw]; exact hroom)
  refine completes_drsRow hexec h (isKind_own htype hkind) ((congrArg (M.post · _) hact).trans hraise) (by simp) (by simp)
    (changes_evq (changes_heardDrs _ _ _ _ (by simp)) (by simp)) id ?_
  rw [Work.add_dev, Upd.evq_evq, hw]
  rfl

theorem ownRelease_answers {x : Egr} (hkind : kindOf i.m = 3)
    (hegr : s.dev.drsEgr (ownMsgOf s.dev.node i.m.src 4 (ownOff i.m) (ownEpoch i.m) 0) = some x) : Completes (.ownRelease p i) s fun t =>
      (t.dev.own = s.dev.own.leave i.m.src (ownOff i.m) ∧ Sent (ownMsgOf s.dev.node i.m.src 4 (ownOff i.m) (ownEpoch i.m) 0) s.dev t.dev) ∧
      HeardDrs p i s.dev t.dev ∧ Changes [.links, .own, .trf] noReg s.dev t.dev := by
  have hw := Work.heardDrs_dev s.dev p i
  let left : Work := (Work.heardDrs s.dev p i).add (.own ((Work.heardDrs s.dev p i).dev.own.leave i.m.src (ownOff i.m)))
  have hsend : M.post (sendOwnMsg i.m.src 4 (ownOff i.m) (ownEpoch i.m) 0) left = left.add (.trf (left.dev.trf.queue x)) :=
    post_sendOwnMsg_of (d := s.dev) (by simp [left, hw]) (by simp [left, hw]) (by simp [left, hw]) hegr
  have hact : M.post (ownMsg i.m) (Work.heardDrs s.dev p i) = left.add (.trf (left.dev.trf.queue x)) := by
    rw [ownMsg_release hkind, post_releaseHere]
    exact hsend
  refine completes_drsRow rfl h (isKind_own htype hkind) hact (by simp [left]) (by simp [left])
    (changes_trf (changes_own (changes_heardDrs _ _ _ _ (by simp)) (by simp)) (by simp)) id ⟨?_, sentFor_mg (ownMsgOf_cls ..) hegr ?_⟩
  · simp [left, hw]
  · simp [left, hw]

theorem released_offers {x : Xfer} {e : Egr} (hkind : kindOf i.m = 4) (halign : ownOff i.m % 2 ^ 21 = 0)
    (hx : s.dev.own.xfers.find? (fun x => x.region == ownOff i.m >>> 21 && x.releaseDue.isSome) = some x) (hregion : x.region = ownOff i.m >>> 21)
    (howner : (s.dev.ownRec (ownOff i.m >>> 21)).owner = i.m.src)
    (hnew : x.newOwner ≠ s.dev.node)
    (hegr : s.dev.drsEgr (ownMsgOf s.dev.node x.newOwner 1 (ownOff i.m) (epochNext (s.dev.ownRec (ownOff i.m >>> 21)).epoch) 0) = some e) :
    Completes (.released p i) s fun t =>
      (t.dev.own = { s.dev.own.record (ownOff i.m >>> 21) ((s.dev.ownRec (ownOff i.m >>> 21)).granted s.dev.node x) with
          xfers := s.dev.own.xfers.map fun y => if y == x then x.offered s.dev.now else y } ∧
        Sent (ownMsgOf s.dev.node x.newOwner 1 (ownOff i.m) (epochNext (s.dev.ownRec (ownOff i.m >>> 21)).epoch) 0) s.dev t.dev) ∧
      HeardDrs p i s.dev t.dev ∧ Changes [.links, .own, .trf] noReg s.dev t.dev := by
  have hw := Work.heardDrs_dev s.dev p i
  let granted : Work := (Work.heardDrs s.dev p i).grant x
  have hoff : x.region <<< 21 = ownOff i.m := by rw [hregion, Nat.shiftLeft_eq, Nat.shiftRight_eq_div_pow]; omega
  have hown : ∀ r, (Work.heardDrs s.dev p i).dev.ownRec r = s.dev.ownRec r := fun r => by rw [hw]; rfl
  have hnode : (Work.heardDrs s.dev p i).dev.node = s.dev.node := by rw [hw]; rfl
  have hsend : M.post (sendOwnMsg x.newOwner 1 (ownOff i.m) (epochNext (s.dev.ownRec (ownOff i.m >>> 21)).epoch) 0) granted =
      granted.add (.trf (granted.dev.trf.queue e)) :=
    post_sendOwnMsg_of (d := s.dev) (by simp [granted, Work.grant, hw]) (by simp [granted, Work.grant, hw]) (by simp [granted, Work.grant, hw]) hegr
  have hact : M.post (ownMsg i.m) (Work.heardDrs s.dev p i) = granted.add (.trf (granted.dev.trf.queue e)) := by
    have hgrants := post_grantRegion_other (x := x) (w := Work.heardDrs s.dev p i) (by rw [hnode]; exact hnew)
    rw [hoff, hown, hregion, hsend] at hgrants
    have hfound : (Work.heardDrs s.dev p i).dev.own.xfers.find? (fun x => x.region == ownOff i.m >>> 21 && x.releaseDue.isSome) = some x := by
      rw [hw]; exact hx
    simp only [ownMsg_released hkind, regionReleased, post_bind, val_dev, post_dev, hfound, hown, howner, if_true, hgrants]
  refine completes_drsRow rfl h (isKind_own htype hkind) hact (by simp [granted, Work.grant]) (by simp [granted, Work.grant])
    (changes_trf (changes_own (changes_own (changes_heardDrs _ _ _ _ (by simp)) (by simp)) (by simp)) (by simp)) id
    ⟨?_, sentFor_mg (ownMsgOf_cls ..) hegr ?_⟩
  · simp only [granted, Work.grant, Work.add_dev, Upd.trf_own, Upd.own_own, hown, hnode, hregion]
    rw [hw]
    rfl
  · simp [granted, Work.grant, hw]

theorem accept_accepts {x : Xfer} {e : Egr} (hkind : kindOf i.m = 2) (halign : ownOff i.m % 2 ^ 21 = 0) (hstore : ownOff i.m < storeEnd)
    (hst : (s.dev.ownRec (ownOff i.m >>> 21)).st = 1) (hpend : (s.dev.ownRec (ownOff i.m >>> 21)).pend = i.m.src)
    (hepoch : (s.dev.ownRec (ownOff i.m >>> 21)).epoch = ownEpoch i.m)
    (hx : s.dev.own.xfers.find? (fun x => x.region == ownOff i.m >>> 21 && x.acceptDue.isSome) = some x) (hregion : x.region = ownOff i.m >>> 21)
    (hquiet : s.dev.quiet) (hegr : s.dev.drsEgr (ownMsgOf s.dev.node i.m.src 6 (ownOff i.m) (ownEpoch i.m) 0) = some e) :
    Completes (.accept p i) s fun t =>
      (t.dev.own = { s.dev.own.record (ownOff i.m >>> 21) { s.dev.ownRec (ownOff i.m >>> 21) with st := 2, owner := i.m.src, pend := 0 } with
          xfers := s.dev.own.xfers.filter fun y => y != x } ∧
        t.dev.cmd = s.dev.cmd.finish x.seq { detail := if x.noRel then 0x60 else 0, result := ownEpoch i.m } ∧
        Sent (ownMsgOf s.dev.node i.m.src 6 (ownOff i.m) (ownEpoch i.m) 0) s.dev t.dev) ∧
      HeardDrs p i s.dev t.dev ∧ Changes [.links, .own, .cmd, .trf] noReg s.dev t.dev := by
  have hw := Work.heardDrs_dev s.dev p i
  have hheard := heard_heardDrs s.dev p i
  have hown : ∀ r, (Work.heardDrs s.dev p i).dev.ownRec r = s.dev.ownRec r := fun r => by rw [hw]; rfl
  let accepted : Work := (Work.heardDrs s.dev p i).accept x (ownOff i.m >>> 21) i.m.src
  obtain ⟨hpost, hval⟩ := acceptRegion_valid (w := Work.heardDrs s.dev p i) halign hstore ((hown _) ▸ hst) ((hown _) ▸ hpend) ((hown _) ▸ hepoch)
    (by rw [hw]; exact hx) hregion (quiet_congr hquiet (by rw [hw]; rfl) (fun q _ => by rw [hw]; rfl) hheard.counts)
  have hsend : M.post (sendOwnMsg i.m.src 6 (ownOff i.m) (ownEpoch i.m) 0) accepted = accepted.add (.trf (accepted.dev.trf.queue e)) :=
    post_sendOwnMsg_of (d := s.dev) (by simp [accepted, Work.accept, hw]) (by simp [accepted, Work.accept, hw]) (by simp [accepted, Work.accept, hw]) hegr
  have hact : M.post (ownMsg i.m) (Work.heardDrs s.dev p i) = accepted.add (.trf (accepted.dev.trf.queue e)) := by
    rw [ownMsg_accept hkind, post_bind, hpost, hval]
    exact hsend
  refine completes_drsRow rfl h (isKind_own htype hkind) hact (by simp [accepted, Work.accept]) (by simp [accepted, Work.accept])
    (changes_trf (changes_cmd (changes_own (changes_own (changes_heardDrs _ _ _ _ (by simp)) (by simp)) (by simp)) (by simp)) (by simp)) id
    ⟨?_, ?_, sentFor_mg (ownMsgOf_cls ..) hegr ?_⟩
  · simp only [accepted, Work.accept, Work.add_dev, Upd.trf_own, Upd.cmd_own, Upd.own_own, hown]
    rw [hw]
    rfl
  · simp only [accepted, Work.accept, Work.add_dev, Upd.trf_cmd, Upd.cmd_cmd, hown, hepoch]
    rw [hw]
    rfl
  · simp [accepted, Work.accept, hw]

theorem ownAnswer_confirms {a : Accepting} (hkind : kindOf i.m = 6)
    (ha : s.dev.own.accepting.find? (fun a => a.node == i.m.src && a.off == ownOff i.m && a.epoch == ownEpoch i.m) = some a)
    (hok : le (i.m.units.headD 0) 18 1 = 0) : Completes (.ownAnswer p i) s fun t =>
      (t.dev.own = s.dev.own.confirm a ∧ t.dev.cmd = s.dev.cmd.finish a.seq {}) ∧
      HeardDrs p i s.dev t.dev ∧ Changes [.links, .own, .cmd] noReg s.dev t.dev := by
  have hw := Work.heardDrs_dev s.dev p i
  have hfound : (Work.heardDrs s.dev p i).dev.own.accepting.find? (fun a => a.node == i.m.src && a.off == ownOff i.m && a.epoch == ownEpoch i.m) =
      some a := by rw [hw]; exact ha
  have hact : M.post (ownMsg i.m) (Work.heardDrs s.dev p i) = (Work.heardDrs s.dev p i).confirm a := by
    rw [ownMsg_answer hkind, post_bind, val_dev, post_dev]
    simp only [hfound, hok, post_acceptAnswered_ok]
  refine completes_drsRow rfl h (isKind_own htype hkind) hact (by simp [Work.confirm]) (by simp [Work.confirm])
    (changes_cmd (changes_own (changes_own (changes_heardDrs _ _ _ _ (by simp)) (by simp)) (by simp)) (by simp)) id ⟨?_, ?_⟩
  · simp only [Work.confirm, Work.add_dev, Upd.cmd_own, Upd.own_own]
    rw [hw]
    rfl
  · simp only [Work.confirm, Work.add_dev, Upd.cmd_cmd]
    rw [hw]
    rfl

end

end Sys2Proof.Machine
end

section
/-! PROOFS. The timers of region ownership (O37). -/

namespace Sys2Proof.Machine

-- The text is compiled in one process with bounded memory, and each proof elaborated beside the others takes a stack of its own.
set_option Elab.async false

/-! ## A message that may find no route -/

/-- The registers in which a device counts and lists trunks that it cannot use (R302). -/
def routeRegs (a : Nat) : Prop := a = A.GWY_NOROUTE_CNT ∨ ∃ k, a = A.GWY_DEAD k

theorem not_routeRegs {a : Nat} (h : a < 0xC0000) : ¬ routeRegs a := by
  rintro (rfl | ⟨k, rfl⟩)
  · exact absurd h (by decide)
  · simp only [A.GWY_DEAD] at h
    omega

theorem addDead_emits (node dir : Nat) : Emits (Foot [.trf, .fab] routeRegs) (addDead node dir) :=
  Emits.dev.bind fun _ => (Emits.modFab (by simp)).bind fun _ => Emits.wr (.inr ⟨_, rfl⟩)

theorem sendOwn_mg_emits {m : DMsg} (hcls : drsCls m.type = 0) (dom : Option Nat) (n : Nat) : Emits (Foot [.trf, .fab] routeRegs) (sendOwn dom n m) := by
  induction n with
  | zero => exact Emits.pure _
  | succ n ih =>
    refine Emits.dev.bind fun d => ?_
    have hlaunch : ∀ c dir, Emits (Foot [.trf, .fab] routeRegs) (launch dir false dom (withRoute d m c)) := fun c dir => by
      have htype : drsCls (withRoute d m c).type = 0 := hcls
      exact launch_emits (by simp) (fun hne => absurd htype hne) dir false
    split
    · exact Emits.pure _
    · dsimp only
      split
      · exact Emits.pure _
      · exact Emits.ite (hlaunch _ _) ((Emits.bump (.inl rfl)).bind fun _ => (addDead_emits _ _).bind fun _ => ih)

theorem sendOwnMsg_emits (dst kind off epoch status : Nat) : Emits (Foot [.trf, .fab] routeRegs) (sendOwnMsg dst kind off epoch status) :=
  Emits.dev.bind fun d =>
    sendOwn_mg_emits (m := ownMsgOf d.node dst kind off epoch status) (ownMsgOf_cls d.node dst kind off epoch status) (some 0) 8

/-- What an OWN message leaves as it is when it is sent, whether it finds a route or not. -/
structure Told (d e : Dev) : Prop where
  own : e.own = d.own
  cmd : e.cmd = d.cmd
  evq : e.evq = d.evq
  home : e.home = d.home
  links : e.links = d.links
  now : e.now = d.now
  regs : ∀ a < 0xC0000, e.reg a = d.reg a

theorem sendOwnMsg_told (dst kind off epoch status : Nat) (w : Work) : Told w.dev (M.post (sendOwnMsg dst kind off epoch status) w).dev := by
  have h := (sendOwnMsg_emits dst kind off epoch status).changes_post (Changes.refl _ _ w.dev)
  exact ⟨h.parts .own (by simp), h.parts .cmd (by simp), h.parts .evq (by simp), h.parts .home (by simp), h.parts .links (by simp),
    h.parts .now (by simp), fun a ha => h.regs a (not_routeRegs ha)⟩

/-- A command that runs a meaning completes with the device that the meaning leaves. -/
theorem completes_logged {c : Instr} {s : State} {m : M Unit} {w : Work} {post : State → Prop} (hexec : exec c s = s.run m)
    (hpost : M.post m ⟨s.dev, []⟩ = w) (hlog : s.dev.replay w.log = w.dev) (h : post { s with dev := w.dev }) : Completes c s post :=
  completes_run hexec hpost hlog h

/-! ## No ACCEPT in time -/

/-- A work in which a region has come home reclaimed and has been counted, with nothing said about it yet. -/
def Work.reclaim (w : Work) (region due : Nat) : Work :=
  M.post (bump A.HOM_RECLAIM_CNT) ((w.add (.now due)).add (.own (w.dev.own.record region
    { w.dev.ownRec region with st := 0, owner := 0, pend := 0, epoch := epochNext (w.dev.ownRec region).epoch, reclaimed := true })))

theorem reclaimRegion_eq {w : Work} {region due : Nat} {x : Xfer}
    (hx : w.dev.own.xfers.find? (fun x => x.region == region && x.acceptDue.isSome) = some x) (hdue : x.acceptDue = some due) :
    M.post (reclaimRegion region) w = M.post reserveCredits (M.post serveAll (M.post (endXfer x Sc.reclaimed 0x60)
      (M.post (sendOwnMsg (w.dev.ownRec region).pend 5 (region <<< 21) (epochNext (w.dev.ownRec region).epoch) 0) (w.reclaim region due)))) := by
  simp only [reclaimRegion, post_bind, val_dev, post_dev, hx, hdue, Option.getD_some, post_passTo, post_setOwn, Work.reclaim]
  rfl

theorem ownReclaimTimer_reclaims {s : State} {region : Fin 196608} {x : Xfer} {due : Nat}
    (hx : s.dev.own.xfers.find? (fun x => x.region == region.val && x.acceptDue.isSome) = some x) (hregion : x.region = region)
    (hdue : x.acceptDue = some due) (hquiet : s.dev.quiet) : Completes (.ownReclaimTimer region) s fun t =>
      t.dev.now = max s.dev.now due ∧
      t.dev.own = { s.dev.own.record region { s.dev.ownRec region with
          st := 0, owner := 0, pend := 0, epoch := epochNext (s.dev.ownRec region).epoch, reclaimed := true } with
        xfers := s.dev.own.xfers.filter fun y => y != x } ∧
      t.dev.cmd = s.dev.cmd.finish x.seq { status := Sc.reclaimed, detail := 0x60, result := epochNext (s.dev.ownRec region).epoch } ∧
      Counts A.HOM_RECLAIM_CNT 1 s.dev t.dev := by
  obtain ⟨o, ho⟩ : ∃ o, s.dev.ownRec region = o := ⟨_, rfl⟩
  obtain ⟨back, hback⟩ : ∃ v, Work.reclaim ⟨s.dev, []⟩ region due = v := ⟨_, rfl⟩
  obtain ⟨told, htold⟩ : ∃ v, M.post (sendOwnMsg o.pend 5 (region.val <<< 21) (epochNext o.epoch) 0) back = v := ⟨_, rfl⟩
  have htells : Told back.dev told.dev := htold ▸ sendOwnMsg_told ..
  have hlog : s.dev.replay told.log = told.dev := htold ▸ (sendOwnMsg_emits _ _ _ _ _).replay_log (by rw [← hback]; simp [Work.reclaim])
  have hown : back.dev.own = s.dev.own.record region { o with st := 0, owner := 0, pend := 0, epoch := epochNext o.epoch, reclaimed := true } := by
    rw [← hback, ← ho]
    rfl
  have hkeeps : back.dev.cmd = s.dev.cmd ∧ back.dev.home = s.dev.home ∧ back.dev.links = s.dev.links ∧ back.dev.now = max s.dev.now due := by
    rw [← hback]
    exact ⟨rfl, rfl, rfl, rfl⟩
  obtain ⟨hcmd, hhome, hlinks, hnow⟩ := hkeeps
  have hregs : ∀ a, a ≠ A.HOM_RECLAIM_CNT → back.dev.reg a = s.dev.reg a := fun a ha => by
    rw [← hback]
    simp [Work.reclaim, ha]
  have hcounts : Counts A.HOM_RECLAIM_CNT 1 s.dev back.dev := by
    rw [← hback]
    exact counts_bump (by decide +kernel) (by decide +kernel) (by simp)
  have hrec : told.dev.ownRec x.region = { o with st := 0, owner := 0, pend := 0, epoch := epochNext o.epoch, reclaimed := true } := by
    rw [hregion, Dev.ownRec, htells.own, hown]
    simp [OwnSt.record]
  have hquiet' : told.dev.quiet := by
    refine quiet_congr hquiet (htells.home.trans hhome) (fun q hq => (htells.regs _ ?_).trans (hregs _ ?_)) fun q => ?_
    · simp only [A.TLK_VIOL_CFG]
      omega
    · simp only [A.TLK_VIOL_CFG, A.HOM_RECLAIM_CNT]
      omega
    · simp [Dev.link, htells.links, hlinks]
  have hend := post_endXfer x Sc.reclaimed 0x60 told
  have hpost : M.post (reclaimRegion region) ⟨s.dev, []⟩ = M.post (endXfer x Sc.reclaimed 0x60) told := by
    rw [reclaimRegion_eq hx hdue, hback]
    simp only [ho, htold]
    rw [hend]
    exact post_goOn_quiet (quiet_congr hquiet' rfl (fun _ _ => rfl) fun _ => ⟨rfl, rfl⟩)
  refine completes_logged (m := reclaimRegion region) rfl (hpost.trans hend) (by simp [hlog]) ⟨htells.now.trans hnow, ?_, ?_, ?_⟩
  · simp only [Work.add_dev, Upd.cmd_own, Upd.own_own, htells.own, hown, ho]
    rfl
  · simp only [Work.add_dev, Upd.cmd_cmd, hrec, htells.cmd, hcmd, ho]
  · have hsame : told.dev.reg A.HOM_RECLAIM_CNT = back.dev.reg A.HOM_RECLAIM_CNT := htells.regs _ (by decide)
    simpa only [Counts, Dev.fld, Work.add_dev, Upd.cmd_reg, Upd.own_reg, hsame] using hcounts

/-! ## No answer to an ACCEPT in time -/

theorem ownAcceptTimeout_ends {s : State} {node : Fin 16384} {region : Nat} {a : Accepting}
    (ha : s.dev.own.accepting.find? (fun a => a.node == node.val && a.off >>> 21 == region) = some a) :
    Completes (.ownAcceptTimeout node region) s fun t =>
      t.dev.now = max s.dev.now a.due ∧ t.dev.own = { s.dev.own with accepting := s.dev.own.accepting.filter fun x => x != a } ∧
      t.dev.cmd = s.dev.cmd.finish a.seq (fail Sc.timeout 0x60) ∧ Changes [.now, .own, .cmd] noReg s.dev t.dev := by
  have hpost : M.post (acceptTimeout node region) ⟨s.dev, []⟩ =
      M.post (endAccept a Sc.timeout 0x60) (Work.add ⟨s.dev, []⟩ (.now a.due)) := by
    simp only [acceptTimeout, post_bind, val_dev, post_dev, ha, post_passTo]
  refine completes_logged (m := acceptTimeout node region) rfl (hpost.trans (post_endAccept ..)) rfl ⟨rfl, rfl, rfl, ?_⟩
  exact changes_cmd (changes_own (changes_now (Changes.refl ..) (by simp)) (by simp)) (by simp)

end Sys2Proof.Machine
end

section
/-! PROOFS. A former owner that does not release in time, and the statement (O37). -/

namespace Sys2Proof.Machine

-- The text is compiled in one process with bounded memory, and each proof elaborated beside the others takes a stack of its own.
set_option Elab.async false

/-! ## No RELEASED in time -/

/-- A transfer whose former owner has not released in time. -/
def Xfer.unreleased (x : Xfer) : Xfer := { x with noRel := true }

/-- A work in which the silence of a former owner has been counted and reported. -/
def Work.overdue (w : Work) (x : Xfer) (region due : Nat) : Work :=
  ((M.post (bump A.HOM_NOREL_CNT) (w.add (.now due))).add (.evq { w.dev.evq with
    held := w.dev.evq.held ++ [heldOf Ev.noRelease (region % 8) (w.dev.ownRec region).owner none 0 0 (region <<< 21) (max w.dev.now due)] })).add
    (.own { w.dev.own with xfers := w.dev.own.xfers.map fun y => if y == x then x.unreleased else y })

section
variable {s : State} {region : Nat} {x : Xfer} {due : Nat}

theorem post_releaseTimeout {w : Work} (hx : w.dev.own.xfers.find? (fun x => x.region == region && x.releaseDue.isSome) = some x)
    (hdue : x.releaseDue = some due) (hroom : w.dev.hasRoom Ev.noRelease (region % 8)) :
    M.post (releaseTimeout region) w = M.post (grantRegion x.unreleased) (w.overdue x region due) := by
  have hraise := post_raise_room (inst := (w.dev.ownRec region).owner) (dom := none) (detail := 0) (countA := 0) (addr := region <<< 21)
    (w := M.post (bump A.HOM_NOREL_CNT) (w.add (.now due))) (by decide) (show Dev.hasRoom _ Ev.noRelease (region % 8) by
      simpa [Dev.hasRoom, Dev.holds] using hroom)
  have hget : x.releaseDue.getD 0 = due := by rw [hdue]; rfl
  simp only [releaseTimeout, post_bind, val_dev, post_dev, hx, hget, post_passTo, hraise, post_modOwn]
  rfl

/-- What the report of a silent owner leaves as it is. -/
theorem overdue_keeps (x : Xfer) (region due : Nat) (w : Work) : (w.overdue x region due).dev.now = max w.dev.now due ∧
    (∀ r, (w.overdue x region due).dev.ownRec r = w.dev.ownRec r) ∧ (w.overdue x region due).dev.node = w.dev.node := by
  refine ⟨rfl, fun r => rfl, ?_⟩
  simp [Work.overdue, Dev.node]

theorem overdue_counts (x : Xfer) (region due : Nat) (w : Work) : Counts A.HOM_NOREL_CNT 1 w.dev (w.overdue x region due).dev :=
  counts_bump (w := w.add (.now due)) (by decide +kernel) (by decide +kernel) rfl

/-- What a release timeout leaves, with what the grant makes of the region's record. -/
structure PassedOver (x : Xfer) (region due : Nat) (d e : Dev) : Prop where
  now : e.now = max d.now due
  counts : Counts A.HOM_NOREL_CNT 1 d e
  held : e.evq.held = d.evq.held ++ [heldOf Ev.noRelease (region % 8) (d.ownRec region).owner none 0 0 (region <<< 21) (max d.now due)]
  other : x.newOwner ≠ d.node → (e.ownRec region).st = 1 ∧ (e.ownRec region).pend = x.newOwner
  home : x.newOwner = d.node → (e.ownRec region).st = 0
  epoch : (e.ownRec region).epoch = epochNext (d.ownRec region).epoch

theorem passedOver_other {w : Work} (hregion : x.region = region) (hnew : x.newOwner ≠ w.dev.node) (kind off epoch status : Nat) :
    PassedOver x region due w.dev (M.post (sendOwnMsg x.newOwner kind off epoch status) ((w.overdue x region due).grant x.unreleased)).dev := by
  have htold := sendOwnMsg_told x.newOwner kind off epoch status ((w.overdue x region due).grant x.unreleased)
  obtain ⟨hnow, hown, hnode⟩ := overdue_keeps x region due w
  have hrec : (M.post (sendOwnMsg x.newOwner kind off epoch status) ((w.overdue x region due).grant x.unreleased)).dev.ownRec region =
      (w.dev.ownRec region).granted w.dev.node x.unreleased := by
    rw [Dev.ownRec, htold.own, ← hnode, ← hown, ← hregion]
    simp [Work.grant, OwnSt.record, Xfer.unreleased]
  have hcounts := overdue_counts x region due w
  have hreg := htold.regs A.HOM_NOREL_CNT (by decide)
  refine ⟨htold.now.trans hnow, ?_, ?_, fun _ => ?_, fun h => absurd h hnew, ?_⟩
  · rw [Counts, Dev.fld, hreg]
    exact hcounts
  · rw [htold.evq]
    rfl
  · rw [hrec]
    exact ⟨rfl, rfl⟩
  · rw [hrec]
    rfl

theorem passedOver_home {w : Work} (hregion : x.region = region) (hnew : x.newOwner = w.dev.node) (status detail : Nat) :
    PassedOver x region due w.dev (M.post (endXfer x.unreleased status detail)
      ((w.overdue x region due).add (.own ((w.overdue x region due).dev.own.record x.unreleased.region
        (((w.overdue x region due).dev.ownRec x.unreleased.region).home x.unreleased))))).dev := by
  obtain ⟨hnow, hown, hnode⟩ := overdue_keeps x region due w
  rw [post_endXfer]
  have hrec : ∀ r : OwnRec, tget {} (tset {} (w.overdue x region due).dev.own.recs x.unreleased.region r) region = r := fun r => by
    simp [Xfer.unreleased, hregion]
  refine ⟨hnow, overdue_counts x region due w, rfl, fun h => absurd hnew h, fun _ => ?_, ?_⟩
  · simp only [Dev.ownRec, Work.add_dev, Upd.cmd_own, Upd.own_own, OwnSt.record, hrec]
    rfl
  · simp only [Dev.ownRec, Work.add_dev, Upd.cmd_own, Upd.own_own, OwnSt.record, hrec]
    rw [← hregion]
    rfl

end

theorem ownReleaseTimeout_passes_over {s : State} {region : Fin 196608} {x : Xfer} {due : Nat}
    (hx : s.dev.own.xfers.find? (fun x => x.region == region.val && x.releaseDue.isSome) = some x) (hregion : x.region = region)
    (hdue : x.releaseDue = some due) (hroom : s.dev.hasRoom Ev.noRelease (region % 8)) :
    Completes (.ownReleaseTimeout region) s fun t => PassedOver x region due s.dev t.dev := by
  obtain ⟨hnow, hown, hnode⟩ := overdue_keeps x region due ⟨s.dev, []⟩
  have hlog : s.dev.replay (Work.overdue ⟨s.dev, []⟩ x region due).log = (Work.overdue ⟨s.dev, []⟩ x region due).dev := by simp [Work.overdue]
  have hpost := post_releaseTimeout (w := ⟨s.dev, []⟩) hx hdue hroom
  by_cases hnew : x.newOwner = s.dev.node
  · have hgrant := post_grantRegion_home (x := x.unreleased) (w := Work.overdue ⟨s.dev, []⟩ x region due) (by rw [hnode]; exact hnew)
    exact completes_logged (m := releaseTimeout region) rfl (hpost.trans hgrant) (by rw [post_endXfer]; simp [hlog]) (passedOver_home (w := ⟨s.dev, []⟩) hregion hnew _ _)
  · have hgrant := post_grantRegion_other (x := x.unreleased) (w := Work.overdue ⟨s.dev, []⟩ x region due) (by rw [hnode]; exact hnew)
    exact completes_logged (m := releaseTimeout region) rfl (hpost.trans hgrant)
      ((sendOwnMsg_emits _ _ _ _ _).replay_log (by simp [Work.grant, hlog])) (passedOver_other (w := ⟨s.dev, []⟩) hregion hnew _ _ _ _)

/-! ## The statement -/

theorem ownershipMessages : Clause.OwnershipMessages := by
  intro s p i
  dsimp only
  intro h htype
  refine ⟨fun hkind hroom => own_raises h htype rfl hkind (ownMsg_offer hkind) (by decide) hroom,
    fun hkind hroom => own_raises h htype rfl hkind (ownMsg_reclaim hkind) (by decide) hroom, fun hkind hegr => ?_,
    fun x hkind halign hx hregion howner hst hnew hegr => ?_, fun x hkind halign hstore hst hpend hepoch hx hregion hquiet hegr => ?_,
    fun a hkind ha hok => ?_⟩
  · obtain ⟨e, he⟩ := Option.isSome_iff_exists.mp hegr
    exact (ownRelease_answers h htype hkind he).imp fun t ⟨⟨hown, hsent⟩, hheard⟩ => ⟨hown, hsent, hheard⟩
  · obtain ⟨e, he⟩ := Option.isSome_iff_exists.mp hegr
    refine (released_offers h htype hkind halign hx hregion howner hnew he).imp fun t ⟨⟨hown, hsent⟩, hheard⟩ => ?_
    obtain ⟨hrec, hothers⟩ := ownRec_of_record (d := s.dev) (e := t.dev) (region := ownOff i.m >>> 21)
      (o := (s.dev.ownRec (ownOff i.m >>> 21)).granted s.dev.node x) (by rw [hown]; rfl)
    exact ⟨hrec.trans (granted_of_owned hst ..), hothers, by rw [hown]; rfl, hsent, hheard⟩
  · obtain ⟨e, he⟩ := Option.isSome_iff_exists.mp hegr
    refine (accept_accepts h htype hkind halign hstore hst hpend hepoch hx hregion hquiet he).imp
      fun t ⟨⟨hown, hcmd, hsent⟩, hheard⟩ => ?_
    obtain ⟨hrec, hothers⟩ := ownRec_of_record (d := s.dev) (e := t.dev) (region := ownOff i.m >>> 21)
      (o := { s.dev.ownRec (ownOff i.m >>> 21) with st := 2, owner := i.m.src, pend := 0 }) (by rw [hown]; rfl)
    exact ⟨hrec, hothers, by rw [hown], hcmd, hsent, hheard⟩
  · have hhits := List.find?_some ha
    simp only [Bool.and_eq_true, beq_iff_eq] at hhits
    obtain ⟨⟨hnode, hoff⟩, hepoch⟩ := hhits
    refine (ownAnswer_confirms h htype hkind ha hok).imp fun t ⟨⟨hown, hcmd⟩, hheard⟩ => ⟨?_, hcmd, hheard⟩
    rw [hown, OwnSt.confirm, hnode, hoff, hepoch]

theorem ownershipTimers : Clause.OwnershipTimers := by
  intro s
  refine ⟨fun region x due hx hregion hdue hquiet => ?_, fun region x due hx hregion hdue hst hroom => ?_, fun node region a ha => ?_⟩
  · refine (ownReclaimTimer_reclaims hx hregion hdue hquiet).imp fun t ⟨hnow, hown, hcmd, hcounts⟩ => ?_
    obtain ⟨hrec, hothers⟩ := ownRec_of_record (d := s.dev) (e := t.dev) (region := region)
      (o := { s.dev.ownRec region with st := 0, owner := 0, pend := 0, epoch := epochNext (s.dev.ownRec region).epoch, reclaimed := true })
      (by rw [hown]; rfl)
    exact ⟨hnow, hrec, hothers, by rw [hown], hcmd, hcounts⟩
  · exact (ownReleaseTimeout_passes_over hx hregion hdue hroom).imp fun t h =>
      ⟨h.now, h.counts, by rw [h.now]; exact h.held, h.other, h.home, h.epoch⟩
  · exact ownAcceptTimeout_ends ha

/-- Settles O37: the messages kind by kind, and the timers. -/
theorem ownershipOfRegions : Obligations.OwnershipOfRegions := ⟨ownershipMessages, ownershipTimers⟩

end Sys2Proof.Machine
end

section
/-! PROOFS. The end of a violation window and the loss of a port (O28). -/

namespace Sys2Proof.Machine

-- The text is compiled in one process with bounded memory, and each proof elaborated beside the others takes a stack of its own.
set_option Elab.async false

/-! ## The window closes -/

theorem takesFld_winViol : ∀ port < 16, takesFld (portStatusAddr port) winViolFld := by decide +kernel

theorem post_closeViolWindow {port wend : Nat} {w : Work} (hend : (w.dev.link port).winEnd = some wend) (hcalm : w.dev.overThreshold port = false) :
    M.post (closeViolWindow port) w = M.post (fset (portStatusAddr port) winViolFld 0)
      ((w.add (.now wend)).add (.links (w.dev.links.set port { w.dev.link port with winEnd := none, viol := 0 }))) := by
  have hkept : (w.add (.now wend)).dev.overThreshold port = false := hcalm
  simp only [closeViolWindow, post_bind, val_dev, post_dev, hend, post_passTo, post_checkQuarantine_calm hkept, post_modLink]
  rfl

/-- A port whose link says something has a link. -/
theorem port_lt_of_link {d : Dev} {port : Nat} (h : d.link port ≠ {}) : port < d.links.length := by
  by_contra hlt
  exact h (by simp [Dev.link, List.getD_eq_getElem?_getD, List.getElem?_eq_none (Nat.le_of_not_lt hlt)])

theorem violWindowClose_clears {s : State} {port : Fin 16} {wend : Nat} (hend : (s.dev.link port).winEnd = some wend)
    (hcalm : s.dev.overThreshold port = false) : Completes (.violWindowClose port) s fun t =>
      t.dev.now = max s.dev.now wend ∧ (t.dev.link port).winEnd = none ∧ t.dev.fld (portStatusAddr port) winViolFld = 0 ∧
      (∀ q : Fin 16, q ≠ port → t.dev.link q = s.dev.link q) ∧ Changes [.now, .links] (· = portStatusAddr port) s.dev t.dev := by
  have hlt : port < s.dev.links.length := port_lt_of_link fun hnone => by rw [hnone] at hend; cases hend
  have hfoot : Emits (Foot [.now, .links] (· = portStatusAddr port)) (fset (portStatusAddr port) winViolFld 0) := Emits.fset rfl
  refine completes_logged (m := closeViolWindow port) rfl (post_closeViolWindow hend hcalm) (hfoot.replay_log rfl) ⟨?_, ?_, ?_, fun q hq => ?_, ?_⟩
  · simp
  · simp [Dev.link, List.getD_eq_getElem?_getD, hlt]
  · rw [fld_fset (takesFld_winViol port port.isLt)]
    rfl
  · have hne : port.val ≠ q.val := fun heq => hq (Fin.ext heq.symm)
    simp [Dev.link, List.getD_eq_getElem?_getD, hne]
  · exact hfoot.changes_post (Foot.changes (u := .links _) (by simp [Foot]) (changes_now (Changes.refl ..) (by simp)))

/-! ## A line is marked poisoned -/

/-- The registers in which the stacks count what they store lie above the ports'. -/
abbrev markRegs (a : Nat) : Prop := 0xE0000 ≤ a

/-- From one device to another lines have been marked poisoned and directory states written: no byte changes, what was poisoned is, and the
slices keep all but their directory caches. -/
structure Walked (d e : Dev) : Prop where
  changes : Changes [.store, .home] markRegs d e
  poison : ∀ n, (d.meta_ n).poison = true → (e.meta_ n).poison = true
  home : e.home = { d.home with dc := e.home.dc }

theorem Walked.refl (d : Dev) : Walked d d := ⟨Changes.refl .., fun _ h => h, rfl⟩

theorem Walked.trans {d e f : Dev} (h : Walked d e) (g : Walked e f) : Walked d f :=
  ⟨Touches.trans h.changes g.changes, fun n hn => g.poison n (h.poison n hn), by rw [g.home, h.home]⟩

/-- Storing a line's own bytes changes none. -/
theorem byte_wrLine_same {d : Dev} {w : Work} {n : Nat} (h : ∀ a, w.dev.byte a = d.byte a) (a : Nat) :
    (M.post (wrLine n (d.line n)) w).dev.byte a = d.byte a := by
  have hlen : (lineBytes (d.line n)).length = 64 := length_toLe ..
  rw [wrLine, byte_wrBytes]
  split
  next hin =>
    have hlt : a - 64 * n < 64 := by omega
    rw [getD_lineBytes _ hlt, byteOf_line d n hlt]
    congr 1
    omega
  next => exact h a

/-- What marking a line counts. -/
theorem countPoison_emits (n pcause : Nat) : Emits (Foot [] markRegs) (do
    countRind true n
    on (decide (pcause ≠ 0)) (bump (A.STK_POISON_WR_CNT (stackOf (64 * n))))) := by
  have hrind : markRegs (A.RIND_ENC_CNT (stackOf (64 * n))) := by simp only [markRegs, A.RIND_ENC_CNT]; omega
  have hpoison : markRegs (A.STK_POISON_WR_CNT (stackOf (64 * n))) := by simp only [markRegs, A.STK_POISON_WR_CNT]; omega
  exact (Emits.dev.bind fun _ => Emits.on (Emits.bump48 hrind)).bind fun _ => Emits.on (Emits.bump hpoison)

theorem poisonLine_walks (n : Nat) {pcause : Nat} (hcause : pcause ≠ 0) (w : Work) :
    Walked w.dev (M.post (poisonLine n pcause) w).dev ∧ ((M.post (poisonLine n pcause) w).dev.meta_ n).poison = true := by
  obtain ⟨w₂, hw₂⟩ : ∃ x, x = M.post (wrLine n (w.dev.line n)) (M.post (setErrs n []) w) := ⟨_, rfl⟩
  obtain ⟨w₃, hw₃⟩ : ∃ x, x = w₂.add (.store { w₂.dev.store with lines := tset {} w₂.dev.store.lines n { w.dev.meta_ n with poison := true, pcause := pcause } }) :=
    ⟨_, rfl⟩
  have hpost : M.post (poisonLine n pcause) w =
      M.post (do countRind true n; on (decide (pcause ≠ 0)) (bump (A.STK_POISON_WR_CNT (stackOf (64 * n))))) w₃ := by
    simp only [poisonLine, putLine, post_bind, val_look, post_look, post_wrMeta, hw₃, hw₂, ne_eq, hcause, not_false_eq_true, decide_true]
  have hline := storeLine_touches n (w.dev.line n) w
  rw [← hw₂] at hline
  have hstore : w₂.dev.store = { w.dev.store with errs := tset [] w.dev.store.errs n [] } := hline.parts .store (by simp)
  have hbytes : ∀ a, w₂.dev.byte a = w.dev.byte a := fun a => by
    rw [hw₂]
    exact byte_wrLine_same (fun b => rfl) a
  have hsame : Changes [.store] noReg w.dev w₂.dev := by
    refine ⟨fun p hp => ?_, fun a _ => hline.regs a not_false, fun a _ => hbytes a⟩
    have hpart := hline.parts p (by simp)
    cases p with
    | store => exact absurd (by simp) hp
    | _ => exact hpart
  have htail := (countPoison_emits n pcause).changes_post (Changes.refl _ _ w₃.dev)
  rw [← hpost] at htail
  have hlines : (M.post (poisonLine n pcause) w).dev.store.lines =
      tset {} w.dev.store.lines n { w.dev.meta_ n with poison := true, pcause := pcause } := by
    rw [(htail.parts .store (by simp) : _ = w₃.dev.store), hw₃]
    simp [hstore]
  refine ⟨⟨?_, fun k hk => ?_, ?_⟩, ?_⟩
  · have hmark : Changes [.store] noReg w.dev w₃.dev := hw₃ ▸ Foot.changes (u := .store _) (by simp [Foot]) hsame
    exact Touches.trans (hmark.mono (by simp) fun _ h => h.elim) (htail.mono (by simp) fun _ h => h)
  · by_cases hkn : k = n
    · subst hkn
      simp [Dev.meta_, hlines]
    · simpa [Dev.meta_, hlines, hkn] using hk
  · have hhome : (M.post (poisonLine n pcause) w).dev.home = w.dev.home :=
      (htail.parts .home (by simp)).trans (by rw [hw₃]; exact hsame.parts .home (by simp))
    rw [hhome]
  · simp [Dev.meta_, hlines]

/-! ## Directory states are written -/

theorem setDir_walks (n dir : Nat) (w : Work) : Walked w.dev (M.post (setDir n dir) w).dev := by
  refine ⟨Emits.changes_post ((Emits.look _).bind fun _ => Emits.wrMeta (by simp)) (Changes.refl ..), fun k hk => ?_, rfl⟩
  by_cases hkn : k = n
  · subst hkn
    simpa [setDir, Dev.meta_] using hk
  · simpa [setDir, Dev.meta_, hkn] using hk

theorem modDc_walks (f : HomeSt → List DirEnt) (w : Work) : Walked w.dev (M.post (modHome fun h => { h with dc := f h }) w).dev :=
  ⟨Emits.changes_post (Emits.modHome (by simp)) (Changes.refl ..), fun _ h => h, rfl⟩

theorem writeDir_walks (n st ports : Nat) (w : Work) : Walked w.dev (M.post (writeDir n st ports) w).dev := by
  rw [writeDir, post_bind, post_dev, val_dev]
  split
  · rw [post_bind]
    exact (modDc_walks _ w).trans (setDir_walks ..)
  · split
    · exact setDir_walks ..
    · exact modDc_walks _ w

theorem removePort_walks (n p : Nat) (w : Work) : Walked w.dev (M.post (removePort n p) w).dev := by
  simp only [removePort, post_bind, val_look, post_look]
  split
  · exact writeDir_walks ..
  · exact Walked.refl _

theorem each_walks {α : Type} {l : List α} {f : α → M Unit} (h : ∀ a w, Walked w.dev (M.post (f a) w).dev) (w : Work) :
    Walked w.dev (M.post (each l f) w).dev := by
  induction l generalizing w with
  | nil => exact Walked.refl _
  | cons a l ih =>
    rw [each_cons, post_bind]
    exact (h a w).trans (ih _)

/-- The lost port's line is poisoned and no port holds it any more (R231). -/
def forfeit (n : Nat) : M Unit := do
  poisonLine n 2
  writeDir n 0 0

theorem forfeit_walks (n : Nat) (w : Work) :
    Walked w.dev (M.post (forfeit n) w).dev ∧ ((M.post (forfeit n) w).dev.meta_ n).poison = true := by
  obtain ⟨hmarks, hmarked⟩ := poisonLine_walks n (by decide : 2 ≠ 0) w
  have hwrites := writeDir_walks n 0 0 (M.post (poisonLine n 2) w)
  rw [forfeit, post_bind]
  exact ⟨hmarks.trans hwrites, hwrites.poison n hmarked⟩

/-- Each line that the lost port owned ends poisoned. -/
theorem each_forfeits {l : List DirEnt} {w : Work} {e : DirEnt} (he : e ∈ l) :
    ((M.post (each l fun e => forfeit e.line) w).dev.meta_ e.line).poison = true := by
  induction l generalizing w with
  | nil => cases he
  | cons x l ih =>
    rw [each_cons, post_bind]
    obtain rfl | he := List.mem_cons.mp he
    · have hrest := each_walks (l := l) (f := fun e => forfeit e.line) (fun x v => (forfeit_walks x.line v).1) (M.post (forfeit e.line) w)
      exact hrest.poison e.line (forfeit_walks e.line w).2
    · exact ih he

/-! ## The walk of a lost port -/

/-- The lines of the directory cache that a port owns, and those that it shares. -/
def Dev.ownedBy (d : Dev) (p : Nat) : List DirEnt := d.home.dc.filter fun e => dirDecode e.dir == (2, 2 ^ p)
def Dev.sharedBy (d : Dev) (p : Nat) : List DirEnt := d.home.dc.filter fun e => (dirDecode e.dir).1 == 1 && (dirDecode e.dir).2.testBit p

/-- What a walk does to the lines of a port (R231). -/
def walkLines (owned shared : List DirEnt) (p : Nat) : M Unit := do
  each owned fun e => forfeit e.line
  each shared fun e => removePort e.line p

theorem walkLines_walks (owned shared : List DirEnt) (p : Nat) (w : Work) :
    Walked w.dev (M.post (walkLines owned shared p) w).dev ∧
    ∀ e ∈ owned, ((M.post (walkLines owned shared p) w).dev.meta_ e.line).poison = true := by
  have howned := each_walks (l := owned) (f := fun e => forfeit e.line) (fun e v => (forfeit_walks e.line v).1) w
  have hshared := each_walks (l := shared) (f := fun e => removePort e.line p) (fun e v => removePort_walks e.line p v)
    (M.post (each owned fun e => forfeit e.line) w)
  rw [walkLines, post_bind]
  exact ⟨howned.trans hshared, fun e he => hshared.poison e.line (each_forfeits he)⟩

/-- A walk begins: it shows, and the port's requests in the ingress queues are discarded. -/
def beginWalk (p : Nat) (walk : Nat) (gone : List HReq) : M Unit := do
  fset A.HOM_STATUS F.HOM_STATUS_WALK (addPort walk p)
  modHome fun h => { h with waiting := h.waiting.filter fun r => !(gone.contains r), groups := h.groups.filter fun g => !(gone.any fun r => r.grp == g.id) }

theorem post_startWalk (p : Nat) (w : Work) : M.post (startWalk p) w =
    M.post (modHome fun h => { h with walks := h.walks ++ [(p, (w.dev.ownedBy p).length)] })
      (M.post (walkLines (w.dev.ownedBy p) (w.dev.sharedBy p) p) (M.post (beginWalk p (w.dev.fld A.HOM_STATUS F.HOM_STATUS_WALK) (w.dev.inIngress p)) w)) := by
  simp only [startWalk, walkLines, beginWalk, forfeit, post_bind, val_dev, post_dev, Dev.ownedBy, Dev.sharedBy]

theorem takesFld_walk : takesFld A.HOM_STATUS F.HOM_STATUS_WALK := by decide +kernel

theorem testBit_addPort : ∀ m < 16, ∀ p < 4, ((addPort m p) % 16).testBit p = true := by decide

/-- The walk of a port: it shows, the lines that the port owned are poisoned, and no byte changes. -/
structure WalkBegun (p : Nat) (d e : Dev) : Prop where
  shows : (e.fld A.HOM_STATUS F.HOM_STATUS_WALK).testBit p = true
  walks : ∃ n, e.home.walks = d.home.walks ++ [(p, n)]
  waiting : e.home.waiting = []
  poison : ∀ x ∈ d.home.dc, dirDecode x.dir = (2, 2 ^ p) → (e.meta_ x.line).poison = true
  changes : Changes [.store, .home] (fun a => a = A.HOM_STATUS ∨ markRegs a) d e

theorem startWalk_begins {p : Nat} (hp : p < 4) {w : Work} (hwaiting : w.dev.home.waiting = []) :
    WalkBegun p w.dev (M.post (startWalk p) w).dev := by
  obtain ⟨w₁, hw₁⟩ : ∃ v, M.post (beginWalk p (w.dev.fld A.HOM_STATUS F.HOM_STATUS_WALK) (w.dev.inIngress p)) w = v := ⟨_, rfl⟩
  obtain ⟨w₂, hw₂⟩ : ∃ v, M.post (walkLines (w.dev.ownedBy p) (w.dev.sharedBy p) p) w₁ = v := ⟨_, rfl⟩
  have hgone : w.dev.inIngress p = [] := by simp [Dev.inIngress, Dev.atSlice, hwaiting]
  have hbegun : Changes [.store, .home] (fun a => a = A.HOM_STATUS ∨ markRegs a) w.dev w₁.dev :=
    hw₁ ▸ Emits.changes_post (Emits.bind (Emits.fset (.inl rfl)) fun _ => Emits.modHome (by simp)) (Changes.refl ..)
  have hhome : w₁.dev.home = w.dev.home := by
    rw [← hw₁, hgone]
    simp [beginWalk]
  have hshows : (w₁.dev.fld A.HOM_STATUS F.HOM_STATUS_WALK).testBit p = true := by
    have hfld : w₁.dev.fld A.HOM_STATUS F.HOM_STATUS_WALK = addPort (w.dev.fld A.HOM_STATUS F.HOM_STATUS_WALK) p % 16 := by
      rw [← hw₁]
      exact fld_fset takesFld_walk _ w
    rw [hfld]
    exact testBit_addPort _ (Nat.mod_lt _ (by decide)) p hp
  obtain ⟨hwalked, hpoison⟩ := hw₂ ▸ walkLines_walks (w.dev.ownedBy p) (w.dev.sharedBy p) p w₁
  have hhome₂ : w₂.dev.home = { w.dev.home with dc := w₂.dev.home.dc } := by rw [hwalked.home, hhome]
  rw [post_startWalk, hw₁, hw₂, post_modHome]
  refine ⟨?_, ⟨(w.dev.ownedBy p).length, ?_⟩, ?_, fun x hx hdir => ?_, ?_⟩
  · have hsame : w₂.dev.fld A.HOM_STATUS F.HOM_STATUS_WALK = w₁.dev.fld A.HOM_STATUS F.HOM_STATUS_WALK := hwalked.changes.fld (by decide) _
    rw [Work.add_dev, Upd.home_fld, hsame]
    exact hshows
  · rw [Work.add_dev, Upd.home_home, hhome₂]
  · rw [Work.add_dev, Upd.home_home, hhome₂]
    exact hwaiting
  · exact hpoison x (List.mem_filter.mpr ⟨hx, by simpa using hdir⟩)
  · exact Foot.changes (u := .home _) (by simp [Foot]) (hbegun.trans (hwalked.changes.mono (by simp) fun _ => .inr))

/-! ## The loss of a port -/

/-- A work in which a port reads LOST, with the loss not yet reported. -/
def Work.markLost (w : Work) (p : Nat) : Work :=
  M.post (fset (A.TLK_STATUS p) F.TLK_STATUS_LOST 1) (w.add (.links (w.dev.links.set p { w.dev.link p with lostDue := none })))

/-- A work in which a port reads LOST and the loss is reported. -/
def Work.cutOff (w : Work) (p row : Nat) : Work :=
  (w.markLost p).add (.evq { (w.markLost p).dev.evq with
    held := (w.markLost p).dev.evq.held ++ [heldOf Ev.tlkPortLost p p none row 0 0 (w.markLost p).dev.now] })

/-- What the slices hold and where the time stands when a port is cut off. -/
theorem cutOff_keeps (w : Work) (p row : Nat) : (w.cutOff p row).dev.now = w.dev.now ∧ (w.cutOff p row).dev.home = w.dev.home ∧
    (w.cutOff p row).dev.links = w.dev.links.set p { w.dev.link p with lostDue := none } ∧ (∀ a, (w.cutOff p row).dev.byte a = w.dev.byte a) ∧
    (w.cutOff p row).dev.evq.held = w.dev.evq.held ++ [heldOf Ev.tlkPortLost p p none row 0 0 w.dev.now] ∧
    ∀ a, a ≠ A.TLK_STATUS p → (w.cutOff p row).dev.reg a = w.dev.reg a := by
  refine ⟨?_, ?_, ?_, fun a => ?_, ?_, fun a ha => ?_⟩ <;> simp [Work.cutOff, Work.markLost, *]

theorem post_losePort {p row : Nat} {w : Work} (hsnoops : w.dev.home.snoops = []) (hroom : w.dev.hasRoom Ev.tlkPortLost p) :
    M.post (losePort p row) w = M.post (startWalk p) (w.cutOff p row) := by
  have hraise := post_raise_room (inst := p) (dom := none) (detail := row) (countA := 0) (addr := 0) (w := w.markLost p)
    (by decide) (show Dev.hasRoom _ Ev.tlkPortLost p by simpa [Work.markLost, Dev.hasRoom, Dev.holds] using hroom)
  have hends : M.post (endSnoops p) (w.cutOff p row) = w.cutOff p row := by
    obtain ⟨-, hhome, -⟩ := cutOff_keeps w p row
    simp [endSnoops, hhome, hsnoops]
  rw [losePort, post_bind, post_bind, post_bind, post_bind, post_modLink, ← Work.markLost, hraise, ← Work.cutOff, hends]

theorem takesFld_lost : ∀ p < 4, takesFld (A.TLK_STATUS p) F.TLK_STATUS_LOST := by decide +kernel

/-- What the loss of a port leaves. -/
structure PortGone (p row : Nat) (d e : Dev) : Prop where
  now : e.now = d.now
  lost : e.fld (A.TLK_STATUS p) F.TLK_STATUS_LOST = 1
  shows : (e.fld A.HOM_STATUS F.HOM_STATUS_WALK).testBit p = true
  walks : ∃ n, e.home.walks = d.home.walks ++ [(p, n)]
  held : e.evq.held = d.evq.held ++ [heldOf Ev.tlkPortLost p p none row 0 0 d.now]
  poison : ∀ x ∈ d.home.dc, dirDecode x.dir = (2, 2 ^ p) → (e.meta_ x.line).poison = true
  bytes : ∀ a, e.byte a = d.byte a
  links : e.links = d.links.set p { d.link p with lostDue := none }

theorem declareLost_loses {p row : Nat} (hp : p < 4) {w : Work} (hsnoops : w.dev.home.snoops = []) (hwaiting : w.dev.home.waiting = [])
    (hcalm : w.dev.calm) (hroom : w.dev.hasRoom Ev.tlkPortLost p) : PortGone p row w.dev (M.post (declareLost p row) w).dev := by
  obtain ⟨hnow, hhome, hcut, hbytes, hheld, hregs⟩ := cutOff_keeps w p row
  have hwalk := startWalk_begins hp (w := w.cutOff p row) (by rw [hhome]; exact hwaiting)
  have hlinks : (M.post (startWalk p) (w.cutOff p row)).dev.links = w.dev.links.set p { w.dev.link p with lostDue := none } :=
    (hwalk.changes.parts .links (by simp)).trans hcut
  have hcalm' : (M.post (startWalk p) (w.cutOff p row)).dev.calm := by
    refine calm_of_counts hcalm (fun q hq => (hwalk.changes.regs _ ?_).trans (hregs _ ?_)) fun q => ?_
    · simp only [A.TLK_VIOL_CFG, A.HOM_STATUS, markRegs]
      omega
    · simp only [A.TLK_VIOL_CFG, A.TLK_STATUS]
      omega
    · rw [Dev.link_of_set hlinks q]
      split
      · next h => rw [h.1]; exact ⟨rfl, rfl⟩
      · exact ⟨rfl, rfl⟩
  have hpost : M.post (declareLost p row) w = M.post (startWalk p) (w.cutOff p row) := by
    rw [declareLost, post_bind, post_losePort hsnoops hroom]
    exact post_serveAll_idle hwalk.waiting hcalm'
  rw [hpost]
  refine ⟨(hwalk.changes.parts .now (by simp)).trans hnow, ?_, hwalk.shows, hhome ▸ hwalk.walks, ?_, hhome ▸ hwalk.poison,
    fun a => (hwalk.changes.bytes a not_false).trans (hbytes a), hlinks⟩
  · have hsame : (M.post (startWalk p) (w.cutOff p row)).dev.fld (A.TLK_STATUS p) F.TLK_STATUS_LOST =
        (w.cutOff p row).dev.fld (A.TLK_STATUS p) F.TLK_STATUS_LOST := hwalk.changes.fld (by
      simp only [A.TLK_STATUS, A.HOM_STATUS, markRegs]
      omega) _
    rw [hsame]
    exact fld_fset (takesFld_lost p hp) 1 _
  · rw [(hwalk.changes.parts .evq (by simp) : _ = (w.cutOff p row).dev.evq), hheld]

theorem declareLost_logged (p row : Nat) : Emits (fun _ => True) (declareLost p row) :=
  (losePort_aside.mono fun _ _ => trivial).bind fun _ => (serveAll_upholds (x := {}) (seq := 0) (b := 0)).logged

theorem post_lostTimeExpire {p due : Nat} {w : Work} (hdue : (w.dev.link p).lostDue = some due) :
    M.post (lostTimeExpire p) w = M.post (declareLost p 1) (w.add (.now due)) := by
  simp only [lostTimeExpire, post_bind, val_dev, post_dev, hdue, post_passTo]

section
variable {s : State} {p : Fin 4} (hsnoops : s.dev.home.snoops = []) (hwaiting : s.dev.home.waiting = []) (hcalm : s.dev.calm)
  (hroom : s.dev.hasRoom Ev.tlkPortLost p)
include hsnoops hwaiting hcalm hroom

theorem declareLost_completes : Completes (.declareLost p) s fun t => PortGone p 4 s.dev t.dev := by
  have hloses := declareLost_loses (row := 4) (w := ⟨s.dev, []⟩) p.isLt hsnoops hwaiting hcalm hroom
  have hlog := (declareLost_logged p 4).replay_log (d := s.dev) (w := ⟨s.dev, []⟩) rfl
  generalize hw : M.post (declareLost p 4) ⟨s.dev, []⟩ = w at hloses hlog
  exact completes_logged (m := declareLost p 4) rfl hw hlog hloses

theorem lostTimeExpire_completes {due : Nat} (hdue : (s.dev.link p).lostDue = some due) :
    Completes (.lostTimeExpire p) s fun t => PortGone p 1 ((Upd.now due).apply s.dev) t.dev := by
  have hloses := declareLost_loses (row := 1) (w := Work.add ⟨s.dev, []⟩ (.now due)) p.isLt hsnoops hwaiting hcalm hroom
  have hlog := (declareLost_logged p 1).replay_log (d := s.dev) (w := Work.add ⟨s.dev, []⟩ (.now due)) rfl
  have hpost := post_lostTimeExpire (w := ⟨s.dev, []⟩) hdue
  generalize M.post (declareLost p 1) (Work.add ⟨s.dev, []⟩ (.now due)) = w at hloses hlog hpost
  exact completes_logged (m := lostTimeExpire p) rfl hpost hlog hloses

end

/-! ## The statement -/

/-- Settles O28: the window's end, then the loss of a port, declared at once or after LOST_TIME. -/
theorem violationWindowsAndPortLoss : Obligations.ViolationWindowsAndPortLoss := by
  intro s
  dsimp only
  refine ⟨fun port wend hend hcalm => violWindowClose_clears hend hcalm, fun p hsnoops hwaiting hcalm hroom => ⟨?_, fun due hdue => ?_⟩⟩
  · exact (declareLost_completes hsnoops hwaiting hcalm hroom).imp fun t h =>
      ⟨h.now, h.lost, h.shows, h.walks, by rw [h.now]; exact h.held, h.poison, h.bytes⟩
  · have hlt : p < s.dev.links.length := port_lt_of_link fun hnone => by rw [hnone] at hdue; cases hdue
    refine (lostTimeExpire_completes hsnoops hwaiting hcalm hroom hdue).imp fun t h =>
      ⟨h.now, ?_, h.lost, h.shows, h.walks, by rw [h.now]; exact h.held, h.poison, h.bytes⟩
    rw [Dev.link_of_set h.links p, if_pos ⟨rfl, by simpa using hlt⟩]

end Sys2Proof.Machine
end

section
/-! PROOFS. An ingress arbiter takes the one request that waits at it (R321, R331). -/

namespace Sys2Proof.Machine

-- The text is compiled in one process with bounded memory, and each proof elaborated beside the others takes a stack of its own.
set_option Elab.async false

/-! ## What an arbiter notes and a receive buffer holds -/

/-- No request waits for room in the delivery buffer. -/
def Dev.noneToDeliver (d : Dev) : Prop := ∀ x ∈ d.trf.ing, x.fromDrs = true → x.buf = none

/-- From one work to another only what the arbiters note and the receive buffers hold has changed: what waits for egress, the shapers' limits and
the violations counted are the same. -/
structure Arranged (w w' : Work) : Prop where
  dev : ∃ l t, w'.dev = (Upd.trf t).apply ((Upd.links l).apply w.dev)
  classq : w'.dev.trf.classq = w.dev.trf.classq
  shaper : w'.dev.trf.shaper = w.dev.trf.shaper
  limited : w'.dev.trf.limited = w.dev.trf.limited
  counts : ∀ q, (w'.dev.link q).viol = (w.dev.link q).viol ∧ (w'.dev.link q).winEnd = (w.dev.link q).winEnd
  deliver : w.dev.noneToDeliver → w'.dev.noneToDeliver
  logged : ∀ d, Dev.replay d w.log = w.dev → Dev.replay d w'.log = w'.dev

theorem Arranged.refl (w : Work) : Arranged w w where
  dev := ⟨w.dev.links, w.dev.trf, rfl⟩
  classq := rfl
  shaper := rfl
  limited := rfl
  counts _ := ⟨rfl, rfl⟩
  deliver := id
  logged _ := id

theorem Arranged.trans {u v w : Work} (h : Arranged u v) (g : Arranged v w) : Arranged u w where
  dev := by
    obtain ⟨_, _, hv⟩ := h.dev
    obtain ⟨l, t, hw⟩ := g.dev
    exact ⟨l, t, by rw [hw, hv]; rfl⟩
  classq := g.classq.trans h.classq
  shaper := g.shaper.trans h.shaper
  limited := g.limited.trans h.limited
  counts q := ⟨(g.counts q).1.trans (h.counts q).1, (g.counts q).2.trans (h.counts q).2⟩
  deliver := g.deliver ∘ h.deliver
  logged d := g.logged d ∘ h.logged d

/-- A note of an arbiter. -/
theorem Arranged.modTrf {f : TrfSt → TrfSt} {w : Work} (hclassq : (f w.dev.trf).classq = w.dev.trf.classq)
    (hshaper : (f w.dev.trf).shaper = w.dev.trf.shaper) (hlimited : (f w.dev.trf).limited = w.dev.trf.limited)
    (hing : w.dev.noneToDeliver → ∀ x ∈ (f w.dev.trf).ing, x.fromDrs = true → x.buf = none) : Arranged w (M.post (Machine.modTrf f) w) where
  dev := ⟨w.dev.links, f w.dev.trf, rfl⟩
  classq := hclassq
  shaper := hshaper
  limited := hlimited
  counts _ := ⟨rfl, rfl⟩
  deliver := hing
  logged d h := by simp [h]

/-- A receive buffer holds more or less. -/
theorem Arranged.modLink {p : Nat} {f : Link → Link} (hf : ∀ l, (f l).viol = l.viol ∧ (f l).winEnd = l.winEnd) (w : Work) :
    Arranged w (M.post (Machine.modLink p f) w) where
  dev := ⟨w.dev.links.set p (f (w.dev.link p)), w.dev.trf, rfl⟩
  classq := rfl
  shaper := rfl
  limited := rfl
  counts q := by
    rw [post_modLink, Work.add_dev, Dev.link_of_set (d := w.dev) (Upd.links_links _ w.dev)]
    split
    next h => rw [← h.1]; exact hf _
    next => exact ⟨rfl, rfl⟩
  deliver := id
  logged d h := by simp [h]

theorem rxTake_arranged (p vc size : Nat) (w : Work) : Arranged w (M.post (rxTake p vc size) w) :=
  Arranged.modLink (f := fun l => { l with rxUsed := putAt l.rxUsed vc (l.rxUsed.getD vc 0 + size / 16) }) (fun _ => ⟨rfl, rfl⟩) w

theorem rxFree_arranged (p vc size : Nat) (w : Work) : Arranged w (M.post (rxFree p vc size) w) :=
  Arranged.modLink (f := fun l => { l with rxUsed := putAt l.rxUsed vc (l.rxUsed.getD vc 0 - size / 16),
                                           rxOwed := putAt l.rxOwed vc (l.rxOwed.getD vc 0 + size / 16) }) (fun _ => ⟨rfl, rfl⟩) w

/-! ## The deficit round robin of an arbiter finds the class that waits -/

/-- Steps from a position of the ring of classes 1 to 3 to the place of a class. -/
def ringDist (k pos : Nat) : Nat := if pos < 3 then (k + 2 - pos) % 3 else 3

theorem ringDist_le (k pos : Nat) : ringDist k pos ≤ 3 := by
  unfold ringDist
  split <;> omega

theorem ringDist_succ {k pos : Nat} (hk : k ∈ [1, 2, 3]) (h : [1, 2, 3].getD pos 0 ≠ k) : ringDist k ((pos + 1) % 3) + 1 ≤ ringDist k pos := by
  obtain hlt | hge := Nat.lt_or_ge pos 3
  · have hcases : ∀ q < 3, ∀ j ∈ [1, 2, 3], [1, 2, 3].getD q 0 ≠ j → ringDist j ((q + 1) % 3) + 1 ≤ ringDist j q := by decide
    exact hcases pos hlt k hk h
  · have hlt : (pos + 1) % 3 < 3 := Nat.mod_lt _ (by decide)
    simp only [ringDist, if_pos hlt, if_neg (Nat.not_lt.mpr hge)]
    omega

/-- How many steps the round robin has yet to take, at most, until it finds the class `k`, whose head is `sz` bytes long. -/
def drrSteps (dk pk k sz : Nat) (t : TrfSt) : Nat :=
  let lacks := 5 * (sz - tget 0 t.deficit (dk + k))
  if tget 0 t.turn pk = 0 then lacks + ringDist k (tget 0 t.ringPos pk) + 2
  else if tget 0 t.turn pk = k + 1 ∧ sz ≤ tget 0 t.deficit (dk + k) then 1
  else lacks + 6

section
variable {dk pk k sz : Nat} {quantum : Nat → Nat} {head : Nat → Option Nat} {empty : Nat → Bool}
  (hk : k ∈ [1, 2, 3]) (hhead : head k = some sz) (hothers : ∀ c, c ≠ k → head c = none) (hquantum : 1 ≤ quantum k)
include hk hhead hothers hquantum

/-- The round robin comes to the one class with a head: every pass raises the class's deficit, so it fits in the end (R321). -/
theorem drr_finds (n : Nat) (w : Work) (h : drrSteps dk pk k sz w.dev.trf ≤ n) :
    M.val (drr dk pk [1, 2, 3] quantum head empty n) w = some k ∧ Arranged w (M.post (drr dk pk [1, 2, 3] quantum head empty n) w) := by
  induction n generalizing w with
  | zero => simp only [drrSteps] at h; split_ifs at h <;> omega
  | succ n ih =>
    have hnext : ∀ (v : Work) (f : TrfSt → TrfSt), Arranged w v → Arranged v (M.post (modTrf f) v) → drrSteps dk pk k sz (f v.dev.trf) ≤ n →
        M.val (modTrf f >>= fun _ => drr dk pk [1, 2, 3] quantum head empty n) v = some k ∧
        Arranged w (M.post (modTrf f >>= fun _ => drr dk pk [1, 2, 3] quantum head empty n) v) := fun v f hv hstep hsteps => by
      obtain ⟨hval, hrest⟩ := ih (M.post (modTrf f) v) (by simpa using hsteps)
      exact ⟨hval, hv.trans (hstep.trans hrest)⟩
    have hkept : ∀ {c}, c ≠ k → tget 0 (if empty c then tset 0 w.dev.trf.deficit (dk + c) 0 else w.dev.trf.deficit) (dk + k) =
        tget 0 w.dev.trf.deficit (dk + k) := fun {c} hc => by
      have hne : dk + k ≠ dk + c := by omega
      split
      · rw [tget_tset, if_neg hne]
      · rfl
    have hdist := ringDist_le k (tget 0 w.dev.trf.ringPos pk)
    rw [drr, val_bind, post_bind, val_look, post_look]
    split
    next c hturn =>
      by_cases hc : c = k
      · subst hc
        rw [hhead]
        dsimp only
        by_cases hfits : sz ≤ tget 0 w.dev.trf.deficit (dk + c)
        · simp only [if_pos hfits, val_pure, post_pure, true_and]
          exact Arranged.refl w
        · simp only [if_neg hfits]
          refine hnext w _ (Arranged.refl w) (Arranged.modTrf rfl rfl rfl id) ?_
          simp [drrSteps, hturn, hfits] at h ⊢
          omega
      · rw [hothers c hc]
        refine hnext w _ (Arranged.refl w) (Arranged.modTrf rfl rfl rfl id) ?_
        simp [drrSteps, hturn, hc, hkept hc] at h ⊢
        omega
    next hturn =>
      rw [val_bind, post_bind]
      have hmoves := Arranged.modTrf (f := fun t => { t with ringPos := tset 0 t.ringPos pk ((tget 0 w.dev.trf.ringPos pk + 1) % max 1 [1, 2, 3].length) })
        (w := w) rfl rfl rfl id
      obtain ⟨c, hplace⟩ : ∃ c, [1, 2, 3].getD (tget 0 w.dev.trf.ringPos pk) 0 = c := ⟨_, rfl⟩
      rw [hplace]
      by_cases hc : c = k
      · rw [hc, hhead]
        refine hnext _ _ hmoves (Arranged.modTrf rfl rfl rfl id) ?_
        simp [drrSteps, hturn] at h ⊢
        split_ifs <;> omega
      · rw [hothers c hc]
        refine hnext _ _ hmoves (Arranged.modTrf rfl rfl rfl id) ?_
        have hcloser := ringDist_succ hk (hplace.trans_ne hc)
        simp [drrSteps, hturn, hkept hc] at h ⊢
        omega

/-- Where one class alone has a head, the arbiter chooses it. -/
theorem drrPick_finds (w : Work) (hsize : sz ≤ 700) :
    M.val (drrPick dk pk [1, 2, 3] quantum head empty) w = some k ∧ Arranged w (M.post (drrPick dk pk [1, 2, 3] quantum head empty) w) := by
  have hany : ([1, 2, 3].any fun c => (head c).isSome) = true := List.any_eq_true.mpr ⟨k, hk, by rw [hhead]; rfl⟩
  have hdist := ringDist_le k (tget 0 w.dev.trf.ringPos pk)
  have hfuel : drrSteps dk pk k sz w.dev.trf ≤ 4000 := by
    unfold drrSteps
    dsimp only
    split_ifs <;> omega
  rw [drrPick, if_pos hany]
  exact drr_finds hk hhead hothers hquantum 4000 w hfuel

end

/-- What the round robin notes of a message that leaves. -/
theorem drrSent_arranged (dk pk c size : Nat) (head : Nat → Option Nat) (empty : Nat → Bool) (w : Work) :
    Arranged w (M.post (drrSent dk pk c size head empty) w) := by
  have hends : ∀ (go : Bool) (v : Work), Arranged v (M.post (on go (modTrf fun t => { t with
      turn := tset 0 t.turn pk 0, deficit := if empty c then tset 0 t.deficit (dk + c) 0 else t.deficit })) v) := fun go v => by
    cases go with
    | true => exact Arranged.modTrf rfl rfl rfl id
    | false => exact Arranged.refl v
  exact (Arranged.modTrf (f := fun t => { t with deficit := tset 0 t.deficit (dk + c) (tget 0 t.deficit (dk + c) - size) }) rfl rfl rfl id).trans
    (hends _ _)

/-! ## The request that waits alone at an arbiter -/

/-- A request waits alone at the arbiter of its half, and the slices take it now. -/
structure Dev.loneAt (d : Dev) (x : Ing) : Prop where
  alone : (d.trf.ing.filter fun y => y.east == x.east) = [x]
  takes : d.takes x = true

/-- The class in which a request that waits alone is served. -/
def Ing.ownClass (x : Ing) : Nat := servedClass (x, x.rank)

theorem ranked_lone {d : Dev} {x : Ing} (h : d.loneAt x) : ranked x.east d.trf.ing = [(x, x.rank)] := by
  simp [ranked, h.alone]

theorem ingHead_lone {d : Dev} {x : Ing} (h : d.loneAt x) (c : Nat) :
    d.ingHead x.east c = if c = x.ownClass then some (x, x.rank) else none := by
  have hfirst : firstOfSource (ranked x.east d.trf.ing) = [(x, x.rank)] := by simp [ranked_lone h, firstOfSource]
  by_cases hc : c = x.ownClass
  · have hlist : ([(x, x.rank)].filter fun e => servedClass e == c && d.takes e.1) = [(x, x.rank)] := by
      simp [h.takes, hc, Ing.ownClass]
    rw [Dev.ingHead, hfirst, hlist]
    by_cases hyellow : x.rank = 1 <;> simp [hc, hyellow]
  · have hlist : ([(x, x.rank)].filter fun e => servedClass e == c && d.takes e.1) = [] := by
      have hclass : servedClass (x, x.rank) ≠ c := Ne.symm hc
      simp [hclass]
    rw [Dev.ingHead, hfirst, hlist]
    simp [hc]

/-- No request moves into the delivery buffer. -/
theorem post_fillDelivery_idle {w : Work} (h : w.dev.noneToDeliver) : M.post fillDelivery w = w := by
  have hnone : (w.dev.trf.ing.filter fun i => i.fromDrs && i.buf.isSome) = [] := by
    rw [List.filter_eq_nil_iff]
    intro x hx hboth
    obtain ⟨hdrs, hbuf⟩ := (Bool.and_eq_true _ _).mp hboth
    rw [h x hx hdrs] at hbuf
    cases hbuf
  simp only [fillDelivery, post_bind, val_look, post_look, hnone, each_nil, post_pure]

/-! ## An arbiter takes a request, step by step -/

/-- The arbiter chooses a class. -/
def Dev.pickClass (d : Dev) (east : Bool) : M (Option Nat) :=
  drrPick (80 + 3 * b2n east - 1) (16 + b2n east) [1, 2, 3] d.ingQuantum (fun c => (d.ingHead east c).map fun e => e.1.size)
    fun c => !((ranked east d.trf.ing).any fun e => servedClass e == c)

/-- The request that it takes waits no longer. -/
def takeOut (east : Bool) (e : Ing × Nat) : M Unit :=
  modTrf fun t => { t with ing := t.ing.erase e.1,
                           guard := tset 0 t.guard (guardKey east (servedClass e)) (if e.2 = 1 then 0 else tget 0 t.guard (guardKey east (servedClass e)) + 1) }

/-- The round robin notes what it has sent. -/
def Dev.noteTaken (d : Dev) (east : Bool) (e : Ing × Nat) : M Unit :=
  drrSent (80 + 3 * b2n east - 1) (16 + b2n east) (servedClass e) e.1.size (fun c => (d.ingHead east c).map fun e => e.1.size)
    fun c => !((ranked east d.trf.ing).any fun e => servedClass e == c)

/-- The place that a request held in a receive buffer is given up. -/
def freePlace (x : Ing) : M Unit :=
  match x.buf with
  | some b => rxFree b.1 b.2 x.size
  | none => pure ()

theorem freePlace_some {x : Ing} {b : Nat × Nat} (h : x.buf = some b) : freePlace x = rxFree b.1 b.2 x.size := by simp [freePlace, h]
theorem freePlace_none {x : Ing} (h : x.buf = none) : freePlace x = pure () := by simp [freePlace, h]

/-- The arbiter's steps once it has chosen a class with a head. -/
theorem post_ingressTake {east : Bool} {c : Nat} {e : Ing × Nat} {w w₁ w₂ : Work} (hval : M.val (w.dev.pickClass east) w = some c)
    (hhead : w.dev.ingHead east c = some e) (h₁ : M.post (w.dev.pickClass east) w = w₁) (h₂ : M.post (takeOut east e) w₁ = w₂) :
    M.post (ingressTake east) w =
      M.post reserveCredits (M.post (takeIng e.1) (M.post fillDelivery (M.post (freePlace e.1) (M.post (w₂.dev.noteTaken east e) w₂)))) := by
  rw [Dev.pickClass] at hval h₁
  rw [takeOut] at h₂
  rw [ingressTake, post_bind, val_dev, post_dev]
  dsimp only
  rw [post_bind, hval, h₁, Option.bind_some, hhead]
  dsimp only
  rw [post_bind, h₂, post_bind, val_dev, post_dev, post_bind, Dev.noteTaken]
  split
  next hb => rw [freePlace_some hb]; simp only [post_bind]
  next hb => rw [freePlace_none hb]; simp only [post_bind, post_pure]

theorem takeOut_arranged (east : Bool) (e : Ing × Nat) (w : Work) : Arranged w (M.post (takeOut east e) w) :=
  Arranged.modTrf rfl rfl rfl fun h y hy => h y (List.mem_of_mem_erase hy)

theorem noteTaken_arranged (d : Dev) (east : Bool) (e : Ing × Nat) (w : Work) : Arranged w (M.post (d.noteTaken east e) w) := drrSent_arranged ..

theorem freePlace_arranged (x : Ing) (w : Work) : Arranged w (M.post (freePlace x) w) := by
  cases hb : x.buf with
  | some b => rw [freePlace_some hb]; exact rxFree_arranged ..
  | none => rw [freePlace_none hb]; exact Arranged.refl w

theorem ingQuantum_pos (d : Dev) (c : Nat) : 1 ≤ d.ingQuantum c := by
  have hmin : 64 ≤ d.ingQuantum c := Nat.le_max_left ..
  omega

theorem pickClass_lone {x : Ing} {w : Work} (h : w.dev.loneAt x) (hclass : x.ownClass ∈ [1, 2, 3]) (hsize : x.size ≤ 700) :
    M.val (w.dev.pickClass x.east) w = some x.ownClass ∧ Arranged w (M.post (w.dev.pickClass x.east) w) := by
  rw [Dev.pickClass]
  refine drrPick_finds hclass (sz := x.size) ?_ (fun c hc => ?_) (ingQuantum_pos _ _) w hsize
  · rw [ingHead_lone h, if_pos rfl]
    rfl
  · rw [ingHead_lone h, if_neg hc]
    rfl

/-- The arbiter takes the request that waits alone, and only its notes and a receive buffer show it. -/
theorem ingressTake_lone {x : Ing} {w : Work} (h : w.dev.loneAt x) (hclass : x.ownClass ∈ [1, 2, 3]) (hsize : x.size ≤ 700)
    (hdeliver : w.dev.noneToDeliver) :
    ∃ w', Arranged w w' ∧ M.post (ingressTake x.east) w = M.post reserveCredits (M.post (takeIng x) w') := by
  have hhead : w.dev.ingHead x.east x.ownClass = some (x, x.rank) := (ingHead_lone h _).trans (if_pos rfl)
  obtain ⟨hval, hpick⟩ := pickClass_lone h hclass hsize
  have hpost := post_ingressTake hval hhead rfl rfl
  obtain ⟨w₁, hw₁⟩ : ∃ v, M.post (w.dev.pickClass x.east) w = v := ⟨_, rfl⟩
  obtain ⟨w₂, hw₂⟩ : ∃ v, M.post (takeOut x.east (x, x.rank)) w₁ = v := ⟨_, rfl⟩
  have htaken : Arranged w w₂ := (hw₁ ▸ hpick).trans (hw₂ ▸ takeOut_arranged ..)
  rw [hw₁, hw₂] at hpost
  obtain ⟨w₃, hw₃⟩ : ∃ v, M.post (w₂.dev.noteTaken x.east (x, x.rank)) w₂ = v := ⟨_, rfl⟩
  obtain ⟨w₄, hw₄⟩ : ∃ v, M.post (freePlace x) w₃ = v := ⟨_, rfl⟩
  have hnotes := noteTaken_arranged w₂.dev x.east (x, x.rank) w₂
  rw [hw₃] at hnotes
  have hfrees := freePlace_arranged x w₃
  rw [hw₄] at hfrees
  have hfreed := (htaken.trans hnotes).trans hfrees
  rw [hw₃, hw₄, post_fillDelivery_idle (hfreed.deliver hdeliver)] at hpost
  exact ⟨_, hfreed, hpost⟩

end Sys2Proof.Machine
end

section
/-! PROOFS. A request of a host for one line goes from its port through the idle arbiter of its half to the line's home (R227, R272, R331). -/

namespace Sys2Proof.Machine

-- The text is compiled in one process with bounded memory, and each proof elaborated beside the others takes a stack of its own.
set_option Elab.async false

/-! ## The request of one line -/

/-- A message that asks for one thing of one line. -/
structure OneLine (i : TIn) (op : HOp) : Prop where
  type : i.m.type ∈ [0x01, 0x02, 0x03, 0x04, 0x05, 0x06, 0x07, 0x08]
  ops : tlkOps (servedMsg i.m) = [op]
  len : i.m.len ≤ 1
  size : tmsgSize i.m ≤ 700

/-- The line request of a host's message. -/
def Dev.hostReq (d : Dev) (p : Nat) (i : TIn) (op : HOp) (dom : Option Nat) : HReq :=
  ⟨d.home.nextGrp, 0, .tlk p (servedMsg i.m), op, i.m.addr / 64, dom, none⟩

/-- A host's message as it waits at the arbiter of its port's half. -/
def Dev.hostIng (d : Dev) (p : Nat) (i : TIn) (op : HOp) : Ing :=
  let vc1 := hostVc i.m.type == 1
  ⟨portEast p, if vc1 then 8 + p else p, if (servedMsg i.m).bulk && !vc1 then 3 else 1, 0, tmsgSize i.m, vc1, d.now, .tlk p (servedMsg i.m),
    [d.hostReq p i op none], some (p, i.vc)⟩

/-- The slices with the group of a host's message. -/
def HomeSt.openHost (h : HomeSt) (p : Nat) (i : TIn) : HomeSt :=
  { h with nextGrp := h.nextGrp + 1, groups := h.groups ++ [⟨h.nextGrp, .tlk p (servedMsg i.m), 1, []⟩] }

/-- A meter that is off finds every message green, and counts none (R328, R330). -/
theorem meter_off {key : Nat} {w : Work} (h : (w.dev.meterCfg key).1 = 0) (b : Nat) : M.val (meter key b) w = 0 ∧ M.post (meter key b) w = w := by
  have hcolour : M.val (colour key b) w = 0 ∧ M.post (colour key b) w = w := by
    simp only [colour, val_bind, post_bind, val_dev, post_dev, h, if_true, val_pure, post_pure, and_self]
  have hcount : M.post (countColour key 0) w = w := by
    unfold countColour
    split <;> rfl
  simp only [meter, val_bind, post_bind, hcolour, hcount, val_pure, post_pure, and_self]

/-- The arbiters serve three classes, and a host's request is of one of them. -/
theorem ownClass_hostIng (p : Nat) (i : TIn) (op : HOp) (d : Dev) : (d.hostIng p i op).ownClass ∈ [1, 2, 3] := by
  simp only [Ing.ownClass, servedClass, Ing.rank, Dev.hostIng]
  split_ifs <;> simp_all

section
variable {p : Nat} {i : TIn} {op : HOp} (h : OneLine i op)
include h

theorem post_openGroup_host (w : Work) :
    M.val (openGroup (.tlk p (servedMsg i.m)) (tlkOps (servedMsg i.m)) (i.m.addr / 64) none none) w = [w.dev.hostReq p i op none] ∧
    M.post (openGroup (.tlk p (servedMsg i.m)) (tlkOps (servedMsg i.m)) (i.m.addr / 64) none none) w = w.add (.home (w.dev.home.openHost p i)) := by
  rw [h.ops]
  exact ⟨rfl, rfl⟩

/-- A request whose port's meter is off arrives green at the arbiter. -/
theorem post_hostRequest {w : Work} (herrs : i.errs = []) (hmeter : (w.dev.meterCfg p).1 = 0) :
    M.post (hostRequest p i) w = M.post (arrive (w.dev.hostIng p i op)) (w.add (.home (w.dev.home.openHost p i))) := by
  have htype := h.type
  have hsnoop : ((servedMsg i.m).type == 0x10 || (servedMsg i.m).type == 0x11) = false := by
    have hne : ∀ t ∈ [0x01, 0x02, 0x03, 0x04, 0x05, 0x06, 0x07, 0x08], (t == 0x10 || t == 0x11) = false := by decide
    exact hne _ htype
  have hgreen : M.val (meter p (tmsgSize (servedMsg i.m))) w = 0 ∧ M.post (meter p (tmsgSize (servedMsg i.m))) w = w := meter_off hmeter _
  obtain ⟨hval, hpost⟩ := post_openGroup_host (p := p) h w
  have hval' : M.val (openGroup (.tlk p (servedMsg i.m)) (tlkOps (servedMsg i.m)) ((servedMsg i.m).addr / 64) none none) w = _ := hval
  have hpost' : M.post (openGroup (.tlk p (servedMsg i.m)) (tlkOps (servedMsg i.m)) ((servedMsg i.m).addr / 64) none none) w = _ := hpost
  simp only [hostRequest, post_bind, val_now, post_now, hsnoop, Bool.not_false, on_true, herrs, post_plantErrs_none, hgreen, hval', hpost',
    Bool.false_eq_true, if_false, ite_self]
  rfl

end

/-- A request that arrives while none waits at the arbiter of its half is taken at once. -/
theorem post_arrive_alone {x : Ing} {w : Work} (hidle : w.dev.arbiterIdle x.east) (hdrs : x.fromDrs = false) :
    M.post (arrive x) w = M.post (ingressTake x.east) (M.post (modTrf fun t => { t with ing := t.ing ++ [x] }) w) := by
  have halone : (!(w.dev.trf.ing.any fun y => y.east == x.east)) = true := by
    rw [Bool.not_eq_true', List.any_eq_false]
    exact fun y hy => by simpa using (hidle y hy).1
  simp only [arrive, post_bind, val_look, post_look, halone, hdrs, on_true, on_false, post_pure]

/-! ## From the port to the arbiter's choice -/

/-- A request of one line has been taken by the arbiter: its group is open, and the device is otherwise as it was but for its receive buffers and
the arbiter's notes. -/
structure HostTaken (d : Dev) (p : Nat) (i : TIn) (w : Work) : Prop where
  dev : ∃ l t, w.dev = (Upd.home (d.home.openHost p i)).apply ((Upd.trf t).apply ((Upd.links l).apply d))
  classq : w.dev.trf.classq = d.trf.classq
  shaper : w.dev.trf.shaper = d.trf.shaper
  limited : w.dev.trf.limited = d.trf.limited
  counts : ∀ q, (w.dev.link q).viol = (d.link q).viol ∧ (w.dev.link q).winEnd = (d.link q).winEnd
  logged : d.replay w.log = w.dev

/-- The slices take a request of a host where none waits at them (R188, R219, R261). -/
theorem takes_host {d : Dev} (hpower : d.power ≠ 3) (hwaiting : d.home.waiting = []) (hcredits : d.home.credits = []) (e : Dev) (p : Nat) (i : TIn)
    (op : HOp) : d.takes (e.hostIng p i op) = true := by
  have hslices : ∀ s, d.queueUsed s = 0 ∧ d.creditsOut s = 0 := fun s => by
    simp [Dev.queueUsed, Dev.atSlice, Dev.creditsOut, hwaiting, hcredits]
  have hholds : d.portHolds (e.hostIng p i op) = false := by simp [Dev.portHolds, Dev.hostIng, Dev.writePending, hwaiting]
  simp [Dev.takes, hholds, hslices, hpower]

/-- A message of a host over a link that is UP, which is no violation and whose place the arbiter takes over. -/
theorem post_hostMsg_queued {p : Nat} {i : TIn} {w : Work} {act : M Unit} (hup : w.dev.portState p = Ps.up)
    (hvalid : w.dev.tlkViolation p i = none) (hinbox : (w.dev.link p).inbox = []) :
    M.post (hostMsg p i false true act) w = M.post checkTlkPorts (M.post act (M.post (rxTake p i.vc (tmsgSize i.m)) w)) := by
  have hlink : w.dev.linkState p = Ps.up := by simp [Dev.linkState, hup]
  have hawake : (Ps.up == Ps.lowPower) = false := rfl
  simp [hostMsg, hlink, hawake, hup, hvalid, isUpState, takeInbox, hinbox, overrun_of_tlkViolation hvalid]

/-- The arbiter takes the request at once (R331). -/
theorem arrive_taken {d : Dev} {p : Nat} {i : TIn} {op : HOp} {dom : Nat} (h : d.hostServed p i dom) (hline : OneLine i op) {w : Work}
    {l : List Link} (hdev : w.dev = (Upd.links l).apply d)
    (hcounts : ∀ q, (w.dev.link q).viol = (d.link q).viol ∧ (w.dev.link q).winEnd = (d.link q).winEnd) (hlog : d.replay w.log = w.dev) :
    ∃ w', HostTaken d p i w' ∧ M.post (hostRequest p i) w = M.post reserveCredits (M.post (takeTlk (d.hostIng p i op) p (servedMsg i.m)) w') := by
  have htrf : w.dev.trf = d.trf := by rw [hdev]; rfl
  obtain ⟨x, hx⟩ : ∃ x, x = d.hostIng p i op := ⟨_, rfl⟩
  obtain ⟨v, hv⟩ : ∃ v, v = M.post (modTrf fun t => { t with ing := t.ing ++ [x] }) (w.add (.home (w.dev.home.openHost p i))) := ⟨_, rfl⟩
  have hidle : w.dev.arbiterIdle x.east := by rw [Dev.arbiterIdle, htrf, hx]; exact h.idle
  have hingv : v.dev.trf.ing = d.trf.ing ++ [x] := by rw [hv, ← htrf]; rfl
  have hdevv : v.dev = (Upd.home (d.home.openHost p i)).apply ((Upd.trf { d.trf with ing := d.trf.ing ++ [x] }).apply ((Upd.links l).apply d)) := by
    rw [hv, post_modTrf, Work.add_dev, Work.add_dev, hdev]
    rfl
  have hlone : v.dev.loneAt x := by
    refine ⟨?_, ?_⟩
    · have hothers : (d.trf.ing.filter fun y => y.east == x.east) = [] := by
        rw [List.filter_eq_nil_iff, ← htrf]
        exact fun y hy => by simpa using (hidle y hy).1
      simp [hingv, hothers]
    · have hpower : v.dev.power ≠ 3 := by rw [hdevv]; exact h.power
      rw [hx]
      exact takes_host hpower (by rw [hdevv]; exact h.line.waiting) (by rw [hdevv]; exact h.credits) d p i op
  have hdeliver : v.dev.noneToDeliver := by
    intro y hy hdrs
    rw [hingv] at hy
    obtain hy | hy := List.mem_append.mp hy
    · exact (hidle y (htrf ▸ hy)).2 hdrs
    · rw [List.mem_singleton.mp hy, hx] at hdrs
      cases hdrs
  have hreq : w.dev.hostIng p i op = x := by rw [hx, hdev]; rfl
  have hidle' : (w.add (.home (w.dev.home.openHost p i))).dev.arbiterIdle x.east := hidle
  have hpost : M.post (hostRequest p i) w = M.post (ingressTake x.east) v := by
    rw [post_hostRequest hline h.errs (by rw [hdev]; exact h.unmetered), hreq, post_arrive_alone hidle' (by rw [hx]; rfl), hv]
  obtain ⟨w', htaken, htake⟩ := ingressTake_lone hlone (by rw [hx]; exact ownClass_hostIng ..) (by rw [hx]; exact hline.size) hdeliver
  obtain ⟨l', t', hdev'⟩ := htaken.dev
  have hkept : v.dev.trf.classq = d.trf.classq ∧ v.dev.trf.shaper = d.trf.shaper ∧ v.dev.trf.limited = d.trf.limited ∧
      v.dev.links = w.dev.links := by
    rw [hdevv, hdev]
    exact ⟨rfl, rfl, rfl, rfl⟩
  obtain ⟨hclassq, hshaper, hlimited, hlinks⟩ := hkept
  refine ⟨w', ⟨⟨l', t', ?_⟩, ?_, ?_, ?_, fun q => ?_, ?_⟩, ?_⟩
  · rw [hdev', hdevv]
    rfl
  · rw [htaken.classq, hclassq]
  · rw [htaken.shaper, hshaper]
  · rw [htaken.limited, hlimited]
  · have hsame : v.dev.link q = w.dev.link q := by rw [Dev.link, hlinks]; rfl
    rw [(htaken.counts q).1, (htaken.counts q).2, hsame]
    exact hcounts q
  · refine htaken.logged d ?_
    rw [hv]
    simp [hlog]
  · rw [hpost, htake, hx]
    rfl

/-- A message that asks for one thing of one line, from the port to the arbiter's choice. -/
theorem hostRow_taken {d : Dev} {p : Nat} {i : TIn} {op : HOp} {dom : Nat} (h : d.hostServed p i dom) (hline : OneLine i op) :
    ∃ w, HostTaken d p i w ∧ M.post (hostMsg p i false true (hostRequest p i)) ⟨d, []⟩ =
      M.post checkTlkPorts (M.post reserveCredits (M.post (takeTlk (d.hostIng p i op) p (servedMsg i.m)) w)) := by
  have hheard := post_hostMsg_queued (p := p) (i := i) (w := ⟨d, []⟩) (act := hostRequest p i) h.up h.valid h.inbox
  have htakes := rxTake_arranged p i.vc (tmsgSize i.m) ⟨d, []⟩
  have hdev : (M.post (rxTake p i.vc (tmsgSize i.m)) ⟨d, []⟩).dev = _ := congrArg Work.dev (post_modLink ..)
  obtain ⟨v, hv⟩ : ∃ v, M.post (rxTake p i.vc (tmsgSize i.m)) ⟨d, []⟩ = v := ⟨_, rfl⟩
  rw [hv] at hheard htakes hdev
  obtain ⟨w, htaken, hpost⟩ := arrive_taken h hline (hdev.trans (Work.add_dev ..)) htakes.counts (htakes.logged d rfl)
  exact ⟨w, htaken, by rw [hheard, hpost]⟩

/-! ## From the arbiter to the slice -/

section
variable {d : Dev} {p : Nat} {i : TIn} {op : HOp} {dom : Nat} {w : Work} (h : d.hostServed p i dom) (hline : OneLine i op) (htaken : HostTaken d p i w)
include h hline htaken

/-- The port's lease lets the request in for its domain, and it answers no recall (R229, R272). -/
theorem post_forwardTlk_leased :
    M.post (forwardTlk (d.hostIng p i op) p (servedMsg i.m)) w = M.post (submit [d.hostReq p i op (some dom)]) w := by
  obtain ⟨l, t, hdev⟩ := htaken.dev
  have hlease : w.dev.leaseCheck p (servedMsg i.m).addr = .inl dom := by rw [hdev]; exact h.lease
  have hlen : decide (1 < (servedMsg i.m).len) = false := decide_eq_false (Nat.not_lt.mpr hline.len)
  have hsnoops : w.dev.home.snoops = [] := by rw [hdev]; exact h.line.snoops
  have hcrosses : w.dev.crosses p (d.hostReq p i op (some dom)) = false := by simp [Dev.crosses, hsnoops]
  have hreqs : ((d.hostIng p i op).reqs.map fun r => { r with dom := some dom }) = [d.hostReq p i op (some dom)] := rfl
  have hadmit : M.post (admitHost p (d.hostIng p i op) dom) w = M.post (submit [d.hostReq p i op (some dom)]) w := by
    rw [admitHost, post_bind, val_dev, post_dev]
    simp only [hreqs, List.filter_cons, hcrosses, List.filter_nil, Bool.false_eq_true, if_false, each_nil, post_bind, post_pure, Bool.not_false, if_true]
  rw [forwardTlk, post_bind, val_dev, post_dev, hlease]
  simp only [hlen, Bool.false_and, Bool.false_eq_true, if_false, hadmit]

/-- Nothing holds the request back on its way from the arbiter (R218, R220). -/
theorem post_takeTlk_free :
    M.post (takeTlk (d.hostIng p i op) p (servedMsg i.m)) w = M.post (submit [d.hostReq p i op (some dom)]) w := by
  obtain ⟨l, t, hdev⟩ := htaken.dev
  have hsnoop : ¬ ((servedMsg i.m).type = 0x10 ∨ (servedMsg i.m).type = 0x11) := by
    have hne : ∀ t ∈ [0x01, 0x02, 0x03, 0x04, 0x05, 0x06, 0x07, 0x08], ¬ (t = 0x10 ∨ t = 0x11) := by decide
    exact hne _ hline.type
  have hcredit : (servedMsg i.m).credit = none := h.credit
  have hheld : w.dev.fld (A.TLK_STATUS p) F.TLK_STATUS_RETRY_HOLD = 0 := by rw [hdev]; exact h.held
  have hroom : ∀ l : List Nat, l.find? w.dev.ingressFull = none := fun l => by
    have hwaiting : w.dev.home.waiting = [] := by rw [hdev]; exact h.line.waiting
    have hcredits : w.dev.home.credits = [] := by rw [hdev]; exact h.credits
    simp [Dev.ingressFull, Dev.queueUsed, Dev.atSlice, hwaiting, hcredits]
  rw [← post_forwardTlk_leased h hline htaken, takeTlk, if_neg hsnoop]
  split
  · rfl
  · simp only [useCredit, hcredit, Option.bind_none, val_bind, post_bind, val_dev, post_dev, val_pure, post_pure, hheld, hroom]
    rfl

end

end Sys2Proof.Machine
end

section
/-! PROOFS. The slice orders a host's request for a line that nothing stands before (R226, R228). -/

namespace Sys2Proof.Machine

-- The text is compiled in one process with bounded memory, and each proof elaborated beside the others takes a stack of its own.
set_option Elab.async false

/-! ## A request that is ordered at once -/

/-- Once the line's directory state is read, a request has no port to snoop, and room in the directory cache where it takes an entry. -/
structure Dev.orders (d : Dev) (r : HReq) : Prop where
  group : d.groupViolates r = false
  need : d.snoopsFor r = some []
  inv : d.mustClear r = false
  snoops : d.home.snoops.any (·.line == r.line) = false
  room : r.op = .rdS ∨ r.op = .rdO → (d.dcSetOf r.line).length < 16

theorem dcRoom_of_lt {n : Nat} {w : Work} (h : (w.dev.dcSetOf n).length < 16) : M.val (dcRoom n) w = true ∧ M.post (dcRoom n) w = w := by
  have hroom : ((w.dev.dcSetOf n).any (·.line == n) || decide ((w.dev.dcSetOf n).length < 16)) = true := by simp [h]
  simp only [dcRoom, val_bind, post_bind, val_dev, post_dev, hroom, if_true, val_pure, post_pure, and_self]

/-- A request that nothing stands before is ordered at once, whatever it does to its line. -/
theorem tryReq_ordered {r : HReq} {w w₁ w₂ w₃ : Work} {a : HAns} (h : w.dev.clear r) (hdir : M.post (readDir r) w = w₁)
    (h₁ : w₁.dev.orders r) (hread : M.post (readLineOf r) w₁ = w₂) (h₂ : w₂.dev.home.snoops.any (·.line == r.line) = false)
    (happlied : M.val (applyReq r) w₂ = a) (hpost : M.post (applyReq r) w₂ = w₃) :
    M.val (tryReq r) w = some { M.val (foundAnswer r a) w₃ with idx := r.idx } ∧
    M.post (tryReq r) w = M.post (modHome fun h => { h with inv := h.inv.erase (r.who, r.line) }) (M.post (foundAnswer r a) w₃) := by
  have hcheck : M.val (checkAccess (64 * r.line) r.dom r.cls) w = none ∧ M.post (checkAccess (64 * r.line) r.dom r.cls) w = w := by
    simp [checkAccess, h.allowed]
  have hpublished : (r.op.writes && w.dev.published r.line) = false := by
    cases hw : r.op.writes <;> simp [h.writes, hw]
  have htransfer : (r.op.writes && (w.dev.ownRec (regionOf r.line)).st == 1) = false := by
    cases hw : r.op.writes <;> simp [h.writes, hw]
  have hextra : w₁.dev.poisonSnoops r = [] := by simp [Dev.poisonSnoops, h₁.inv]
  have hread' : M.post (on r.op.readsLine (settleRead (some r.who) r.line false)) (M.post (touchLine r.line) w₁) = w₂ := hread
  by_cases hentry : r.op = .rdS ∨ r.op = .rdO
  · obtain ⟨hroom, hroomPost⟩ := dcRoom_of_lt (h₁.room hentry)
    obtain hop | hop := hentry <;> rw [hop] at hpublished htransfer hread' <;> rw [tryReq] <;>
      simp only [val_bind, post_bind, hcheck, val_dev, post_dev, h.snoops, h.serves, h.unrepaired, hpublished, htransfer, hdir, h₁.group, h₁.need,
        h₁.inv, hextra, h₁.snoops, hroom, hroomPost, hread', h₂, happlied, hpost, hop, val_pure, post_pure, on_false, each_nil, Bool.not_true,
        Bool.false_and, Bool.false_eq_true, if_false, if_true, List.filter_nil, and_self]
  · cases hop : r.op with
    | rdS => exact absurd (.inl hop) hentry
    | rdO => exact absurd (.inr hop) hentry
    | _ =>
      rw [hop] at hpublished htransfer hread'
      rw [tryReq]
      simp only [val_bind, post_bind, hcheck, val_dev, post_dev, h.snoops, h.serves, h.unrepaired, hpublished, htransfer, hdir, h₁.group, h₁.need,
        h₁.inv, hextra, h₁.snoops, hread', h₂, happlied, hpost, hop, val_pure, post_pure, on_false, each_nil, Bool.not_true,
        Bool.false_and, Bool.false_eq_true, if_false, List.filter_nil, and_self]

/-! ## What ordering a request touches -/

/-- What ordering a request leaves as it was: all but the store, what the gateway and the stacks note of it, and of the slices' state the directory
cache, the invalidations and the lines found uncorrectable. -/
structure Handled (d e : Dev) : Prop where
  touches : Touches [.store, .home, .fab] touchRegs (fun _ => True) d e
  home : e.home = { d.home with dc := e.home.dc, inv := e.home.inv, found := e.home.found }

theorem Handled.refl (d : Dev) : Handled d d := ⟨(Ordered.refl d).touches, rfl⟩

theorem Handled.trans {d e f : Dev} (h : Handled d e) (g : Handled e f) : Handled d f :=
  ⟨h.touches.trans g.touches, by rw [g.home, h.home]⟩

section
variable {w : Work} {n : Nat}

/-- A meaning that leaves the slices alone. -/
theorem Handled.of_apart {α : Type} {m : M α} {parts : List Part} {regs : Nat → Prop} (hm : Emits (FootMem parts regs) m)
    (hparts : parts ⊆ [.store, .fab]) (hregs : ∀ a, regs a → touchRegs a) (w : Work) : Handled w.dev (M.post m w).dev := by
  have hhome : (M.post m w).dev.home = w.dev.home := (hm.touches_post w).parts .home fun h => by simpa using hparts h
  refine ⟨(hm.mono fun _ hu => hu.imp id fun hu => hu.mono (fun p hp => ?_) hregs).touches_post w, by rw [hhome]⟩
  obtain rfl | rfl : p = .store ∨ p = .fab := by simpa using hparts hp
  · simp
  · simp

/-- What the slices note beside the requests. -/
theorem Handled.modHome {f : HomeSt → HomeSt} (hf : ∀ x, f x = { x with dc := (f x).dc, inv := (f x).inv, found := (f x).found }) (w : Work) :
    Handled w.dev (M.post (Machine.modHome f) w).dev :=
  ⟨(Emits.footMem (Emits.mono (Emits.modHome (parts := [.home]) (regs := touchRegs) (by simp)) fun _ hu => hu.mono (by simp) fun _ => id)).touches_post w,
    hf w.dev.home⟩

theorem touchLine_handled (n : Nat) (w : Work) : Handled w.dev (M.post (touchLine n) w).dev :=
  Handled.of_apart (touchLine_emits n).footMem (by simp) (fun _ => id) w

theorem readLine_handled (n : Nat) (w : Work) : Handled w.dev (M.post (readLine n) w).dev :=
  Handled.of_apart (m := countRind false n) (countRind_emits false n).footMem (by simp) (fun _ => id) w

theorem putLine_handled (n : Nat) (v : Line) (w : Work) : Handled w.dev (M.post (putLine n v 0) w).dev :=
  Handled.of_apart (putLine_emits n v 0 rfl) (by simp) (fun _ => id) w

theorem markDirty_handled (n : Nat) (w : Work) : Handled w.dev (M.post (markDirty n) w).dev :=
  Handled.of_apart (markDirty_emits n).footMem (by simp) (fun _ h => h.elim) w

theorem writeDir_handled (n st ports : Nat) (w : Work) : Handled w.dev (M.post (writeDir n st ports) w).dev where
  touches := ((writeDir_emits n st ports).footMem.mono fun _ hu => hu.imp id fun hu => hu.mono (by simp) fun _ h => h.elim).touches_post w
  home := by rw [(writeDir_walks n st ports w).home]

theorem writeDone_handled (r : HReq) (mask : BitVec 64) (v : Line) (w : Work) : Handled w.dev (writeDone r mask v w).dev :=
  (putLine_handled ..).trans ((markDirty_handled ..).trans (writeDir_handled ..))

end

/-! ## The directory state of a line -/

/-- From one device to another no line's directory state has changed, nor a byte. -/
structure SameLines (d e : Dev) : Prop where
  handled : Handled d e
  dc : e.home.dc = d.home.dc
  lines : e.store.lines = d.store.lines
  bytes : ∀ a, e.byte a = d.byte a

theorem SameLines.refl (d : Dev) : SameLines d d := ⟨Handled.refl d, rfl, rfl, fun _ => rfl⟩

theorem SameLines.trans {d e f : Dev} (h : SameLines d e) (g : SameLines e f) : SameLines d f :=
  ⟨h.handled.trans g.handled, g.dc.trans h.dc, g.lines.trans h.lines, fun a => (g.bytes a).trans (h.bytes a)⟩

theorem SameLines.dirOf {d e : Dev} (h : SameLines d e) (n : Nat) : e.dirOf n = d.dirOf n := by simp only [Dev.dirOf, Dev.meta_, h.dc, h.lines]

theorem touchLine_same (n : Nat) (w : Work) : SameLines w.dev (M.post (touchLine n) w).dev where
  handled := touchLine_handled n w
  dc := (touchLine_keeps n w).dc
  lines := (touchLine_keeps n w).lines
  bytes := byte_touchLine n w

theorem readLine_same (n : Nat) (w : Work) : SameLines w.dev (M.post (readLine n) w).dev := by
  have hreads : Reading [] (readRegs n) w.dev (M.post (readLine n) w).dev := (readLine_reads (.inl (by simp))).keeps w (Reading.refl ..)
  exact ⟨readLine_handled n w, hreads.dc, hreads.lines, fun a => hreads.changes.bytes a not_false⟩

theorem modHome_same {f : HomeSt → HomeSt} (hf : ∀ x, f x = { x with inv := (f x).inv, found := (f x).found }) (w : Work) :
    SameLines w.dev (M.post (modHome f) w).dev where
  handled := Handled.modHome (fun x => by rw [hf x]) w
  dc := by rw [post_modHome, Work.add_dev, Upd.home_home, hf]
  lines := rfl
  bytes _ := rfl

theorem readDir_same {r : HReq} {w : Work} (h : w.dev.errsAt r.line = []) : SameLines w.dev (M.post (readDir r) w).dev := by
  rw [post_readDir]
  split
  · exact SameLines.refl _
  · rw [post_settleRead_touched h]
    exact touchLine_same ..

theorem foundAnswer_same (r : HReq) (a : HAns) (w : Work) : SameLines w.dev (M.post (foundAnswer r a) w).dev := by
  simp only [foundAnswer, post_bind, val_dev, post_dev, post_ite]
  split
  · exact modHome_same (f := fun h => { h with found := h.found.erase (r.who, r.line) }) (fun _ => rfl) w
  · exact SameLines.refl _

theorem dirDecode_dirWord : ∀ st < 3, ∀ p < 4, dirDecode (dirWord st (2 ^ p)) = (st, 2 ^ p) := by decide

/-- The directory state that is written is read again (R223). -/
theorem dirOf_writeDir {n st p : Nat} {w : Work} (hst : st = 1 ∨ st = 2) (hp : p < 4) (hroom : st = 1 → (w.dev.dcSetOf n).length < 16) :
    (M.post (writeDir n st (2 ^ p)) w).dev.dirOf n = (st, 2 ^ p) := by
  have hnone : ¬ (st = 0 ∨ 2 ^ p = 0) := by
    have hpow := Nat.two_pow_pos p
    omega
  have hcached : ¬ (st = 1 ∧ ¬ (w.dev.home.dc.any (·.line == n)) ∧ 16 ≤ (w.dev.dcSetOf n).length) := fun ⟨hs, _, hfull⟩ =>
    Nat.not_lt.mpr hfull (hroom hs)
  have hread := dirDecode_dirWord st (by omega) p hp
  rw [writeDir, post_bind, val_dev, post_dev, if_neg hnone, if_neg hcached]
  simpa [Dev.dirOf] using hread

theorem dirOf_writeDir_invalid (n : Nat) (w : Work) : (M.post (writeDir n 0 0) w).dev.dirOf n = (0, 0) := by
  have hnone : (w.dev.home.dc.filter fun e => e.line != n).find? (·.line == n) = none := by simp
  rw [post_writeDir_invalid]
  simp [setDir, Dev.dirOf, hnone, Dev.meta_, dirDecode]

/-! ## The effect of a request -/

/-- A line is stored, or no byte changes. -/
def Leaves (n : Nat) (v : Option Line) (d e : Dev) : Prop :=
  match v with
  | none => ∀ a, e.byte a = d.byte a
  | some v => Stores n v d e

theorem Leaves.of_bytes {n : Nat} {v : Option Line} {d d' e e' : Dev} (h : Leaves n v d e) (hd : ∀ a, d.byte a = d'.byte a)
    (he : ∀ a, e'.byte a = e.byte a) : Leaves n v d' e' := by
  cases v with
  | none => exact fun a => ((he a).trans (h a)).trans (hd a)
  | some v => exact Stores.of_bytes h hd he

/-- A request has been ordered: the line's directory state is as given, and the line is stored or no byte changes. -/
structure HostEffect (n : Nat) (dir : Nat × Nat) (v : Option Line) (d e : Dev) : Prop where
  handled : Handled d e
  dir : e.dirOf n = dir
  bytes : Leaves n v d e

section
variable {n : Nat} {dir : Nat × Nat} {v : Option Line} {d e f : Dev}

theorem HostEffect.before (h : HostEffect n dir v e f) (g : SameLines d e) : HostEffect n dir v d f :=
  ⟨g.handled.trans h.handled, h.dir, h.bytes.of_bytes g.bytes fun _ => rfl⟩

theorem HostEffect.after (h : HostEffect n dir v d e) (g : SameLines e f) : HostEffect n dir v d f :=
  ⟨h.handled.trans g.handled, (g.dirOf n).trans h.dir, h.bytes.of_bytes (fun _ => rfl) g.bytes⟩

end

/-- Nothing stands between a line and a request for it, whoever holds the line (R217, R226). -/
structure Dev.atRest (d : Dev) (n : Nat) : Prop where
  serves : d.stackServes (stackOf (64 * n)) = true
  unrepaired : d.repairing (64 * n) = false
  snoops : d.home.snoops = []
  errs : d.errsAt n = []
  sound : (d.meta_ n).poison = false
  unpublished : d.published n = false
  atHome : (d.ownRec (regionOf n)).st ≠ 1

section
variable {d e : Dev} {n : Nat}

theorem Dev.lineFree.atRest (h : d.lineFree n) : d.atRest n :=
  ⟨h.serves, h.unrepaired, h.snoops, h.errs, h.sound, h.unpublished, h.atHome⟩

theorem Dev.atRest.steady (h : d.atRest n) (hs : Steady d e) : e.atRest n where
  serves := hs.serves _ (stackOf_lt _) h.serves
  unrepaired := by simpa only [Dev.repairing, hs.repairs] using h.unrepaired
  snoops := hs.snoops.trans h.snoops
  errs := hs.errs n h.errs
  sound := hs.sound n h.sound
  unpublished := by
    have hpub := h.unpublished
    simp only [Dev.published, Bool.or_eq_false_iff, publishedRegion_steady hs] at hpub ⊢
    exact ⟨hpub.1, hs.publishing _ hpub.2⟩
  atHome := by simpa only [Dev.ownRec, hs.recs] using h.atHome

theorem Dev.atRest.notFailed (h : d.atRest n) : d.stackFailed (stackOf (64 * n)) = false := by
  have hserves := h.serves
  simp only [Dev.stackServes, Bool.or_eq_true, beq_iff_eq] at hserves
  obtain h | h := hserves <;> simp [Dev.stackFailed, h]

theorem Dev.atRest.poisonOf (h : d.atRest n) : d.poisonOf n = 0 := by simp [Dev.poisonOf, h.notFailed, h.sound]

theorem Dev.atRest.writable (h : d.atRest n) {dom cls : Option Nat} (hallowed : d.refusal (64 * n) dom cls = none) (hdir : d.dirOf n = (0, 0)) :
    d.writable n dom cls :=
  ⟨hallowed, h.serves, h.unrepaired, h.snoops, h.errs, h.sound, h.unpublished, h.atHome, hdir⟩

end

section
variable {w : Work} {r : HReq} {p : Nat} {m : TMsg}

theorem val_readLine (h : w.dev.atRest r.line) : M.val (readLine r.line) w = { idx := 0, data := w.dev.line r.line } := by
  have hrest := h.steady (countRind_steady false r.line w)
  have hbytes : ∀ a, (M.post (countRind false r.line) w).dev.byte a = w.dev.byte a := (readLine_same r.line w).bytes
  simp only [readLine, val_bind, val_dev, post_dev, hrest.poisonOf, val_pure, line_of_bytes hbytes]
  rfl

theorem writeDir_effect {n st : Nat} (hst : st = 1 ∨ st = 2) (hp : p < 4) (hroom : (w.dev.dcSetOf n).length < 16) :
    HostEffect n (st, 2 ^ p) none w.dev (M.post (writeDir n st (2 ^ p)) w).dev :=
  ⟨writeDir_handled .., dirOf_writeDir hst hp fun _ => hroom, fun a => ((writeDir_emits n st (2 ^ p)).changes_post (Changes.refl ..)).bytes a not_false⟩

theorem writeDir_invalid_effect (n : Nat) (w : Work) : HostEffect n (0, 0) none w.dev (M.post (writeDir n 0 0) w).dev :=
  ⟨writeDir_handled .., dirOf_writeDir_invalid .., fun a => ((writeDir_emits n 0 0).changes_post (Changes.refl ..)).bytes a not_false⟩

theorem SameLines.dcSetOf {d e : Dev} (h : SameLines d e) (n : Nat) : e.dcSetOf n = d.dcSetOf n := by rw [Dev.dcSetOf, h.dc]; rfl

/-- A host takes a Shared copy (R228). -/
theorem applyReq_rdS (h : w.dev.atRest r.line) (hop : r.op = .rdS) (hport : r.src.port = some p) (hp : p < 4)
    (hdir : w.dev.dirOf r.line = (0, 0)) (hroom : (w.dev.dcSetOf r.line).length < 16) :
    M.val (applyReq r) w = { idx := 0, shared := true, data := w.dev.line r.line } ∧
    HostEffect r.line (1, 2 ^ p) none w.dev (M.post (applyReq r) w).dev := by
  have hread := readLine_same r.line w
  have hrun : M.val (applyReq r) w = { M.val (readLine r.line) w with shared := true } ∧
      M.post (applyReq r) w = M.post (writeDir r.line 1 (2 ^ p)) (M.post (readLine r.line) w) := by
    simp only [applyReq, val_bind, post_bind, val_dev, post_dev, hop, hport, hdir]
    exact ⟨rfl, rfl⟩
  obtain ⟨hval, hpost⟩ := hrun
  rw [hval, hpost, val_readLine h]
  exact ⟨rfl, (writeDir_effect (.inl rfl) hp (by rw [hread.dcSetOf]; exact hroom)).before hread⟩

/-- A host takes the line Owned (R228). -/
theorem applyReq_rdO (h : w.dev.atRest r.line) (hop : r.op = .rdO) (hport : r.src.port = some p) (hp : p < 4)
    (hroom : (w.dev.dcSetOf r.line).length < 16) :
    M.val (applyReq r) w = { idx := 0, data := w.dev.line r.line } ∧ HostEffect r.line (2, 2 ^ p) none w.dev (M.post (applyReq r) w).dev := by
  have hread := readLine_same r.line w
  have hrun : M.val (applyReq r) w = { idx := 0, data := w.dev.line r.line } ∧
      M.post (applyReq r) w = M.post (writeDir r.line 2 (2 ^ p)) (M.post (readLine r.line) w) := by
    simp only [applyReq, val_bind, post_bind, val_dev, post_dev, hop, hport, val_readLine h, h.unpublished, Bool.false_or, Bool.false_eq_true, if_false]
    exact ⟨rfl, rfl⟩
  obtain ⟨hval, hpost⟩ := hrun
  rw [hval, hpost]
  exact ⟨rfl, (writeDir_effect (.inr rfl) hp (by rw [hread.dcSetOf]; exact hroom)).before hread⟩

/-- A host reads a line that no host holds, and takes no copy (R228). -/
theorem applyReq_rdU {tracked : Bool} (h : w.dev.atRest r.line) (hop : r.op = .rdU tracked) (hdir : w.dev.dirOf r.line = (0, 0)) :
    M.val (applyReq r) w = { idx := 0, data := w.dev.line r.line } ∧ HostEffect r.line (0, 0) none w.dev (M.post (applyReq r) w).dev := by
  have hread := readLine_same r.line w
  have hkept : ∀ m, M.post (on (tracked && (0 : Nat) == 2) m) w = w := fun m => by rw [post_on]; cases tracked <;> rfl
  have hrun : M.val (applyReq r) w = M.val (readLine r.line) w ∧ M.post (applyReq r) w = M.post (readLine r.line) w := by
    simp only [applyReq, val_bind, post_bind, val_dev, post_dev, hop, hdir, hkept, and_self]
  obtain ⟨hval, hpost⟩ := hrun
  rw [hval, hpost, val_readLine h]
  exact ⟨rfl, hread.handled, (hread.dirOf _).trans hdir, hread.bytes⟩

/-- What a write of a line leaves (R105, R228). -/
theorem writeDone_effect {mask : BitVec 64} {v : Line} (h : 64 * r.line < storeEnd) :
    HostEffect r.line (0, 0) (some (mergeLine (w.dev.line r.line) v mask)) w.dev (writeDone r mask v w).dev := by
  refine ⟨writeDone_handled .., dirOf_writeDir_invalid .., fun k hk => ?_, fun a ha => ?_⟩
  · have hdiv : (64 * r.line + k) / 64 = r.line := by omega
    have hmod : (64 * r.line + k) % 64 = k := by omega
    rw [byte_writeDone h, byteOf_mergeLine _ _ _ hk, byteOf_line _ _ hk, hdiv, hmod]
    simp
  · rw [byte_writeDone h, if_neg fun hline => ha hline.1.symm]

theorem writeDone_effect_whole {v : Line} (h : 64 * r.line < storeEnd) :
    HostEffect r.line (0, 0) (some v) w.dev (writeDone r (BitVec.allOnes 64) v w).dev :=
  ⟨writeDone_handled .., dirOf_writeDir_invalid .., stores_writeDone h⟩

/-- A host gives its modified line back (R228). -/
theorem applyReq_wb {v : Line} (h : w.dev.atRest r.line) (hop : r.op = .wb v) :
    M.val (applyReq r) w = { idx := 0 } ∧ M.post (applyReq r) w = writeDone r (BitVec.allOnes 64) v w := by
  have hcond : ¬ (w.dev.stackFailed (stackOf (64 * r.line)) = true) := by rw [h.notFailed]; exact Bool.false_ne_true
  simp only [applyReq, val_bind, post_bind, val_dev, post_dev, hop, writeLine, if_neg hcond, if_true, val_pure, post_pure, writeDone, and_self]

/-- A host gives up its clean line (R228). -/
theorem applyReq_evict (hop : r.op = .evict) (hport : r.src.port = some p) (hdir : w.dev.dirOf r.line = (2, 2 ^ p)) :
    M.val (applyReq r) w = { idx := 0 } ∧ HostEffect r.line (0, 0) none w.dev (M.post (applyReq r) w).dev := by
  have hrun : M.val (applyReq r) w = { idx := 0 } ∧ M.post (applyReq r) w = M.post (writeDir r.line 0 0) w := by
    simp only [applyReq, val_bind, post_bind, val_dev, post_dev, hop, hport, hdir, beq_self_eq_true, Bool.and_self, on_true]
    exact ⟨rfl, rfl⟩
  obtain ⟨hval, hpost⟩ := hrun
  rw [hval, hpost]
  exact ⟨rfl, writeDir_invalid_effect ..⟩

theorem val_applyReq_atom {off op size : Nat} {a b : BitVec 128} (h : w.dev.atRest r.line) (hop : r.op = .atom off op size a b) :
    M.val (applyReq r) w = { idx := 0, data := BitVec.ofNat 512 (le (w.dev.line r.line) off (2 ^ size)) } := by
  have hsound : ¬ (w.dev.poisonOf r.line ≠ 0) := by rw [h.poisonOf]; exact not_not_intro rfl
  simp only [applyReq, val_bind, val_dev, post_dev, hop, atomLine, if_neg hsound, val_pure]

end

/-! ## The slice's answer -/

section
variable {d : Dev} {r : HReq} {p : Nat} {m : TMsg}

/-- A host's request for one line needs no snoop of a line that no host holds. -/
theorem snoopsFor_unheld (hsrc : r.src = .tlk p m) (hwb : ∀ v, r.op ≠ .wb v) (hdir : d.dirOf r.line = (0, 0)) : d.snoopsFor r = some [] := by
  cases hbulk : m.bulk <;> cases hop : r.op <;> simp_all [Dev.snoopsFor, Src.port]

/-- Nor does the owner's own write-back or eviction. -/
theorem snoopsFor_owner (hport : r.src.port = some p) (hop : (∃ v, r.op = .wb v) ∨ r.op = .evict) (hdir : d.dirOf r.line = (2, 2 ^ p)) :
    d.snoopsFor r = some [] := by
  obtain ⟨v, hop⟩ | hop := hop <;> simp [Dev.snoopsFor, hop, hport, hdir]

theorem orders_of_atRest (h : d.atRest r.line) (hsrc : r.src = .tlk p m) (hlen : m.len ≤ 1) (hneed : d.snoopsFor r = some [])
    (hroom : r.op = .rdS ∨ r.op = .rdO → (d.dcSetOf r.line).length < 16) : d.orders r where
  group := by simp [Dev.groupViolates, hsrc, Nat.not_lt.mpr hlen]
  need := hneed
  inv := by simp [Dev.mustClear, h.sound]
  snoops := by simp [h.snoops]
  room := hroom

end

/-- What a host's request meets at its slice: its access is allowed, its line at rest, no snoop needed, and room where it takes an entry. -/
structure HostMeets (d : Dev) (p : Nat) (m : TMsg) (r : HReq) : Prop where
  src : r.src = .tlk p m
  len : m.len ≤ 1
  allowed : d.refusal (64 * r.line) r.dom r.cls = none
  rest : d.atRest r.line
  need : ∀ e : Dev, e.dirOf r.line = d.dirOf r.line → e.snoopsFor r = some []
  room : r.op = .rdS ∨ r.op = .rdO → (d.dcSetOf r.line).length < 16

/-- A host's request is ordered at once, where its effect is known: the slice answers it, and what it notes of it changes nothing else. -/
theorem tryReq_host {p : Nat} {m : TMsg} {r : HReq} {w : Work} {a : HAns} {dir : Nat × Nat} {v : Option Line} (h : HostMeets w.dev p m r)
    (hdetail : a.detail = 0)
    (happly : ∀ w' : Work, SameLines w.dev w'.dev → Steady w.dev w'.dev →
      M.val (applyReq r) w' = a ∧ HostEffect r.line dir v w'.dev (M.post (applyReq r) w').dev) :
    M.val (tryReq r) w = some { a with idx := r.idx } ∧ HostEffect r.line dir v w.dev (M.post (tryReq r) w).dev := by
  have hclear : w.dev.clear r := ⟨h.allowed, h.rest.serves, h.rest.unrepaired, by simp [h.rest.snoops], fun _ => ⟨h.rest.unpublished, h.rest.atHome⟩⟩
  obtain ⟨w₁, hw₁⟩ : ∃ x, M.post (readDir r) w = x := ⟨_, rfl⟩
  obtain ⟨w₂, hw₂⟩ : ∃ x, M.post (touchLine r.line) w₁ = x := ⟨_, rfl⟩
  have hsame₁ : SameLines w.dev w₁.dev := hw₁ ▸ readDir_same h.rest.errs
  have hsteady₁ : Steady w.dev w₁.dev := hw₁ ▸ (readDir_ordered h.rest.errs).1.steady
  have hsame₂ : SameLines w₁.dev w₂.dev := hw₂ ▸ touchLine_same r.line w₁
  have hsteady₂ : Steady w₁.dev w₂.dev := hw₂ ▸ touchLine_steady r.line w₁
  have hrest₁ := h.rest.steady hsteady₁
  have hrest₂ := hrest₁.steady hsteady₂
  have hread : M.post (readLineOf r) w₁ = w₂ := by
    simp only [readLineOf, post_bind, hw₂, post_on, post_settleRead_sound hrest₂.errs, ite_self]
  have horders := orders_of_atRest hrest₁ h.src h.len (h.need _ (hsame₁.dirOf _)) fun hop => by rw [hsame₁.dcSetOf]; exact h.room hop
  obtain ⟨happlied, heffect⟩ := happly w₂ (hsame₁.trans hsame₂) (hsteady₁.trans hsteady₂)
  obtain ⟨w₃, hw₃⟩ : ∃ x, M.post (applyReq r) w₂ = x := ⟨_, rfl⟩
  obtain ⟨w₄, hw₄⟩ : ∃ x, M.post (foundAnswer r a) w₃ = x := ⟨_, rfl⟩
  obtain ⟨hval, hpost⟩ := tryReq_ordered hclear hw₁ horders hread (by simp [hrest₂.snoops]) happlied hw₃
  have hfound : SameLines w₃.dev w₄.dev := hw₄ ▸ foundAnswer_same r a w₃
  have hinv := modHome_same (f := fun h => { h with inv := h.inv.erase (r.who, r.line) }) (fun _ => rfl) w₄
  rw [hval, hpost, val_foundAnswer hdetail, hw₄]
  rw [hw₃] at heffect
  exact ⟨rfl, ((heffect.before (hsame₁.trans hsame₂)).after hfound).after hinv⟩

end Sys2Proof.Machine
end

section
/-! PROOFS. The answer of a host's request leaves the slice and waits for egress (R227, R319, R323 to R325). -/

namespace Sys2Proof.Machine

-- The text is compiled in one process with bounded memory, and each proof elaborated beside the others takes a stack of its own.
set_option Elab.async false

/-! ## A message enters the egress queues through the shaper of its domain -/

/-- Whether a message may leave the shaper of its domain now: it carries no data, or its domain is not limited or has tokens left (R324, R325). -/
def Dev.mayLeave (d : Dev) (n : Nat) (x : Egr) : Bool := !(x.msg.carriesData && d.trf.limited.contains n && decide (d.tokens n ≤ 0))

theorem rrPick_single {α : Type} (key : α → Nat) (k : Nat) (x : α) : rrPick key k [x] = some x := by
  by_cases h : k ≤ key x <;> simp [rrPick_eq, h, lesser]

theorem rrPick_nil {α : Type} (key : α → Nat) (k : Nat) : rrPick key k ([] : List α) = none := by simp [rrPick_eq]

/-- A message comes alone to the shaper of its domain. -/
structure LoneAtShaper (d : Dev) (l : List Egr) (n : Nat) (x : Egr) : Prop where
  shaper : d.trf.shaper = l ++ [x]
  dom : x.dom = some n
  others : ∀ y ∈ l, y.dom ≠ some n
  unheld : x.held = false
  tick : x.tick = d.now

section
variable {w : Work} {l : List Egr} {n : Nat} {x : Egr} (h : LoneAtShaper w.dev l n x)
include h

theorem LoneAtShaper.filter : (w.dev.trf.shaper.filter fun e => e.dom == some n) = [x] := by
  have hnone : (l.filter fun e => e.dom == some n) = [] := by
    rw [List.filter_eq_nil_iff]
    exact fun y hy => by simpa using h.others y hy
  simp [h.shaper, hnone, h.dom]

theorem LoneAtShaper.not_mem : x ∉ l := fun hx => h.others x hx h.dom

theorem LoneAtShaper.picked (b : Bool) (f : Egr → Bool) (hf : f x = b) (k : Nat) :
    rrPick Egr.shaperKey k ((w.dev.trf.shaperHeads n).filter f) = if b then some x else none := by
  have hheads : w.dev.trf.shaperHeads n = [x] := by simp [TrfSt.shaperHeads, h.filter]
  cases b with
  | true => simp [hheads, hf, rrPick_single]
  | false => simp [hheads, hf, rrPick_nil]

/-- The shaper lets a message leave that may. -/
theorem shape_leaves (hmay : w.dev.mayLeave n x = true) :
    (M.post (shape n 1) w).dev.trf.classq = w.dev.trf.classq ++ [x] ∧ (M.post (shape n 1) w).dev.trf.shaper = l := by
  have hpick := h.picked true (fun e => !e.msg.carriesData || !(w.dev.trf.limited.contains n) || decide (0 < w.dev.tokens n)) (by
    simp only [Dev.mayLeave] at hmay
    revert hmay
    cases x.msg.carriesData <;> cases w.dev.trf.limited.contains n <;> simp)
    (tget 0 w.dev.trf.rr (shaperRr n))
  have herase : (l ++ [x]).erase x = l := by rw [List.erase_append_right _ h.not_mem]; simp
  have hsame : ({ x with tick := w.dev.now } : Egr) = x := by rw [← h.tick]
  rw [shape, post_bind, val_dev, post_dev]
  simp only [hpick, if_true, post_bind, shape, post_pure, post_modTrf, Work.add_dev, Upd.trf_trf, hsame]
  have htrf : (M.post (on x.msg.carriesData (setTokens n (w.dev.tokens n - x.msg.size))) w).dev.trf = w.dev.trf := by
    rw [post_on]
    split <;> simp [setTokens]
  simp [htrf, h.shaper, herase]

/-- The shaper holds a message that may not, and marks it so. -/
theorem shape_holds (hmay : w.dev.mayLeave n x = false) :
    (M.post (shape n 1) w).dev.trf.classq = w.dev.trf.classq ∧ (M.post (shape n 1) w).dev.trf.shaper = l ++ [{ x with held := true }] := by
  have hpick := h.picked false (fun e => !e.msg.carriesData || !(w.dev.trf.limited.contains n) || decide (0 < w.dev.tokens n)) (by
    simp only [Dev.mayLeave] at hmay
    revert hmay
    cases x.msg.carriesData <;> cases w.dev.trf.limited.contains n <;> simp)
    (tget 0 w.dev.trf.rr (shaperRr n))
  have hheads : w.dev.trf.shaperHeads n = [x] := by simp [TrfSt.shaperHeads, h.filter]
  have hmark : (l.map fun y => if y = x then { y with held := true } else y) = l := by
    refine (List.map_congr_left fun y hy => ?_).trans (List.map_id l)
    have hne : y ≠ x := fun heq => h.not_mem (heq ▸ hy)
    simp [hne]
  rw [shape, post_bind, val_dev, post_dev]
  simp only [hpick]
  simp [hheads, h.unheld, h.shaper, hmark]

end

/-- A message put into the egress queues now waits for egress there (R323 to R325). -/
theorem enqueue_queues {x : Egr} {w : Work} (hheld : x.held = false) (htick : x.tick = w.dev.now) :
    Queued x w.dev (M.post (enqueue x.port x.cls x.vc x.dom x.msg) w).dev := by
  have hself : (⟨x.port, x.cls, x.vc, x.dom, false, w.dev.now, x.msg⟩ : Egr) = x := by rw [← hheld, ← htick]
  refine ⟨fun hnone => ?_, fun n hn hothers => ?_⟩
  · have hpost : M.post (enqueue x.port x.cls x.vc x.dom x.msg) w = w.add (.trf { w.dev.trf with classq := w.dev.trf.classq ++ [x] }) := by
      simp only [enqueue, post_bind, val_now, post_now, hself]
      rw [hnone]
      rfl
    rw [hpost]
    exact ⟨rfl, rfl⟩
  · have hdom : x.dom = some n := by simpa using hn
    obtain ⟨v, hv⟩ : ∃ v, w.add (.trf { w.dev.trf with shaper := w.dev.trf.shaper ++ [x] }) = v := ⟨_, rfl⟩
    have hkept : v.dev.trf.classq = w.dev.trf.classq ∧ v.dev.mayLeave n x = w.dev.mayLeave n x := by
      rw [← hv]
      exact ⟨rfl, rfl⟩
    obtain ⟨hclassq, hmay⟩ := hkept
    have hlone : LoneAtShaper v.dev w.dev.trf.shaper n x := by
      rw [← hv]
      exact ⟨rfl, hdom, hothers, hheld, htick⟩
    have hpost : M.post (enqueue x.port x.cls x.vc x.dom x.msg) w = M.post (shape n 1) v := by
      have hcount : (v.dev.trf.shaper.filter fun e => e.dom == some n).length = 1 := by rw [hlone.filter]; rfl
      simp only [enqueue, post_bind, val_now, post_now, hself]
      rw [hdom]
      simp only [post_bind, post_modTrf, hv, val_look, post_look, hcount]
    rw [hpost]
    split
    next hstays =>
      have hmay' : v.dev.mayLeave n x = false := by rw [hmay, Dev.mayLeave, hstays]; rfl
      rw [← hclassq]
      exact shape_holds hlone hmay'
    next hleaves =>
      have hmay' : v.dev.mayLeave n x = true := by rw [hmay, Dev.mayLeave, Bool.eq_false_of_not_eq_true hleaves]; rfl
      rw [← hclassq]
      exact shape_leaves hlone hmay'

/-- A message that the device sends to a host waits for egress. -/
theorem sendTlk_queues (p : Nat) (dom : Option Nat) (m : TMsg) (w : Work) :
    Queued (w.dev.tlkEgr p dom m) w.dev (M.post (sendTlk p dom m) w).dev :=
  enqueue_queues (x := w.dev.tlkEgr p dom m) rfl rfl

/-- What a message finds as it enters the egress queues. -/
theorem Queued.of_same {x : Egr} {d d' e : Dev} (h : Queued x d e) (hclassq : d.trf.classq = d'.trf.classq) (hshaper : d.trf.shaper = d'.trf.shaper)
    (hlimited : d.trf.limited = d'.trf.limited) (htokens : ∀ n ∈ x.dom, d.tokens n = d'.tokens n) : Queued x d' e := by
  obtain ⟨hnone, hsome⟩ := h
  refine ⟨fun hdom => ?_, fun n hn hothers => ?_⟩
  · rw [← hclassq, ← hshaper]
    exact hnone hdom
  · rw [← hclassq, ← hshaper, ← hlimited, ← htokens n (by simpa using hn)]
    exact hsome n hn (by rw [hshaper]; exact hothers)

theorem sendTlk_emits (p dom : Nat) (m : TMsg) : Emits (Foot [.trf] (shaperRegs dom)) (sendTlk p (some dom) m) := by
  refine enqueue_emits (by simp) (fun n hn a ha => ?_) _ _ _ _
  split at hn
  · cases hn
  · cases hn
    exact ha

/-! ## The answer to a host's request -/

/-- The message that answers a host's request of one line, which has been served sound (R227). -/
def hostAnswer (m : TMsg) (a : HAns) : TMsg :=
  if m.type = 0x01 ∨ m.type = 0x02 then { type := if m.type = 0x01 ∨ a.shared = true then 0x41 else 0x42, len := 1, tag := m.tag, data := [a.data] }
  else if m.type = 0x03 ∨ m.type = 0x06 then { type := 0x43, len := 1, bulk := m.bulk, tag := m.tag, data := [a.data] }
  else { type := 0x44, tag := m.tag, bulk := m.bulk }

/-- An answer without fault, and with the data of a sound line. -/
structure HAns.good (a : HAns) : Prop where
  idx : a.idx = 0
  status : a.status = 0
  detail : a.detail = 0
  poison : a.poison = false

section
variable {w : Work} {p dom : Nat} {m : TMsg} {a : HAns}

/-- Where nothing waits at the slices, the answer shows no load (R222). -/
theorem post_answerTlk (hwaiting : w.dev.home.waiting = []) (hcredits : w.dev.home.credits = []) (ha : a.good) :
    M.post (answerTlk p m (some dom) [a]) w = M.post (sendTlk p (some dom) (hostAnswer m a)) w := by
  have hload : ∀ s, w.dev.load s = 0 := fun s => by simp [Dev.load, Dev.creditsOut, Dev.queueUsed, Dev.atSlice, hwaiting, hcredits]
  have hfault : [a].find? (fun a => decide (a.status ≠ 0)) = none := by simp [ha.status]
  have hmask : poisonMask [a] = 0 := by simp [poisonMask, ha.poison]
  have hfirst : firstPoison [a] = 0 := by simp [firstPoison, ha.poison]
  simp only [answerTlk, post_bind, val_dev, post_dev, hfault, hload, hmask, hfirst, hostAnswer]
  by_cases hread : m.type = 0x01 ∨ m.type = 0x02
  · simp [hread]
  · by_cases hdata : m.type = 0x03 ∨ m.type = 0x06
    · simp [hread, hdata]
    · simp [hread, hdata]

/-- The group of a request of one line ends with the line's answer. -/
theorem post_giveAnswer_host {r : HReq} (hsrc : r.src = .tlk p m) (hdom : r.dom = some dom) (hwaiting : w.dev.home.waiting = [])
    (hcredits : w.dev.home.credits = []) (hgroups : w.dev.home.groups = [⟨r.grp, .tlk p m, 1, []⟩]) (ha : a.good) :
    M.post (giveAnswer r a) w = M.post (sendTlk p (some dom) (hostAnswer m a)) (w.add (.home { w.dev.home with groups := [] })) := by
  have hsorted : (⟨r.grp, .tlk p m, 1, [a]⟩ : HGrp).sorted = [a] := by simp [HGrp.sorted, ha.idx]
  have hanswer := post_answerTlk (w := w.add (.home { w.dev.home with groups := [] })) (p := p) (dom := dom) (m := m) hwaiting hcredits ha
  rw [giveAnswer, hsrc]
  simp only [post_bind, val_dev, post_dev, hgroups, List.find?_cons, beq_self_eq_true, List.nil_append, List.length_singleton, Nat.le_refl, if_true,
    post_modHome, finishGroup, hdom]
  rw [hsorted]
  have hnone : ([⟨r.grp, .tlk p m, 1, []⟩] : List HGrp).filter (fun x => x.id != r.grp) = [] := by simp
  rw [hnone]
  exact hanswer

/-- The slice answers the one request that waits at it. -/
theorem post_serveList_host {r : HReq} {w₁ : Work} (hsrc : r.src = .tlk p m) (hdom : r.dom = some dom) (hval : M.val (tryReq r) w = some a)
    (hpost : M.post (tryReq r) w = w₁) (hwaiting : w₁.dev.home.waiting = [r]) (hcredits : w₁.dev.home.credits = [])
    (hgroups : w₁.dev.home.groups = [⟨r.grp, .tlk p m, 1, []⟩]) (ha : a.good) :
    M.post (serveList [r] [] []) w = M.post (sendTlk p (some dom) (hostAnswer m a)) w₁.answered := by
  have hlast : w₁.dev.home.waiting.erase r = [] := by rw [hwaiting]; simp
  obtain ⟨v, hv⟩ : ∃ v, w₁.add (.home { w₁.dev.home with waiting := [] }) = v := ⟨_, rfl⟩
  have hgive := post_giveAnswer_host (w := v) hsrc hdom (by rw [← hv]; rfl) (by rw [← hv]; exact hcredits) (by rw [← hv]; exact hgroups) ha
  have hanswered : v.add (.home { v.dev.home with groups := [] }) = w₁.answered := by rw [← hv]; rfl
  have hissuer : r.issuer = none := by rw [HReq.issuer, hsrc]
  have hfirst : (decide (512 ≤ (([] : List Nat).filter fun n => stackOf (64 * n) == stackOf (64 * r.line)).length) || ([] : List Nat).contains r.line ||
      false) = false := by simp
  rw [serveList, hissuer]
  simp only [hfirst, Bool.false_eq_true, if_false, post_bind, hval, hpost, post_modHome, hlast, hv, hgive, hanswered, serveList, post_pure]

end

/-- The slices with a request that waits alone. -/
def Work.waitAlone (w : Work) (r : HReq) : Work := w.add (.home { w.dev.home with waiting := [r] })

/-- A request handed to its slice, at which nothing waits, is answered at once. -/
theorem post_submit_host {w w₁ : Work} {r : HReq} (hwaiting : w.dev.home.waiting = [])
    (hserved : M.post (serveList [r] [] []) (w.waitAlone r) = w₁) (hnone : w₁.dev.home.waiting = []) (hcalm : w₁.dev.calm) :
    M.post (submit [r]) w = w₁ := by
  have halone : M.post (modHome fun h => { h with waiting := h.waiting ++ [r] }) w = w.waitAlone r := by
    rw [post_modHome, hwaiting]
    rfl
  rw [submit, post_bind, halone]
  exact post_serveAll hserved hnone hcalm

end Sys2Proof.Machine
end

section
/-! PROOFS. The rows of a host's requests: data, directory state and answer (O29). -/

namespace Sys2Proof.Machine

-- The text is compiled in one process with bounded memory, and each proof elaborated beside the others takes a stack of its own.
set_option Elab.async false

/-! ## The request waits at its slice -/

/-- A host's request waits alone at its slice: but for what the arbiters note, the receive buffers and the request with its group, the device is as
it was. -/
def HostWaits (d : Dev) (p : Nat) (i : TIn) (r : HReq) (e : Dev) : Prop :=
  ∃ l t, e = (Upd.home { d.home.openHost p i with waiting := [r] }).apply ((Upd.trf t).apply ((Upd.links l).apply d))

section
variable {d e : Dev} {p : Nat} {i : TIn} {r : HReq} {n : Nat}

theorem HostWaits.same (h : HostWaits d p i r e) : (∀ a, e.byte a = d.byte a) ∧ (∀ m, e.dirOf m = d.dirOf m) ∧ (∀ m, e.dcSetOf m = d.dcSetOf m) ∧
    (∀ a, e.reg a = d.reg a) ∧ e.now = d.now := by
  obtain ⟨l, t, rfl⟩ := h
  exact ⟨fun _ => rfl, fun _ => rfl, fun _ => rfl, fun _ => rfl, rfl⟩

theorem HostWaits.atRest (h : HostWaits d p i r e) (hfree : d.lineFree n) : e.atRest n := by
  obtain ⟨l, t, rfl⟩ := h
  exact ⟨hfree.serves, hfree.unrepaired, hfree.snoops, hfree.errs, hfree.sound, hfree.unpublished, hfree.atHome⟩

/-- A port that holds the lease of an extent asks for the extent's domain, which the access check lets in (R131, R272). -/
theorem refusal_of_lease {dom addr : Nat} (hlease : d.leaseCheck p addr = .inl dom) (hin : 64 * (addr / 64) < storeEnd) :
    d.refusal (64 * (addr / 64)) (some dom) none = none ∧ dom < 32 := by
  have hextent : extentOf (64 * (addr / 64)) = extentOf addr := by
    simp only [extentOf, Nat.shiftRight_eq_div_pow]
    omega
  unfold Dev.leaseCheck at hlease
  dsimp only at hlease
  split at hlease
  · cases hlease
  · split at hlease
    next hleased =>
      have hdom : d.extDom (extentOf addr) = dom := by injection hlease
      have hstate : ¬ 2 ≤ d.extState (extentOf addr) := by rw [hleased.1]; decide
      refine ⟨?_, hdom ▸ fld_lt ..⟩
      simp only [Dev.refusal, if_neg (Nat.not_le.mpr hin), hextent, if_neg hstate, hdom, ne_eq, not_true_eq_false, if_false]
    next =>
      split at hlease <;> cases hlease

end

/-! ## The registers of egress and of the stacks lie apart -/

theorem not_touch_shaper {dom a : Nat} (hdom : dom < 32) (h : shaperRegs dom a) : ¬ touchRegs a := by
  rintro ⟨k, hk, hreg⟩
  simp only [shaperRegs, A.TRF_SHP_STAT, A.TRF_SHP_HELD_CNT, A.STK_STATUS, A.RIND_ENC_CNT, A.RIND_DEC_CNT] at h hreg
  omega

theorem not_touch_violCfg : ∀ q < 4, ¬ touchRegs (A.TLK_VIOL_CFG q) := by
  rintro q hq ⟨k, hk, hreg⟩
  simp only [A.TLK_VIOL_CFG, A.STK_STATUS, A.RIND_ENC_CNT, A.RIND_DEC_CNT] at hreg
  omega

theorem not_shaper_violCfg {dom : Nat} (hdom : dom < 32) : ∀ q < 4, ¬ shaperRegs dom (A.TLK_VIOL_CFG q) := by
  intro q hq
  simp only [shaperRegs, A.TLK_VIOL_CFG, A.TRF_SHP_STAT, A.TRF_SHP_HELD_CNT]
  omega

/-! ## From the row to the answer -/

/-- The slice orders a host's request as soon as it waits there: what it answers, and the effect on the line. -/
def ServesHost (d : Dev) (p : Nat) (i : TIn) (r : HReq) (a : HAns) (dir : Nat × Nat) (v : Option Line) : Prop :=
  ∀ w : Work, HostWaits d p i r w.dev → M.val (tryReq r) w = some a ∧ HostEffect r.line dir v w.dev (M.post (tryReq r) w).dev

/-- What stands at the slices, on the links and for egress as the answer is sent, once the request has been ordered. -/
structure Answering (d : Dev) (dom : Nat) (dir : Nat × Nat) (n : Nat) (v : Option Line) (e : Dev) : Prop where
  waiting : e.home.waiting = []
  credits : e.home.credits = []
  calm : e.calm
  now : e.now = d.now
  classq : e.trf.classq = d.trf.classq
  shaper : e.trf.shaper = d.trf.shaper
  limited : e.trf.limited = d.trf.limited
  tokens : e.tokens dom = d.tokens dom
  dir : e.dirOf n = dir
  bytes : Leaves n v d e

/-- The answer is sent, and with it the request is done. -/
theorem Answering.sent {d : Dev} {dom n p : Nat} {dir : Nat × Nat} {v : Option Line} {m : TMsg} {w w' : Work} (h : Answering d dom dir n v w.dev)
    (hdom : dom < 32) (hw : M.post (sendTlk p (some dom) m) w = w') :
    (w'.dev.home.waiting = [] ∧ w'.dev.home.credits = [] ∧ w'.dev.calm) ∧
    Queued (d.tlkEgr p (some dom) m) d w'.dev ∧ w'.dev.dirOf n = dir ∧ Leaves n v d w'.dev := by
  have hkeeps := (sendTlk_emits p dom m).changes_post (Changes.refl _ _ w.dev)
  have hqueued := sendTlk_queues p (some dom) m w
  rw [hw] at hkeeps hqueued
  have hhome : w'.dev.home = w.dev.home := hkeeps.parts .home (by simp)
  have hstore : w'.dev.store = w.dev.store := hkeeps.parts .store (by simp)
  have hlinks : w'.dev.links = w.dev.links := hkeeps.parts .links (by simp)
  have hegr : w.dev.tlkEgr p (some dom) m = d.tlkEgr p (some dom) m := by simp only [Dev.tlkEgr, h.now]
  rw [hegr] at hqueued
  refine ⟨⟨by rw [hhome]; exact h.waiting, by rw [hhome]; exact h.credits, calm_of_counts h.calm (fun q hq => hkeeps.regs _ (not_shaper_violCfg hdom q hq))
    fun q => by rw [Dev.link, hlinks]; exact ⟨rfl, rfl⟩⟩, hqueued.of_same h.classq h.shaper h.limited fun n hn => ?_, ?_, ?_⟩
  · have hsame : n = dom := by
      simp only [Dev.tlkEgr] at hn
      split at hn
      · cases hn
      · cases hn; rfl
    rw [hsame, h.tokens]
  · rw [← h.dir]
    simp only [Dev.dirOf, Dev.meta_, hhome, hstore]
  · exact h.bytes.of_bytes (fun _ => rfl) fun a => hkeeps.bytes a not_false

/-- The ordering of the request has touched nothing that its answer meets on its way out. -/
theorem answering_of_served {d : Dev} {p : Nat} {i : TIn} {op : HOp} {dom : Nat} {dir : Nat × Nat} {v : Option Line} {w₁ w₂ : Work}
    (h : d.hostServed p i dom) (htaken : HostTaken d p i w₁)
    (hwaits : HostWaits d p i (d.hostReq p i op (some dom)) (w₁.waitAlone (d.hostReq p i op (some dom))).dev)
    (heffect : HostEffect (i.m.addr / 64) dir v (w₁.waitAlone (d.hostReq p i op (some dom))).dev w₂.dev) :
    Answering d dom dir (i.m.addr / 64) v w₂.answered.dev := by
  obtain ⟨hbytes, -, -, hregs, hnow⟩ := hwaits.same
  have hdom : dom < 32 := (refusal_of_lease h.lease h.line.inStore).2
  obtain ⟨e, he⟩ : ∃ e, (w₁.waitAlone (d.hostReq p i op (some dom))).dev = e := ⟨_, rfl⟩
  have hkept : e.trf = w₁.dev.trf ∧ e.links = w₁.dev.links ∧ e.home.credits = w₁.dev.home.credits := by
    rw [← he]
    exact ⟨rfl, rfl, rfl⟩
  obtain ⟨hetrf, helinks, hecredits⟩ := hkept
  rw [he] at heffect hbytes hregs hnow
  obtain ⟨htouches, hhome⟩ := heffect.handled
  have htrf : w₂.dev.trf = w₁.dev.trf := (htouches.parts .trf (by simp)).trans hetrf
  have hlinks : w₂.dev.links = w₁.dev.links := (htouches.parts .links (by simp)).trans helinks
  have hreg : ∀ a, ¬ touchRegs a → w₂.answered.dev.reg a = d.reg a := fun a ha => (htouches.regs a ha).trans (hregs a)
  refine ⟨rfl, ?_, calm_of_counts h.calm (fun q hq => hreg _ (not_touch_violCfg q hq)) fun q => ?_, ?_, ?_, ?_, ?_, ?_, heffect.dir,
    heffect.bytes.of_bytes hbytes fun _ => rfl⟩
  · obtain ⟨l, t, hdev⟩ := htaken.dev
    have hcredits : w₂.answered.dev.home.credits = w₂.dev.home.credits := rfl
    rw [hcredits, hhome, hecredits, hdev]
    exact h.credits
  · have hlink : w₂.answered.dev.link q = w₁.dev.link q := by
      have hsame : w₂.answered.dev.links = w₂.dev.links := rfl
      rw [Dev.link, hsame, hlinks]
      rfl
    rw [hlink]
    exact htaken.counts q
  · exact (htouches.parts .now (by simp)).trans hnow
  · exact (congrArg TrfSt.classq htrf).trans htaken.classq
  · exact (congrArg TrfSt.shaper htrf).trans htaken.shaper
  · exact (congrArg TrfSt.limited htrf).trans htaken.limited
  · have hstat := hreg (A.TRF_SHP_STAT dom) (not_touch_shaper hdom (.inl rfl))
    simp only [Dev.tokens, Dev.fld, hstat]

section
variable {d : Dev} {p : Nat} {i : TIn} {op : HOp} {dom : Nat} {a : HAns} {dir : Nat × Nat} {v : Option Line}
  (h : d.hostServed p i dom) (hline : OneLine i op)
  (hserves : ServesHost d p i (d.hostReq p i op (some dom)) a dir v) (ha : a.good)
include h hline hserves ha

/-- A host's request for one line, from its port to its answer. -/
theorem hostRequest_answered : ∃ w : Work,
    M.post (hostMsg p i false true (hostRequest p i)) ⟨d, []⟩ = w ∧ d.replay w.log = w.dev ∧
    Queued (d.tlkEgr p (some dom) (hostAnswer (servedMsg i.m) a)) d w.dev ∧ w.dev.dirOf (i.m.addr / 64) = dir ∧ Leaves (i.m.addr / 64) v d w.dev := by
  obtain ⟨r, hr⟩ : ∃ r, r = d.hostReq p i op (some dom) := ⟨_, rfl⟩
  rw [← hr] at hserves
  obtain ⟨w₁, htaken, hrow⟩ := hostRow_taken h hline
  rw [post_takeTlk_free h hline htaken, ← hr] at hrow
  obtain ⟨l, t, hdev⟩ := htaken.dev
  have hwaits : HostWaits d p i r (w₁.waitAlone r).dev := ⟨l, t, by rw [Work.waitAlone, Work.add_dev, hdev]; rfl⟩
  obtain ⟨hval, heffect⟩ := hserves _ hwaits
  obtain ⟨w₂, hw₂⟩ : ∃ w, M.post (tryReq r) (w₁.waitAlone r) = w := ⟨_, rfl⟩
  obtain ⟨w₃, hw₃⟩ : ∃ w, M.post (sendTlk p (some dom) (hostAnswer (servedMsg i.m) a)) w₂.answered = w := ⟨_, rfl⟩
  rw [hw₂] at heffect
  have hdom : dom < 32 := (refusal_of_lease h.lease h.line.inStore).2
  have hhome := heffect.handled.home
  have hanswering : Answering d dom dir (i.m.addr / 64) v w₂.answered.dev := by
    rw [hr] at hwaits heffect
    exact answering_of_served h htaken hwaits heffect
  have hserved : M.post (serveList [r] [] []) (w₁.waitAlone r) = w₃ := by
    obtain ⟨_, _, hwaits⟩ := hwaits
    rw [← hw₃]
    refine post_serveList_host (by rw [hr]; rfl) (by rw [hr]; rfl) hval hw₂ ?_ ?_ ?_ ha
    · rw [hhome, hwaits]; rfl
    · rw [hhome, hwaits]; exact h.credits
    · rw [hhome, hwaits]
      have hgroups : d.home.groups ++ [⟨d.home.nextGrp, .tlk p (servedMsg i.m), 1, []⟩] = [⟨r.grp, .tlk p (servedMsg i.m), 1, []⟩] := by
        rw [h.groups, hr]
        rfl
      exact hgroups
  obtain ⟨⟨hwaiting, hcredits, hcalm⟩, hleaves⟩ := hanswering.sent hdom hw₃
  have hsubmit : M.post (submit [r]) w₁ = w₃ := post_submit_host (by rw [hdev]; exact h.line.waiting) hserved hwaiting hcalm
  rw [hsubmit, post_reserveCredits_idle hcredits, post_checkTlkPorts_calm hcalm] at hrow
  have hlog₂ : d.replay w₂.log = w₂.dev := hw₂ ▸ tryReq_prompt.replay_log (by simp [Work.waitAlone, htaken.logged])
  exact ⟨w₃, hrow, hw₃ ▸ (sendTlk_emits p dom (hostAnswer (servedMsg i.m) a)).replay_log (by simp [Work.answered, hlog₂]), hleaves⟩

end

/-! ## The message of a row -/

theorem lenOk_of_tlkViolation {d : Dev} {p : Nat} {i : TIn} (h : d.tlkViolation p i = none) : tlkLenOk i.m = true := by
  obtain ⟨-, htype⟩ := passed_of_ite_none h
  obtain ⟨-, hclean⟩ := passed_of_ite_none htype
  simpa using (passed_of_ite_none hclean).1

theorem type_of_rowTakes {d : Dev} {p type : Nat} {i : TIn} (h : rowTakes type i = true) (hvalid : d.tlkViolation p i = none) : i.m.type = type := by
  have hhost : hostTypes.contains i.m.type = true := by simpa using (passed_of_ite_none hvalid).1
  simp only [rowTakes, hhost, Bool.and_eq_true, Bool.not_true, Bool.or_false, beq_iff_eq] at h
  exact h.2

theorem fits_of_rowTakes {type : Nat} {i : TIn} (h : rowTakes type i = true) :
    i.m.units.length = tmsgUnits i.m.type i.m.len i.m.poison ∧ i.m.data.length = tmsgData i.m.type i.m.len := by
  simp only [rowTakes, tmsgFits, Bool.and_eq_true, beq_iff_eq] at h
  obtain ⟨⟨⟨⟨⟨-, hunits⟩, hdata⟩, -⟩, -⟩, -⟩ := h
  exact ⟨hunits, hdata⟩

/-- A message of a row for one line. -/
theorem oneLine_of_rowTakes {d : Dev} {p type : Nat} {i : TIn} {op : HOp} (h : rowTakes type i = true) (hvalid : d.tlkViolation p i = none)
    (htype : type ∈ [0x01, 0x02, 0x03, 0x04, 0x05, 0x06, 0x07, 0x08]) (hlen : i.m.len ≤ 1) (hops : tlkOps (servedMsg i.m) = [op]) : OneLine i op := by
  have hsame := type_of_rowTakes h hvalid
  obtain ⟨hunits, hdata⟩ := fits_of_rowTakes h
  have hfew : ∀ type ∈ [0x01, 0x02, 0x03, 0x04, 0x05, 0x06, 0x07, 0x08], ∀ len ≤ 1, ∀ b,
      tmsgUnits type len b ≤ 1 ∧ tmsgData type len ≤ 1 := by decide
  obtain ⟨hu, hd⟩ := hfew type htype i.m.len hlen i.m.poison
  rw [hsame] at hunits hdata
  exact ⟨by rw [hsame]; exact htype, hops, hlen, by rw [tmsgSize]; omega⟩

/-- A row of a host's request completes with the effect and the answer that its slice gives. -/
theorem completes_host {s : State} {p : Fin 4} {i : TIn} {op : HOp} {dom type : Nat} {c : Instr} {a : HAns} {m : TMsg} {dir : Nat × Nat}
    {v : Option Line} (hexec : exec c s = hostRow type p i s (hostRequest p i)) (hqueued : (type != 0x22) = true) (htakes : rowTakes type i = true)
    (h : s.dev.hostServed p i dom) (hline : OneLine i op) (hserves : ServesHost s.dev p i (s.dev.hostReq p i op (some dom)) a dir v) (ha : a.good)
    (hanswer : hostAnswer (servedMsg i.m) a = m) :
    Completes c s fun t => Queued (s.dev.tlkEgr p (some dom) m) s.dev t.dev ∧ t.dev.dirOf (i.m.addr / 64) = dir ∧
      Leaves (i.m.addr / 64) v s.dev t.dev := by
  obtain ⟨w, hpost, hlog, hleaves⟩ := hostRequest_answered h hline hserves ha
  rw [hanswer] at hleaves
  refine completes_runIf (m := hostMsg p i false true (hostRequest p i)) ?_ htakes hpost hlog hleaves
  rw [hexec, hostRow, hqueued]

/-! ## What the slice does with each request -/

section
variable {d : Dev} {p : Nat} {i : TIn} {op : HOp} {dom : Nat} (h : d.hostServed p i dom)
include h

theorem hostMeets {w : Work} (hline : OneLine i op) (hw : HostWaits d p i (d.hostReq p i op (some dom)) w.dev)
    (hneed : ∀ e : Dev, e.dirOf (i.m.addr / 64) = d.dirOf (i.m.addr / 64) → e.snoopsFor (d.hostReq p i op (some dom)) = some [])
    (hroom : op = .rdS ∨ op = .rdO → (d.dcSetOf (i.m.addr / 64)).length < 16) :
    HostMeets w.dev p (servedMsg i.m) (d.hostReq p i op (some dom)) where
  src := rfl
  len := hline.len
  allowed := by
    obtain ⟨l, t, hdev⟩ := hw
    rw [hdev]
    exact (refusal_of_lease h.lease h.line.inStore).1
  rest := hw.atRest h.line
  need e he := hneed e (he.trans (hw.same.2.1 _))
  room hop := by
    rw [hw.same.2.2.1]
    exact hroom hop

/-- A request for a line that no host holds. -/
theorem servesHost_free {a : HAns} {dir : Nat × Nat} {v : Option Line} (hline : OneLine i op) (hwb : ∀ x, op ≠ .wb x)
    (hdir : d.dirOf (i.m.addr / 64) = (0, 0)) (hroom : op = .rdS ∨ op = .rdO → (d.dcSetOf (i.m.addr / 64)).length < 16)
    (hidx : a.idx = 0) (hdetail : a.detail = 0)
    (happly : ∀ (r : HReq) (w : Work), r.op = op → r.src = .tlk p (servedMsg i.m) → w.dev.writable r.line r.dom r.cls →
      w.dev.line r.line = d.line (i.m.addr / 64) → (w.dev.dcSetOf r.line).length = (d.dcSetOf (i.m.addr / 64)).length →
      M.val (applyReq r) w = a ∧ HostEffect r.line dir v w.dev (M.post (applyReq r) w).dev) :
    ServesHost d p i (d.hostReq p i op (some dom)) a dir v := by
  intro w hw
  obtain ⟨hbytes, hdirs, hsets, -⟩ := hw.same
  have hmeets := hostMeets h hline hw (fun e he => snoopsFor_unheld rfl hwb (he.trans hdir)) hroom
  have hsame : ({ a with idx := (d.hostReq p i op (some dom)).idx } : HAns) = a := by
    cases a
    simp only at hidx
    rw [hidx]
    rfl
  rw [← hsame]
  refine tryReq_host hmeets hdetail fun w' hlines hsteady => ?_
  refine happly _ w' rfl rfl ?_ (line_of_bytes (fun b => (hlines.bytes b).trans (hbytes b)) _) (by rw [hlines.dcSetOf, hsets]; rfl)
  exact (hmeets.rest.writable hmeets.allowed ((hdirs _).trans hdir)).steady hsteady

/-- A request of the line's owner, who gives it up. -/
theorem servesHost_owner {v : Option Line} (hline : OneLine i op) (hbulk : (servedMsg i.m).bulk = false) (hop : (∃ x, op = .wb x) ∨ op = .evict)
    (hdir : d.dirOf (i.m.addr / 64) = (2, 2 ^ p))
    (happly : ∀ (r : HReq) (w : Work), r.op = op → r.src.port = some p → w.dev.atRest r.line → 64 * r.line < storeEnd →
      w.dev.dirOf r.line = (2, 2 ^ p) → M.val (applyReq r) w = { idx := 0 } ∧ HostEffect r.line (0, 0) v w.dev (M.post (applyReq r) w).dev) :
    ServesHost d p i (d.hostReq p i op (some dom)) { idx := 0 } (0, 0) v := by
  intro w hw
  have hport : (d.hostReq p i op (some dom)).src.port = some p := by simp [Dev.hostReq, Src.port, hbulk]
  have hroom : op = .rdS ∨ op = .rdO → (d.dcSetOf (i.m.addr / 64)).length < 16 := by
    rintro (rfl | rfl) <;> simp at hop
  have hmeets := hostMeets h hline hw (fun e he => snoopsFor_owner hport hop (he.trans hdir)) hroom
  exact tryReq_host hmeets rfl fun w' hlines hsteady =>
    happly _ w' rfl hport (hmeets.rest.steady hsteady) h.line.inStore ((hlines.dirOf _).trans ((hw.same.2.1 _).trans hdir))

end

/-! ## The rows -/

theorem Dev.writable.atRest {d : Dev} {n : Nat} {dom cls : Option Nat} (h : d.writable n dom cls) : d.atRest n :=
  ⟨h.serves, h.unrepaired, h.snoops, h.errs, h.sound, h.unpublished, h.atHome⟩

section
variable {s : State} {p : Fin 4} {i : TIn} {dom : Nat} (h : s.dev.hostServed p i dom)
include h

theorem rdS_answers (htakes : rowTakes 0x01 i = true) (hdir : s.dev.dirOf (i.m.addr / 64) = (0, 0))
    (hroom : (s.dev.dcSetOf (i.m.addr / 64)).length < 16) : Completes (.rdS p i) s fun t =>
      Queued (s.dev.tlkEgr p (some dom) { type := 0x41, len := 1, tag := i.m.tag, data := [s.dev.line (i.m.addr / 64)] }) s.dev t.dev ∧
      t.dev.dirOf (i.m.addr / 64) = (1, 2 ^ p.val) ∧ Leaves (i.m.addr / 64) none s.dev t.dev := by
  have htype := type_of_rowTakes htakes h.valid
  have hlen : i.m.len = 0 := by simpa [tlkLenOk, htype, isMulti] using lenOk_of_tlkViolation h.valid
  have hline : OneLine i .rdS := oneLine_of_rowTakes htakes h.valid (by decide) (by omega) (by simp [tlkOps, servedMsg, htype])
  refine completes_host (a := { idx := 0, shared := true, data := s.dev.line (i.m.addr / 64) }) rfl rfl htakes h hline
    (servesHost_free h hline (by simp) hdir (fun _ => hroom) rfl rfl fun r w hop hsrc hw hdata hset => ?_) ⟨rfl, rfl, rfl, rfl⟩
    (by simp [hostAnswer, servedMsg, htype])
  rw [← hdata]
  exact applyReq_rdS hw.atRest hop (by simp [hsrc, Src.port, servedMsg, htype]) p.isLt hw.unheld (hset.trans_lt hroom)

theorem rdO_answers (htakes : rowTakes 0x02 i = true) (hdir : s.dev.dirOf (i.m.addr / 64) = (0, 0))
    (hroom : (s.dev.dcSetOf (i.m.addr / 64)).length < 16) : Completes (.rdO p i) s fun t =>
      Queued (s.dev.tlkEgr p (some dom) { type := 0x42, len := 1, tag := i.m.tag, data := [s.dev.line (i.m.addr / 64)] }) s.dev t.dev ∧
      t.dev.dirOf (i.m.addr / 64) = (2, 2 ^ p.val) ∧ Leaves (i.m.addr / 64) none s.dev t.dev := by
  have htype := type_of_rowTakes htakes h.valid
  have hlen : i.m.len = 0 := by simpa [tlkLenOk, htype, isMulti] using lenOk_of_tlkViolation h.valid
  have hline : OneLine i .rdO := oneLine_of_rowTakes htakes h.valid (by decide) (by omega) (by simp [tlkOps, servedMsg, htype])
  refine completes_host (a := { idx := 0, data := s.dev.line (i.m.addr / 64) }) rfl rfl htakes h hline
    (servesHost_free h hline (by simp) hdir (fun _ => hroom) rfl rfl fun r w hop hsrc hw hdata hset => ?_) ⟨rfl, rfl, rfl, rfl⟩
    (by simp [hostAnswer, servedMsg, htype])
  rw [← hdata]
  exact applyReq_rdO hw.atRest hop (by simp [hsrc, Src.port, servedMsg, htype]) p.isLt (hset.trans_lt hroom)

theorem rdU_answers (htakes : rowTakes 0x03 i = true) (hlen : i.m.len ≤ 1) (hdir : s.dev.dirOf (i.m.addr / 64) = (0, 0)) :
    Completes (.rdU p i) s fun t =>
      Queued (s.dev.tlkEgr p (some dom) { type := 0x43, len := 1, bulk := i.m.bulk, tag := i.m.tag, data := [s.dev.line (i.m.addr / 64)] }) s.dev t.dev ∧
      t.dev.dirOf (i.m.addr / 64) = (0, 0) ∧ Leaves (i.m.addr / 64) none s.dev t.dev := by
  have htype := type_of_rowTakes htakes h.valid
  have hone : max 1 i.m.len = 1 := by omega
  have hline : OneLine i (.rdU (!(servedMsg i.m).bulk)) :=
    oneLine_of_rowTakes htakes h.valid (by decide) hlen (by simp [tlkOps, servedMsg, htype, tlkLines, isMulti, hone])
  refine completes_host (a := { idx := 0, data := s.dev.line (i.m.addr / 64) }) rfl rfl htakes h hline
    (servesHost_free h hline (by simp) hdir (by simp) rfl rfl fun r w hop _ hw hdata _ => ?_) ⟨rfl, rfl, rfl, rfl⟩ (by simp [hostAnswer, servedMsg, htype])
  rw [← hdata]
  exact applyReq_rdU hw.atRest hop hw.unheld

theorem wrU_answers {v : Line} (htakes : rowTakes 0x04 i = true) (hdata : i.m.data = [v]) (hdir : s.dev.dirOf (i.m.addr / 64) = (0, 0)) :
    Completes (.wrU p i) s fun t => Queued (s.dev.tlkEgr p (some dom) { type := 0x44, bulk := i.m.bulk, tag := i.m.tag }) s.dev t.dev ∧
      t.dev.dirOf (i.m.addr / 64) = (0, 0) ∧ Leaves (i.m.addr / 64) (some v) s.dev t.dev := by
  have htype := type_of_rowTakes htakes h.valid
  have hlen : i.m.len = 1 := by simpa [tmsgData, htype, hdata, eq_comm] using (fits_of_rowTakes htakes).2
  have hline : OneLine i (.wr (BitVec.allOnes 64) v 0) :=
    oneLine_of_rowTakes htakes h.valid (by decide) (by omega) (by simp only [tlkOps, servedMsg, htype, hdata]; rfl)
  refine completes_host (a := { idx := 0 }) rfl rfl htakes h hline
    (servesHost_free h hline (by simp) hdir (by simp) rfl rfl fun r w hop _ hw _ _ => ?_) ⟨rfl, rfl, rfl, rfl⟩ (by simp [hostAnswer, servedMsg, htype])
  obtain ⟨hval, hpost⟩ := applyReq_write hw hop
  rw [hval, hpost]
  exact ⟨rfl, writeDone_effect_whole hw.inStore⟩

theorem wrUp_answers {v : Line} {u : BitVec 128} (htakes : rowTakes 0x05 i = true) (hdata : i.m.data = [v]) (hunits : i.m.units = [u])
    (hdir : s.dev.dirOf (i.m.addr / 64) = (0, 0)) :
    Completes (.wrUp p i) s fun t => Queued (s.dev.tlkEgr p (some dom) { type := 0x44, tag := i.m.tag }) s.dev t.dev ∧
      t.dev.dirOf (i.m.addr / 64) = (0, 0) ∧
      Leaves (i.m.addr / 64) (some (mergeLine (s.dev.line (i.m.addr / 64)) v (u.setWidth 64))) s.dev t.dev := by
  have htype := type_of_rowTakes htakes h.valid
  have hlen : i.m.len = 1 := by simpa [tmsgData, htype, hdata, eq_comm] using (fits_of_rowTakes htakes).2
  have hline : OneLine i (.wr (u.setWidth 64) v 0) :=
    oneLine_of_rowTakes htakes h.valid (by decide) (by omega) (by simp [tlkOps, servedMsg, htype, hdata, hunits])
  refine completes_host (a := { idx := 0 }) rfl rfl htakes h hline
    (servesHost_free h hline (by simp) hdir (by simp) rfl rfl fun r w hop _ hw hdata _ => ?_) ⟨rfl, rfl, rfl, rfl⟩ (by simp [hostAnswer, servedMsg, htype])
  obtain ⟨hval, hpost⟩ := applyReq_write hw hop
  rw [hval, hpost, ← hdata]
  exact ⟨rfl, writeDone_effect hw.inStore⟩

/-- The request of a host's atomic with its operand block (R307). -/
def atomOp (off : Nat) (o : Line) : HOp := .atom off (le o 0 1) (le o 1 1) (BitVec.ofNat 128 (le o 16 16)) (BitVec.ofNat 128 (le o 32 16))

/-- What a host's atomic returns: the value of its operand before (R307). -/
def atomOld (off : Nat) (o v : Line) : Line := BitVec.ofNat 512 (le v off (2 ^ le o 1 1))

theorem tlkAtom_answers {o : Line} (htakes : rowTakes 0x06 i = true) (hdata : i.m.data = [o]) (hdir : s.dev.dirOf (i.m.addr / 64) = (0, 0)) :
    Completes (.tlkAtom p i) s fun t =>
      Queued (s.dev.tlkEgr p (some dom) { type := 0x43, len := 1, tag := i.m.tag, data := [atomOld (i.m.addr % 64) o (s.dev.line (i.m.addr / 64))] })
        s.dev t.dev ∧
      t.dev.dirOf (i.m.addr / 64) = (0, 0) ∧ Leaves (i.m.addr / 64) (some (atomOn (i.m.addr % 64) (le o 0 1) (le o 1 1)
        (BitVec.ofNat 128 (le o 16 16)) (BitVec.ofNat 128 (le o 32 16)) (s.dev.line (i.m.addr / 64)))) s.dev t.dev := by
  have htype := type_of_rowTakes htakes h.valid
  have hlen : i.m.len = 1 := by simpa [tmsgData, htype, hdata, eq_comm] using (fits_of_rowTakes htakes).2
  have hline : OneLine i (atomOp (i.m.addr % 64) o) :=
    oneLine_of_rowTakes htakes h.valid (by decide) (by omega) (by simp [tlkOps, servedMsg, htype, hdata, atomOp])
  refine completes_host (a := { idx := 0, data := atomOld (i.m.addr % 64) o (s.dev.line (i.m.addr / 64)) }) rfl rfl htakes h
    hline (servesHost_free h hline (by simp [atomOp]) hdir (by simp [atomOp]) rfl rfl fun r w hop _ hw hdata _ => ?_) ⟨rfl, rfl, rfl, rfl⟩
    (by simp [hostAnswer, servedMsg, htype])
  rw [← hdata, val_applyReq_atom hw.atRest hop, post_applyReq_atom hw hop]
  exact ⟨rfl, writeDone_effect_whole hw.inStore⟩

theorem wb_answers {v : Line} (htakes : rowTakes 0x07 i = true) (hdata : i.m.data = [v]) (hdir : s.dev.dirOf (i.m.addr / 64) = (2, 2 ^ p.val)) :
    Completes (.wb p i) s fun t => Queued (s.dev.tlkEgr p (some dom) { type := 0x44, tag := i.m.tag }) s.dev t.dev ∧
      t.dev.dirOf (i.m.addr / 64) = (0, 0) ∧ Leaves (i.m.addr / 64) (some v) s.dev t.dev := by
  have htype := type_of_rowTakes htakes h.valid
  have hlen : i.m.len = 1 := by simpa [tmsgData, htype, hdata, eq_comm] using (fits_of_rowTakes htakes).2
  have hline : OneLine i (.wb v) := oneLine_of_rowTakes htakes h.valid (by decide) (by omega) (by simp [tlkOps, servedMsg, htype, hdata])
  refine completes_host (a := { idx := 0 }) rfl rfl htakes h hline
    (servesHost_owner h hline (by simp [servedMsg, htype]) (.inl ⟨v, rfl⟩) hdir fun r w hop _ hw hin _ => ?_) ⟨rfl, rfl, rfl, rfl⟩
    (by simp [hostAnswer, servedMsg, htype])
  obtain ⟨hval, hpost⟩ := applyReq_wb hw hop
  rw [hval, hpost]
  exact ⟨rfl, writeDone_effect_whole hin⟩

theorem evict_answers (htakes : rowTakes 0x08 i = true) (hdir : s.dev.dirOf (i.m.addr / 64) = (2, 2 ^ p.val)) :
    Completes (.evict p i) s fun t => Queued (s.dev.tlkEgr p (some dom) { type := 0x44, tag := i.m.tag }) s.dev t.dev ∧
      t.dev.dirOf (i.m.addr / 64) = (0, 0) ∧ Leaves (i.m.addr / 64) none s.dev t.dev := by
  have htype := type_of_rowTakes htakes h.valid
  have hlen : i.m.len = 0 := by simpa [tlkLenOk, htype, isMulti] using lenOk_of_tlkViolation h.valid
  have hline : OneLine i .evict := oneLine_of_rowTakes htakes h.valid (by decide) (by omega) (by simp [tlkOps, servedMsg, htype])
  refine completes_host (a := { idx := 0 }) rfl rfl htakes h hline
    (servesHost_owner h hline (by simp [servedMsg, htype]) (.inr rfl) hdir fun r w hop hport _ _ hheld => applyReq_evict hop hport hheld)
    ⟨rfl, rfl, rfl, rfl⟩ (by simp [hostAnswer, servedMsg, htype])

end

/-- Settles O29, request by request: each goes through the idle arbiter to its slice, which orders it at once and answers it. -/
theorem hostRequests : Obligations.HostRequests := by
  intro s p i dom
  dsimp only
  intro h
  refine ⟨fun htakes hdir hroom => rdS_answers h htakes hdir hroom, fun htakes hdir hroom => rdO_answers h htakes hdir hroom,
    fun htakes hlen hdir => rdU_answers h htakes hlen hdir, fun v htakes hdata hdir => wrU_answers h htakes hdata hdir,
    fun v u htakes hdata hunits hdir => wrUp_answers h htakes hdata hunits hdir, fun o htakes hdata hdir => ?_,
    fun v htakes hdata hdir => wb_answers h htakes hdata hdir, fun htakes hdir => evict_answers h htakes hdir⟩
  have hatom := tlkAtom_answers h htakes hdata hdir
  simpa only [Leaves, atomOn, atomOld, toNat_operand] using hatom

end Sys2Proof.Machine
end
